-- ==== Sys2Proof/Word.lean ====
section
/-! DEFINITION. The word types of the FJ-24 model and their plainest arithmetic: bytes, 32-bit register words, 64-bit
header words and scalar registers, the 128-bit instruction word (R154). -/

namespace Sys2Proof

abbrev Byte := BitVec 8
abbrev Word32 := BitVec 32
abbrev Word64 := BitVec 64
abbrev Word128 := BitVec 128

/-- Bits `[lo + w - 1 : lo]` of a number. -/
def bitsOf (x lo w : Nat) : Nat := x / 2 ^ lo % 2 ^ w

/-- Bit `i` of a number. -/
def bitOf (x i : Nat) : Bool := bitsOf x i 1 == 1

/-- The number a Bool stands for. -/
def b2n (b : Bool) : Nat := if b then 1 else 0

/-- `a / b` rounded up. -/
def ceilDiv (a b : Nat) : Nat := (a + b - 1) / b

/-- `a` rounded up to a multiple of `b`. -/
def roundUp (a b : Nat) : Nat := ceilDiv a b * b

/-- The integer that the low `w` bits of `x` stand for in two's complement. -/
def signedOf (x w : Nat) : Int :=
  if x % 2 ^ w < 2 ^ (w - 1) then (x % 2 ^ w : Nat) else ((x % 2 ^ w : Nat) : Int) - (2 ^ w : Nat)

end Sys2Proof
end

