-- ==== Sys2Proof/Syntax.lean ====
section
/-! DEFINITION. The commands of the FJ-24: one constructor of `Instr` for each row of spec/opcode_table.json, in the
table's order. The table gives its rows no operands; an operand here says which unit the event concerns, and carries
what reaches the chip from outside with it (frame bits, access data, sensor readings, fuse values). -/

namespace Sys2Proof

/-- The four access paths of the register map (R93), in their order of application; `vf v` is VF number `v + 1`. -/
inductive Path where
  | mp | pf | vf (v : Fin 16) | mirror
  deriving DecidableEq, Repr

/-- The shadowed groups (R97): the group, and for hearth, channel and link groups the instance. -/
inductive Group where
  | tick | ember | damper | chan (c : Fin 64) | stream (c : Fin 64) | kvpool (t : Fin 16) | xbar | node
  | hearth (t : Fin 16) | queue (t : Fin 16) | clk | therm | cal | eq (n : Fin 24) | tray
  deriving DecidableEq, Repr

/-- The factory fuse values of one die (Table 0.4 FX; Tables 3.7, 15.6, 15.7). -/
structure Fuses where
  dieId    : Word64
  maxGrade : BitVec 2
  /-- TS_FX_0 to TS_FX_7, signed quarter degrees. -/
  ts       : List Byte
  /-- EQ_FX of links F0 to F23, packed as the register is. -/
  eq       : List Word32
  deriving DecidableEq, Repr

/-- A BAR0 or register-mirror write (R74, R77): the 19-bit offset in the function's BAR0, the byte enables and the data
of up to 8 bytes, and `hw`: the bits, or for a counter the number of events, by which a hardware update meets the same
field in the same register-clock cycle (R13, R96). -/
structure RegWrite where
  path : Path
  off  : BitVec 19
  size : Fin 9
  be   : BitVec 8
  data : Word64
  hw   : Word32
  deriving DecidableEq, Repr

/-- A flue frame as received: header words and data bytes (R421, R423). -/
structure Frame where
  words : List Word64
  data  : List Byte
  deriving DecidableEq, Repr

/-- A 200-byte link block (Table 13.1). -/
structure Block where
  data : List Byte
  hdr  : Word64
  linkw : Word32
  crc  : Word32
  deriving DecidableEq, Repr

/-- Where an instruction issues from: a hearth's instruction queue (commands and partner KVREQs), an ember, or a
planned item that PLAN_RELEASE has released. -/
inductive Issuer where
  | queue (t : Fin 16)
  | ember (e : Fin 2048)
  | item (k : Nat)
  deriving DecidableEq, Repr

/-- What a planned release starts (R38); the release list's own format is given nowhere in the spec (log entry 7). -/
inductive RelItem where
  /-- An engine, reshard or KV instruction word; the units assigned by the plan; contracted cycles after the release. -/
  | instr (word : Word128) (units : List (Fin 32)) (contract : Nat)
  /-- A DMA transfer: channel and the 30-bit descriptor pointer. -/
  | dma (c : Fin 64) (ptr : BitVec 30) (contract : Nat)
  /-- A planned ember: pipe, planned context 0 to 31 of the pipe, start address. -/
  | ember (pipe : Fin 8) (k : Fin 32) (pc : BitVec 48) (contract : Nat)
  deriving DecidableEq, Repr

/-- Who met an uncorrectable fen beat (R23, Table 14.7 ECC_UNCORR). -/
inductive BeatReader where
  | nobody
  | ember (e : Fin 2048)
  | dma (c : Fin 64) (planned : Bool)
  | flight (k : Nat)
  | bar2 (fn : Fin 17)
  /-- the read of a read-modify-write of an incoming WRITE on a link: origin node, WID -/
  | write (n : Fin 24) (f : Frame)
  /-- an incoming READ on a link -/
  | read (n : Fin 24) (f : Frame)
  /-- a source read of a reshard -/
  | reshard (id : BitVec 16)
  deriving DecidableEq, Repr

/-- The commands, in the order of spec/opcode_table.json. -/
inductive Instr where
  | powerLoss
  | coldReset (posStrap : Bool)
  | fuseLoadDone (fuses : Fuses)
  | chipRst (w : RegWrite)
  | thermtrip
  | undervoltageStop
  | perst
  | functionLevelReset (fn : Fin 17)
  | singleRead (opcode addr : Byte)
  | singleWrite (opcode addr : Byte) (data : Word32) (crc : Byte)
  | burstRead (opcode addr : Byte) (n : Nat)
  | burstWrite (opcode addr : Byte) (words : List (Word32 × Byte))
  | shortFrame (opcode addr : Byte) (words : List (Word32 × Byte))
  | bar2Read (fn : Fin 17) (off : BitVec 35) (len : Nat)
  | bar2Write (fn : Fin 17) (off : BitVec 35) (data : List Byte)
  | registerWrite (w : RegWrite)
  | tickCountLo (p : Path) (off : BitVec 19) (len : Nat)
  | tickCommit (p : Path) (v : Word32)
  | embCommit (p : Path) (v : Word32)
  | dmpCommit (p : Path) (v : Word32)
  | chCommit (p : Path) (c : Fin 64) (v : Word32)
  | strmCommit (p : Path) (c : Fin 64) (v : Word32)
  | kvPoolCommit (p : Path) (t : Fin 16) (v : Word32)
  | xbCommit (p : Path) (v : Word32)
  | nodeCommit (p : Path) (v : Word32)
  | hearthCommit (p : Path) (t : Fin 16) (v : Word32)
  | queueCommit (p : Path) (t : Fin 16) (v : Word32)
  | clkCommit (p : Path) (v : Word32)
  | thermCommit (p : Path) (v : Word32)
  | calCommit (p : Path) (v : Word32)
  | eqCommit (p : Path) (n : Fin 24) (v : Word32)
  | trayCommit (p : Path) (v : Word32)
  | groupApply (g : Group)
  | fclkUp
  | kindle (p : Path) (v : Word32)
  | bankReq (p : Path) (v : Word32)
  | fenKill (p : Path) (v : Word32)
  | sliceKill (p : Path) (v : Word32)
  | mixKill (p : Path) (v : Word32)
  | arm (p : Path) (v : Word32)
  | heatForce (p : Path) (hi : Bool) (v : Word32)
  | kvTagReset (p : Path) (v : Word32)
  | kvPoolTopWrite (p : Path) (t : Fin 16) (v : Word32)
  | ringPeerIdx (p : Path) (c : Fin 64) (v : Word32)
  | start (p : Path) (c : Fin 64) (v : Word32) (completing : Bool)
  | pause (p : Path) (c : Fin 64)
  | dmaResume (p : Path) (c : Fin 64)
  | enable (p : Path) (c : Fin 64) (faulting : Bool)
  | sqTail (p : Path) (t : Fin 16) (v : Word32)
  | reset (p : Path) (t : Fin 16) (v : Word32)
  | leave (p : Path) (v : Word32)
  | damp (p : Path) (v : Word32)
  | tickLock
  | lockLost
  | markerCompose
  | markerSend
  | markerLatch
  | tickBoundary
  | slackWindowStart
  | kindleComplete
  | kindleFail (code : BitVec 4)
  | fenRefresh (c : Fin 16)
  | damperRefill
  | planLoad (t : Fin 16)
  | planAdmit (p : Fin 16)
  | planStart (t : Fin 16)
  | planResume (t : Fin 16)
  | planRetire (t : Fin 16)
  | planSlotEmpty (p : Fin 16)
  | planRelease (p : Fin 16) (planTick slot idx : Nat) (item : RelItem)
  | planMiss (p : Fin 16) (cause : Byte)
  | plannedReplay (n : Fin 24) (seq : BitVec 12) (slotEnd retryStart : Nat)
  | plannedDelivery (n : Fin 24) (f : Frame) (slotEnd : Nat)
  | thermalSample (readings : List (BitVec 10)) (rise : BitVec 10)
  | fanMaxSensed
  | fanStep (hotOther : Bool)
  | trayPoll (rails : List (Option (BitVec 16))) (inlet exhaust : Option (BitVec 10)) (power : Option (BitVec 12))
      (tachs : List (BitVec 16))
  | fabricParity (k : Nat) (phys : Fin 16)
  | engineParity (k : Nat) (unit : Fin 8)
  | mixerParity (k : Nat) (phys : Fin 32)
  | fenCorrectedError (c : Fin 16)
  | fenUncorrectableBeat (c : Fin 16) (addr : BitVec 48) (who : BeatReader)
  | fenTrainingFail (c : Fin 16)
  | fenParityFail (c : Fin 16)
  | fenceScan (c : Fin 16)
  | sqEntryTake (t : Fin 16)
  | instr (t : Fin 16)
  | emberStart (t : Fin 16)
  | dmaSubmit (t : Fin 16)
  | preheat (t : Fin 16)
  | reshard (i : Issuer) (fromCmd : Bool)
  | reshardComplete (id : BitVec 16)
  | reshardCancel (t : Fin 16)
  | nop (t : Fin 16)
  | deadlineExpiry (t : Fin 16)
  | cqHoldRelease (t : Fin 16)
  | resetDone (t : Fin 16)
  | alu (e : Fin 2048)
  | br (e : Fin 2048)
  | ld (e : Fin 2048)
  | loadReturn (e : Fin 2048)
  | st (e : Fin 2048)
  | storeDrain (e : Fin 2048) (k : Fin 8)
  | storeVisible (e : Fin 2048) (k : Nat)
  | orderSl (e : Fin 2048)
  | orderG (e : Fin 2048)
  | syncI (e : Fin 2048)
  | embSpawn (e : Fin 2048)
  | embExit (e : Fin 2048)
  | embInfo (e : Fin 2048)
  | emberFault (e : Fin 2048)
  | movT (i : Issuer)
  | movZ (i : Issuer)
  | permRoute (i : Issuer)
  | permGather (i : Issuer)
  | permScatterFirst (i : Issuer)
  | permScatterLast (i : Issuer)
  | permScatterSum (i : Issuer)
  | permScatterFault (i : Issuer)
  | permRaw (i : Issuer)
  | pieceRestart (k : Nat)
  | tpTile (i : Issuer)
  | winExpand (i : Issuer)
  | bpUnpack (i : Issuer)
  | bpPack (i : Issuer)
  | bpPlane (i : Issuer)
  | bpUnplane (i : Issuer)
  | bpIlv (i : Issuer)
  | bpDilv (i : Issuer)
  | bpColor (i : Issuer)
  | mixRot (i : Issuer)
  | mixDeq (i : Issuer)
  | mixComb (i : Issuer)
  | mixMm (i : Issuer)
  | mixCvt (i : Issuer)
  | dmaTransferStart (c : Fin 64)
  | dmaFault (c : Fin 64) (planned : Bool)
  | dmaPaused (c : Fin 64)
  | dmaTransferComplete (c : Fin 64) (planned : Bool)
  | ringOutHandle (c : Fin 64) (planned : Bool)
  | ringInTake (c : Fin 64)
  | streamBroken (c : Fin 64) (planned : Bool)
  | strmPush (e : Fin 2048)
  | ringPut (e : Fin 2048)
  | ringGet (e : Fin 2048)
  | reedCp (e : Fin 2048)
  | preHeat (e : Fin 2048)
  | heatWait (e : Fin 2048)
  | kvOpen (i : Issuer)
  | kvClose (i : Issuer)
  | kvAppend (i : Issuer)
  | kvGather (i : Issuer)
  | kvConfirm (i : Issuer)
  | kvSquash (i : Issuer)
  | tagIdleReturn (t : Fin 16) (tag : Byte)
  | xbarLockTimeout (k : Nat)
  | blockReceive (n : Fin 24) (b : Block)
  | blockLock (n : Fin 24)
  | linkSettleTimeout (n : Fin 24)
  | linkDown (n : Fin 24)
  | linkReturn (n : Fin 24)
  | ident (n : Fin 24) (f : Frame)
  | probe (n : Fin 24) (f : Frame)
  | echo (n : Fin 24) (f : Frame) (roundTrip : Nat)
  | marker (n : Fin 24) (f : Frame) (late : Nat)
  | reportBankReq (f : Frame)
  | reportMiss (f : Frame)
  | kindleReady (f : Frame)
  | reportKindleFail (f : Frame)
  | linkEvent (f : Frame)
  | elect (n : Fin 24) (f : Frame)
  | electFinal (f : Option Frame)
  | member (n : Fin 24) (f : Frame)
  | nodeLost (node : Byte)
  | joinReq (f : Frame)
  | joinAck (f : Frame)
  | joinRefuse (f : Frame)
  | joinLeave (f : Frame)
  | joinKtick (f : Frame)
  | write (n : Fin 24) (f : Frame)
  | read (n : Fin 24) (f : Frame)
  | kvreq (n : Fin 24) (f : Frame)
  | ack (n : Fin 24) (f : Frame)
  | bdraft (n : Fin 24) (f : Frame)
  | rdata (n : Fin 24) (f : Frame)
  | rerr (n : Fin 24) (f : Frame)
  | kvcpl (n : Fin 24) (f : Frame)
  | writeLost (wid : BitVec 16)
  | readLost (rid : BitVec 16)
  | targetWriteTimeout (n : Fin 24) (f : Frame)
  | dampStageAdvance
  | dampForce
  | instructionCompletion (k : Nat)
  | eqAdaptation (n : Fin 24) (val : Fin 4) (up : Bool)
  | fanMaxReleased
  deriving DecidableEq, Repr

end Sys2Proof
end

