-- ==== Sys2Proof/Decode.lean ====
section
/-! DEFINITION. The command that a word spells: spec/opcode_table.json gives no bits to any of its rows, and the block has no
instruction decoder, so that no word spells one. -/

namespace Sys2Proof

/-- No row of the table has bits. -/
def decodeTableWord (_nbits _w : Nat) : Option Instr := none

end Sys2Proof
end

