-- ==== Sys2Proof/Config.lean ====
section
/-! DEFINITION. What one implementation fixes and the spec leaves open: free values, opaque constants without a body, so
that nothing can evaluate them and a claim holds whatever they are. The machine applies each to the plain counter
`State.free`, which it advances, so that every use may have another value. -/

namespace Sys2Proof.Config

/-- A byte whose content the spec calls undefined (Table 5.11, R149, R153, R190, R309). UNVERIFIED, safe: log entry 8. -/
opaque freeByte : Nat → BitVec 8

/-- The route word that the route computer built for a traced map, as a number of 8,192 bits (R221): the spec asks for one
that realises the map under R213 and several do. UNVERIFIED, safe: log entry 9. -/
opaque routeWord : Nat → Nat

/-- A choice among several that the spec leaves open: which shortest routes a table holds (R448), whether a late write to an
index table is seen (R293), a measured turn (R430), how far an abandoned run came (R188, Table 11.4), and the others of the
log entry. UNVERIFIED, safe: log entry 10. -/
opaque freeNat : Nat → Nat

/-- Whether a bank request that another node reports is a thermal one, and what the plans of other nodes allow and list in a
marker: no frame carries their slack (R54, R56, R57, R437). UNVERIFIED, safe: log entries 45 and 53. -/
opaque farThermal : Nat → Bool
opaque farSlack : Nat → Bool
opaque farListed : Nat → List (BitVec 16)

/-- What an event counter holds after an event that its width cannot count: no rule says whether it wraps or saturates
(R96 gives V + 1). UNVERIFIED, safe: log entry 14. -/
opaque counterOver : Nat → BitVec 32

end Sys2Proof.Config
end

