-- ==== Sys2Proof/Machine/Fields.lean ====
section
/-! DEFINITION. The register map of the FJ-24: every field of every register table of the spec (Tables 1.5, 2.10, 3.7, 6.5,
7.9, 8.6, 9.5, 9.6, 10.8, 10.9, 11.6, 12.5, 13.7, 13.8, 14.10, 15.6, 15.7, 15.8), with its place, access type (Table 0.4),
collision code (Table 0.5), width, reset value and shadowed group. `Fld` names the fields the register file stores;
`View` names the fields whose value is computed from other state when they are read. Commands (COMMIT and the like)
hold no value. -/

namespace Sys2Proof.Machine

/-- The stored register fields, by register and field name of the spec's tables. -/
inductive Fld where
  | SLICE_LIVE | MIXER_LIVE | FEN_LIVE | LINK_LIVE | TRAY_POS_POS | TRAY_POS_CHIMNEY
  | TRAY_POS_ROW_CHIMNEY | FEN_ERR_SEL | FEN_CE_COUNT | FEN_UE_COUNT | FEN_UE_LIMIT | FEN_KILL
  | TICK_CFG_TICK_LEN_K | TICK_CFG_TICK_SRC | TICK_CFG_SRC_LINK | TICK_CFG_TICK_OUT_EN | TICK_COUNT | TICK_COUNT_HI
  | TICK_STAT_LOCKED | TICK_STAT_SOURCE_LOST | TICK_STAT_CFG_ERR | TICK_STAT_BANKED | TICK_STAT_BANK_NEXT | TICK_STAT_CHIP_STATE
  | TICK_STAT_KINDLE_TICK | TICK_STAT_KINDLE_FAIL | BANK_CTRL_BANK_REQ | BANK_CTRL_REQ_DENIED | BANK_COUNT | MISS_COUNT
  | ADMIT_STAT_PLAN_SLOT | ADMIT_STAT_REASON | ADMIT_STAT_RES_ID | MARKER_LAT | PLAN_STATE_STATE | PLAN_STATE_HEARTH
  | PLAN_STATE_CAUSE | PLAN_STATE_SLACK_LEFT | PORT_SEL_TENANT_SEL | PORT_SEL_CHAN_SEL | PORT_SEL_LINK_SEL | PORT_SEL_READ_SEL
  | MP_STAT_LAST_CODE | MP_STAT_SHORT_FRAME | MP_STAT_CRC_ERR | MP_STAT_FRAME_ERR | MP_STAT_EXPERT_OFF | MP_STAT_FCLK_UP
  | MP_STAT_BURST_DONE | MP_ERR_COUNT | EXPERT_CTL_TENANT_EXPERT | EXPERT_CTL_GLOBAL_EXPERT | ALERT_STAT_PLAN_MISS | ALERT_STAT_LINK_CHANGE
  | ALERT_STAT_UNIT_LOST | ALERT_STAT_SAFETY | ALERT_EN | SCRATCH | FAB_STAT | SLICE_MAP0
  | SLICE_MAP1 | FAB_PARITY | FAB_ERR_COUNT | COLL_COUNT | OOR_COUNT | MAP_FAULTS
  | SLICE_KILL | TRACE_CTL_SL | TRACE_CTL_ROW | TRACE_CTL_ARM | TRACE_CTL_DONE | ENG_STAT_MIX_LIVE
  | ENG_PARITY_TP | ENG_PARITY_WIN | ENG_PARITY_BP | MIX_PARITY | ENG_ERR_COUNT | SAT_COUNT
  | NAN_COUNT | MIX_KILL | ENG_MASK_TP_OFF | ENG_MASK_WIN_OFF | ENG_MASK_BP_OFF | SELF_MOD_COUNT
  | REFETCH_COUNT | EMB_FAULT_COUNT | PEEK_SEL | FETCH_CFG | PIPE_MASK | DMP_SHARE0
  | DMP_SHARE1 | DMP_BORROW0 | DMP_BORROW1 | DMP_CAP | DMP_STAT_BORROWED | DMP_STAT_CFG_ERR
  | DMA_FAULT_COUNT | DMP_BYPASS | CH_CTRL_START | CH_CTRL_PAUSE | CH_CTRL_ENABLE | CH_STAT_STATE
  | CH_STAT_DONE | CH_STAT_WRITE_WHILE_BUSY | CH_STAT_START_LOST | CH_STAT_LAST_STATUS | CH_DESC | SRC_CUR
  | DST_CUR | REMAIN | POS | CRC_ACC | SUM_A | SUM_B
  | BYTES_DONE | PART_COUNT | FIRST_BAD | RUN_MODE_XMODE | RUN_MODE_FLAGS | PSTAT
  | SUM_PART_BYTES | SUM_PART_COUNT | CH_IMG | REED_COUNT | RING_FULL_COUNT | STREAM_BROKEN_COUNT
  | STRM_CFG_IN_SRC | STRM_CFG_IN_CH | STRM_CFG_HEAT_EN | STRM_CFG_HEAT_SLOT | RING_CFG_MODE | RING_CFG_PEER_WR
  | RING_CFG_PEER_PARTNER | RING_CFG_LOG2N | RING_CFG_SLOT_LOG2 | RING_CFG_PEER_NODE | RING_BASE | RING_PEER
  | RING_OWN_IDX | RING_PEER_IDX | RING_STAT_WAITING | RING_STAT_HALTED | RING_STAT_IDX_ERR | RING_STAT_PHASE_ERR
  | RING_STAT_CFG_ERR | KV_STAT_SCAN | SEQ_PEEK_SEL | TAG_PEEK_SEL_TAG | TAG_PEEK_SEL_HEARTH | KV_TAG_RESET_TAG
  | KV_TAG_RESET_HEARTH | KV_TAG_RESET_GO | KV_POOL_BASE | KV_POOL_CAP | KV_POOL_TOP | KV_PAGES_USED
  | KV_PAGES_PROV | KV_SEQ_QUOTA | KV_ALLOC_FAIL | KV_FREED | KV_LOST_FRAMES | KV_SQUASHED_ROWS
  | KV_TOO_LATE | KV_HSTAT_TOP_BUSY | KV_HSTAT_CFG_ERR | XB_STAT_LOCK_BROKEN | XB_STAT_PORT_OVER | XB_STAT_CFG_ERR
  | XB_LOCK_TMO | XB_QOS_EMB0 | XB_QOS_EMB1 | XB_QOS_IO_PCIE_QOS | XB_QOS_IO_FLRX_QOS | XB_QOS_IO_KVU_QOS
  | XB_AGE | XB_LOCK_BREAKS | XB_ARB_MODE_STG | XB_ARB_MODE_FEN | XB_ARB_MODE_TILE | XB_ARB_MODE_REG
  | XB_ARB_MODE_FLTX | XB_PRI0 | XB_PRI1 | XB_PRI2 | XB_PARK_STG | XB_PARK_FEN
  | XB_PARK_TILE | XB_PARK_REG | XB_PARK_FLTX | XB_OBS_SEL | LINK_STAT_STATE | LINK_STAT_HOLD_CAUSE
  | LINK_CTRL | FAR_DIE | FAR_INFO_ROLE | FAR_INFO_LINK | FAR_INFO_SOCKET_POS | FAR_INFO_NODE
  | FAR_INFO_NODE_VALID | LINK_LAT | CREDITS_REQ_AVAIL | CREDITS_RSP_AVAIL | BLK_ERR_COUNT | REPLAY_COUNT
  | RETRAIN_COUNT | FRAME_ERR_COUNT | LINK_EVT | LINK_FORCE_NO_IDENT | LINK_FORCE_FORCE_DOWN | NODE_ID_ID
  | NODE_ID_VALID | NODE_CFG_NODE_REQ | NODE_CFG_REQ_EN | NODE_CFG_ELECT_PRIO | NODE_CFG_ROW_KEY | NODE_CTL
  | ELECT_STAT_CHIMNEY_NODE | ELECT_STAT_ROW_CHIMNEY_NODE | ELECT_STAT_EFF_SRC | ELECT_STAT_EFF_LINK | ELECT_STAT_ELECT_DONE | ELECT_STAT_SRC_CONFLICT
  | JOIN_STAT_JSTATE | JOIN_STAT_JCAUSE | MEMBER_EPOCH | MEMBER | BDRAFT_COUNT | LOST_COUNT
  | LATE_RESP_COUNT | RT_SEL | RT_LINKS | HEARTH_CFG | CHAN_MASK_LO | CHAN_MASK_HI
  | PKEY | SQ_CFG_BASE_IDX | SQ_CFG_LOG2N | CQ_CFG_BASE_IDX | CQ_CFG_LOG2N | AQ_CFG_BASE_IDX
  | AQ_CFG_LOG2N | SQ_TAIL | SQ_HEAD | CQ_TAIL | CQ_HEAD | AQ_TAIL
  | AQ_HEAD | HEARTH_CTL_FENCE | HEARTH_CTL_RESET | HEARTH_CTL_CQ_INT | HEARTH_CTL_AQ_INT | HEARTH_STAT_RESETTING
  | HEARTH_STAT_DB_ERR | HEARTH_STAT_CFG_ERR | HEARTH_STAT_AQ_OVER | ASH_DROPPED | CQ_DROPPED | REFUSED_COUNT
  | LATE_COUNT | DISC_STORES | DISC_WORK | WIN_BASE_LO_V | WIN_BASE_LO_R | WIN_BASE_LO_W
  | WIN_BASE_LO_X | WIN_BASE_LO_RMT_OK | WIN_BASE_LO_SEAL | WIN_BASE_LO_BASE_31_12 | WIN_BASE_HI_BASE_47_32 | WIN_BASE_HI_NODE
  | WIN_BASE_HI_REMOTE | WIN_BASE_HI_TGT_HEARTH | WIN_SIZE | WIN_KEY | ASH_QUIET | CLK_CFG
  | CLK_STAT_PLL_ON | CLK_STAT_ACTIVE_GRADE | CLK_STAT_CFG_ERR | CLK_STAT_GRADE_CONFLICT | THERM_CFG_TJ_TARGET | THERM_CFG_RELIEF_LOG2
  | THERM_CFG_BANK_CEIL | THERM_CFG_FAN_MIN | THERM_CFG_FAN_CEIL | TJ_MEAS_MEAS | TJ_MEAS_MODEL | TJ_MEAS_HOT
  | TJ_SAFE | THERM_STAT_RELIEF | THERM_STAT_CAPPED | THERM_STAT_CRIT | THERM_STAT_FAN_OVR | THERM_STAT_CFG_ERR
  | FAN_DUTY | SAFETY_COUNT | RELIEF_COUNT | DAMP_CFG | DAMP_STAT_WAIT_PEERS | DAMP_STAT_FORCED
  | DAMP_STAT_FORCED_EMBERS | TS_UC | EQ_NOW_PRE | EQ_NOW_MAIN | EQ_NOW_POST | EQ_NOW_CTLE
  | EQ_CFG_WINDOW | EQ_CFG_ADAPT_EN | EQ_UC_PRE | EQ_UC_MAIN | EQ_UC_POST | EQ_UC_CTLE
  | TRAY_STAT_RAIL_FAULT | TRAY_STAT_FAN_FAULT | TRAY_STAT_P_OVER | TRAY_STAT_BUS_ERR | TRAY_STAT_CFG_ERR | TRAY_ALERT_EN
  | TRAY_CFG | TRAY_P_CEIL | TRAY_MAP_IN_ADDR | TRAY_MAP_EX_ADDR | TRAY_MAP_PSU_ADDR | TRAY_P
  | TRAY_T_INLET_T | TRAY_T_EXHAUST_T | FAN_TACH | RAIL_V | RAIL_LIM_LO | RAIL_LIM_HI
  | RAIL_MAP_ADDR | RAIL_MAP_EN | RAIL_MAP_PAGE | FAN_FORCE_DUTY | FAN_FORCE_EN
  deriving DecidableEq, Repr

/-- The register fields that show other state: fuses, counts of held things, copies (R10 FX and RO fields). -/
inductive View where
  | CHIP_ID_PART | CHIP_ID_STEP_MAJOR | CHIP_ID_STEP_MINOR | MAP_VER_MAJOR | MAP_VER_MINOR | DIE_ID_LO
  | DIE_ID_HI | CAPS_SLICES | CAPS_MIXERS | CAPS_LINKS | CAPS_TENANTS | ALERT_STAT_PORT_ERR
  | ALERT_STAT_FAULTQ | ALERT_STAT_SOURCE_LOST | ALERT_STAT_KINDLE_FAIL | PATH_ID_PATH | PATH_ID_VF | ENG_STAT_TP_BUSY
  | ENG_STAT_WIN_BUSY | ENG_STAT_BP_BUSY | EMB_STAT_OPEN_RES | EMB_STAT_PLAN_RES | SEAL_STAT | PEEK_STATE_STATE
  | PEEK_STATE_HEARTH | PEEK_STATE_LEAN | PEEK_STATE_PLANNED | PEEK_STATE_INCARN | PEEK_STATE_BUF | PEEK_PC
  | CH_STAT_QDEPTH | CH_OWNER_HEARTH | CH_OWNER_ASSIGNED | CRC_RESULT | HEAT_STAT | RING_STAT_OCC
  | STRM_LEVEL_OPEN | STRM_LEVEL_PLANNED | KV_STAT_SEQ_OPEN | SEQ_PEEK_STATE | SEQ_PEEK_HEARTH | SEQ_PEEK_PSPEC
  | SEQ_PEEK_ROW_LOG2 | SEQ_PEEK_LEN | SEQ_PEEK_PLEN | TAG_PEEK_STATE | TAG_PEEK_IN_FLIGHT | KV_SEQ_OPEN
  | XB_OBS_RD_OUT | XB_OBS_WR_OUT | POSTED | HEARTH_STAT_CQ_HOLD | HEARTH_STAT_EMB_RES | CLK_STAT_MAX_GRADE
  | TS_FX | TS_EFF | EQ_FX_PRE | EQ_FX_MAIN | EQ_FX_POST | EQ_FX_CTLE
  | EQ_EFF_PRE | EQ_EFF_MAIN | EQ_EFF_POST | EQ_EFF_CTLE | EQ_STAT | TRAY_STAT_ACTIVE
  deriving DecidableEq, Repr

/-- Access types of Table 0.4. -/
inductive Acc where
  | RW | RO | W1C | W1S | WO | SH | FX | UC
  deriving DecidableEq, Repr

/-- Collision codes of Table 0.5; `HWSW` is "HW running, SW paused" of Table 9.6. -/
inductive Coll where
  | SW | HW | HWp | SET | none | HWSW
  deriving DecidableEq, Repr

/-- The kinds of shadowed groups (R97). -/
inductive GKind where
  | TICK | EMBER | DAMPER | CHAN | STREAM | KVPOOL | XBAR | NODE | HEARTH | QUEUE | CLK | THERM | CAL | EQ | TRAY
  deriving DecidableEq, Repr

/-- What stands at a place of the map: `len` bits of a stored field from its bit `frm`, a view, or a command. -/
inductive Cell where
  | fld (f : Fld) (frm : Nat) (acc : Acc) (coll : Coll)
  | view (v : View) (acc : Acc)
  | cmd
  deriving DecidableEq, Repr

/-- One row of a register table: registers at `off + step * i` for `i < cnt`, bits `[lo + len - 1 : lo]`. -/
structure RegRow where
  off : Nat
  step : Nat
  cnt : Nat
  lo : Nat
  len : Nat
  cell : Cell
  deriving DecidableEq, Repr

/-- The global window, 0x000 to 0x3FC (Tables 1.5, 2.10, 3.7, 6.5, 7.9, 8.6, 9.5, 10.8, 11.6, 12.5, 15.6). -/
def globalRows0 : List RegRow := [
  ⟨0x000, 0, 1, 16, 16, .view .CHIP_ID_PART .FX⟩,
  ⟨0x000, 0, 1, 4, 4, .view .CHIP_ID_STEP_MAJOR .FX⟩,
  ⟨0x000, 0, 1, 0, 4, .view .CHIP_ID_STEP_MINOR .FX⟩,
  ⟨0x004, 0, 1, 8, 8, .view .MAP_VER_MAJOR .FX⟩,
  ⟨0x004, 0, 1, 0, 8, .view .MAP_VER_MINOR .FX⟩,
  ⟨0x008, 0, 1, 0, 32, .view .DIE_ID_LO .FX⟩,
  ⟨0x00C, 0, 1, 0, 32, .view .DIE_ID_HI .FX⟩,
  ⟨0x010, 0, 1, 0, 8, .view .CAPS_SLICES .FX⟩,
  ⟨0x010, 0, 1, 8, 8, .view .CAPS_MIXERS .FX⟩,
  ⟨0x010, 0, 1, 16, 8, .view .CAPS_LINKS .FX⟩,
  ⟨0x010, 0, 1, 24, 8, .view .CAPS_TENANTS .FX⟩,
  ⟨0x014, 0, 1, 0, 4, .fld .PORT_SEL_TENANT_SEL 0 .RW .none⟩,
  ⟨0x014, 0, 1, 8, 6, .fld .PORT_SEL_CHAN_SEL 0 .RW .none⟩,
  ⟨0x014, 0, 1, 16, 5, .fld .PORT_SEL_LINK_SEL 0 .RW .none⟩,
  ⟨0x014, 0, 1, 24, 1, .fld .PORT_SEL_READ_SEL 0 .RW .none⟩,
  ⟨0x024, 0, 1, 0, 4, .fld .MP_STAT_LAST_CODE 0 .RO .none⟩,
  ⟨0x024, 0, 1, 4, 1, .fld .MP_STAT_SHORT_FRAME 0 .W1C .HW⟩,
  ⟨0x024, 0, 1, 5, 1, .fld .MP_STAT_CRC_ERR 0 .W1C .HW⟩,
  ⟨0x024, 0, 1, 6, 1, .fld .MP_STAT_FRAME_ERR 0 .W1C .HW⟩,
  ⟨0x024, 0, 1, 7, 1, .fld .MP_STAT_EXPERT_OFF 0 .W1C .HW⟩,
  ⟨0x024, 0, 1, 8, 1, .fld .MP_STAT_FCLK_UP 0 .RO .none⟩,
  ⟨0x024, 0, 1, 16, 16, .fld .MP_STAT_BURST_DONE 0 .RO .none⟩,
  ⟨0x028, 0, 1, 0, 32, .fld .MP_ERR_COUNT 0 .RW .HWp⟩,
  ⟨0x02C, 0, 1, 0, 16, .fld .EXPERT_CTL_TENANT_EXPERT 0 .RW .none⟩,
  ⟨0x02C, 0, 1, 16, 1, .fld .EXPERT_CTL_GLOBAL_EXPERT 0 .RW .none⟩,
  ⟨0x030, 0, 1, 0, 1, .view .ALERT_STAT_PORT_ERR .RO⟩,
  ⟨0x030, 0, 1, 1, 1, .view .ALERT_STAT_FAULTQ .RO⟩,
  ⟨0x030, 0, 1, 2, 1, .fld .ALERT_STAT_PLAN_MISS 0 .W1C .HW⟩,
  ⟨0x030, 0, 1, 3, 1, .view .ALERT_STAT_SOURCE_LOST .RO⟩,
  ⟨0x030, 0, 1, 4, 1, .view .ALERT_STAT_KINDLE_FAIL .RO⟩,
  ⟨0x030, 0, 1, 5, 1, .fld .ALERT_STAT_LINK_CHANGE 0 .W1C .HW⟩,
  ⟨0x030, 0, 1, 6, 1, .fld .ALERT_STAT_UNIT_LOST 0 .W1C .HW⟩,
  ⟨0x030, 0, 1, 7, 1, .fld .ALERT_STAT_SAFETY 0 .W1C .HW⟩,
  ⟨0x034, 0, 1, 0, 8, .fld .ALERT_EN 0 .RW .none⟩,
  ⟨0x038, 0, 1, 0, 32, .fld .SCRATCH 0 .RW .none⟩,
  ⟨0x03C, 0, 1, 0, 2, .view .PATH_ID_PATH .RO⟩,
  ⟨0x03C, 0, 1, 4, 5, .view .PATH_ID_VF .RO⟩,
  ⟨0x040, 0, 1, 0, 16, .fld .SLICE_LIVE 0 .RO .none⟩,
  ⟨0x044, 0, 1, 0, 32, .fld .MIXER_LIVE 0 .RO .none⟩,
  ⟨0x048, 0, 1, 0, 16, .fld .FEN_LIVE 0 .RO .none⟩]

/-- The global window, 0x000 to 0x3FC (Tables 1.5, 2.10, 3.7, 6.5, 7.9, 8.6, 9.5, 10.8, 11.6, 12.5, 15.6). -/
def globalRows1 : List RegRow := [
  ⟨0x04C, 0, 1, 0, 24, .fld .LINK_LIVE 0 .RO .none⟩,
  ⟨0x050, 0, 1, 0, 1, .fld .TRAY_POS_POS 0 .RO .none⟩,
  ⟨0x050, 0, 1, 1, 1, .fld .TRAY_POS_CHIMNEY 0 .RO .none⟩,
  ⟨0x050, 0, 1, 2, 1, .fld .TRAY_POS_ROW_CHIMNEY 0 .RO .none⟩,
  ⟨0x054, 0, 1, 0, 4, .fld .FEN_ERR_SEL 0 .RW .none⟩,
  ⟨0x058, 0, 1, 0, 32, .fld .FEN_CE_COUNT 0 .RW .HWp⟩,
  ⟨0x05C, 0, 1, 0, 32, .fld .FEN_UE_COUNT 0 .RW .HWp⟩,
  ⟨0x060, 0, 1, 0, 8, .fld .FEN_UE_LIMIT 0 .RW .none⟩,
  ⟨0x070, 0, 1, 0, 16, .fld .FEN_KILL 0 .W1S .none⟩,
  ⟨0x080, 0, 1, 0, 8, .fld .TICK_CFG_TICK_LEN_K 0 .SH .none⟩,
  ⟨0x080, 0, 1, 8, 2, .fld .TICK_CFG_TICK_SRC 0 .SH .none⟩,
  ⟨0x080, 0, 1, 10, 5, .fld .TICK_CFG_SRC_LINK 0 .SH .none⟩,
  ⟨0x080, 0, 1, 15, 1, .fld .TICK_CFG_TICK_OUT_EN 0 .SH .none⟩,
  ⟨0x084, 0, 1, 0, 1, .cmd⟩,
  ⟨0x088, 0, 1, 0, 32, .fld .TICK_COUNT 0 .RO .none⟩,
  ⟨0x08C, 0, 1, 0, 16, .fld .TICK_COUNT_HI 0 .RO .none⟩,
  ⟨0x090, 0, 1, 0, 1, .fld .TICK_STAT_LOCKED 0 .RO .none⟩,
  ⟨0x090, 0, 1, 1, 1, .fld .TICK_STAT_SOURCE_LOST 0 .W1C .HW⟩,
  ⟨0x090, 0, 1, 2, 1, .fld .TICK_STAT_CFG_ERR 0 .W1C .HW⟩,
  ⟨0x090, 0, 1, 3, 1, .fld .TICK_STAT_BANKED 0 .RO .none⟩,
  ⟨0x090, 0, 1, 4, 1, .fld .TICK_STAT_BANK_NEXT 0 .RO .none⟩,
  ⟨0x090, 0, 1, 5, 3, .fld .TICK_STAT_CHIP_STATE 0 .RO .none⟩,
  ⟨0x090, 0, 1, 8, 8, .fld .TICK_STAT_KINDLE_TICK 0 .RO .none⟩,
  ⟨0x090, 0, 1, 16, 4, .fld .TICK_STAT_KINDLE_FAIL 0 .RO .none⟩,
  ⟨0x094, 0, 1, 0, 1, .cmd⟩,
  ⟨0x098, 0, 1, 0, 1, .fld .BANK_CTRL_BANK_REQ 0 .W1S .SET⟩,
  ⟨0x098, 0, 1, 1, 1, .fld .BANK_CTRL_REQ_DENIED 0 .W1C .HW⟩,
  ⟨0x09C, 0, 1, 0, 32, .fld .BANK_COUNT 0 .RW .HWp⟩,
  ⟨0x0A0, 0, 1, 0, 32, .fld .MISS_COUNT 0 .RW .HWp⟩,
  ⟨0x0A4, 0, 1, 0, 4, .fld .ADMIT_STAT_PLAN_SLOT 0 .RO .none⟩,
  ⟨0x0A4, 0, 1, 8, 8, .fld .ADMIT_STAT_REASON 0 .RO .none⟩,
  ⟨0x0A4, 0, 1, 16, 8, .fld .ADMIT_STAT_RES_ID 0 .RO .none⟩,
  ⟨0x0A8, 0, 1, 0, 10, .fld .MARKER_LAT 0 .RO .none⟩,
  ⟨0x0C0, 4, 16, 0, 3, .fld .PLAN_STATE_STATE 0 .RO .none⟩,
  ⟨0x0C0, 4, 16, 4, 4, .fld .PLAN_STATE_HEARTH 0 .RO .none⟩,
  ⟨0x0C0, 4, 16, 8, 8, .fld .PLAN_STATE_CAUSE 0 .RO .none⟩,
  ⟨0x0C0, 4, 16, 16, 4, .fld .PLAN_STATE_SLACK_LEFT 0 .RO .none⟩,
  ⟨0x100, 0, 1, 0, 1, .fld .XB_STAT_LOCK_BROKEN 0 .W1C .HW⟩,
  ⟨0x100, 0, 1, 1, 1, .fld .XB_STAT_PORT_OVER 0 .W1C .HW⟩,
  ⟨0x100, 0, 1, 2, 1, .fld .XB_STAT_CFG_ERR 0 .W1C .HW⟩]

/-- The global window, 0x000 to 0x3FC (Tables 1.5, 2.10, 3.7, 6.5, 7.9, 8.6, 9.5, 10.8, 11.6, 12.5, 15.6). -/
def globalRows2 : List RegRow := [
  ⟨0x104, 0, 1, 0, 10, .fld .XB_LOCK_TMO 0 .SH .none⟩,
  ⟨0x108, 0, 1, 0, 32, .fld .XB_QOS_EMB0 0 .SH .none⟩,
  ⟨0x10C, 0, 1, 0, 32, .fld .XB_QOS_EMB1 0 .SH .none⟩,
  ⟨0x110, 0, 1, 0, 3, .fld .XB_QOS_IO_PCIE_QOS 0 .SH .none⟩,
  ⟨0x110, 0, 1, 4, 3, .fld .XB_QOS_IO_FLRX_QOS 0 .SH .none⟩,
  ⟨0x110, 0, 1, 8, 3, .fld .XB_QOS_IO_KVU_QOS 0 .SH .none⟩,
  ⟨0x114, 0, 1, 0, 12, .fld .XB_AGE 0 .SH .none⟩,
  ⟨0x118, 0, 1, 0, 32, .fld .XB_LOCK_BREAKS 0 .RW .HWp⟩,
  ⟨0x11C, 0, 1, 0, 1, .cmd⟩,
  ⟨0x120, 0, 1, 0, 1, .fld .XB_ARB_MODE_STG 0 .SH .none⟩,
  ⟨0x120, 0, 1, 1, 1, .fld .XB_ARB_MODE_FEN 0 .SH .none⟩,
  ⟨0x120, 0, 1, 2, 1, .fld .XB_ARB_MODE_TILE 0 .SH .none⟩,
  ⟨0x120, 0, 1, 3, 1, .fld .XB_ARB_MODE_REG 0 .SH .none⟩,
  ⟨0x120, 0, 1, 4, 1, .fld .XB_ARB_MODE_FLTX 0 .SH .none⟩,
  ⟨0x124, 0, 1, 0, 32, .fld .XB_PRI0 0 .SH .none⟩,
  ⟨0x128, 0, 1, 0, 32, .fld .XB_PRI1 0 .SH .none⟩,
  ⟨0x12C, 0, 1, 0, 28, .fld .XB_PRI2 0 .SH .none⟩,
  ⟨0x130, 0, 1, 0, 5, .fld .XB_PARK_STG 0 .SH .none⟩,
  ⟨0x130, 0, 1, 5, 5, .fld .XB_PARK_FEN 0 .SH .none⟩,
  ⟨0x130, 0, 1, 10, 5, .fld .XB_PARK_TILE 0 .SH .none⟩,
  ⟨0x130, 0, 1, 15, 5, .fld .XB_PARK_REG 0 .SH .none⟩,
  ⟨0x130, 0, 1, 20, 5, .fld .XB_PARK_FLTX 0 .SH .none⟩,
  ⟨0x134, 0, 1, 0, 5, .fld .XB_OBS_SEL 0 .RW .none⟩,
  ⟨0x138, 0, 1, 0, 13, .view .XB_OBS_RD_OUT .RO⟩,
  ⟨0x138, 0, 1, 16, 13, .view .XB_OBS_WR_OUT .RO⟩,
  ⟨0x140, 0, 1, 0, 32, .fld .DMP_SHARE0 0 .SH .none⟩,
  ⟨0x144, 0, 1, 0, 32, .fld .DMP_SHARE1 0 .SH .none⟩,
  ⟨0x148, 0, 1, 0, 32, .fld .DMP_BORROW0 0 .SH .none⟩,
  ⟨0x14C, 0, 1, 0, 32, .fld .DMP_BORROW1 0 .SH .none⟩,
  ⟨0x150, 0, 1, 0, 16, .fld .DMP_CAP 0 .SH .none⟩,
  ⟨0x154, 0, 1, 0, 1, .cmd⟩,
  ⟨0x158, 0, 1, 0, 16, .fld .DMP_STAT_BORROWED 0 .RO .none⟩,
  ⟨0x158, 0, 1, 16, 1, .fld .DMP_STAT_CFG_ERR 0 .W1C .HW⟩,
  ⟨0x15C, 0, 1, 0, 32, .fld .DMA_FAULT_COUNT 0 .RW .HWp⟩,
  ⟨0x160, 0, 1, 0, 16, .fld .DMP_BYPASS 0 .SH .none⟩,
  ⟨0x180, 0, 1, 0, 5, .fld .FAB_STAT 0 .RO .none⟩,
  ⟨0x184, 0, 1, 0, 32, .fld .SLICE_MAP0 0 .RO .none⟩,
  ⟨0x188, 0, 1, 0, 32, .fld .SLICE_MAP1 0 .RO .none⟩,
  ⟨0x18C, 0, 1, 0, 16, .fld .FAB_PARITY 0 .W1C .HW⟩,
  ⟨0x190, 0, 1, 0, 32, .fld .FAB_ERR_COUNT 0 .RW .HWp⟩]

/-- The global window, 0x000 to 0x3FC (Tables 1.5, 2.10, 3.7, 6.5, 7.9, 8.6, 9.5, 10.8, 11.6, 12.5, 15.6). -/
def globalRows3 : List RegRow := [
  ⟨0x194, 0, 1, 0, 32, .fld .COLL_COUNT 0 .RW .HWp⟩,
  ⟨0x198, 0, 1, 0, 32, .fld .OOR_COUNT 0 .RW .HWp⟩,
  ⟨0x19C, 0, 1, 0, 32, .fld .MAP_FAULTS 0 .RW .HWp⟩,
  ⟨0x1A0, 0, 1, 0, 16, .fld .SLICE_KILL 0 .W1S .none⟩,
  ⟨0x1A4, 0, 1, 0, 4, .fld .TRACE_CTL_SL 0 .RW .none⟩,
  ⟨0x1A4, 0, 1, 8, 6, .fld .TRACE_CTL_ROW 0 .RW .none⟩,
  ⟨0x1A4, 0, 1, 16, 1, .fld .TRACE_CTL_ARM 0 .W1S .SET⟩,
  ⟨0x1A4, 0, 1, 17, 1, .fld .TRACE_CTL_DONE 0 .W1C .HW⟩,
  ⟨0x1C0, 0, 1, 0, 4, .view .ENG_STAT_TP_BUSY .RO⟩,
  ⟨0x1C0, 0, 1, 4, 2, .view .ENG_STAT_WIN_BUSY .RO⟩,
  ⟨0x1C0, 0, 1, 6, 2, .view .ENG_STAT_BP_BUSY .RO⟩,
  ⟨0x1C0, 0, 1, 8, 6, .fld .ENG_STAT_MIX_LIVE 0 .RO .none⟩,
  ⟨0x1C4, 0, 1, 0, 4, .fld .ENG_PARITY_TP 0 .W1C .HW⟩,
  ⟨0x1C4, 0, 1, 4, 2, .fld .ENG_PARITY_WIN 0 .W1C .HW⟩,
  ⟨0x1C4, 0, 1, 6, 2, .fld .ENG_PARITY_BP 0 .W1C .HW⟩,
  ⟨0x1C8, 0, 1, 0, 32, .fld .MIX_PARITY 0 .W1C .HW⟩,
  ⟨0x1CC, 0, 1, 0, 32, .fld .ENG_ERR_COUNT 0 .RW .HWp⟩,
  ⟨0x1D0, 0, 1, 0, 32, .fld .SAT_COUNT 0 .RW .HWp⟩,
  ⟨0x1D4, 0, 1, 0, 32, .fld .NAN_COUNT 0 .RW .HWp⟩,
  ⟨0x1E0, 0, 1, 0, 32, .fld .MIX_KILL 0 .W1S .none⟩,
  ⟨0x1E4, 0, 1, 0, 4, .fld .ENG_MASK_TP_OFF 0 .RW .none⟩,
  ⟨0x1E4, 0, 1, 4, 2, .fld .ENG_MASK_WIN_OFF 0 .RW .none⟩,
  ⟨0x1E4, 0, 1, 6, 2, .fld .ENG_MASK_BP_OFF 0 .RW .none⟩,
  ⟨0x200, 0, 1, 0, 12, .view .EMB_STAT_OPEN_RES .RO⟩,
  ⟨0x200, 0, 1, 16, 9, .view .EMB_STAT_PLAN_RES .RO⟩,
  ⟨0x204, 0, 1, 0, 16, .view .SEAL_STAT .RO⟩,
  ⟨0x208, 0, 1, 0, 32, .fld .SELF_MOD_COUNT 0 .RW .HWp⟩,
  ⟨0x20C, 0, 1, 0, 32, .fld .REFETCH_COUNT 0 .RW .HWp⟩,
  ⟨0x210, 0, 1, 0, 32, .fld .EMB_FAULT_COUNT 0 .RW .HWp⟩,
  ⟨0x214, 0, 1, 0, 11, .fld .PEEK_SEL 0 .RW .none⟩,
  ⟨0x218, 0, 1, 0, 3, .view .PEEK_STATE_STATE .RO⟩,
  ⟨0x218, 0, 1, 4, 4, .view .PEEK_STATE_HEARTH .RO⟩,
  ⟨0x218, 0, 1, 8, 1, .view .PEEK_STATE_LEAN .RO⟩,
  ⟨0x218, 0, 1, 9, 1, .view .PEEK_STATE_PLANNED .RO⟩,
  ⟨0x218, 0, 1, 11, 5, .view .PEEK_STATE_INCARN .RO⟩,
  ⟨0x218, 0, 1, 16, 4, .view .PEEK_STATE_BUF .RO⟩,
  ⟨0x21C, 0, 1, 0, 24, .view .PEEK_PC .RO⟩,
  ⟨0x220, 0, 1, 0, 16, .fld .FETCH_CFG 0 .SH .none⟩,
  ⟨0x224, 0, 1, 0, 8, .fld .PIPE_MASK 0 .SH .none⟩,
  ⟨0x228, 0, 1, 0, 1, .cmd⟩]

/-- The global window, 0x000 to 0x3FC (Tables 1.5, 2.10, 3.7, 6.5, 7.9, 8.6, 9.5, 10.8, 11.6, 12.5, 15.6). -/
def globalRows4 : List RegRow := [
  ⟨0x240, 4, 4, 0, 32, .view .HEAT_STAT .RO⟩,
  ⟨0x250, 0, 1, 0, 32, .fld .REED_COUNT 0 .RW .HWp⟩,
  ⟨0x254, 0, 1, 0, 32, .fld .RING_FULL_COUNT 0 .RW .HWp⟩,
  ⟨0x258, 0, 1, 0, 32, .fld .STREAM_BROKEN_COUNT 0 .RW .HWp⟩,
  ⟨0x260, 0, 1, 0, 32, .cmd⟩,
  ⟨0x264, 0, 1, 0, 32, .cmd⟩,
  ⟨0x280, 0, 1, 0, 13, .view .KV_STAT_SEQ_OPEN .RO⟩,
  ⟨0x280, 0, 1, 16, 1, .fld .KV_STAT_SCAN 0 .RO .none⟩,
  ⟨0x284, 0, 1, 0, 12, .fld .SEQ_PEEK_SEL 0 .RW .none⟩,
  ⟨0x288, 0, 1, 0, 2, .view .SEQ_PEEK_STATE .RO⟩,
  ⟨0x288, 0, 1, 4, 4, .view .SEQ_PEEK_HEARTH .RO⟩,
  ⟨0x288, 0, 1, 8, 8, .view .SEQ_PEEK_PSPEC .RO⟩,
  ⟨0x288, 0, 1, 16, 5, .view .SEQ_PEEK_ROW_LOG2 .RO⟩,
  ⟨0x28C, 0, 1, 0, 32, .view .SEQ_PEEK_LEN .RO⟩,
  ⟨0x290, 0, 1, 0, 32, .view .SEQ_PEEK_PLEN .RO⟩,
  ⟨0x294, 0, 1, 0, 8, .fld .TAG_PEEK_SEL_TAG 0 .RW .none⟩,
  ⟨0x294, 0, 1, 8, 4, .fld .TAG_PEEK_SEL_HEARTH 0 .RW .none⟩,
  ⟨0x298, 0, 1, 0, 2, .view .TAG_PEEK_STATE .RO⟩,
  ⟨0x298, 0, 1, 8, 16, .view .TAG_PEEK_IN_FLIGHT .RO⟩,
  ⟨0x2A0, 0, 1, 0, 8, .fld .KV_TAG_RESET_TAG 0 .RW .none⟩,
  ⟨0x2A0, 0, 1, 8, 4, .fld .KV_TAG_RESET_HEARTH 0 .RW .none⟩,
  ⟨0x2A0, 0, 1, 16, 1, .fld .KV_TAG_RESET_GO 0 .W1S .SET⟩,
  ⟨0x300, 0, 1, 0, 2, .fld .CLK_CFG 0 .SH .none⟩,
  ⟨0x304, 0, 1, 0, 1, .cmd⟩,
  ⟨0x308, 0, 1, 0, 1, .fld .CLK_STAT_PLL_ON 0 .RO .none⟩,
  ⟨0x308, 0, 1, 1, 2, .fld .CLK_STAT_ACTIVE_GRADE 0 .RO .none⟩,
  ⟨0x308, 0, 1, 3, 2, .view .CLK_STAT_MAX_GRADE .FX⟩,
  ⟨0x308, 0, 1, 8, 1, .fld .CLK_STAT_CFG_ERR 0 .W1C .HW⟩,
  ⟨0x308, 0, 1, 9, 1, .fld .CLK_STAT_GRADE_CONFLICT 0 .W1C .HW⟩,
  ⟨0x310, 0, 1, 0, 7, .fld .THERM_CFG_TJ_TARGET 0 .SH .none⟩,
  ⟨0x310, 0, 1, 8, 3, .fld .THERM_CFG_RELIEF_LOG2 0 .SH .none⟩,
  ⟨0x310, 0, 1, 12, 4, .fld .THERM_CFG_BANK_CEIL 0 .SH .none⟩,
  ⟨0x310, 0, 1, 16, 7, .fld .THERM_CFG_FAN_MIN 0 .SH .none⟩,
  ⟨0x310, 0, 1, 24, 7, .fld .THERM_CFG_FAN_CEIL 0 .SH .none⟩,
  ⟨0x314, 0, 1, 0, 1, .cmd⟩,
  ⟨0x318, 0, 1, 0, 10, .fld .TJ_MEAS_MEAS 0 .RO .none⟩,
  ⟨0x318, 0, 1, 16, 10, .fld .TJ_MEAS_MODEL 0 .RO .none⟩,
  ⟨0x318, 0, 1, 28, 3, .fld .TJ_MEAS_HOT 0 .RO .none⟩,
  ⟨0x31C, 0, 1, 0, 10, .fld .TJ_SAFE 0 .RO .none⟩,
  ⟨0x320, 0, 1, 0, 1, .fld .THERM_STAT_RELIEF 0 .RO .none⟩]

/-- The global window, 0x000 to 0x3FC (Tables 1.5, 2.10, 3.7, 6.5, 7.9, 8.6, 9.5, 10.8, 11.6, 12.5, 15.6). -/
def globalRows5 : List RegRow := [
  ⟨0x320, 0, 1, 1, 1, .fld .THERM_STAT_CAPPED 0 .RO .none⟩,
  ⟨0x320, 0, 1, 2, 1, .fld .THERM_STAT_CRIT 0 .RO .none⟩,
  ⟨0x320, 0, 1, 3, 1, .fld .THERM_STAT_FAN_OVR 0 .RO .none⟩,
  ⟨0x320, 0, 1, 4, 1, .fld .THERM_STAT_CFG_ERR 0 .W1C .HW⟩,
  ⟨0x324, 0, 1, 0, 7, .fld .FAN_DUTY 0 .RO .none⟩,
  ⟨0x328, 0, 1, 0, 32, .fld .SAFETY_COUNT 0 .RW .HWp⟩,
  ⟨0x32C, 0, 1, 0, 32, .fld .RELIEF_COUNT 0 .RW .HWp⟩,
  ⟨0x330, 0, 1, 0, 1, .cmd⟩,
  ⟨0x334, 0, 1, 0, 16, .fld .DAMP_CFG 0 .RW .none⟩,
  ⟨0x338, 0, 1, 0, 1, .fld .DAMP_STAT_WAIT_PEERS 0 .RO .none⟩,
  ⟨0x338, 0, 1, 1, 1, .fld .DAMP_STAT_FORCED 0 .RO .none⟩,
  ⟨0x338, 0, 1, 16, 16, .fld .DAMP_STAT_FORCED_EMBERS 0 .RO .none⟩,
  ⟨0x33C, 0, 1, 0, 8, .cmd⟩,
  ⟨0x380, 4, 8, 0, 8, .view .TS_FX .FX⟩,
  ⟨0x3A0, 4, 8, 0, 8, .view .TS_EFF .RO⟩,
  ⟨0x3C0, 4, 8, 0, 8, .fld .TS_UC 0 .UC .none⟩,
  ⟨0x3E0, 0, 1, 0, 1, .cmd⟩]

/-- The global window, 0x000 to 0x3FC (Tables 1.5, 2.10, 3.7, 6.5, 7.9, 8.6, 9.5, 10.8, 11.6, 12.5, 15.6). -/
def globalRows : List RegRow := globalRows0 ++ globalRows1 ++ globalRows2 ++ globalRows3 ++ globalRows4 ++ globalRows5

/-- The hearth window, 0x400 to 0x7FC (Tables 11.6, 14.10). -/
def hearthRows0 : List RegRow := [
  ⟨0x400, 0, 1, 0, 11, .fld .HEARTH_CFG 0 .SH .none⟩,
  ⟨0x404, 0, 1, 0, 32, .fld .CHAN_MASK_LO 0 .SH .none⟩,
  ⟨0x408, 0, 1, 0, 32, .fld .CHAN_MASK_HI 0 .SH .none⟩,
  ⟨0x40C, 0, 1, 0, 32, .fld .PKEY 0 .SH .none⟩,
  ⟨0x410, 0, 1, 0, 1, .cmd⟩,
  ⟨0x414, 0, 1, 0, 22, .fld .SQ_CFG_BASE_IDX 0 .SH .none⟩,
  ⟨0x414, 0, 1, 24, 4, .fld .SQ_CFG_LOG2N 0 .SH .none⟩,
  ⟨0x418, 0, 1, 0, 22, .fld .CQ_CFG_BASE_IDX 0 .SH .none⟩,
  ⟨0x418, 0, 1, 24, 4, .fld .CQ_CFG_LOG2N 0 .SH .none⟩,
  ⟨0x41C, 0, 1, 0, 22, .fld .AQ_CFG_BASE_IDX 0 .SH .none⟩,
  ⟨0x41C, 0, 1, 24, 4, .fld .AQ_CFG_LOG2N 0 .SH .none⟩,
  ⟨0x420, 0, 1, 0, 1, .cmd⟩,
  ⟨0x424, 0, 1, 0, 32, .fld .SQ_TAIL 0 .RW .none⟩,
  ⟨0x428, 0, 1, 0, 32, .fld .SQ_HEAD 0 .RO .none⟩,
  ⟨0x42C, 0, 1, 0, 32, .fld .CQ_TAIL 0 .RO .none⟩,
  ⟨0x430, 0, 1, 0, 32, .fld .CQ_HEAD 0 .RW .none⟩,
  ⟨0x434, 0, 1, 0, 32, .fld .AQ_TAIL 0 .RO .none⟩,
  ⟨0x438, 0, 1, 0, 32, .fld .AQ_HEAD 0 .RW .none⟩,
  ⟨0x43C, 0, 1, 0, 1, .fld .HEARTH_CTL_FENCE 0 .RW .none⟩,
  ⟨0x43C, 0, 1, 1, 1, .fld .HEARTH_CTL_RESET 0 .W1S .SET⟩,
  ⟨0x43C, 0, 1, 2, 1, .fld .HEARTH_CTL_CQ_INT 0 .RW .none⟩,
  ⟨0x43C, 0, 1, 3, 1, .fld .HEARTH_CTL_AQ_INT 0 .RW .none⟩,
  ⟨0x440, 0, 1, 0, 1, .fld .HEARTH_STAT_RESETTING 0 .RO .none⟩,
  ⟨0x440, 0, 1, 1, 1, .fld .HEARTH_STAT_DB_ERR 0 .W1C .HW⟩,
  ⟨0x440, 0, 1, 2, 1, .fld .HEARTH_STAT_CFG_ERR 0 .W1C .HW⟩,
  ⟨0x440, 0, 1, 3, 1, .fld .HEARTH_STAT_AQ_OVER 0 .W1C .HW⟩,
  ⟨0x440, 0, 1, 4, 1, .view .HEARTH_STAT_CQ_HOLD .RO⟩,
  ⟨0x440, 0, 1, 8, 11, .view .HEARTH_STAT_EMB_RES .RO⟩,
  ⟨0x444, 0, 1, 0, 32, .fld .ASH_DROPPED 0 .RW .HWp⟩,
  ⟨0x448, 0, 1, 0, 32, .fld .CQ_DROPPED 0 .RW .HWp⟩,
  ⟨0x44C, 0, 1, 0, 32, .fld .REFUSED_COUNT 0 .RW .HWp⟩,
  ⟨0x450, 0, 1, 0, 32, .fld .LATE_COUNT 0 .RW .HWp⟩,
  ⟨0x454, 0, 1, 0, 32, .fld .DISC_STORES 0 .RO .none⟩,
  ⟨0x458, 0, 1, 0, 32, .fld .DISC_WORK 0 .RO .none⟩,
  ⟨0x480, 16, 16, 0, 1, .fld .WIN_BASE_LO_V 0 .SH .none⟩,
  ⟨0x480, 16, 16, 1, 1, .fld .WIN_BASE_LO_R 0 .SH .none⟩,
  ⟨0x480, 16, 16, 2, 1, .fld .WIN_BASE_LO_W 0 .SH .none⟩,
  ⟨0x480, 16, 16, 3, 1, .fld .WIN_BASE_LO_X 0 .SH .none⟩,
  ⟨0x480, 16, 16, 4, 1, .fld .WIN_BASE_LO_RMT_OK 0 .SH .none⟩,
  ⟨0x480, 16, 16, 5, 1, .fld .WIN_BASE_LO_SEAL 0 .SH .none⟩]

/-- The hearth window, 0x400 to 0x7FC (Tables 11.6, 14.10). -/
def hearthRows1 : List RegRow := [
  ⟨0x480, 16, 16, 12, 20, .fld .WIN_BASE_LO_BASE_31_12 0 .SH .none⟩,
  ⟨0x484, 16, 16, 0, 16, .fld .WIN_BASE_HI_BASE_47_32 0 .SH .none⟩,
  ⟨0x484, 16, 16, 16, 8, .fld .WIN_BASE_HI_NODE 0 .SH .none⟩,
  ⟨0x484, 16, 16, 24, 1, .fld .WIN_BASE_HI_REMOTE 0 .SH .none⟩,
  ⟨0x484, 16, 16, 28, 4, .fld .WIN_BASE_HI_TGT_HEARTH 0 .SH .none⟩,
  ⟨0x488, 16, 16, 0, 32, .fld .WIN_SIZE 0 .SH .none⟩,
  ⟨0x48C, 16, 16, 0, 32, .fld .WIN_KEY 0 .SH .none⟩,
  ⟨0x5C0, 0, 1, 1, 31, .fld .ASH_QUIET 0 .RW .none⟩,
  ⟨0x600, 0, 1, 0, 32, .fld .KV_POOL_BASE 0 .SH .none⟩,
  ⟨0x604, 0, 1, 0, 16, .fld .KV_POOL_BASE 32 .SH .none⟩,
  ⟨0x608, 0, 1, 0, 19, .fld .KV_POOL_CAP 0 .SH .none⟩,
  ⟨0x60C, 0, 1, 0, 1, .cmd⟩,
  ⟨0x610, 0, 1, 0, 19, .fld .KV_POOL_TOP 0 .RW .HW⟩,
  ⟨0x614, 0, 1, 0, 19, .fld .KV_PAGES_USED 0 .RO .none⟩,
  ⟨0x618, 0, 1, 0, 19, .fld .KV_PAGES_PROV 0 .RO .none⟩,
  ⟨0x61C, 0, 1, 0, 13, .view .KV_SEQ_OPEN .RO⟩,
  ⟨0x620, 0, 1, 0, 13, .fld .KV_SEQ_QUOTA 0 .RW .none⟩,
  ⟨0x624, 0, 1, 0, 32, .fld .KV_ALLOC_FAIL 0 .RW .HWp⟩,
  ⟨0x628, 0, 1, 0, 32, .fld .KV_FREED 0 .RW .HWp⟩,
  ⟨0x62C, 0, 1, 0, 32, .fld .KV_LOST_FRAMES 0 .RW .HWp⟩,
  ⟨0x630, 0, 1, 0, 32, .fld .KV_SQUASHED_ROWS 0 .RW .HWp⟩,
  ⟨0x634, 0, 1, 0, 32, .fld .KV_TOO_LATE 0 .RW .HWp⟩,
  ⟨0x638, 0, 1, 0, 1, .fld .KV_HSTAT_TOP_BUSY 0 .W1C .HW⟩,
  ⟨0x638, 0, 1, 1, 1, .fld .KV_HSTAT_CFG_ERR 0 .W1C .HW⟩]

/-- The hearth window, 0x400 to 0x7FC (Tables 11.6, 14.10). -/
def hearthRows : List RegRow := hearthRows0 ++ hearthRows1

/-- The channel window, 0x800 to 0xBFC (Tables 9.6, 10.9). -/
def chanRows0 : List RegRow := [
  ⟨0x800, 0, 1, 0, 1, .fld .CH_CTRL_START 0 .W1S .SET⟩,
  ⟨0x800, 0, 1, 1, 1, .fld .CH_CTRL_PAUSE 0 .RW .none⟩,
  ⟨0x800, 0, 1, 2, 1, .fld .CH_CTRL_ENABLE 0 .RW .HW⟩,
  ⟨0x804, 0, 1, 0, 3, .fld .CH_STAT_STATE 0 .RO .none⟩,
  ⟨0x804, 0, 1, 3, 1, .fld .CH_STAT_DONE 0 .W1C .HW⟩,
  ⟨0x804, 0, 1, 4, 1, .fld .CH_STAT_WRITE_WHILE_BUSY 0 .W1C .HW⟩,
  ⟨0x804, 0, 1, 5, 1, .fld .CH_STAT_START_LOST 0 .W1C .HW⟩,
  ⟨0x804, 0, 1, 8, 8, .fld .CH_STAT_LAST_STATUS 0 .RO .none⟩,
  ⟨0x804, 0, 1, 16, 5, .view .CH_STAT_QDEPTH .RO⟩,
  ⟨0x808, 0, 1, 0, 30, .fld .CH_DESC 0 .RW .none⟩,
  ⟨0x80C, 0, 1, 0, 4, .view .CH_OWNER_HEARTH .RO⟩,
  ⟨0x80C, 0, 1, 4, 1, .view .CH_OWNER_ASSIGNED .RO⟩,
  ⟨0x810, 0, 1, 0, 32, .fld .SRC_CUR 0 .RW .HWSW⟩,
  ⟨0x814, 0, 1, 0, 24, .fld .SRC_CUR 32 .RW .HWSW⟩,
  ⟨0x818, 0, 1, 0, 32, .fld .DST_CUR 0 .RW .HWSW⟩,
  ⟨0x81C, 0, 1, 0, 24, .fld .DST_CUR 32 .RW .HWSW⟩,
  ⟨0x820, 0, 1, 0, 32, .fld .REMAIN 0 .RW .HWSW⟩,
  ⟨0x824, 0, 1, 0, 24, .fld .POS 0 .RW .HWSW⟩,
  ⟨0x828, 0, 1, 0, 32, .fld .CRC_ACC 0 .RO .none⟩,
  ⟨0x82C, 0, 1, 0, 32, .view .CRC_RESULT .RO⟩,
  ⟨0x830, 0, 1, 0, 32, .fld .SUM_A 0 .RO .none⟩,
  ⟨0x834, 0, 1, 0, 32, .fld .SUM_B 0 .RO .none⟩,
  ⟨0x838, 0, 1, 0, 32, .fld .BYTES_DONE 0 .RO .none⟩,
  ⟨0x83C, 0, 1, 0, 21, .fld .PART_COUNT 0 .RO .none⟩,
  ⟨0x840, 0, 1, 0, 21, .fld .FIRST_BAD 0 .RO .none⟩,
  ⟨0x844, 0, 1, 0, 8, .fld .RUN_MODE_XMODE 0 .RO .none⟩,
  ⟨0x844, 0, 1, 8, 8, .fld .RUN_MODE_FLAGS 0 .RO .none⟩,
  ⟨0x848, 0, 1, 0, 3, .fld .PSTAT 0 .RO .none⟩,
  ⟨0x84C, 0, 1, 0, 24, .fld .SUM_PART_BYTES 0 .RO .none⟩,
  ⟨0x84C, 0, 1, 24, 2, .fld .SUM_PART_COUNT 0 .RO .none⟩,
  ⟨0x880, 4, 16, 0, 32, .fld .CH_IMG 0 .SH .none⟩,
  ⟨0x8C0, 0, 1, 0, 1, .cmd⟩,
  ⟨0xA00, 0, 1, 0, 2, .fld .STRM_CFG_IN_SRC 0 .SH .none⟩,
  ⟨0xA00, 0, 1, 8, 6, .fld .STRM_CFG_IN_CH 0 .SH .none⟩,
  ⟨0xA00, 0, 1, 16, 1, .fld .STRM_CFG_HEAT_EN 0 .SH .none⟩,
  ⟨0xA00, 0, 1, 24, 6, .fld .STRM_CFG_HEAT_SLOT 0 .SH .none⟩,
  ⟨0xA04, 0, 1, 0, 3, .fld .RING_CFG_MODE 0 .SH .none⟩,
  ⟨0xA04, 0, 1, 3, 1, .fld .RING_CFG_PEER_WR 0 .SH .none⟩,
  ⟨0xA04, 0, 1, 4, 1, .fld .RING_CFG_PEER_PARTNER 0 .SH .none⟩,
  ⟨0xA04, 0, 1, 8, 4, .fld .RING_CFG_LOG2N 0 .SH .none⟩]

/-- The channel window, 0x800 to 0xBFC (Tables 9.6, 10.9). -/
def chanRows1 : List RegRow := [
  ⟨0xA04, 0, 1, 16, 5, .fld .RING_CFG_SLOT_LOG2 0 .SH .none⟩,
  ⟨0xA04, 0, 1, 24, 8, .fld .RING_CFG_PEER_NODE 0 .SH .none⟩,
  ⟨0xA08, 0, 1, 0, 32, .fld .RING_BASE 0 .SH .none⟩,
  ⟨0xA0C, 0, 1, 0, 24, .fld .RING_BASE 32 .SH .none⟩,
  ⟨0xA10, 0, 1, 0, 32, .fld .RING_PEER 0 .SH .none⟩,
  ⟨0xA14, 0, 1, 0, 24, .fld .RING_PEER 32 .SH .none⟩,
  ⟨0xA18, 0, 1, 0, 1, .cmd⟩,
  ⟨0xA20, 0, 1, 0, 32, .fld .RING_OWN_IDX 0 .RO .none⟩,
  ⟨0xA24, 0, 1, 0, 32, .fld .RING_PEER_IDX 0 .RW .none⟩,
  ⟨0xA28, 0, 1, 0, 1, .fld .RING_STAT_WAITING 0 .RO .none⟩,
  ⟨0xA28, 0, 1, 1, 1, .fld .RING_STAT_HALTED 0 .RO .none⟩,
  ⟨0xA28, 0, 1, 2, 1, .fld .RING_STAT_IDX_ERR 0 .W1C .HW⟩,
  ⟨0xA28, 0, 1, 3, 1, .fld .RING_STAT_PHASE_ERR 0 .W1C .HW⟩,
  ⟨0xA28, 0, 1, 4, 1, .fld .RING_STAT_CFG_ERR 0 .W1C .HW⟩,
  ⟨0xA28, 0, 1, 16, 13, .view .RING_STAT_OCC .RO⟩,
  ⟨0xA2C, 0, 1, 0, 13, .view .STRM_LEVEL_OPEN .RO⟩,
  ⟨0xA2C, 0, 1, 16, 13, .view .STRM_LEVEL_PLANNED .RO⟩]

/-- The channel window, 0x800 to 0xBFC (Tables 9.6, 10.9). -/
def chanRows : List RegRow := chanRows0 ++ chanRows1

/-- The link part of the link window, 0xC00 to 0xDFC (Tables 13.7, 15.7). -/
def linkRows : List RegRow := [
  ⟨0xC00, 0, 1, 0, 3, .fld .LINK_STAT_STATE 0 .RO .none⟩,
  ⟨0xC00, 0, 1, 4, 4, .fld .LINK_STAT_HOLD_CAUSE 0 .RO .none⟩,
  ⟨0xC04, 0, 1, 0, 1, .fld .LINK_CTRL 0 .RW .HW⟩,
  ⟨0xC08, 0, 1, 0, 32, .fld .FAR_DIE 0 .RO .none⟩,
  ⟨0xC0C, 0, 1, 0, 32, .fld .FAR_DIE 32 .RO .none⟩,
  ⟨0xC10, 0, 1, 0, 2, .fld .FAR_INFO_ROLE 0 .RO .none⟩,
  ⟨0xC10, 0, 1, 2, 5, .fld .FAR_INFO_LINK 0 .RO .none⟩,
  ⟨0xC10, 0, 1, 8, 4, .fld .FAR_INFO_SOCKET_POS 0 .RO .none⟩,
  ⟨0xC10, 0, 1, 16, 8, .fld .FAR_INFO_NODE 0 .RO .none⟩,
  ⟨0xC10, 0, 1, 24, 1, .fld .FAR_INFO_NODE_VALID 0 .RO .none⟩,
  ⟨0xC14, 0, 1, 0, 11, .fld .LINK_LAT 0 .RO .none⟩,
  ⟨0xC18, 0, 1, 0, 16, .fld .CREDITS_REQ_AVAIL 0 .RO .none⟩,
  ⟨0xC18, 0, 1, 16, 16, .fld .CREDITS_RSP_AVAIL 0 .RO .none⟩,
  ⟨0xC1C, 0, 1, 0, 32, .fld .BLK_ERR_COUNT 0 .RW .HWp⟩,
  ⟨0xC20, 0, 1, 0, 32, .fld .REPLAY_COUNT 0 .RW .HWp⟩,
  ⟨0xC24, 0, 1, 0, 32, .fld .RETRAIN_COUNT 0 .RW .HWp⟩,
  ⟨0xC28, 0, 1, 0, 32, .fld .FRAME_ERR_COUNT 0 .RW .HWp⟩,
  ⟨0xC2C, 0, 1, 0, 1, .fld .LINK_EVT 0 .W1C .HW⟩,
  ⟨0xD40, 0, 1, 0, 1, .fld .LINK_FORCE_NO_IDENT 0 .RW .none⟩,
  ⟨0xD40, 0, 1, 1, 1, .fld .LINK_FORCE_FORCE_DOWN 0 .RW .none⟩,
  ⟨0xD80, 0, 1, 0, 6, .view .EQ_FX_PRE .FX⟩,
  ⟨0xD80, 0, 1, 8, 6, .view .EQ_FX_MAIN .FX⟩,
  ⟨0xD80, 0, 1, 16, 6, .view .EQ_FX_POST .FX⟩,
  ⟨0xD80, 0, 1, 24, 6, .view .EQ_FX_CTLE .FX⟩,
  ⟨0xD84, 0, 1, 0, 6, .view .EQ_EFF_PRE .RO⟩,
  ⟨0xD84, 0, 1, 8, 6, .view .EQ_EFF_MAIN .RO⟩,
  ⟨0xD84, 0, 1, 16, 6, .view .EQ_EFF_POST .RO⟩,
  ⟨0xD84, 0, 1, 24, 6, .view .EQ_EFF_CTLE .RO⟩,
  ⟨0xD88, 0, 1, 0, 6, .fld .EQ_NOW_PRE 0 .RO .none⟩,
  ⟨0xD88, 0, 1, 8, 6, .fld .EQ_NOW_MAIN 0 .RO .none⟩,
  ⟨0xD88, 0, 1, 16, 6, .fld .EQ_NOW_POST 0 .RO .none⟩,
  ⟨0xD88, 0, 1, 24, 6, .fld .EQ_NOW_CTLE 0 .RO .none⟩,
  ⟨0xD8C, 0, 1, 0, 4, .view .EQ_STAT .RO⟩,
  ⟨0xD90, 0, 1, 0, 4, .fld .EQ_CFG_WINDOW 0 .SH .none⟩,
  ⟨0xD90, 0, 1, 4, 1, .fld .EQ_CFG_ADAPT_EN 0 .SH .none⟩,
  ⟨0xD94, 0, 1, 0, 1, .cmd⟩,
  ⟨0xDC0, 0, 1, 0, 6, .fld .EQ_UC_PRE 0 .UC .none⟩,
  ⟨0xDC0, 0, 1, 8, 6, .fld .EQ_UC_MAIN 0 .UC .none⟩,
  ⟨0xDC0, 0, 1, 16, 6, .fld .EQ_UC_POST 0 .UC .none⟩,
  ⟨0xDC0, 0, 1, 24, 6, .fld .EQ_UC_CTLE 0 .UC .none⟩]

/-- The management part, 0xE00 to 0xFFC (Tables 13.8, 15.8). -/
def mgmtRows0 : List RegRow := [
  ⟨0xE00, 0, 1, 0, 8, .fld .NODE_ID_ID 0 .RO .none⟩,
  ⟨0xE00, 0, 1, 8, 1, .fld .NODE_ID_VALID 0 .RO .none⟩,
  ⟨0xE04, 0, 1, 0, 8, .fld .NODE_CFG_NODE_REQ 0 .SH .none⟩,
  ⟨0xE04, 0, 1, 8, 1, .fld .NODE_CFG_REQ_EN 0 .SH .none⟩,
  ⟨0xE04, 0, 1, 12, 4, .fld .NODE_CFG_ELECT_PRIO 0 .SH .none⟩,
  ⟨0xE04, 0, 1, 16, 16, .fld .NODE_CFG_ROW_KEY 0 .SH .none⟩,
  ⟨0xE08, 0, 1, 0, 1, .fld .NODE_CTL 0 .W1S .SET⟩,
  ⟨0xE0C, 0, 1, 0, 1, .cmd⟩,
  ⟨0xE10, 0, 1, 0, 8, .fld .ELECT_STAT_CHIMNEY_NODE 0 .RO .none⟩,
  ⟨0xE10, 0, 1, 8, 8, .fld .ELECT_STAT_ROW_CHIMNEY_NODE 0 .RO .none⟩,
  ⟨0xE10, 0, 1, 16, 2, .fld .ELECT_STAT_EFF_SRC 0 .RO .none⟩,
  ⟨0xE10, 0, 1, 18, 5, .fld .ELECT_STAT_EFF_LINK 0 .RO .none⟩,
  ⟨0xE10, 0, 1, 23, 1, .fld .ELECT_STAT_ELECT_DONE 0 .RO .none⟩,
  ⟨0xE10, 0, 1, 24, 1, .fld .ELECT_STAT_SRC_CONFLICT 0 .W1C .HW⟩,
  ⟨0xE14, 0, 1, 0, 3, .fld .JOIN_STAT_JSTATE 0 .RO .none⟩,
  ⟨0xE14, 0, 1, 4, 4, .fld .JOIN_STAT_JCAUSE 0 .RO .none⟩,
  ⟨0xE18, 0, 1, 0, 16, .fld .MEMBER_EPOCH 0 .RO .none⟩,
  ⟨0xE20, 4, 8, 0, 32, .fld .MEMBER 0 .RO .none⟩,
  ⟨0xE40, 0, 1, 0, 15, .view .POSTED .RO⟩,
  ⟨0xE44, 0, 1, 0, 32, .fld .BDRAFT_COUNT 0 .RW .HWp⟩,
  ⟨0xE48, 0, 1, 0, 32, .fld .LOST_COUNT 0 .RW .HWp⟩,
  ⟨0xE4C, 0, 1, 0, 32, .fld .LATE_RESP_COUNT 0 .RW .HWp⟩,
  ⟨0xEC0, 0, 1, 0, 8, .fld .RT_SEL 0 .RW .none⟩,
  ⟨0xEC4, 0, 1, 0, 24, .fld .RT_LINKS 0 .RW .HW⟩,
  ⟨0xF00, 0, 1, 0, 1, .view .TRAY_STAT_ACTIVE .RO⟩,
  ⟨0xF00, 0, 1, 1, 1, .fld .TRAY_STAT_RAIL_FAULT 0 .W1C .HW⟩,
  ⟨0xF00, 0, 1, 2, 1, .fld .TRAY_STAT_FAN_FAULT 0 .W1C .HW⟩,
  ⟨0xF00, 0, 1, 3, 1, .fld .TRAY_STAT_P_OVER 0 .W1C .HW⟩,
  ⟨0xF00, 0, 1, 4, 1, .fld .TRAY_STAT_BUS_ERR 0 .W1C .HW⟩,
  ⟨0xF00, 0, 1, 5, 1, .fld .TRAY_STAT_CFG_ERR 0 .W1C .HW⟩,
  ⟨0xF04, 0, 1, 1, 5, .fld .TRAY_ALERT_EN 0 .RW .none⟩,
  ⟨0xF08, 0, 1, 0, 4, .fld .TRAY_CFG 0 .SH .none⟩,
  ⟨0xF0C, 0, 1, 0, 12, .fld .TRAY_P_CEIL 0 .SH .none⟩,
  ⟨0xF10, 0, 1, 0, 7, .fld .TRAY_MAP_IN_ADDR 0 .SH .none⟩,
  ⟨0xF10, 0, 1, 8, 7, .fld .TRAY_MAP_EX_ADDR 0 .SH .none⟩,
  ⟨0xF10, 0, 1, 16, 7, .fld .TRAY_MAP_PSU_ADDR 0 .SH .none⟩,
  ⟨0xF14, 0, 1, 0, 1, .cmd⟩,
  ⟨0xF18, 0, 1, 0, 12, .fld .TRAY_P 0 .RO .none⟩,
  ⟨0xF1C, 0, 1, 0, 10, .fld .TRAY_T_INLET_T 0 .RO .none⟩,
  ⟨0xF1C, 0, 1, 16, 10, .fld .TRAY_T_EXHAUST_T 0 .RO .none⟩]

/-- The management part, 0xE00 to 0xFFC (Tables 13.8, 15.8). -/
def mgmtRows1 : List RegRow := [
  ⟨0xF20, 4, 4, 0, 16, .fld .FAN_TACH 0 .RO .none⟩,
  ⟨0xF40, 4, 8, 0, 16, .fld .RAIL_V 0 .RO .none⟩,
  ⟨0xF60, 4, 8, 0, 16, .fld .RAIL_LIM_LO 0 .SH .none⟩,
  ⟨0xF60, 4, 8, 16, 16, .fld .RAIL_LIM_HI 0 .SH .none⟩,
  ⟨0xF80, 4, 8, 0, 7, .fld .RAIL_MAP_ADDR 0 .SH .none⟩,
  ⟨0xF80, 4, 8, 7, 1, .fld .RAIL_MAP_EN 0 .SH .none⟩,
  ⟨0xF80, 4, 8, 8, 8, .fld .RAIL_MAP_PAGE 0 .SH .none⟩,
  ⟨0xFC0, 0, 1, 0, 7, .fld .FAN_FORCE_DUTY 0 .RW .none⟩,
  ⟨0xFC0, 0, 1, 7, 1, .fld .FAN_FORCE_EN 0 .RW .none⟩]

/-- The management part, 0xE00 to 0xFFC (Tables 13.8, 15.8). -/
def mgmtRows : List RegRow := mgmtRows0 ++ mgmtRows1

/-- Width in bits of the whole field, all its slices together. -/
def Fld.width : Fld → Nat
  | .SLICE_LIVE | .FEN_LIVE | .FEN_KILL | .TICK_COUNT_HI | .MP_STAT_BURST_DONE | .EXPERT_CTL_TENANT_EXPERT | .FAB_PARITY | .SLICE_KILL | .FETCH_CFG | .DMP_CAP | .DMP_STAT_BORROWED | .DMP_BYPASS | .CREDITS_REQ_AVAIL | .CREDITS_RSP_AVAIL | .NODE_CFG_ROW_KEY | .MEMBER_EPOCH | .WIN_BASE_HI_BASE_47_32 | .DAMP_CFG | .DAMP_STAT_FORCED_EMBERS | .FAN_TACH | .RAIL_V | .RAIL_LIM_LO | .RAIL_LIM_HI => 16
  | .LINK_LIVE | .POS | .SUM_PART_BYTES | .RT_LINKS => 24
  | .TRAY_POS_POS | .TRAY_POS_CHIMNEY | .TRAY_POS_ROW_CHIMNEY | .TICK_CFG_TICK_OUT_EN | .TICK_STAT_LOCKED | .TICK_STAT_SOURCE_LOST | .TICK_STAT_CFG_ERR | .TICK_STAT_BANKED | .TICK_STAT_BANK_NEXT | .BANK_CTRL_BANK_REQ | .BANK_CTRL_REQ_DENIED | .PORT_SEL_READ_SEL | .MP_STAT_SHORT_FRAME | .MP_STAT_CRC_ERR | .MP_STAT_FRAME_ERR | .MP_STAT_EXPERT_OFF | .MP_STAT_FCLK_UP | .EXPERT_CTL_GLOBAL_EXPERT | .ALERT_STAT_PLAN_MISS | .ALERT_STAT_LINK_CHANGE | .ALERT_STAT_UNIT_LOST | .ALERT_STAT_SAFETY | .TRACE_CTL_ARM | .TRACE_CTL_DONE | .DMP_STAT_CFG_ERR | .CH_CTRL_START | .CH_CTRL_PAUSE | .CH_CTRL_ENABLE | .CH_STAT_DONE | .CH_STAT_WRITE_WHILE_BUSY | .CH_STAT_START_LOST | .STRM_CFG_HEAT_EN | .RING_CFG_PEER_WR | .RING_CFG_PEER_PARTNER | .RING_STAT_WAITING | .RING_STAT_HALTED | .RING_STAT_IDX_ERR | .RING_STAT_PHASE_ERR | .RING_STAT_CFG_ERR | .KV_STAT_SCAN | .KV_TAG_RESET_GO | .KV_HSTAT_TOP_BUSY | .KV_HSTAT_CFG_ERR | .XB_STAT_LOCK_BROKEN | .XB_STAT_PORT_OVER | .XB_STAT_CFG_ERR | .XB_ARB_MODE_STG | .XB_ARB_MODE_FEN | .XB_ARB_MODE_TILE | .XB_ARB_MODE_REG | .XB_ARB_MODE_FLTX | .LINK_CTRL | .FAR_INFO_NODE_VALID | .LINK_EVT | .LINK_FORCE_NO_IDENT | .LINK_FORCE_FORCE_DOWN | .NODE_ID_VALID | .NODE_CFG_REQ_EN | .NODE_CTL | .ELECT_STAT_ELECT_DONE | .ELECT_STAT_SRC_CONFLICT | .HEARTH_CTL_FENCE | .HEARTH_CTL_RESET | .HEARTH_CTL_CQ_INT | .HEARTH_CTL_AQ_INT | .HEARTH_STAT_RESETTING | .HEARTH_STAT_DB_ERR | .HEARTH_STAT_CFG_ERR | .HEARTH_STAT_AQ_OVER | .WIN_BASE_LO_V | .WIN_BASE_LO_R | .WIN_BASE_LO_W | .WIN_BASE_LO_X | .WIN_BASE_LO_RMT_OK | .WIN_BASE_LO_SEAL | .WIN_BASE_HI_REMOTE | .CLK_STAT_PLL_ON | .CLK_STAT_CFG_ERR | .CLK_STAT_GRADE_CONFLICT | .THERM_STAT_RELIEF | .THERM_STAT_CAPPED | .THERM_STAT_CRIT | .THERM_STAT_FAN_OVR | .THERM_STAT_CFG_ERR | .DAMP_STAT_WAIT_PEERS | .DAMP_STAT_FORCED | .EQ_CFG_ADAPT_EN | .TRAY_STAT_RAIL_FAULT | .TRAY_STAT_FAN_FAULT | .TRAY_STAT_P_OVER | .TRAY_STAT_BUS_ERR | .TRAY_STAT_CFG_ERR | .RAIL_MAP_EN | .FAN_FORCE_EN => 1
  | .FEN_ERR_SEL | .TICK_STAT_KINDLE_FAIL | .ADMIT_STAT_PLAN_SLOT | .PLAN_STATE_HEARTH | .PLAN_STATE_SLACK_LEFT | .PORT_SEL_TENANT_SEL | .MP_STAT_LAST_CODE | .TRACE_CTL_SL | .ENG_PARITY_TP | .ENG_MASK_TP_OFF | .RING_CFG_LOG2N | .TAG_PEEK_SEL_HEARTH | .KV_TAG_RESET_HEARTH | .LINK_STAT_HOLD_CAUSE | .FAR_INFO_SOCKET_POS | .NODE_CFG_ELECT_PRIO | .JOIN_STAT_JCAUSE | .SQ_CFG_LOG2N | .CQ_CFG_LOG2N | .AQ_CFG_LOG2N | .WIN_BASE_HI_TGT_HEARTH | .THERM_CFG_BANK_CEIL | .EQ_CFG_WINDOW | .TRAY_CFG => 4
  | .FEN_UE_LIMIT | .TICK_CFG_TICK_LEN_K | .TICK_STAT_KINDLE_TICK | .ADMIT_STAT_REASON | .ADMIT_STAT_RES_ID | .PLAN_STATE_CAUSE | .ALERT_EN | .PIPE_MASK | .CH_STAT_LAST_STATUS | .RUN_MODE_XMODE | .RUN_MODE_FLAGS | .RING_CFG_PEER_NODE | .TAG_PEEK_SEL_TAG | .KV_TAG_RESET_TAG | .FAR_INFO_NODE | .NODE_ID_ID | .NODE_CFG_NODE_REQ | .ELECT_STAT_CHIMNEY_NODE | .ELECT_STAT_ROW_CHIMNEY_NODE | .RT_SEL | .WIN_BASE_HI_NODE | .TS_UC | .RAIL_MAP_PAGE => 8
  | .TICK_CFG_TICK_SRC | .ENG_PARITY_WIN | .ENG_PARITY_BP | .ENG_MASK_WIN_OFF | .ENG_MASK_BP_OFF | .SUM_PART_COUNT | .STRM_CFG_IN_SRC | .FAR_INFO_ROLE | .ELECT_STAT_EFF_SRC | .CLK_CFG | .CLK_STAT_ACTIVE_GRADE => 2
  | .TICK_CFG_SRC_LINK | .PORT_SEL_LINK_SEL | .FAB_STAT | .RING_CFG_SLOT_LOG2 | .XB_PARK_STG | .XB_PARK_FEN | .XB_PARK_TILE | .XB_PARK_REG | .XB_PARK_FLTX | .XB_OBS_SEL | .FAR_INFO_LINK | .ELECT_STAT_EFF_LINK | .TRAY_ALERT_EN => 5
  | .TICK_COUNT | .KV_POOL_BASE => 48
  | .TICK_STAT_CHIP_STATE | .PLAN_STATE_STATE | .CH_STAT_STATE | .PSTAT | .RING_CFG_MODE | .XB_QOS_IO_PCIE_QOS | .XB_QOS_IO_FLRX_QOS | .XB_QOS_IO_KVU_QOS | .LINK_STAT_STATE | .JOIN_STAT_JSTATE | .THERM_CFG_RELIEF_LOG2 | .TJ_MEAS_HOT => 3
  | .MARKER_LAT | .XB_LOCK_TMO | .TJ_MEAS_MEAS | .TJ_MEAS_MODEL | .TJ_SAFE | .TRAY_T_INLET_T | .TRAY_T_EXHAUST_T => 10
  | .PORT_SEL_CHAN_SEL | .TRACE_CTL_ROW | .ENG_STAT_MIX_LIVE | .STRM_CFG_IN_CH | .STRM_CFG_HEAT_SLOT | .EQ_NOW_PRE | .EQ_NOW_MAIN | .EQ_NOW_POST | .EQ_NOW_CTLE | .EQ_UC_PRE | .EQ_UC_MAIN | .EQ_UC_POST | .EQ_UC_CTLE => 6
  | .PEEK_SEL | .LINK_LAT | .HEARTH_CFG => 11
  | .CH_DESC => 30
  | .SRC_CUR | .DST_CUR | .RING_BASE | .RING_PEER => 56
  | .PART_COUNT | .FIRST_BAD => 21
  | .SEQ_PEEK_SEL | .XB_AGE | .TRAY_P_CEIL | .TRAY_P => 12
  | .KV_POOL_CAP | .KV_POOL_TOP | .KV_PAGES_USED | .KV_PAGES_PROV => 19
  | .KV_SEQ_QUOTA => 13
  | .XB_PRI2 => 28
  | .FAR_DIE => 64
  | .SQ_CFG_BASE_IDX | .CQ_CFG_BASE_IDX | .AQ_CFG_BASE_IDX => 22
  | .WIN_BASE_LO_BASE_31_12 => 20
  | .ASH_QUIET => 31
  | .THERM_CFG_TJ_TARGET | .THERM_CFG_FAN_MIN | .THERM_CFG_FAN_CEIL | .FAN_DUTY | .TRAY_MAP_IN_ADDR | .TRAY_MAP_EX_ADDR | .TRAY_MAP_PSU_ADDR | .RAIL_MAP_ADDR | .FAN_FORCE_DUTY => 7
  | _ => 32

/-- Reset value of instance `i` (R494: every field but FX returns to it). CHAN_MASK gives hearth t channels 4t to 4t + 3
(Table 14.10). ELECT_PRIO is 8 − POS and TRAY_POS.POS is the strap: the value here is position A's, and
`State.afterReset` stores position B's. -/
def Fld.resetVal : Fld → Nat → Nat
  | .CHAN_MASK_LO, t => if t < 8 then 0xF * 2 ^ (4 * t) else 0
  | .CHAN_MASK_HI, t => if t < 8 then 0 else 0xF * 2 ^ (4 * (t - 8))
  | .SLICE_LIVE, _ | .FEN_LIVE, _ | .RAIL_LIM_HI, _ => 0xFFFF
  | .MIXER_LIVE, _ | .CRC_ACC, _ => 0xFFFFFFFF
  | .FEN_UE_LIMIT, _ | .XB_QOS_IO_FLRX_QOS, _ | .THERM_CFG_RELIEF_LOG2, _ | .THERM_CFG_BANK_CEIL, _ | .EQ_CFG_WINDOW, _ => 0x4
  | .TICK_CFG_TICK_LEN_K, _ | .FAB_STAT, _ => 0x10
  | .ADMIT_STAT_RES_ID, _ => 0xFF
  | .SLICE_MAP0, _ => 0x76543210
  | .SLICE_MAP1, _ => 0xFEDCBA98
  | .ENG_STAT_MIX_LIVE, _ => 0x20
  | .DMP_SHARE0, _ => 0x22222222
  | .DMP_CAP, _ | .KV_SEQ_QUOTA, _ => 0x100
  | .CH_CTRL_ENABLE, _ | .LINK_CTRL, _ | .EQ_CFG_ADAPT_EN, _ => 0x1
  | .XB_LOCK_TMO, _ => 0x40
  | .XB_QOS_EMB0, _ | .XB_QOS_EMB1, _ => 0x33333333
  | .XB_QOS_IO_PCIE_QOS, _ => 0x3
  | .XB_QOS_IO_KVU_QOS, _ => 0x6
  | .XB_AGE, _ | .DAMP_CFG, _ => 0x400
  | .XB_PARK_STG, _ | .XB_PARK_FEN, _ | .XB_PARK_TILE, _ | .XB_PARK_REG, _ | .XB_PARK_FLTX, _ => 0x1F
  | .NODE_CFG_ELECT_PRIO, _ => 0x8
  | .HEARTH_CFG, _ => 0x70
  | .CLK_CFG, _ => 0x2
  | .THERM_CFG_TJ_TARGET, _ => 0x55
  | .THERM_CFG_FAN_MIN, _ => 0x14
  | .THERM_CFG_FAN_CEIL, _ => 0x64
  | .TRAY_CFG, _ => 0xF
  | .TRAY_P_CEIL, _ => 0x5A0
  | _, _ => 0

/-- The shadowed group of an SH or UC field. -/
def Fld.group : Fld → Option GKind
  | .TICK_CFG_TICK_LEN_K | .TICK_CFG_TICK_SRC | .TICK_CFG_SRC_LINK | .TICK_CFG_TICK_OUT_EN => some .TICK
  | .FETCH_CFG | .PIPE_MASK => some .EMBER
  | .DMP_SHARE0 | .DMP_SHARE1 | .DMP_BORROW0 | .DMP_BORROW1 | .DMP_CAP | .DMP_BYPASS => some .DAMPER
  | .CH_IMG => some .CHAN
  | .STRM_CFG_IN_SRC | .STRM_CFG_IN_CH | .STRM_CFG_HEAT_EN | .STRM_CFG_HEAT_SLOT | .RING_CFG_MODE | .RING_CFG_PEER_WR | .RING_CFG_PEER_PARTNER | .RING_CFG_LOG2N | .RING_CFG_SLOT_LOG2 | .RING_CFG_PEER_NODE | .RING_BASE | .RING_PEER => some .STREAM
  | .KV_POOL_BASE | .KV_POOL_CAP => some .KVPOOL
  | .XB_LOCK_TMO | .XB_QOS_EMB0 | .XB_QOS_EMB1 | .XB_QOS_IO_PCIE_QOS | .XB_QOS_IO_FLRX_QOS | .XB_QOS_IO_KVU_QOS | .XB_AGE | .XB_ARB_MODE_STG | .XB_ARB_MODE_FEN | .XB_ARB_MODE_TILE | .XB_ARB_MODE_REG | .XB_ARB_MODE_FLTX | .XB_PRI0 | .XB_PRI1 | .XB_PRI2 | .XB_PARK_STG | .XB_PARK_FEN | .XB_PARK_TILE | .XB_PARK_REG | .XB_PARK_FLTX => some .XBAR
  | .NODE_CFG_NODE_REQ | .NODE_CFG_REQ_EN | .NODE_CFG_ELECT_PRIO | .NODE_CFG_ROW_KEY => some .NODE
  | .HEARTH_CFG | .CHAN_MASK_LO | .CHAN_MASK_HI | .PKEY | .WIN_BASE_LO_V | .WIN_BASE_LO_R | .WIN_BASE_LO_W | .WIN_BASE_LO_X | .WIN_BASE_LO_RMT_OK | .WIN_BASE_LO_SEAL | .WIN_BASE_LO_BASE_31_12 | .WIN_BASE_HI_BASE_47_32 | .WIN_BASE_HI_NODE | .WIN_BASE_HI_REMOTE | .WIN_BASE_HI_TGT_HEARTH | .WIN_SIZE | .WIN_KEY => some .HEARTH
  | .SQ_CFG_BASE_IDX | .SQ_CFG_LOG2N | .CQ_CFG_BASE_IDX | .CQ_CFG_LOG2N | .AQ_CFG_BASE_IDX | .AQ_CFG_LOG2N => some .QUEUE
  | .CLK_CFG => some .CLK
  | .THERM_CFG_TJ_TARGET | .THERM_CFG_RELIEF_LOG2 | .THERM_CFG_BANK_CEIL | .THERM_CFG_FAN_MIN | .THERM_CFG_FAN_CEIL => some .THERM
  | .TS_UC => some .CAL
  | .EQ_CFG_WINDOW | .EQ_CFG_ADAPT_EN | .EQ_UC_PRE | .EQ_UC_MAIN | .EQ_UC_POST | .EQ_UC_CTLE => some .EQ
  | .TRAY_CFG | .TRAY_P_CEIL | .TRAY_MAP_IN_ADDR | .TRAY_MAP_EX_ADDR | .TRAY_MAP_PSU_ADDR | .RAIL_LIM_LO | .RAIL_LIM_HI | .RAIL_MAP_ADDR | .RAIL_MAP_EN | .RAIL_MAP_PAGE => some .TRAY
  | _ => none

/-- The key under which instance `i` of a field is stored. -/
def Fld.key (f : Fld) (i : Nat) : Nat := f.ctorIdx * 1024 + i % 1024

/-- The fields of a group, with the number of instances of each in one instance of the group. -/
def GKind.fields : GKind → List (Fld × Nat)
  | .TICK => [(.TICK_CFG_TICK_LEN_K, 1), (.TICK_CFG_TICK_SRC, 1), (.TICK_CFG_SRC_LINK, 1), (.TICK_CFG_TICK_OUT_EN, 1)]
  | .EMBER => [(.FETCH_CFG, 1), (.PIPE_MASK, 1)]
  | .DAMPER => [(.DMP_SHARE0, 1), (.DMP_SHARE1, 1), (.DMP_BORROW0, 1), (.DMP_BORROW1, 1), (.DMP_CAP, 1), (.DMP_BYPASS, 1)]
  | .CHAN => [(.CH_IMG, 16)]
  | .STREAM => [(.STRM_CFG_IN_SRC, 1), (.STRM_CFG_IN_CH, 1), (.STRM_CFG_HEAT_EN, 1), (.STRM_CFG_HEAT_SLOT, 1), (.RING_CFG_MODE, 1), (.RING_CFG_PEER_WR, 1), (.RING_CFG_PEER_PARTNER, 1), (.RING_CFG_LOG2N, 1), (.RING_CFG_SLOT_LOG2, 1), (.RING_CFG_PEER_NODE, 1), (.RING_BASE, 1), (.RING_PEER, 1)]
  | .KVPOOL => [(.KV_POOL_BASE, 1), (.KV_POOL_CAP, 1)]
  | .XBAR => [(.XB_LOCK_TMO, 1), (.XB_QOS_EMB0, 1), (.XB_QOS_EMB1, 1), (.XB_QOS_IO_PCIE_QOS, 1), (.XB_QOS_IO_FLRX_QOS, 1), (.XB_QOS_IO_KVU_QOS, 1), (.XB_AGE, 1), (.XB_ARB_MODE_STG, 1), (.XB_ARB_MODE_FEN, 1), (.XB_ARB_MODE_TILE, 1), (.XB_ARB_MODE_REG, 1), (.XB_ARB_MODE_FLTX, 1), (.XB_PRI0, 1), (.XB_PRI1, 1), (.XB_PRI2, 1), (.XB_PARK_STG, 1), (.XB_PARK_FEN, 1), (.XB_PARK_TILE, 1), (.XB_PARK_REG, 1), (.XB_PARK_FLTX, 1)]
  | .NODE => [(.NODE_CFG_NODE_REQ, 1), (.NODE_CFG_REQ_EN, 1), (.NODE_CFG_ELECT_PRIO, 1), (.NODE_CFG_ROW_KEY, 1)]
  | .HEARTH => [(.HEARTH_CFG, 1), (.CHAN_MASK_LO, 1), (.CHAN_MASK_HI, 1), (.PKEY, 1), (.WIN_BASE_LO_V, 16), (.WIN_BASE_LO_R, 16), (.WIN_BASE_LO_W, 16), (.WIN_BASE_LO_X, 16), (.WIN_BASE_LO_RMT_OK, 16), (.WIN_BASE_LO_SEAL, 16), (.WIN_BASE_LO_BASE_31_12, 16), (.WIN_BASE_HI_BASE_47_32, 16), (.WIN_BASE_HI_NODE, 16), (.WIN_BASE_HI_REMOTE, 16), (.WIN_BASE_HI_TGT_HEARTH, 16), (.WIN_SIZE, 16), (.WIN_KEY, 16)]
  | .QUEUE => [(.SQ_CFG_BASE_IDX, 1), (.SQ_CFG_LOG2N, 1), (.CQ_CFG_BASE_IDX, 1), (.CQ_CFG_LOG2N, 1), (.AQ_CFG_BASE_IDX, 1), (.AQ_CFG_LOG2N, 1)]
  | .CLK => [(.CLK_CFG, 1)]
  | .THERM => [(.THERM_CFG_TJ_TARGET, 1), (.THERM_CFG_RELIEF_LOG2, 1), (.THERM_CFG_BANK_CEIL, 1), (.THERM_CFG_FAN_MIN, 1), (.THERM_CFG_FAN_CEIL, 1)]
  | .CAL => [(.TS_UC, 8)]
  | .EQ => [(.EQ_CFG_WINDOW, 1), (.EQ_CFG_ADAPT_EN, 1), (.EQ_UC_PRE, 1), (.EQ_UC_MAIN, 1), (.EQ_UC_POST, 1), (.EQ_UC_CTLE, 1)]
  | .TRAY => [(.TRAY_CFG, 1), (.TRAY_P_CEIL, 1), (.TRAY_MAP_IN_ADDR, 1), (.TRAY_MAP_EX_ADDR, 1), (.TRAY_MAP_PSU_ADDR, 1), (.RAIL_LIM_LO, 8), (.RAIL_LIM_HI, 8), (.RAIL_MAP_ADDR, 8), (.RAIL_MAP_EN, 8), (.RAIL_MAP_PAGE, 8)]

end Sys2Proof.Machine
end

