-- ==== Sys2Proof/Machine/State.lean ====
section
/-! DEFINITION. The state of the FJ-24: every register field, memory, queue, context, counter and pin that the spec gives
the chip, as plain data; the state after reset; the reasons a step can stop. -/

namespace Sys2Proof.Machine

/-- The reasons a command can stop the model. -/
inductive Fault where
  /-- Raised by the meanings of frame, burst and reading commands whose operand lists break `Instr.wf`: no such frame can
  stand on a wire (log entry 12). Safe: no command of the part is among them. -/
  | illFormed
  deriving DecidableEq, Repr

/-- The reasons a command can have no meaning. -/
inductive Refusal where
  /-- Raised by the arms of `exec` whose command has no meaning yet, by its mnemonic. Safe. -/
  | notModelled (mnemonic : String)
  deriving DecidableEq, Repr

/-- Whether the chip has power, fuses and clocks (R494, R507, R517, R527, R530). -/
inductive Power where
  | off            -- supply removed
  | fuseLoad       -- RESET# has risen; fuses loading, port frames ignored
  | run            -- clocks run, port served
  | stoppedHot     -- clocks stopped by R507, THERMTRIP# low
  | stoppedRail    -- clocks stopped by R527, THERMTRIP# released
  deriving DecidableEq, Repr

/-- Who an outstanding remote access belongs to. -/
inductive Owner where
  | ember (e tag : Nat)
  | dma (c : Nat) (planned : Bool)
  | flight (k : Nat)
  | reshard (id : Nat)
  | ring (c : Nat)
  | none
  deriving DecidableEq, Repr

/-- An outstanding posted write (R452, R454). -/
structure Posted where
  wid : Nat
  addr : Nat
  len : Nat
  hearth : Nat
  owner : Owner
  issue : Nat
  planned : Bool
  link : Nat
  deriving DecidableEq, Repr

/-- An outstanding remote read (R455): the reply's bytes go to the owner's cache at the global address. -/
structure RemoteRead where
  rid : Nat
  addr : Nat
  len : Nat
  hearth : Nat
  owner : Owner
  issue : Nat
  link : Nat
  deriving DecidableEq, Repr

/-- Who asked for a piece of work: what its completion record needs (Table 14.4). -/
structure Ctx where
  hearth : Nat := 0
  /-- 0 command, 1 ember instruction, 2 planned item, 3 partner KVREQ -/
  origin : Nat := 0
  tag : Nat := 0
  ref : Nat := 0
  /-- Acceptance tick of open work, or contracted completion tick of a planned item (R482). -/
  accept : Nat := 0
  start : Nat := 0
  cq : Bool := true
  /-- a fault posts a completion record whatever CQ is (R157); not so for a DMA transfer that no command asked for (R310) -/
  faultCq : Bool := true
  plan : Nat := 0
  link : Nat := 0
  pc : Nat := 0
  ember : Nat := 0
  deriving DecidableEq, Repr

/-- A completion record's contents before it is written (Table 14.4). -/
structure CqRec where
  status : Nat := 0
  note : Nat := 0
  err : Bool := false
  origin : Nat := 0
  late : Nat := 0
  tag : Nat := 0
  ref : Nat := 0
  r0 : Nat := 0
  r1 : Nat := 0
  cause : Nat := 0
  sub : Nat := 0
  deriving DecidableEq, Repr

/-- An ash record's contents before it is written (Table 14.6). -/
structure AshRec where
  cause : Nat := 0
  sub : Nat := 0
  origin : Nat := 0
  tag : Nat := 0
  id : Nat := 0
  addr : Nat := 0
  len : Nat := 0
  arg : Nat := 0
  issue : Nat := 0
  fail : Nat := 0
  pc : Nat := 0
  deriving DecidableEq, Repr

/-- A submission record that SQ_ENTRY_TAKE has read and found well formed (R471, R474). -/
structure Taken where
  hearth : Nat
  index : Nat
  tick : Nat
  bytes : List Byte
  deriving DecidableEq, Repr

/-- An entry of a hearth's instruction queue (Table 14.8). -/
structure QEntry where
  ctx : Ctx
  word : Word128
  prio : Bool
  deadline : Nat
  /-- a RESHARD command, which has no instruction word of its own -/
  cmd : Bool := false
  deriving DecidableEq, Repr

/-- A transfer waiting in a channel's queue (R304). -/
structure Xfer where
  ctx : Ctx
  /-- the 30-bit descriptor pointer; a register-path transfer takes that of CH_DESC when it starts -/
  ptr : Option Nat
  prio : Bool := false
  deadline : Nat := 0
  /-- started by CH_CTRL.START -/
  reg : Bool := false
  /-- global heat slot of a preheat -/
  heat : Option Nat := none
  /-- ring entry index, and the handle's ADDR, LEN and SPEC, of an IN_DMA transfer -/
  ring : Option (Nat × Nat × Nat × Nat) := none
  /-- cause of a refused read of that entry -/
  bad : Nat := 0
  /-- contracted completion cycle of a planned transfer -/
  contract : Nat := 0
  deriving DecidableEq, Repr

/-- A DMA descriptor's fields (Table 9.1). -/
structure DmaDesc where
  xmode : Nat := 0
  flags : Nat := 0
  p1 : Nat := 0
  src : Nat := 0
  dst : Nat := 0
  len : Nat := 0
  cnt : Nat := 0
  sstride : Nat := 0
  dstride : Nat := 0
  idxAddr : Nat := 0
  idxBound : Nat := 0
  seed : Nat := 0
  pattern : Nat := 0
  deriving DecidableEq, Repr

/-- What a context's transfer has come to when no group is left to issue. -/
inductive XEnd where
  | running | fault (cause sub addr len : Nat)
  deriving DecidableEq, Repr

/-- Bytes of a destination stream at consecutive addresses: whether they end a row, entry or plane, and whether a unit that REMAIN
counts is over with them (R298, R319). -/
structure DmaSeg where
  dst : Nat
  bytes : List Byte
  ends : Bool
  unit : Bool
  deriving DecidableEq, Repr

/-- A read group that has issued (R311): what becomes of its bytes, the bytes it reads, its requests, and the bytes with the cycle from
which they may leave. -/
structure DmaRead where
  dst : Nat := 0
  n : Nat
  ends : Bool := false
  unit : Bool := false
  src : Option (Nat × Nat) := none
  reqs : List Nat := []
  /-- cycle in which the last of its requests takes effect, once all are granted -/
  sample : Option Nat := none
  data : Option (List Byte) := none
  at_ : Nat := 0
  deriving DecidableEq, Repr

/-- Bytes that have left for local memory: their request, the cycles from its grant until they are visible, and that cycle. -/
structure DmaOut where
  ga : Nat
  bytes : List Byte
  req : Nat
  lat : Nat
  vis : Option Nat := none
  deriving DecidableEq, Repr

/-- One context of a DMA channel (R286). The running addresses and counts are register fields, instance `c` for the open
context and `64 + c` for the planned one. -/
structure DmaCtx where
  xfer : Option Xfer := none
  desc : DmaDesc := {}
  /-- a fault that the read side has met, which takes effect once everything read before it is written -/
  failing : XEnd := .running
  /-- source and destination of unit 0, which a resume moves (R320) -/
  sbase : Nat := 0
  dbase : Nat := 0
  /-- first cycle of the next read group (Table 9.4) -/
  next : Nat := 0
  /-- what is read next: row, entry or block; how many are left (bytes for COPY and FILL); bytes of it that are read -/
  rpos : Nat := 0
  rleft : Nat := 0
  roff : Nat := 0
  /-- what is written next, in the same measure -/
  pos : Nat := 0
  left : Nat := 0
  /-- address of the indexed block at `rpos`, once its entry is read; none inside for a NULL or out-of-range entry -/
  blk : Option (Option Nat) := none
  /-- the address that software has given the next block (R320) -/
  forced : Option Nat := none
  /-- read groups on their way, in order; bytes of a reshuffle block that have come; bytes that may leave; bytes that have left -/
  rds : List DmaRead := []
  raw : List Byte := []
  ready : List DmaSeg := []
  out : List DmaOut := []
  /-- SRC_CUR and DST_CUR as PAUSED showed them -/
  shown : Nat × Nat := (0, 0)
  /-- DILV with a check: what has been written, by address, and the check's registers before it (R302) -/
  wrote : List (Nat × List Byte) := []
  acc0 : Nat × Nat × Nat × List Byte := (0, 0, 0, [])
  /-- the index table as it stood at the start (R293) -/
  table : List Byte := []
  /-- the footprints were checked at start (R307), which a resume ends -/
  checked : Bool := false
  /-- bytes of the destination stream so far (R302) -/
  done : Nat := 0
  /-- cycle at which everything written so far is visible and the check is final -/
  due : Nat := 0
  ending : XEnd := .running
  /-- first backdraft cause among its remote writes (R309), and the index of its ash record -/
  backdraft : Nat := 0
  backAsh : Nat := 0
  /-- bytes of the context's index FIFO (R330), each with the first cycle in which it may be taken (R333), and whether its producer has
  faulted since it last filled (R336) -/
  fifo : List (Nat × Byte) := []
  producerFaulted : Bool := false
  /-- the transfer has moved everything and its OUT_DMA handle is not made yet (R341); an entry write awaits its
  acknowledgement (R340) -/
  ringWait : Bool := false
  ringStage : Bool := false
  deriving DecidableEq, Repr

/-- A DMA channel: queue and contexts (R286, R304). -/
structure Chan where
  queue : List Xfer := []
  /-- planned releases that wait for the planned context -/
  pwait : List Xfer := []
  opn : DmaCtx := {}
  pln : DmaCtx := {}
  deriving DecidableEq, Repr

/-- A store in an ember's buffer or on its way (R267): address, bytes, and the number of `order.sl` before it (R269). -/
structure Store where
  addr : Nat
  bytes : List Byte
  epoch : Nat
  /-- its request at the crossbar, once it has left (0 before) -/
  req : Nat := 0
  deriving DecidableEq, Repr

/-- A `reed.cp` in flight (R352, R354): the PC of its instruction, what it copies, its requests, and its bytes with the cycle in which they
leave. -/
structure Reed where
  pc : Nat
  src : Nat
  dst : Nat
  n : Nat
  prio : Nat
  nowait : Bool
  cq : Bool
  /-- `order.sl` executed before it (R269) -/
  epoch : Nat
  req : Nat
  data : Option (List Byte) := none
  at_ : Nat := 0
  wreq : Option Nat := none
  deriving DecidableEq, Repr

/-- What an ember waits for (R266). -/
inductive Wait where
  | none
  /-- the load's request at the crossbar, once it is made, and the first cycle in which a planned remote load's data may be back -/
  | load (addr wid rd : Nat) (signed cq : Bool) (due : Nat) (req : Option Nat)
  /-- its instruction waits in the hearth's instruction queue -/
  | queued
  | flight (k : Nat)
  | orderG (rd : Nat) (cq : Bool)
  | syncI (cq : Bool)
  | reed
  /-- the entry write of a handle, by its WID; whether it has failed (R340) -/
  | ringPut (c rd : Nat) (cq : Bool) (wid : Nat) (failed : Bool)
  | heat (slot rd : Nat) (cq : Bool)
  deriving DecidableEq, Repr

/-- An ember context (R253 to R260). -/
structure Ember where
  live : Bool := false
  planned : Bool := false
  plan : Nat := 0
  /-- contracted completion cycle of a planned ember; 0 where none is given -/
  contract : Nat := 0
  hearth : Nat := 0
  lean : Bool := false
  pc : Nat := 0
  regs : List (Nat × Word64) := []
  incarn : Nat := 0
  buf : List Store := []
  air : List Store := []
  reeds : List Reed := []
  /-- fetch window: copies of the instructions from `pc` on (R279); filled when it is empty, not before cycle `stale` (R276) -/
  win : List Word128 := []
  stale : Nat := 0
  wait : Wait := .none
  /-- earliest cycle of the next issue (Table 8.3), and one past the cycle of the last one (R265) -/
  next : Nat := 0
  issued : Nat := 0
  /-- `order.sl` executed so far (R269) -/
  epoch : Nat := 0
  backdrafts : Nat := 0
  draining : Bool := false
  exitCq : Bool := false
  cache : List (Nat × Byte) := []
  deriving DecidableEq, Repr

/-- A sequence slot of the KV unit (R363). -/
structure Seq where
  opened : Bool := false
  hearth : Nat := 0
  rowLog2 : Nat := 0
  ptAddr : Nat := 0
  maxPages : Nat := 0
  len : Nat := 0
  plen : Nat := 0
  pspec : Nat := 0
  broken : Bool := false
  deriving DecidableEq, Repr

/-- A speculation tag of a hearth (R369): 0 IDLE, 1 OPEN, 2 CONFIRMED, 3 SQUASHED. -/
structure SpecTag where
  st : Nat := 0
  inFlight : Nat := 0
  closed : Nat := 0
  deriving DecidableEq, Repr

/-- What an instruction in flight still does when it completes. -/
inductive Fin_ where
  | none
  /-- an append (R375, R379): its sequences, rows of each, tag, address of every row, pages taken as (sequence, entry, frame),
  and the frames as they left the pool -/
  | kvAppend (seqs : List Nat) (rows spec : Nat) (spots : List Nat) (news : List (Nat × Nat × Nat)) (popped : List Nat)
  /-- a confirm or squash that waits for the appends of its tag (R383, R384), and the frames it has to push so far -/
  | kvSettle (keep : Nat) (frames : List Nat)
  /-- frames to push (R383, R384) -/
  | kvPush (frames : List Nat)
  /-- sequences to close and frames to push (R388) -/
  | kvClose (seqs frames : List Nat)
  /-- handle to make on a channel: ADDR, LEN, SPEC (R382) -/
  | kvRing (c addr len spec : Nat)
  deriving DecidableEq, Repr

/-- Why work is refused or faulted: a cause of Table 14.7 with its sub-code, and the address and length of the access that
failed, where there was one. -/
structure Flaw where
  cause : Nat
  sub : Nat := 0
  addr : Nat := 0
  len : Nat := 0
  arg : Nat := 0
  deriving DecidableEq, Repr

/-- What a cycle of a tile-form instruction's ledger does (Tables 5.8, 6.3, 7.7; R246), by local addresses. -/
inductive Act where
  /-- `n` bytes from `a` on are read through port A, or (`b`) port B -/
  | read (b : Bool) (a n : Nat)
  /-- map `r` reads `na` bytes of data from `a` on and `nb` of its index or route word from `b` on (R215) -/
  | map (r a na b nb : Nat)
  /-- the engine has all its input (Table 7.7) -/
  | run
  /-- compute cycle `i` of a mixer (R246) -/
  | part (i : Nat)
  /-- a beat of a move: `n` bytes from `a` on are written at `da`, `wait` cycles later -/
  | beat (a n da wait : Nat)
  /-- a beat of `mov.z` -/
  | zero (da n : Nat)
  deriving DecidableEq, Repr

/-- A write of a tile-form instruction that is still to come: an engine write-back, or one through the move port (R175). -/
structure RowWrite where
  at_ : Nat
  move : Bool := false
  data : List (Nat × List Byte) := []
  /-- what the write adds to the counters (R200, R226), and the number of its map -/
  sat : Nat := 0
  nan : Nat := 0
  coll : Nat := 0
  oor : Nat := 0
  map : Nat := 0
  /-- the cause for which its map faults (R199) -/
  cause : Nat := 0
  /-- a captured route word (R221) -/
  trace : Bool := false
  deriving DecidableEq, Repr

/-- How long an instruction or a piece takes one side of a unit, from its release on (R247); class 16 + c is the move port of class c. -/
structure Side where
  cls : Nat
  unit : Nat
  in0 : Nat
  in1 : Nat
  out0 : Nat
  out1 : Nat
  deriving DecidableEq, Repr

/-- A piece of a descriptor-form instruction (R162): its ledger (R217, R248) and what it writes. -/
structure Piece where
  no : Nat
  /-- source bytes in order, by global address: whole inner tiles -/
  src : List (Nat × Nat) := []
  /-- cycles in which it takes its input; cycles for which it holds the unit's input side; when its output begins; cycles until it
  completes -/
  inC : Nat
  hold : Nat
  out0 : Nat
  total : Nat
  /-- destination bytes of a map, an output beat or a compute cycle, and the cycles from one to the next (R199, R250) -/
  step : Nat
  pace : Nat := 1
  /-- destination on this chip -/
  range : List (Nat × Nat) := []
  /-- bytes by global address in destination order; none until the source bytes are there -/
  data : Option (List (Nat × List Byte)) := none
  sat : Nat := 0
  nan : Nat := 0
  coll : Nat := 0
  /-- why the instruction faults at this piece -/
  flaw : Option Flaw := none
  /-- fen bytes per share that its output still has to take, once it has ended (R39, R326) -/
  owe : Option (List (Nat × Nat)) := none
  deriving DecidableEq, Repr

/-- A piece that runs: its unit, its mixer array (R209), the cycles of input that are left and those after them. -/
structure RunPiece where
  piece : Piece
  unit : Nat
  mixer : Option Nat := none
  left : Nat
  tail : Nat
  deriving DecidableEq, Repr

/-- An engine, tile-move or KV instruction that has issued and not completed (R190). -/
structure Flight where
  id : Nat
  ctx : Ctx
  word : Word128
  planned : Bool := false
  /-- logical units that a plan assigned -/
  units : List Nat := []
  /-- units that a tile-form instruction takes -/
  sides : List Side := []
  /-- descriptors as read at issue, by local address (R127) -/
  descs : List (Nat × List Byte) := []
  /-- completion status, R0, R1, CAUSE, SUB, note; of a fault also ADDR and LEN, and ARG in `r0` -/
  status : Nat := 0
  r0 : Nat := 0
  r1 : Nat := 0
  cause : Nat := 0
  sub : Nat := 0
  note : Nat := 0
  addr : Nat := 0
  len : Nat := 0
  /-- ash record of the backdraft that failed it (R454) -/
  ash : Option Nat := none
  /-- end of its ledger, and the contracted completion of a planned item -/
  due : Nat := 0
  contract : Nat := 0
  /-- remote source bytes are awaited before the data effect; those received, by global address -/
  fetching : Bool := false
  cache : List (Nat × Byte) := []
  /-- destination footprints of this chip, (address, bytes) -/
  range : List (Nat × Nat) := []
  /-- destination bytes of this chip as they stood, of a KV append -/
  undo : List (Nat × Byte) := []
  /-- a tile-form instruction's ledger from its release on; what is left of it, by register-clock cycle; writes to come; and the bytes
  read so far through ports A and B -/
  ledger : List (Nat × Act) := []
  acts : List (Nat × Act) := []
  writes : List RowWrite := []
  capA : List Byte := []
  capB : List Byte := []
  /-- pre-empted, and to be released again (R188) -/
  again : Bool := false
  /-- a descriptor-form instruction's pieces: those that have not started, from cycle `start` on; those that run; those that have ended
  before an earlier one; and the number of the next to take effect -/
  start : Nat := 0
  todo : List Piece := []
  runs : List RunPiece := []
  ended : List Piece := []
  next : Nat := 0
  /-- out-of-range lanes or entries so far, and the first map or entry that had one (R142, R200) -/
  oor : Nat := 0
  first : Nat := 0
  /-- fen bytes per share that a KV operation still has to take (R39, R326) -/
  owe : List (Nat × Nat) := []
  /-- remote destination bytes not yet posted -/
  out : List (Nat × List Byte) := []
  /-- speculation tag of a KV operation -/
  tag : Nat := 0
  /-- lowest and one past the highest written destination byte outside KV pages (R385) -/
  lo : Nat := 0
  hi : Nat := 0
  /-- pool-stack accesses that are still to be made in locked sequences (R413), and broken locks so far (R415) -/
  stack : Nat := 0
  breaks : Nat := 0
  done : Fin_ := .none
  /-- the entry write of its handle awaits its acknowledgement (R340) -/
  ringStage : Bool := false
  deriving DecidableEq, Repr

/-- One budget entry of a plan image with its slot maps, one mask per tick of the period (R45). -/
structure Budget where
  res : Nat
  maxSlots : Nat
  maxBytes : Nat
  maps : List Nat
  deriving DecidableEq, Repr

/-- An alternate-route entry (R451). -/
structure Alt where
  link : Nat
  alt : Nat
  rx : Bool
  deriving DecidableEq, Repr

/-- A plan command waiting for a boundary (R554). -/
structure PendCmd where
  tick : Nat
  resume : Bool
  ctx : Ctx
  deriving DecidableEq, Repr

/-- A PLAN_LOAD taken and not yet decided (R48). -/
structure PendLoad where
  ctx : Ctx
  addr : Nat
  gen : Nat
  order : Nat
  boundaries : Nat
  takenClk : Nat
  deriving DecidableEq, Repr

/-- A plan slot beyond its PLAN_STATE register (Table 2.10). -/
structure Plan where
  uid : Nat := 0
  addr : Nat := 0
  len : Nat := 0
  sealed : Bool := false
  tickLenK : Nat := 0
  grade : Nat := 0
  slices : Nat := 0
  mixers : Nat := 0
  bankSlack : Nat := 0
  period : Nat := 1
  budgets : List Budget := []
  alts : List Alt := []
  /-- PLAN_TICK; a plan that has not run since its last start stands one below its first plan tick (`fresh`) -/
  tick : Nat := 0
  fresh : Bool := true
  load : Option PendLoad := none
  pend : Option PendCmd := none
  retire : Option PendCmd := none
  /-- releases have stopped and the slot waits for its last item (R52) -/
  retiring : Bool := false
  /-- a miss has been reported and the plan awaits suspension (R58, R60) -/
  missed : Bool := false
  deriving DecidableEq, Repr

/-- A planned item released and not complete (R38). -/
structure Released where
  id : Nat
  plan : Nat
  index : Nat
  word : Word128
  units : List Nat
  /-- contracted completion cycle; 0 where none is given -/
  contract : Nat
  deriving DecidableEq, Repr

/-- A tick marker's fields (R434). -/
structure Mark where
  hops : Nat := 0
  lead : Nat := 0
  bankNext : Bool := false
  kindleNext : Bool := false
  abort : Bool := false
  mbrNext : Bool := false
  n : Nat := 0
  susp : List Nat := []
  deriving DecidableEq, Repr

/-- A snapshot of a shadowed group waiting to apply (R97). -/
structure Snapshot where
  grp : Group
  vals : List (Nat × Nat)
  bound : Bool
  /-- accepted in cycle B − 64 or later, so that the latch for B does not bind it (R63) -/
  late : Bool := false
  deriving DecidableEq, Repr

/-- A frame that is being sent: the header words and the data bytes that have not left yet (R421). -/
structure TxFrame where
  frame : Frame
  words : Nat
  bytes : Nat
  deriving DecidableEq, Repr

/-- One block sent and not acknowledged (R428): its sequenced content, and the frames that end in it. -/
structure TxBlock where
  seq : Nat
  data : List Byte := []
  hdr : Word64 := 0
  /-- CR_CLASS and CR_COUNT, which every copy carries (R426) -/
  crClass : Nat := 0
  crCount : Nat := 0
  frames : List Frame := []
  /-- sent in a claimed slot, or carries part of a planned frame (R429) -/
  planned : Bool
  /-- last cycle of the slot it was sent in, from the start of its tick (R41), and the running plan that claimed that slot, plus 1 -/
  slotEnd : Nat := 0
  plan : Nat := 0
  replays : Nat
  /-- awaits its replay, if planned in a retry slot (R429) -/
  naked : Bool := false
  deriving DecidableEq, Repr

/-- The identity record last received on a link (Table 13.4), fields no register shows. -/
structure FarIdent where
  valid : Bool := false
  role : Nat := 0
  die : Nat := 0
  prio : Nat := 0
  rowKey : Nat := 0
  trayDie : Nat := 0
  chimney : Bool := false
  deriving DecidableEq, Repr

/-- A flue link beyond its registers. -/
structure Link where
  rxNext : Nat := 0
  rxHeld : List (Nat × Block) := []
  /-- header words and data bytes accepted in order (R421) -/
  rxHdr : List Word64 := []
  rxData : List Byte := []
  /-- whole frames that wait for their own command, and planned ones held until cycle D (R429; log entry 13) -/
  rxq : List Frame := []
  held : List Frame := []
  txNext : Nat := 0
  unacked : List TxBlock := []
  /-- frames that wait to be sent, and those in the course of being sent -/
  txq : List Frame := []
  txCur : List TxFrame := []
  /-- planned frames of a lost link, which go in retry slots (R432) -/
  again : List Frame := []
  /-- frames for other nodes on their way to this link, with the cycle of their arrival (R449) -/
  passing : List (Nat × Frame) := []
  /-- the cycle in which a marker was handed on (R435) -/
  markAt : Option Nat := none
  /-- when the next block leaves, in fifths of a register-clock cycle; the transmit slot of the last one, and its planned data bytes -/
  txAt : Nat := 0
  txSlot : Nat := 0
  txPlanned : Nat := 0
  /-- credits of the classes REQ and RSP to return (R425) -/
  owedReq : Nat := 0
  owedRsp : Nat := 0
  /-- the block that left last -/
  wire : Option Block := none
  nakSeq : Nat := 0
  nakRun : Nat := 0
  /-- the cycle since which ACK_SEQ has not advanced while blocks are unacknowledged (R431) -/
  ackAt : Nat := 0
  failed : Nat := 0
  /-- settled by the 10 ms limit (R65) -/
  timedOut : Bool := false
  /-- the block this end has to NAK -/
  nakOwed : Option Nat := none
  /-- the far end's IDENT has come since block lock (R438) -/
  heard : Bool := false
  far : FarIdent := {}
  probes : Nat := 0
  maxTrip : Nat := 0
  pid : Nat := 0
  /-- LINK_LAT measured during the last kindling (R433) -/
  kindleLat : Option Nat := none
  /-- held until the next boundary after a good re-measurement -/
  rejoin : Bool := false
  /-- the first cycle in which each adapted equaliser value may take its next step (R508) -/
  eqAt : List (Nat × Nat) := []
  deriving DecidableEq, Repr

/-- A move of a reshard that is not sent yet: its bytes, or the global address they are read from (R152). -/
structure RMove where
  src : Nat := 0
  data : Option (List Byte) := none
  len : Nat
  dst : Nat
  /-- fen bytes that its source took where its bytes are at hand, and fen bytes per share that it still has to take (R39, R326) -/
  rd : Nat := 0
  owe : Option (List (Nat × Nat)) := none
  deriving DecidableEq, Repr

/-- A reshard in flight (R145 to R153). -/
structure Reshard where
  /-- RESHARD_ID -/
  id : Nat
  ctx : Ctx
  planned : Bool := false
  contract : Nat := 0
  moves : List RMove
  /-- nodes that hold a source or destination part -/
  nodes : List Nat
  /-- it performs a move list (R152) -/
  list : Bool := false
  /-- bytes due from other nodes, and those that have arrived -/
  expectIn : Nat
  gotIn : Nat := 0
  /-- local destination footprints; and, without a move list, the bytes due that have not arrived: node, address, length -/
  inRanges : List (Nat × Nat)
  due : List (Nat × Nat × Nat) := []
  cause : Nat := 0
  /-- ash record of the backdraft that failed it -/
  ash : Option Nat := none
  /-- the RESHARD_CANCEL commands that wait for it -/
  cancel : List Ctx := []
  cache : List (Nat × Byte) := []
  deriving DecidableEq, Repr

/-- What a hearth holds beyond its registers: the completion hold (R480) and the instruction queue (Table 14.8). -/
structure Hearth where
  hold : List CqRec := []
  iq : List QEntry := []
  /-- discarded counts of the reset in progress (R487) -/
  discStores : Nat := 0
  discWork : Nat := 0
  /-- ash records that arrive while the reset runs, which follow RESET_DONE in the queue (R489) -/
  ashHold : List AshRec := []
  deriving DecidableEq, Repr

/-- What reaches the chimney for a marker (R54, R59, R66, R69): bank requests, an abort, missed PLAN_UIDs and nodes ready to
kindle. -/
structure Asks where
  bankThermal : Bool := false
  bankSoft : Bool := false
  abortReq : Bool := false
  misses : List Nat := []
  ready : List Nat := []
  deriving DecidableEq, Repr

/-- The tick machinery beyond its registers. -/
structure TickSt where
  firstLock : Bool := false
  good : Nat := 0
  /-- chimney: composed and not sent -/
  composed : Option Mark := none
  /-- arrived (or own) marker for the coming boundary, not latched -/
  arrived : Option Mark := none
  latched : Option Mark := none
  didLatch : Bool := false
  lossAtLatch : Bool := false
  /-- suspensions, kindling, abort and member map announced for the coming boundary by the marker of the last one -/
  susp : List Nat := []
  kindleNext : Bool := false
  abort : Bool := false
  mbrNext : Bool := false
  /-- chimney: requests and reports that the next marker carries -/
  bankThermal : Bool := false
  bankSoft : Bool := false
  misses : List Nat := []
  ready : List Nat := []
  abortReq : Bool := false
  /-- those that came in cycle B − 1,024 or later, for the marker after it (R54, R62) -/
  late : Asks := {}
  /-- this node's own software bank request waits for the answer of a marker, and whether that is the one latched next (R54, R56) -/
  ownAsk : Option Bool := none
  /-- this node's KINDLE accepted and waiting -/
  kindleWait : Bool := false
  /-- the tick that opens is kindling tick 0 of a joiner (R445) -/
  joinTick : Option Nat := none
  maxMarker : Nat := 0
  srcLost : Bool := false
  /-- boundary of the last marker followed, and markers seen since the spacing check began (R497) -/
  lastB : Option Nat := none
  seen : Nat := 0
  /-- the boundary after kindling tick 255 has opened the current tick (R68) -/
  kdone : Bool := false
  deriving DecidableEq, Repr

/-- Discovery and membership beyond registers (R438 to R448). -/
structure NodeSt where
  /-- 0 none, 1 tray scope, 2 Row scope, 3 ended -/
  scope : Nat := 0
  bestPrio : Nat := 0
  bestDie : Nat := 0
  trayDie : Nat := 0
  /-- nodes of the domain: DIE_ID, requested id if any, assigned id -/
  known : List (Nat × Option Nat × Option Nat) := []
  pendMap : Option (Nat × List Nat) := none
  /-- chimney: nodes to add, each with the first tick that may (R445), and to remove at the next member map -/
  toAdd : List (Nat × Nat) := []
  toDrop : List Nat := []
  lossCount : List (Nat × Nat) := []
  leaving : Bool := false
  leaveSent : Bool := false
  /-- DIE_ID of the Row chimney; ELECT_STAT.EFF_SRC and EFF_LINK replace the configured source (R447) -/
  rowDie : Nat := 0
  eff : Bool := false
  deriving DecidableEq, Repr

/-- The thermal loops beyond registers (R500 to R507). -/
structure ThermSt where
  lastRelief : Option Nat := none
  pendingRelief : Bool := false
  /-- HOT# and FAN_MAX# as this chip drives them, and FAN_MAX# as sensed -/
  hotLow : Bool := false
  fanMaxDrive : Bool := false
  fanMaxLow : Bool := false
  fanDecline : Bool := false
  opened : Nat := 0
  /-- the chip was tray chimney at the last boundary (R504) -/
  chimneySeen : Bool := false
  deriving DecidableEq, Repr

/-- Tray management beyond registers (R511, R512). -/
structure TraySt where
  powers : List Nat := []
  railBad : List (Nat × Nat) := []
  fanBad : List (Nat × Nat) := []
  deriving DecidableEq, Repr

/-- The controlled power-down (R513 to R515): stage 0 is none. -/
structure DampSt where
  stage : Nat := 0
  entered : Nat := 0
  held : Bool := false
  deriving DecidableEq, Repr

/-- The reuse latch of one engine read port (R178): class, logical unit, row. -/
structure Latch where
  port : Nat
  cls : Nat
  unit : Nat
  row : Nat
  deriving DecidableEq, Repr

/-- Liveness masks of slices, mixer arrays and fen channels: as the maps and budgets in force count them, and as the last
latch fixed them for the coming boundary (R62, R64); the units that have had a parity error since the chip reset (R218);
the fenced channels whose page-table scan has not run (R390). -/
structure Units where
  mapSlices : Nat := 0xFFFF
  mapMixers : Nat := 0xFFFFFFFF
  mapFen : Nat := 0xFFFF
  fixSlices : Nat := 0xFFFF
  fixMixers : Nat := 0xFFFFFFFF
  fixFen : Nat := 0xFFFF
  parSlices : Nat := 0
  parMixers : Nat := 0
  scan : Nat := 0
  /-- units declared dead in cycle B − 64 or later, which the latch for B does not count yet (R64) -/
  lateSlices : Nat := 0
  lateMixers : Nat := 0
  lateFen : Nat := 0
  /-- links in service when the current tick opened: the claims of the others have moved to their alternates (R451) -/
  mapLinks : Nat := 0
  /-- fen channels whose refresh windows kindling has phased, channel `c` at `c` sixteenths of the refresh interval (Table 2.8) -/
  phased : Nat := 0
  deriving DecidableEq, Repr

/-- A request at a target port of the crossbar (R401). -/
structure XbReq where
  id : Nat
  master : Nat
  tid : Nat
  write : Bool
  qos : Nat
  /-- a planned request's plan -/
  plan : Option Nat := none
  /-- the hearth whose DMA channel or ember asks -/
  hearth : Option Nat := none
  port : Nat
  beats : Nat
  /-- fen bytes that an open request takes from each share as it is granted (R326) -/
  cost : List (Nat × Nat) := []
  /-- first cycle in which it may be granted, and cycles from its grant until its response is back or its write visible -/
  since : Nat
  lat : Nat
  /-- cycle of its grant -/
  got : Option Nat := none
  deriving DecidableEq, Repr

/-- The state of the chip. -/
structure State where
  power : Power := .fuseLoad
  fuses : Fuses := ⟨0, 0, [], []⟩
  /-- register-clock cycles since reset, and cycle within the tick (R27) -/
  clk : Nat := 0
  cyc : Nat := 0
  /-- uses made so far of the free values of Config (the model's own counter, not the spec's) -/
  free : Nat := 0
  /-- stored register fields, active copies: (key, value), listed where it differs from the reset value -/
  reg : List (Nat × Nat) := []
  /-- shadow copies of SH and UC fields (R97) -/
  shadow : List (Nat × Nat) := []
  commits : List Snapshot := []
  /-- FEN, STAGING and TILE bytes by local address -/
  mem : List Host.Cell := []
  units : Units := {}
  latches : List Latch := []
  /-- when the input and the output side of each engine unit are free, by class × 32 + logical unit, and when its move port is, by
  (16 + class) × 32 + unit (R164, R247) -/
  sides : List (Nat × Nat × Nat) := []
  /-- row bytes that accesses through the tile windows have changed in cycle `rowClk`, as they stood at its start (R175) -/
  rowClk : Nat := 0
  rowOld : List (Nat × Byte) := []
  /-- staging bytes that writes have changed in cycle `codeClk`, as they stood at its start (R278) -/
  codeClk : Nat := 0
  codeOld : List (Nat × Byte) := []
  /-- the first cycle at which each pipe may issue again (R265) -/
  pipes : List (Nat × Nat) := []
  /-- the first cycle in which the management port serves a frame (R530) -/
  portAt : Nat := 0
  /-- bytes MISO returned in the last frame (data and status bytes) -/
  miso : List Byte := []
  /-- the level of MISO at each rising SCK edge of the last frame, from CS# fall on (R81, R82, R85) -/
  misoLine : List Bool := []
  /-- the last register write: its cycle, the place of its path in the order of R93, and the hardware update of that cycle with the
  register it met (R94) -/
  lastWrite : Option (Nat × Nat) := none
  lastHw : Option (Nat × Nat × Nat) := none
  /-- the bits of the last marker on TICK_OUT, in the order in which they leave, and the cycle of the first (R436) -/
  tickOut : List Bool := []
  tickOutAt : Nat := 0
  /-- bytes the last BAR read returned -/
  bus : List Byte := []
  /-- MSI-X vectors fired, by function × 2 + vector (R463) -/
  msix : List (Nat × Nat) := []
  tk : TickSt := {}
  plans : List (Nat × Plan) := []
  released : List Released := []
  relNext : Nat := 0
  loadNext : Nat := 0
  hearths : List (Nat × Hearth) := []
  sqNext : Nat := 0
  /-- one past the cycle in which the last submission entry was taken (R471) -/
  sqAt : Nat := 0
  taken : List Taken := []
  chans : List (Nat × Chan) := []
  embers : List (Nat × Ember) := []
  /-- heat slots: 0 IDLE, 1 FILLING, 2 READY, 3 FAILED (R347) -/
  heat : List (Nat × Nat) := []
  /-- those that have changed in cycle `heatClk`, as they stood at its start (R349) -/
  heatClk : Nat := 0
  heatOld : List (Nat × Nat) := []
  /-- requests at the crossbar's target ports that wait or are outstanding; the master last granted at each port (R401, R409) -/
  xb : List XbReq := []
  xbNext : Nat := 0
  xbLast : List (Nat × Nat) := []
  /-- beats that a port has accepted and not yet served, at the cycle given; masters stand above 128 (R397, R400) -/
  xbOwed : List (Nat × Nat × Nat) := []
  /-- locked sequences: port, flight, and the cycle in which the sequence ends; 0 between two sequences of one operation (R413) -/
  locks : List (Nat × Nat × Nat) := []
  /-- fen bytes of the slot that began in cycle `slotAt`: used by open work by share, by plan `p` and share at 8 + 4p + share, and planned
  beats of channel `c` at 128 + c (R39, R326, R406) -/
  slotAt : Nat := 0
  slotUse : List (Nat × Nat) := []
  /-- first cycle of the next descriptor-path start of the DMA engine (R355), and the channel whose open group was granted last (R314) -/
  dmaStart : Nat := 0
  dmaLast : Nat := 63
  /-- ring indices as they stood at the start of cycle `ringClk`, of the channels whose own or peer index it has changed (R339) -/
  ringClk : Nat := 0
  ringOld : List (Nat × Nat × Nat) := []
  /-- damper buckets and bytes borrowed this tick, by share × 16 + hearth (R314, R315) -/
  bucket : List (Nat × Nat) := []
  borrowed : List (Nat × Nat) := []
  /-- one past the first cycle of the slot in which the buckets last gained -/
  fillAt : Nat := 0
  seqs : List (Nat × Seq) := []
  /-- sequences whose page table software has written since they were opened (R365) -/
  tampered : List Nat := []
  tags : List (Nat × SpecTag) := []
  flights : List Flight := []
  flightNext : Nat := 0
  reshards : List Reshard := []
  /-- bytes of incoming writes that no reshard has counted yet: source node, address, length (R146) -/
  landed : List (Nat × Nat × Nat) := []
  posted : List Posted := []
  reads : List RemoteRead := []
  /-- WIDs resolved as LOST, with the tick until which each is not reused (R454) -/
  lateWids : List (Nat × Nat) := []
  widNext : Nat := 0
  ridNext : Nat := 0
  links : List (Nat × Link) := []
  node : NodeSt := {}
  therm : ThermSt := {}
  tray : TraySt := {}
  damp : DampSt := {}
  /-- THERMTRIP# driven low; PCIe configured (false after PERST# until the host sets it up again) -/
  thermtripLow : Bool := false
  pcieUp : Bool := true
  /-- the host's queue of waiting commands -/
  pending : List Instr := []
  deriving DecidableEq, Repr

/-- The machine right after a cold reset: RESET# has risen at position A (log entry 6), every register field at its reset
value (R494), fuses still loading (R530). -/
def State.reset : State := {}

end Sys2Proof.Machine
end

