-- ==== Sys2Proof/Machine/Ops.lean ====
section
/-! DEFINITION. The named operations over the state: sparse maps, register fields, memory bytes, time, free values, and the
shape every meaning shares. -/

namespace Sys2Proof.Machine

/-- What a meaning answers. -/
abbrev Answer := Host.Outcome State Fault Refusal

/-! ### Sparse maps: a key that is not listed holds the default -/

def mget {α : Type} (d : α) (k : Nat) : List (Nat × α) → α
  | [] => d
  | e :: r => if e.1 = k then e.2 else mget d k r

def minsert {α : Type} (k : Nat) (v : α) : List (Nat × α) → List (Nat × α)
  | [] => [(k, v)]
  | e :: r => if k < e.1 then (k, v) :: e :: r else e :: minsert k v r

/-- Writing the default removes the entry, so that equal maps are equal lists. -/
def mput {α : Type} [DecidableEq α] (d : α) (k : Nat) (v : α) (m : List (Nat × α)) : List (Nat × α) :=
  if v = d then m.filter (fun e => e.1 != k) else minsert k v (m.filter (fun e => e.1 != k))

/-! ### Register fields -/

/-- The active copy of instance `i` of a field. -/
def State.fld (s : State) (f : Fld) (i : Nat := 0) : Nat := mget (f.resetVal i) (f.key i) s.reg

/-- The active copy of a one-bit field. -/
def State.flag (s : State) (f : Fld) (i : Nat := 0) : Bool := s.fld f i != 0

def State.setFld (s : State) (f : Fld) (i : Nat) (v : Nat) : State :=
  { s with reg := mput (f.resetVal i) (f.key i) (v % 2 ^ f.width) s.reg }

/-- The shadow copy of a field of a shadowed group (R97). -/
def State.shd (s : State) (f : Fld) (i : Nat := 0) : Nat := mget (f.resetVal i) (f.key i) s.shadow

def State.setShd (s : State) (f : Fld) (i : Nat) (v : Nat) : State :=
  { s with shadow := mput (f.resetVal i) (f.key i) (v % 2 ^ f.width) s.shadow }

/-- Bit `b` of a field. -/
def State.fbit (s : State) (f : Fld) (i b : Nat) : Bool := (s.fld f i).testBit b

/-- Set bit `b` of a number. -/
def orBit (x b : Nat) : Nat := x ||| 2 ^ b

/-- Clear bit `b` of a number. -/
def clearBit (x b : Nat) : Nat := if x.testBit b then x - 2 ^ b else x

def State.setFbit (s : State) (f : Fld) (i b : Nat) : State := s.setFld f i (orBit (s.fld f i) b)

def State.clrFbit (s : State) (f : Fld) (i b : Nat) : State := s.setFld f i (clearBit (s.fld f i) b)

/-- `n` events on an event counter (R96, HW+); past the width the value is free (log entry 14). -/
def State.bump (s : State) (f : Fld) (i : Nat := 0) (n : Nat := 1) : State :=
  if s.fld f i + n < 2 ^ f.width then s.setFld f i (s.fld f i + n)
  else { s.setFld f i (Config.counterOver s.free).toNat with free := s.free + 1 }

/-! ### Memory -/

/-- An unlisted byte reads 0 (R494 for tile rows; log entry 4 for fen memory and staging SRAM). -/
def State.byte (s : State) (a : Nat) : Byte := mget 0 a s.mem

def State.setByte (s : State) (a : Nat) (b : Byte) : State := { s with mem := mput 0 a b s.mem }

def State.bytes (s : State) (a n : Nat) : List Byte := (List.range n).map fun k => s.byte (a + k)

/-- Writing `bs` to consecutive addresses from `a`. -/
def memSet (m : List Host.Cell) (a : Nat) : List Byte → List Host.Cell
  | [] => m
  | b :: r => memSet (mput 0 a b m) (a + 1) r

def State.setBytes (s : State) (a : Nat) (bs : List Byte) : State := { s with mem := memSet s.mem a bs }

/-- Every byte from `lo` up to `hi` becomes 0. -/
def State.zeroRange (s : State) (lo hi : Nat) : State :=
  { s with mem := s.mem.filter fun e => !(lo ≤ e.1 && e.1 < hi) }

/-- Addresses strictly rising and no entry equal to what an unlisted address reads as. -/
def Memory.wf : List Host.Cell → Bool
  | [] => true
  | [e] => e.2 != 0
  | e :: f :: r => e.2 != 0 && e.1 < f.1 && Memory.wf (f :: r)

/-- The number that bytes stand for, least significant first (R6). -/
def leNat : List Byte → Nat
  | [] => 0
  | b :: r => b.toNat + 256 * leNat r

/-- `n` bytes of a number, least significant first (R6). -/
def leBytes : Nat → Nat → List Byte
  | 0, _ => []
  | n + 1, x => BitVec.ofNat 8 x :: leBytes n (x / 256)

/-- The `n`-byte little-endian number at an address. -/
def State.num (s : State) (a n : Nat) : Nat := leNat (s.bytes a n)

/-! ### Byte runs -/

/-- Runs of written bytes, with their addresses. -/
def runs (a : Nat) : List (Option Byte) → List (Nat × List Byte)
  | [] => []
  | none :: r => runs (a + 1) r
  | some b :: r =>
    match runs (a + 1) r with
    | (c, bs) :: t => if c = a + 1 then (a, b :: bs) :: t else (a, [b]) :: (c, bs) :: t
    | [] => [(a, [b])]

/-! ### Free values -/

def freeBytesFrom (k : Nat) : Nat → List Byte
  | 0 => []
  | n + 1 => Config.freeByte k :: freeBytesFrom (k + 1) n

/-! ### Time -/

/-- Cycles of a tick: TICK_LEN_K x 1,024 (R26). -/
def State.tickLen (s : State) : Nat := 1024 * s.fld .TICK_CFG_TICK_LEN_K

/-- TICK_COUNT, all 48 bits (R28). -/
def State.now (s : State) : Nat := s.fld .TICK_COUNT

/-- `n` register-clock cycles pass within the tick; the tick's last cycle lasts until TICK_BOUNDARY (log entry 2). -/
def State.advance (s : State) (n : Nat) : State :=
  { s with clk := s.clk + n, cyc := min (s.cyc + n) (s.tickLen - 1) }

/-- The clock moves forward to register-clock cycle `c`, if it is not there yet (log entry 3). -/
def State.advanceTo (s : State) (c : Nat) : State := s.advance (c - s.clk)

/-- Cycle B − `n` of the coming boundary has come (R62). -/
def State.within (s : State) (n : Nat) : Bool := s.tk.firstLock && s.tickLen - n ≤ s.cyc

/-- The requests and reports that the chimney's next marker carries. -/
def TickSt.asks (k : TickSt) : Asks :=
  { bankThermal := k.bankThermal, bankSoft := k.bankSoft, abortReq := k.abortReq, misses := k.misses, ready := k.ready }

def TickSt.setAsks (k : TickSt) (a : Asks) : TickSt :=
  { k with bankThermal := a.bankThermal, bankSoft := a.bankSoft, abortReq := a.abortReq, misses := a.misses, ready := a.ready }

/-- A request or report reaches the chimney: for its next marker before cycle B − 1,024, else for the one after (R54, R62). -/
def State.ask (s : State) (f : Asks → Asks) : State :=
  { s with tk := if s.within 1024 then { s.tk with late := f s.tk.late } else s.tk.setAsks (f s.tk.asks) }

/-- Where a request that reaches the chimney now is kept. -/
def State.asked (s : State) : Asks := if s.within 1024 then s.tk.late else s.tk.asks

/-- `l` with `x`, once. -/
def withOne (l : List Nat) (x : Nat) : List Nat := if l.contains x then l else l ++ [x]

/-- Two sets of requests together. -/
def Asks.join (a b : Asks) : Asks :=
  { bankThermal := a.bankThermal || b.bankThermal, bankSoft := a.bankSoft || b.bankSoft, abortReq := a.abortReq || b.abortReq,
    misses := b.misses.foldl withOne a.misses, ready := b.ready.foldl withOne a.ready }

/-! ### Parts of the state by index -/

def State.plan (s : State) (p : Nat) : Plan := mget {} p s.plans
def State.setPlan (s : State) (p : Nat) (v : Plan) : State := { s with plans := mput {} p v s.plans }
def State.hearth (s : State) (t : Nat) : Hearth := mget {} t s.hearths
def State.setHearth (s : State) (t : Nat) (v : Hearth) : State := { s with hearths := mput {} t v s.hearths }
def State.chan (s : State) (c : Nat) : Chan := mget {} c s.chans
def State.setChan (s : State) (c : Nat) (v : Chan) : State := { s with chans := mput {} c v s.chans }
def State.ember (s : State) (e : Nat) : Ember := mget {} e s.embers
def State.setEmber (s : State) (e : Nat) (v : Ember) : State := { s with embers := mput {} e v s.embers }
def State.link (s : State) (n : Nat) : Link := mget {} n s.links
def State.setLink (s : State) (n : Nat) (v : Link) : State := { s with links := mput {} n v s.links }
def State.seq (s : State) (q : Nat) : Seq := mget {} q s.seqs
def State.setSeq (s : State) (q : Nat) (v : Seq) : State := { s with seqs := mput {} q v s.seqs }
/-- Tag `g` of hearth `t` (R369). -/
def State.tag (s : State) (t g : Nat) : SpecTag := mget {} (t * 256 + g) s.tags
def State.setTag (s : State) (t g : Nat) (v : SpecTag) : State := { s with tags := mput {} (t * 256 + g) v s.tags }
def State.heatSt (s : State) (h : Nat) : Nat := mget 0 h s.heat

/-- The slot's state at the start of the cycle (R349). -/
def State.heatThen (s : State) (h : Nat) : Nat := if s.heatClk = s.clk then mget (s.heatSt h) h s.heatOld else s.heatSt h

def State.setHeat (s : State) (h v : Nat) : State :=
  let old := if s.heatClk = s.clk then s.heatOld else []
  { s with heat := mput 0 h v s.heat, heatClk := s.clk, heatOld := if old.any (·.1 = h) then old else old ++ [(h, s.heatSt h)] }

/-- The context of a channel: open or planned. -/
def State.dctx (s : State) (c : Nat) (planned : Bool) : DmaCtx := if planned then (s.chan c).pln else (s.chan c).opn
def State.setDctx (s : State) (c : Nat) (planned : Bool) (v : DmaCtx) : State :=
  s.setChan c (if planned then { s.chan c with pln := v } else { s.chan c with opn := v })

/-- Every index below `n`, in order. -/
def upTo (n : Nat) : List Nat := List.range n

/-- `f` on the state for every member of a list, in order. -/
def forAll {α : Type} (l : List α) (f : α → State → State) (s : State) : State := l.foldl (fun s a => f a s) s

/-- `f` on the state where a condition holds. -/
def State.on (s : State) (c : Bool) (f : State → State) : State := if c then f s else s

/-! ### The shape of a meaning -/

/-- The running chip's part of a command: it changes nothing while the chip has no clocks, no power or no fuses yet (R507,
R527, R530). What it cannot reach: the host's queue, the fuses, and the clocks and THERMTRIP#, which only the commands of
Machine/Resets.lean change. -/
def State.running (s : State) (f : State → State) : State :=
  if s.power = .run then
    { f s with pending := s.pending, power := .run, fuses := s.fuses, thermtripLow := s.thermtripLow }
  else s

/-- A command of the running chip. -/
def live (s : State) (f : State → State) : Answer := .next (s.running f)

/-- The same for a command whose operand list must be one that the wire can carry (log entry 12). -/
def liveIf (ok : Bool) (s : State) (f : State → State) : Answer := if ok then live s f else .fault .illFormed

end Sys2Proof.Machine
end

