-- ==== Sys2Proof/Machine/Access.lean ====
section
/-! DEFINITION. Addresses and the checks made on them: the local map (R109 to R114), the tile windows (R167, R168), address
windows and keys (R464 to R466), sealed regions (R282, R466) and fenced channels (R112). A check answers 0 where the access
passes, and else the cause of Table 14.7 or Table 13.6. -/

namespace Sys2Proof.Machine

/-- Node id and local address of a 56-bit global address (R107). -/
def nodeOf (ga : Nat) : Nat := ga / 2 ^ 48 % 256
def localOf (ga : Nat) : Nat := ga % 2 ^ 48

/-- The chip's own node id (R108); it reads 0 before one is assigned (Table 13.8). -/
def State.ownNode (s : State) : Nat := s.fld .NODE_ID_ID

def State.isOwn (s : State) (ga : Nat) : Bool := nodeOf ga = s.ownNode

/-- A local address as this node's global address. -/
def State.global (s : State) (a : Nat) : Nat := s.ownNode * 2 ^ 48 + a

/-- The regions of Table 4.1. -/
inductive Region where
  | fen | staging | tile | mirror | partner
  deriving DecidableEq, Repr

def Region.base : Region → Nat
  | .fen => 0 | .staging => 0x1000000000 | .tile => 0x2000000000 | .mirror => 0x3000000000 | .partner => 0x4000000000

/-- One past the region's last address. -/
def Region.limit : Region → Nat
  | .fen => 0x600000000 | .staging => 0x100A000000 | .tile => 0x3000000000 | .mirror => 0x3000080000
  | .partner => 0x5000000000

/-- The region an address lies in (R109). -/
def regionOf (a : Nat) : Option Region :=
  [Region.fen, .staging, .tile, .mirror, .partner].find? fun r => r.base ≤ a && a < r.limit

/-- Live logical units of the two remapped classes (FAB_STAT, ENG_STAT.MIX_LIVE). -/
def State.liveSlices (s : State) : Nat := s.fld .FAB_STAT
def State.liveMixers (s : State) : Nat := s.fld .ENG_STAT_MIX_LIVE

/-- The holes of the TILE region: Table 5.6 and the windows of units that are not live (R168). -/
def State.tileHoles (s : State) : List (Nat × Nat) :=
  [(0x2000000000 + s.liveSlices * 0x10000, 0x2000100000), (0x20003C0000, 0x2000400000),
   (0x2000400000 + s.liveMixers * 0x8000, 0x3000000000)]

/-- Whether the `n` bytes from `a` and the bytes from `lo` up to `hi` share one. -/
def overlaps (a n lo hi : Nat) : Bool := max a lo < min (a + n) hi

/-- The links in service that lead to the partner of window `w`, ascending (R419). -/
def State.partnerLinks (s : State) (w : Nat) : List Nat :=
  (upTo 24).filter fun n => s.fbit .LINK_LIVE 0 n && s.fld .FAR_INFO_ROLE n = 2 && s.fld .FAR_INFO_SOCKET_POS n = w

/-- The hole and span checks on this node's own map (R110, R114, R168). -/
def State.spanOk (s : State) (a n : Nat) : Bool :=
  match regionOf a with
  | none => false
  | some r =>
    a + n ≤ r.limit &&
    match r with
    | .tile => s.tileHoles.all fun h => !overlaps a n h.1 h.2
    | .partner =>
      (upTo 16).all fun w =>
        !overlaps a n (0x4000000000 + w * 0x100000000) (0x4000000000 + (w + 1) * 0x100000000) ||
          !(s.partnerLinks w).isEmpty
    | _ => true

/-- The span check on another node's map, of which only the fixed part is known here. -/
def spanFar (a n : Nat) : Bool :=
  match regionOf a with
  | none => false
  | some r => a + n ≤ r.limit

/-- Fen channel and offset within it of a fen address (R111). -/
def fenChan (a : Nat) : Nat := bitsOf a 16 4 ^^^ bitsOf a 20 4 ^^^ bitsOf a 24 4 ^^^ bitsOf a 28 4
def fenOffset (a : Nat) : Nat := bitsOf a 20 15 * 2 ^ 16 + a % 2 ^ 16

/-- Whether a fen access touches a fenced channel (R112): every aligned 64 KiB unit lies in one channel. -/
def State.fenced (s : State) (a n : Nat) : Bool :=
  regionOf a = some .fen &&
    (List.range ((a + n - 1) / 65536 + 1 - a / 65536)).any fun k => !s.fbit .FEN_LIVE 0 (fenChan ((a / 65536 + k) * 65536))

/-- An address window as its registers give it (Table 14.10). -/
structure Win where
  v : Bool
  r : Bool
  w : Bool
  x : Bool
  rmtOk : Bool
  sealed : Bool
  base : Nat
  size : Nat
  node : Nat
  remote : Bool
  tgt : Nat
  key : Nat
  deriving DecidableEq, Repr

/-- Active window `n` of hearth `t`. -/
def State.win (s : State) (t n : Nat) : Win :=
  let i := t * 16 + n
  { v := s.flag .WIN_BASE_LO_V i, r := s.flag .WIN_BASE_LO_R i, w := s.flag .WIN_BASE_LO_W i,
    x := s.flag .WIN_BASE_LO_X i, rmtOk := s.flag .WIN_BASE_LO_RMT_OK i, sealed := s.flag .WIN_BASE_LO_SEAL i,
    base := s.fld .WIN_BASE_HI_BASE_47_32 i * 2 ^ 32 + s.fld .WIN_BASE_LO_BASE_31_12 i * 2 ^ 12,
    size := s.fld .WIN_SIZE i * 4096, node := s.fld .WIN_BASE_HI_NODE i, remote := s.flag .WIN_BASE_HI_REMOTE i,
    tgt := s.fld .WIN_BASE_HI_TGT_HEARTH i, key := s.fld .WIN_KEY i }

def Win.covers (w : Win) (a n : Nat) : Bool := w.v && w.base ≤ a && a + n ≤ w.base + w.size

/-- Read, write or instruction fetch. -/
inductive AKind where
  | r | w | x
  deriving DecidableEq, Repr

def Win.permits (w : Win) : AKind → Bool
  | .r => w.r | .w => w.w | .x => w.x

/-- The access's window (R464 step 2): the lowest-numbered valid window that contains the whole access. -/
def State.accessWin (s : State) (t ga n : Nat) : Option Win :=
  ((upTo 16).map (s.win t)).find? fun w =>
    w.covers (localOf ga) n && (if s.isOwn ga then !w.remote else w.remote && w.node = nodeOf ga)

/-- Whether `n` bytes at local `a` touch a sealed weight region (R466). -/
def State.sealedHit (s : State) (a n : Nat) : Bool :=
  (upTo 256).any fun i =>
    let w := s.win (i / 16) (i % 16)
    w.v && w.sealed && !w.remote && overlaps a n w.base (w.base + w.size)

/-- Whether `n` bytes at local `a` touch a sealed plan image (R282). -/
def State.planHit (s : State) (a n : Nat) : Bool :=
  s.plans.any fun e => e.2.sealed && overlaps a n e.2.addr (e.2.addr + e.2.len)

/-- R464: the checks of every access of hearth `t` to `n` bytes at global address `ga`; 0 or a cause of Table 14.7. -/
def State.hearthFault (s : State) (t ga n : Nat) (k : AKind) : Nat :=
  let a := localOf ga
  let own := s.isOwn ga
  if !(if own then s.spanOk a n else spanFar a n) then 0x01
  else match s.accessWin t ga n with
    | none => 0x03
    | some w =>
      if !w.permits k then 0x04
      else if own && k = .w && s.sealedHit a n then 0x05
      else if own && k = .w && s.planHit a n then 0x06
      else if own && s.fenced a n then 0x0F
      else 0

/-- R465: the checks of an incoming remote or partner access to hearth `t`; 0 or a cause of Table 13.6. -/
def State.incomingFault (s : State) (t a n key : Nat) (k : AKind) : Nat :=
  if !s.spanOk a n || regionOf a = some .tile || regionOf a = some .partner then 2
  else match ((upTo 16).map (s.win t)).find? (fun w => w.covers a n && !w.remote && w.rmtOk && w.key = key) with
    | none => 3
    | some w =>
      if !w.permits k then 3
      else if k = .w && (s.sealedHit a n || s.planHit a n) then 2
      else if s.fenced a n then 4
      else 0

/-- R462: the checks of a PF access through BAR2, beyond holes; 0 or a cause of Table 14.7. -/
def State.pfFault (s : State) (a n : Nat) (k : AKind) : Nat :=
  if k = .w && s.sealedHit a n then 0x05
  else if k = .w && s.planHit a n then 0x06
  else if s.fenced a n then 0x0F
  else 0

/-- The hearth that owns a channel under the active CHAN_MASKs, if one does (R468). -/
def State.ownsChan (s : State) (t c : Nat) : Bool :=
  if c < 32 then s.fbit .CHAN_MASK_LO t c else s.fbit .CHAN_MASK_HI t (c - 32)

def State.chanOwner (s : State) (c : Nat) : Option Nat := (upTo 16).find? fun t => s.ownsChan t c

def State.expert (s : State) (t : Nat) : Bool := s.fbit .EXPERT_CTL_TENANT_EXPERT 0 t

/-- Whether a node is a member of the domain (MEMBER_i). -/
def State.isMember (s : State) (n : Nat) : Bool := s.fbit .MEMBER (n / 32) (n % 32)

end Sys2Proof.Machine
end

