-- ==== Sys2Proof/Machine/Shares.lean ====
section
/-! DEFINITION. The fixed split of fen bandwidth: the shares of Table 2.2, what plans claim of them, and what accesses take (R34, R37, R39,
R53, R312, R326 to R329). -/

namespace Sys2Proof.Machine

/-! ### Budgets (Table 2.2) -/

/-- Set bits among the low `w`. -/
def popcount (w m : Nat) : Nat := ((upTo w).filter m.testBit).length

/-- FEN_RD share, FEN_WR and FEN_RM share, and their planned budgets, in bytes per slot at each grade. -/
def fenShares (grade : Nat) : Nat × Nat × Nat × Nat :=
  match grade with
  | 0 => (76533, 71749, 38266, 35874)
  | 1 => (65600, 61500, 32800, 30750)
  | 2 => (57400, 53812, 28700, 26906)
  | _ => (51022, 47833, 25511, 23916)

/-- Fenced channels that budgets count (R37). -/
def State.fencedCount (s : State) : Nat := 16 - popcount 16 s.units.mapFen

/-- Per-slot budget of fen share `res`, scaled for fenced channels (R34, R37). -/
def State.shareBudget (s : State) (res : Nat) : Nat :=
  let g := fenShares (s.fld .CLK_STAT_ACTIVE_GRADE)
  (if res = 0 then g.1 else g.2.2.1) * (16 - s.fencedCount) / 16

/-- Planned budget of fen share `res`: that of Table 2.2, and never more than the scaled share (log entry 22). -/
def State.plannedBudget (s : State) (res : Nat) : Nat :=
  let g := fenShares (s.fld .CLK_STAT_ACTIVE_GRADE)
  min (if res = 0 then g.2.1 else g.2.2.2) (s.shareBudget res)

/-! ### Plans that claim -/

def plEmpty : Nat := 0
def plChecking : Nat := 1
def plAdmitted : Nat := 2
def plRunning : Nat := 3
def plSuspended : Nat := 4

def State.planSt (s : State) (p : Nat) : Nat := s.fld .PLAN_STATE_STATE p
def State.plansIn (s : State) (st : Nat → Bool) : List Nat := (upTo 16).filter fun p => st (s.planSt p)

/-- A plan's envelope on an entry: the slots it claims in any tick (R45). -/
def envelope (b : Budget) : Nat := b.maps.foldl (· ||| ·) 0

/-! ### Shares of fen bandwidth -/

/-- Aligned units of `u` bytes that `n` bytes at `a` touch. -/
def unitsIn (u a n : Nat) : Nat := if n = 0 then 0 else (a + n - 1) / u - a / u + 1

/-- Aligned 64-byte beats, and 32-byte ECC units. -/
def beats (a n : Nat) : Nat := unitsIn 64 a n
def eccUnits (a n : Nat) : Nat := unitsIn 32 a n

/-- Aligned 32-byte ECC units that `n` bytes at `a` cover in part (R299). -/
def partUnits (a n : Nat) : Nat := eccUnits a n - ((a + n) / 32 - ceilDiv a 32)

/-- Fen bytes that a local agent's access of `n` bytes takes from each share, in units of `u` bytes (R299, R326): share 0 FEN_RD, 1
FEN_WR, 2 FEN_RM. -/
def fenCost (u a n : Nat) (wr : Bool) : List (Nat × Nat) :=
  if regionOf a != some .fen then []
  else if wr then [(1, u * unitsIn u a n), (0, 32 * partUnits a n)]
  else [(0, u * unitsIn u a n)]

def sumOf (l : List Nat) : Nat := l.foldl (· + ·) 0

/-- Sums per share. -/
def totals (l : List (Nat × Nat)) : List (Nat × Nat) := (upTo 3).map fun k => (k, sumOf ((l.filter (·.1 = k)).map (·.2)))

/-- First cycle of the current slot. -/
def State.slotStart (s : State) : Nat := s.clk - s.cyc % 64

/-- What has been used in the current slot under a key of `slotUse`. -/
def State.slotUsed (s : State) (k : Nat) : Nat := if s.slotAt = s.slotStart then mget 0 k s.slotUse else 0

def State.slotDraw (s : State) (k n : Nat) : State :=
  { s with slotAt := s.slotStart
           slotUse := mput 0 k (s.slotUsed k + n) (if s.slotAt = s.slotStart then s.slotUse else []) }

/-- Bytes of share `res` that plan `p` claims in slot `sl` of this tick (R53). -/
def State.planClaim (s : State) (p res sl : Nat) : Nat :=
  (((s.plan p).budgets.filter fun b => b.res = res &&
      (if s.flag .TICK_STAT_BANKED then (envelope b).testBit sl
       else (b.maps.getD ((s.plan p).tick % (s.plan p).period) 0).testBit sl)).map (·.maxBytes)).foldl (· + ·) 0

/-- Bytes of share `res` that running plans claim in slot `sl` of this tick (R53, R314). -/
def State.claimed (s : State) (res sl : Nat) : Nat :=
  ((s.plansIn (· = plRunning)).map fun p => s.planClaim p res sl).foldl (· + ·) 0

/-- The open budget of a share in the current slot, and what is left of it (R39, R327). -/
def State.openBudget (s : State) (res : Nat) : Nat := s.shareBudget res - s.claimed res (s.cyc / 64)
def State.openLeft (s : State) (res : Nat) : Nat := s.openBudget res - s.slotUsed res

/-- Key of what plan `p` has used of a share. -/
def planKey (p res : Nat) : Nat := 8 + 4 * p + res

/-- A plan that has a budget entry for a share takes no more from it in a slot than it claims there (R312; log entry 107). -/
def State.planFits (s : State) (p : Nat) (cost : List (Nat × Nat)) : Bool :=
  (totals cost).all fun e =>
    e.2 = 0 || !((s.plan p).budgets.any (·.res = e.1)) || s.slotUsed (planKey p e.1) + e.2 ≤ s.planClaim p e.1 (s.cyc / 64)

def State.openFits (s : State) (cost : List (Nat × Nat)) : Bool := (totals cost).all fun e => e.2 = 0 || e.2 ≤ s.openLeft e.1

/-- Fen bytes are charged: to a plan, or to open work. -/
def State.fenDraw (s : State) (plan : Option Nat) (cost : List (Nat × Nat)) : State :=
  forAll ((totals cost).filter (·.2 != 0)) (fun e s => s.slotDraw (match plan with | some p => planKey p e.1 | none => e.1) e.2) s

/-- What is left to be paid of `cost`: a plan's bytes are charged at once, open ones as far as the slot's open budgets hold them. -/
def State.payShares (s : State) (plan : Option Nat) (cost : List (Nat × Nat)) : State × List (Nat × Nat) :=
  match plan with
  | some _ => (s.fenDraw plan cost, [])
  | none =>
    let now := (totals cost).map fun e => (e.1, min e.2 (s.openLeft e.1))
    (s.fenDraw none now, ((totals cost).map fun e => (e.1, e.2 - min e.2 (s.openLeft e.1))).filter (·.2 != 0))

end Sys2Proof.Machine
end

