-- ==== Sys2Proof/Machine/Visible.lean ====
section
/-! DEFINITION. Writes that become visible in fen memory, staging SRAM and tile rows (R144), with what that does to reuse latches (R180) and
fetch windows (R276, R278), and the refusals of sealed regions and images (R282, R466). -/

namespace Sys2Proof.Machine

/-- Unit class, logical unit and row of a tile-window address (Table 5.6). -/
def tileRow (a : Nat) : Option (Nat × Nat × Nat) :=
  if a < 0x2000000000 then none
  else if a < 0x2000100000 then some (2, (a - 0x2000000000) / 0x10000, a % 0x10000 / 0x400)
  else if a < 0x2000300000 then some (3, (a - 0x2000100000) / 0x80000, (a - 0x2000100000) % 0x80000 / 0x400)
  else if a < 0x2000380000 then some (4, (a - 0x2000300000) / 0x40000, (a - 0x2000300000) % 0x40000 / 0x400)
  else if a < 0x20003C0000 then some (5, (a - 0x2000380000) / 0x20000, (a - 0x2000380000) % 0x20000 / 0x400)
  else if a < 0x2000400000 then none
  else if a < 0x2000500000 then some (6, (a - 0x2000400000) / 0x8000, (a - 0x2000400000) % 0x8000 / 0x400)
  else none

/-- Address of row `row` of logical unit `u` of a class (Table 5.6). -/
def rowAddr (cls u row : Nat) : Nat :=
  (match cls with
   | 2 => 0x2000000000 + u * 0x10000
   | 3 => 0x2000100000 + u * 0x80000
   | 4 => 0x2000300000 + u * 0x40000
   | 5 => 0x2000380000 + u * 0x20000
   | _ => 0x2000400000 + u * 0x8000) + row * 0x400

/-- Move-port and engine-port rates (Table 5.5). -/
def portRate (cls : Nat) : Nat := match cls with | 2 => 1024 | 3 => 512 | 4 => 512 | _ => 256

/-! ### Fetch windows -/

/-- Whether one of the ember's own stores, copies among them (R358), overlaps `n` bytes at a global address. -/
def Ember.ownStore (m : Ember) (ga n : Nat) : Bool :=
  ((m.buf ++ m.air).any fun b => overlaps ga n b.addr (b.addr + b.bytes.length)) ||
    m.reeds.any fun r => overlaps ga n r.dst (r.dst + r.n)

/-- Every store and copy of the ember is visible. -/
def Ember.storesOut (m : Ember) : Bool := m.buf.isEmpty && m.air.isEmpty && m.reeds.isEmpty

/-- Nothing of the ember's last holder is on the crossbar any more. -/
def Ember.offBus (m : Ember) : Bool := m.air.isEmpty && m.reeds.isEmpty

/-- R276: in checked mode the fetch window is discarded from the first instruction that the bytes touch. -/
def Ember.touched (m : Ember) (a n clk : Nat) : Ember × Bool :=
  if !m.live || m.lean || !overlaps a n m.pc (m.pc + 16 * m.win.length) then (m, false)
  else ({ m with win := m.win.take ((a - m.pc) / 16), stale := max m.stale (clk + 24) }, true)

/-- R276 for every ember. -/
def State.refetch (s : State) (a n : Nat) : State :=
  if regionOf a != some .staging then s
  else
    let hits := (s.embers.filter fun e => (e.2.touched a n s.clk).2).map (·.1)
    forAll hits (fun e s => (s.setEmber e ((s.ember e).touched a n s.clk).1).bump .REFETCH_COUNT) s

/-- Staging bytes that change: what they were at the start of the cycle is kept until the cycle ends, for the fetches of this cycle (R278). -/
def State.keepCode (s : State) (a n : Nat) : State :=
  if regionOf a != some .staging then s
  else
    let old := if s.codeClk = s.clk then s.codeOld else []
    { s with codeClk := s.clk
             codeOld := old ++ ((upTo n).map (fun k => (a + k, s.byte (a + k)))).filter fun e => !old.any (·.1 = e.1) }

/-- A staging byte as a fetch of this cycle finds it (R278). -/
def State.codeByte (s : State) (a : Nat) : Byte := if s.codeClk = s.clk then mget (s.byte a) a s.codeOld else s.byte a

/-! ### Reuse latches -/

def State.dropLatches (s : State) (p : Latch → Bool) : State := { s with latches := s.latches.filter fun l => !p l }

/-- R180: a write invalidates the reuse latches of the rows it touches. -/
def State.unlatch (s : State) (a n : Nat) : State :=
  if regionOf a != some .tile then s
  else s.dropLatches fun l => overlaps a n (rowAddr l.cls l.unit l.row) (rowAddr l.cls l.unit l.row + 0x400)

/-! ### Writes -/

/-- Bytes become visible in fen memory, staging SRAM or tile rows (R144). -/
def State.show (s : State) (a : Nat) (bs : List Byte) : State :=
  if bs.isEmpty then s else (((s.keepCode a bs.length).setBytes a bs).unlatch a bs.length).refetch a bs.length

/-- The same; a write to a fenced channel is discarded (R112). -/
def State.store (s : State) (a : Nat) (bs : List Byte) : State :=
  if !s.fenced a bs.length then s.show a bs
  else
    forAll (runs a (bs.zipIdx.map fun e => if s.fbit .FEN_LIVE 0 (fenChan (a + e.2)) then some e.1 else none))
      (fun e s => s.show e.1 e.2) s

/-- R282: a refused write to a sealed plan image counts. -/
def State.countSeal (s : State) (cause : Nat) : State := s.on (cause = 0x06) fun s => s.bump .SELF_MOD_COUNT

/-- A sealed weight region or plan image refuses the write (R282, R466); 0 or the cause. -/
def State.sealFault (s : State) (a n : Nat) : Nat := if s.sealedHit a n then 0x05 else if s.planHit a n then 0x06 else 0

/-- A write by a unit of the chip to its own tables: a sealed region or image refuses it (R282, R466). -/
def State.unitStore (s : State) (a : Nat) (bs : List Byte) : State :=
  let c := s.sealFault a bs.length
  if c = 0 then (s.fenDraw none (fenCost 32 a bs.length true)).store a bs else s.countSeal c

/-- `n` undefined bytes from `a` (log entry 8). -/
def State.undefBytes (s : State) (a n : Nat) : State := { s with free := s.free + n }.show a (freeBytesFrom s.free n)

end Sys2Proof.Machine
end

