-- ==== Sys2Proof/Machine/Flags.lean ====
section
/-! DEFINITION. What the chip reports: ash records and completion records in their queues (R471 to R484), MSI-X vectors
(R463), alerts (R105, R106). -/

namespace Sys2Proof.Machine

/-! ### Queues in staging memory (R469) -/

/-- Entries of a queue with the given LOG2N; one outside 4 to 12 has no room (log entry 15). -/
def queueSize (log2n : Nat) : Nat := if 4 ≤ log2n && log2n ≤ 12 then 2 ^ log2n else 0

def State.cqN (s : State) (t : Nat) : Nat := queueSize (s.fld .CQ_CFG_LOG2N t)
def State.aqN (s : State) (t : Nat) : Nat := queueSize (s.fld .AQ_CFG_LOG2N t)
def State.sqN (s : State) (t : Nat) : Nat := queueSize (s.fld .SQ_CFG_LOG2N t)

/-- Occupancy of free-running indices (R469). -/
def occupancy (tail head : Nat) : Nat := (tail + 2 ^ 32 - head) % 2 ^ 32

def State.cqOcc (s : State) (t : Nat) : Nat := occupancy (s.fld .CQ_TAIL t) (s.fld .CQ_HEAD t)
def State.aqOcc (s : State) (t : Nat) : Nat := occupancy (s.fld .AQ_TAIL t) (s.fld .AQ_HEAD t)
def State.sqOcc (s : State) (t : Nat) : Nat := occupancy (s.fld .SQ_TAIL t) (s.fld .SQ_HEAD t)

/-- Address of entry `i` of a queue (R469). -/
def queueEntry (baseIdx n size i : Nat) : Nat := 0x1000000000 + baseIdx * 64 + i % n * size

/-! ### MSI-X (R463) -/

def State.fire (s : State) (fn vec : Nat) : State :=
  { s with msix := mput 0 (fn * 2 + vec) (mget 0 (fn * 2 + vec) s.msix + 1) s.msix }

/-- Vector `vec` of hearth `t`'s function, and of the PF for H0. -/
def State.fireHearth (s : State) (t vec : Nat) : State := (s.fire (t + 1) vec).on (t = 0) fun s => s.fire 0 vec

/-! ### Ash queue (R477 to R479, R492) -/

/-- The 64 bytes of Table 14.6; `phase` is bit LOG2N of the index (R472). -/
def ashBytes (r : AshRec) (phase : Nat) : List Byte :=
  leBytes 1 r.cause ++ leBytes 1 r.sub ++ leBytes 2 (r.origin % 8 + phase * 8) ++ leBytes 2 r.tag ++ leBytes 2 r.id ++
  leBytes 8 r.addr ++ leBytes 4 r.len ++ leBytes 4 (min r.arg 0xFFFFFFFF) ++ leBytes 8 (r.issue % 2 ^ 48) ++
  leBytes 8 (r.fail % 2 ^ 48) ++ leBytes 8 (r.pc % 2 ^ 48) ++ leBytes 16 0

/-- Write one record into the entry at AQ_TAIL and advance the index. A record whose entry fails its access check is
dropped and counted (log entry 15). -/
def State.putAsh (s : State) (t : Nat) (r : AshRec) : State :=
  let i := s.fld .AQ_TAIL t
  let a := queueEntry (s.fld .AQ_CFG_BASE_IDX t) (s.aqN t) 64 i
  let c := s.hearthFault t (s.global a) 64 .w
  if c != 0 then (s.countSeal c).bump .ASH_DROPPED t
  else
    let s := s.show a (ashBytes r (bitsOf i (s.fld .AQ_CFG_LOG2N t) 1))
    let s := s.setFld .AQ_TAIL t (i + 1)
    s.on (s.flag .HEARTH_CTL_AQ_INT t) fun s => s.fireHearth t 1

/-- Whether ASH_QUIET suppresses the record (R492): causes 1 to 31 only. -/
def State.ashQuiet (s : State) (t cause : Nat) : Bool := 1 ≤ cause && cause < 32 && s.fbit .ASH_QUIET t (cause - 1)

/-- R479: an ordinary record needs two free entries; one that finds one is replaced by OVERFLOW. During a hearth reset
records wait, to follow RESET_DONE (R489). -/
def State.postAsh (s : State) (t : Nat) (r : AshRec) : State :=
  let n := s.aqN t
  let occ := s.aqOcc t
  if s.ashQuiet t r.cause then s
  else if s.flag .HEARTH_STAT_RESETTING t then
    s.setHearth t { s.hearth t with ashHold := (s.hearth t).ashHold ++ [r] }
  else if occ + 2 ≤ n then s.putAsh t r
  else
    let s := (s.bump .ASH_DROPPED t).setFld .HEARTH_STAT_AQ_OVER t 1
    s.on (occ + 1 = n) fun s => s.putAsh t { cause := 0x3F, origin := 4, arg := 1, issue := s.now, fail := s.now }

/-! ### Completion queue (R472, R475, R476, R480) -/

/-- The 32 bytes of Table 14.4. -/
def cqBytes (r : CqRec) (phase tick : Nat) : List Byte :=
  leBytes 1 r.status ++ leBytes 1 (r.note % 4 + b2n r.err * 4 + phase * 8 + r.origin % 8 * 16) ++
  leBytes 2 (min r.late 0xFFFF) ++ leBytes 2 r.tag ++ leBytes 2 r.ref ++ leBytes 8 r.r0 ++ leBytes 8 r.r1 ++
  leBytes 6 tick ++ leBytes 1 r.cause ++ leBytes 1 r.sub

/-- Write one record into the entry at CQ_TAIL and advance the index; a record whose entry fails its access check is
dropped and counted (log entry 15). -/
def State.putCq (s : State) (t : Nat) (r : CqRec) : State :=
  let i := s.fld .CQ_TAIL t
  let a := queueEntry (s.fld .CQ_CFG_BASE_IDX t) (s.cqN t) 32 i
  let c := s.hearthFault t (s.global a) 32 .w
  if c != 0 then (s.countSeal c).bump .CQ_DROPPED t
  else
    let s := s.show a (cqBytes r (bitsOf i (s.fld .CQ_CFG_LOG2N t) 1) s.now)
    let s := s.setFld .CQ_TAIL t (i + 1)
    s.on (s.flag .HEARTH_CTL_CQ_INT t) fun s => s.fireHearth t 0

def isRefused (status : Nat) : Bool := status / 16 = 1

/-- R476: REFUSED_COUNT and LATE_COUNT; R480: the 8-entry hold. Entries of `hold` past the eighth are open work that waits
at its completion (log entry 16). -/
def State.postCq (s : State) (t : Nat) (r : CqRec) : State :=
  let s := s.on (isRefused r.status) fun s => s.bump .REFUSED_COUNT t
  let s := s.on (r.status = 0x01) fun s => s.bump .LATE_COUNT t
  let h := s.hearth t
  if h.hold.isEmpty && s.cqOcc t < s.cqN t then s.putCq t r
  else if r.origin = 2 && 8 ≤ h.hold.length then s.bump .CQ_DROPPED t
  else s.setHearth t { h with hold := h.hold ++ [r] }

/-- Whether the hearth's hold is full (R480). -/
def State.holdFull (s : State) (t : Nat) : Bool := 8 ≤ (s.hearth t).hold.length

/-! ### Completing work -/

/-- How a piece of work ended: a status of Table 14.5 with its results, and for FAULTED the ash record. -/
structure End where
  status : Nat := 0
  r0 : Nat := 0
  r1 : Nat := 0
  note : Nat := 0
  err : Bool := false
  cause : Nat := 0
  sub : Nat := 0
  addr : Nat := 0
  len : Nat := 0
  arg : Nat := 0
  /-- TAG of the ash record where it is neither an ember's nor 0 (Table 14.6) -/
  atag : Option Nat := none
  /-- ID likewise -/
  aid : Option Nat := none
  /-- index of the ash record that a backdraft or LOST has already written for it (R309, R454) -/
  ash : Option Nat := none
  deriving DecidableEq, Repr

def End.faulted (cause : Nat) (sub addr len arg : Nat := 0) : End :=
  { status := 0x30, cause := cause, sub := sub, addr := addr, len := len, arg := arg }

def End.refused (status : Nat) (r0 : Nat := 0) : End := { status := status, r0 := r0 }

/-- TICKS_LATE of R482: planned items by their contracted completion, open work by its start. -/
def State.ticksLate (s : State) (x : Ctx) : Nat := if x.origin = 2 then s.now - x.accept else x.start - x.accept

/-- The ash record of a faulted piece of work (Table 14.6): TAG is 0 where none of its meanings applies (log entry 54). -/
def State.ashOf (s : State) (x : Ctx) (e : End) : AshRec :=
  { cause := e.cause, sub := e.sub, origin := x.origin, tag := e.atag.getD (if x.origin = 1 then x.tag else 0),
    id := e.aid.getD x.ref, addr := e.addr, len := e.len, arg := e.arg, issue := if x.origin = 2 then x.start else x.accept, fail := s.now, pc := x.pc }

/-- The end of a piece of work with TICKS_LATE `late`: the ash record of a fault, unless a backdraft has
written it (R454), whose index is R0 (Table 14.5; log entry 17 where the record is not written), then the completion record if CQ asks for one or a fault makes one (R157, R310, R473). -/
def State.completeLate (s : State) (x : Ctx) (e : End) (late : Nat) : State :=
  let st := if e.status = 0 && late > 0 then 0x01 else e.status
  let flt := e.status = 0x30
  let idx := e.ash.getD (s.fld .AQ_TAIL x.hearth)
  let s := s.on (flt && e.ash.isNone) fun s => s.postAsh x.hearth (s.ashOf x e)
  s.on (x.cq || (flt && x.faultCq)) fun s =>
    s.postCq x.hearth
      { status := st, note := e.note, err := e.err, origin := x.origin, late := late, tag := x.tag, ref := x.ref,
        r0 := if flt then idx else e.r0, r1 := e.r1, cause := e.cause, sub := e.sub }

/-- The end of work that started (R482). -/
def State.complete (s : State) (x : Ctx) (e : End) : State := s.completeLate x e (s.ticksLate x)

/-- The end of work refused before it started: the refusal tick minus the acceptance tick (R482). -/
def State.refuse (s : State) (x : Ctx) (e : End) : State := s.completeLate x e (s.now - x.accept)

/-! ### Alerts (R105, R106) -/

def State.unitLost (s : State) : State := s.setFld .ALERT_STAT_UNIT_LOST 0 1
def State.safety (s : State) : State := (s.setFld .ALERT_STAT_SAFETY 0 1).bump .SAFETY_COUNT

/-- ALERT_STAT as it reads (Table 3.7). -/
def State.alertStat (s : State) : Nat :=
  b2n (s.flag .MP_STAT_SHORT_FRAME || s.flag .MP_STAT_CRC_ERR || s.flag .MP_STAT_FRAME_ERR || s.flag .MP_STAT_EXPERT_OFF) +
  b2n ((upTo 16).any fun t => s.aqOcc t != 0) * 2 + s.fld .ALERT_STAT_PLAN_MISS * 4 +
  s.fld .TICK_STAT_SOURCE_LOST * 8 + b2n (s.flag .TICK_STAT_KINDLE_FAIL) * 16 + s.fld .ALERT_STAT_LINK_CHANGE * 32 +
  s.fld .ALERT_STAT_UNIT_LOST * 64 + s.fld .ALERT_STAT_SAFETY * 128

/-- TRAY_STAT[5:1] (Table 15.8). -/
def State.trayBits (s : State) : Nat :=
  s.fld .TRAY_STAT_RAIL_FAULT + s.fld .TRAY_STAT_FAN_FAULT * 2 + s.fld .TRAY_STAT_P_OVER * 4 +
  s.fld .TRAY_STAT_BUS_ERR * 8 + s.fld .TRAY_STAT_CFG_ERR * 16

/-- ALERT# is low (R105, R512). -/
def State.alertLow (s : State) : Bool :=
  (s.alertStat &&& s.fld .ALERT_EN) != 0 || (s.trayBits &&& s.fld .TRAY_ALERT_EN) != 0

end Sys2Proof.Machine
end

