-- ==== Sys2Proof/Machine/Frames.lean ====
section
/-! DEFINITION. Flue frames (Tables 13.2, 13.3): their fields, the frames this chip builds, open routing (R419, R448), and the
book of outstanding posted writes and reads (R452 to R455). -/

namespace Sys2Proof.Machine

/-! ### Reading frames -/

/-- Bits `[lo + w - 1 : lo]` of header word `i`. -/
def hdr (f : Frame) (i lo w : Nat) : Nat := bitsOf (f.words.getD i 0).toNat lo w

def frameType (f : Frame) : Nat := hdr f 0 0 8
def frameDst (f : Frame) : Nat := hdr f 0 8 8
def frameSrc (f : Frame) : Nat := hdr f 0 16 8
def frameLocal (f : Frame) : Bool := hdr f 0 24 1 = 1
def framePlanned (f : Frame) : Bool := hdr f 0 25 1 = 1

/-- The bits from `lo` to `hi`, set. -/
def bitSpan (lo hi : Nat) : Nat := 2 ^ (hi + 1) - 2 ^ lo

/-- The bits that each header word of a frame type may set (R423, Table 13.3); a marker's words from 2 on follow N_SUSP. -/
def frameMasks (ty : Nat) : Option (List Nat) :=
  let w0 (m : Nat) := bitSpan 0 25 + m
  let all := bitSpan 0 63
  match ty with
  | 0x00 => some [w0 0]
  | 0x01 => some [w0 (bitSpan 32 43)]
  | 0x02 => some [w0 (bitSpan 32 44 + bitSpan 48 55), all, bitSpan 0 50, bitSpan 0 47, all]
  | 0x03 => some [w0 (bitSpan 32 47)]
  | 0x04 => some [w0 (bitSpan 32 58)]
  | 0x08 => some [w0 (bitSpan 32 54 + bitSpan 56 60), bitSpan 0 47]
  | 0x09 => some [w0 (bitSpan 32 63), bitSpan 0 55]
  | 0x0A => some [w0 (bitSpan 32 37), all]
  | 0x0B => some [w0 (bitSpan 32 47), all, all, all, all]
  | 0x0C => some [w0 (bitSpan 32 55), all, bitSpan 0 47]
  | 0x10 => some [w0 (bitSpan 32 59), bitSpan 0 51, bitSpan 0 55, bitSpan 0 10 + bitSpan 16 31]
  | 0x11 => some [w0 (bitSpan 32 59), bitSpan 0 51, bitSpan 0 47]
  | 0x12 => some [w0 (bitSpan 32 51), all, all, bitSpan 0 31]
  | 0x18 => some [w0 (bitSpan 32 55)]
  | 0x19 => some [w0 (bitSpan 32 55), bitSpan 0 47]
  | 0x1A => some [w0 (bitSpan 32 59)]
  | 0x1B => some [w0 (bitSpan 32 55)]
  | 0x1C => some [w0 (bitSpan 32 57), all, bitSpan 0 31]
  | _ => none

/-- Header words of a frame whose first word is `w` (Table 13.2, R434); none for a reserved TYPE. -/
def headerLen (w : Nat) : Option Nat :=
  (frameMasks (w % 256)).map fun m => if w % 256 = 0x08 then 2 + ceilDiv (bitsOf w 56 5) 4 else m.length

/-- Data bytes of a frame whose first word is `w` (Table 13.3). -/
def dataLen (w : Nat) : Nat :=
  match w % 256 with
  | 0x01 => bitsOf w 32 12 + 1
  | 0x10 | 0x1A => bitsOf w 48 12 + 1
  | _ => 0

/-- LOCAL is what Table 13.2 fixes for the frame's TYPE, where it fixes it (log entry 55). -/
def localOk (f : Frame) : Bool :=
  match frameType f with
  | 0x02 | 0x03 | 0x04 | 0x08 | 0x0A | 0x0B | 0x12 | 0x1C => frameLocal f
  | 0x09 | 0x0C => !frameLocal f
  | _ => true

/-- No reserved field of the frame is set (R424). PSLOT and PLAN_UID must be 0 unless PLANNED; a marker names at most 16
plans, and unused entries of its last word are reserved. -/
def reservedOk (f : Frame) : Bool :=
  match frameMasks (frameType f) with
  | none => false
  | some ms =>
    localOk f && (List.range ms.length).all (fun i => ((f.words.getD i 0).toNat &&& (ms.getD i 0)) = (f.words.getD i 0).toNat) &&
    (frameType f != 0x10 || framePlanned f || (f.words.getD 3 0).toNat = 0) &&
    (frameType f != 0x08 ||
      (hdr f 0 56 5 ≤ 16 && (List.range 16).all fun k => k < hdr f 0 56 5 || hdr f (2 + k / 4) (16 * (k % 4)) 16 = 0))

/-- A frame a link can carry: the header words and data bytes that its first word announces (R421). -/
def frameWf (f : Frame) : Bool :=
  match f.words with
  | [] => false
  | w :: _ => headerLen w.toNat = some f.words.length && f.data.length = dataLen w.toNat

/-- A received frame of one type. -/
def frameIs (ty : Nat) (f : Frame) : Bool := frameWf f && frameType f = ty

/-- The operand of an uncorrectable beat: a WRITE whose read-modify-write met it. -/
def beatReaderWf : BeatReader → Bool
  | .write _ f => frameIs 0x10 f
  | .read _ f => frameIs 0x11 f
  | _ => true

/-! ### Building frames -/

def mkFrame (ty dst src : Nat) (loc planned : Bool) (hi : Nat) (more : List Nat) (data : List Byte) : Frame :=
  ⟨BitVec.ofNat 64 (ty + dst % 256 * 2 ^ 8 + src % 256 * 2 ^ 16 + b2n loc * 2 ^ 24 + b2n planned * 2 ^ 25 + hi * 2 ^ 32) ::
    more.map (BitVec.ofNat 64), data⟩

/-- A frame for the far end of its link: LOCAL = 1, node fields 0. -/
def localFrame (ty hi : Nat) (more : List Nat := []) (data : List Byte := []) : Frame :=
  mkFrame ty 0 0 true false hi more data

/-- The answer to a received frame, back the way it came (LOCAL) or to its source node. -/
def State.answerTo (s : State) (f : Frame) (ty hi : Nat) (more : List Nat := []) (data : List Byte := []) : Frame :=
  mkFrame ty (frameSrc f) (if frameLocal f then 0 else s.ownNode) (frameLocal f) (framePlanned f) hi more data

/-! ### Routes -/

/-- The links of a mask, ascending. -/
def maskLinks (m : Nat) : List Nat := (upTo 24).filter fun n => m.testBit n

/-- Which of `k` links a frame with an address takes: its 4 KiB range decides; without one, the lowest (R419, R448). -/
def pickLink (ls : List Nat) (addr : Option Nat) : Option Nat :=
  match addr with
  | none => ls.head?
  | some a => ls[a / 4096 % ls.length]?

/-- The link of an open frame for another node (R448). -/
def State.route (s : State) (node : Nat) (addr : Option Nat) : Option Nat :=
  pickLink (maskLinks (s.fld .RT_LINKS node)) addr

/-- A frame is handed to a link: it waits there until it is sent (R422). -/
def State.sendLink (s : State) (n : Nat) (f : Frame) : State :=
  s.setLink n { s.link n with txq := (s.link n).txq ++ [f] }

def State.sendNode (s : State) (node : Nat) (addr : Option Nat) (f : Frame) : State :=
  match s.route node addr with
  | none => s
  | some n => s.sendLink n f

/-- Answer a frame received on link `n`: towards its source, or back over that link where no route leads there (log entry 56). -/
def State.reply (s : State) (n : Nat) (f : Frame) (ty hi : Nat) (more : List Nat := []) (data : List Byte := []) : State :=
  let g := s.answerTo f ty hi more data
  if frameLocal f || framePlanned f then s.sendLink n g else s.sendLink ((s.route (frameSrc f) none).getD n) g

/-- The links in service, ascending. -/
def State.upLinks (s : State) : List Nat := maskLinks (s.fld .LINK_LIVE)

def State.floodExcept (s : State) (skip : Option Nat) (ls : List Nat) (f : Frame) : State :=
  forAll (ls.filter fun n => some n != skip) (fun n s => s.sendLink n f) s

/-- A REPORT to the domain chimney (R437). -/
def State.report (s : State) (kind code uid arg : Nat) : State :=
  s.sendNode (s.fld .ELECT_STAT_ROW_CHIMNEY_NODE) none
    (mkFrame 0x09 (s.fld .ELECT_STAT_ROW_CHIMNEY_NODE) s.ownNode false false (kind + code * 2 ^ 8 + uid % 2 ^ 16 * 2 ^ 16)
      [s.now % 2 ^ 48 + arg % 256 * 2 ^ 48] [])

/-- Whether this chip is the domain chimney (R441). -/
def State.isChimney (s : State) : Bool := s.flag .TRAY_POS_ROW_CHIMNEY

/-! ### Outstanding posted writes and reads -/

def widBusy (s : State) (w : Nat) : Bool := s.posted.any (·.wid = w) || s.lateWids.any (fun e => e.1 = w && s.now < e.2)

/-- The next free WID from the origin's space (R452, R454). -/
def State.freeWid (s : State) : Option Nat :=
  ((List.range 16384).map fun k => (s.widNext + k) % 65536).find? fun w => !widBusy s w

/-- Whether a WID may be taken: 16,384 outstanding, 4,096 of them reserved for planned writes (R452). -/
def State.widRoom (s : State) (planned : Bool) : Bool :=
  if planned then (s.posted.filter (·.planned)).length < 4096
  else (s.posted.filter fun p => !p.planned).length < 12288

def State.freeRid (s : State) : Option Nat :=
  ((List.range 4097).map fun k => (s.ridNext + k) % 65536).find? fun r => !s.reads.any (·.rid = r)

/-- What a remote or partner access needs beside its address: the access's window gives HEARTH and KEY (R464 step 2). -/
structure Remote where
  hearth : Nat
  owner : Owner
  planned : Bool := false
  tag : Nat := 0
  spec : Nat := 0
  pslot : Nat := 0
  uid : Nat := 0
  /-- the plan of a planned access, which keeps to the links that plan claims; open accesses are routed -/
  plan : Option Nat := none
  deriving DecidableEq, Repr

/-- Window number of a partner-window address on this node, if it is one (R114). -/
def State.partnerOf (s : State) (ga : Nat) : Option Nat :=
  if s.isOwn ga && regionOf (localOf ga) = some .partner then some ((localOf ga - 0x4000000000) / 0x100000000) else none

/-- Whether an address is served by this chip's own memories and registers. -/
def State.onChip (s : State) (ga : Nat) : Bool := s.isOwn ga && (s.partnerOf ga).isNone

/-- Transmit links that plan slot `p` claims in any tick, with the alternates of those that are lost (R419, R451). -/
def State.planLinks (s : State) (p : Nat) : List Nat :=
  let q := s.plan p
  (upTo 24).filter fun n =>
    (q.budgets.any fun b => b.res = 0x50 + n && b.maps.any (· != 0)) || q.alts.any fun a => !a.rx && a.alt = n && !s.fbit .LINK_LIVE 0 a.link

/-- Link `n` serves plan slot `p` only as the alternate of a lost link whose claims have not moved yet: they move at the next boundary, and
until then the frames take retry slots (R432, R451). -/
def State.standsIn (s : State) (p n : Nat) : Bool :=
  let q := s.plan p
  !(q.budgets.any fun b => b.res = 0x50 + n && b.maps.any (· != 0)) &&
    q.alts.any fun a => !a.rx && a.alt = n && !s.fbit .LINK_LIVE 0 a.link && s.units.mapLinks.testBit a.link

/-- Whether the far end of link `n`, in service or not, is the target of an access (R419, R450). -/
def State.leadsTo (s : State) (ga n : Nat) : Bool :=
  match s.partnerOf ga with
  | some w => s.fld .FAR_INFO_ROLE n = 2 && s.fld .FAR_INFO_SOCKET_POS n = w
  | none => s.fld .FAR_INFO_ROLE n = 1 && s.flag .FAR_INFO_NODE_VALID n && s.fld .FAR_INFO_NODE n = nodeOf ga

/-- The links in service among those that the access's plan claims towards its target; none where it claims none: the access is then
routed as an open one. One whose claimed links are all lost has no way (R60). -/
def State.claimedWay (s : State) (ga : Nat) (x : Remote) : Option (List Nat) :=
  match (x.plan.map s.planLinks).map fun ls => ls.filter (s.leadsTo ga) with
  | none => none
  | some [] => none
  | some ls => some (ls.filter fun n => s.fbit .LINK_LIVE 0 n)

/-- The link an access takes, and the local address, LOCAL and DST_NODE its frame carries (R419, R448). -/
def State.wayTo (s : State) (ga : Nat) (x : Remote) : Option (Nat × Nat × Bool × Nat) :=
  match s.partnerOf ga with
  | some w =>
    let o := localOf ga % 0x100000000
    (pickLink ((s.claimedWay ga x).getD (s.partnerLinks w)) (some o)).map fun n => (n, o, true, 0)
  | none =>
    if !s.isMember (nodeOf ga) then none
    else (pickLink ((s.claimedWay ga x).getD (maskLinks (s.fld .RT_LINKS (nodeOf ga)))) (some (localOf ga))).map fun n =>
      (n, localOf ga, false, nodeOf ga)

/-- Key and hearth that an access's window gives its frame. -/
def State.winKey (s : State) (t ga n : Nat) : Nat × Nat :=
  match s.accessWin t ga n with
  | none => (0, 0)
  | some w => (w.key, w.tgt)

/-- How an attempt to send a remote access went. -/
inductive Sent where
  | sent | absent | wait
  deriving DecidableEq, Repr

/-- A frame of a remote access is handed to its link. -/
def State.handOver (s : State) (n : Nat) (f : Frame) (x : Remote) : State :=
  let s := s.sendLink n f
  s.on (x.plan.any fun p => s.standsIn p n) fun s => s.setLink n { s.link n with again := (s.link n).again ++ [f] }

/-- Post a write of 1 to 4,096 bytes (R452): a WID and the issue tick are kept until it resolves. A node that leaves issues no
open remote access (R446). -/
def State.postWrite (s : State) (ga : Nat) (bs : List Byte) (x : Remote) : State × Sent :=
  match s.wayTo ga x with
  | none => (s, .absent)
  | some (n, a, loc, dst) =>
    match (if s.widRoom x.planned && (x.planned || !s.node.leaving) then s.freeWid else none) with
    | none => (s, .wait)
    | some wid =>
      let kh := s.winKey x.hearth ga bs.length
      let f := mkFrame 0x10 dst (if loc then 0 else s.ownNode) loc x.planned (wid + (bs.length - 1) * 2 ^ 16)
        [a + kh.2 * 2 ^ 48, kh.1 + x.tag * 2 ^ 32 + x.spec * 2 ^ 48, x.pslot + x.uid * 2 ^ 16] bs
      ({ s.handOver n f x with
          widNext := (wid + 1) % 65536
          lateWids := s.lateWids.filter (·.1 != wid)
          posted := s.posted ++ [{ wid := wid, addr := ga, len := bs.length, hearth := x.hearth, owner := x.owner,
                                   issue := s.now, planned := x.planned, link := n }] }, .sent)

/-- Send a read of 1 to 4,096 bytes (R455). -/
def State.postRead (s : State) (ga len : Nat) (x : Remote) : State × Sent :=
  match s.wayTo ga x with
  | none => (s, .absent)
  | some (n, a, loc, dst) =>
    match (if s.reads.length < 4096 && (x.planned || !s.node.leaving) then s.freeRid else none) with
    | none => (s, .wait)
    | some rid =>
      let kh := s.winKey x.hearth ga len
      let f := mkFrame 0x11 dst (if loc then 0 else s.ownNode) loc x.planned (rid + (len - 1) * 2 ^ 16)
        [a + kh.2 * 2 ^ 48, kh.1 + x.tag * 2 ^ 32] []
      ({ s.handOver n f x with
          ridNext := (rid + 1) % 65536
          reads := s.reads ++ [{ rid := rid, addr := ga, len := len, hearth := x.hearth, owner := x.owner,
                                 issue := s.now, link := n }] }, .sent)

/-- TAG and ORIGIN of the record of a failed posted write (R454, Table 14.7). -/
def State.ownerTag (s : State) : Owner → Nat × Nat
  | .ember _ tag => (tag, 1)
  | .dma c planned => (0x8000 + 64 * b2n planned + c, if planned then 2 else 0)
  | .ring c => (0x8000 + c, 0)
  | .flight k => match s.flights.find? (·.id = k) with | none => (0, 0) | some x => (if x.ctx.origin = 1 then x.ctx.tag else 0, x.ctx.origin)
  | .reshard k => match s.reshards.find? (·.id = k) with | none => (0, 0) | some x => (if x.ctx.origin = 1 then x.ctx.tag else 0, x.ctx.origin)
  | .none => (0, 0)

/-- What a backdraft or LOST with the ash record at index `ash` does to the work that wrote (R149, R260, R309). -/
def State.blame (s : State) (o : Owner) (cause : Nat) (ash : Option Nat) : State :=
  match o with
  | .ember e tag =>
    let m := s.ember e
    s.on (m.live && m.incarn * 2048 + e = tag) fun s => s.setEmber e { m with backdrafts := min (m.backdrafts + 1) 0xFFFF }
  | .dma c planned =>
    let d := s.dctx c planned
    s.on (d.backdraft = 0) fun s => s.setDctx c planned { d with backdraft := cause, backAsh := ash.getD 0 }
  | .reshard id =>
    { s with reshards := s.reshards.map fun r => if r.id = id && r.cause = 0 then { r with cause := cause, ash := ash } else r }
  | .flight k =>
    { s with flights := s.flights.map fun x =>
        if x.id = k && x.status != 0x30 then { x with status := 0x30, cause := cause, sub := 0, ash := ash } else x }
  | .ring _ | .none => s

/-- The entry write of a `ring.put` has failed (R340). -/
def State.failPut (s : State) (p : Posted) : State :=
  match p.owner with
  | .ember e _ =>
    let m := s.ember e
    (match m.wait with
     | .ringPut c rd cq w _ => if w = p.wid then s.setEmber e { m with wait := .ringPut c rd cq w true } else s
     | _ => s)
  | _ => s

/-- A posted write resolves as BDRAFT or LOST: one ash record (R454), and the writer learns of it. -/
def State.failWrite (s : State) (p : Posted) (cause fail : Nat) : State :=
  let s := { s with posted := s.posted.filter fun q => q.wid != p.wid }
  let (tag, org) := s.ownerTag p.owner
  let idx := s.fld .AQ_TAIL p.hearth
  let s := s.postAsh p.hearth { cause := 0x20 + cause, origin := org, tag := tag, addr := p.addr, len := p.len,
                                issue := p.issue, fail := fail }
  (s.blame p.owner (0x20 + cause) (some idx)).failPut p

/-- A write that never leaves because its target is no member: the origin raises TARGET_ABSENT itself (Table 13.6). -/
def State.absentWrite (s : State) (ga len : Nat) (x : Remote) : State :=
  let (tag, org) := s.ownerTag x.owner
  let idx := s.fld .AQ_TAIL x.hearth
  let s := s.postAsh x.hearth { cause := 0x21, origin := org, tag := tag, addr := ga, len := len, issue := s.now, fail := s.now }
  s.blame x.owner 0x21 (some idx)

/-- Whether any posted write of an owner is unresolved. -/
def State.writing (s : State) (o : Owner) : Bool := s.posted.any (·.owner = o)

end Sys2Proof.Machine
end

