-- ==== Sys2Proof/Machine/Units.lean ====
section
/-! DEFINITION. Units that fail: parity, kills, fencing (R23, R218, R219, R250, R251, R548), the logical-to-physical maps
(R177, R192), and what a loss does to work in flight (R64, R190). -/

namespace Sys2Proof.Machine

/-! ### Masks and maps -/

/-- The `l`-th set bit of a mask, from bit 0 (R192, R251). -/
def nthBit (w m l : Nat) : Option Nat := ((upTo w).filter m.testBit)[l]?

/-- Classes by OPC[7:4] (Table 5.1); tile files use the same numbers less 1 in Table 5.4. -/
def fabricClass : Nat := 2
def mixerClass : Nat := 6

def wordBits (w : Word128) (lo n : Nat) : Nat := bitsOf w.toNat lo n
def wordOpc (w : Word128) : Nat := wordBits w 0 8
def wordClass (w : Word128) : Nat := wordBits w 4 4
def wordTile (w : Word128) : Bool := wordBits w 8 1 = 1

/-- SLICE_MAP as the mask gives it: four bits per logical slice, 0 past the live ones (Table 6.5). -/
def sliceMap (m from_ : Nat) : Nat :=
  ((upTo 8).map fun l => ((nthBit 16 m (from_ + l)).getD 0) * 16 ^ l).foldl (· + ·) 0

/-- Physical unit behind a logical one, under the map in force. -/
def State.physOf (s : State) (cls l : Nat) : Option Nat :=
  if cls = fabricClass then nthBit 16 s.units.mapSlices l
  else if cls = mixerClass then nthBit 32 s.units.mapMixers l
  else some l

/-- Whether a logical unit is declared dead and not yet remapped (R64). -/
def State.deadBehind (s : State) (cls l : Nat) : Option Nat :=
  match s.physOf cls l with
  | none => none
  | some p =>
    if cls = fabricClass then (if s.fbit .SLICE_LIVE 0 p then none else some p)
    else if cls = mixerClass then (if s.fbit .MIXER_LIVE 0 p then none else some p)
    else none

/-- Logical units of a class that open work may be dealt to. -/
def State.unitCount (s : State) (cls : Nat) : Nat :=
  match cls with
  | 2 => s.liveSlices
  | 3 => 4
  | 4 => 2
  | 5 => 2
  | 6 => s.liveMixers
  | _ => 0

/-! ### Faulting work in flight -/

/-- The destination is undefined over the instruction's range (Table 5.11). -/
def State.spoil (s : State) (x : Flight) : State :=
  if x.undo.isEmpty then forAll x.range (fun e s => s.undefBytes e.1 e.2) s else forAll x.undo (fun e s => s.undefBytes e.1 1) s

/-- The destination bytes on this node of moves of a reshard that are never acknowledged are undefined (R149, R153). -/
def State.spoilMoves (s : State) (ms : List RMove) : State :=
  forAll (ms.filter fun m => s.onChip m.dst) (fun m s => s.undefBytes (localOf m.dst) m.len) s

/-- A reshard is abandoned: its destination on this node is undefined (Table 5.11). -/
def State.spoilReshard (s : State) (r : Reshard) : State :=
  (forAll r.inRanges (fun e s => s.undefBytes e.1 e.2) s).spoilMoves r.moves

/-- A KV append in flight is undone from some 64-byte chunk of its destination on (Table 11.4). Which is free: no rule says how far it has
come. -/
def State.rollBack (s : State) (x : Flight) : State :=
  let m := 64 * (Config.freeNat s.free % (x.undo.length / 64 + 1))
  forAll (x.undo.drop m).reverse (fun e s => s.show e.1 [e.2]) { s with free := s.free + 1 }

/-- Nothing of the instruction is still to happen. -/
def Flight.halt (x : Flight) : Flight :=
  { x with acts := [], writes := [], again := false, todo := [], runs := [], ended := [], fetching := false, out := [] }

/-- A fault of a piece of work in flight, which leaves its destination undefined: its record is posted when it completes. The first
fault stands. -/
def State.faultFlight (s : State) (k cause arg : Nat) : State :=
  match s.flights.find? (·.id = k) with
  | none => s
  | some x =>
    if x.status = 0x30 then s
    else
      { s.spoil x with
          flights := s.flights.map fun y =>
            if y.id = k then { y.halt with status := 0x30, cause := cause, sub := 0, r0 := arg, addr := 0, len := 0 } else y }

def State.faultFlights (s : State) (p : Flight → Bool) (cause arg : Nat) : State :=
  forAll ((s.flights.filter p).map (·.id)) (fun k s => s.faultFlight k cause arg) s

/-! ### Units that work takes -/

/-- Classes and logical units that an instruction in flight runs on, and mixer arrays that it holds (R164, R209, R216). -/
def Flight.holds (x : Flight) : List (Nat × Nat) :=
  x.sides.map (fun d => (d.cls % 16, d.unit)) ++ x.units.map (fun u => (wordClass x.word, u)) ++
    x.runs.flatMap fun r => (wordClass x.word, r.unit) :: r.mixer.toList.map fun m => (mixerClass, m)

/-- The instruction takes a unit of the class that satisfies `p`. -/
def Flight.takes (x : Flight) (cls : Nat) (p : Nat → Bool) : Bool := x.holds.any fun e => e.1 = cls && p e.2

/-! ### Parity errors (R199, R250, R251) -/

/-- Cycles since the piece started. -/
def RunPiece.age (r : RunPiece) : Nat := r.piece.total - (r.left + r.tail)

/-- Maps, output beats or compute cycles of the piece that have been written back before this cycle. -/
def RunPiece.written (r : RunPiece) : Nat := ceilDiv (r.age - r.piece.out0) r.piece.pace

/-- The first `n` bytes of a piece's writes. -/
def takeBytes (n : Nat) : List (Nat × List Byte) → List (Nat × List Byte)
  | [] => []
  | (a, bs) :: r => if n = 0 then [] else (a, bs.take n) :: takeBytes (n - bs.length) r

/-- The piece as far as it has come. -/
def RunPiece.part (r : RunPiece) : Piece :=
  { r.piece with data := r.piece.data.map (takeBytes (r.written * r.piece.step)), sat := 0, nan := 0, coll := 0, flaw := none }

/-- R199: the results of earlier maps stand, those of this one and later ones never come. `hit`: the piece runs where the error was. -/
def Flight.stopAt (x : Flight) (hit : RunPiece → Bool) : Flight :=
  let y := { x with acts := [], writes := [], again := false, todo := [] }
  match x.runs.filter hit with
  | [] => y
  | r :: rs =>
    let r := rs.foldl (fun (a b : RunPiece) => if b.piece.no < a.piece.no then b else a) r
    { y with runs := x.runs.filter fun q => q.piece.no < r.piece.no
             ended := (x.ended.filter fun q => q.no < r.piece.no) ++ [r.part] }

/-- A parity error in a write-back of instruction `k` on the units of class `cls` that satisfy `p`. -/
def State.parityFault (s : State) (k cls cause : Nat) (p : Nat → Bool) : State :=
  { s with flights := s.flights.map fun x =>
      if x.id = k && x.status != 0x30 && wordClass x.word != 1 && x.takes cls p then
        { x.stopAt (fun r => if cls = mixerClass && wordClass x.word != mixerClass then r.mixer.any p else p r.unit) with
            status := 0x30, cause := cause, sub := 0, r0 := 0, addr := 0, len := 0, fetching := false }
      else x }

/-! ### Remaps (R177) -/

def State.remapSlices (s : State) (m : Nat) : State :=
  let dead := ((upTo 16).find? fun n => s.units.mapSlices.testBit n && !m.testBit n).getD 0
  let s := s.faultFlights (fun x => !x.planned && (wordClass x.word = fabricClass || x.takes fabricClass fun _ => true)) 0x10 dead
  let s := { s with units := { s.units with mapSlices := m } }
  let s := ((s.setFld .FAB_STAT 0 (popcount 16 m)).setFld .SLICE_MAP0 0 (sliceMap m 0)).setFld .SLICE_MAP1 0 (sliceMap m 8)
  (s.zeroRange 0x2000000000 0x2000100000).dropLatches fun l => l.cls = fabricClass

def State.remapMixers (s : State) (m : Nat) : State :=
  let dead := ((upTo 32).find? fun n => s.units.mapMixers.testBit n && !m.testBit n).getD 0
  let s := s.faultFlights (fun x => !x.planned && (wordClass x.word = mixerClass || x.takes mixerClass fun _ => true)) 0x10 dead
  let s := { s with units := { s.units with mapMixers := m } }
  let s := s.setFld .ENG_STAT_MIX_LIVE 0 (popcount 32 m)
  (s.zeroRange 0x2000400000 0x2000500000).dropLatches fun l => l.cls = mixerClass

/-- Bring the maps and budgets to the given masks (R37, R64, R177). -/
def State.remapTo (s : State) (slices mixers fen : Nat) : State :=
  let s := s.on (s.units.mapSlices != slices) fun s => s.remapSlices slices
  let s := s.on (s.units.mapMixers != mixers) fun s => s.remapMixers mixers
  { s with units := { s.units with mapFen := fen } }

/-- Before TICK_STAT.LOCKED first rises a loss acts at once (R64). -/
def State.remapEarly (s : State) : State :=
  s.on (!s.tk.firstLock) fun s => s.remapTo (s.fld .SLICE_LIVE) (s.fld .MIXER_LIVE) (s.fld .FEN_LIVE)

/-! ### Losing units -/

/-- R218, R219: a slice is declared dead; until the remap, work on it faults UNIT_DEAD. -/
def State.killSlice (s : State) (n : Nat) : State :=
  if !s.fbit .SLICE_LIVE 0 n then s
  else
    let s := (s.clrFbit .SLICE_LIVE 0 n).unitLost
    let s := s.on (s.within 64) fun s => { s with units := { s.units with lateSlices := orBit s.units.lateSlices n } }
    let s := s.faultFlights (fun x => x.takes fabricClass fun l => s.physOf fabricClass l = some n) 0x10 n
    s.remapEarly

/-- R251: the same for a mixer array. -/
def State.killMixer (s : State) (n : Nat) : State :=
  if !s.fbit .MIXER_LIVE 0 n then s
  else
    let s := (s.clrFbit .MIXER_LIVE 0 n).unitLost
    let s := s.on (s.within 64) fun s => { s with units := { s.units with lateMixers := orBit s.units.lateMixers n } }
    let s := s.faultFlights (fun x => x.takes mixerClass fun l => s.physOf mixerClass l = some n) 0x10 n
    s.remapEarly

/-- R23: channel `c` is fenced, and the scan of R390 begins. -/
def State.fence (s : State) (c : Nat) : State :=
  if !s.fbit .FEN_LIVE 0 c then s
  else
    let s := (s.clrFbit .FEN_LIVE 0 c).unitLost
    let s := { s with units := { s.units with scan := orBit s.units.scan c,
                                              lateFen := if s.within 64 then orBit s.units.lateFen c else s.units.lateFen } }
    (s.setFld .KV_STAT_SCAN 0 1).remapEarly

/-- Every unit whose bit a kill register has just been written with (R23, R218, R251). -/
def State.killMask (s : State) (w m : Nat) (kill : State → Nat → State) : State :=
  forAll ((upTo w).filter m.testBit) (fun n s => kill s n) s

/-- R23 as the count of channel `c` takes a value, by a beat or by a software write (R548): one that has reached a limit other than 0
fences it. A software write of the limit tests nothing (log entry 52). -/
def State.ueLimit (s : State) (c : Nat) : State :=
  s.on (s.fld .FEN_UE_LIMIT != 0 && s.fld .FEN_UE_LIMIT ≤ s.fld .FEN_UE_COUNT c) fun s => s.fence c

/-- R23, R548: `n` uncorrectable beats on channel `c` count in its own count. -/
def State.countUe (s : State) (c n : Nat) : State := (s.bump .FEN_UE_COUNT c n).ueLimit c

/-! ### The commands -/

/-- R218, R199: a parity error in a map of instruction `k` on physical slice `p`. -/
def execFabricParity (k : Nat) (p : Fin 16) (s : State) : Answer :=
  live s fun s =>
    let again := s.units.parSlices.testBit p
    let s := (s.setFbit .FAB_PARITY 0 p).bump .FAB_ERR_COUNT
    let s := { s with units := { s.units with parSlices := orBit s.units.parSlices p } }
    let s := s.parityFault k fabricClass 0x0C fun l => s.physOf fabricClass l = some p.val
    s.on again fun s => s.killSlice p

/-- R250: a parity error in transposer 0 to 3, window expander 4 or 5, or bit-plane engine 6 or 7. -/
def execEngineParity (k : Nat) (u : Fin 8) (s : State) : Answer :=
  live s fun s =>
    let s := if u.val < 4 then s.setFbit .ENG_PARITY_TP 0 u
      else if u.val < 6 then s.setFbit .ENG_PARITY_WIN 0 (u.val - 4) else s.setFbit .ENG_PARITY_BP 0 (u.val - 6)
    (s.bump .ENG_ERR_COUNT).parityFault k (if u.val < 4 then 3 else if u.val < 6 then 4 else 5) 0x0D
      fun l => l = (if u.val < 4 then u.val else if u.val < 6 then u.val - 4 else u.val - 6)

/-- R251, R209: a parity error on physical mixer array `p`, in a mixer instruction or in the combining of a SUM scatter. -/
def execMixerParity (k : Nat) (p : Fin 32) (s : State) : Answer :=
  live s fun s =>
    let again := s.units.parMixers.testBit p
    let s := (s.setFbit .MIX_PARITY 0 p).bump .ENG_ERR_COUNT
    let s := { s with units := { s.units with parMixers := orBit s.units.parMixers p } }
    let s := s.parityFault k mixerClass 0x0E fun l => s.physOf mixerClass l = some p.val
    s.on again fun s => s.killMixer p

/-- R23, R548: a corrected symbol error is repaired and only counted. -/
def execFenCorrectedError (c : Fin 16) (s : State) : Answer := live s fun s => s.bump .FEN_CE_COUNT c

/-- R23: two retraining attempts in a row have failed. -/
def execFenTrainingFail (c : Fin 16) (s : State) : Answer := live s fun s => s.fence c

/-- R23: a command or address parity failure. -/
def execFenParityFail (c : Fin 16) (s : State) : Answer := live s fun s => s.fence c

end Sys2Proof.Machine
end

