-- ==== Sys2Proof/Machine/Submit.lean ====
section
/-! DEFINITION. Submission queues: the doorbell (R471), reading an entry, the checks of R474 and R485, and how a command's
record reaches the command's own step. -/

namespace Sys2Proof.Machine

/-- The chip's states (Table 2.10). -/
def chipCold : Nat := 0
def chipLocked : Nat := 1
def chipKindling : Nat := 2
def chipWarm : Nat := 3
def chipDamping : Nat := 4
def chipOffReady : Nat := 5

def State.chip (s : State) : Nat := s.fld .TICK_STAT_CHIP_STATE
def State.setChip (s : State) (v : Nat) : State := s.setFld .TICK_STAT_CHIP_STATE 0 v

/-- An open-priority command past its deadline (R484): it starts no more. -/
def State.pastDeadline (s : State) (accept deadline : Nat) : Bool := accept + deadline < s.now

/-! ### Fields of a submission record (Table 14.2) -/

def recNum (b : List Byte) (at_ n : Nat) : Nat := leNat ((b.drop at_).take n)
def recCmd (b : List Byte) : Nat := recNum b 0 1

/-- Bytes of operands that a command uses (Table 14.3); none for an unassigned CMD. -/
def usedBytes (cmd : Nat) : Option (List Nat) :=
  match cmd with
  | 0x01 => some ((upTo 16).map (· + 16))
  | 0x02 => some ((upTo 16).map (· + 8))
  | 0x03 => some [8, 12, 13, 14, 15]
  | 0x04 => some [8, 9, 12, 13, 14, 15]
  | 0x05 => some [12, 13, 14, 15]
  | 0x06 => some [8, 9]
  | 0x10 => some [8, 9, 16, 17, 18, 19, 20, 21]
  | 0x11 | 0x12 | 0x13 => some [8, 16, 17, 18, 19, 20, 21]
  | 0x20 => some []
  | _ => none

/-- The hearth that owns a plan slot, if the slot is not EMPTY. -/
def State.planOwner (s : State) (p : Nat) : Option Nat :=
  if s.fld .PLAN_STATE_STATE p = 0 then none else some (s.fld .PLAN_STATE_HEARTH p)

/-- R474 on a record of hearth `t`. The DEADLINE of open-bulk work and the two top bits of a descriptor pointer count as
reserved fields; an INSTR word of class 0x0 or 0x7 is no operand of Table 14.3 (log entry 21). -/
def State.formatOk (s : State) (t : Nat) (b : List Byte) : Bool :=
  match usedBytes (recCmd b) with
  | none => false
  | some used =>
    recNum b 1 1 < 2 && (recNum b 1 1 = 1 || recNum b 2 2 = 0) && recNum b 6 2 = 0 &&
    ((upTo 56).all fun k => used.contains (k + 8) || recNum b (k + 8) 1 = 0) &&
    match recCmd b with
    | 0x01 => recNum b 16 1 / 16 != 0 && recNum b 16 1 / 16 != 7
    | 0x03 => recNum b 8 1 < 64 && s.ownsChan t (recNum b 8 1) && recNum b 12 4 < 2 ^ 30
    | 0x04 => recNum b 8 1 < 64 && s.ownsChan t (recNum b 8 1) && recNum b 9 1 < 4 && recNum b 12 4 < 2 ^ 30
    | 0x05 => recNum b 12 4 < 2 ^ 30
    | 0x10 | 0x11 | 0x12 | 0x13 =>
      recNum b 8 1 < 16 && (match s.planOwner (recNum b 8 1) with | none => true | some o => o = t)
    | _ => true

/-- What a command's completion record needs (Table 14.4). -/
def takenCtx (r : Taken) : Ctx :=
  { hearth := r.hearth, origin := 0, tag := recNum r.bytes 4 2, ref := r.index % 65536, accept := r.tick, start := r.tick }

/-- Whether the hearth's commands complete REFUSED_FENCED (R485; R514 stage 1). -/
def State.fencedHearth (s : State) (t : Nat) : Bool :=
  s.flag .HEARTH_CTL_FENCE t || s.flag .HEARTH_STAT_RESETTING t || s.chip = chipDamping

/-- Whether hearth `t` has an entry the reader may take (R471, R480, R487; R516). -/
def State.sqReady (s : State) (t : Nat) : Bool :=
  s.sqOcc t != 0 && s.sqN t != 0 && !s.flag .HEARTH_STAT_RESETTING t && !s.holdFull t && s.chip != chipOffReady

/-- The hearth whose turn it is (R471). -/
def State.sqTurn (s : State) : Option Nat := ((upTo 16).map fun k => (s.sqNext + k) % 16).find? s.sqReady

/-- PLAN_LOAD, PLAN_START, PLAN_RESUME and PLAN_RETIRE (Table 14.3). -/
def isPlanCmd (cmd : Nat) : Bool := 0x10 ≤ cmd && cmd ≤ 0x13

/-- R47: ADMIT_STAT after a plan command that is DONE or refused. -/
def State.admitStat (s : State) (p reason res : Nat) : State :=
  ((s.setFld .ADMIT_STAT_PLAN_SLOT 0 p).setFld .ADMIT_STAT_REASON 0 reason).setFld .ADMIT_STAT_RES_ID 0 res

/-- R47 for a plan command that completes REFUSED_FENCED: no rule gives the REASON of that refusal, which is free (log entry 97). -/
def State.admitFenced (s : State) (p : Nat) : State :=
  { s.admitStat p (Config.freeNat s.free) 0xFF with free := s.free + 1 }

/-- R555: R0 of a plan command's record. -/
def planR0 (p reason res : Nat) : Nat := reason + res * 2 ^ 8 + p * 2 ^ 16

/-- R471, R474, R485: one entry is read, no two in one cycle, SQ_HEAD advances, and a refused record completes at once. -/
def takeEntry (t : Nat) (s : State) : State :=
  if s.sqTurn != some t then s
  else
    let s := s.on (s.sqAt = s.clk + 1) fun s => s.advance 1
    let i := s.fld .SQ_HEAD t
    let a := queueEntry (s.fld .SQ_CFG_BASE_IDX t) (s.sqN t) 64 i
    let flt := s.hearthFault t (s.global a) 64 .r
    let b := s.bytes a 64
    let s := { s.setFld .SQ_HEAD t (i + 1) with sqNext := (t + 1) % 16, sqAt := s.clk + 1 }
    let r : Taken := { hearth := t, index := i, tick := s.now, bytes := b }
    if flt != 0 then s.complete { takenCtx r with tag := 0 } (.faulted flt 0 (s.global a) 64)
    else if s.fencedHearth t then
      (s.on (isPlanCmd (recCmd b)) fun s => s.admitFenced (recNum b 8 1)).complete (takenCtx r) (.refused 0x13)
    else if !s.formatOk t b then s.complete (takenCtx r) (.faulted 0x09)
    else { s with taken := s.taken ++ [r] }

def execSqEntryTake (t : Fin 16) (s : State) : Answer := live s (takeEntry t)

/-- The first taken record of hearth `t`, if its command is `cmd`. -/
def State.takenCmd (s : State) (t cmd : Nat) : Option Taken :=
  match s.taken.find? (·.hearth = t) with
  | none => none
  | some r => if recCmd r.bytes = cmd then some r else none

/-- `f` on the first taken record of hearth `t` if it is a `cmd`, which is thereby carried out. -/
def State.onCmd (s : State) (t cmd : Nat) (f : Taken → State → State) : State :=
  match s.takenCmd t cmd with
  | none => s
  | some r => f r { s with taken := s.taken.erase r }

/-- NOP completes DONE (Table 14.3). -/
def execNop (t : Fin 16) (s : State) : Answer := live s fun s => s.onCmd t 0x20 fun r s => s.complete (takenCtx r) {}

/-- R471: the doorbell `v` replaces SQ_TAIL unless the occupancy would exceed N. -/
def State.doorbell (s : State) (t v : Nat) : State :=
  if s.sqN t < occupancy (v % 2 ^ 32) (s.fld .SQ_HEAD t) then s.setFld .HEARTH_STAT_DB_ERR t 1
  else s.setFld .SQ_TAIL t v

/-- R480: room in the completion queue lets the records waiting in the hold be written, oldest first. -/
def State.drainHold (s : State) (t : Nat) : Nat → State
  | 0 => s
  | k + 1 =>
    match (s.hearth t).hold with
    | [] => s
    | r :: rest =>
      if s.cqOcc t < s.cqN t then
        State.drainHold ((s.setHearth t { s.hearth t with hold := rest }).putCq t r) t k
      else s

def execCqHoldRelease (t : Fin 16) (s : State) : Answer :=
  live s fun s => s.drainHold t (s.hearth t).hold.length

end Sys2Proof.Machine
end

