-- ==== Sys2Proof/Machine/Plans.lean ====
section
/-! DEFINITION. Plans: the image and its admission (R45 to R49, R451), start, resume and retire (R50 to R52, R554, R555),
misses and suspension (R57 to R61), slots that return to EMPTY. -/

namespace Sys2Proof.Machine

/-! ### Plan slots -/

def State.setPlanSt (s : State) (p v : Nat) : State := s.setFld .PLAN_STATE_STATE p v
def State.planHearth (s : State) (p : Nat) : Nat := s.fld .PLAN_STATE_HEARTH p
def isAdmitted (st : Nat) : Bool := st = plAdmitted || st = plRunning || st = plSuspended

/-- The record of a plan command that is DONE or refused, and ADMIT_STAT with it. -/
def State.planDone (s : State) (x : Ctx) (p status reason res : Nat) : State :=
  (s.admitStat p reason res).complete x { status := status, r0 := planR0 p reason res }

/-! ### Misses (R58, R59) -/

/-- R58: CAUSE, MISS_COUNT, the alert and the PLAN_MISS record. -/
def State.recordMiss (s : State) (p cause : Nat) : State :=
  let s := ((s.setFld .PLAN_STATE_CAUSE p cause).bump .MISS_COUNT).setFld .ALERT_STAT_PLAN_MISS 0 1
  let s := s.postAsh (s.planHearth p)
    { cause := 0x30, sub := cause, origin := 4, id := (s.plan p).uid, issue := s.now, fail := s.now }
  s.setPlan p { s.plan p with missed := true }

/-- A reported UID waits at the chimney for its next marker (R59). -/
def State.noteMiss (s : State) (uid : Nat) : State := s.ask fun a => { a with misses := withOne a.misses uid }

/-- R58, R59: this node detects a miss, and reports it to the chimney. -/
def State.planMiss (s : State) (p cause : Nat) : State :=
  let s := s.recordMiss p cause
  if s.isChimney then s.noteMiss (s.plan p).uid else s.report 2 cause (s.plan p).uid 0

/-- R407: a planned access of a running plan that is not made in its cycle is delayed, and the plan misses with cause PORT. -/
def State.portMiss (s : State) (p : Nat) : State :=
  let s := s.setFld .XB_STAT_PORT_OVER 0 1
  if (s.plan p).missed || s.planSt p != plRunning then s else s.planMiss p 0x09

/-- The same where a planned write finds no reserved WID (R452). -/
def State.widMiss (s : State) (x : Remote) : State := match x.plan with | none => s | some p => s.portMiss p

/-- The plan enters SUSPENDED and its cause is recorded (R57, R59, R61, R553). REMOTE is the cause on the other nodes only: the node
whose own miss has listed the plan has recorded that miss already. -/
def State.suspend (s : State) (p cause : Nat) : State :=
  let s := s.on (cause != 0x08 || !(s.plan p).missed) fun s => s.recordMiss p cause
  (s.setPlanSt p plSuspended).setPlan p { s.plan p with missed := false }

/-! ### The slot returns to EMPTY (R52, R283, R554) -/

/-- A pending start or resume that was overtaken is refused first, then the retire completes DONE. The slot's registers
return to 0 (log entry 18). A `retire` with `resume` set is a hearth reset's, which has no command (R487). -/
def State.emptySlot (s : State) (p : Nat) : State :=
  let pl := s.plan p
  let s := (((s.setPlanSt p plEmpty).setFld .PLAN_STATE_HEARTH p 0).setFld .PLAN_STATE_CAUSE p 0).setFld
    .PLAN_STATE_SLACK_LEFT p 0
  let s := s.setPlan p {}
  let s := match pl.pend with
    | none => s
    | some c => s.planDone c.ctx p 0x11 0x0C 0xFF
  match pl.retire with
  | none => s
  | some c => if c.resume then s else s.planDone c.ctx p 0 0 0xFF

/-- Items of plan slot `p` released and not complete. -/
def State.itemsOf (s : State) (p : Nat) : Bool :=
  s.released.any (·.plan = p) || s.reshards.any (fun r => r.ctx.origin = 2 && r.ctx.plan = p) || s.flights.any (fun x => x.ctx.origin = 2 && x.ctx.plan = p) ||
  (upTo 64).any (fun c => match (s.chan c).pln.xfer with | none => false | some x => x.ctx.plan = p) ||
  s.embers.any fun e => e.2.live && e.2.planned && e.2.plan = p

/-! ### Admission (R45, R46, R451) -/

/-- The plan header's fields (Table 2.4). -/
structure PlanHead where
  version : Nat
  gen : Nat
  uid : Nat
  tickLenK : Nat
  grade : Nat
  slices : Nat
  mixers : Nat
  slack : Nat
  period : Nat
  nBudget : Nat
  budgetOff : Nat
  mapOff : Nat
  bodyOff : Nat
  bodyLen : Nat
  nAlt : Nat
  altOff : Nat
  rest : Nat
  deriving DecidableEq, Repr

def State.planHead (s : State) (a : Nat) : PlanHead :=
  { version := s.num a 1, gen := s.num (a + 1) 1, uid := s.num (a + 2) 2, tickLenK := s.num (a + 4) 1,
    grade := s.num (a + 5) 1, slices := s.num (a + 6) 1, mixers := s.num (a + 7) 1, slack := s.num (a + 8) 1,
    period := s.num (a + 9) 1 + 1, nBudget := s.num (a + 10) 2, budgetOff := s.num (a + 12) 4, mapOff := s.num (a + 16) 4,
    bodyOff := s.num (a + 20) 4, bodyLen := s.num (a + 24) 4, nAlt := s.num (a + 28) 2, altOff := s.num (a + 30) 2,
    rest := s.num (a + 32) 32 }

def headOk (h : PlanHead) : Bool :=
  h.version = 1 && h.grade < 4 && h.rest = 0 && h.budgetOff % 8 = 0 && h.mapOff % 8 = 0 &&
  (h.slices = 14 || h.slices = 15) && (28 ≤ h.mixers && h.mixers ≤ 30) && h.slack ≤ 15 &&
  (1 ≤ h.nBudget && h.nBudget ≤ 176) && h.nAlt ≤ 48

/-- Bytes of the image from its first to the last byte of the part that ends last (R45, R281). -/
def extentOf (h : PlanHead) : Nat :=
  let part (off n : Nat) := if n = 0 then 0 else off + n
  [64, part h.budgetOff (8 * h.nBudget), part h.mapOff (h.nBudget * h.period * (2 * h.tickLenK)),
    part h.altOff (8 * h.nAlt), part h.bodyOff h.bodyLen].foldl max 0

/-- Plan resources (Table 2.1). -/
def isFenRes (r : Nat) : Bool := r ≤ 2
def isLinkRes (r : Nat) : Bool := 0x50 ≤ r && r ≤ 0x7F
def isRes (r : Nat) : Bool :=
  isFenRes r || (0x08 ≤ r && r ≤ 0x16) || (0x18 ≤ r && r ≤ 0x3D) || (0x40 ≤ r && r ≤ 0x47) || isLinkRes r ||
  (0x80 ≤ r && r ≤ 0xBF)

/-- Budget entry `i` with its slot maps. -/
def State.budgetAt (s : State) (a : Nat) (h : PlanHead) (i : Nat) : Budget :=
  let e := a + h.budgetOff + 8 * i
  { res := s.num e 1, maxSlots := bitsOf (s.num e 4) 16 12, maxBytes := s.num (e + 4) 4,
    maps := (upTo h.period).map fun t => s.num (a + h.mapOff + (i * h.period + t) * (2 * h.tickLenK)) (2 * h.tickLenK) }

def State.budgetReserved (s : State) (a : Nat) (h : PlanHead) (i : Nat) : Bool :=
  let e := s.num (a + h.budgetOff + 8 * i) 4
  bitsOf e 8 8 = 0 && bitsOf e 28 4 = 0

def State.altAt (s : State) (a : Nat) (h : PlanHead) (i : Nat) : Alt :=
  let e := a + h.altOff + 8 * i
  { link := s.num e 1, alt := s.num (e + 1) 1, rx := (s.byte (e + 2)).toNat.testBit 0 }

def State.altOk (s : State) (a : Nat) (h : PlanHead) (i : Nat) : Bool :=
  let e := a + h.altOff + 8 * i
  s.num e 1 < 24 && s.num (e + 1) 1 < 24 && s.num (e + 2) 1 < 2 && s.num (e + 3) 5 = 0

def linkRes (a : Alt) (useAlt : Bool) : Nat := (if a.rx then 0x68 else 0x50) + (if useAlt then a.alt else a.link)

/-- A plan's envelope on a unit resource, claims on a link counting on its alternate too (R451). -/
def planEnvelope (budgets : List Budget) (alts : List Alt) (res : Nat) : Nat :=
  let own (r : Nat) := (budgets.filter (·.res = r)).foldl (fun m b => m ||| envelope b) 0
  alts.foldl (fun m a => if linkRes a true = res then m ||| own (linkRes a false) else m) (own res)

/-! ### Claims in force (R39, R45, R53, R451) -/

/-- The slots that plan `q` claims on a resource in this tick, or (`next`) in the one after it: those of its plan tick's maps, in a
banked tick its envelope. -/
def State.mapSlots (s : State) (q : Plan) (next : Bool) (res : Nat) : Nat :=
  let banked := s.flag (if next then .TICK_STAT_BANK_NEXT else .TICK_STAT_BANKED)
  (q.budgets.filter (·.res = res)).foldl
    (fun m b => m ||| (if banked then envelope b else b.maps.getD ((q.tick + b2n next) % q.period) 0)) 0

/-- The same with the claims of lost links on their alternates (R451). -/
def State.slotsOn (s : State) (q : Plan) (next : Bool) (res : Nat) : Nat :=
  q.alts.foldl
    (fun m a => if linkRes a true = res && !s.units.mapLinks.testBit a.link then m ||| s.mapSlots q next (linkRes a false) else m)
    (s.mapSlots q next res)

/-- The running plan that claims a unit resource in the slot of cycle `c`, counted from the start of this tick. -/
def State.claimer (s : State) (res c : Nat) : Option Nat :=
  let next := s.tickLen ≤ c
  let sl := (if next then c - s.tickLen else c) / 64
  (s.plansIn (· = plRunning)).find? fun p => (s.slotsOn (s.plan p) next res).testBit sl

/-- Whether open work of `n` cycles that starts now ends before the next claimed cycle of a unit resource (R39, R53, R187). In an
ordinary tick the rest of a slot that is under way counts as unused: planned items start at cycle 0 of a slot (R38). -/
def State.freeFor (s : State) (res n : Nat) : Bool :=
  let from_ := if s.cyc % 64 = 0 || s.flag .TICK_STAT_BANKED then 0 else 1
  (upTo ((s.cyc % 64 + n + 63) / 64)).all fun k => k < from_ || (s.claimer res (s.cyc / 64 * 64 + 64 * k)).isNone

/-- Slots of a tick of K x 1,024 cycles (R27). -/
def slotsOf (k : Nat) : Nat := 16 * k

/-- Check 8 on one entry. -/
def State.shareOk (s : State) (k : Nat) (b : Budget) : Bool :=
  let n := slotsOf k
  let most := (b.maps.map (popcount n)).foldl max 0
  b.maxSlots = most &&
  (if isFenRes b.res then b.maxBytes ≤ s.plannedBudget b.res && (b.maxBytes != 0) = (most != 0)
   else most ≤ 15 * k)

/-- Check 9 on one entry: no retry slot is claimed (R36). -/
def retryOk (k : Nat) (b : Budget) : Bool :=
  !isLinkRes b.res || ((upTo (slotsOf k)).all fun sl => sl % 16 != 15 || !(envelope b).testBit sl)

/-- Check 10 on one resource against every plan in `others`. -/
def State.conflictOk (s : State) (k : Nat) (others : List Plan) (budgets : List Budget) (alts : List Alt) (res : Nat) :
    Bool :=
  if isFenRes res then
    (upTo (slotsOf k)).all fun sl =>
      let bytes (bs : List Budget) :=
        ((bs.filter fun b => b.res = res && (envelope b).testBit sl).map (·.maxBytes)).foldl (· + ·) 0
      bytes budgets = 0 || bytes budgets + ((others.map fun q => bytes q.budgets).foldl (· + ·) 0) ≤ s.plannedBudget res
  else others.all fun q => (planEnvelope budgets alts res &&& planEnvelope q.budgets q.alts res) = 0

/-- Whether a link direction's resource has a declared alternate. -/
def hasAlt (alts : List Alt) (res : Nat) : Bool := alts.any fun a => linkRes a false = res

/-- Check 11 on an alternate entry: another link to the same far DIE_ID (R451). -/
def State.altReaches (s : State) (a : Alt) : Bool :=
  a.alt != a.link && (s.link a.link).far.valid && (s.link a.alt).far.valid && s.fld .FAR_DIE a.link = s.fld .FAR_DIE a.alt

/-- Check 11 on a claimed resource. -/
def State.linkOk (s : State) (alts : List Alt) (b : Budget) : Bool :=
  !isLinkRes b.res || envelope b = 0 || s.fbit .LINK_LIVE 0 ((b.res - 0x50) % 24) || hasAlt alts b.res

/-- Check 11, alternates first, then claimed links in budget-entry order; the failing resource if one fails. -/
def State.check11 (s : State) (budgets : List Budget) (alts : List Alt) : Option Nat :=
  match alts.find? (fun a => !s.altReaches a) with
  | some a => some (linkRes a false)
  | none => (budgets.find? fun b => !s.linkOk alts b).map (·.res)

/-- Check 10 over the plan's own resources and its alternates. -/
def State.check10 (s : State) (k : Nat) (others : List Plan) (budgets : List Budget) (alts : List Alt) : Option Nat :=
  (budgets.map (·.res) ++ alts.map (linkRes · true)).find? fun r => !s.conflictOk k others budgets alts r

/-- What admission decides: FAULTED with a cause, refused with REASON and RES_ID, or admitted. -/
inductive Verdict where
  | fault (cause addr len : Nat)
  | refuse (reason res : Nat)
  | enter (p : Plan)
  deriving DecidableEq, Repr

/-- Every admitted plan but the one in slot `p`. -/
def State.othersOf (s : State) (p : Nat) : List Plan :=
  ((s.plansIn isAdmitted).filter (· != p)).map s.plan

/-- Whether the bytes lie wholly in local staging SRAM and the hearth may read them; 0 or the cause (R48). -/
def State.imageFault (s : State) (t a n : Nat) : Nat :=
  if regionOf a != some .staging || Region.limit .staging < a + n then 0x01 else s.hearthFault t (s.global a) n .r

/-- Checks 8 to 11, over the image's budgets and alternates. -/
def State.checkClaims (s : State) (p : Nat) (a : Nat) (h : PlanHead) : Verdict :=
  let bs := (upTo h.nBudget).map (s.budgetAt a h)
  let alts := (upTo h.nAlt).map (s.altAt a h)
  match bs.find? (fun b => !s.shareOk h.tickLenK b) with
  | some b => .refuse 0x07 b.res
  | none =>
  match bs.find? (fun b => !retryOk h.tickLenK b) with
  | some b => .refuse 0x08 b.res
  | none =>
  match s.check10 h.tickLenK (s.othersOf p) bs alts with
  | some r => .refuse 0x09 r
  | none =>
  match s.check11 bs alts with
  | some r => .refuse 0x0A r
  | none =>
    .enter { uid := h.uid, addr := a, len := extentOf h, sealed := true, tickLenK := h.tickLenK, grade := h.grade,
             slices := h.slices, mixers := h.mixers, bankSlack := h.slack, period := h.period, budgets := bs, alts := alts }

/-- Table 2.5 from check 3 on, with the reads of R48 between its parts. DESIGN CHOICE (log entry 100): the whole extent, header included, is
checked as one access, so that one window must hold it. -/
def State.checkImage (s : State) (p t : Nat) (l : PendLoad) : Verdict :=
  let a := l.addr
  let f := s.imageFault t a 64
  let h := s.planHead a
  if f != 0 then .fault f (s.global a) 64
  else if !headOk h || 2 ^ 24 < extentOf h then .refuse 0x01 0xFF
  else
    let f := s.imageFault t a (extentOf h)
    let rs := (upTo h.nBudget).map fun i => s.num (a + h.budgetOff + 8 * i) 1
    if f != 0 then .fault f (s.global a) (extentOf h)
    else if !((upTo h.nBudget).all fun i =>
        s.budgetReserved a h i && isRes (rs.getD i 0) && !((rs.take i).contains (rs.getD i 0)) &&
        (isFenRes (rs.getD i 0) || s.num (a + h.budgetOff + 8 * i + 4) 4 = 0)) ||
      !((upTo h.nAlt).all (s.altOk a h)) then .refuse 0x01 0xFF
    else if h.gen != l.gen then .refuse 0x02 0xFF
    else if h.tickLenK != s.fld .TICK_CFG_TICK_LEN_K then .refuse 0x04 0xFF
    else if h.grade != s.fld .CLK_STAT_ACTIVE_GRADE then .refuse 0x05 0xFF
    else if s.liveSlices < h.slices || s.liveMixers < h.mixers then .refuse 0x06 0xFF
    else s.checkClaims p a h

/-- R48: the load of slot `p` is decided, and its record posted. -/
def State.decideLoad (s : State) (p : Nat) (l : PendLoad) : State :=
  let t := s.planHearth p
  match (if s.chip = chipWarm then s.checkImage p t l else .refuse 0x03 0xFF) with
  | .fault c a n => (s.emptySlot p).complete l.ctx (.faulted c 0 a n)
  | .refuse r res => (s.emptySlot p).planDone l.ctx p 0x11 r res
  | .enter q =>
    let s := ((s.setPlan p q).setPlanSt p plAdmitted).setFld .PLAN_STATE_SLACK_LEFT p q.bankSlack
    s.planDone l.ctx p 0 0 0xFF

/-- The load that is due first: after the first lock those past their second boundary in the order taken, before it those
taken 64 register-clock cycles ago (R48). -/
def State.loadTurn (s : State) : Option Nat :=
  let due := (upTo 16).filter fun p =>
    match (s.plan p).load with
    | none => false
    | some l => !s.tk.firstLock || 2 ≤ l.boundaries
  let ord (p : Nat) := ((s.plan p).load.map (·.order)).getD 0
  due.find? fun p => due.all fun q => ord p ≤ ord q

def admitPlan (p : Nat) (s : State) : State :=
  match (s.plan p).load with
  | none => s
  | some l =>
    if s.loadTurn != some p then s
    else
      let s := s.on (!s.tk.firstLock) fun s => s.advanceTo (l.takenClk + 64)
      s.decideLoad p l

/-! ### The commands -/

/-- PLAN_LOAD: check 1, and the slot is held (R48). -/
def loadPlan (r : Taken) (s : State) : State :=
  let p := recNum r.bytes 8 1
  if s.planSt p != plEmpty || (s.plansIn (· = plEmpty)).isEmpty then
    (s.admitStat p 0x0D 0xFF).complete (takenCtx r) { status := 0x10, r0 := 4 + p * 2 ^ 16 }
  else
    let s := (s.setPlanSt p plChecking).setFld .PLAN_STATE_HEARTH p r.hearth
    { s.setPlan p { load := some { ctx := takenCtx r, addr := recNum r.bytes 16 6, gen := recNum r.bytes 9 1,
                                   order := s.loadNext, boundaries := 0, takenClk := s.clk } } with
        loadNext := s.loadNext + 1 }

def execPlanLoad (t : Fin 16) (s : State) : Answer := live s fun s => s.onCmd t 0x10 loadPlan

def execPlanAdmit (p : Fin 16) (s : State) : Answer := live s (admitPlan p)

/-- PLAN_START and PLAN_RESUME are accepted in one state of the slot, with none pending (R50, R52). -/
def startPlan (resume : Bool) (r : Taken) (s : State) : State :=
  let p := recNum r.bytes 8 1
  let tick := recNum r.bytes 16 6
  let x := takenCtx r
  if s.planSt p != (if resume then plSuspended else plAdmitted) || (s.plan p).pend.isSome then s.planDone x p 0x11 0x0C 0xFF
  else if tick < s.now + 2 then s.planDone x p 0x12 0x0B 0xFF
  else s.setPlan p { s.plan p with pend := some { tick := tick, resume := resume, ctx := x } }

def execPlanStart (t : Fin 16) (s : State) : Answer := live s fun s => s.onCmd t 0x11 (startPlan false)

def execPlanResume (t : Fin 16) (s : State) : Answer := live s fun s => s.onCmd t 0x12 (startPlan true)

/-- PLAN_RETIRE (R52): RETIRE_TICK counts for a plan that runs or is about to. -/
def retirePlan (r : Taken) (s : State) : State :=
  let p := recNum r.bytes 8 1
  let tick := recNum r.bytes 16 6
  let x := takenCtx r
  let timed := s.planSt p = plRunning || (s.plan p).pend.isSome
  if !isAdmitted (s.planSt p) || (s.plan p).retire.isSome then s.planDone x p 0x11 0x0C 0xFF
  else if timed && tick < s.now + 2 then s.planDone x p 0x12 0x0B 0xFF
  else s.setPlan p { s.plan p with retire := some { tick := if timed then tick else 0, resume := false, ctx := x } }

def execPlanRetire (t : Fin 16) (s : State) : Answer := live s fun s => s.onCmd t 0x13 retirePlan

/-- R52: the last released item of a plan that retires, or that its hearth's reset stopped, has completed. -/
def execPlanSlotEmpty (p : Fin 16) (s : State) : Answer :=
  live s fun s => s.on ((s.plan p).retiring && !s.itemsOf p) fun s => s.emptySlot p

/-- R446: the plan claims a link to a node that has left the member map, and no alternate route serves it. -/
def State.linkLeft (s : State) (alts : List Alt) (b : Budget) : Bool :=
  let n := (b.res - 0x50) % 24
  isLinkRes b.res && envelope b != 0 && !hasAlt alts b.res && s.fld .MEMBER_EPOCH != 0 && s.fld .FAR_INFO_ROLE n = 1 &&
  s.flag .FAR_INFO_NODE_VALID n && !s.isMember (s.fld .FAR_INFO_NODE n)

/-- Whether the trigger of a miss shows in the state (Tables 2.6 and R407); RETRY and PORT come from outside it. -/
def State.missHolds (s : State) (p cause : Nat) : Bool :=
  let q := s.plan p
  match cause with
  | 0x01 => s.liveSlices < q.slices
  | 0x02 => s.liveMixers < q.mixers
  | 0x03 => q.budgets.any fun b => !s.linkOk q.alts b || s.linkLeft q.alts b
  | 0x06 => q.budgets.any fun b => isFenRes b.res && s.shareBudget b.res < b.maxBytes
  | 0x04 | 0x09 => true
  | _ => false

/-- R58: a running plan misses; a PORT miss sets XB_STAT.PORT_OVER (R407). -/
def execPlanMiss (p : Fin 16) (cause : Byte) (s : State) : Answer :=
  live s fun s =>
    s.on (s.planSt p = plRunning && s.missHolds p cause.toNat) fun s =>
      (s.planMiss p cause.toNat).on (cause = 0x09) fun s => s.setFld .XB_STAT_PORT_OVER 0 1

end Sys2Proof.Machine
end

