-- ==== Sys2Proof/Machine/Crossbar.lean ====
section
/-! DEFINITION. The crossbar's target ports: requests, limits, arbitration and locks (R394 to R413). What is granted outside a cycle of the clock, and what is not arbitrated, stands in log entries 5 and 108. -/

namespace Sys2Proof.Machine

/-- What an access costs the share budgets of the node it is issued on, a remote one by the allowance of R329. -/
def State.accessCost (s : State) (u ga n : Nat) (wr : Bool) : List (Nat × Nat) :=
  if s.onChip ga then fenCost u (localOf ga) n wr else [(2, u * unitsIn u ga n)]

/-! ### Latencies (before Table 9.4, R267, Table 12.3) -/

def State.readLat (s : State) (ga : Nat) : Nat :=
  if !s.onChip ga then 0
  else match regionOf (localOf ga) with | some .fen => 96 | some .tile => 14 | some .mirror => 8 | _ => 12

def State.writeLat (s : State) (ga n : Nat) : Nat :=
  if !s.onChip ga then 0
  else match regionOf (localOf ga) with
    | some .fen => 40 + (if partUnits ga n = 0 then 0 else 48)
    | some .mirror => 5
    | _ => 12

/-- Cycles from a read's grant to the cycle in which it takes effect at its port, in the order of grants (R403). -/
def State.sampleLat (s : State) (ga : Nat) : Nat := min (s.readLat ga) (s.writeLat ga 0)

/-! ### Ports (R394, R395, R397) -/

/-- The target port of a local address: STG b is b, FEN c is 64 + c, the TILE port of class c is 78 + c, REG 85; FLTX k would be 86 + k. -/
def localPort (a : Nat) : Nat :=
  match regionOf a with
  | some .fen => 64 + fenChan a
  | some .staging => (a - 0x1000000000) / 0x280000
  | some .tile => match tileRow a with | some (c, _, _) => 78 + c | none => 85
  | _ => 85

/-- One past the last address of the part of a region behind the port of `a`. -/
def portEnd (a : Nat) : Nat :=
  match regionOf a with
  | some .fen => (a / 0x10000 + 1) * 0x10000
  | some .staging => 0x1000000000 + ((a - 0x1000000000) / 0x280000 + 1) * 0x280000
  | some .tile => (a / 0x400 + 1) * 0x400
  | _ => a + 0x80000

/-- `n` bytes from `a` in parts behind one port each. -/
def portParts (a n : Nat) : Nat → List (Nat × Nat)
  | 0 => []
  | k + 1 => if n = 0 then [] else
    let m := min n (portEnd a - a)
    (a, m) :: portParts (a + m) (n - m) k

def partsOf (a n : Nat) : List (Nat × Nat) := portParts a n (n / 0x400 + 2)

/-- Target class of a port: STG, FEN, TILE, REG, FLTX. -/
def portClass (p : Nat) : Nat := if p < 64 then 0 else if p < 80 then 1 else if p < 85 then 2 else if p = 85 then 3 else 4

/-- Beats that a port accepts in a cycle (Table 12.3), and a master port (Table 12.1). -/
def portWidth (p : Nat) : Nat :=
  match portClass p with | 0 => 8 | 1 => 3 | 2 => portRate (p - 78) / 64 | 3 => 1 | _ => 16

def masterWidth (m : Nat) : Nat := if m < 8 then 1 else if m < 14 then 16 else if m < 17 then 1 else 4

/-- Outstanding requests of a master port in a direction, and those of them that are for planned requests only (Table 12.1). -/
def masterLimit (m : Nat) (write : Bool) : Nat × Nat :=
  if m < 8 then (512, 128) else if m < 12 then (4096, 2048) else if m < 14 then (2048, 1024) else if m = 14 then (256, 64)
  else if m = 15 then (if write then (0, 0) else (64, 64)) else if m = 16 then (256, 0) else (1024, 512)

/-- CH_PLAN (Table 12.4). -/
def chPlan (grade : Nat) : Nat := match grade with | 0 => 141 | 1 => 121 | 2 => 106 | _ => 94

/-- The arbitration mode of a target class (R409). -/
def State.arbMode (s : State) (cls : Nat) : Nat :=
  s.fld (match cls with | 0 => .XB_ARB_MODE_STG | 1 => .XB_ARB_MODE_FEN | 2 => .XB_ARB_MODE_TILE | 3 => .XB_ARB_MODE_REG | _ => .XB_ARB_MODE_FLTX)

/-- XB_PRI of a master port. -/
def State.masterPri (s : State) (m : Nat) : Nat :=
  if m < 8 then bitsOf (s.fld .XB_PRI0) (4 * m) 4 else if m < 16 then bitsOf (s.fld .XB_PRI1) (4 * (m - 8)) 4
  else bitsOf (s.fld .XB_PRI2) (4 * (m - 16)) 4

/-- QOS of the ember accesses of hearth `t` (R408). -/
def State.emberQos (s : State) (t : Nat) : Nat :=
  if t < 8 then bitsOf (s.fld .XB_QOS_EMB0) (4 * t) 3 else bitsOf (s.fld .XB_QOS_EMB1) (4 * (t - 8)) 3

/-! ### Requests (R401, R402) -/

/-- The master port of an owner's requests. -/
def State.ownerMaster (s : State) : Owner → Option Nat
  | .ember e _ => some (e / 256)
  | .dma c _ | .ring c => some (8 + c / 16)
  | .flight k => (s.flights.find? (·.id = k)).map fun x => if wordClass x.word = 8 then 14 else if wordClass x.word = 2 then 12 else 13
  | .reshard _ | .none => none

/-- A request that has no response yet: it holds its TID until then, a write until it is visible. -/
def XbReq.open_ (r : XbReq) (clk : Nat) : Bool := match r.got with | none => true | some g => clk < g + r.lat

/-- Outstanding reads and writes of master port `m` (XB_OBS); remote ones wait for their response. -/
def State.xbOut (s : State) (m : Nat) : Nat × Nat :=
  ((s.xb.filter fun r => r.master = m && !r.write && r.open_ s.clk).length + (s.reads.filter fun r => s.ownerMaster r.owner = some m).length,
   (s.xb.filter fun r => r.master = m && r.write && r.open_ s.clk).length)

/-- R402: the master port may have another request outstanding. -/
def State.tidRoom (s : State) (m : Nat) (write planned : Bool) : Bool :=
  let l := masterLimit m write
  let n := if write then (s.xbOut m).2 else (s.xbOut m).1
  if planned then n < l.1 else n < l.1 - l.2

/-- The lowest TID that is not in use (R401). -/
def State.freeTid (s : State) (m : Nat) (write : Bool) : Nat :=
  ((List.range 4097).find? fun k => !s.xb.any fun r => r.master = m && r.write = write && r.tid = k && r.open_ s.clk).getD 0

/-- What a request says beside its address. -/
structure Ask where
  master : Nat
  write : Bool
  qos : Nat
  plan : Option Nat := none
  hearth : Option Nat := none
  since : Nat
  lat : Nat
  /-- bytes in which fen accesses are charged -/
  unit : Nat := 32

/-- One request for a part behind one port. -/
def State.xbPut (s : State) (k : Ask) (a n : Nat) : State :=
  let r : XbReq :=
    { id := s.xbNext + 1, master := k.master, tid := s.freeTid k.master k.write, write := k.write, qos := k.qos, plan := k.plan, hearth := k.hearth,
      port := localPort a, beats := beats a n, cost := fenCost k.unit a n k.write, since := k.since, lat := k.lat }
  { s with xb := s.xb ++ [r], xbNext := s.xbNext + 1 }

/-- The requests for `n` bytes at local `a`, and their numbers; none while the master port has none to give (R402). -/
def State.xbAsk (s : State) (k : Ask) (a n : Nat) : Option (State × List Nat) :=
  if !s.tidRoom k.master k.write k.plan.isSome then none
  else
    let ps := partsOf a n
    some (forAll ps (fun e s => s.xbPut k e.1 e.2) s, (upTo ps.length).map fun i => s.xbNext + 1 + i)

/-- The cycle in which a request was granted; of one that has gone from the book, the current one. -/
def State.xbGot (s : State) (id : Nat) : Option Nat :=
  match s.xb.find? (·.id = id) with
  | none => some s.clk
  | some r => r.got

/-! ### Arbitration (R398, R400, R403, R405, R406, R409 to R411, R413) -/

/-- Beats that a port (or master port `m`, at 128 + `m`) has accepted and not served yet. -/
def State.owed (s : State) (key width : Nat) : Nat :=
  let e := mget (0, 0) key s.xbOwed
  e.2 - width * (s.clk - e.1)

/-- The port, or master port, can begin another group in this cycle. -/
def State.portOpen (s : State) (p : Nat) : Bool := s.owed p (portWidth p) < portWidth p
def State.masterOpen (s : State) (m : Nat) : Bool := s.owed (128 + m) (masterWidth m) < masterWidth m

def State.owe (s : State) (key width n : Nat) : State :=
  { s with xbOwed := mput (0, 0) key (s.clk, s.owed key width + n) s.xbOwed }

/-- Staging beats granted in this cycle: planned ones at 250, all at 251. -/
def State.stgBeats (s : State) (key : Nat) : Nat := let e := mget (0, 0) key s.xbOwed; if e.1 = s.clk then e.2 else 0

def State.stgCount (s : State) (key n : Nat) : State := { s with xbOwed := mput (0, 0) key (s.clk, s.stgBeats key + n) s.xbOwed }

/-- A request is granted in this cycle. -/
def State.xbGrant (s : State) (r : XbReq) : State :=
  let n := min r.beats (portWidth r.port)
  let s := (s.owe r.port (portWidth r.port) r.beats).owe (128 + r.master) (masterWidth r.master) r.beats
  let s := s.on (portClass r.port = 0) fun s => (s.stgCount 251 n).on r.plan.isSome fun s => s.stgCount 250 n
  let s := if r.plan.isSome then s.on (portClass r.port = 1) fun s => s.slotDraw (64 + r.port) r.beats else s.fenDraw none r.cost
  { s with xb := s.xb.map (fun q => if q.id = r.id then { q with got := some s.clk } else q), xbLast := mput 22 r.port r.master s.xbLast }

/-- R406: planned beats of a fen channel in a slot, and of the staging array in a cycle. -/
def State.planBeatsOk (s : State) (port n : Nat) : Bool :=
  match portClass port with
  | 0 => s.stgBeats 250 + min n (portWidth port) ≤ 182
  | 1 => s.slotUsed (64 + port) + n ≤ chPlan (s.fld .CLK_STAT_ACTIVE_GRADE)
  | _ => true

/-- Requests that wait at a port in this cycle, planned or open, in issue order. -/
def State.waiting (s : State) (port : Nat) (planned : Bool) : List XbReq :=
  s.xb.filter fun r => r.port = port && r.got.isNone && r.since ≤ s.clk && r.plan.isSome = planned

/-- R405: the planned requests of a port, by master port and then in issue order. One that is not granted misses its cycle (R407). -/
def State.grantPlanned (port : Nat) (s : State) : State :=
  forAll ((upTo 23).flatMap fun m => (s.waiting port true).filter (·.master = m))
    (fun r s =>
      if s.portOpen port && s.masterOpen r.master && s.planBeatsOk port r.beats then s.xbGrant r
      else match r.plan with | none => s | some p => s.portMiss p) s

/-- A locked sequence holds the port (R413). -/
def State.portLocked (s : State) (port : Nat) : Bool := s.locks.any fun l => l.1 = port && s.clk < l.2.2

/-- In a banked tick open work keeps out of the envelopes on a staging bank (R53). -/
def State.portClaimed (s : State) (port : Nat) : Bool :=
  portClass port = 0 && s.flag .TICK_STAT_BANKED && (s.claimer (0x80 + port) s.cyc).isSome

/-- An open request has waited for AGE_LIMIT cycles (R410). -/
def State.aged (s : State) (r : XbReq) : Bool := s.fld .XB_AGE != 0 && s.fld .XB_AGE ≤ s.clk - r.since

def State.effQos (s : State) (r : XbReq) : Nat := if s.aged r then 7 else r.qos

/-- What orders open requests at a port (R409, R410). -/
def State.xbRank (s : State) (r : XbReq) : Nat :=
  if s.arbMode (portClass r.port) = 0 then s.effQos r else if s.aged r then 15 else s.masterPri r.master

/-- The open requests that a port may grant now: the oldest of each master port (R403), within the open capacity (R39). -/
def State.mayGrant (s : State) (port : Nat) : List XbReq :=
  let w := s.waiting port false
  if !s.portOpen port || s.portLocked port || s.portClaimed port then []
  else (w.filter fun r => w.all fun q => q.master != r.master || r.id ≤ q.id).filter fun r => s.masterOpen r.master && s.openFits r.cost

/-- R409: the highest rank, then the first master port after the one granted last. -/
def State.pickOpen (s : State) (port : Nat) : Option XbReq :=
  let l := s.mayGrant port
  let top := l.filter fun r => l.all fun q => s.xbRank q ≤ s.xbRank r
  let after (m : Nat) : Nat := (m + 22 - mget 22 port s.xbLast) % 23
  top.find? fun r => top.all fun q => after r.master ≤ after q.master

/-- Open grants of a port in this cycle, in order. -/
def State.openGrants (s : State) (port : Nat) : Nat → State × List XbReq
  | 0 => (s, [])
  | n + 1 =>
    match s.pickOpen port with
    | none => (s, [])
    | some r => let t := (s.xbGrant r).openGrants port n; (t.1, r :: t.2)

def State.grantOpen (port : Nat) (s : State) : State := (s.openGrants port (portWidth port)).1

/-- The longest front of a list whose staging beats fit. -/
def fitBeats : Nat → List XbReq → List XbReq
  | _, [] => []
  | room, r :: l => let n := min r.beats (portWidth r.port); if n ≤ room then r :: fitBeats (room - n) l else []

/-- R411: the staging array takes open grants by falling QOS and rising port number as far as its beats go; a master port's later
request to a port never overtakes one that is withheld (R403). -/
def State.grantStaging (s : State) (ports : List Nat) : State :=
  let l := ports.flatMap fun p => (s.openGrants p (portWidth p)).2
  let order := (upTo 8).reverse.flatMap fun q => l.filter fun r => s.effQos r = q
  let taken := fitBeats (195 - s.stgBeats 251) order
  let held := l.filter fun r => !taken.any (·.id = r.id)
  forAll (taken.filter fun r => !held.any fun h => h.port = r.port && h.master = r.master && h.id < r.id) (fun r s => s.on (s.masterOpen r.master) fun s => s.xbGrant r) s

/-- One cycle of every target port; requests whose response has returned leave the book. -/
def State.arbitrate (s : State) : State :=
  let s := { s with xb := s.xb.filter fun r => r.open_ s.clk }
  let ports := (upTo 92).filter fun p => s.xb.any fun r => r.port = p && r.got.isNone && r.since ≤ s.clk
  let s := forAll ports (fun p s => s.grantPlanned p) s
  let s := s.grantStaging (ports.filter fun p => portClass p = 0)
  forAll (ports.filter fun p => portClass p != 0) (fun p s => s.grantOpen p) s

/-! ### Accesses that are granted at once -/

/-- Every port behind `n` bytes at `a` can take the master port's access in this cycle. -/
def State.portsOpen (s : State) (m : Nat) (planned : Bool) (a n : Nat) : Bool :=
  s.masterOpen m && (partsOf a n).all fun e =>
    s.portOpen (localPort e.1) && (planned || (!s.portLocked (localPort e.1) && !s.portClaimed (localPort e.1)))

/-- The access is made in this cycle: its requests stand in the book, granted. Shares are charged beside it. -/
def State.xbNow (s : State) (k : Ask) (a n : Nat) : State :=
  forAll (partsOf a n)
    (fun e s =>
      let s := s.xbPut k e.1 e.2
      match s.xb.getLast? with
      | none => s
      | some r => s.xbGrant { r with cost := [] }) s

/-- What an arrival from another node takes from FEN_RM, and the read half of a read-modify-write from FEN_RD (R299, R326). -/
def arrivalCost (a n : Nat) (wr : Bool) : List (Nat × Nat) :=
  if regionOf a != some .fen then [] else (2, 32 * eccUnits a n) :: (if wr then [(0, 32 * partUnits a n)] else [])

/-- R328: the bytes fit in what is left of the slot's FEN_RM share; planned arrivals may use the claimed part of it too. -/
def State.arrivalFits (s : State) (planned : Bool) (cost : List (Nat × Nat)) : Bool :=
  (totals cost).all fun e =>
    e.2 = 0 || (e.1 != 2 || s.slotUsed 2 + s.slotUsed 3 + e.2 ≤ s.shareBudget 2) && (planned || e.2 ≤ s.openLeft e.1)

def State.arrivalDraw (s : State) (planned : Bool) (cost : List (Nat × Nat)) : State :=
  forAll ((totals cost).filter (·.2 != 0)) (fun e s => s.slotDraw (if planned && e.1 = 2 then 3 else e.1) e.2) s

end Sys2Proof.Machine
end

