-- ==== Sys2Proof/Machine/Groups.lean ====
section
/-! DEFINITION. Shadowed groups: taking a snapshot on COMMIT (R97), the checks each group makes when its snapshot applies
(R26, R71, R100, R317, R362, R392, R417, R468 to R470, R495, Tables 15.6 and 15.8), and what applying it does beside loading
the active copy (R314, R337, R346, R443, R509). -/

namespace Sys2Proof.Machine

def groupKind : Group → GKind
  | .tick => .TICK | .ember => .EMBER | .damper => .DAMPER | .chan _ => .CHAN | .stream _ => .STREAM | .kvpool _ => .KVPOOL
  | .xbar => .XBAR | .node => .NODE | .hearth _ => .HEARTH | .queue _ => .QUEUE | .clk => .CLK | .therm => .THERM
  | .cal => .CAL | .eq _ => .EQ | .tray => .TRAY

def groupInst : Group → Nat
  | .chan c => c | .stream c => c | .kvpool t => t | .hearth t => t | .queue t => t | .eq n => n | _ => 0

/-- The fields of a group instance, each with its own instance number. -/
def groupCells (g : Group) : List (Fld × Nat) :=
  (groupKind g).fields.flatMap fun e => (upTo e.2).map fun i => (e.1, groupInst g * e.2 + i)

/-- The whole shadow group as it stands (R97). -/
def State.snapshot (s : State) (g : Group) : List (Nat × Nat) :=
  (groupCells g).map fun e => (e.1.key e.2, s.shd e.1 e.2)

def snapVal (v : List (Nat × Nat)) (f : Fld) (i : Nat) : Nat := mget 0 (f.key i) v

/-- R97, R63: the snapshot joins the pending ones, in place of one of the same group that is for the same boundary. One taken in
cycle B − 64 or later is for the boundary after B. -/
def State.commitGroup (s : State) (g : Group) : State :=
  { s with commits := s.commits.filter (fun c => c.grp != g || c.bound || c.late != s.within 64) ++
      [{ grp := g, vals := s.snapshot g, bound := false, late := s.within 64 }] }

/-- R97 with R71: a COMMIT of 1 takes the snapshot; a TICK commit from KINDLING to DAMPING only sets CFG_ERR. -/
def State.commit (s : State) (g : Group) (v : Nat) : State :=
  if !v.testBit 0 then s
  else if g = .tick && (s.chip = chipKindling || s.chip = chipWarm || s.chip = chipDamping) then s.setFld .TICK_STAT_CFG_ERR 0 1
  else s.commitGroup g

/-! ### Losing the lock, failing to kindle (R65, R69, R443, R553) -/

/-- R69: kindling fails with `code`; the chimney learns of it. -/
def State.kindleFail (s : State) (code : Nat) : State :=
  let s := (s.setFld .TICK_STAT_KINDLE_FAIL 0 code).setFld .TICK_STAT_KINDLE_TICK 0 0
  let s := s.setChip (if s.flag .TICK_STAT_LOCKED then chipLocked else chipCold)
  let s := { s with tk := { s.tk with kindleWait := false, kindleNext := false, joinTick := none } }
  if code = 4 then s
  else if s.isChimney then s.ask fun a => { a with abortReq := true } else s.report 4 code 0 0

/-- LOCKED falls: SOURCE_LOST, every running plan suspends at the next boundary, and the chip leaves LOCKED or KINDLING. -/
def State.lockFalls (s : State) : State :=
  if !s.flag .TICK_STAT_LOCKED then s
  else
    let s := (s.setFld .TICK_STAT_LOCKED 0 0).setFld .TICK_STAT_SOURCE_LOST 0 1
    let s := { s with tk := { s.tk with srcLost := true, good := 0 } }
    if s.chip = chipLocked then s.setChip chipCold
    else if s.chip = chipKindling then s.kindleFail 1
    else s

/-- The source in force: the configured one, or after a re-election EFF_SRC and EFF_LINK (R447). -/
def State.tickSrc (s : State) : Nat := if s.node.eff then s.fld .ELECT_STAT_EFF_SRC else s.fld .TICK_CFG_TICK_SRC
def State.srcLink (s : State) : Nat := if s.node.eff then s.fld .ELECT_STAT_EFF_LINK else s.fld .TICK_CFG_SRC_LINK

/-- R443: INTERNAL on the domain chimney; PIN, or FLUE on an in-service link towards the chimney, elsewhere. -/
def State.sourceAgrees (s : State) : Bool :=
  let src := s.tickSrc
  let lk := s.srcLink
  if s.isChimney then src = 0
  else src = 1 || (src = 2 && s.fbit .LINK_LIVE 0 lk && s.fbit .RT_LINKS (s.fld .ELECT_STAT_ROW_CHIMNEY_NODE) lk)

/-! ### Checks -/

/-- Commands of hearth `t` in progress (R470). -/
def State.commandsBusy (s : State) (t : Nat) : Bool :=
  let mine (x : Ctx) := x.hearth = t && (x.origin = 0 || x.origin = 3)
  s.taken.any (·.hearth = t) || !(s.hearth t).iq.isEmpty || s.flights.any (fun x => mine x.ctx) ||
  s.reshards.any (fun r => mine r.ctx || r.cancel.any mine) ||
  s.chans.any (fun e => e.2.queue.any (fun x => mine x.ctx) || (e.2.opn.xfer.map fun x => mine x.ctx).getD false) ||
  s.plans.any fun e => (e.2.load.map fun l => mine l.ctx).getD false || (e.2.pend.map fun l => mine l.ctx).getD false ||
    (e.2.retire.map fun l => mine l.ctx).getD false

/-- KV sequences open in hearth `t` (KV_SEQ_OPEN). -/
def State.seqOpen (s : State) (t : Nat) : Nat := (s.seqs.filter fun e => e.2.opened && e.2.hearth = t).length

/-- The windows of a HEARTH snapshot (R468). -/
def winSnapOk (s : State) (t : Nat) (v : List (Nat × Nat)) (n : Nat) : Bool :=
  let i := t * 16 + n
  let g (f : Fld) := snapVal v f i
  let base := g .WIN_BASE_HI_BASE_47_32 * 2 ^ 32 + g .WIN_BASE_LO_BASE_31_12 * 2 ^ 12
  (g .WIN_BASE_LO_V = 0 ||
    (g .WIN_SIZE != 0 && base + g .WIN_SIZE * 4096 ≤ 2 ^ 48 && (g .WIN_BASE_LO_SEAL = 0 || g .WIN_BASE_LO_W = 0))) &&
  (g .WIN_BASE_HI_REMOTE = 0 || (g .WIN_BASE_LO_SEAL = 0 && g .WIN_BASE_LO_RMT_OK = 0)) &&
  (!((s.win t n).v && (s.win t n).sealed) ||
    (groupCells (.hearth (Fin.ofNat 16 t))).all fun e =>
      e.2 != i || !(GKind.HEARTH.fields.contains (e.1, 16)) || snapVal v e.1 e.2 = s.fld e.1 e.2)

/-- The channel masks of a HEARTH snapshot (R468). -/
def maskSnapOk (s : State) (t : Nat) (v : List (Nat × Nat)) : Bool :=
  let new := snapVal v .CHAN_MASK_LO t + snapVal v .CHAN_MASK_HI t * 2 ^ 32
  (upTo 64).all fun c =>
    (!new.testBit c || (upTo 16).all fun o => o = t || !s.ownsChan o c) &&
    (new.testBit c || !s.ownsChan t c ||
      (s.fld .CH_STAT_STATE c = 0 && s.fld .PSTAT c = 0 && (s.chan c).queue.isEmpty))

/-- One queue of a QUEUE snapshot: its size, its place in staging SRAM and in the hearth's windows (R469). -/
def queueSnapOk (s : State) (t : Nat) (base log2n size : Nat) (wr : Bool) : Bool :=
  queueSize log2n != 0 && base * 64 + queueSize log2n * size ≤ 0xA000000 &&
  (upTo (queueSize log2n)).all fun k =>
    match s.accessWin t (s.global (queueEntry base (queueSize log2n) size k)) size with
    | none => false
    | some w => w.r && (!wr || w.w)

/-- A master that Table 12.2 wires to target class `cls` (0 STG, 1 FEN, 2 TILE, 3 REG, 4 FLTX), or 31 for the last. -/
def parkOk (cls m : Nat) : Bool :=
  m = 31 ||
  (if m ≤ 11 then true
   else if m ≤ 13 then cls = 0 || cls = 1 || cls = 4
   else if m = 14 then cls = 0 || cls = 1
   else if m = 15 then cls = 0
   else if m ≤ 22 then cls = 0 || cls = 1 || cls = 3
   else false)

def nibbleSum (x : Nat) : Nat := ((upTo 8).map fun k => bitsOf x (4 * k) 4).foldl (· + ·) 0

/-- The STREAM checks (R362) of channel `c`. A channel that is no channel-fed consumer names no producer, and one with MODE 0
has no ring (log entry 23). -/
def streamOk (s : State) (c : Nat) (v : List (Nat × Nat)) : Bool :=
  let g (f : Fld) := snapVal v f c
  let mode := g .RING_CFG_MODE
  let base := g .RING_BASE
  let size := 2 ^ g .RING_CFG_LOG2N * 16
  let others := (upTo 64).filter fun d => d != c && s.fld .STRM_CFG_IN_SRC d = 1
  g .STRM_CFG_IN_SRC != 3 && mode ≤ 4 &&
  (mode = 0 || (4 ≤ g .RING_CFG_LOG2N && g .RING_CFG_LOG2N ≤ 12)) &&
  (mode != 3 || (6 ≤ g .RING_CFG_SLOT_LOG2 && g .RING_CFG_SLOT_LOG2 ≤ 16)) &&
  (g .STRM_CFG_IN_SRC != 1 ||
    (g .STRM_CFG_IN_CH != c && others.all fun d => s.fld .STRM_CFG_IN_CH d != g .STRM_CFG_IN_CH)) &&
  base % 16 = 0 &&
  (mode = 0 ||
    ((if s.isOwn base then s.spanOk (localOf base) size else spanFar (localOf base) size) &&
      regionOf (localOf base) != some .tile)) &&
  ((mode != 3 && mode != 4) || (s.isOwn base && regionOf (localOf base) = some .staging)) &&
  (g .RING_CFG_PEER_PARTNER = 0 || g .RING_CFG_PEER_NODE ≤ 15)

/-- R100: whether a snapshot passes its group's checks. -/
def State.snapOk (s : State) (g : Group) (v : List (Nat × Nat)) : Bool :=
  match g with
  | .tick => 4 ≤ snapVal v .TICK_CFG_TICK_LEN_K 0 && snapVal v .TICK_CFG_TICK_LEN_K 0 ≤ 128 && snapVal v .TICK_CFG_TICK_SRC 0 != 3
  | .damper =>
    nibbleSum (snapVal v .DMP_SHARE0 0) + nibbleSum (snapVal v .DMP_SHARE1 0) ≤ 16 && snapVal v .DMP_CAP 0 != 0
  | .stream c => streamOk s c v
  | .kvpool t => s.seqOpen t = 0
  | .xbar =>
    16 ≤ snapVal v .XB_LOCK_TMO 0 && parkOk 0 (snapVal v .XB_PARK_STG 0) && parkOk 1 (snapVal v .XB_PARK_FEN 0) &&
    parkOk 2 (snapVal v .XB_PARK_TILE 0) && parkOk 3 (snapVal v .XB_PARK_REG 0) && parkOk 4 (snapVal v .XB_PARK_FLTX 0)
  | .hearth t =>
    snapVal v .HEARTH_CFG t ≤ 1792 && maskSnapOk s t v && (upTo 16).all (winSnapOk s t v)
  | .queue t =>
    s.flag .HEARTH_CTL_FENCE t && !s.commandsBusy t &&
    queueSnapOk s t (snapVal v .SQ_CFG_BASE_IDX t) (snapVal v .SQ_CFG_LOG2N t) 64 false &&
    queueSnapOk s t (snapVal v .CQ_CFG_BASE_IDX t) (snapVal v .CQ_CFG_LOG2N t) 32 true &&
    queueSnapOk s t (snapVal v .AQ_CFG_BASE_IDX t) (snapVal v .AQ_CFG_LOG2N t) 64 true
  | .clk => !s.flag .CLK_STAT_PLL_ON && snapVal v .CLK_CFG 0 ≤ s.fuses.maxGrade.toNat
  | .therm =>
    60 ≤ snapVal v .THERM_CFG_TJ_TARGET 0 && snapVal v .THERM_CFG_TJ_TARGET 0 ≤ 90 &&
    snapVal v .THERM_CFG_FAN_CEIL 0 ≤ 100 && snapVal v .THERM_CFG_FAN_MIN 0 ≤ snapVal v .THERM_CFG_FAN_CEIL 0
  | .tray =>
    snapVal v .TRAY_P_CEIL 0 != 0 &&
    (upTo 8).all fun r => snapVal v .RAIL_MAP_EN r = 0 || snapVal v .RAIL_LIM_LO r ≤ snapVal v .RAIL_LIM_HI r
  | .ember | .chan _ | .node | .cal | .eq _ => true

/-- The status bit a refused snapshot sets (R100). -/
def State.cfgErr (s : State) (g : Group) : State :=
  match g with
  | .tick => s.setFld .TICK_STAT_CFG_ERR 0 1
  | .damper => s.setFld .DMP_STAT_CFG_ERR 0 1
  | .stream c => s.setFld .RING_STAT_CFG_ERR c 1
  | .kvpool t => s.setFld .KV_HSTAT_CFG_ERR t 1
  | .xbar => s.setFld .XB_STAT_CFG_ERR 0 1
  | .hearth t => s.setFld .HEARTH_STAT_CFG_ERR t 1
  | .queue t => s.setFld .HEARTH_STAT_CFG_ERR t 1
  | .clk => s.setFld .CLK_STAT_CFG_ERR 0 1
  | .therm => s.setFld .THERM_STAT_CFG_ERR 0 1
  | .tray => s.setFld .TRAY_STAT_CFG_ERR 0 1
  | .ember | .chan _ | .node | .cal | .eq _ => s

/-! ### Effective values (R11, R499) -/

/-- FX plus a signed delta of `w` bits, saturating at the FX field's range. -/
def saturate (x lo hi : Int) : Int := if x < lo then lo else if hi < x then hi else x

/-- TS_EFF of sensor `k`, in quarter degrees. -/
def State.tsFx (s : State) (k : Nat) : Int := signedOf (s.fuses.ts.getD k 0).toNat 8
def State.tsEff (s : State) (k : Nat) : Int := saturate (s.tsFx k + signedOf (s.fld .TS_UC k) 8) (-128) 127

/-- Equaliser fields by index: PRE, MAIN, POST, CTLE. -/
def eqUc : Nat → Fld
  | 0 => .EQ_UC_PRE | 1 => .EQ_UC_MAIN | 2 => .EQ_UC_POST | _ => .EQ_UC_CTLE
def eqNow : Nat → Fld
  | 0 => .EQ_NOW_PRE | 1 => .EQ_NOW_MAIN | 2 => .EQ_NOW_POST | _ => .EQ_NOW_CTLE

def State.eqFx (s : State) (n k : Nat) : Nat := bitsOf (s.fuses.eq.getD n 0).toNat (8 * k) 6
def State.eqEff (s : State) (n k : Nat) : Nat := (saturate (s.eqFx n k + signedOf (s.fld (eqUc k) n) 6) 0 63).toNat

/-- The window of adapted value `k` of link `n` (R508); only the preset itself while ADAPT_EN is 0. -/
def State.eqLo (s : State) (n k : Nat) : Nat :=
  if s.flag .EQ_CFG_ADAPT_EN n then s.eqEff n k - s.fld .EQ_CFG_WINDOW n else s.eqEff n k
def State.eqHi (s : State) (n k : Nat) : Nat :=
  if s.flag .EQ_CFG_ADAPT_EN n then min 63 (s.eqEff n k + s.fld .EQ_CFG_WINDOW n) else s.eqEff n k

/-- R509: each adapted value of link `n` is clamped into its window. -/
def State.eqClamp (s : State) (n : Nat) : State :=
  forAll (upTo 4) (fun k s => s.setFld (eqNow k) n (max (s.eqLo n k) (min (s.eqHi n k) (s.fld (eqNow k) n)))) s

/-- A link that retrains starts from EQ_EFF (R509). -/
def State.eqStart (s : State) (n : Nat) : State := forAll (upTo 4) (fun k s => s.setFld (eqNow k) n (s.eqEff n k)) s

/-! ### Applying -/

/-- Both FIFOs of a consumer are emptied (R337). -/
def State.emptyFifos (s : State) (c : Nat) : State :=
  let ch := s.chan c
  s.setChan c { ch with opn := { ch.opn with fifo := [], producerFaulted := false },
                        pln := { ch.pln with fifo := [], producerFaulted := false } }

/-- What applying a snapshot does once the active copy is loaded; `o` is the state before. -/
def State.applied (s : State) (g : Group) (o : State) : State :=
  match g with
  | .tick =>
    s.on (s.tk.firstLock && !s.sourceAgrees) fun s => (s.setFld .ELECT_STAT_SRC_CONFLICT 0 1).lockFalls
  | .damper => { s with bucket := s.bucket.map fun e => (e.1, min e.2 (s.fld .DMP_CAP * 1024)) }
  | .stream c =>
    let ch (f : Fld) := s.fld f c != o.fld f c
    let s := s.on (ch .STRM_CFG_IN_SRC || ch .STRM_CFG_IN_CH) fun s => s.emptyFifos c
    let s := s.on (ch .RING_CFG_MODE || ch .RING_CFG_LOG2N || ch .RING_BASE || ch .RING_CFG_PEER_NODE ||
        ch .RING_CFG_PEER_PARTNER) fun s => (s.setFld .RING_OWN_IDX c 0).setFld .RING_PEER_IDX c 0
    s.setFld .RING_STAT_HALTED c 0
  | .queue t =>
    forAll [Fld.SQ_TAIL, .SQ_HEAD, .CQ_TAIL, .CQ_HEAD, .AQ_TAIL, .AQ_HEAD] (fun f s => s.setFld f t 0) s
  | .clk => (s.setFld .CLK_STAT_PLL_ON 0 1).setFld .CLK_STAT_ACTIVE_GRADE 0 (s.fld .CLK_CFG)
  | .eq n => s.eqClamp n
  | .ember | .chan _ | .kvpool _ | .xbar | .node | .hearth _ | .therm | .cal | .tray => s

/-- R98, R100: a snapshot becomes the active copy, or fails its checks and only sets CFG_ERR. -/
def State.applySnap (s : State) (c : Snapshot) : State :=
  if s.snapOk c.grp c.vals then
    (forAll (groupCells c.grp) (fun e s => s.setFld e.1 e.2 (snapVal c.vals e.1 e.2)) s).applied c.grp s
  else s.cfgErr c.grp

/-- R12: before the first lock the group's pending snapshot applies. -/
def execGroupApply (g : Group) (s : State) : Answer :=
  live s fun s =>
    match s.commits.find? (·.grp = g) with
    | none => s
    | some c => if s.tk.firstLock then s else { s with commits := s.commits.erase c }.applySnap c

/-- The snapshots bound to the boundary that is opening apply in the order of their commits (R62). -/
def State.applyBound (s : State) : State :=
  forAll (s.commits.filter (·.bound)) (fun c s => s.applySnap c) { s with commits := s.commits.filter fun c => !c.bound }

end Sys2Proof.Machine
end

