-- ==== Sys2Proof/Machine/Resets.lean ====
section
/-! DEFINITION. Power and resets: power loss, RESET#, fuses, the two stops (R494, R507, R517, R526 to R531), and the hearth
reset (R486 to R490, R337, R351, R393). -/

namespace Sys2Proof.Machine

/-! ### Chip resets -/

/-- POS_STRAP decides TRAY_POS.POS and with it the reset value of ELECT_PRIO, 8 − POS (R18, Table 13.8). -/
def State.strapped (s : State) (pos : Bool) : State :=
  s.on pos fun s => ((s.setFld .TRAY_POS_POS 0 1).setFld .NODE_CFG_ELECT_PRIO 0 7).setShd .NODE_CFG_ELECT_PRIO 0 7

/-- EQ_NOW = FX after a reset (Table 15.7). -/
def State.fused (s : State) : State := forAll (upTo 24) (fun n s => s.eqStart n) s

/-- What no reset touches: the host's queue and the model's count of free values. -/
def State.blank (s : State) : State := { State.reset with pending := s.pending, free := s.free }

/-- The warm reset (R498): as power loss, except that the PCIe endpoint is kept; the fuses keep their values. -/
def State.chipReset (s : State) : State :=
  ({ s.blank with power := .run, fuses := s.fuses, pcieUp := s.pcieUp }.strapped (s.flag .TRAY_POS_POS)).fused

/-- R517. -/
def execPowerLoss (s : State) : Answer := .next { s.blank with power := .off, pcieUp := false }

/-- R528, R529: a cold reset from any state; POS_STRAP is sampled. -/
def execColdReset (pos : Bool) (s : State) : Answer := .next (s.blank.strapped pos)

/-- The load takes up to 200 µs, and frames are served from 250 µs after RESET# rises: 50 to 250 µs, in cycles of 100 MHz, are left (log
entry 109). -/
def State.portStart (s : State) : State := { s with portAt := s.clk + 5000 + Config.freeNat s.free % 20001, free := s.free + 1 }

/-- R530: the fuses are loaded and the register clock runs. -/
def execFuseLoadDone (f : Fuses) (s : State) : Answer :=
  .next (if s.power = .fuseLoad then { s with power := .run, fuses := f }.fused.portStart else s)

/-- R507: THERMTRIP# low, the clocks stop and every other output is released. -/
def State.thermStop (s : State) : State :=
  { s with power := .stoppedHot, thermtripLow := true, miso := [], bus := [],
           therm := { s.therm with hotLow := false, fanMaxDrive := false } }

/-- A stop happens where clocks run. -/
def State.stopped (s : State) (f : State → State) : State := if s.power = .run then f s else s

def execThermtrip (s : State) : Answer := .next (s.stopped State.thermStop)

/-- R527: the clocks stop, every output is released and all state is lost. -/
def State.railStop (s : State) : State := { s.blank with power := .stoppedRail, pcieUp := false }

def execUndervoltageStop (s : State) : Answer := .next (s.stopped State.railStop)

/-- R531: only the PCIe endpoint is reset, and PCIe requests in flight are discarded. -/
def execPerst (s : State) : Answer := live s fun s => { s with pcieUp := false, bus := [] }

/-! ### Hearth reset -/

/-- An ember context is freed; its incarnation count increments (R255). Stores and copies already on the crossbar stay on their way. -/
def State.freeEmber (s : State) (e : Nat) : State :=
  let m := s.ember e
  let reeds := m.reeds.filter (·.wreq.isSome)
  s.setEmber e
    { incarn := (m.incarn + 1) % 32, air := m.air, reeds := reeds, hearth := if m.air.isEmpty && reeds.isEmpty then 0 else m.hearth }

/-- Embers of hearth `t`. -/
def State.embersOf (s : State) (t : Nat) : List Nat :=
  (s.embers.filter fun e => e.2.live && e.2.hearth = t).map (·.1)

/-- Stores a resident ember still buffers. -/
def State.buffered (s : State) (e : Nat) : Nat := (s.ember e).buf.length

/-- R487 step 2: the hearth's embers retire without draining, and their buffered stores are discarded and counted. -/
def State.dropEmbers (s : State) (t : Nat) : State :=
  let es := s.embersOf t
  let n := (es.map s.buffered).foldl (· + ·) 0
  let s := forAll es (fun e s => s.freeEmber e) s
  s.setHearth t { s.hearth t with discStores := (s.hearth t).discStores + n }

/-- Open work is no work of a plan. -/
def Ctx.open_ (x : Ctx) : Bool := x.origin != 2

/-- What is outstanding for work that has been stopped belongs to none any more: a response is discarded, and a backdraft only makes its
record. -/
def State.disown (s : State) (o heir : Owner) : State :=
  { s with
    reads := s.reads.map (fun r => if r.owner = o then { r with owner := heir } else r)
    posted := s.posted.map fun p => if p.owner = o then { p with owner := heir } else p }

/-- R487 step 4, and what a discarded transfer leaves: beats that are on the crossbar are written, and its channel's open context is
idle. A discarded register-path transfer
clears START, a discarded preheat leaves its slot to R351. -/
def State.dropOpen (s : State) (c : Nat) : State :=
  let ch := s.chan c
  let reg := (ch.opn.xfer.map (·.reg)).getD false
  let s : State := forAll ch.opn.out (fun o s => s.store (localOf o.ga) o.bytes) s
  let s := (s.setChan c { ch with opn := { fifo := ch.opn.fifo, producerFaulted := ch.opn.producerFaulted } }).disown (Owner.dma c false) (Owner.ring c)
  let s := ((s.setFld .CH_STAT_STATE c 0).setFld .RING_STAT_WAITING c 0)
  s.on reg fun s => s.setFld .CH_CTRL_START c (b2n ((s.chan c).queue.any (·.reg)))

/-- The transfers that hearth `t` has queued on channel `c` are discarded; the count goes to DISC_WORK. -/
def State.dropQueued (s : State) (t c : Nat) : State :=
  let ch := s.chan c
  let gone := ch.queue.filter fun x => x.ctx.hearth = t
  let s := s.setChan c { ch with queue := ch.queue.filter fun x => x.ctx.hearth != t }
  let s := s.on (gone.any (·.reg)) fun s =>
    s.setFld .CH_CTRL_START c (b2n ((ch.opn.xfer.map (·.reg)).getD false || (s.chan c).queue.any (·.reg)))
  s.setHearth t { s.hearth t with discWork := (s.hearth t).discWork + gone.length }

/-- An engine instruction is abandoned with no record: its destination is undefined over its range (Table 5.11). -/
def State.dropFlight (s : State) (x : Flight) : State :=
  let s := s.spoil x
  { s with flights := s.flights.filter fun y => y.id != x.id }

/-- R487 step 3: queued commands, queued transfers, waiting instructions and running engine instructions are discarded and
counted. Items of running plans run on. -/
def State.dropWork (s : State) (t : Nat) : State :=
  let h := s.hearth t
  let mine := s.flights.filter fun x => x.ctx.hearth = t && x.ctx.open_
  let n := (s.taken.filter (·.hearth = t)).length + h.iq.length + mine.length
  let s := { s with taken := s.taken.filter (·.hearth != t) }
  let s := s.setHearth t { h with iq := [], discWork := h.discWork + n }
  let s := forAll mine (fun x s => s.dropFlight x) s
  forAll (upTo 64) (fun c s => s.dropQueued t c) s

/-- R487 steps 4 and 5: running open transfers stop, and reshards in flight are abandoned. -/
def State.stopWork (s : State) (t : Nat) : State :=
  let s := forAll (s.reshards.filter fun r => r.ctx.hearth = t) (fun r s => s.disown (Owner.reshard r.id) Owner.none) s
  let s := forAll ((upTo 64).filter fun c => ((s.chan c).opn.xfer.map fun x => decide (x.ctx.hearth = t)).getD false)
    (fun c s => s.dropOpen c) s
  let s := forAll (s.reshards.filter fun r => r.ctx.hearth = t) (fun r s => s.spoilReshard r) s
  { s with reshards := s.reshards.filter fun r => r.ctx.hearth != t }

/-- R393: KV sequences and tags of a reset hearth, and its registers that return to their reset values. -/
def State.dropKv (s : State) (t : Nat) : State :=
  let s := { s with
    seqs := s.seqs.filter (fun e => e.2.hearth != t), tags := s.tags.filter (fun e => e.1 / 256 != t)
    flights := s.flights.map fun x => if x.ctx.hearth = t && wordClass x.word = 8 then { x with done := .none, tag := 0, stack := 0 } else x }
  forAll [Fld.KV_POOL_TOP, .KV_PAGES_USED, .KV_PAGES_PROV, .KV_HSTAT_TOP_BUSY, .KV_HSTAT_CFG_ERR] (fun f s => s.setFld f t 0) s

/-- R487 step 6: FIFOs of the hearth's channels, its heat slots, its KV state. -/
def State.dropStreams (s : State) (t : Nat) : State :=
  let s := forAll ((upTo 64).filter (s.ownsChan t)) (fun c s => s.emptyFifos c) s
  let s := forAll (upTo 4) (fun k s => s.setHeat (4 * t + k) 0) s
  s.dropKv t

/-- The miss cause of a hearth reset (R487). -/
def missReset : Nat := 0x0A

/-- R487 step 7: the hearth's plans miss, stop at the next boundary and then empty; a load not yet decided is a queued
command and goes with its slot, and so do pending plan commands. -/
def State.dropPlan (s : State) (p : Nat) : State :=
  if s.planSt p = plChecking then
    let t := s.planHearth p
    let s := s.setHearth t { s.hearth t with discWork := (s.hearth t).discWork + 1 }
    (s.setPlan p {}).emptySlot p
  else
    let s := s.planMiss p missReset
    s.setPlan p { s.plan p with pend := none, retire := some { tick := 0, resume := true, ctx := {} } }

def State.dropPlans (s : State) (t : Nat) : State :=
  forAll ((s.plansIn (· != plEmpty)).filter fun p => s.planHearth p = t) (fun p s => s.dropPlan p) s

/-- The six queue indices of hearth `t` are 0. -/
def State.zeroQueues (s : State) (t : Nat) : State :=
  forAll [Fld.SQ_TAIL, .SQ_HEAD, .CQ_TAIL, .CQ_HEAD, .AQ_TAIL, .AQ_HEAD] (fun f s => s.setFld f t 0) s

/-- R488: seals lift in both copies, the queue indices are 0, and the error bits and FENCE clear. -/
def State.clearQueues (s : State) (t : Nat) : State :=
  let s := forAll (upTo 16)
    (fun n s => (s.setFld .WIN_BASE_LO_SEAL (t * 16 + n) 0).setShd .WIN_BASE_LO_SEAL (t * 16 + n) 0) s
  forAll [Fld.HEARTH_STAT_DB_ERR, .HEARTH_STAT_CFG_ERR, .HEARTH_STAT_AQ_OVER, .HEARTH_CTL_FENCE] (fun f s => s.setFld f t 0) (s.zeroQueues t)

/-- R486 to R488, R180: a reset of hearth `t` starts. One started while another runs is absorbed by it (log entry 24). -/
def State.startReset (s : State) (t : Nat) : State :=
  if s.flag .HEARTH_STAT_RESETTING t then s
  else
    let s := (s.setFld .HEARTH_STAT_RESETTING t 1).setFld .HEARTH_CTL_RESET t 1
    let s := s.setHearth t { s.hearth t with discStores := 0, discWork := 0 }
    let s := ((((((s.dropEmbers t).dropWork t).stopWork t).dropStreams t).dropPlans t).clearQueues t).dropLatches fun _ => true
    (s.setFld .DISC_STORES t (s.hearth t).discStores).setFld .DISC_WORK t (s.hearth t).discWork

/-- Crossbar transactions of the hearth that remain (R489): stores that had left their buffers, and requests without their response. -/
def State.onBus (s : State) (t : Nat) : Bool := (s.embers.any fun e => e.2.hearth = t && !e.2.offBus) || s.xb.any fun r => r.hearth = some t && r.open_ s.clk

/-- R489: RESETTING clears, RESET_DONE is ash entry 0, and the records that waited for it follow. An index written during the reset is 0
again (log entry 24). -/
def State.finishReset (s : State) (t : Nat) : State :=
  let h := s.hearth t
  let s := ((s.zeroQueues t).setFld .HEARTH_STAT_RESETTING t 0).setFld .HEARTH_CTL_RESET t 0
  let s := s.setHearth t { h with ashHold := [], discStores := 0, discWork := 0 }
  let s := s.postAsh t { cause := 0x3E, origin := 4, arg := h.discStores, len := h.discWork, issue := s.now, fail := s.now }
  forAll h.ashHold (fun r s => s.postAsh t r) s

def execResetDone (t : Fin 16) (s : State) : Answer :=
  live s fun s => s.on (s.flag .HEARTH_STAT_RESETTING t && !s.onBus t) fun s => s.finishReset t

/-- R486, R462: function 0 is the PF, whose reset touches no hearth; function v + 1 is the VF of hearth v. -/
def execFunctionLevelReset (fn : Fin 17) (s : State) : Answer :=
  live s fun s => if fn.val = 0 then s else s.startReset (fn.val - 1)

end Sys2Proof.Machine
end

