-- ==== Sys2Proof/Machine/LinkBase.lean ====
section
/-! DEFINITION. The service state of a flue link (Table 13.7): training, coming into service, leaving it, and the frames that
are sent again when it fails (R65, R431, R432, R440, R451, R496, R551). -/

namespace Sys2Proof.Machine

/-! ### LINK_STAT.STATE and HOLD_CAUSE -/

def lkDown : Nat := 0
def lkTraining : Nat := 1
def lkIdent : Nat := 2
def lkHeld : Nat := 3
def lkUp : Nat := 4
def lkRetrain : Nat := 5

def heldMismatch : Nat := 1
def heldPosClash : Nat := 2
def heldForeign : Nat := 3
def heldLatOver : Nat := 4

def State.lk (s : State) (n : Nat) : Nat := s.fld .LINK_STAT_STATE n
def State.setLk (s : State) (n v : Nat) : State := s.setFld .LINK_STAT_STATE n v
def State.hold (s : State) (n cause : Nat) : State := (s.setLk n lkHeld).setFld .LINK_STAT_HOLD_CAUSE n cause

/-- Whether software keeps the link out of training: ENABLE 0, or FORCE_DOWN 1 (R65, Table 13.7; log entry 25). -/
def State.barred (s : State) (n : Nat) : Bool := !s.flag .LINK_CTRL n || s.flag .LINK_FORCE_FORCE_DOWN n

/-- Settled in the sense of R65. -/
def State.settled (s : State) (n : Nat) : Bool := s.lk n = lkUp || s.lk n = lkHeld || s.barred n || (s.link n).timedOut

/-- Links of the tray scope and of the Row scope (R441). -/
def isSibling (n : Nat) : Bool := 12 ≤ n && n ≤ 15
def isRowLink (n : Nat) : Bool := 16 ≤ n && n ≤ 23

/-! ### Election frames (R441) -/

/-- The ELECT frame that names the best candidate this node has seen in a scope: 0 tray, 1 Row. -/
def State.electFrame (s : State) (row final : Bool) : Frame :=
  localFrame 0x0A (s.node.bestPrio + b2n row * 16 + b2n final * 32) [s.node.bestDie]

/-- R551: the candidacy goes out on a link of the scope as it comes into service. -/
def State.candidacy (s : State) (n : Nat) : State :=
  s.on ((s.node.scope = 1 && isSibling n) || (s.node.scope = 2 && isRowLink n)) fun s =>
    s.sendLink n (s.electFrame (s.node.scope = 2) false)

/-! ### Service -/

/-- The chimney's book of link events: the tick, plus 1, since which the reports show node `k` without a link (R447). -/
def State.noteLink (s : State) (k : Nat) (up : Bool) : State :=
  { s with node := { s.node with lossCount := mput 0 k (if up then 0 else s.now + 1) s.node.lossCount } }

/-- LINK_OK bit `n` becomes `up`; a change sets LINK_CHANGE and is reported to the chimney (R431, R437, Table 3.7). -/
def State.setService (s : State) (n : Nat) (up : Bool) : State :=
  if s.fbit .LINK_LIVE 0 n = up then s
  else
    let s := (if up then s.setFbit .LINK_LIVE 0 n else s.clrFbit .LINK_LIVE 0 n).setFld .ALERT_STAT_LINK_CHANGE 0 1
    if !s.flag .NODE_ID_VALID || !s.flag .FAR_INFO_NODE_VALID n then s
    else if s.isChimney then s.noteLink (s.fld .FAR_INFO_NODE n) up
    else s.report 5 (b2n up) 0 (s.fld .FAR_INFO_NODE n)

/-- The link is in service. -/
def State.serve (s : State) (n : Nat) : State :=
  let s := ((s.setLk n lkUp).setFld .LINK_STAT_HOLD_CAUSE n 0).setService n true
  let s := s.setLink n { s.link n with failed := 0, rejoin := false }
  s.candidacy n

/-! ### The identity check is passed (R65, R430, R433, R445) -/

/-- The next PROBE of a link. -/
def State.sendProbe (s : State) (n : Nat) : State :=
  let k := ((s.link n).pid + 1) % 65536
  (s.setLink n { s.link n with pid := k }).sendLink n (localFrame 0x03 k)

/-- In-service links to other memory nodes. -/
def State.memoryLinks (s : State) : List Nat := s.upLinks.filter fun n => s.fld .FAR_INFO_ROLE n = 1

/-- JOIN frames (Table 13.4 and R445): KIND, the byte above it and JCAUSE in word 0, DIE_ID in word 1, KTICK in word 2. -/
def State.joinFrame (s : State) (dst kind id jcause die ktick : Nat) : Frame :=
  mkFrame 0x0C dst s.ownNode false false (kind + id % 256 * 2 ^ 8 + jcause * 2 ^ 16) [die, ktick % 2 ^ 48] []

/-- R445: the joining tray's chimney asks the domain behind a Row link for ids, if its state and its tick source allow it. -/
def State.tryJoin (s : State) : State :=
  match (s.memoryLinks.filter isRowLink).find? fun n => s.flag .FAR_INFO_NODE_VALID n with
  | none => s
  | some n =>
    if s.flag .NODE_ID_VALID || s.node.scope != 2 || !s.flag .TRAY_POS_CHIMNEY then s
    else if !(s.chip = chipCold || s.chip = chipLocked) || !(s.fld .TICK_CFG_TICK_SRC = 2 && isRowLink (s.fld .TICK_CFG_SRC_LINK)) then
      (s.setFld .JOIN_STAT_JSTATE 0 5).setFld .JOIN_STAT_JCAUSE 0 3
    else
      let dies := s.fuses.dieId.toNat :: ((s.memoryLinks.filter isSibling).map (s.fld .FAR_DIE ·)).eraseDups
      let s := s.setFld .JOIN_STAT_JSTATE 0 1
      forAll dies (fun d s => s.sendLink n (s.joinFrame (s.fld .FAR_INFO_NODE n) 1 0 0 d 0)) s

/-- A link whose far end is right, or need not be (R456), comes into service in COLD; afterwards it must first be as fast as at kindling
(R65, R433). -/
def State.identDone (s : State) (n : Nat) : State :=
  let s := s.sendProbe n
  if s.chip = chipCold then (s.serve n).tryJoin
  else if (s.link n).kindleLat.isNone then s.hold n heldLatOver
  else s.setLink n { s.link n with probes := 0, maxTrip := 0 }

/-! ### Frames of a failed link (R432) -/

/-- REQ, RSP, REPORT and JOIN frames are sent again; the frames that concern only the failed link are not. -/
def resends (f : Frame) : Bool := 0x10 ≤ frameType f || frameType f = 0x09 || frameType f = 0x0C

/-- Put a frame before all others that wait on a link. -/
def State.sendFirst (s : State) (n : Nat) (f : Frame) : State :=
  s.setLink n { s.link n with txq := f :: (s.link n).txq }

/-- The address a frame carries, if it does. -/
def frameAddr (f : Frame) : Option Nat := if frameType f = 0x10 || frameType f = 0x11 then some (hdr f 1 0 48) else none

/-- The alternate of link `n` that a running plan declares for transmission (R451). -/
def State.altLink (s : State) (n : Nat) : Option Nat :=
  ((s.plansIn (· = plRunning)).flatMap fun p => (s.plan p).alts).find? (fun a => a.link = n && !a.rx) |>.map (·.alt)

/-- The link over which a frame of failed link `n` is sent again: the alternate of a planned frame, the current route of an
open one, another link to the same partner of a LOCAL one. -/
def State.resendLink (s : State) (n : Nat) (f : Frame) : Option Nat :=
  if framePlanned f then s.altLink n
  else if frameLocal f then
    (if s.fld .FAR_INFO_ROLE n = 2 then
      pickLink ((s.partnerLinks (s.fld .FAR_INFO_SOCKET_POS n)).filter (· != n)) (frameAddr f) else none)
  else pickLink ((maskLinks (s.fld .RT_LINKS (frameDst f))).filter (· != n)) (frameAddr f)

/-- The link leaves service: its frames that were never acknowledged, and those that wait, take other links. -/
def State.fall (s : State) (n : Nat) : State :=
  let l := s.link n
  let fs := (l.unacked.flatMap (·.frames) ++ l.txCur.map (·.frame) ++ l.txq ++ l.passing.map (·.2)).filter resends
  let s := s.setService n false
  let s := s.setLink n { l with rxNext := 0, rxHeld := [], rxHdr := [], rxData := [], txNext := 0, unacked := [], txq := [], txCur := [], again := [],
                                passing := [], markAt := none, heard := false,
                                nakRun := 0, nakOwed := none, owedReq := 0, owedRsp := 0, timedOut := false, probes := 0, maxTrip := 0, rejoin := false }
  forAll fs.reverse (fun f s => match s.resendLink n f with
    | none => s
    | some k =>
      let s := s.sendFirst k f
      s.on (framePlanned f) fun s => s.setLink k { s.link k with again := (s.link k).again ++ [f] }) s

/-- R496, R509: training starts from the effective presets. -/
def State.train (s : State) (n : Nat) (st : Nat) : State :=
  ((s.setLk n st).setFld .LINK_STAT_HOLD_CAUSE n 0).eqStart n

/-- What a change of ENABLE, FORCE_DOWN or NO_IDENT does at once (R456, Table 13.7; log entry 25). -/
def State.linkControl (s : State) (n : Nat) : State :=
  if s.barred n then
    if s.lk n = lkDown then s
    else
      let s := s.on (s.fbit .LINK_LIVE 0 n) fun s => s.setFld .LINK_EVT n 1
      ((s.fall n).setLk n lkDown).setFld .LINK_STAT_HOLD_CAUSE n 0
  else if s.lk n = lkDown && s.flag .MP_STAT_FCLK_UP then s.train n lkTraining
  else if s.lk n = lkHeld && s.fld .LINK_STAT_HOLD_CAUSE n ≤ heldForeign && s.flag .LINK_FORCE_NO_IDENT n then
    ((s.setLk n lkIdent).setFld .LINK_STAT_HOLD_CAUSE n 0).identDone n
  else s

end Sys2Proof.Machine
end

