-- ==== Sys2Proof/Machine/RegOps.lean ====
section
/-! DEFINITION. What a write of a command, request or start bit does beside its field (R54, R66, R288, R305, R308, R318,
R320, R345, R359, R391, R392, R446, R513). -/

namespace Sys2Proof.Machine

/-! ### DMA channels -/

def chIdle : Nat := 0
def chRunning : Nat := 1
def chPreempted : Nat := 2
def chPausing : Nat := 3
def chPaused : Nat := 4
def chFaulted : Nat := 5

def State.chSt (s : State) (c : Nat) : Nat := s.fld .CH_STAT_STATE c

/-- R288, R305: START written with 1. `completing`: the FJ-24 clears START in the same cycle, so that START stays 1 and a new
transfer is queued. -/
def State.startReg (s : State) (c : Nat) (completing : Bool) : State :=
  let ch := s.chan c
  match s.chanOwner c with
  | none => s.setFld .CH_STAT_START_LOST c 1
  | some t =>
    if (s.flag .CH_CTRL_START c && !completing) || 16 ≤ ch.queue.length then s.setFld .CH_STAT_START_LOST c 1
    else
      let x : Xfer := { ctx := { hearth := t, accept := s.now, start := s.now }, ptr := none, reg := true }
      (s.setChan c { ch with queue := ch.queue ++ [x] }).setFld .CH_CTRL_START c 1

/-- R320: the context goes on from the running registers: unit `pos` lies at `src` and `dst`, and `remain` units are left. Where software
has written the address on the indexed side, the next block lies there (log entry 34). -/
def DmaCtx.rebase (x : DmaCtx) (src dst remain pos clk : Nat) : DmaCtx :=
  let d := x.desc
  let sub (a b : Nat) : Nat := (a + 2 ^ 64 - b % 2 ^ 64) % 2 ^ 64
  let base : Nat × Nat :=
    match d.xmode with
    | 1 => (sub src (pos * d.sstride), sub dst (pos * d.dstride))
    | 2 => (x.sbase, sub dst (pos * d.len))
    | 3 => (sub src (pos * d.len), x.dbase)
    | 5 | 6 => (sub src (pos * (64 * d.p1)), sub dst (pos * (64 * d.p1)))
    | 7 => (sub src (pos * 64), sub dst (pos * 64 * d.cnt))
    | 8 => (sub src (pos * 64 * d.cnt), sub dst (pos * 64))
    | _ => (src, dst)
  let at_ := if d.xmode = 0 || d.xmode = 4 then 0 else pos
  let forced := if d.xmode = 2 && src != x.shown.1 then some src else if d.xmode = 3 && dst != x.shown.2 then some dst else none
  { x with sbase := base.1, dbase := base.2, rpos := at_, pos := at_, rleft := remain, left := remain, roff := 0,
           blk := if x.blk.isNone || at_ != x.pos then none else match forced with | some a => some (some a) | none => x.blk
           forced := if x.blk.isNone || at_ != x.pos then forced else none
           checked := false, next := clk + 2 }

/-- R318, R320: PAUSE takes the value `on`. A pause that is lifted before PAUSED is reached lets the transfer run on (log
entry 26). -/
def State.setPause (s : State) (c : Nat) (on : Bool) : State :=
  let st := s.chSt c
  let s := s.setFld .CH_CTRL_PAUSE c (b2n on)
  if on then (if st = chRunning || st = chPreempted then s.setFld .CH_STAT_STATE c chPausing else s)
  else if st = chPaused then
    let x := (s.chan c).opn
    let x := x.rebase (s.fld .SRC_CUR c) (s.fld .DST_CUR c) (s.fld .REMAIN c) (s.fld .POS c) s.clk
    (s.setFld .CH_STAT_STATE c chRunning).setChan c { s.chan c with opn := x }
  else if st = chPausing then s.setFld .CH_STAT_STATE c chRunning
  else s

/-- R308: ENABLE takes the value `on`; a fault in the same cycle clears it. FAULTED lasts until ENABLE is set (log entry 27). -/
def State.setEnable (s : State) (c : Nat) (on faulting : Bool) : State :=
  let on := on && !faulting
  (s.setFld .CH_CTRL_ENABLE c (b2n on)).on (on && s.chSt c = chFaulted) fun s => s.setFld .CH_STAT_STATE c chIdle

/-- CH_CTRL written whole; `hw` holds the bits that hardware clears in the same cycle. -/
def State.writeChCtrl (s : State) (c v hw : Nat) : State :=
  let s := s.on (v.testBit 0) fun s => s.startReg c (hw.testBit 0)
  let s := s.on (v.testBit 1 != s.flag .CH_CTRL_PAUSE c) fun s => s.setPause c (v.testBit 1)
  s.setEnable c (v.testBit 2) (hw.testBit 2)

/-- R321: whether the running registers refuse a software write. -/
def State.chBusy (s : State) (c : Nat) : Bool := s.chSt c = chRunning || s.chSt c = chPreempted || s.chSt c = chPausing

/-! ### Handle rings (R339, R345) -/

def State.ringN (s : State) (c : Nat) : Nat := 2 ^ s.fld .RING_CFG_LOG2N c
def State.ringMode (s : State) (c : Nat) : Nat := s.fld .RING_CFG_MODE c
def isOutRing (mode : Nat) : Bool := mode = 1 || mode = 2
def isInRing (mode : Nat) : Bool := mode = 3 || mode = 4

/-- Occupancy D: PUT − GET. -/
def State.ringD (s : State) (c : Nat) : Nat :=
  if isOutRing (s.ringMode c) then occupancy (s.fld .RING_OWN_IDX c) (s.fld .RING_PEER_IDX c)
  else if isInRing (s.ringMode c) then occupancy (s.fld .RING_PEER_IDX c) (s.fld .RING_OWN_IDX c)
  else 0

/-- What D was at the start of the cycle. -/
def State.ringD0 (s : State) (c : Nat) : Nat :=
  let i := if s.ringClk = s.clk then mget (s.fld .RING_OWN_IDX c, s.fld .RING_PEER_IDX c) c s.ringOld
    else (s.fld .RING_OWN_IDX c, s.fld .RING_PEER_IDX c)
  if isOutRing (s.ringMode c) then occupancy i.1 i.2 else if isInRing (s.ringMode c) then occupancy i.2 i.1 else 0

/-- R339: fullness and emptiness go by the values at the start of the cycle; an index that this chip has advanced in the same cycle counts
too. -/
def State.ringFull (s : State) (c : Nat) : Bool := s.ringN c ≤ s.ringD c || s.ringN c ≤ s.ringD0 c
def State.ringHeld (s : State) (c : Nat) : Nat := min (s.ringD c) (s.ringD0 c)

/-- The indices of channel `c` are about to change. -/
def State.keepRing (s : State) (c : Nat) : State :=
  let old := if s.ringClk = s.clk then s.ringOld else []
  if old.any (·.1 = c) then s
  else { s with ringClk := s.clk, ringOld := old ++ [(c, s.fld .RING_OWN_IDX c, s.fld .RING_PEER_IDX c)] }

/-- R345: a write of the peer's index. With MODE OFF there is no ring and no range (log entry 28). -/
def State.writePeerIdx (s : State) (c v : Nat) : State :=
  let v := v % 2 ^ 32
  let step := occupancy v (s.fld .RING_PEER_IDX c)
  let ok := if isOutRing (s.ringMode c) then decide (step ≤ s.ringD c)
    else if isInRing (s.ringMode c) then decide (step ≤ s.ringN c - s.ringD c) else true
  if ok then (s.keepRing c).setFld .RING_PEER_IDX c v else s.setFld .RING_STAT_IDX_ERR c 1

/-! ### Preheat and KV -/

/-- R359: bit `n` of HEAT_FORCE0, or HEAT_FORCE1 when `hi`. -/
def State.forceHeat (s : State) (hi : Bool) (v : Nat) : State :=
  forAll ((upTo 32).filter v.testBit)
    (fun n s =>
      let k := n + 32 * b2n hi
      if s.heatSt k = 0 || s.heatSt k = 3 then s.setHeat k 2 else s) s

/-- R391: GO on tag `g` of hearth `t`; the operation ends at once, so GO reads 0 after it. -/
def State.tagReset (s : State) (v : Nat) : State :=
  let g := bitsOf v 0 8
  let t := bitsOf v 8 4
  let s := ((s.setFld .KV_TAG_RESET_TAG 0 g).setFld .KV_TAG_RESET_HEARTH 0 t)
  s.on (v.testBit 16 && ((s.tag t g).st = 2 || (s.tag t g).st = 3)) fun s => s.setTag t g {}

/-- R392, Table 11.6: KV_POOL_TOP takes a value only while the hearth has no open sequence. -/
def State.writePoolTop (s : State) (t v hw : Nat) : State :=
  if s.seqOpen t != 0 then s.setFld .KV_HSTAT_TOP_BUSY t 1
  else if hw != 0 then s else s.setFld .KV_POOL_TOP t v

/-! ### Tick, node and power -/

/-- R66: accepted in LOCKED only; the chimney learns that this node is ready. -/
def State.kindle (s : State) (v : Nat) : State :=
  if !v.testBit 0 || s.chip != chipLocked then s
  else
    let s := s.setFld .TICK_STAT_KINDLE_FAIL 0 0
    let s := { s with tk := { s.tk with kindleWait := true } }
    if s.isChimney then s.ask fun a => { a with ready := withOne a.ready s.ownNode } else s.report 3 0 0 0

/-- R54: a software bank request goes to the chimney. `again`: hardware clears BANK_REQ in the same cycle, so that a write of 1
starts a new request (SET). -/
def State.bankReq (s : State) (v : Nat) (again : Bool) : State :=
  let s := s.on (v.testBit 1) fun s => s.setFld .BANK_CTRL_REQ_DENIED 0 0
  if !v.testBit 0 || (s.flag .BANK_CTRL_BANK_REQ && !again) then s
  else
    let s := s.setFld .BANK_CTRL_BANK_REQ 0 1
    let s := { s with tk := { s.tk with ownAsk := some (!s.within 1024) } }
    if s.isChimney then s.ask fun a => { a with bankSoft := true } else s.report 1 0 0 0

/-- R446: the leave is sent once every posted write is resolved. -/
def State.sendLeave (s : State) : State :=
  if !s.node.leaving || s.node.leaveSent || !s.posted.isEmpty || !s.flag .NODE_ID_VALID then s
  else
    let s := { s with node := { s.node with leaveSent := true } }
    if s.isChimney then { s with node := { s.node with toDrop := s.node.toDrop ++ [s.ownNode] } }
    else
      s.sendNode (s.fld .ELECT_STAT_ROW_CHIMNEY_NODE) none
        (mkFrame 0x0C (s.fld .ELECT_STAT_ROW_CHIMNEY_NODE) s.ownNode false false 4 [s.fuses.dieId.toNat, 0] [])

/-- R446: LEAVE written with 1. -/
def State.leave (s : State) (v : Nat) : State :=
  if !v.testBit 0 then s
  else
    let s := (s.setFld .NODE_CTL 0 1).on (s.flag .NODE_ID_VALID) fun s => s.setFld .JOIN_STAT_JSTATE 0 4
    { s with node := { s.node with leaving := true } }.sendLeave

/-- The duty that overrides the fan loop: 100 % while FAN_MAX# is low (R503), else FAN_FORCE's (R518). -/
def State.fanOverride (s : State) : Option Nat :=
  if s.therm.fanMaxLow then some 100 else if s.flag .FAN_FORCE_EN then some (s.fld .FAN_FORCE_DUTY) else none

/-- FAN_FORCE has been written: it acts on the tray chimney (R518). -/
def State.fanForce (s : State) : State :=
  match (if s.flag .TRAY_POS_CHIMNEY then s.fanOverride else none) with
  | none => s
  | some d => s.setFld .FAN_DUTY 0 d

/-- R513. In WARM and KINDLING the write is held until the boundary at which it takes effect. -/
def State.damp_ (s : State) (v : Nat) : State :=
  if !v.testBit 0 then s
  else if s.chip = chipCold || s.chip = chipLocked then s.setChip chipOffReady
  else if s.chip = chipWarm || s.chip = chipKindling then { s with damp := { s.damp with held := true } }
  else s

end Sys2Proof.Machine
end

