-- ==== Sys2Proof/Machine/Regs.lean ====
section
/-! DEFINITION. The register file: which fields stand at an offset (R72), what a read returns (R10, R30, R74 to R76, R95,
R546), what a write does in one register-clock cycle (R10, R13, R76, R92, R96, R97, R102, R103, R467, R498, R513, R547). -/

namespace Sys2Proof.Machine

/-! ### Rows at an offset -/

/-- The rows of the window that offset `reg` of the 4 KiB map lies in (Table 3.1). -/
def rowsOf (reg : Nat) : List RegRow :=
  if reg < 0x400 then globalRows else if reg < 0x800 then hearthRows else if reg < 0xC00 then chanRows
  else if reg < 0xE00 then linkRows else mgmtRows

/-- Which register of a row stands at `reg`. -/
def RegRow.index (r : RegRow) (reg : Nat) : Option Nat :=
  if reg < r.off then none
  else if r.step = 0 then (if reg = r.off then some 0 else none)
  else if (reg - r.off) % r.step = 0 && (reg - r.off) / r.step < r.cnt then some ((reg - r.off) / r.step) else none

/-- The instance of a field: window registers by window instance, the fen error counters by FEN_ERR_SEL, RT_LINKS by RT_SEL. -/
def State.instOf (s : State) (f : Fld) (r : RegRow) (inst idx : Nat) : Nat :=
  match f with
  | .FEN_CE_COUNT | .FEN_UE_COUNT => s.fld .FEN_ERR_SEL
  | .RT_LINKS => s.fld .RT_SEL
  | _ => inst * r.cnt + idx

/-! ### Reads -/

/-- Where an access comes from, as PATH_ID shows it (Table 3.7). -/
def pathCode : Path → Nat
  | .mp => 0 | .pf => 1 | .vf _ => 2 | .mirror => 3

def pathVf : Path → Nat
  | .vf v => v.val + 1
  | _ => 0

/-- Units that instructions in flight occupy. -/
def State.busyUnits (s : State) (cls n : Nat) : Nat :=
  ((upTo n).filter fun u => s.flights.any fun x => wordClass x.word = cls && x.takes cls (· = u)).foldl orBit 0

/-- Embers resident, open or planned. -/
def State.resident (s : State) (planned : Bool) (own : Ember → Bool) : Nat :=
  (s.embers.filter fun e => e.2.live && e.2.planned = planned && own e.2).length

/-- The ember's own store holds its next instruction (R277). -/
def State.codeHeld (s : State) (m : Ember) : Bool := !m.lean && m.ownStore (s.global m.pc) 16

/-- PEEK_STATE.STATE (Table 8.6): READY as R265 defines it, and WAITING in every other state of an ember that runs. -/
def State.emberState (s : State) (m : Ember) : Nat :=
  if !m.live then 0
  else if m.draining then 4
  else if m.wait != .none || s.codeHeld m then 2
  else if 8 ≤ m.buf.length && (m.win.head?.map fun w => wordOpc w) = some 0x03 then 3
  else if s.clk < m.next || (m.win.isEmpty && s.clk < m.stale) then 2
  else 1

def eqByte (x : Int) : Nat := (x % 256).toNat

/-- The value of a computed field. -/
def State.view (s : State) (v : View) (p : Path) (inst idx : Nat) : Nat :=
  let pk := s.ember (s.fld .PEEK_SEL)
  let sq := s.seq (s.fld .SEQ_PEEK_SEL)
  let tg := s.tag (s.fld .TAG_PEEK_SEL_HEARTH) (s.fld .TAG_PEEK_SEL_TAG)
  let edge (k : Nat) := b2n (s.fld (eqNow k) inst = s.eqLo inst k || s.fld (eqNow k) inst = s.eqHi inst k) * 2 ^ k
  match v with
  | .CHIP_ID_PART => 0x0F24 | .CHIP_ID_STEP_MAJOR => 0xB | .CHIP_ID_STEP_MINOR => 1
  | .MAP_VER_MAJOR => 1 | .MAP_VER_MINOR => 0
  | .DIE_ID_LO => s.fuses.dieId.toNat % 2 ^ 32 | .DIE_ID_HI => s.fuses.dieId.toNat / 2 ^ 32
  | .CAPS_SLICES => 0x10 | .CAPS_MIXERS => 0x20 | .CAPS_LINKS => 0x18 | .CAPS_TENANTS => 0x10
  | .ALERT_STAT_PORT_ERR => bitsOf s.alertStat 0 1 | .ALERT_STAT_FAULTQ => bitsOf s.alertStat 1 1
  | .ALERT_STAT_SOURCE_LOST => bitsOf s.alertStat 3 1 | .ALERT_STAT_KINDLE_FAIL => bitsOf s.alertStat 4 1
  | .PATH_ID_PATH => pathCode p | .PATH_ID_VF => pathVf p
  | .ENG_STAT_TP_BUSY => s.busyUnits 3 4 | .ENG_STAT_WIN_BUSY => s.busyUnits 4 2 | .ENG_STAT_BP_BUSY => s.busyUnits 5 2
  | .EMB_STAT_OPEN_RES => s.resident false fun _ => true
  | .EMB_STAT_PLAN_RES => s.resident true fun _ => true
  | .SEAL_STAT => ((upTo 16).filter fun q => (s.plan q).sealed).foldl orBit 0
  | .PEEK_STATE_STATE => s.emberState pk | .PEEK_STATE_HEARTH => pk.hearth | .PEEK_STATE_LEAN => b2n pk.lean
  | .PEEK_STATE_PLANNED => b2n pk.planned | .PEEK_STATE_INCARN => pk.incarn | .PEEK_STATE_BUF => pk.buf.length
  | .PEEK_PC => (pk.pc - 0x1000000000) / 16
  | .CH_STAT_QDEPTH => (s.chan inst).queue.length
  | .CH_OWNER_HEARTH => (s.chanOwner inst).getD 0 | .CH_OWNER_ASSIGNED => b2n (s.chanOwner inst).isSome
  | .CRC_RESULT => s.fld .CRC_ACC inst ^^^ 0xFFFFFFFF
  | .HEAT_STAT => ((upTo 16).map fun i => s.heatSt (16 * idx + i) * 4 ^ i).foldl (· + ·) 0
  | .RING_STAT_OCC => s.ringD inst
  | .STRM_LEVEL_OPEN => (s.chan inst).opn.fifo.length | .STRM_LEVEL_PLANNED => (s.chan inst).pln.fifo.length
  | .KV_STAT_SEQ_OPEN => (s.seqs.filter fun e => e.2.opened).length
  | .SEQ_PEEK_STATE => if sq.opened then 1 + b2n sq.broken else 0
  | .SEQ_PEEK_HEARTH => sq.hearth | .SEQ_PEEK_PSPEC => sq.pspec | .SEQ_PEEK_ROW_LOG2 => sq.rowLog2
  | .SEQ_PEEK_LEN => sq.len | .SEQ_PEEK_PLEN => sq.plen
  | .TAG_PEEK_STATE => tg.st | .TAG_PEEK_IN_FLIGHT => tg.inFlight
  | .KV_SEQ_OPEN => s.seqOpen inst
  | .XB_OBS_RD_OUT => (s.xbOut (s.fld .XB_OBS_SEL)).1 | .XB_OBS_WR_OUT => (s.xbOut (s.fld .XB_OBS_SEL)).2
  | .POSTED => s.posted.length
  | .HEARTH_STAT_CQ_HOLD => b2n !(s.hearth inst).hold.isEmpty
  | .HEARTH_STAT_EMB_RES => s.resident false fun m => m.hearth = inst
  | .CLK_STAT_MAX_GRADE => s.fuses.maxGrade.toNat
  | .TS_FX => (s.fuses.ts.getD idx 0).toNat | .TS_EFF => eqByte (s.tsEff idx)
  | .EQ_FX_PRE => s.eqFx inst 0 | .EQ_FX_MAIN => s.eqFx inst 1 | .EQ_FX_POST => s.eqFx inst 2 | .EQ_FX_CTLE => s.eqFx inst 3
  | .EQ_EFF_PRE => s.eqEff inst 0 | .EQ_EFF_MAIN => s.eqEff inst 1 | .EQ_EFF_POST => s.eqEff inst 2
  | .EQ_EFF_CTLE => s.eqEff inst 3
  | .EQ_STAT => edge 0 + edge 1 + edge 2 + edge 3
  | .TRAY_STAT_ACTIVE => s.fld .TRAY_POS_CHIMNEY

/-- R510: the RO fields that read 0 on a chip that is not the tray chimney. -/
def trayOnly : Fld → Bool
  | .TRAY_P | .TRAY_T_INLET_T | .TRAY_T_EXHAUST_T | .FAN_TACH | .RAIL_V => true
  | _ => false

/-- One row's bits of the register word, in place. `shadow`: SH and UC fields show their shadow copy. -/
def State.readRow (s : State) (p : Path) (shadow : Bool) (reg inst : Nat) (r : RegRow) : Nat :=
  match r.index reg with
  | none => 0
  | some idx =>
    match r.cell with
    | .cmd => 0
    | .view v _ => s.view v p inst idx % 2 ^ r.len * 2 ^ r.lo
    | .fld f frm acc _ =>
      if trayOnly f && !s.flag .TRAY_POS_CHIMNEY then 0
      else
        let i := s.instOf f r inst idx
        let x := if shadow && (acc = .SH || acc = .UC) then s.shd f i else s.fld f i
        bitsOf x frm r.len * 2 ^ r.lo

/-- The word at offset `reg`, instance `inst`: 0 where no block defines it (R7, Table 3.6). -/
def State.readReg (s : State) (p : Path) (shadow : Bool) (reg inst : Nat) : Nat :=
  ((rowsOf reg).map (s.readRow p shadow reg inst)).foldl (· + ·) 0

/-- R30: a read of TICK_COUNT_LO captures bits 47 to 32 of the count. -/
def State.capture (s : State) : State := s.setFld .TICK_COUNT_HI 0 (s.now / 2 ^ 32)

/-! ### Paged paths (R74 to R76) -/

/-- The instance that a page shows in the window of `reg`: none where it names no existing one (R75), or one that a virtual
function does not see (R76). -/
def State.pageInst (s : State) (p : Path) (page reg : Nat) : Option Nat :=
  match p with
  | .vf v =>
    if reg < 0x400 then (if reg ≤ 0x03F || (0x080 ≤ reg && reg ≤ 0x0AB) then some 0 else none)
    else if reg < 0x800 then some v.val
    else if reg < 0xC00 then (if s.ownsChan v.val page then some page else none)
    else none
  | _ =>
    if reg < 0x400 then some 0
    else if reg < 0x800 then (if page < 16 then some page else none)
    else if reg < 0xC00 then some page
    else if reg < 0xE00 then (if page < 24 then some page else none)
    else some 0

/-- The word that a paged path reads at a word-aligned offset; PORT_SEL reads 0 there (R92). -/
def State.readPage (s : State) (p : Path) (off : Nat) : Nat :=
  let reg := off % 0x1000
  match s.pageInst p (bitsOf off 12 6) reg with
  | none => 0
  | some i => if reg = 0x014 then 0 else s.readReg p (bitOf off 18) reg i

/-- R546: a read of `n` bytes at any offset below 512 KiB; words resolve in ascending order, each in a cycle of its own with the values
held at its start (R95), and one that covers a byte of TICK_COUNT_LO captures. Bytes past the end of the layout read 0. -/
def State.readSpan (s : State) (p : Path) (off n : Nat) : State × List Byte :=
  let words := upTo ((off + n + 3) / 4 - off / 4)
  let step (a : State × List Byte) (k : Nat) : State × List Byte :=
    let w := (off / 4 + k) * 4
    let s := a.1.advance 1
    if 0x80000 ≤ w then (s, a.2 ++ leBytes 4 0)
    else
      let v := s.readPage p w
      let hit := (s.pageInst p (bitsOf w 12 6) (w % 0x1000)).isSome && w % 0x1000 = 0x088
      (if hit then s.capture else s, a.2 ++ leBytes 4 v)
  let r := words.foldl step (s, [])
  (r.1, (r.2.drop (off % 4)).take n)

/-! ### Writes -/

/-- Bits `[lo + w - 1 : lo]` of `x` replaced. -/
def setBits (x lo w v : Nat) : Nat := x - bitsOf x lo w * 2 ^ lo + v % 2 ^ w * 2 ^ lo

/-- One row takes a software write of `v` (absent where the write is refused) and the hardware update `hw` (R13, R96). -/
def State.writeRow (s : State) (reg inst : Nat) (v : Option Nat) (hw : Nat) (r : RegRow) : State :=
  match r.index reg, r.cell with
  | some idx, .fld f frm acc coll =>
    let i := s.instOf f r inst idx
    let h := bitsOf hw r.lo r.len
    let old := bitsOf (s.fld f i) frm r.len
    let put (x : Nat) : State := s.setFld f i (setBits (s.fld f i) frm r.len x)
    match acc, coll, v.map fun v => bitsOf v r.lo r.len with
    | .SH, _, some w | .UC, _, some w => s.setShd f i (setBits (s.shd f i) frm r.len w)
    | .W1C, _, w => put ((old - (old &&& w.getD 0)) ||| h)
    | .W1S, .SET, w => if w.getD 0 != 0 then put 1 else if h != 0 then put 0 else s
    | .W1S, _, some w => put (old ||| w)
    | .RW, .HWp, w => (match w with | none => s | some w => put w).bump f i h
    | .RW, .HW, w => if h != 0 then (if r.len = 1 then put 0 else s) else (match w with | none => s | some w => put w)
    | .RW, _, some w => put w
    | _, _, _ => s
  | _, _ => s

/-- Every row at the offset. -/
def State.writeRows (s : State) (reg inst : Nat) (v : Option Nat) (hw : Nat) : State :=
  forAll (rowsOf reg) (fun r s => s.writeRow reg inst v hw r) s

/-- The group whose COMMIT register stands at an offset. -/
def commitAt (reg inst : Nat) : Option Group :=
  match reg with
  | 0x084 => some .tick | 0x11C => some .xbar | 0x154 => some .damper | 0x228 => some .ember | 0x304 => some .clk
  | 0x314 => some .therm | 0x3E0 => some .cal | 0x410 => some (.hearth (Fin.ofNat 16 inst))
  | 0x420 => some (.queue (Fin.ofNat 16 inst)) | 0x60C => some (.kvpool (Fin.ofNat 16 inst))
  | 0x8C0 => some (.chan (Fin.ofNat 64 inst)) | 0xA18 => some (.stream (Fin.ofNat 64 inst))
  | 0xD94 => some (.eq (Fin.ofNat 24 inst)) | 0xE0C => some .node | 0xF14 => some .tray
  | _ => none

/-- COMMIT of a group; a KVPOOL commit is refused while the hearth has open sequences (Table 11.6). -/
def State.commitReg (s : State) (g : Group) (v : Nat) : State :=
  match g with
  | .kvpool t => if v.testBit 0 && s.seqOpen t != 0 then s.setFld .KV_HSTAT_CFG_ERR t 1 else s.commit g v
  | _ => s.commit g v

/-- HEARTH_CTL: RESET written with 1 starts a reset; in the cycle in which the FJ-24 clears it a second one starts (R490). -/
def State.writeHearthCtl (s : State) (t v hw : Nat) : State :=
  let s := ((s.setFld .HEARTH_CTL_FENCE t (bitsOf v 0 1)).setFld .HEARTH_CTL_CQ_INT t (bitsOf v 2 1)).setFld
    .HEARTH_CTL_AQ_INT t (bitsOf v 3 1)
  let s := s.on (hw.testBit 1 && s.flag .HEARTH_STAT_RESETTING t) fun s => s.finishReset t
  s.on (v.testBit 1) fun s => s.startReset t

/-- A software write that the register file accepts, with the hardware update of the same cycle. -/
def State.applyReg (s : State) (reg inst v hw : Nat) : State :=
  let plain := s.writeRows reg inst (some v) hw
  match commitAt reg inst with
  | some g => s.commitReg g v
  | none =>
  match reg with
  | 0x05C => plain.ueLimit (s.fld .FEN_ERR_SEL)
  | 0x070 => plain.killMask 16 v State.fence
  | 0x094 => s.kindle v
  | 0x098 => (s.bankReq v (hw.testBit 0)).on (hw.testBit 1) fun s => s.setFld .BANK_CTRL_REQ_DENIED 0 1
  | 0x108 | 0x10C => s.writeRows reg inst (some (v &&& 0x77777777)) hw
  | 0x1A0 => plain.killMask 16 v State.killSlice
  | 0x1E0 => plain.killMask 32 v State.killMixer
  | 0x260 => s.forceHeat false v
  | 0x264 => s.forceHeat true v
  | 0x2A0 => s.tagReset v
  | 0x330 => s.damp_ v
  | 0x33C => if v % 256 = 0xA5 then s.chipReset else s
  | 0x424 => s.doorbell inst v
  | 0x43C => s.writeHearthCtl inst v hw
  | 0x610 => s.writePoolTop inst v hw
  | 0x800 => s.writeChCtrl inst v hw
  | 0x810 | 0x814 | 0x818 | 0x81C | 0x820 | 0x824 =>
    if s.chBusy inst then s.setFld .CH_STAT_WRITE_WHILE_BUSY inst 1 else plain
  | 0xA24 => s.writePeerIdx inst v
  | 0xC04 | 0xD40 => plain.linkControl inst
  | 0xE08 => s.leave v
  | 0xFC0 => plain.fanForce
  | _ => plain

/-! ### What a path may write -/

/-- Offsets of the expert sub-ranges (Table 3.6). -/
def isExpertReg (reg : Nat) : Bool :=
  [(0x070, 0x07F), (0x120, 0x13F), (0x160, 0x17F), (0x1A0, 0x1BF), (0x1E0, 0x1FF), (0x220, 0x23F), (0x260, 0x27F),
    (0x2A0, 0x2BF), (0x3C0, 0x3FF), (0x5C0, 0x5FF), (0x9C0, 0x9FF), (0xAC0, 0xAFF), (0xD40, 0xD7F), (0xDC0, 0xDFF),
    (0xEC0, 0xEFF), (0xFC0, 0xFFF)].any fun e => e.1 ≤ reg && reg ≤ e.2

/-- R102. -/
def State.expertOk (s : State) (reg inst : Nat) : Bool :=
  !isExpertReg reg ||
  (if reg < 0x400 || 0xC00 ≤ reg then s.flag .EXPERT_CTL_GLOBAL_EXPERT
   else if reg < 0x800 then s.expert inst
   else match s.chanOwner inst with | none => false | some t => s.expert t)

/-- Registers that only the management port and PF BAR0 write (R103, R467, R498, R513, Table 11.6). -/
def isGuarded (reg : Nat) : Bool :=
  reg = 0x02C || reg = 0x330 || reg = 0x33C || (0x400 ≤ reg && reg ≤ 0x410) || (0x480 ≤ reg && reg < 0x580) || reg = 0x620

/-- How the register file took a write. -/
inductive Took where
  /-- accepted, or ignored without a count -/
  | ok
  /-- discarded for its form or path: counted (R547) -/
  | discarded
  /-- refused under R102 -/
  | expertOff
  deriving DecidableEq, Repr

/-- What the hardware update of the same cycle does beside its field: an uncorrectable beat is tested (R23). -/
def State.hwEvent (s : State) (reg hw : Nat) : State := s.on (reg = 0x05C && hw != 0) fun s => s.ueLimit (s.fld .FEN_ERR_SEL)

/-! ### Writes of one register-clock cycle (R93, R94) -/

/-- The place of a path in the order of R93. -/
def pathRank : Path → Nat
  | .mp => 0 | .pf => 1 | .vf v => 2 + v.val | .mirror => 18

/-- A write through `p` joins the writes of this cycle where it comes after them in the order of R93; otherwise, and where its own path
has written in this cycle, it is a write of the next cycle. -/
def State.writeCycle (s : State) (p : Path) : State :=
  let s := s.on (match s.lastWrite with | none => false | some e => e.1 = s.clk && pathRank p ≤ e.2) fun s => s.advance 1
  { s with lastWrite := some (s.clk, pathRank p),
           lastHw := if s.lastWrite.map (·.1) = some s.clk then s.lastHw else none }

/-- The start and request bits of a register, where a software set beats the clear of the same cycle (SET). -/
def setBitsOf (reg : Nat) : Nat := if reg = 0x098 || reg = 0x800 then 1 else if reg = 0x43C then 2 else 0

/-- The hardware update that this write meets: that of its own command, or one that has met an earlier write of the same cycle at the
same register, which counts as coincident with the last one (R94). A clear that an earlier write's set has beaten is over. -/
def State.metHw (s : State) (reg inst hw : Nat) : Nat :=
  if hw != 0 then hw else match s.lastHw with
    | some (r, i, h) => if r = reg && i = inst then h - (h &&& setBitsOf reg) else 0
    | none => 0

/-- A 32-bit write of one register through a path; a refused write still meets the hardware update. -/
def State.writeReg (s : State) (p : Path) (reg inst v hw : Nat) : State × Took :=
  let lost := (s.writeRows reg inst none hw).hwEvent reg hw
  if p != .mp && reg = 0x014 then (lost, .discarded)
  else if p != .mp && p != .pf && isGuarded reg then (lost, .discarded)
  else if !s.expertOk reg inst then (lost, .expertOff)
  else
    let h := s.metHw reg inst hw
    let s := { s with lastHw := if hw != 0 then some (reg, inst, hw) else s.lastHw }
    ((s.applyReg reg inst v h).hwEvent reg h, .ok)

/-- A word written through a paged path (R74 to R76). A write to an absent instance is discarded and not counted, whatever its register
and its path (R75, R547; log entry 98). -/
def State.writePage (s : State) (p : Path) (off v hw : Nat) : State × Took :=
  let reg := off % 0x1000
  let refusedVf : Bool := match p with | .vf _ => decide (reg < 0x400) | _ => false
  let s := s.writeCycle p
  match s.pageInst p (bitsOf off 12 6) reg with
  | none => (s, match p with | .vf _ => .discarded | _ => .ok)
  | some i => if refusedVf then (s, .discarded) else s.writeReg p reg i v hw

/-- R547: one count for a write that was discarded or refused. -/
def State.countTook (s : State) (t : Took) : State := s.on (t != .ok) fun s => s.bump .MP_ERR_COUNT

/-- A BAR0 or mirror write of `size` bytes (R77): one word, or two words in consecutive cycles; any other form is discarded. -/
def State.writeSpan (s : State) (p : Path) (off size be data hw : Nat) : State :=
  if size = 4 && off % 4 = 0 && be = 0xF then
    let r := s.writePage p off (data % 2 ^ 32) hw
    r.1.countTook r.2
  else if size = 8 && off % 8 = 0 && be = 0xFF then
    let r := s.writePage p off (data % 2 ^ 32) hw
    let q := (r.1.advanceTo (s.clk + 1)).writePage p (off + 4) (data / 2 ^ 32 % 2 ^ 32) 0
    q.1.countTook (if r.2 = .ok then q.2 else r.2)
  else s.countTook .discarded

/-- A PCIe request shows that the host has set the endpoint up again after PERST# (log entry 31). -/
def State.hostUp (s : State) (p : Path) : State :=
  match p with
  | .pf | .vf _ => { s with pcieUp := true }
  | _ => s

end Sys2Proof.Machine
end

