-- ==== Sys2Proof/Machine/Store.lean ====
section
/-! DEFINITION. Reads and writes of this chip's own address space: the accesses of
agents, and the register mirror as a target (R74, R77, R546). -/

namespace Sys2Proof.Machine

/-- R365: software that writes the page table of an open sequence leaves that sequence's contents undefined. -/
def State.tamper (s : State) (a n : Nat) : State :=
  let qs := (s.seqs.filter fun e => e.2.opened && overlaps a n e.2.ptAddr (e.2.ptAddr + 8 * e.2.maxPages)).map (·.1)
  { s with tampered := s.tampered ++ qs.filter fun q => !s.tampered.contains q }

/-- An access through a tile window changes `n` row bytes: what they were at the start of the cycle is kept until the cycle ends (R175). -/
def State.keepRows (s : State) (a n : Nat) : State :=
  if regionOf a != some .tile then s
  else
    let old := if s.rowClk = s.clk then s.rowOld else []
    { s with rowClk := s.clk
             rowOld := old ++ ((upTo n).map (fun k => (a + k, s.byte (a + k)))).filter fun e => !old.any (·.1 = e.1) }

/-- A write that has passed its checks, at a local address outside partner windows: the register mirror takes it as a register
write (R77), every other region as bytes. -/
def State.localWrite (s : State) (a : Nat) (bs : List Byte) : State :=
  if regionOf a = some .mirror then s.writeSpan .mirror (a - 0x3000000000) bs.length (2 ^ bs.length - 1) (leNat bs) 0
  else ((s.keepRows a bs.length).store a bs).tamper a bs.length

/-- A read that has passed its checks, at a local address outside partner windows. -/
def State.localRead (s : State) (a n : Nat) : State × List Byte :=
  if regionOf a = some .mirror then s.readSpan .mirror (a - 0x3000000000) n else (s, s.bytes a n)

end Sys2Proof.Machine
end

