-- ==== Sys2Proof/Machine/Formats.lean ====
section
/-! DEFINITION. Refusals, element formats (R115, R116, Table 4.2), the fields of the instruction word (Table 5.2), tile files and
tiles (R164 to R166). -/

namespace Sys2Proof.Machine

/-! ### Refusals -/

abbrev Chk (α : Type) := Except Flaw α

def dchk (code : Nat) : Flaw := { cause := 0x07, sub := code }
def ichk (code : Nat) : Flaw := { cause := 0x08, sub := code }

def Flaw.toEnd (f : Flaw) : End := .faulted f.cause f.sub f.addr f.len f.arg

/-- Pass, or fail with `f`. -/
def need (ok : Bool) (f : Flaw) : Chk Unit := if ok then .ok () else .error f

/-- Every check of a list in order. -/
def needAll {α : Type} (l : List α) (f : α → Chk Unit) : Chk Unit :=
  l.foldl (fun r a => match r with | .error e => .error e | .ok _ => f a) (.ok ())

def bnum (b : List Byte) (at_ n : Nat) : Nat := leNat ((b.drop at_).take n)

/-! ### Element formats (Table 4.2) -/

/-- Bits of an element, without its shared scale. -/
def elemBits (e : Nat) : Nat :=
  match e with
  | 0x02 | 0x03 => 2
  | 0x04 | 0x05 => 3
  | 0x06 | 0x07 | 0x18 => 4
  | 0x08 | 0x09 | 0x19 | 0x1A => 6
  | 0x0A | 0x0B | 0x10 | 0x11 | 0x1B | 0x1C | 0x1D => 8
  | 0x12 | 0x13 | 0x20 => 16
  | 0x14 | 0x21 => 32
  | _ => 0

def elemOk (e : Nat) : Bool := elemBits e != 0
def isMx (e : Nat) : Bool := 0x18 ≤ e && e ≤ 0x1D
def isRaw (e : Nat) : Bool := e = 0x20 || e = 0x21
def isInt (e : Nat) : Bool := 0x02 ≤ e && e ≤ 0x0B

/-! ### Bit streams (R116) -/

/-- `n` bits from bit `off` on. -/
def getBits (bs : List Byte) (off n : Nat) : Nat := leNat ((bs.drop (off / 8)).take (n / 8 + 2)) / 2 ^ (off % 8) % 2 ^ n

def packBits (w : Nat) : List Nat → Nat
  | [] => 0
  | v :: r => v % 2 ^ w + 2 ^ w * packBits w r

/-- The bytes of a stream of `w`-bit values. -/
def packBytes (w : Nat) (vs : List Nat) : List Byte := leBytes (ceilDiv (w * vs.length) 8) (packBits w vs)

/-- Bit `i` of a byte string. -/
def bitAt (bs : List Byte) (i : Nat) : Bool := (bs.getD (i / 8) 0).toNat.testBit (i % 8)

/-- `n` bytes whose bit `i` is `f i`. -/
def bitBytes (n : Nat) (f : Nat → Bool) : List Byte :=
  (upTo n).map fun k => BitVec.ofNat 8 (((upTo 8).map fun j => b2n (f (8 * k + j)) * 2 ^ j).foldl (· + ·) 0)

/-! ### Fields of the word (Table 5.2) -/

def wNdim (w : Word128) : Nat := wordBits w 10 3
def wReuseA (w : Word128) : Bool := wordBits w 10 1 = 1
def wReuseB (w : Word128) : Bool := wordBits w 11 1 = 1
/-- SRC_ELEM, or ELEM of the tile form. -/
def wElem (w : Word128) : Nat := wordBits w 16 8
/-- DST_ELEM, or OPX of the tile form. -/
def wOpx (w : Word128) : Nat := wordBits w 24 8
def wAux (w : Word128) : Nat := wordBits w 32 30
def wSrc (w : Word128) : Nat := wordBits w 64 30
def wDst (w : Word128) : Nat := wordBits w 96 30
def wD0 (w : Word128) : Nat := wordBits w 32 8 + 1
def wD1 (w : Word128) : Nat := wordBits w 40 8 + 1
def wUnit (w : Word128) : Nat := wordBits w 48 5
def wAux16 (w : Word128) : Nat := wordBits w 112 16
/-- FILE and ROW of the DST, SRC_A and SRC_B specs (Table 5.4). -/
def wFile (w : Word128) (k : Nat) : Nat := wordBits w (64 + 16 * k) 3
def wRow (w : Word128) (k : Nat) : Nat := wordBits w (67 + 16 * k) 9

/-! ### Tile files and tiles -/

/-- Tile-file numbers of Table 5.4 are the classes less 1. -/
def fileClass (f : Nat) : Nat := f + 1

/-- Rows of a class's file (Table 5.5). -/
def fileRows (cls : Nat) : Nat :=
  match cls with | 2 => 64 | 3 => 512 | 4 => 256 | 5 => 128 | _ => 32

/-- Bits and rows of a tile of `n` elements (R166). -/
def tileBits (elem n : Nat) : Nat := n * elemBits elem + (if isMx elem then n / 32 * 8 else 0)
def tileRows (bits : Nat) : Nat := ceilDiv bits 8192

end Sys2Proof.Machine
end

