-- ==== Sys2Proof/Machine/Numbers.lean ====
section
/-! DEFINITION. Numbers of the element formats (Table 4.2), binary32 arithmetic (R225), narrowing (R226, Table 7.3) and the MX block
rules (R227, R228). -/

namespace Sys2Proof.Machine

/-- An exact value: `fin neg m e` is ± m · 2^e. -/
inductive Num where
  | nan
  | inf (neg : Bool)
  | fin (neg : Bool) (m : Nat) (e : Int)
  deriving DecidableEq, Repr

/-- A floating format: exponent and fraction bits, and its special codes: 0 none, 1 only the all-ones NaN, 2 as in IEEE 754. -/
structure Fmt where
  eb : Nat
  mb : Nat
  kind : Nat
  deriving DecidableEq, Repr

def fp32 : Fmt := ⟨8, 23, 2⟩

def fmtOf (e : Nat) : Option Fmt :=
  match e with
  | 0x10 | 0x1B => some ⟨4, 3, 1⟩
  | 0x11 | 0x1C => some ⟨5, 2, 2⟩
  | 0x12 => some ⟨5, 10, 2⟩
  | 0x13 => some ⟨8, 7, 2⟩
  | 0x14 => some fp32
  | 0x18 => some ⟨2, 1, 0⟩
  | 0x19 => some ⟨2, 3, 0⟩
  | 0x1A => some ⟨3, 2, 0⟩
  | _ => none

def Fmt.bias (f : Fmt) : Nat := 2 ^ (f.eb - 1) - 1
/-- Exponent of the smallest normal number. -/
def Fmt.emin (f : Fmt) : Int := 1 - f.bias

/-- The largest finite code without its sign. -/
def Fmt.maxCode (f : Fmt) : Nat :=
  match f.kind with
  | 0 => 2 ^ (f.eb + f.mb) - 1
  | 1 => 2 ^ (f.eb + f.mb) - 2
  | _ => (2 ^ f.eb - 1) * 2 ^ f.mb - 1

def Fmt.infCode (f : Fmt) : Nat := (2 ^ f.eb - 1) * 2 ^ f.mb
/-- The canonical NaN of Table 7.3. -/
def Fmt.nanCode (f : Fmt) : Nat := if f.kind = 1 then 2 ^ (f.eb + f.mb) - 1 else f.infCode + 2 ^ (f.mb - 1)

def Fmt.decode (f : Fmt) (c : Nat) : Num :=
  let neg := c.testBit (f.eb + f.mb)
  let a := c % 2 ^ (f.eb + f.mb)
  let x := a / 2 ^ f.mb
  let m := a % 2 ^ f.mb
  if f.maxCode < a then (if f.kind = 2 && m = 0 then .inf neg else .nan)
  else if x = 0 then .fin neg m (f.emin - f.mb)
  else .fin neg (m + 2 ^ f.mb) (x - f.bias - f.mb)

/-- An integer or floating code as a number; MXINT8 without its shared scale (R228). -/
def decode (e c : Nat) : Num :=
  if isInt e then
    let v := if e % 2 = 1 then signedOf c (elemBits e) else (c : Int)
    .fin (decide (v < 0)) v.natAbs 0
  else if e = 0x1D then .fin (decide (signedOf c 8 < 0)) (signedOf c 8).natAbs (-6)
  else match fmtOf e with
    | some f => f.decode c
    | none => .fin false c 0

/-! ### Rounding -/

/-- m / 2^k to the nearest whole number, ties to even. -/
def rneShift (m k : Nat) : Nat :=
  let q := m / 2 ^ k
  let r := m % 2 ^ k
  if 2 ^ k < 2 * r || (2 ^ k = 2 * r && q % 2 = 1) then q + 1 else q

/-- m · 2^e in units of 2^q. -/
def quant (m : Nat) (e q : Int) : Nat := if q ≤ e then m * 2 ^ (e - q).toNat else rneShift m (q - e).toNat

/-- The magnitude m · 2^e as a code of the format, its exponent range unbounded above (R226). -/
def Fmt.roundCode (f : Fmt) (m : Nat) (e : Int) : Nat :=
  if m = 0 then 0
  else
    let q := max ((m.log2 : Int) + e - f.mb) (f.emin - f.mb)
    let n := quant m e q
    (q - (f.emin - f.mb)).toNat * 2 ^ f.mb + n

/-- A narrowed element, and what it adds to SAT_COUNT and NAN_COUNT. -/
structure Nar where
  code : Nat
  sat : Nat := 0
  nan : Nat := 0
  deriving DecidableEq, Repr

/-- Table 7.3 for a floating destination. -/
def Fmt.narrow (f : Fmt) (x : Num) : Nar :=
  let sign (neg : Bool) := b2n neg * 2 ^ (f.eb + f.mb)
  match x with
  | .nan => { code := f.nanCode, nan := 1 }
  | .inf neg => if f.kind = 2 then { code := sign neg + f.infCode } else { code := sign neg + f.maxCode, sat := 1 }
  | .fin neg m e =>
    let c := f.roundCode m e
    if f.maxCode < c then { code := sign neg + f.maxCode, sat := 1 } else { code := sign neg + c }

/-- Table 7.3 for an integer destination of `w` bits. -/
def narrowInt (signed : Bool) (w : Nat) (x : Num) : Nar :=
  let hi : Int := if signed then 2 ^ (w - 1) - 1 else 2 ^ w - 1
  let lo : Int := if signed then -(2 ^ (w - 1)) else 0
  let code (v : Int) : Nat := (v % (2 ^ w : Int)).toNat
  match x with
  | .nan => { code := 0, nan := 1 }
  | .inf neg => { code := code (if neg then lo else hi), sat := 1 }
  | .fin neg m e =>
    let a : Int := quant m e 0
    let v := if neg then -a else a
    if hi < v then { code := code hi, sat := 1 } else if v < lo then { code := code lo, sat := 1 } else { code := code v }

/-- Narrowing to an element format (R226). -/
def narrow (e : Nat) (x : Num) : Nar :=
  if isInt e then narrowInt (e % 2 = 1) (elemBits e) x
  else match fmtOf e with
    | some f => f.narrow x
    | none => { code := 0 }

/-! ### binary32 arithmetic (R225) -/

/-- Round to binary32; an overflow is an infinity. -/
def round32 (x : Num) : Num :=
  match x with
  | .fin neg m e =>
    let c := fp32.roundCode m e
    if fp32.maxCode < c then .inf neg else fp32.decode (b2n neg * 2 ^ 31 + c)
  | y => y

def negate : Num → Num
  | .nan => .nan
  | .inf n => .inf (!n)
  | .fin n m e => .fin (!n) m e

/-- The signed whole number ± m · 2^k. -/
def signedBy (neg : Bool) (m k : Nat) : Int := if neg then -((m * 2 ^ k : Nat) : Int) else ((m * 2 ^ k : Nat) : Int)

/-- The exact sum of two finite numbers; a zero sum is −0 only of two negative zeros. -/
def sumFin (a b : Bool) (m n : Nat) (d e : Int) : Num :=
  let q := min d e
  let v := signedBy a m (d - q).toNat + signedBy b n (e - q).toNat
  .fin (if v = 0 then a && b && m = 0 && n = 0 else decide (v < 0)) v.natAbs q

/-- One addition, rounded to nearest, ties to even. -/
def fadd (x y : Num) : Num :=
  match x, y with
  | .nan, _ => .nan
  | _, .nan => .nan
  | .inf a, .inf b => if a = b then .inf a else .nan
  | .inf a, .fin _ _ _ => .inf a
  | .fin _ _ _, .inf b => .inf b
  | .fin a m d, .fin b n e => round32 (sumFin a b m n d e)

/-- One multiplication, rounded to nearest, ties to even. -/
def fmul (x y : Num) : Num :=
  match x, y with
  | .nan, _ => .nan
  | _, .nan => .nan
  | .inf a, .inf b => .inf (a != b)
  | .inf a, .fin b n _ => if n = 0 then .nan else .inf (a != b)
  | .fin a m _, .inf b => if m = 0 then .nan else .inf (a != b)
  | .fin a m d, .fin b n e => round32 (.fin (a != b) (m * n) (d + e))

/-- R225: a product of two factors of at most 8 significant bits, which is exact; one beyond the largest binary32 number is an
infinity. -/
def fprod (x y : Num) : Num :=
  match x, y, fmul x y with
  | _, _, .inf n => .inf n
  | .fin a m d, .fin b n e, _ => .fin (a != b) (m * n) (d + e)
  | _, _, z => z

/-- Additions one at a time, in order. -/
def fsum (init : Num) (l : List Num) : Num := l.foldl fadd init

/-! ### MX blocks -/

/-- EMAX of R227. -/
def mxEmax (e : Nat) : Int :=
  match e with | 0x18 => 2 | 0x19 => 2 | 0x1A => 4 | 0x1B => 8 | 0x1C => 15 | _ => 0

def Num.isFin : Num → Bool
  | .fin _ _ _ => true
  | _ => false

/-- floor(log2 |x|), if x is finite and not 0. -/
def Num.exp : Num → Option Int
  | .fin _ m e => if m = 0 then none else some ((m.log2 : Int) + e)
  | _ => none

/-- x · 2^k. -/
def Num.scale (x : Num) (k : Int) : Num :=
  match x with
  | .fin n m e => .fin n m (e + k)
  | y => y

/-- R227: the shared exponent of a block; none where it holds a NaN or an infinity. -/
def mxShared (e : Nat) (l : List Num) : Option Int :=
  if !l.all Num.isFin then none
  else match l.filterMap Num.exp with
    | [] => some (-127)
    | x :: r => some (max (-127) (min 127 (r.foldl max x - mxEmax e)))

/-- The scale byte of a block, and one element of it. -/
def mxScaleByte (e : Nat) (l : List Num) : Nat :=
  match mxShared e l with
  | none => 0xFF
  | some x => (x + 127).toNat

/-- A block with scale byte 0xFF holds NaNs, which count (log entry 38). -/
def mxPack (e : Nat) (l : List Num) (x : Num) : Nar :=
  match mxShared e l with
  | none => { code := 0, nan := 1 }
  | some k => if e = 0x1D then narrowInt true 8 (x.scale (6 - k)) else narrow e (x.scale (-k))

/-- R228: an element of a block with a scale byte. -/
def mxUnpack (e c scale : Nat) : Num := if scale = 0xFF then .nan else (decode e c).scale ((scale : Int) - 127)

end Sys2Proof.Machine
end

