-- ==== Sys2Proof/Machine/TileRuns.lean ====
section
/-! DEFINITION. What tile-form instructions compute and when (classes 0x2 to 0x6): maps of the fabric (R191 to R200, R213 to R216), the
shape engines (R231 to R237, R245) and the mixers (R239 to R246), on the bytes that their ports read. -/

namespace Sys2Proof.Machine

/-! ### Maps -/

/-- How a scatter resolves a lane with several writers (R196). -/
inductive Policy where
  | first | last | sum | fault
  deriving DecidableEq, Repr

/-- What one map comes to: a value per lane (none: not written), counts, and the cause of a fault. -/
structure MapOut where
  lanes : List (Option Nat) := []
  coll : Nat := 0
  oor : Nat := 0
  sat : Nat := 0
  nan : Nat := 0
  fault : Nat := 0
  deriving DecidableEq, Repr

/-- The values of several writers, in ascending source order, as one (R196, R197). -/
def combine (p : Policy) (elem : Nat) (vs : List Nat) : Nar :=
  match vs with
  | [] => { code := 0 }
  | [v] => { code := v }
  | v :: r =>
    match p with
    | .last => { code := vs.getLastD 0 }
    | .sum => narrow elem (fsum (decode elem v) (r.map (decode elem)))
    | _ => { code := v }

/-- Gather and route: `idx` holds none for NULL. -/
def gatherMap (route : Bool) (u : List Nat) (idx : List (Option Nat)) : MapOut :=
  let k := u.length
  let lanes := idx.map fun j => some (match j with | none => 0 | some j => u.getD j 0)
  let bad := idx.any Option.isNone || !((upTo k).all fun j => idx.contains (some j))
  { lanes := lanes, oor := (idx.filter fun j => match j with | none => false | some j => decide (k ≤ j)).length,
    fault := if route && bad then 0x0A else 0 }

/-- Writers of lane `j`, in ascending source lane. -/
def writersOf (idx : List (Option Nat)) (j : Nat) : List Nat := (upTo idx.length).filter fun i => idx.getD i none = some j

def scatterMap (p : Policy) (elem : Nat) (keep : Bool) (u : List Nat) (idx : List (Option Nat)) : MapOut :=
  let k := u.length
  let ws := (upTo k).map (writersOf idx)
  let vals := ws.map fun w => combine p elem (w.map fun i => u.getD i 0)
  let coll := (ws.map fun w => w.length - 1).foldl (· + ·) 0
  { lanes := (List.zip ws vals).map fun e => if e.1.isEmpty then (if keep then none else some 0) else some e.2.code,
    coll := coll, oor := (idx.filter fun j => match j with | none => false | some j => decide (k ≤ j)).length,
    sat := (vals.map (·.sat)).foldl (· + ·) 0, nan := (vals.map (·.nan)).foldl (· + ·) 0,
    fault := if p = .fault && coll != 0 then 0x0B else 0 }

/-- The running maximum of the pre-stage selectors (R213). -/
def preStage (u : Nat → Nat) (f : List Nat) : List Nat :=
  (f.foldl (fun (r : Nat × List Nat) x => (max r.1 x, u (max r.1 x) :: r.2)) (0, [])).2.reverse

/-- Lane whose value lane `j` takes in a stage of span 2^b with the given switches. -/
def stageFrom (b : Nat) (sw : Nat → Bool) (j : Nat) : Nat :=
  let k := j / 2 ^ (b + 1) * 2 ^ b + j % 2 ^ b
  if sw k then j ^^^ 2 ^ b else j

/-- R213 on one route word of 1,024 bytes. -/
def rawMap (u : List Nat) (route : List Byte) : MapOut :=
  let v0 := preStage (fun i => u.getD i 0) ((route.take 256).map (·.toNat))
  let v := (upTo 15).foldl
    (fun v st =>
      let b := if st < 7 then 7 - st else st - 7
      (upTo 256).map fun j => v.getD (stageFrom b (fun k => bitAt route (2048 + 128 * st + k)) j) 0) v0
  { lanes := (v.take u.length).map some }

/-! ### The fabric's word (R210 to R212) -/

def fabPolicy (opc : Nat) : Policy := match opc with | 0x23 => .last | 0x24 => .sum | 0x25 => .fault | _ => .first

def grp (w : Word128) : Nat := wOpx w % 4
def ixw (w : Word128) : Bool := (wOpx w).testBit 2
def perseg (w : Word128) : Bool := (wOpx w).testBit 3
def keep (w : Word128) : Bool := (wOpx w).testBit 4

def sumElem (e : Nat) : Bool := e = 0x0B || e = 0x10 || e = 0x11 || e = 0x13
/-- u8, s8, E4M3, E5M2, binary16, bfloat16, binary32, raw 16-bit, raw 32-bit. -/
def wideElem (e : Nat) : Bool := e = 0x0A || e = 0x0B || (0x10 ≤ e && e ≤ 0x14) || isRaw e

/-- Units per map (R193). -/
def unitsPerMap (w : Word128) : Nat := wD0 w / 2 ^ grp w

/-- Bits of the SRC_B operand (R211). -/
def fabBits (w : Word128) : Nat :=
  let n := if perseg w then wD1 w else 1
  if wordOpc w = 0x26 then n * 8192 else n * unitsPerMap w * (if ixw w then 16 else 8)

def fabRows (w : Word128) : List Nat :=
  let n := tileRows (tileBits (wElem w) (wD0 w * wD1 w))
  [n, n, tileRows (fabBits w)]

/-- Table 6.2. -/
def fabShape (w : Word128) : Bool :=
  let opc := wordOpc w
  if opc = 0x24 then grp w = 0
  else if opc = 0x26 then grp w = 0 && !ixw w && !keep w
  else wD0 w % 2 ^ grp w = 0 && (grp w = 0 || elemBits (wElem w) = 32) && (!keep w || 0x22 ≤ opc)

/-- An index vector (R194). -/
def idxOf (w : Word128) (b : List Byte) : List (Option Nat) :=
  let k := unitsPerMap w
  (upTo k).map fun i =>
    if ixw w then
      let v := bnum b (2 * i) 2
      if v.testBit 8 then none else some (v % 256)
    else some (bnum b i 1)

/-- One map, from its data bytes and its index vector or route word. -/
def tileMap (w : Word128) (a b : List Byte) : MapOut :=
  let n := elemBits (wElem w) * 2 ^ grp w
  let u := (upTo (unitsPerMap w)).map fun i => getBits a (i * n) n
  let opc := wordOpc w
  if opc = 0x26 then rawMap u (b.take 1024)
  else if opc ≤ 0x21 then gatherMap (opc = 0x20) u (idxOf w b)
  else scatterMap (fabPolicy opc) (wElem w) (keep w) u (idxOf w b)

/-! ### Route words (R221) -/

/-- Switches that cross, as stage and lower lane. -/
abbrev Crossed := List (Nat × Nat)

/-- Which half of the network serves each output, so that the inputs of a first-stage switch, and the outputs of a last-stage switch, go
to different halves: from output `j` on, round its loop. -/
def loopHalves (h : Nat) (perm : List Nat) : Nat → Nat → List (Nat × Nat) → List (Nat × Nat)
  | 0, _, m => m
  | n + 1, j, m =>
    if m.any (·.1 = j) then m
    else
      let o := (perm.findIdx? (· = perm.getD j 0 ^^^ h)).getD 0
      loopHalves h perm n (o ^^^ h) (m ++ [(j, 0), (o, 1)])

/-- Switch settings of the in-place Beneš network of the 2^(b + 1) lanes from `base` on that gives output `j` input `perm[j]` (R213). -/
def benes : Nat → Nat → List Nat → Crossed
  | 0, base, perm => if perm.getD 0 0 = 1 then [(7, base)] else []
  | b + 1, base, perm =>
    let h := 2 ^ (b + 1)
    let halves := (upTo (2 * h)).foldl (fun m j => loopHalves h perm (2 * h) j m) []
    let half (j : Nat) : Nat := mget 0 j halves
    let ins := (upTo h).filter fun i => half ((perm.findIdx? (· = i)).getD 0) = 1
    let outs := (upTo h).filter fun j => half j = 1
    let sub (c : Nat) : List Nat := (upTo h).map fun j => perm.getD (if half j = c then j else j + h) 0 % h
    ins.map (fun i => (6 - b, base + i)) ++ outs.map (fun j => (8 + b, base + j)) ++ benes b base (sub 0) ++ benes b (base + h) (sub 1)

/-- The route word that gives lane `j` source lane `t[j]`: the pre-stage makes the copies in ascending order, the stages place them. -/
def routeOf (t : List Nat) : List Byte :=
  let before (j : Nat) : Nat := ((upTo 256).filter fun i => t.getD i 0 < t.getD j 0 || (t.getD i 0 = t.getD j 0 && i < j)).length
  let perm := (upTo 256).map before
  let f := (upTo 256).map fun q => t.getD ((perm.findIdx? (· = q)).getD 0) 0
  let cs := benes 7 0 perm
  let span (s : Nat) : Nat := if s < 7 then 7 - s else s - 7
  f.map (BitVec.ofNat 8) ++
    bitBytes 240 (fun i => let s := i / 128; let k := i % 128
      cs.contains (s, k / 2 ^ span s * 2 ^ (span s + 1) + k % 2 ^ span s)) ++ List.replicate 528 0

/-- Source lane of each lane of a gather: units of 2^GRP lanes; a NULL or out-of-range unit takes a lane beyond the data, which is 0. -/
def laneTargets (w : Word128) (idx : List (Option Nat)) : List Nat :=
  let g := 2 ^ grp w
  (upTo 256).map fun j =>
    match idx.getD (j / g) none with
    | some k => if k < unitsPerMap w then k * g + j % g else wD0 w
    | none => if j < wD0 w then wD0 w else 255

/-- A route word realises the map: on distinct data it gives what the gather gives (R213, R221). -/
def routeRealises (w : Word128) (idx : List (Option Nat)) (route : List Byte) : Bool :=
  let u := (upTo (wD0 w)).map (· + 1)
  (rawMap u route).lanes = (upTo (wD0 w)).map fun j => some (u.getD ((laneTargets w idx).getD j 0) 0)

/-- The captured word: any one that realises the map (log entry 9); where data fill all 256 lanes and an output must be 0, none does. -/
def capturedRoute (w : Word128) (idx : List (Option Nat)) (any : List Byte) : List Byte :=
  let own := routeOf ((laneTargets w idx).map fun k => k % 256)
  if !routeRealises w idx any && routeRealises w idx own then own else any

/-- The bytes of a map's lanes. -/
def laneBytes (n : Nat) (lanes : List (Option Nat)) : List (Option Byte) :=
  lanes.flatMap fun v => match v with
    | none => List.replicate (n / 8) none
    | some v => (leBytes (n / 8) v).map some

/-! ### Parameter blocks (R229, Table 7.4) -/

/-- DCHK 0x11 PARAM. -/
def pchk : Flaw := dchk 0x11

/-- Bytes `lo` to `hi` of a block are 0. -/
def zeroBytes (b : List Byte) (lo hi : Nat) : Bool := (upTo (hi - lo)).all fun k => bnum b (lo + k) 1 = 0

/-- A window block's parameters. -/
structure WinPar where
  kh : Nat
  kw : Nat
  sh : Nat
  sw : Nat
  dh : Nat
  dw : Nat
  mode : Nat
  pt : Nat
  pb : Nat
  pl : Nat
  pr : Nat
  deriving DecidableEq, Repr

def WinPar.parse (b : List Byte) : WinPar :=
  let v := bnum b 4 1
  let t := bnum b 5 1
  let d := bnum b 6 1
  { kh := v % 16 + 1, kw := v / 16 + 1, sh := t % 8 + 1, sw := t / 16 % 8 + 1, dh := d % 4 + 1, dw := d / 16 % 4 + 1, mode := bnum b 7 1 % 4,
    pt := bnum b 8 1, pb := bnum b 9 1, pl := bnum b 10 1, pr := bnum b 11 1 }

/-- Table 7.4: reserved bits, then ranges. -/
def winBlock (b : List Byte) : Chk WinPar := do
  let p := WinPar.parse b
  need (zeroBytes b 2 4 && !(bnum b 5 1).testBit 3 && !(bnum b 5 1).testBit 7 && bnum b 6 1 / 4 % 4 = 0 && bnum b 6 1 / 64 = 0 &&
    bnum b 7 1 < 4 && zeroBytes b 12 64) (dchk 0x03)
  need (p.kh ≤ 15 && p.kw ≤ 15 && p.mode ≤ 2 && p.pt < 64 && p.pb < 64 && p.pl < 64 && p.pr < 64) pchk
  return p

/-- Output extent of one dimension; 0 where the window is larger than the padded input (log entry 40). -/
def winOut (n p q d k st : Nat) : Nat := if n + p + q < d * (k - 1) + 1 then 0 else (n + p + q - d * (k - 1) - 1) / st + 1

def WinPar.oh (p : WinPar) (h : Nat) : Nat := winOut h p.pt p.pb p.dh p.kh p.sh
def WinPar.ow (p : WinPar) (w : Nat) : Nat := winOut w p.pl p.pr p.dw p.kw p.sw

/-- The conditions that depend on the input's width and height. -/
def WinPar.fits (p : WinPar) (w h : Nat) : Bool :=
  1 ≤ p.oh h && 1 ≤ p.ow w && (p.mode != 2 || (p.pl + 1 ≤ w && p.pr + 1 ≤ w && p.pt + 1 ≤ h && p.pb + 1 ≤ h))

/-- Where a coordinate reads: none for zero padding. -/
def winRead (mode n : Nat) (i : Int) : Option Nat :=
  if 0 ≤ i && i < n then some i.toNat
  else match mode with
    | 0 => none
    | 1 => some (if i < 0 then 0 else n - 1)
    | _ => some (if i < 0 then (-i).toNat else (2 * ((n : Int) - 1) - i).toNat)

/-- The input (x, y) of output (kx, ky, ox, oy). -/
def WinPar.input (p : WinPar) (w h kx ky ox oy : Nat) : Option (Nat × Nat) :=
  match winRead p.mode w ((ox * p.sw + kx * p.dw : Nat) - (p.pl : Int)), winRead p.mode h ((oy * p.sh + ky * p.dh : Nat) - (p.pt : Int)) with
  | some x, some y => some (x, y)
  | _, _ => none

/-- A mixer block's parameters; `p1` and `p2` as (address, GEN) (Table 7.4). -/
structure MixPar where
  logN : Nat := 0
  axis : Nat := 0
  glog2 : Nat := 0
  k : Nat := 0
  scale : Nat := 0
  p1 : Nat × Nat := (0, 0)
  p2 : Nat × Nat := (0, 0)
  deriving DecidableEq, Repr

def MixPar.parse (b : List Byte) : MixPar :=
  { logN := bnum b 4 1, axis := bnum b 5 1, glog2 := bnum b 6 1, k := bnum b 7 1, scale := bnum b 8 4,
    p1 := (bnum b 16 6, bnum b 22 1), p2 := (bnum b 24 6, bnum b 30 1) }

def named (p : Nat × Nat) : Bool := p != (0, 0)

/-- Bytes of a block that opcode `opc` does not use, as [lo, hi). -/
def mixUnused (opc : Nat) : List (Nat × Nat) :=
  match opc with
  | 0x60 => [(2, 4), (6, 8), (12, 64)]
  | 0x61 => [(2, 5), (7, 16), (23, 24), (31, 64)]
  | 0x62 => [(2, 5), (6, 7), (8, 16), (23, 64)]
  | _ => [(2, 5), (6, 16), (23, 24), (31, 64)]

/-- Reserved bytes, then ranges. -/
def mixBlock (opc : Nat) (tile : Bool) (b : List Byte) : Chk MixPar := do
  let p := MixPar.parse b
  need ((mixUnused opc).all fun r => zeroBytes b r.1 r.2) (dchk 0x03)
  need (p.axis ≤ 5 && (!tile || p.axis = 0) && (opc != 0x60 || (3 ≤ p.logN && p.logN ≤ 8)) &&
    (opc != 0x61 || p.glog2 ≤ 16 || p.glog2 = 0xFF) && (opc != 0x62 || (1 ≤ p.k && p.k ≤ 8)) && (opc = 0x60 || named p.p1)) pchk
  return p

/-- Group of index `i` along AXIS, and the number of groups of an extent (R241). -/
def groupOf (g i : Nat) : Nat := if g = 0xFF then 0 else i / 2 ^ g
def groups (g n : Nat) : Nat := if g = 0xFF then 1 else ceilDiv n (2 ^ g)

/-! ### Transposers, window expanders and bit-plane engines -/

/-- An instruction that moves elements of `w` bits: `n` output elements, element `k` from input element `f k` (none: 0). -/
def moveTile (w n : Nat) (f : Nat → Option Nat) (a : List Byte) : List Byte :=
  packBytes w ((upTo n).map fun k => match f k with | none => 0 | some i => getBits a (i * w) w)

/-- Number `k` of a tile of format `e` and `n` elements (R165, R228). -/
def tileNum (e n : Nat) (a : List Byte) (k : Nat) : Num :=
  let c := getBits a (k * elemBits e) (elemBits e)
  if isMx e then mxUnpack e c (a.getD (n * elemBits e / 8 + k / 32) 0).toNat else decode e c

def tileBytes (e n : Nat) : Nat := ceilDiv (tileBits e n) 8

def fieldWidth (w : Word128) : Nat := wOpx w % 8 + 1

/-- Bit `k` of a planes tile from the bits of the fields tile, and the reverse. -/
def planeBit (d0 fw k : Nat) : Nat := (k / (fw * d0) * d0 + k % d0) * fw + k / d0 % fw
def unplaneBit (d0 fw k : Nat) : Nat := (k / fw / d0 * fw + k % fw) * d0 + k / fw % d0

/-- Output bytes, and what elements of them add to SAT_COUNT and NAN_COUNT, each at its last byte. -/
structure TileOut where
  bytes : List Byte
  counts : List (Nat × Nat × Nat) := []
  deriving DecidableEq, Repr

/-- What the elements of a stream of `w`-bit codes count, by byte (R226). -/
def countsOf (w : Nat) (ns : List Nar) : List (Nat × Nat × Nat) :=
  (ns.zipIdx.filter fun e => e.1.sat != 0 || e.1.nan != 0).map fun e => ((e.2 * w + w - 1) / 8, e.1.sat, e.1.nan)

/-- Tile-form conversion of `n` elements (R227, R228, R235). -/
def convTile (x y n : Nat) (a : List Byte) : TileOut :=
  let v := (upTo n).map (tileNum x n a)
  let blk (k : Nat) : List Num := (v.drop (k / 32 * 32)).take 32
  let ns := (List.zip (upTo n) v).map fun e => if isMx y then mxPack y (blk e.1) e.2 else narrow y e.2
  { bytes := packBytes (elemBits y) (ns.map (·.code)) ++
      (if isMx y then (upTo (n / 32)).map fun b => BitVec.ofNat 8 (mxScaleByte y (blk (32 * b))) else [])
    counts := countsOf (elemBits y) ns }

/-- Elements that `win.expand` writes in tile form, and the input element of each (R232, R234). -/
def winElems (w : Word128) (p : WinPar) : Nat := p.kw * p.kh * (p.ow (wD0 w) * p.oh (wD1 w))

def winFrom (w : Word128) (p : WinPar) (m : Nat) : Option Nat :=
  let k := m % (p.kw * p.kh)
  let q := m / (p.kw * p.kh)
  (p.input (wD0 w) (wD1 w) (k % p.kw) (k / p.kw) (q % p.ow (wD0 w)) (q / p.ow (wD0 w))).map fun c => c.2 * wD0 w + c.1

/-- Bytes of SRC_A of a shape engine. -/
def shapeIn (w : Word128) : Nat :=
  let n := wD0 w * wD1 w
  match wordOpc w with
  | 0x52 | 0x53 => ceilDiv (n * fieldWidth w) 8
  | _ => tileBytes (wElem w) n

/-- Bytes of its DST; `b`: its parameter block. -/
def shapeLen (w : Word128) (b : List Byte) : Nat :=
  match wordOpc w with
  | 0x40 => ceilDiv (winElems w (WinPar.parse b) * elemBits (wElem w)) 8
  | 0x50 | 0x51 => tileBytes (wOpx w) (wD0 w * wD1 w)
  | _ => shapeIn w

/-- What it writes, from the bytes of SRC_A and its parameter block. Both directions of the interleave turn a D0 × D1 tile into the
D1 × D0 one; the source tile of `bp.dilv` is the stream's (log entry 41). -/
def shapeOut (w : Word128) (a b : List Byte) : TileOut :=
  let d0 := wD0 w
  let d1 := wD1 w
  let e := elemBits (wElem w)
  let planes (f : Nat → Nat) : TileOut :=
    { bytes := bitBytes (shapeIn w) fun k => k < d0 * d1 * fieldWidth w && bitAt a (f k) }
  match wordOpc w with
  | 0x40 => { bytes := moveTile e (winElems w (WinPar.parse b)) (winFrom w (WinPar.parse b)) a }
  | 0x50 | 0x51 => convTile (wElem w) (wOpx w) (d0 * d1) a
  | 0x52 => planes (planeBit d0 (fieldWidth w))
  | 0x53 => planes (unplaneBit d0 (fieldWidth w))
  | _ => { bytes := moveTile e (d0 * d1) (fun k => some (k % d1 * d0 + k / d1)) a }

/-! ### Mixer arrays -/

/-- 1/√N rounded to binary32, N = 2^logN from 8 to 256 (R240). -/
def rotScale (logN : Nat) : Nat :=
  match logN with
  | 3 => 0x3EB504F3 | 4 => 0x3E800000 | 5 => 0x3E3504F3 | 6 => 0x3E000000 | 7 => 0x3DB504F3 | _ => 0x3D800000

def isZero : Num → Bool
  | .fin _ m _ => m = 0
  | _ => false

/-- Sum of terms in order, from the first one. -/
def sumNums (l : List Num) : Num :=
  match l with
  | [] => .fin false 0 0
  | x :: r => fsum x r

/-- One pass over index bits `lo` to `lo + k - 1` (R240). -/
def rotPass (v : List Num) (lo k : Nat) : List Num :=
  (upTo v.length).map fun m =>
    let row := bitsOf m lo k
    let base := m - row * 2 ^ lo
    sumNums ((upTo (2 ^ k)).map fun c =>
      let x := v.getD (base + c * 2 ^ lo) .nan
      if popcount 3 (row &&& c) % 2 = 1 then negate x else x)

/-- Every pass of H_N, three index bits at a time. -/
def rotAll (v : List Num) (logN : Nat) : List Num :=
  (upTo (ceilDiv logN 3)).foldl (fun v i => rotPass v (3 * i) (min 3 (logN - 3 * i))) v

/-- Element `k` of a rotated run. -/
def rotOne (v : List Num) (logN scale k : Nat) : Num :=
  let sc := decode 0x14 scale
  fmul ((rotAll v logN).getD k .nan) (if isZero sc then decode 0x14 (rotScale logN) else sc)

/-- (x − z) × s (R241). -/
def deqOne (x z s : Num) : Num := fmul (fadd x (negate z)) s

/-- The sum of products in ascending order (R242). -/
def combOne (ws xs : List Num) : Num := sumNums (List.zipWith fprod ws xs)

/-- b + M_0 v_0 + … in order (R243). -/
def mmOne (b : Num) (ms vs : List Num) : Num := fsum b (List.zipWith fprod ms vs)

/-- What a mixer's tile form computes: its shape rule, the bytes of P1 and P2, output elements, compute cycles, and element `k` from the
numbers of SRC_A and the bytes of P1 and P2 (R239 to R244, R246). -/
structure MixTile where
  shape : Bool
  b1 : Nat := 0
  b2 : Nat := 0
  n : Nat
  cyc : Nat
  elem : List Num → List Byte → List Byte → Nat → Num

/-- K rounded up to 1, 2, 4 or 8 (R246). -/
def kPad (k : Nat) : Nat := if k ≤ 2 then k else if k ≤ 4 then 4 else 8

/-- Compute cycles for `n` outputs (R246). -/
def mixCycles (opc : Nat) (p : MixPar) (n : Nat) : Nat :=
  match opc with
  | 0x60 => ceilDiv (ceilDiv p.logN 3 * n) 8
  | 0x62 => ceilDiv (n * kPad p.k) 64
  | 0x63 => ceilDiv n 8
  | _ => ceilDiv n 64

/-- `p`: the parameters of the instruction's block, if it takes one. -/
def mixTile (w : Word128) (p : MixPar) : MixTile :=
  let d0 := wD0 w
  let d1 := wD1 w
  let n := d0 * d1
  let zero : Num := .fin false 0 0
  match wordOpc w with
  | 0x60 =>
    let m := 2 ^ min p.logN 16
    { shape := d0 % m = 0, n := n, cyc := mixCycles 0x60 p n
      elem := fun x _ _ k => rotOne ((x.drop (k / m * m)).take m) p.logN p.scale (k % m) }
  | 0x61 =>
    let g := groups p.glog2 d0
    let at_ (k : Nat) : Nat := k / d0 * g + groupOf p.glog2 (k % d0)
    { shape := true, b1 := 2 * (g * d1), b2 := if named p.p2 then tileBytes (wElem w) (g * d1) else 0, n := n, cyc := mixCycles (wordOpc w) p n
      elem := fun x p1 p2 k =>
        deqOne (x.getD k .nan) (if named p.p2 then tileNum (wElem w) (g * d1) p2 (at_ k) else zero) (tileNum 0x13 (g * d1) p1 (at_ k)) }
  | 0x62 =>
    let t := d1 / p.k
    { shape := d1 % p.k = 0, b1 := 2 * (p.k * t), n := d0 * t, cyc := mixCycles 0x62 p (d0 * t)
      elem := fun x p1 _ k =>
        combOne ((upTo p.k).map fun i => tileNum 0x13 (p.k * t) p1 (k / d0 * p.k + i))
          ((upTo p.k).map fun i => x.getD ((k / d0 * p.k + i) * d0 + k % d0) .nan) }
  | 0x63 =>
    { shape := d0 % 8 = 0, b1 := 128, b2 := if named p.p2 then 32 else 0, n := n, cyc := mixCycles 0x63 p n
      elem := fun x p1 p2 k =>
        mmOne (if named p.p2 then tileNum 0x14 8 p2 (k % 8) else zero) ((upTo 8).map fun q => tileNum 0x13 64 p1 (k % 8 * 8 + q))
          ((x.drop (k / 8 * 8)).take 8) }
  | _ => { shape := true, n := n, cyc := mixCycles (wordOpc w) p n, elem := fun x _ _ k => x.getD k .nan }

/-- `mix.cvt` takes no block (R244). -/
def mixHasB (w : Word128) : Bool := wordOpc w != 0x64

/-- Bytes of SRC_B: the block, then P1, then P2, each on a 64-byte boundary (R229). -/
def mixBytesB (w : Word128) (p : MixPar) : Nat :=
  let t := mixTile w p
  if !mixHasB w then 0 else if t.b2 = 0 then 64 + t.b1 else roundUp (64 + t.b1) 64 + t.b2

/-- First output element of compute cycle `i`: the cycles share the output equally (log entry 102). -/
def mixFirst (w : Word128) (p : MixPar) (i : Nat) : Nat := i * (mixTile w p).n / (mixTile w p).cyc

/-- What compute cycle `i` delivers, from the bytes of SRC_A and SRC_B (R246). -/
def mixPart (w : Word128) (a b : List Byte) (i : Nat) : List Nar :=
  let p := MixPar.parse b
  let t := mixTile w p
  let m := wD0 w * wD1 w
  let x := (upTo m).map (tileNum (wElem w) m a)
  let p1 := (b.drop 64).take t.b1
  let p2 := (b.drop (roundUp (64 + t.b1) 64)).take t.b2
  (List.range (mixFirst w p (i + 1) - mixFirst w p i)).map fun k => narrow (wOpx w) (t.elem x p1 p2 (mixFirst w p i + k))

/-! ### Ledgers -/

/-- A tile-form instruction: rows of DST, SRC_A and SRC_B, the cycles of its ledger, what happens in them, and how long it takes its unit
and what else it holds. -/
structure TileRun where
  shape : Bool := true
  rows : List Nat
  cycles : Nat
  ledger : List (Nat × Act)
  sides : List Side
  deriving DecidableEq, Repr

/-- `n` bytes in rowBeats of `p`: number, offset and length of each. -/
def rowBeats (n p : Nat) : List (Nat × Nat × Nat) := (upTo (ceilDiv n p)).map fun i => (i, i * p, min p (n - i * p))

def rowOf (w : Word128) (k : Nat) : Nat := rowAddr (wordClass w) (wUnit w) (wRow w k)

/-- Cycles between the reads of two maps, and from a map's read to its write-back (R215, Table 6.3). -/
def fabII (w : Word128) : Nat := if wordOpc w = 0x24 then 4 else 1
def fabLag (w : Word128) : Nat := if wordOpc w = 0x24 then 13 else 9

/-- Bytes of a map's data, and of its index vector or route word. -/
def mapBytes (w : Word128) : Nat := wD0 w * elemBits (wElem w) / 8
def mapIdx (w : Word128) : Nat := if wordOpc w = 0x26 then 1024 else unitsPerMap w * (if ixw w then 2 else 1)

/-- Table 6.3. A SUM scatter holds its mixer for the whole ledger (R216). -/
def fabTile (w : Word128) : TileRun :=
  let d1 := wD1 w
  let end_ := fabII w * d1
  let n := tileRows (tileBits (wElem w) (wD0 w * d1))
  { rows := [n, n, tileRows (fabBits w)], cycles := 2 + (d1 - 1) * fabII w + fabLag w + 1
    ledger := (upTo d1).map fun r =>
      (2 + r * fabII w, .map r (rowOf w 1 + r * mapBytes w) (mapBytes w) (rowOf w 2 + (if perseg w then r * mapIdx w else 0)) (mapIdx w))
    sides := ⟨fabricClass, wUnit w, 2, 2 + end_, 2 + fabLag w, 2 + fabLag w + end_⟩ ::
      (if wordOpc w = 0x24 then [⟨mixerClass, wAux16 w % 32, 0, 4 * d1 + 12, 0, 4 * d1 + 12⟩] else []) }

/-- L of Table 7.7. -/
def shapeLag (cls : Nat) : Nat := match cls with | 3 => 4 | 4 => 6 | _ => 3

/-- Table 7.7. -/
def shapeTile (w : Word128) (b : List Byte) : TileRun :=
  let cls := wordClass w
  let p := portRate cls
  let ins := rowBeats (shapeIn w) p
  let ri := ins.length
  let ro := ceilDiv (shapeLen w b) p
  let o := 2 + ri + shapeLag cls
  { rows := [ceilDiv (shapeLen w b) 1024, ceilDiv (shapeIn w) 1024, b2n (cls = 4)], cycles := o + ro
    ledger := (if cls = 4 then [(2, .read true (rowOf w 2) 64)] else []) ++
      ins.map (fun e => (2 + e.1, .read false (rowOf w 1 + e.2.1) e.2.2)) ++ [(1 + ri, .run)]
    sides := [⟨cls, wUnit w, 2, 2 + ri, o, o + ro⟩] }

/-- R246. -/
def mixerTile (w : Word128) (b : List Byte) : TileRun :=
  let p := MixPar.parse b
  let t := mixTile w p
  let bb := mixBytesB w p
  let rb := ceilDiv bb 256
  { shape := t.shape
    rows := [tileRows (tileBits (wOpx w) t.n), tileRows (tileBits (wElem w) (wD0 w * wD1 w)), ceilDiv bb 1024], cycles := 8 + rb + t.cyc
    ledger := (rowBeats bb 256).map (fun e => (2 + e.1, .read true (rowOf w 2 + e.2.1) e.2.2)) ++
      (upTo t.cyc).map fun i => (2 + rb + i, .part i)
    sides := [⟨mixerClass, wUnit w, 2, 2 + rb + t.cyc, 8 + rb, 8 + rb + t.cyc⟩] }

/-- The ledger of a tile-form engine instruction with parameter block `b`. -/
def tileRun (w : Word128) (b : List Byte) : TileRun :=
  match wordClass w with
  | 2 => fabTile w
  | 6 => mixerTile w b
  | _ => shapeTile w b

end Sys2Proof.Machine
end

