-- ==== Sys2Proof/Machine/Ledger.lean ====
section
/-! DEFINITION. Instructions in flight, cycle by cycle: the row accesses of tile-form instructions and tile moves (R174, R175, R184, R215,
R245, R246), the pieces of descriptor-form instructions (R187 to R190, R209, R217, R248, R249), and the units that they take (R164, R247). -/

namespace Sys2Proof.Machine

/-! ### Flights -/

def State.flight (s : State) (k : Nat) : Option Flight := s.flights.find? (·.id = k)

def State.setFlight (s : State) (k : Nat) (f : Flight → Flight) : State :=
  { s with flights := s.flights.map fun x => if x.id = k then f x else x }

/-- A range in parts that each lie in one aligned 4 KiB. -/
def pages (a n : Nat) : Nat → List (Nat × Nat)
  | 0 => []
  | k + 1 => if n = 0 then [] else
    let m := min n (4096 - a % 4096)
    (a, m) :: pages (a + m) (n - m) k

def pagesOf (e : Nat × Nat) : List (Nat × Nat) := pages e.1 e.2 (e.2 / 4096 + 2)

/-- Cut a byte string into parts of the given lengths. -/
def splitBy : List Nat → List Byte → List (List Byte)
  | [], _ => []
  | n :: r, bs => bs.take n :: splitBy r (bs.drop n)

def flightRemote (x : Flight) : Remote :=
  { hearth := x.ctx.hearth, owner := .flight x.id, planned := x.planned, tag := if x.ctx.origin = 1 then x.ctx.tag else 0,
    uid := if x.ctx.origin = 2 then x.ctx.ref else 0, plan := if x.planned then some x.ctx.plan else none }

/-- Remote destination bytes leave as far as WIDs last. -/
def State.flushOut (s : State) (k : Nat) : Nat → State
  | 0 => s
  | n + 1 =>
    match s.flight k with
    | none => s
    | some x =>
      match x.out with
      | [] => s
      | (ga, bs) :: rest =>
        let s' := s.setFlight k fun y => { y with out := rest }
        match s'.postWrite ga bs (flightRemote x) with
        | (_, .wait) => s.widMiss (flightRemote x)
        | (s, .sent) => State.flushOut s k n
        | (s, .absent) => State.flushOut (s.absentWrite ga bs.length (flightRemote x)) k n

def State.flush (s : State) (k : Nat) : State := s.flushOut k (((s.flight k).map (·.out.length)).getD 0)

/-! ### Units (R164, R187, R247) -/

/-- ENG_MASK for a class (R249). -/
def State.unitMasked (s : State) (cls u : Nat) : Bool :=
  match cls with
  | 3 => s.fbit .ENG_MASK_TP_OFF 0 u
  | 4 => s.fbit .ENG_MASK_WIN_OFF 0 u
  | 5 => s.fbit .ENG_MASK_BP_OFF 0 u
  | _ => false

def sideKey (cls u : Nat) : Nat := cls * 32 + u

/-- The plan resource of a unit; slice 15 and mixer arrays 30 and 31 have none (Table 2.1). -/
def unitRes (cls u : Nat) : Option Nat :=
  match cls % 16 with
  | 2 => if u < 15 then some (0x08 + u) else none
  | 3 => some (0x18 + u)
  | 4 => some (0x1C + u)
  | 5 => some (0x1E + u)
  | _ => if u < 30 then some (0x20 + u) else none

/-- When the input and the output side of a unit are free. -/
def State.sideFree (s : State) (cls u : Nat) : Nat × Nat := mget (0, 0) (sideKey cls u) s.sides

def State.setSide (s : State) (cls u in_ out : Nat) : State := { s with sides := mput (0, 0) (sideKey cls u) (in_, out) s.sides }

/-- Both sides of the unit are free when work that starts now needs them. -/
def State.sideOk (s : State) (d : Side) : Bool :=
  (s.sideFree d.cls d.unit).1 ≤ s.clk + d.in0 && (s.sideFree d.cls d.unit).2 ≤ s.clk + d.out0

/-- Open work of `n` cycles may start now: its sides are free, and it ends before the next claimed cycle of each unit. -/
def State.mayTakeUnits (s : State) (n : Nat) (ds : List Side) : Bool :=
  ds.all fun d => s.sideOk d && match unitRes d.cls d.unit with | none => true | some r => s.freeFor r n

/-- Work that starts now takes its sides. -/
def State.takeUnits (s : State) (ds : List Side) : State :=
  forAll ds (fun d s => s.setSide d.cls d.unit (max (s.sideFree d.cls d.unit).1 (s.clk + d.in1)) (max (s.sideFree d.cls d.unit).2 (s.clk + d.out1))) s

/-- A unit has stopped what it did. -/
def State.freeUnits (s : State) (ds : List Side) : State := forAll ds (fun d s => s.setSide d.cls d.unit s.clk s.clk) s

/-- A logical unit that open work may be given now (R249). -/
def State.unitIdle (s : State) (cls u : Nat) : Bool := !s.unitMasked cls u && (s.sideFree cls u).1 ≤ s.clk

/-- A dead physical unit behind one of a flight's (R64). -/
def State.deadUnit (s : State) (x : Flight) : Option Nat := x.holds.findSome? fun e => s.deadBehind e.1 e.2

/-- The first cycle from now on at which the move port of the unit behind a tile address is free (R164). -/
def State.portFree (s : State) (a : Nat) : Nat :=
  match tileRow a with
  | none => s.clk
  | some (cls, u, _) => max s.clk (s.sideFree (16 + cls) u).1

/-! ### Row accesses (R175, R178) -/

/-- A row byte as it stood at the start of the cycle. -/
def State.rowByte (s : State) (a : Nat) : Byte := if s.rowClk = s.clk then mget (s.byte a) a s.rowOld else s.byte a

def State.rowBytes (s : State) (a n : Nat) : List Byte := (upTo n).map fun k => s.rowByte (a + k)

/-- R178, R180: the row at `a`, read through a port, is in that port's latch, unless it is written in this cycle. -/
def State.latchRow (s : State) (port a : Nat) : State :=
  match tileRow a with
  | none => s
  | some (cls, u, row) =>
    let s := s.dropLatches fun m => m.port = port && m.cls = cls && m.unit = u
    if s.rowClk = s.clk && s.rowOld.any (fun e => e.1 / 1024 = a / 1024) then s else { s with latches := s.latches ++ [⟨port, cls, u, row⟩] }

/-- An engine write-back: bytes that an access through the tile window changes in this cycle are left as that access has them (R175). -/
def State.writeBack (s : State) (a : Nat) (bs : List Byte) : State :=
  forAll (runs a (bs.zipIdx.map fun e => if s.rowClk = s.clk && s.rowOld.any (·.1 = a + e.2) then none else some e.1))
    (fun e s => s.store e.1 e.2) s

/-! ### Tile-form instructions -/

/-- Bytes of the last row beyond `n` bytes of a tile (R166). -/
def tailOf (da n : Nat) : List (Nat × List Byte) :=
  if n % 1024 = 0 then [] else [(da + n, List.replicate (1024 - n % 1024) 0)]

/-- The write-back of map `r` (Table 6.3, R199). -/
def mapWrite (w : Word128) (r c : Nat) (m : MapOut) : RowWrite :=
  let n := mapBytes w
  let tail := if r + 1 = wD1 w then tailOf (rowOf w 0) (n * wD1 w) else []
  if m.fault != 0 then { at_ := c + fabLag w, coll := m.coll, oor := m.oor, map := r, cause := m.fault }
  else
    { at_ := c + fabLag w, data := runs (rowOf w 0 + r * n) (laneBytes (elemBits (wElem w) * 2 ^ grp w) m.lanes) ++ tail
      sat := m.sat, nan := m.nan, coll := m.coll, oor := m.oor, map := r }

/-- The output rowBeats of a shape engine whose input is complete at the end of cycle `c`; `n`: bytes of its destination rows. -/
def shapeWrites (w : Word128) (a b : List Byte) (n c : Nat) : List RowWrite :=
  let o := shapeOut w a b
  let bs := o.bytes.take n
  let p := portRate (wordClass w)
  (rowBeats bs.length p).map fun e =>
    let mine := o.counts.filter fun k => k.1 / p = e.1
    { at_ := c + 1 + shapeLag (wordClass w) + e.1
      data := (rowOf w 0 + e.2.1, (bs.drop e.2.1).take e.2.2) ::
        (if e.2.1 + e.2.2 = bs.length then tailOf (rowOf w 0) bs.length else [])
      sat := (mine.map (·.2.1)).foldl (· + ·) 0, nan := (mine.map (·.2.2)).foldl (· + ·) 0 }

/-- What compute cycle `i` of a mixer writes. -/
def partWrite (w : Word128) (a b : List Byte) (i c : Nat) : RowWrite :=
  let p := MixPar.parse b
  let t := mixTile w p
  let e := elemBits (wOpx w) / 8
  let ns := mixPart w a b i
  { at_ := c + 6
    data := (rowOf w 0 + mixFirst w p i * e, packBytes (8 * e) (ns.map (·.code))) ::
      (if i + 1 = t.cyc then tailOf (rowOf w 0) (t.n * e) else [])
    sat := (ns.map (·.sat)).foldl (· + ·) 0, nan := (ns.map (·.nan)).foldl (· + ·) 0 }

/-- What an act of the ledger adds to a flight, on the rows of `v`. -/
def Flight.act (v : State) (x : Flight) (a : Act) : Flight :=
  let w := x.word
  match a with
  | .read false a n => { x with capA := x.capA ++ v.rowBytes a n }
  | .read true a n => { x with capB := x.capB ++ v.rowBytes a n }
  | .map r a na b nb =>
    let m := tileMap w (v.rowBytes a na) (v.rowBytes b nb)
    { x with writes := x.writes ++ [mapWrite w r v.clk m], acts := if m.fault != 0 then [] else x.acts }
  | .run => { x with writes := x.writes ++ shapeWrites w x.capA x.capB ((x.range.map (·.2)).headD 0) v.clk }
  | .part i => { x with writes := x.writes ++ [partWrite w (v.rowBytes (rowOf w 1) (tileBytes (wElem w) (wD0 w * wD1 w))) x.capB i v.clk] }
  | .beat a n da wait => { x with writes := x.writes ++ [{ at_ := v.clk + wait, move := true, data := [(da, v.rowBytes a n)] }] }
  | .zero da n => { x with writes := x.writes ++ [{ at_ := v.clk, move := true, data := [(da, List.replicate n 0)] }] }

/-- The latches that an act loads. -/
def State.actLatch (s : State) (w : Word128) (a : Act) : State :=
  match a with
  | .read b a n => s.latchRow (b2n b) (a + n - 1)
  | .map _ a na b nb => (s.latchRow 0 (a + na - 1)).latchRow 1 (b + nb - 1)
  | .part _ => s.latchRow 0 (rowOf w 1 + tileBytes (wElem w) (wD0 w * wD1 w) - 1)
  | _ => s

/-- R221: the next open gather or route map on the traced slice is captured; its word is written one cycle after the map's write-back. -/
def State.trace (s : State) (v : State) (k : Nat) (a : Act) : State :=
  match a, s.flight k with
  | .map _ _ _ b nb, some x =>
    if x.planned || !(wordOpc x.word = 0x20 || wordOpc x.word = 0x21) || wUnit x.word != s.fld .TRACE_CTL_SL || !s.flag .TRACE_CTL_ARM then s
    else
      let any := leBytes 1024 (Config.routeWord s.free % 2 ^ 8192)
      let r : RowWrite :=
        { at_ := v.clk + fabLag x.word + 1, move := true, trace := true
          data := [(rowAddr fabricClass (wUnit x.word) (s.fld .TRACE_CTL_ROW), capturedRoute x.word (idxOf x.word (v.rowBytes b nb)) any)] }
      ({ s with free := s.free + 1 }.setFld .TRACE_CTL_ARM 0 0).setFlight k fun x => { x with writes := x.writes ++ [r] }
  | _, _ => s

/-- One act of flight `k` in this cycle. -/
def State.doAct (s v : State) (k : Nat) (a : Act) : State :=
  match s.flight k with
  | none => s
  | some x => (((s.setFlight k fun y => y.act v a).trace v k a).actLatch x.word a)

/-- The acts of flight `k` in this cycle, on the rows of `v`. -/
def State.doActs (s v : State) (k : Nat) : State :=
  match s.flight k with
  | none => s
  | some x =>
    let due := x.acts.filter fun e => e.1 ≤ s.clk
    let s := s.setFlight k fun y => { y with acts := y.acts.filter fun e => s.clk < e.1 }
    forAll due (fun e s => s.doAct v k e.2) s

/-- A row write of flight `k` takes place. -/
def State.doWrite (k : Nat) (r : RowWrite) (s : State) : State :=
  let s := forAll r.data (fun e s => if r.move then s.store e.1 e.2 else s.writeBack e.1 e.2) s
  let s := (((s.bump .SAT_COUNT 0 r.sat).bump .NAN_COUNT 0 r.nan).bump .COLL_COUNT 0 r.coll).bump .OOR_COUNT 0 r.oor
  let s := s.on r.trace fun s => s.setFld .TRACE_CTL_DONE 0 1
  let s := s.setFlight k fun x => { x with oor := x.oor + r.oor, first := if x.oor = 0 then r.map else x.first }
  if r.cause = 0 then s
  else (s.bump .MAP_FAULTS).setFlight k fun x => { x.halt with status := 0x30, cause := r.cause, sub := 0, r0 := 0, addr := 0, len := 0 }

/-- The row writes of this cycle that are, or are not, through move ports. -/
def State.doWrites (move : Bool) (k : Nat) (s : State) : State :=
  match s.flight k with
  | none => s
  | some x =>
    let due := x.writes.filter fun r => r.at_ ≤ s.clk && r.move = move
    let s := s.setFlight k fun y => { y with writes := y.writes.filter fun r => !(r.at_ ≤ s.clk && r.move = move) }
    forAll due (fun r s => s.doWrite k r) s

/-- Ledger cycles of a tile-form instruction from cycle `c` on. -/
def actsFrom (c : Nat) (l : List (Nat × Act)) : List (Nat × Act) := l.map fun e => (c + e.1, e.2)

/-- A pre-empted tile-form instruction is released again in the unit's next free window (R188). -/
def State.releaseAgain (s : State) (k : Nat) : State :=
  match s.flight k with
  | none => s
  | some x =>
    let n := x.due - x.start
    if !x.again || x.status = 0x30 || !s.mayTakeUnits n x.sides then s
    else (s.takeUnits x.sides).setFlight k fun y =>
      { y with again := false, start := s.clk, due := s.clk + n, acts := actsFrom s.clk x.ledger, writes := [], capA := [], capB := [] }

/-! ### Pieces of descriptor-form instructions -/

/-- Byte `n` of a piece's source bytes is here. -/
def State.srcHere (s : State) (cache : List (Nat × Byte)) : List (Nat × Nat) → Nat → Bool
  | [], _ => true
  | (ga, m) :: r, n => if n < m then s.onChip ga || cache.any (·.1 = ga + n) else s.srcHere cache r (n - m)

/-- Every byte of a range is here. -/
def State.rangeHere (s : State) (cache : List (Nat × Byte)) (e : Nat × Nat) : Bool :=
  s.onChip e.1 || (upTo e.2).all fun k => cache.any (·.1 = e.1 + k)

def RunPiece.srcLen (r : RunPiece) : Nat := (r.piece.src.map (·.2)).foldl (· + ·) 0

/-- The next source byte of a piece that takes its input is here (R217, R248). -/
def State.nextHere (s : State) (x : Flight) (r : RunPiece) : Bool :=
  r.piece.data.isSome || s.srcHere x.cache r.piece.src ((r.piece.inC - r.left + 1) * r.srcLen / r.piece.inC - 1)

/-- Bytes `lo` up to `hi` of ranges laid end to end. -/
def sliceOf : List (Nat × Nat) → Nat → Nat → List (Nat × Nat)
  | [], _, _ => []
  | (a, m) :: r, lo, hi =>
    (if lo < min m hi then [(a + lo, min m hi - lo)] else []) ++ sliceOf r (lo - m) (hi - m)

/-- The plan that a flight's fen bytes are charged to. -/
def Flight.payer (x : Flight) : Option Nat := if x.planned then some x.ctx.plan else none

/-- What the shares give for `n` bytes at each of some global addresses on this chip (R326). -/
def State.fenCosts (s : State) (l : List (Nat × Nat)) (wr : Bool) : List (Nat × Nat) :=
  (l.filter fun e => s.onChip e.1).flatMap fun e => fenCost 32 (localOf e.1) e.2 wr

/-- Fen bytes that the piece takes in this cycle of its input. -/
def State.inputCost (s : State) (r : RunPiece) : List (Nat × Nat) :=
  let k := r.piece.inC - r.left
  s.fenCosts (sliceOf r.piece.src (k * r.srcLen / r.piece.inC) ((k + 1) * r.srcLen / r.piece.inC)) false

/-- Source bytes of the piece in a channel that is fenced fault it (R112). -/
def State.pieceFlaw (s : State) (p : Piece) : Option Flaw :=
  p.flaw.or (((p.src.find? fun r => s.onChip r.1 && s.fenced (localOf r.1) r.2)).map fun r => { cause := 0x0F, addr := r.1, len := r.2 })

/-- How a piece takes the sides of a unit (R217, R247). -/
def Piece.side (p : Piece) (cls u : Nat) : Side := ⟨cls, u, 0, p.hold, p.out0, p.total⟩

/-- The units that may be dealt a piece, in order (R209, R249). -/
def State.dealTo (s : State) (x : Flight) (p : Piece) : List Nat :=
  let cls := wordClass x.word
  if x.planned then (x.units[p.no % x.units.length]?).toList else (upTo (s.unitCount cls)).filter fun u => !s.unitMasked cls u

/-- The mixer arrays that a piece may hold, in order; none where it needs none (R209). -/
def State.mixersTo (s : State) (x : Flight) (p : Piece) : Option (List Nat) :=
  if wordOpc x.word != 0x24 then none
  else if x.planned then
    let n := min (s.plan x.ctx.plan).mixers s.liveMixers
    some (if n = 0 then [] else [p.no % n])
  else some (upTo (s.unitCount mixerClass))

def holdSide (p : Piece) (m : Nat) : Side := ⟨mixerClass, m, 0, p.total, 0, p.total⟩

/-- A piece can start on these sides: planned ones wait for the sides only. -/
def State.mayStartPiece (s : State) (x : Flight) (p : Piece) (d : Side) : Bool :=
  if x.planned then s.sideOk d else s.mayTakeUnits p.total [d]

/-- The next piece of flight `k` starts, if it can. -/
def State.dealOne (s : State) (k : Nat) : Option State :=
  match s.flight k with
  | none => none
  | some x =>
    match x.todo with
    | [] => none
    | p :: rest =>
      if s.clk < x.start || x.status = 0x30 then none
      else
        match (s.dealTo x p).find? fun u => s.mayStartPiece x p (p.side (wordClass x.word) u) with
        | none => none
        | some u =>
          let go (m : Option Nat) : State :=
            let s := s.takeUnits (p.side (wordClass x.word) u :: m.toList.map (holdSide p))
            let s := s.setFlight k fun y =>
              { y with todo := rest, runs := y.runs ++ [{ piece := p, unit := u, mixer := m, left := p.inC, tail := p.total - p.inC }] }
            match (s.flight k).bind s.deadUnit with
            | none => s
            | some d => s.faultFlight k 0x10 d
          match s.mixersTo x p with
          | none => some (go none)
          | some ms => (ms.find? fun m => s.mayStartPiece x p (holdSide p m)).map fun m => go (some m)

/-- Pieces of flight `k` start as far as units are free, one piece per unit at a time. -/
def State.deal (s : State) (k : Nat) : Nat → State
  | 0 => s
  | n + 1 => match s.dealOne k with | none => s | some t => t.deal k n

def State.dealAll (s : State) (k : Nat) : State := s.deal k (((s.flight k).map fun x => x.todo.length).getD 0)

/-- Until a restarted run ends, each 64-byte chunk holds either its old or its new content (Table 5.11). -/
def State.mixChunks (s : State) (new : List (Nat × List Byte)) : State :=
  let bs := new.flatMap fun e => e.2.zipIdx.map fun b => (e.1 + b.2, b.1)
  forAll (bs.map fun b => b.1 / 64).eraseDups
    (fun c s =>
      let t := { s with free := s.free + 1 }
      if Config.freeNat s.free % 2 = 0 then t else forAll (bs.filter fun b => b.1 / 64 = c) (fun b s => s.store b.1 [b.2]) t) s

/-- Bytes of a piece's data on this chip, by local address. -/
def State.herePart (s : State) (l : List (Nat × List Byte)) : List (Nat × List Byte) :=
  (l.filter fun e => s.onChip e.1).map fun e => (localOf e.1, e.2)

/-- Pieces by number. -/
def insertPiece (p : Piece) : List Piece → List Piece
  | [] => [p]
  | q :: r => if p.no < q.no then p :: q :: r else q :: insertPiece p r

/-- A piece that runs is abandoned and starts again in the unit's next free window (R188). -/
def State.requeue (s : State) (k : Nat) (r : RunPiece) : State :=
  match s.flight k with
  | none => s
  | some x =>
    let s := s.mixChunks (s.herePart (r.piece.data.getD []))
    (s.freeUnits (r.piece.side (wordClass x.word) r.unit :: r.mixer.toList.map (holdSide r.piece))).setFlight k fun y =>
      { y with runs := y.runs.filter fun q => q.piece.no != r.piece.no, todo := insertPiece r.piece y.todo }

/-- A running plan claims the unit in this cycle. -/
def State.claimedNow (s : State) (cls u : Nat) : Bool :=
  match unitRes cls u with
  | none => false
  | some r => (s.claimer r s.cyc).isSome

/-- One cycle of a piece: it takes input, waits for a late byte, open work also for bytes of its share (R39), or is past its input. Open work
that a claimed cycle finds waiting is pre-empted (R187). -/
def State.runPiece (k no : Nat) (s : State) : State :=
  match s.flight k with
  | none => s
  | some x =>
    match x.runs.find? fun r => r.piece.no = no with
    | none => s
    | some r =>
      let put (q : RunPiece) (s : State) : State :=
        s.setFlight k fun y => { y with runs := y.runs.map fun o => if o.piece.no = no then q else o }
      let cls := wordClass x.word
      if r.left = 0 then put { r with tail := r.tail - 1 } s
      else if x.status = 0x30 && r.piece.data.isNone then
        (forAll r.piece.range (fun e s => s.undefBytes e.1 e.2) s).setFlight k fun y =>
          { y with runs := y.runs.filter fun o => o.piece.no != no, ended := y.ended ++ [{ r.piece with data := some [] }] }
      else if s.nextHere x r && (x.planned || s.openFits (s.inputCost r)) then
        put { r with left := r.left - 1, piece := { r.piece with flaw := s.pieceFlaw r.piece } } (s.fenDraw x.payer (s.inputCost r))
      else if !x.planned && s.claimedNow cls r.unit then s.requeue k r
      else s.setSide cls r.unit ((s.sideFree cls r.unit).1 + 1) ((s.sideFree cls r.unit).2 + 1)

/-- Pieces that are through and have their data have ended. -/
def State.endPieces (k : Nat) (s : State) : State :=
  s.setFlight k fun x =>
    let gone (r : RunPiece) : Bool := r.left = 0 && r.tail = 0 && r.piece.data.isSome
    { x with runs := x.runs.filter fun r => !gone r, ended := x.ended ++ (x.runs.filter gone).map (·.piece) }

/-- Parts of a write that each lie in one aligned 4 KiB. -/
def cutPages (e : Nat × List Byte) : List (Nat × List Byte) :=
  List.zip ((pagesOf (e.1, e.2.length)).map (·.1)) (splitBy ((pagesOf (e.1, e.2.length)).map (·.2)) e.2)

/-- A piece takes effect: its bytes are written or leave, and counters count. A memory fault leaves its range undefined (Table 5.11);
a map that faults leaves what its earlier maps wrote (R199). -/
def State.commitPiece (k : Nat) (p : Piece) (s : State) : State :=
  let mapFault := p.flaw.any fun f => f.cause = 0x0A || f.cause = 0x0B
  let l := if p.flaw.isSome && !mapFault then [] else p.data.getD []
  let s := forAll (s.herePart l) (fun e s => s.localWrite e.1 e.2) s
  let far := (l.filter fun e => !s.onChip e.1).flatMap cutPages
  let s := s.on (p.flaw.isSome && !mapFault) fun s => forAll p.range (fun e s => s.undefBytes e.1 e.2) s
  let s := ((s.bump .SAT_COUNT 0 p.sat).bump .NAN_COUNT 0 p.nan).bump .COLL_COUNT 0 p.coll
  let s := s.setFlight k fun x => { x with next := p.no + 1, out := x.out ++ far, due := max x.due (s.clk + 1) }
  match p.flaw with
  | none => s.flush k
  | some f =>
    ((((s.countSeal f.cause).on mapFault fun s => s.bump .MAP_FAULTS).setFlight k fun x =>
      { x with todo := [], runs := [], ended := [], status := 0x30, cause := f.cause, sub := f.sub, addr := f.addr, len := f.len, r0 := f.arg })).flush k

/-- Fen bytes that the output of a piece takes. -/
def State.outputCost (s : State) (p : Piece) : List (Nat × Nat) :=
  s.fenCosts ((p.data.getD []).map fun e => (e.1, e.2.length)) true

/-- Pieces take effect in destination order (R162), each once the shares have given what its output takes. -/
def State.commitPieces (s : State) (k : Nat) : Nat → State
  | 0 => s
  | n + 1 =>
    match s.flight k with
    | none => s
    | some x =>
      match x.ended.find? fun p => p.no = x.next with
      | none => s
      | some p =>
        let z := s.payShares x.payer (p.owe.getD (s.outputCost p))
        if z.2.isEmpty then
          ((z.1.setFlight k fun y => { y with ended := y.ended.filter fun q => q.no != p.no }).commitPiece k p).commitPieces k n
        else z.1.setFlight k fun y => { y with ended := y.ended.map fun q => if q.no = p.no then { q with owe := some z.2 } else q }

def State.runPieces (k : Nat) (s : State) : State :=
  match s.flight k with
  | none => s
  | some x =>
    if x.runs.isEmpty && x.ended.isEmpty then s
    else
      let s := State.endPieces k (forAll (x.runs.map (·.piece.no)) (fun n s => s.runPiece k n) s)
      s.commitPieces k (((s.flight k).map fun y => y.ended.length).getD 0)

/-- The shares give a KV operation's flight what they have for it. -/
def State.payFlight (k : Nat) (s : State) : State :=
  match s.flight k with
  | none => s
  | some x =>
    if x.owe.isEmpty then s
    else let z := s.payShares x.payer x.owe; z.1.setFlight k fun y => { y with owe := z.2 }

/-! ### Pool stacks and their locked sequences (R367, R413, R414) -/

def pageBytes : Nat := 65536
/-- R367: one frame returns to the pool, or is lost. -/
def State.pushFrame (s : State) (t f : Nat) : State :=
  let top := s.fld .KV_POOL_TOP t
  let a := s.fld .KV_POOL_BASE t + 4 * top
  if s.fld .KV_POOL_CAP t ≤ top || s.fenced (f * pageBytes) pageBytes then s.bump .KV_LOST_FRAMES t
  else if s.sealFault a 4 != 0 then (s.countSeal (s.sealFault a 4)).bump .KV_LOST_FRAMES t
  else
    ((s.store a (leBytes 4 f)).setFld .KV_POOL_TOP t (top + 1)).bump .KV_FREED t

def State.pushFrames (s : State) (t : Nat) (fs : List Nat) : State := forAll fs (fun f s => s.pushFrame t f) s

/-- The staging port of hearth `t`'s pool stack. -/
def State.poolPort (s : State) (t : Nat) : Nat := localPort (s.fld .KV_POOL_BASE t)

/-- Another operation is in the middle of its stack accesses on the port. -/
def State.poolTaken (s : State) (port k : Nat) : Bool := s.locks.any fun l => l.1 = port && l.2.1 != k

/-- The port grants flight `x` a lock for its next stack accesses: an open one only if they end before the next claimed cycle (R413). -/
def State.mayLock (s : State) (x : Flight) : Bool :=
  let port := s.poolPort x.ctx.hearth
  !s.poolTaken port x.id && (x.planned || s.freeFor (0x80 + port) (min 16 x.stack))

def State.setLock (s : State) (port k end_ : Nat) : State :=
  { s with locks := s.locks.filter (fun l => l.2.1 != k) ++ [(port, k, end_)] }

/-- The flight has made all its stack accesses. -/
def State.endLock (s : State) (k : Nat) : State := { s with locks := s.locks.filter fun l => l.2.1 != k }

/-- A locked sequence of `n` accesses ends: frames have left the pool, or are pushed (R414). -/
def State.stackDone (s : State) (x : Flight) (n : Nat) : State :=
  let t := x.ctx.hearth
  let s := s.setFlight x.id fun y => { y with stack := y.stack - n }
  match x.done with
  | .kvPush fs => (s.pushFrames t (fs.take n)).setFlight x.id fun y => { y with done := .kvPush (fs.drop n) }
  | .kvClose qs fs => (s.pushFrames t (fs.take n)).setFlight x.id fun y => { y with done := .kvClose qs (fs.drop n) }
  | _ => s.setFld .KV_POOL_TOP t (s.fld .KV_POOL_TOP t - n)

/-- A cycle of flight `k`'s stack accesses: a lock ends, the next one is granted, or the operation waits a cycle more. A lock entry with end
0 stands between two sequences of one operation. -/
def State.lockCycle (k : Nat) (s : State) : State :=
  match s.flight k with
  | none => s.endLock k
  | some x =>
    let end_ := ((s.locks.find? (·.2.1 = k)).map (·.2.2)).getD 0
    if x.stack = 0 then s
    else if s.clk < end_ then s
    else
      let s := s.on (end_ != 0) fun s => (s.stackDone x (min 16 x.stack)).setLock (s.poolPort x.ctx.hearth) k 0
      match s.flight k with
      | none => s
      | some x =>
        if x.stack = 0 then s.endLock k
        else if s.mayLock x then s.setLock (s.poolPort x.ctx.hearth) k (s.clk + min 16 x.stack)
        else s.setFlight k fun y => { y with due := y.due + 1 }

/-! ### A cycle -/

/-- What the ledgers of instructions in flight place in this cycle: rows are read as they stood at its start, then engine write-backs
apply, then writes through move ports (R175); pieces start, go on and end. -/
def State.ledgerCycle (s : State) : State :=
  let ks := s.flights.map (·.id)
  let s := forAll ks (fun k s => (s.releaseAgain k).dealAll k) s
  let v := s
  let s := forAll ks (fun k s => s.doActs v k) s
  let s := forAll ks (fun k s => s.doWrites false k) s
  let s := forAll ks (fun k s => s.doWrites true k) s
  let s := forAll ks (fun k s => (s.runPieces k).payFlight k) s
  forAll (s.locks.map (·.2.1) ++ (s.flights.filter fun x => x.stack != 0 && !s.locks.any (·.2.1 = x.id)).map (·.id)) (fun k s => s.lockCycle k) s

/-- Nothing of the instruction's ledger is left. -/
def Flight.ledgerOver (x : Flight) : Bool :=
  x.owe.isEmpty && x.stack = 0 && x.acts.isEmpty && x.writes.isEmpty && (x.status = 0x30 || (!x.again && x.todo.isEmpty)) && x.runs.isEmpty && x.ended.isEmpty

end Sys2Proof.Machine
end

