-- ==== Sys2Proof/Machine/Ports.lean ====
section
/-! DEFINITION. The management port (R78 to R92), the commands that are register writes or reads through any path,
and CHIP_RST (R498). -/

namespace Sys2Proof.Machine

/-! ### The port's header and CRC -/

/-- One step of the CRC-8 with polynomial 0x07 over a byte, most significant bit first (R80). -/
def crc8Byte (c b : Nat) : Nat :=
  (upTo 8).foldl (fun c _ => if c.testBit 7 then (c * 2 % 256) ^^^ 0x07 else c * 2 % 256) (c ^^^ b)

def crc8 (bs : List Nat) : Nat := bs.foldl crc8Byte 0

/-- OP of an opcode byte: 0 single read, 1 single write, 2 burst read, 3 burst write (Table 3.2). -/
def frameOp (opcode : Byte) : Nat := opcode.toNat / 64
def frameWin (opcode : Byte) : Nat := bitsOf opcode.toNat 4 2
/-- Address [11:0] of the header. -/
def frameBase (opcode addr : Byte) : Nat := opcode.toNat % 16 * 256 + addr.toNat

/-- The CRC byte of a word at address `a` (R80): the opcode and address bytes of a single access to that word, with OP and WIN as the
frame's opcode byte has them (log entry 98). -/
def wordCrc (opcode : Byte) (a : Nat) (data : Word32) : Nat :=
  crc8 [opcode.toNat / 16 * 16 + bitsOf a 8 4, a % 256, bitsOf data.toNat 24 8, bitsOf data.toNat 16 8,
    bitsOf data.toNat 8 8, bitsOf data.toNat 0 8]

/-- Status bytes (Table 3.4). -/
def stOk : Nat := 0xA0
def stCrc : Nat := 0xA1
def stWindow : Nat := 0xA2
def stAlign : Nat := 0xA3
def stEnd : Nat := 0xA4
def stNoTarget : Nat := 0xA5
def stExpert : Nat := 0xA6

/-- R79, R87: the status a word's place alone gives it; `base` is the header's address, `a` the word's own. -/
def placeStatus (opcode : Byte) (base a : Nat) : Nat :=
  if frameWin opcode != bitsOf base 10 2 then stWindow
  else if base % 4 != 0 then stAlign
  else if frameWin opcode * 0x400 + 0x3FC < a then stEnd
  else stOk

/-- The instance that PORT_SEL names in the window of `reg` (R91); none gives NO_TARGET. -/
def State.portInst (s : State) (reg : Nat) : Option Nat :=
  if reg < 0x400 then some 0
  else if reg < 0x800 then some (s.fld .PORT_SEL_TENANT_SEL)
  else if reg < 0xC00 then some (s.fld .PORT_SEL_CHAN_SEL)
  else if reg < 0xE00 then (if s.fld .PORT_SEL_LINK_SEL < 24 then some (s.fld .PORT_SEL_LINK_SEL) else none)
  else some 0

/-- MP_STAT after a word with a status (Table 3.7). -/
def State.mpStatus (s : State) (st : Nat) : State :=
  let s := s.setFld .MP_STAT_LAST_CODE 0 (st % 16)
  if st = stOk then s
  else if st = stCrc then s.setFld .MP_STAT_CRC_ERR 0 1
  else if st = stExpert then s.setFld .MP_STAT_EXPERT_OFF 0 1
  else s.setFld .MP_STAT_FRAME_ERR 0 1

/-! ### MISO (R81, R82, R85) -/

/-- The bits of bytes, each most significant first. -/
def msbBits (bs : List Byte) : List Bool := bs.flatMap fun b => (upTo 8).map fun k => b.toNat.testBit (7 - k)

def lowBits (n : Nat) : List Bool := List.replicate n false

/-- MISO in a read frame: low over the header's 16 rises, then words and status bytes. -/
def readLine (miso : List Byte) : List Bool := lowBits 16 ++ msbBits miso

/-- MISO in a write frame: low, but for the status byte of each word on the 8 rises after its CRC byte. The header and the first word take
56 rises; every status byte is followed by 32 low bits while more words come. -/
def writeLine : List Byte → List Bool
  | [] => lowBits 56
  | b :: r => lowBits 56 ++ msbBits [b] ++ r.flatMap fun c => lowBits 32 ++ msbBits [c]

/-- What MISO drives at a rise of SCK of the last frame, counted from 1, after its bits low again; high-impedance (none) while CS# is
high, which it is between frames (R81). -/
def State.misoAt (s : State) (rise : Option Nat) : Option Bool := rise.map fun r => s.misoLine.getD (r - 1) false

/-! ### Reads -/

/-- One word of a read frame (R82): data and status. It resolves in a cycle of its own and returns the values held at the start of that
cycle (R95). -/
def State.mpRead (s : State) (opcode addr : Byte) (k : Nat) : State × Nat × Nat :=
  let s := s.advance 1
  let a := frameBase opcode addr + 4 * k
  let st := placeStatus opcode (frameBase opcode addr) a
  if st != stOk then (s.mpStatus st, 0, st)
  else match s.portInst a with
    | none => (s.mpStatus stNoTarget, 0, stNoTarget)
    | some i =>
      let v := s.readReg .mp (s.flag .PORT_SEL_READ_SEL) a i
      ((s.on (a = 0x088) State.capture).mpStatus stOk, v, stOk)

def beBytes (v : Nat) : List Byte := (leBytes 4 v).reverse

/-- Words 0 to `n − 1` of a read frame: MISO's bytes, and whether every status was OK. -/
def State.mpReads (s : State) (opcode addr : Byte) (n : Nat) : State × List Byte × Bool :=
  (upTo n).foldl
    (fun r k =>
      let w := r.1.mpRead opcode addr k
      (w.1, r.2.1 ++ beBytes w.2.1 ++ [BitVec.ofNat 8 w.2.2], r.2.2 && w.2.2 = stOk))
    (s, [], true)

/-- The end of a frame: what MISO returned and drove, and one count if any status was not OK (R547). -/
def State.endFrame (s : State) (miso : List Byte) (line : List Bool) (ok : Bool) : State :=
  { s with miso := miso, misoLine := line }.on (!ok) fun s => s.bump .MP_ERR_COUNT

def State.readFrame (s : State) (opcode addr : Byte) (n : Nat) : State :=
  let r := s.mpReads opcode addr n
  r.1.endFrame r.2.1 (readLine r.2.1) r.2.2

/-! ### Writes -/

/-- Where a write frame stands after some of its words. -/
structure WriteRun where
  s : State
  /-- a word has failed its CRC (R86) -/
  failed : Bool
  applied : Nat
  miso : List Byte
  ok : Bool
  /-- a word has reset the chip, and the frame is lost (R498) -/
  lost : Bool := false

/-- A word that the port applies: its status, and the word written to the instance that PORT_SEL names at that moment (R91). An absent
link instance gives NO_TARGET before R102 is looked at (Table 3.4 makes no access at all there; log entry 98). -/
def State.mpWrite (s : State) (a v hw : Nat) : State × Nat :=
  match s.portInst a with
  | none => (s, stNoTarget)
  | some i =>
    let q := (s.writeCycle .mp).writeReg .mp a i v hw
    (q.1, if q.2 = .expertOff then stExpert else stOk)

/-- Whether a word is CHIP_RST's value, which ends the frame with the reset (R498). -/
def resetWord (a v : Nat) : Bool := a = 0x33C && v % 256 = 0xA5

/-- One word of a write frame (R80, R85 to R87). -/
def WriteRun.word (r : WriteRun) (opcode addr : Byte) (k : Nat) (w : Word32 × Byte) : WriteRun :=
  let base := frameBase opcode addr
  let a := base + 4 * k
  let place := placeStatus opcode base a
  let crcBad := w.2.toNat != wordCrc opcode a w.1
  let give (s : State) (st : Nat) (failed applied : Bool) : WriteRun :=
    { s := s.mpStatus st, failed := failed, applied := r.applied + b2n applied, miso := r.miso ++ [BitVec.ofNat 8 st],
      ok := r.ok && st = stOk }
  if r.lost then r
  else if r.failed then give r.s stCrc true false
  else if place = stEnd then give r.s stEnd false false
  else if crcBad then give r.s stCrc true false
  else if place != stOk then give r.s place false false
  else
    let q := r.s.mpWrite a w.1.toNat 0
    if q.2 = stOk && resetWord a w.1.toNat then ⟨q.1, false, 0, [], true, true⟩ else give q.1 q.2 false (q.2 = stOk)

/-- The words of a write frame in order; BURST_DONE gives the number applied (R86, Table 3.7). -/
def State.writeWords (s : State) (opcode addr : Byte) (ws : List (Word32 × Byte)) : WriteRun :=
  let s := s.setFld .MP_STAT_BURST_DONE 0 0
  let r := (ws.zipIdx).foldl (fun (r : WriteRun) (e : (Word32 × Byte) × Nat) => r.word opcode addr e.2 e.1)
    (⟨s, false, 0, [], true, false⟩ : WriteRun)
  { r with s := r.s.setFld .MP_STAT_BURST_DONE 0 (min r.applied 0xFFFF) }

def State.writeFrame (s : State) (opcode addr : Byte) (ws : List (Word32 × Byte)) : State :=
  let r := s.writeWords opcode addr ws
  r.s.endFrame r.miso (if r.lost then [] else writeLine r.miso) r.ok

/-! ### The frame commands -/

/-- A frame that starts too soon after a reset is ignored (R530). -/
def State.onPort (s : State) (f : State → State) : State := if s.clk < s.portAt then s else f s

/-- A frame whose operands are those of a frame of its kind. -/
def framed (ok : Bool) (s : State) (f : State → State) : Answer := liveIf ok s fun s => s.onPort f

def execSingleRead (opcode addr : Byte) (s : State) : Answer :=
  framed (frameOp opcode = 0) s fun s => s.readFrame opcode addr 1

def execSingleWrite (opcode addr : Byte) (data : Word32) (crc : Byte) (s : State) : Answer :=
  framed (frameOp opcode = 1) s fun s => s.writeFrame opcode addr [(data, crc)]

def execBurstRead (opcode addr : Byte) (n : Nat) (s : State) : Answer :=
  framed (frameOp opcode = 2) s fun s => s.readFrame opcode addr n

def execBurstWrite (opcode addr : Byte) (ws : List (Word32 × Byte)) (s : State) : Answer :=
  framed (frameOp opcode = 3) s fun s => s.writeFrame opcode addr ws

/-- R89: the complete words of a write frame that CS# cuts short apply, the incomplete one is discarded. A write frame cut short before
its first complete word is the last write frame too, and leaves BURST_DONE 0 (log entry 98). -/
def State.shortWrite (s : State) (opcode addr : Byte) (ws : List (Word32 × Byte)) : State :=
  let r := if frameOp opcode % 2 = 1 then s.writeWords opcode addr ws else ⟨s, false, 0, [], true, false⟩
  if r.lost then r.s.endFrame [] [] true
  else (r.s.setFld .MP_STAT_SHORT_FRAME 0 1).endFrame r.miso (if r.miso.isEmpty then [] else writeLine r.miso) false

/-- Only a burst write can hold complete words when it is cut short. -/
def execShortFrame (opcode addr : Byte) (ws : List (Word32 × Byte)) (s : State) : Answer :=
  framed (ws.isEmpty || frameOp opcode = 3) s fun s => s.shortWrite opcode addr ws

/-! ### Register accesses through any path -/

/-- A word at offset `a` of the map as a single write frame carries it: status, BURST_DONE and count as those of the frame (R79, R86,
R91, R547). -/
def State.portWrite (s : State) (a v hw : Nat) : State :=
  s.onPort fun s =>
  let s := s.setFld .MP_STAT_BURST_DONE 0 0
  if a % 4 != 0 then (s.mpStatus stAlign).bump .MP_ERR_COUNT
  else
    let q := s.mpWrite a v hw
    if q.2 = stOk && resetWord a v then q.1
    else
      let s := (q.1.setFld .MP_STAT_BURST_DONE 0 (b2n (q.2 = stOk))).mpStatus q.2
      s.on (q.2 != stOk) fun s => s.bump .MP_ERR_COUNT

/-- A write of one register through a path, as its frame or request carries it: over the management port to the instance that PORT_SEL
names (R91), over a paged path to instance `inst`. A virtual function reaches only its own instances (R76). -/
def State.pathWrite (s : State) (p : Path) (reg inst v : Nat) : State :=
  match p with
  | .mp => s.portWrite reg v 0
  | .vf t =>
    let mine := if reg < 0x800 then t.val = inst else s.ownsChan t inst
    let s := (s.hostUp p).writeCycle p
    if reg < 0x400 || 0xC00 ≤ reg || !mine then s.bump .MP_ERR_COUNT
    else
      let r := s.writeReg p reg inst v 0
      r.1.countTook r.2
  | _ =>
    let r := ((s.hostUp p).writeCycle p).writeReg p reg inst v 0
    r.1.countTook r.2

/-- A register write as its path carries it: over the management port to the instance that PORT_SEL names, over the paged
paths in the forms of R77. -/
def State.regWrite (s : State) (w : RegWrite) : State :=
  match w.path with
  | .mp => s.portWrite (w.off.toNat % 0x1000) (w.data.toNat % 2 ^ 32) w.hw.toNat
  | p => (s.hostUp p).writeSpan p w.off.toNat w.size.val w.be.toNat w.data.toNat w.hw.toNat

/-- R10, R77. -/
def execRegisterWrite (w : RegWrite) (s : State) : Answer := live s fun s => s.regWrite w

/-- R498: a write to CHIP_RST, which is the word at 0x33C. -/
def execChipRst (w : RegWrite) (s : State) : Answer :=
  live s fun s => s.regWrite { w with off := BitVec.ofNat 19 (w.off.toNat / 0x1000 * 0x1000 + 0x33C) }

/-- R30, R546: a read through a paged path of `len` bytes at `off`, or of the word over the management port. -/
def execTickCountLo (p : Path) (off : BitVec 19) (len : Nat) (s : State) : Answer :=
  live s fun s =>
    match p with
    | .mp => s.onPort fun s => s.readFrame 0x00 0x88 1
    | _ =>
      let r := (s.hostUp p).readSpan p off.toNat len
      { r.1 with bus := r.2 }

def execTickCommit (p : Path) (v : Word32) (s : State) : Answer := live s fun s => s.pathWrite p 0x084 0 v.toNat
def execEmbCommit (p : Path) (v : Word32) (s : State) : Answer := live s fun s => s.pathWrite p 0x228 0 v.toNat
def execDmpCommit (p : Path) (v : Word32) (s : State) : Answer := live s fun s => s.pathWrite p 0x154 0 v.toNat
def execChCommit (p : Path) (c : Fin 64) (v : Word32) (s : State) : Answer := live s fun s => s.pathWrite p 0x8C0 c v.toNat
def execStrmCommit (p : Path) (c : Fin 64) (v : Word32) (s : State) : Answer := live s fun s => s.pathWrite p 0xA18 c v.toNat
def execKvPoolCommit (p : Path) (t : Fin 16) (v : Word32) (s : State) : Answer :=
  live s fun s => s.pathWrite p 0x60C t v.toNat
def execXbCommit (p : Path) (v : Word32) (s : State) : Answer := live s fun s => s.pathWrite p 0x11C 0 v.toNat
def execNodeCommit (p : Path) (v : Word32) (s : State) : Answer := live s fun s => s.pathWrite p 0xE0C 0 v.toNat
def execHearthCommit (p : Path) (t : Fin 16) (v : Word32) (s : State) : Answer :=
  live s fun s => s.pathWrite p 0x410 t v.toNat
def execQueueCommit (p : Path) (t : Fin 16) (v : Word32) (s : State) : Answer :=
  live s fun s => s.pathWrite p 0x420 t v.toNat
def execClkCommit (p : Path) (v : Word32) (s : State) : Answer := live s fun s => s.pathWrite p 0x304 0 v.toNat
def execThermCommit (p : Path) (v : Word32) (s : State) : Answer := live s fun s => s.pathWrite p 0x314 0 v.toNat
def execCalCommit (p : Path) (v : Word32) (s : State) : Answer := live s fun s => s.pathWrite p 0x3E0 0 v.toNat
def execEqCommit (p : Path) (n : Fin 24) (v : Word32) (s : State) : Answer := live s fun s => s.pathWrite p 0xD94 n v.toNat
def execTrayCommit (p : Path) (v : Word32) (s : State) : Answer := live s fun s => s.pathWrite p 0xF14 0 v.toNat
def execKindle (p : Path) (v : Word32) (s : State) : Answer := live s fun s => s.pathWrite p 0x094 0 v.toNat
def execBankReq (p : Path) (v : Word32) (s : State) : Answer := live s fun s => s.pathWrite p 0x098 0 v.toNat
def execFenKill (p : Path) (v : Word32) (s : State) : Answer := live s fun s => s.pathWrite p 0x070 0 v.toNat
def execSliceKill (p : Path) (v : Word32) (s : State) : Answer := live s fun s => s.pathWrite p 0x1A0 0 v.toNat
def execMixKill (p : Path) (v : Word32) (s : State) : Answer := live s fun s => s.pathWrite p 0x1E0 0 v.toNat
/-- R221: TRACE_CTL written with its whole value. -/
def execArm (p : Path) (v : Word32) (s : State) : Answer := live s fun s => s.pathWrite p 0x1A4 0 v.toNat
def execHeatForce (p : Path) (hi : Bool) (v : Word32) (s : State) : Answer :=
  live s fun s => s.pathWrite p (0x260 + 4 * b2n hi) 0 v.toNat
def execKvTagReset (p : Path) (v : Word32) (s : State) : Answer := live s fun s => s.pathWrite p 0x2A0 0 v.toNat
def execKvPoolTopWrite (p : Path) (t : Fin 16) (v : Word32) (s : State) : Answer :=
  live s fun s => s.pathWrite p 0x610 t v.toNat
def execRingPeerIdx (p : Path) (c : Fin 64) (v : Word32) (s : State) : Answer :=
  live s fun s => s.pathWrite p 0xA24 c v.toNat
def execSqTail (p : Path) (t : Fin 16) (v : Word32) (s : State) : Answer := live s fun s => s.pathWrite p 0x424 t v.toNat
def execReset (p : Path) (t : Fin 16) (v : Word32) (s : State) : Answer := live s fun s => s.pathWrite p 0x43C t v.toNat
def execLeave (p : Path) (v : Word32) (s : State) : Answer := live s fun s => s.pathWrite p 0xE08 0 v.toNat
def execDamp (p : Path) (v : Word32) (s : State) : Answer := live s fun s => s.pathWrite p 0x330 0 v.toNat

/-- CH_CTRL's bits as they stand, for a write that changes one of them. -/
def State.chCtrl (s : State) (c : Nat) : Nat := s.fld .CH_CTRL_PAUSE c * 2 + s.fld .CH_CTRL_ENABLE c * 4

/-- The channel that a write of a channel register naming channel `c` reaches (R91). -/
def State.pathChan (s : State) (p : Path) (c : Nat) : Nat := if p = .mp then s.fld .PORT_SEL_CHAN_SEL else c

/-- CH_CTRL of a channel written with `v` of the channel's own state, and the hardware clear `hw` of the same cycle: over the management
port the channel that PORT_SEL names (R91). A virtual function reaches only channels of its own hearth (R76). -/
def State.chanPath (s : State) (p : Path) (c hw : Nat) (v : Nat → Nat) : State :=
  match p with
  | .mp => s.portWrite 0x800 (v (s.fld .PORT_SEL_CHAN_SEL)) hw
  | .vf t =>
    let s := (s.hostUp p).writeCycle p
    if s.ownsChan t c then (s.writeReg p 0x800 c (v c) hw).1 else s.bump .MP_ERR_COUNT
  | _ => (((s.hostUp p).writeCycle p).writeReg p 0x800 c (v c) hw).1

/-- R305: START and the other fields of CH_CTRL in `v`; `completing` when the FJ-24 clears START in the same cycle. -/
def execStart (p : Path) (c : Fin 64) (v : Word32) (completing : Bool) (s : State) : Answer :=
  live s fun s => s.chanPath p c (b2n completing) fun _ => v.toNat

/-- R318: PAUSE written with 1, the other fields as they stand. -/
def execPause (p : Path) (c : Fin 64) (s : State) : Answer :=
  live s fun s => s.chanPath p c 0 fun c => orBit (s.chCtrl c) 1

/-- R308: ENABLE written with 1, the other fields as they stand. -/
def execEnable (p : Path) (c : Fin 64) (faulting : Bool) (s : State) : Answer :=
  live s fun s => s.chanPath p c (b2n faulting * 4) fun c => orBit (s.chCtrl c) 2

end Sys2Proof.Machine
end

