-- ==== Sys2Proof/Machine/Operands.lean ====
section
/-! DEFINITION. Operands: descriptor pointers and descriptor reads (R124 to R130, R158), element formats (R115, Table 4.2),
layouts and their address arithmetic (R117 to R123, R550). -/

namespace Sys2Proof.Machine

/-! ### Checked accesses -/

/-- In place of a hearth: work that passed its checks at its issue, and is only looked up again (R127). -/
def passed : Nat := 16

/-- R464 for `n` bytes at a computed address; one with a bit above bit 55 is a hole (R107, R263). -/
def State.access (s : State) (t ga n : Nat) (k : AKind) : Chk Unit :=
  let c := if t = passed then 0 else if 2 ^ 56 ≤ ga then 0x01 else s.hearthFault t ga n k
  need (c = 0) { cause := c, addr := ga % 2 ^ 56, len := n }

/-- What a fault does beside its records: R282 counts a refused write to a plan image. -/
def State.countFlaw (s : State) (f : Flaw) : State := s.countSeal f.cause

/-! ### Descriptor pointers (Table 5.3) -/

def ptrIdx (p : Nat) : Nat := bitsOf p 0 22
def ptrGen (p : Nat) : Nat := bitsOf p 22 8
def ptrAbsent (p : Nat) : Bool := p % 2 ^ 30 = 0
def ptrAddr (p : Nat) : Nat := 0x1000000000 + ptrIdx p * 64

/-- R129 steps 1 and 2: placement, then the checked read of `n` bytes at a local staging address. -/
def State.readStaging (s : State) (t a align n : Nat) : Chk (List Byte) := do
  need (regionOf a = some .staging && a + n ≤ Region.limit .staging && a % align = 0) (dchk 0x0B)
  s.access t (s.global a) n .r
  return s.bytes a n

/-- The 64 bytes a pointer names (R158, R125). -/
def State.readPtr (s : State) (t p : Nat) : Chk (List Byte) := do
  need (ptrGen p != 0 || ptrIdx p = 0) (ichk 0x02)
  need (ptrIdx p < 2621440) (dchk 0x0B)
  s.readStaging t (ptrAddr p) 64 64

/-- KIND, then GEN (R126). -/
def kindGen (b : List Byte) (kind gen : Nat) : Chk Unit := do
  need (bnum b 0 1 = kind) (dchk 0x01)
  need (bnum b 1 1 = gen && bnum b 1 1 != 0) (dchk 0x02)

/-! ### Layouts (Table 4.3) -/

/-- A layout descriptor's fields; every list has NDIM members, but for `ext6`, which is EXTENT[0..5]. -/
structure Layout where
  elem : Nat
  ndim : Nat
  align : Nat
  /-- padding is left unwritten -/
  padKeep : Bool
  base : Nat
  ext : List Nat
  t1 : List Nat
  t2 : List Nat
  ordE : List Nat
  ordI : List Nat
  ordO : List Nat
  deriving DecidableEq, Repr

def prod (l : List Nat) : Nat := l.foldl (· * ·) 1

def order (x n : Nat) : List Nat := (upTo n).map fun k => bitsOf x (3 * k) 3

/-- R118: a permutation of 0 to n − 1, then zeros. -/
def orderOk (x n : Nat) : Bool :=
  ((upTo n).all fun d => (order x n).contains d) && (upTo 6).all fun k => k < n || bitsOf x (3 * k) 3 = 0

def Layout.parse (b : List Byte) : Layout :=
  let n := bnum b 3 1 % 8
  let o := bnum b 52 8
  { elem := bnum b 2 1, ndim := n, align := bnum b 4 1, padKeep := (bnum b 5 1).testBit 0, base := bnum b 8 8,
    ext := (upTo n).map fun d => bnum b (16 + 4 * d) 4, t1 := (upTo n).map fun d => bnum b (40 + d) 1 + 1,
    t2 := (upTo n).map fun d => bnum b (46 + d) 1 + 1, ordE := order (bitsOf o 0 18) n, ordI := order (bitsOf o 18 18) n,
    ordO := order (bitsOf o 36 18) n }

/-- Inner tiles and outer tiles along each dimension. -/
def Layout.inner (l : Layout) : List Nat := List.zipWith ceilDiv l.ext l.t1
def Layout.outer (l : Layout) : List Nat := List.zipWith ceilDiv l.inner l.t2

/-- Elements, data bits and bytes of an inner tile; bytes of an outer tile, and of its padded place (R121). -/
def Layout.elems (l : Layout) : Nat := prod l.t1
def Layout.width (l : Layout) : Nat := elemBits l.elem
def Layout.tb1 (l : Layout) : Nat := l.elems * l.width / 8 + (if isMx l.elem then l.elems / 32 else 0)
def Layout.tb2raw (l : Layout) : Nat := prod l.t2 * l.tb1
def Layout.tb2 (l : Layout) : Nat := roundUp l.tb2raw (2 ^ l.align)
/-- R122. -/
def Layout.size (l : Layout) : Nat := prod l.outer * l.tb2

/-- The mixed-radix number of `v` under an order whose first entry is fastest (R121). -/
def lin (v ord ext : List Nat) : Nat :=
  ord.reverse.foldl (fun r d => r * ext.getD d 1 + v.getD d 0) 0

/-- Coordinates from the number, with dimension 0 fastest. -/
def unlin (ext : List Nat) (k : Nat) : List Nat :=
  (ext.foldl (fun (r : List Nat × Nat) e => (r.1 ++ [r.2 % e], r.2 / e)) ([], k)).1

/-- Where an element lies: outer tile, inner tile within it, element within that (R121). -/
structure Place where
  lo : Nat
  li : Nat
  le : Nat

def Layout.place (l : Layout) (x : List Nat) : Place :=
  let e := List.zipWith (· % ·) x l.t1
  let q := List.zipWith (· / ·) x l.t1
  let i := List.zipWith (· % ·) q l.t2
  let o := List.zipWith (· / ·) q l.t2
  { lo := lin o l.ordO l.outer, li := lin i l.ordI l.t2, le := lin e l.ordE l.t1 }

/-- Byte offset of an inner tile within the footprint. -/
def Layout.tileOff (l : Layout) (lo li : Nat) : Nat := lo * l.tb2 + li * l.tb1

/-- Bit offset of an element from BASE (R121). -/
def Layout.bitOff (l : Layout) (x : List Nat) : Nat :=
  let p := l.place x
  8 * l.tileOff p.lo p.li + p.le * l.width

/-- Byte offset of an element's shared scale from BASE. -/
def Layout.scaleOff (l : Layout) (x : List Nat) : Nat :=
  let p := l.place x
  l.tileOff p.lo p.li + l.elems * l.width / 8 + p.le / 32

def Layout.inside (l : Layout) (x : List Nat) : Bool := (List.zipWith (fun a e => decide (a < e)) x l.ext).all id

/-- Regions of this chip that an engine's operands can lie in (Table 12.2). -/
def engineRegion (a : Nat) : Bool := regionOf a != some .tile && regionOf a != some .mirror

/-- The footprint lies in one region of its node, without holes (R122, R110), that the engines reach (R396). -/
def State.footOk (s : State) (base n : Nat) : Bool :=
  if s.isOwn base then s.spanOk (localOf base) n && engineRegion (localOf base) else spanFar (localOf base) n

/-- Table 4.4 codes 0x03 to 0x0A on a layout descriptor. -/
def State.checkLayout (s : State) (b : List Byte) : Chk Layout := do
  let l := Layout.parse b
  let n := l.ndim
  let z (i k : Nat) : Bool := bnum b i k = 0
  need (bnum b 3 1 < 8 && bnum b 5 1 < 2 && z 6 2 && z 15 1 && bnum b 52 8 < 2 ^ 54 && z 60 4) (dchk 0x03)
  need (1 ≤ n && n ≤ 6) (dchk 0x04)
  need (elemOk l.elem) (dchk 0x05)
  let o := bnum b 52 8
  need (orderOk (bitsOf o 0 18) n && orderOk (bitsOf o 18 18) n && orderOk (bitsOf o 36 18) n) (dchk 0x06)
  need ((upTo 6).all fun d =>
    if d < n then bnum b (16 + 4 * d) 4 != 0 else z (16 + 4 * d) 4 && z (40 + d) 1 && z (46 + d) 1) (dchk 0x07)
  need (l.elems ≤ 65536 &&
    (if isMx l.elem then l.t1.getD (l.ordE.getD 0 0) 1 % 32 = 0 else l.elems * l.width % 8 = 0)) (dchk 0x08)
  need (l.align ≤ 16 && l.base % 2 ^ l.align = 0) (dchk 0x09)
  need (s.footOk l.base l.size) (dchk 0x0A)
  return l

/-- A layout descriptor behind a pointer of an instruction or command. -/
def State.readLayout (s : State) (t p : Nat) : Chk Layout := do
  let b ← s.readPtr t p
  kindGen b 0x01 (ptrGen p)
  s.checkLayout b

/-! ### Source bytes -/

/-- `n` bytes from `a` on, if all of them are in the cache. -/
def cached (cache : List (Nat × Byte)) (a : Nat) : Nat → Option (List Byte)
  | 0 => some []
  | n + 1 =>
    match cache.find? (·.1 = a) with
    | none => none
    | some e => (cached cache (a + 1) n).map (e.2 :: ·)

/-- What asking for source bytes came to. -/
inductive Src where
  | bytes (s : State) (b : List Byte)
  | waits (s : State)
  | absent

/-- Source bytes at global `ga`: read here, or taken from the cache, or asked for over a link. -/
def State.source (s : State) (x : Remote) (cache : List (Nat × Byte)) (ga n : Nat) : Src :=
  if s.onChip ga then
    let r := s.localRead (localOf ga) n
    .bytes r.1 r.2
  else
    match cached cache ga n with
    | some b => .bytes s b
    | none =>
      if s.reads.any fun r => r.owner = x.owner && r.addr = ga && r.len = n then .waits s
      else
        match s.postRead ga n x with
        | (s, .absent) => let _ := s; .absent
        | (s, _) => .waits s

/-- The bytes of several ranges, in order; every range that is missing is asked for. -/
def State.sources (s : State) (x : Remote) (cache : List (Nat × Byte)) (l : List (Nat × Nat)) : Src :=
  l.foldl
    (fun r e =>
      match r with
      | .absent => .absent
      | .bytes s b =>
        (match s.source x cache e.1 e.2 with
         | .bytes s c => .bytes s (b ++ c)
         | .waits s => .waits s
         | .absent => .absent)
      | .waits s => (match s.source x cache e.1 e.2 with | .bytes _ _ => .waits s | .waits s => .waits s | .absent => .absent))
    (.bytes s [])

end Sys2Proof.Machine
end

