-- ==== Sys2Proof/Machine/Pipes.lean ====
section
/-! DEFINITION. What ember pipes ask of the crossbar and what an ember's accesses wait for (R254, R255, R263, R266 to R269, R274, R276, R277,
R401, R402, R408), and the reed path (R352 to R354, R358). -/

namespace Sys2Proof.Machine

/-! ### Registers and identity -/

/-- A0 reads 0 (R254). -/
def Ember.a (m : Ember) (i : Nat) : Nat := if i = 0 then 0 else (mget 0 i m.regs).toNat

/-- A write to A0 is discarded. -/
def Ember.setA (m : Ember) (i v : Nat) : Ember :=
  if i = 0 then m else { m with regs := mput 0 i (BitVec.ofNat 64 v) m.regs }

/-- Consecutive registers from `i`, least significant bytes in the lowest (R263). -/
def Ember.setWide (m : Ember) (i : Nat) : List Byte → Nat → Ember
  | _, 0 => m
  | bs, k + 1 => (m.setA i (leNat (bs.take 8))).setWide (i + 1) (bs.drop 8) k

/-- The low `n` bytes of the registers from `i` on. -/
def Ember.wide (m : Ember) (i n : Nat) : List Byte :=
  ((upTo (ceilDiv n 8)).flatMap fun k => leBytes 8 (m.a (i + k))).take n

/-- EMBER_TAG (R255). -/
def State.emberTag (s : State) (e : Nat) : Nat := (s.ember e).incarn * 2048 + e

/-- Who an ember's work completes for (R157, R274). -/
def State.emberCtx (s : State) (e : Nat) (cq : Bool) (pc : Nat) : Ctx :=
  { hearth := (s.ember e).hearth, origin := 1, tag := s.emberTag e, accept := s.now, start := s.now, cq := cq, pc := pc,
    ember := e, plan := (s.ember e).plan }

def State.emberRemote (s : State) (e : Nat) : Remote :=
  { hearth := (s.ember e).hearth, owner := .ember e (s.emberTag e), planned := (s.ember e).planned, tag := s.emberTag e,
    uid := if (s.ember e).planned then (s.plan (s.ember e).plan).uid else 0,
    plan := if (s.ember e).planned then some (s.ember e).plan else none }

/-! ### The end of an instruction or an ember -/

/-- The tick in which a contracted cycle lies (R482); this one where there is no contract. -/
def State.contractTick (s : State) (c : Nat) : Nat :=
  if c = 0 then s.now
  else if s.clk ≤ c then s.now + (s.cyc + (c - s.clk)) / s.tickLen
  else s.now - ((s.clk - c) + (s.tickLen - 1 - s.cyc)) / s.tickLen

/-- A draining ember whose stores have all gone is freed; `emb.exit` with CQ completes then, late if its plan's contract is over (R60, R259,
R482). -/
def State.tryFree (s : State) (e : Nat) : State :=
  let m := s.ember e
  if m.live && m.draining && m.storesOut then
    let late := m.contract != 0 && m.contract < s.clk
    let x := { s.emberCtx e m.exitCq m.pc with accept := s.contractTick m.contract }
    (s.freeEmber e).on m.exitCq fun s => s.complete x { status := b2n late }
  else s

/-- R274: the faulting instruction at `pc` leaves no register write; its records are posted and the ember drains. -/
def State.emberFail (s : State) (e : Nat) (m : Ember) (pc : Nat) (end_ : End) : State :=
  let x := s.emberCtx e false pc
  let reeds := if m.wait = .reed then m.reeds.filter (·.nowait) else m.reeds
  let s := (s.bump .EMB_FAULT_COUNT).setEmber e { m with draining := true, exitCq := false, wait := .none, reeds := reeds }
  let s := { s with reads := s.reads.filter fun r => r.owner != Owner.ember e x.tag || reeds.any fun c => c.src = r.addr }
  (s.complete x end_).tryFree e

def State.emberFlaw (s : State) (e : Nat) (m : Ember) (pc : Nat) (f : Flaw) : State :=
  (s.countFlaw f).emberFail e m pc f.toEnd

/-- PC of the instruction an ember waits for. -/
def Ember.waitPc (m : Ember) : Nat := m.pc - 16

/-- What an ember waited for is done at the state's cycle: register writes in `m`, next issue at `next`. -/
def State.unblock (s : State) (e : Nat) (m : Ember) (next : Nat) (cq err : Bool) : State :=
  let s := s.setEmber e { m with wait := .none, next := next, cache := if m.reeds.isEmpty then [] else m.cache }
  s.on cq fun s => s.complete (s.emberCtx e true m.waitPc) { err := err }

/-! ### Requests of a pipe (R401, R408) -/

/-- The pipe's request for an ember's access to `n` bytes at a local address, and its number; none while the master port has no TID for it
(R402). Every such access is to one port. A planned one is charged to its plan. -/
def State.pipeAsk (s : State) (e ga n : Nat) (write : Bool) (qos since : Nat) : Option (State × Nat) :=
  let m := s.ember e
  let k : Ask :=
    { master := e / 256, write := write, qos := qos, plan := if m.planned then some m.plan else none
      hearth := some m.hearth, since := since, lat := if write then s.writeLat ga n else s.readLat ga }
  (s.xbAsk k (localOf ga) n).map fun r =>
    (if m.planned then r.1.fenDraw (some m.plan) (fenCost 32 (localOf ga) n write) else r.1, r.2.headD 0)

/-- A load or store: its QOS is XB_QOS_EMB's (R408). -/
def State.memAsk (s : State) (e ga n : Nat) (write : Bool) (since : Nat) : Option (State × Nat) :=
  s.pipeAsk e ga n write (s.emberQos (s.ember e).hearth) since

/-- A planned ember's request found no TID (R407). -/
def State.tidMiss (s : State) (e : Nat) : State := s.on (s.ember e).planned fun s => s.portMiss (s.ember e).plan

/-- Cycle `lat` after the grant of request `id`, once it is granted; of a request whose response has returned, now. -/
def State.xbDue (s : State) (id lat : Nat) : Nat :=
  match s.xb.find? (·.id = id) with
  | none => s.clk
  | some r => (r.got.getD s.clk) + lat

/-! ### Own order -/

/-- R269: a local store before the ember's last `order.sl` is not visible yet, so its later local accesses wait, those of classes
0x1 to 0x8 among them (log entry 92). -/
def State.slHolds (s : State) (m : Ember) : Bool :=
  ((m.buf ++ m.air).any fun b => s.onChip b.addr && b.epoch != m.epoch) || m.reeds.any fun r => s.onChip r.dst && r.epoch != m.epoch

/-- A local access waits for the ember's stores before the last `order.sl` (R269), and for those to the same bytes (R268). -/
def State.mayAccess (s : State) (m : Ember) (ga n : Nat) : Bool := !m.ownStore ga n && !s.slHolds m

/-- What a store of the ember that has become visible does to the ember: a load that waited for it starts (R266), and in checked mode a next
instruction that it held is fetched afresh, 24 cycles later (R276, R277). `was`: the ember before. -/
def State.released_ (s : State) (e : Nat) (was : Ember) : State :=
  let m := s.ember e
  let s := match m.wait with
    | .load ga wid rd sg cq due none =>
      let n := 2 ^ wid
      if s.onChip ga && s.mayAccess m ga n then
        match s.memAsk e ga n false s.clk with
        | none => s.tidMiss e
        | some (s, id) => s.setEmber e { s.ember e with wait := .load ga wid rd sg cq due (some id) }
      else s
    | _ => s
  s.on (m.live && m.win.isEmpty && s.codeHeld was && m.pc = was.pc && !s.codeHeld m && m.stale < s.clk + 24) fun s =>
    (s.setEmber e { s.ember e with stale := s.clk + 24 }).bump .REFETCH_COUNT

/-! ### The reed path (R352 to R354, R358) -/

/-- Source bytes of a copy have come; the copy leaves in the cycle after (Table 10.4). -/
def State.reedData (s : State) (e k : Nat) (bs : List Byte) (at_ : Nat) : State :=
  let m := s.ember e
  s.setEmber e { m with reeds := m.reeds.modify k fun r => { r with data := some bs, at_ := at_ } }

/-- An access through a tile window takes the unit's move port for the cycle (R164): none while the port is not free. -/
def State.tryPort (s : State) (a : Nat) : Option State :=
  if s.clk < s.portFree a then none
  else match tileRow a with
    | none => some s
    | some (cls, u, _) => some (s.setSide (16 + cls) u (s.clk + 1) (s.clk + 1))

/-- The source of copy `k` is read in the cycle in which its request takes effect, or taken from what a link has brought. A channel fenced
meanwhile faults it (R112). -/
def State.reedSource (s : State) (e k : Nat) (r : Reed) : State :=
  if !s.onChip r.src then
    match cached (s.ember e).cache r.src r.n with
    | none => s
    | some bs => s.reedData e k bs (s.clk + 1)
  else if (s.xbGot r.req).isNone || s.clk < s.xbDue r.req (s.sampleLat r.src) then s
  else if s.fenced (localOf r.src) r.n then
    let m := s.ember e
    s.emberFlaw e { m with reeds := m.reeds.eraseIdx k } r.pc { cause := 0x0F, addr := r.src, len := r.n }
  else match s.tryPort (localOf r.src) with
    | none => s
    | some t =>
      let q := t.localRead (localOf r.src) r.n
      q.1.reedData e k q.2 (max s.clk (s.xbDue r.req (s.readLat r.src)) + 1)

/-- Copy `k` is over in this cycle: the ember that waits for it goes on, with its record. -/
def State.reedOver (s : State) (e k : Nat) (r : Reed) : State :=
  let was := s.ember e
  let s := (s.bump .REED_COUNT).setEmber e { was with reeds := was.reeds.eraseIdx k }
  let s := s.on (was.wait = .reed && !r.nowait) fun s => s.setEmber e { s.ember e with wait := .none, next := s.clk + 2, cache := [] }
  let s := s.on (!was.live && (s.ember e).offBus) fun s => s.setEmber e { s.ember e with hearth := 0 }
  let s := s.on (r.cq && was.live) fun s => s.complete (s.emberCtx e true r.pc) {}
  (s.released_ e was).tryFree e

/-- The copy leaves: towards its port, or posted. -/
def State.reedLeave (s : State) (e k : Nat) (r : Reed) (bs : List Byte) : State :=
  let x := s.emberRemote e
  if s.onChip r.dst then
    match s.pipeAsk e r.dst r.n true r.prio s.clk with
    | none => s.tidMiss e
    | some (s, id) =>
      let m := s.ember e
      s.setEmber e { m with reeds := m.reeds.modify k fun r => { r with wreq := some id } }
  else match s.postWrite r.dst bs x with
    | (_, .wait) => s.widMiss x
    | (s, .sent) => s.reedOver e k r
    | (s, .absent) => (s.reedOver e k r).absentWrite r.dst r.n x

/-- A cycle of copy `k`. -/
def State.reedStep (e k : Nat) (s : State) : State :=
  match (s.ember e).reeds[k]? with
  | none => s
  | some r =>
    match r.data, r.wreq with
    | none, _ => s.reedSource e k r
    | some bs, none => if s.clk < r.at_ then s else s.reedLeave e k r bs
    | some bs, some id =>
      if (s.xbGot id).isNone || s.clk < s.xbDue id (s.writeLat r.dst r.n) then s
      else match s.tryPort (localOf r.dst) with
        | none => s
        | some t => (t.localWrite (localOf r.dst) bs).reedOver e k r

/-- A cycle of the copies of every ember, of each the newest first. -/
def State.reedCycle (s : State) : State :=
  forAll ((s.embers.filter fun e => !e.2.reeds.isEmpty).map (·.1))
    (fun e s => forAll (upTo (s.ember e).reeds.length).reverse (fun k s => s.reedStep e k) s) s

end Sys2Proof.Machine
end

