-- ==== Sys2Proof/Machine/DmaCheck.lean ====
section
/-! DEFINITION. DMA descriptors and the checks made when a transfer starts (R289, R290, R292, R294 to R297, R305 to R307, R322,
R330, R331, R335, R343). -/

namespace Sys2Proof.Machine

/-! ### Modes and flags -/

def xmCopy : Nat := 0
def xmStride : Nat := 1
def xmGather : Nat := 2
def xmScatter : Nat := 3
def xmFill : Nat := 4
def xmPlane : Nat := 5
def xmUnplane : Nat := 6
def xmIlv : Nat := 7
def xmDilv : Nat := 8

def isIndexed (x : Nat) : Bool := x = xmGather || x = xmScatter
def isPlanes (x : Nat) : Bool := x = xmPlane || x = xmUnplane
def isReshuffle (x : Nat) : Bool := 5 ≤ x && x ≤ 8

def DmaDesc.funnel (d : DmaDesc) : Bool := d.flags.testBit 0 && !isReshuffle d.xmode
def DmaDesc.check (d : DmaDesc) : Nat := bitsOf d.flags 1 2
def DmaDesc.chain (d : DmaDesc) : Bool := d.flags.testBit 3
def DmaDesc.prio (d : DmaDesc) : Nat := bitsOf d.flags 4 3
def DmaDesc.cq (d : DmaDesc) : Bool := d.flags.testBit 7

/-- Table 9.1. -/
def DmaDesc.parse (b : List Byte) : DmaDesc :=
  { xmode := bnum b 2 1, flags := bnum b 3 1, p1 := bnum b 4 1, src := bnum b 8 8, dst := bnum b 16 8, len := bnum b 24 4,
    cnt := bnum b 28 4, sstride := bnum b 32 4, dstride := bnum b 36 4, idxAddr := bnum b 40 8, idxBound := bnum b 48 4,
    seed := bnum b 52 4, pattern := bnum b 56 8 }

/-- Bytes of an index entry, and its NULL (Table 9.3). -/
def idxBytes (fmt : Nat) : Nat := if fmt = 0 then 4 else if fmt = 1 then 2 else 8
def idxNull (fmt : Nat) : Nat := 2 ^ (8 * idxBytes fmt) - 1

/-! ### Reshuffle shapes (R294, R295) -/

/-- Bytes of one sample, and of one stream's samples. -/
def DmaDesc.es (d : DmaDesc) : Nat := 2 ^ d.p1
def DmaDesc.stream (d : DmaDesc) : Nat := d.len / d.cnt

/-- 64-byte chunks that a stream fills. -/
def DmaDesc.chunks (d : DmaDesc) : Nat := ceilDiv d.stream 64

/-- Units of a transfer that REMAIN counts: bytes, rows, entries or blocks (R319). A block of ILV or DILV is
a 64-byte chunk of every stream (log entry 32). -/
def DmaDesc.units (d : DmaDesc) : Nat :=
  if d.xmode = xmCopy || d.xmode = xmFill then d.len
  else if isPlanes d.xmode then d.len / (64 * d.p1)
  else if d.xmode = xmIlv || d.xmode = xmDilv then d.chunks
  else d.cnt

def wrap64 (x : Nat) : Nat := x % 2 ^ 64

/-- The source and destination rows of a mode that is not indexed, as (address, bytes). -/
def DmaDesc.reads (d : DmaDesc) : List (Nat × Nat) :=
  if d.xmode = xmFill then []
  else if d.xmode = xmStride then (upTo d.cnt).map fun r => (wrap64 (d.src + r * d.sstride), d.len)
  else if d.xmode = xmIlv then (upTo d.cnt).map fun c => (wrap64 (d.src + c * d.sstride), d.stream)
  else [(d.src, d.len)]

def DmaDesc.writes (d : DmaDesc) : List (Nat × Nat) :=
  if d.xmode = xmStride then (upTo d.cnt).map fun r => (wrap64 (d.dst + r * d.dstride), d.len)
  else if d.xmode = xmDilv then (upTo d.cnt).map fun c => (wrap64 (d.dst + c * d.dstride), d.stream)
  else [(d.dst, d.len)]

/-! ### Streams between channels (R330, R331) -/

/-- A stream consumer: its entries come from its FIFO. -/
def State.isConsumer (s : State) (c : Nat) : Bool := s.fld .STRM_CFG_IN_SRC c = 1 || s.fld .STRM_CFG_IN_SRC c = 2

/-- The consumer that channel `c` feeds, if it feeds one. -/
def State.consumerOf (s : State) (c : Nat) : Option Nat :=
  (upTo 64).find? fun k => s.fld .STRM_CFG_IN_SRC k = 1 && s.fld .STRM_CFG_IN_CH k = c

/-! ### Checks -/

/-- Fields that a mode does not use hold 0 (Table 9.1); CNT belongs to the DMA check (R306). -/
def DmaDesc.unusedOk (d : DmaDesc) : Bool :=
  let x := d.xmode
  (isIndexed x || isReshuffle x || d.p1 = 0) &&
  (x = xmStride || isIndexed x || x = xmIlv || d.sstride = 0) && (x = xmStride || x = xmDilv || d.dstride = 0) &&
  (isIndexed x || d.idxAddr = 0) && ((isIndexed x && d.p1 != 2) || d.idxBound = 0) && (x = xmFill || d.pattern = 0) &&
  ((d.check = 1 && !d.chain) || d.seed = 0)

/-- Table 9.1's reserved fields and address bits [63:56] (R8). With a reserved XMODE no use of a field is known. -/
def DmaDesc.reservedOk (b : List Byte) (d : DmaDesc) : Bool :=
  bnum b 5 3 = 0 && d.xmode < 16 && d.src < 2 ^ 56 && d.dst < 2 ^ 56 && d.idxAddr < 2 ^ 56 &&
  (9 ≤ d.xmode || d.unusedOk)

/-- CNT's range in each mode; 0 where the mode has none. -/
def DmaDesc.cntOk (d : DmaDesc) : Bool :=
  if d.xmode = xmStride then 1 ≤ d.cnt && d.cnt ≤ 2 ^ 24
  else if isIndexed d.xmode then 1 ≤ d.cnt && d.cnt ≤ 2 ^ 20
  else if d.xmode = xmIlv || d.xmode = xmDilv then 2 ≤ d.cnt && d.cnt ≤ 64
  else d.cnt = 0

/-- FW, ES_LOG2 and plane strides (R294, R295); LEN splits into whole samples of every stream (log entry 32). -/
def DmaDesc.shapeOk (d : DmaDesc) : Bool :=
  if isIndexed d.xmode then d.p1 ≤ 2
  else if isPlanes d.xmode then 1 ≤ d.p1 && d.p1 ≤ 8 && d.len % (64 * d.p1) = 0
  else if d.xmode = xmIlv || d.xmode = xmDilv then
    let st := if d.xmode = xmIlv then d.sstride else d.dstride
    d.p1 ≤ 2 && d.len % (d.cnt * d.es) = 0 && st % 64 = 0 && d.stream ≤ st
  else true

/-- IDX_ADDR: 0 on a consumer (R330), else a table wholly in local staging SRAM or fen memory (R306). -/
def State.idxOk (s : State) (c : Nat) (d : DmaDesc) : Bool :=
  !isIndexed d.xmode ||
  (if s.isConsumer c then d.idxAddr = 0
   else
    let a := localOf d.idxAddr
    s.isOwn d.idxAddr &&
      match regionOf a with
      | some .fen => a + d.cnt * idxBytes d.p1 ≤ Region.limit .fen
      | some .staging => a + d.cnt * idxBytes d.p1 ≤ Region.limit .staging
      | _ => false)

/-- R335: the producer belongs to the consumer's hearth. -/
def State.producerOk (s : State) (t c : Nat) : Bool := s.fld .STRM_CFG_IN_SRC c != 1 || s.ownsChan t (s.fld .STRM_CFG_IN_CH c)

/-- Source and destination footprints do not overlap (R307). -/
def DmaDesc.apart (d : DmaDesc) : Bool :=
  isIndexed d.xmode || d.reads.all fun r => d.writes.all fun w => !overlaps r.1 r.2 w.1 (w.1 + w.2)

/-- R297. The base and stride of the indexed side count only where an index is multiplied. -/
def DmaDesc.alignedOk (d : DmaDesc) : Bool :=
  let m (x : Nat) : Bool := x % 64 = 0
  let idx := isIndexed d.xmode && d.p1 = 2
  d.funnel ||
  (m d.len && ((idx && d.xmode = xmGather) || m d.src) && ((idx && d.xmode = xmScatter) || m d.dst) &&
    (idx || m d.sstride) && m d.dstride)

/-- The checks of R306 that follow KIND and GEN, then R297 and R307, for a transfer of hearth `t` on channel `c`. -/
def State.checkDma (s : State) (t c : Nat) (b : List Byte) : Chk DmaDesc := do
  let d := DmaDesc.parse b
  let feeds := (s.consumerOf c).isSome
  need (d.reservedOk b) (dchk 0x03)
  need (!(isIndexed d.xmode && d.p1 = 2) || s.expert t) (dchk 0x0C)
  need (d.xmode ≤ 8 && d.check != 3 && d.len != 0 && d.cntOk && d.shapeOk && s.idxOk c d && s.producerOk t c &&
    (!feeds || d.dst = 0) && (feeds || d.apart)) (dchk 0x12)
  need d.alignedOk { cause := 0x02, addr := d.dst, len := d.len }
  if isIndexed d.xmode then
    if s.isConsumer c then return d
    else
      need (d.idxAddr % idxBytes d.p1 = 0) { cause := 0x02, addr := d.idxAddr, len := idxBytes d.p1 }
      s.access t d.idxAddr (d.cnt * idxBytes d.p1) .r
      return d
  else
    needAll d.reads fun r => s.access t r.1 r.2 .r
    if feeds then return d
    else
      needAll d.writes fun w => s.access t w.1 w.2 .w
      return d

/-- The descriptor behind a pointer: KIND and GEN included (R306). -/
def State.readDma (s : State) (t p : Nat) : Chk (List Byte) := do
  let b ← s.readPtr t p
  kindGen b 0x05 (ptrGen p)
  return b

/-- The active CHAN image of channel `c` (R305). -/
def State.chanImage (s : State) (c : Nat) : List Byte := (upTo 16).flatMap fun i => leBytes 4 (s.fld .CH_IMG (c * 16 + i))

/-- R343: the template with the handle's substitutions. -/
def State.ringImage (s : State) (c : Nat) (b : List Byte) (i addr len : Nat) : Chk (List Byte) := do
  let slot := 2 ^ s.fld .RING_CFG_SLOT_LOG2 c
  need (bnum b 2 1 % 16 = xmCopy && len != 0 && len ≤ slot) (dchk 0x12)
  let dst := wrap64 (bnum b 16 8 + i % s.ringN c * slot)
  return b.take 8 ++ leBytes 8 addr ++ leBytes 8 dst ++ leBytes 4 len ++ b.drop 28

/-- The bytes of the descriptor that a transfer runs, checked as far as KIND and GEN (R305, R306, R343). A register-path transfer
takes CH_DESC as it stands when it starts (log entry 29). -/
def State.xferImage (s : State) (c : Nat) (x : Xfer) : Chk (List Byte) := do
  let t := x.ctx.hearth
  match x.ring with
  | some (i, addr, len, _) =>
    let p := s.fld .CH_DESC c
    need (!ptrAbsent p) (dchk 0x12)
    let b ← s.readDma t p
    s.ringImage c b i addr len
  | none =>
    match x.ptr with
    | some p => s.readDma t p
    | none =>
      let p := s.fld .CH_DESC c
      if ptrAbsent p then
        let b := s.chanImage c
        need (bnum b 0 1 = 0x05) (dchk 0x01)
        return b
      else s.readDma t p

end Sys2Proof.Machine
end

