-- ==== Sys2Proof/Machine/DmaMove.lean ====
section
/-! DEFINITION. How a DMA context moves data: checks on data (R300 to R303, R545), read groups and write groups of each mode (R286, R290
to R299, R311), the damper (R314 to R316, R323), and one cycle of the DMA engine (R312, R313, R329, R331, R333). -/

namespace Sys2Proof.Machine

/-! ### CRC-32C and FAST_SUM -/

def crcBits : Nat → Nat → Nat
  | 0, x => x
  | n + 1, x => crcBits n (if x % 2 = 1 then x / 2 ^^^ 0x82F63B78 else x / 2)

/-- R300: the register after some bytes. -/
def crc32c (r : Nat) (bs : List Byte) : Nat := bs.foldl (fun r b => crcBits 8 (r ^^^ b.toNat)) r

/-- A and B of R301, and the held bytes of a partial word (R545). -/
structure Sums where
  a : Nat
  b : Nat
  held : List Byte
  deriving DecidableEq, Repr

def Sums.word (s : Sums) (w : Nat) : Sums :=
  let a := (s.a + w) % 0xFFFFFFFF
  { a := a, b := (s.b + a) % 0xFFFFFFFF, held := [] }

def Sums.byte (s : Sums) (x : Byte) : Sums :=
  if s.held.length = 3 then s.word (leNat (s.held ++ [x])) else { s with held := s.held ++ [x] }

def Sums.bytes (s : Sums) (bs : List Byte) : Sums := bs.foldl Sums.byte s

/-- The end of a stream pads a partial word with zeros (R301). -/
def Sums.finish (s : Sums) : Sums := if s.held.isEmpty then s else s.word (leNat s.held)

/-- Instance of a context's register fields: its channel, or 64 above it for the planned context. -/
def ctxInst (c : Nat) (planned : Bool) : Nat := c + 64 * b2n planned

def State.sums (s : State) (i : Nat) : Sums :=
  { a := s.fld .SUM_A i, b := s.fld .SUM_B i, held := leBytes (s.fld .SUM_PART_COUNT i) (s.fld .SUM_PART_BYTES i) }

def State.setSums (s : State) (i : Nat) (x : Sums) : State :=
  (((s.setFld .SUM_A i x.a).setFld .SUM_B i x.b).setFld .SUM_PART_BYTES i (leNat x.held)).setFld .SUM_PART_COUNT i
    x.held.length

/-- The check starts (R300, R301). -/
def State.checkInit (s : State) (i : Nat) (d : DmaDesc) : State :=
  if d.chain then s
  else if d.check = 1 then s.setFld .CRC_ACC i d.seed
  else if d.check = 2 then s.setSums i ⟨0, 0, []⟩
  else s

/-- The check's registers, and their return to `z`. -/
def State.checkRegs (s : State) (i : Nat) : Nat × Nat × Nat × List Byte :=
  (s.fld .CRC_ACC i, s.fld .SUM_A i, s.fld .SUM_B i, (s.sums i).held)

def State.setCheckRegs (s : State) (i : Nat) (z : Nat × Nat × Nat × List Byte) : State :=
  (s.setFld .CRC_ACC i z.1).setSums i ⟨z.2.1, z.2.2.1, z.2.2.2⟩

/-- The check runs over `bs`. -/
def State.checkRun (s : State) (i : Nat) (d : DmaDesc) (bs : List Byte) : State :=
  if d.check = 1 then s.setFld .CRC_ACC i (crc32c (s.fld .CRC_ACC i) bs)
  else if d.check = 2 then s.setSums i ((s.sums i).bytes bs)
  else s

/-- Written bytes by rising address. -/
def insertBytes (e : Nat × List Byte) : List (Nat × List Byte) → List (Nat × List Byte)
  | [] => [e]
  | f :: r => if e.1 < f.1 then e :: f :: r else f :: insertBytes e r

/-- Bytes enter the destination stream (R302). A DILV transfer writes its planes side by side, so that its check runs over all that it has
written so far, by ascending address. -/
def State.checkBytes (s : State) (c : Nat) (planned : Bool) (a : Nat) (bs : List Byte) : State :=
  let i := ctxInst c planned
  let x := s.dctx c planned
  let s := s.setFld .BYTES_DONE i (min (s.fld .BYTES_DONE i + bs.length) 0xFFFFFFFF)
  if x.desc.xmode = xmDilv && x.desc.check != 0 then
    let w := insertBytes (a, bs) x.wrote
    ((s.setDctx c planned { x with wrote := w }).setCheckRegs i x.acc0).checkRun i x.desc (w.flatMap (·.2))
  else s.checkRun i x.desc bs

/-- The stream ends (R545). -/
def State.checkEnd (s : State) (i : Nat) (d : DmaDesc) : State :=
  if d.check = 2 then s.setSums i (s.sums i).finish else s

/-- R0 of a completed transfer (Table 14.5). -/
def State.checkResult (s : State) (i : Nat) (d : DmaDesc) : Nat :=
  if d.check = 1 then s.fld .CRC_ACC i ^^^ 0xFFFFFFFF
  else if d.check = 2 then s.fld .SUM_B i * 2 ^ 32 + s.fld .SUM_A i
  else 0

/-! ### The read side -/

/-- Where the next bytes are read from, and where they go. -/
def DmaCtx.srcAt (x : DmaCtx) : Nat :=
  let d := x.desc
  if d.xmode = xmStride then wrap64 (x.sbase + x.rpos * d.sstride + x.roff)
  else if d.xmode = xmScatter then wrap64 (x.sbase + x.rpos * d.len + x.roff)
  else if d.xmode = xmGather then (match x.blk with | some (some a) => wrap64 (a + x.roff) | _ => x.forced.getD d.src)
  else if isPlanes d.xmode then wrap64 (x.sbase + x.rpos * (64 * d.p1) + x.roff)
  else if d.xmode = xmIlv then wrap64 (x.sbase + x.roff * d.sstride + x.rpos * 64)
  else if d.xmode = xmDilv then wrap64 (x.sbase + x.rpos * 64 * d.cnt + x.roff)
  else wrap64 (x.sbase + x.roff)

def DmaCtx.dstAt (x : DmaCtx) : Nat :=
  let d := x.desc
  if d.xmode = xmStride then wrap64 (x.dbase + x.rpos * d.dstride + x.roff)
  else if d.xmode = xmGather then wrap64 (x.dbase + x.rpos * d.len + x.roff)
  else if d.xmode = xmScatter then (match x.blk with | some (some a) => wrap64 (a + x.roff) | _ => x.forced.getD d.dst)
  else if isPlanes d.xmode then wrap64 (x.dbase + x.rpos * (64 * d.p1))
  else if d.xmode = xmIlv then wrap64 (x.dbase + x.rpos * 64 * d.cnt)
  else if d.xmode = xmDilv then wrap64 (x.dbase + x.rpos * 64)
  else wrap64 (x.dbase + x.roff)

def DmaCtx.linear (x : DmaCtx) : Bool := x.desc.xmode = xmCopy || x.desc.xmode = xmFill

/-- Bytes of one stream in chunk `k` of a reshuffle (R295). -/
def DmaDesc.chunkLen (d : DmaDesc) (k : Nat) : Nat := min 64 (d.stream - 64 * k)

/-- Whether the current entry is NULL or out of range (R292). -/
def DmaCtx.isNull (x : DmaCtx) : Bool := isIndexed x.desc.xmode && x.blk = some none

/-- The next read group needs no source: FILL, and zeros of a NULL entry. -/
def DmaCtx.noSource (x : DmaCtx) : Bool := x.desc.xmode = xmFill || x.isNull

/-- Bytes of the current row, entry or block that are still to be read; one group of ILV reads one stream. -/
def DmaCtx.unitLeft (x : DmaCtx) : Nat :=
  let d := x.desc
  if x.linear then x.rleft
  else if isPlanes d.xmode then 64 * d.p1 - x.roff
  else if d.xmode = xmIlv then d.chunkLen x.rpos
  else if d.xmode = xmDilv then d.chunkLen x.rpos * d.cnt - x.roff
  else d.len - x.roff

/-- Bytes of the next read group: 16 beats, or 1 in a reshuffle mode, and no more than the share's open budget of a slot (`most` beats). -/
def DmaCtx.readLen (x : DmaCtx) (most : Nat) : Nat :=
  if isReshuffle x.desc.xmode then min 64 x.unitLeft
  else min x.unitLeft (64 * most - (if x.noSource then x.dstAt else x.srcAt) % 64)

/-- The FILL pattern at `n` addresses from `a` on. -/
def DmaDesc.fill (d : DmaDesc) (a n : Nat) : List Byte := (upTo n).map fun i => BitVec.ofNat 8 (d.pattern / 2 ^ (8 * ((a + i) % 8)))

/-- After a read group of `n` bytes. -/
def DmaCtx.afterRead (x : DmaCtx) (n : Nat) : DmaCtx :=
  let last := if x.desc.xmode = xmIlv then x.roff + 1 = x.desc.cnt else decide (x.unitLeft ≤ n)
  if x.linear then { x with roff := x.roff + n, rleft := x.rleft - n }
  else if last then { x with rpos := x.rpos + 1, rleft := x.rleft - 1, roff := 0, blk := none, forced := none }
  else { x with roff := x.roff + (if x.desc.xmode = xmIlv then 1 else n) }

/-! ### The write side -/

/-- R294: fields to planes, and planes to fields, of one block. -/
def planeBlock (fw : Nat) (bs : List Byte) : List Byte := bitBytes (64 * fw) fun k => bitAt bs (k % 512 * fw + k / 512)
def unplaneBlock (fw : Nat) (bs : List Byte) : List Byte := bitBytes (64 * fw) fun k => bitAt bs (k % fw * 512 + k / fw)

/-- R294, R295: what a block that has been read becomes, with the address of its first byte. -/
def DmaDesc.blockOut (d : DmaDesc) (dst : Nat) (bs : List Byte) : List DmaSeg :=
  let m := bs.length / d.cnt
  if d.xmode = xmPlane then [⟨dst, planeBlock d.p1 bs, true, true⟩]
  else if d.xmode = xmUnplane then [⟨dst, unplaneBlock d.p1 bs, true, true⟩]
  else if d.xmode = xmIlv then
    [⟨dst, (upTo bs.length).map (fun i => bs.getD (i / d.es % d.cnt * m + i / d.es / d.cnt * d.es + i % d.es) 0), true, true⟩]
  else
    (upTo d.cnt).map fun c =>
      ⟨wrap64 (dst + c * d.dstride), (upTo m).map (fun i => bs.getD ((i / d.es * d.cnt + c) * d.es + i % d.es) 0), true, c + 1 = d.cnt⟩

/-- Bytes join those that may leave: to the end of the row or entry that is under way, or as one of their own. -/
def joinSeg (g : DmaSeg) : List DmaSeg → List DmaSeg
  | [] => [g]
  | [h] => if !h.ends && h.dst + h.bytes.length = g.dst then [⟨h.dst, h.bytes ++ g.bytes, g.ends, g.unit⟩] else [h, g]
  | h :: r => h :: joinSeg g r

/-- What the bytes of a read group become. -/
def DmaCtx.accept (x : DmaCtx) (r : DmaRead) (bs : List Byte) : DmaCtx :=
  if !isReshuffle x.desc.xmode then { x with ready := joinSeg ⟨r.dst, bs, r.ends, r.unit⟩ x.ready }
  else if r.ends then { x with raw := [], ready := x.ready ++ x.desc.blockOut r.dst (x.raw ++ bs) }
  else { x with raw := x.raw ++ bs }

/-- Bytes in the context's buffer. -/
def DmaCtx.held (x : DmaCtx) : Nat := x.raw.length + ((x.ready.map (·.bytes.length)).foldl (· + ·) 0)

/-- Read groups whose bytes have come, in order, join the write side as far as the 16 KiB buffer has room (R286). -/
def DmaCtx.take (x : DmaCtx) (clk : Nat) : Nat → DmaCtx
  | 0 => x
  | k + 1 =>
    match x.rds with
    | [] => x
    | r :: rest =>
      match r.data with
      | none => x
      | some bs => if clk < r.at_ || 16384 < x.held + bs.length then x else ({ x with rds := rest }.accept r bs).take clk k

/-- Bytes of the next write group: 16 beats, or 1 in a reshuffle mode, up to the end of its row or entry; before that only whole beats (R298).
`flush`: nothing more is read before it. -/
def DmaCtx.writeLen (x : DmaCtx) (most : Nat) (flush : Bool) : Nat :=
  match x.ready with
  | [] => 0
  | g :: _ =>
    let room := 64 * (if isReshuffle x.desc.xmode then 1 else most) - g.dst % 64
    if g.ends || flush then min g.bytes.length room else min ((g.dst + g.bytes.length) / 64 * 64 - g.dst) room

/-- After `n` bytes of the first segment have left. -/
def DmaCtx.afterWrite (x : DmaCtx) (n : Nat) : DmaCtx :=
  match x.ready with
  | [] => x
  | g :: r =>
    let x := { x with done := x.done + n, left := if x.linear then x.left - n else x.left }
    if n < g.bytes.length then { x with ready := { g with dst := g.dst + n, bytes := g.bytes.drop n } :: r }
    else { x with ready := r, pos := x.pos + b2n g.unit, left := if g.unit then x.left - 1 else x.left }

/-- Nothing is on its way from the read side to the write side. -/
def DmaCtx.drained (x : DmaCtx) : Bool := x.rds.isEmpty && x.raw.isEmpty && x.ready.isEmpty

/-- Dropped scatter entries at the front of what is read count as done (R292). -/
def DmaCtx.dropEmpty (x : DmaCtx) : Nat → DmaCtx
  | 0 => x
  | k + 1 =>
    match x.ready with
    | g :: _ => if g.bytes.isEmpty then (x.afterWrite 0).dropEmpty k else x
    | [] => x

/-! ### Index entries (R292, R293, R320, R330) -/

/-- Entry `rpos` of the index table: its bytes as they stood at the start, or, where they have been written since, as the free
value chooses between the two (R293; log entry 10). An entry past CNT, which a resume can ask for, is read as it stands. -/
def State.tableEntry (s : State) (x : DmaCtx) : State × Nat :=
  let w := idxBytes x.desc.p1
  let old := leNat ((x.table.drop (x.rpos * w)).take w)
  let new := s.num (localOf x.desc.idxAddr + x.rpos * w) w
  if old = new || x.desc.cnt ≤ x.rpos then (s, new)
  else ({ s with free := s.free + 1 }, if Config.freeNat s.free % 2 = 0 then old else new)

/-- The block of an index value: none for NULL or out of range. -/
def DmaDesc.block (d : DmaDesc) (v : Nat) : Option Nat :=
  if v = idxNull d.p1 || (d.p1 != 2 && d.idxBound ≤ v) then none
  else if d.p1 = 2 then some v
  else some (wrap64 ((if d.xmode = xmGather then d.src else d.dst) + v * d.sstride))

/-- Bytes of the FIFO that may be taken now (R333). -/
def State.fifoNow (s : State) (x : DmaCtx) : List Byte := (x.fifo.takeWhile fun e => e.1 ≤ s.clk).map (·.2)

/-- The block of the next entry, where its index is known already. -/
def State.peekBlock (s : State) (c : Nat) (x : DmaCtx) : Option (Option Nat) :=
  let w := idxBytes x.desc.p1
  if x.blk.isSome || !isIndexed x.desc.xmode || x.forced.isSome then x.blk
  else if s.isConsumer c then (if (s.fifoNow x).length < w then none else some (x.desc.block (leNat ((s.fifoNow x).take w))))
  else if x.rleft = 0 then none
  else some (x.desc.block (leNat ((x.table.drop (x.rpos * w)).take w)))

/-- R319: the running registers of a context: what is read next, where the next bytes go, and what is left to write. -/
def State.showCur (s : State) (c : Nat) (planned : Bool) : State :=
  let x := { s.dctx c planned with blk := s.peekBlock c (s.dctx c planned) }
  let i := ctxInst c planned
  let dst := ((x.ready.head?.map (·.dst)).or (x.rds.head?.map (·.dst))).getD x.dstAt
  (((s.setFld .SRC_CUR i x.srcAt).setFld .DST_CUR i dst).setFld .REMAIN i x.left).setFld .POS i x.pos

/-- An out-of-range entry counts (R292); NULL does not. -/
def State.countEntry (s : State) (i : Nat) (d : DmaDesc) (pos v : Nat) : State :=
  if v = idxNull d.p1 || d.p1 = 2 || v < d.idxBound then s
  else
    let s := s.on (s.fld .PART_COUNT i = 0) fun s => s.setFld .FIRST_BAD i pos
    s.setFld .PART_COUNT i (s.fld .PART_COUNT i + 1)

/-- The entry of the current unit is read, if it is not yet; it stays as it is while the FIFO does not hold it. -/
def State.readEntry (s : State) (c : Nat) (planned : Bool) : State :=
  let x := s.dctx c planned
  let d := x.desc
  let w := idxBytes d.p1
  let put (s : State) (v : Nat) (fifo : List (Nat × Byte)) : State :=
    (s.countEntry (ctxInst c planned) d x.rpos v).setDctx c planned
      { x with blk := some (match x.forced with | some a => some a | none => d.block v), fifo := fifo }
  if !isIndexed d.xmode || x.blk.isSome || x.rleft = 0 then s
  else if s.isConsumer c then
    (if (s.fifoNow x).length < w then s else put s (leNat ((s.fifoNow x).take w)) (x.fifo.drop w))
  else
    let a := localOf d.idxAddr + x.rpos * w
    let s := s.fenDraw (x.xfer.bind fun f => if planned then some f.ctx.plan else none) (fenCost w a w false)
    let e := s.tableEntry x
    put e.1 e.2 x.fifo

/-! ### The damper -/

/-- Nibble `t` of a pair of registers. -/
def State.nibble (s : State) (lo hi : Fld) (t : Nat) : Nat :=
  if t < 8 then bitsOf (s.fld lo) (4 * t) 4 else bitsOf (s.fld hi) (4 * (t - 8)) 4

def bucketKey (share t : Nat) : Nat := share * 16 + t
def State.credit (s : State) (share t : Nat) : Nat := mget 0 (bucketKey share t) s.bucket
def State.setCredit (s : State) (share t v : Nat) : State := { s with bucket := mput 0 (bucketKey share t) v s.bucket }
def State.lent (s : State) (share t : Nat) : Nat := mget 0 (bucketKey share t) s.borrowed

/-- Whether the damper limits the open groups of hearth `t` (R314, R316, R323). -/
def State.damped (s : State) (t : Nat) : Bool := chipWarm ≤ s.chip && !s.fbit .DMP_BYPASS 0 t

/-- R314, R315: a charge taken from credit, or from credit and borrowing on a share where `lend` allows it. -/
def State.charge (s : State) (t : Nat) (lend : List Nat) (share n : Nat) : Option State :=
  let b := s.credit share t
  if n ≤ b then some (s.setCredit share t (b - n))
  else if lend.contains share && s.lent share t + (n - b) ≤ s.nibble .DMP_BORROW0 .DMP_BORROW1 t * 262144 then
    let s := { s.setCredit share t 0 with borrowed := mput 0 (bucketKey share t) (s.lent share t + (n - b)) s.borrowed }
    some (s.setFbit .DMP_STAT_BORROWED 0 t)
  else none

def State.chargeAll (s : State) (t : Nat) (lend : List Nat) : List (Nat × Nat) → Option State
  | [] => some s
  | e :: r =>
    match (if e.2 = 0 then some s else s.charge t lend e.1 e.2) with
    | none => none
    | some s => s.chargeAll t lend r

/-- What the damper says of a group of hearth `t` that costs `l`: none where the group waits. -/
def State.damp1 (s : State) (t : Nat) (lend : List Nat) (l : List (Nat × Nat)) : Option State :=
  if s.damped t then s.chargeAll t lend (totals l) else some s

/-! ### Issuing groups -/

def dmaRemote (c : Nat) (planned : Bool) (f : Xfer) : Remote :=
  { hearth := f.ctx.hearth, owner := .dma c planned, planned := planned, tag := 0x8000 + ctxInst c planned,
    uid := if planned then f.ctx.ref else 0, plan := if planned then some f.ctx.plan else none }

def dmaAsk (c : Nat) (planned : Bool) (f : Xfer) (d : DmaDesc) (write : Bool) (since lat : Nat) : Ask :=
  { master := 8 + c / 16, write := write, qos := d.prio, plan := if planned then some f.ctx.plan else none,
    hearth := some f.ctx.hearth, since := since, lat := lat, unit := 64 }

/-- The check of the unit that the next read group begins (R297, R307), where the start made none. -/
def State.unitCheck (s : State) (c : Nat) (f : Xfer) (x : DmaCtx) (n : Nat) : Chk Unit :=
  let d := x.desc
  let row := isIndexed d.xmode || d.xmode = xmStride
  let src : List (Nat × Nat) := if x.noSource then [] else [(x.srcAt, if row then d.len else n)]
  let m := if row then d.len else n
  let feeds := (s.consumerOf c).isSome
  let dst : List (Nat × Nat) :=
    if feeds then []
    else if d.xmode = xmDilv then (upTo d.cnt).map fun k => (wrap64 (x.dstAt + k * d.dstride), d.chunkLen x.rpos)
    else if isPlanes d.xmode then [(x.dstAt, 64 * d.p1)]
    else if d.xmode = xmIlv then [(x.dstAt, d.chunkLen x.rpos * d.cnt)]
    else [(x.dstAt, m)]
  if x.checked || (x.roff != 0 && row) || (x.isNull && d.xmode = xmScatter) then .ok ()
  else do
    need (x.isNull || d.funnel || !isIndexed d.xmode || d.p1 != 2 || (x.blk.getD none).getD 0 % 64 = 0)
      { cause := 0x02, addr := (x.blk.getD none).getD 0 % 2 ^ 56, len := d.len }
    need (!isIndexed d.xmode || feeds || src.all fun r => dst.all fun w => !overlaps r.1 r.2 w.1 (w.1 + w.2)) (dchk 0x12)
    needAll src fun r => s.access f.ctx.hearth r.1 r.2 .r
    if x.roff = 0 || x.linear then needAll dst fun w => s.access f.ctx.hearth w.1 w.2 .w

/-- The fault takes effect: the buffer is discarded; what has left becomes visible (R308). -/
def State.endXfer (s : State) (c : Nat) (planned : Bool) (f : Flaw) : State :=
  (s.countFlaw f).setDctx c planned
    { s.dctx c planned with ending := .fault f.cause f.sub f.addr f.len, rds := [], raw := [], ready := [], failing := .running }

/-- A fault at the read side: nothing more is read, and it takes effect after what was read before (R297, R307). -/
def State.failRead_ (s : State) (c : Nat) (planned : Bool) (f : Flaw) : State :=
  (s.countFlaw f).setDctx c planned { s.dctx c planned with failing := .fault f.cause f.sub f.addr f.len }

/-- Beats of a group on a share, at most 16 and no more than the share's open budget of a slot holds (log entry 108). -/
def State.mostBeats (s : State) (planned : Bool) (share ga : Nat) : Nat :=
  if planned || !s.onChip ga || regionOf (localOf ga) != some .fen then 16 else min 16 (max 1 (s.openBudget share / 64))

/-- A pausing context reads on only to the end of its row, entry or block (R318). -/
def State.mayRead (s : State) (c : Nat) (planned : Bool) : Bool :=
  let x := s.dctx c planned
  x.ending = .running && x.failing = .running && x.rleft != 0 && x.next ≤ s.clk && x.held < 16384 &&
  (planned || s.chSt c != chPausing || (x.roff != 0 && !x.linear)) && (!isIndexed x.desc.xmode || x.blk.isSome)

/-- Nothing more is read for now, so that what is held leaves down to its last byte. -/
def State.flushes (s : State) (c : Nat) (planned : Bool) : Bool :=
  let x := s.dctx c planned
  x.rds.isEmpty && (x.rleft = 0 || x.failing != .running || (!planned && s.chSt c = chPausing && x.linear))

def State.nextRead (s : State) (c : Nat) (planned : Bool) : Nat :=
  let x := s.dctx c planned
  x.readLen (s.mostBeats planned 0 (if x.noSource then 0 else x.srcAt))

def State.nextWrite (s : State) (c : Nat) (planned : Bool) : Nat :=
  let x := s.dctx c planned
  x.writeLen (s.mostBeats planned 1 ((x.ready.map (·.dst)).headD 0)) (s.flushes c planned)

/-- What the next read and write group cost the shares (R298, R299, R326, R329). -/
def State.readCost (s : State) (c : Nat) (planned : Bool) : List (Nat × Nat) :=
  let x := s.dctx c planned
  if x.noSource then [] else s.accessCost 64 x.srcAt (s.nextRead c planned) false

def State.writeCost (s : State) (c : Nat) (planned : Bool) : List (Nat × Nat) :=
  let x := s.dctx c planned
  if (s.consumerOf c).isSome then [] else s.accessCost 64 ((x.ready.map (·.dst)).headD 0) (s.nextWrite c planned) true

/-- The read group `r` has issued. -/
def State.putRead (s : State) (c : Nat) (planned : Bool) (n : Nat) (r : DmaRead) : State :=
  let x := s.dctx c planned
  s.setDctx c planned { x.afterRead n with rds := x.rds ++ [r] }

/-- Extra cycles before bytes that have come may leave (Table 9.4). -/
def DmaDesc.lag (d : DmaDesc) : Nat := 1 + (if isReshuffle d.xmode then 3 else if d.funnel then 2 else 0)

/-- The next read group issues: none where it must wait. -/
def State.issueRead (s : State) (c : Nat) (planned : Bool) : Option State :=
  let x := s.dctx c planned
  let n := s.nextRead c planned
  match x.xfer with
  | none => none
  | some f =>
    match s.unitCheck c f x n with
    | .error w => some (s.failRead_ c planned w)
    | .ok _ =>
      let y := x.afterRead n
      let gone := !x.linear && y.rpos != x.rpos
      let r : DmaRead :=
        { dst := x.dstAt, n := n, ends := gone || (x.linear && y.rleft = 0), unit := gone, at_ := s.clk + x.desc.lag }
      if x.isNull && x.desc.xmode = xmScatter then
        some (s.setDctx c planned
          { x with rpos := x.rpos + 1, rleft := x.rleft - 1, roff := 0, blk := none, forced := none
                   rds := x.rds ++ [{ r with n := 0, ends := true, unit := true, data := some [] }] })
      else if x.noSource then
        some (s.putRead c planned n { r with data := some (if x.isNull then List.replicate n 0 else x.desc.fill x.dstAt n) })
      else
        let ga := x.srcAt
        let r := { r with src := some (ga, n) }
        if s.onChip ga then
          (s.xbAsk (dmaAsk c planned f x.desc false s.clk (s.readLat ga)) (localOf ga) n).map fun q =>
            q.1.putRead c planned n { r with reqs := q.2 }
        else if !s.tidRoom (8 + c / 16) false planned then none
        else match s.postRead ga n (dmaRemote c planned f) with
          | (_, .wait) => none
          | (s, .sent) => some (s.putRead c planned n r)
          | (s, .absent) => some (s.failRead_ c planned { cause := 0x21, addr := ga, len := n })

/-- Bytes in aligned 64-byte beats. -/
def beatSplit (a : Nat) (bs : List Byte) : Nat → List (Nat × List Byte)
  | 0 => []
  | k + 1 => if bs.isEmpty then [] else (a, bs.take (64 - a % 64)) :: beatSplit (a + (64 - a % 64)) (bs.drop (64 - a % 64)) k

/-- Bytes enter the index FIFO of the consumer `k` that a context feeds; none where there is too little room (R333). -/
def State.feed (s : State) (k : Nat) (planned : Bool) (bs : List Byte) : Option State :=
  let y := s.dctx k planned
  if 4096 < y.fifo.length + bs.length then none
  else some (s.setDctx k planned { y with fifo := y.fifo ++ bs.map (fun b => (s.clk + 2, b)), producerFaulted := false })

/-- One request for the part of a write group behind one port, and its beats; those that need a read-modify-write are visible later. -/
def State.leavePart (s : State) (c : Nat) (planned : Bool) (f : Xfer) (d : DmaDesc) (a : Nat) (bs : List Byte) : State :=
  let ga := s.global a
  let most := (beatSplit a bs (bs.length + 1)).foldl (fun m e => max m (s.writeLat (s.global e.1) e.2.length)) (s.writeLat ga 0)
  let s := s.xbPut (dmaAsk c planned f d true s.clk most) a bs.length
  let x := s.dctx c planned
  s.setDctx c planned
    { x with out := x.out ++ (beatSplit a bs (bs.length + 1)).map fun e =>
        { ga := s.global e.1, bytes := e.2, req := s.xbNext, lat := s.writeLat (s.global e.1) e.2.length } }

/-- A write group's bytes leave; none where they must wait. -/
def State.deliver (s : State) (c : Nat) (planned : Bool) (f : Xfer) (ga : Nat) (bs : List Byte) : Option State :=
  match s.consumerOf c with
  | some k => s.feed k planned bs
  | none =>
    let d := (s.dctx c planned).desc
    if s.onChip ga then
      if !s.tidRoom (8 + c / 16) true planned then none
      else
        let ps := partsOf (localOf ga) bs.length
        some (forAll (List.zip ps (splitBy (ps.map (·.2)) bs)) (fun e s => s.leavePart c planned f d e.1.1 e.2) s)
    else
      let r := dmaRemote c planned f
      match s.postWrite ga bs r with
      | (s, .sent) => some s
      | (_, .wait) => none
      | (s, .absent) => some (s.absentWrite ga bs.length r)

/-- The next write group leaves: none where it must wait. -/
def State.issueWrite (s : State) (c : Nat) (planned : Bool) : Option State :=
  let x := s.dctx c planned
  match x.xfer, x.ready with
  | some f, g :: _ =>
    let bs := g.bytes.take (s.nextWrite c planned)
    let chk := if x.desc.check = 1 then 3 else if x.desc.check = 2 then 1 else 0
    (s.deliver c planned f g.dst bs).map fun s =>
      let s := s.checkBytes c planned g.dst bs
      let y := (s.dctx c planned).afterWrite bs.length
      s.setDctx c planned { y with due := max y.due (s.clk + (if (s.consumerOf c).isSome then max chk 2 else chk)) }
  | _, _ => none

/-! ### A cycle of a context -/

/-- Writes that are visible by now. -/
def State.pollOut (c : Nat) (planned : Bool) (s : State) : State :=
  let x := s.dctx c planned
  let out := x.out.map fun o => if o.vis.isSome then o else { o with vis := (s.xbGot o.req).map (· + o.lat) }
  let now (o : DmaOut) : Bool := o.vis.any (· ≤ s.clk)
  let s := s.setDctx c planned
    { x with out := out.filter fun o => !now o, due := ((out.filter now).map fun o => o.vis.getD 0).foldl max x.due }
  forAll (out.filter now) (fun o s => s.localWrite (localOf o.ga) o.bytes) s

/-- The bytes of read group `k` of a context, counted from its oldest, are read in the cycle in which its last request takes effect. A
channel that has been fenced meanwhile faults the transfer (R112). -/
def State.sampleRead (c : Nat) (planned : Bool) (k : Nat) (s : State) : State :=
  let x := s.dctx c planned
  match x.rds[k]? with
  | none => s
  | some r =>
    match r.src with
    | none => s
    | some (ga, n) =>
      if r.data.isSome || !s.onChip ga then s
      else
        let gots := r.reqs.map s.xbGot
        let smp := r.sample.or (if gots.all Option.isSome then some (((gots.map (·.getD 0)).foldl max 0) + s.sampleLat ga) else none)
        let put (r : DmaRead) (s : State) : State := s.setDctx c planned { s.dctx c planned with rds := (s.dctx c planned).rds.set k r }
        match smp with
        | none => s
        | some z =>
          if s.clk < z then put { r with sample := smp } s
          else if s.fenced (localOf ga) n then s.endXfer c planned { cause := 0x0F, addr := ga, len := n }
          else
            let q := s.localRead (localOf ga) n
            put { r with sample := smp, data := some q.2, at_ := z + (s.readLat ga - s.sampleLat ga) + x.desc.lag } q.1

/-- The bytes of a remote read reach the oldest read group that waits for them. -/
def fillFirst (addr len at_ : Nat) (bs : List Byte) : List DmaRead → List DmaRead
  | [] => []
  | r :: l => if r.data.isNone && r.src = some (addr, len) then { r with data := some bs, at_ := at_ } :: l else r :: fillFirst addr len at_ bs l

def State.fillRead (s : State) (c : Nat) (planned : Bool) (r : RemoteRead) (bs : List Byte) : State :=
  let x := s.dctx c planned
  s.setDctx c planned { x with rds := fillFirst r.addr r.len (s.clk + x.desc.lag) bs x.rds }

/-- What a context does in a cycle before its groups issue: writes become visible, bytes come in, and the next entry is read. -/
def State.pollCtx (c : Nat) (planned : Bool) (s : State) : State :=
  if (s.dctx c planned).xfer.isNone then s
  else
    let s := s.pollOut c planned
    if (s.dctx c planned).ending != .running then s
    else
      let s := forAll (upTo (s.dctx c planned).rds.length) (fun k s => s.sampleRead c planned k) s
      let x := s.dctx c planned
      let x := (x.take s.clk (x.rds.length)).dropEmpty (x.rds.length + x.ready.length)
      let s := s.setDctx c planned x
      if x.failing != .running && x.drained then s.setDctx c planned { x with ending := x.failing, failing := .running }
      else s.on (x.next ≤ s.clk && x.failing = .running && (planned || s.chSt c != chPausing)) fun s => s.readEntry c planned

/-! ### A cycle of the DMA engine (R312 to R315) -/

/-- Channels with something to do. -/
def State.busyChans (s : State) : List Nat :=
  (s.chans.filter fun e => e.2.opn.xfer.isSome || e.2.pln.xfer.isSome).map (·.1)

/-- The planned context's next group in a direction finds no TID, or no WID (R402, R452). -/
def State.noRoom (s : State) (c : Nat) (write : Bool) : Bool :=
  let x := (s.chan c).pln
  let ga := if write then (x.ready.map (·.dst)).headD 0 else x.srcAt
  if (write && (s.consumerOf c).isSome) || (!write && x.noSource) then false
  else if s.onChip ga || !write then !s.tidRoom (8 + c / 16) write true
  else !(s.widRoom true && s.freeWid.isSome)

/-- A group of a planned context issues if its plan's claims hold it (R312); where it finds no TID or WID, its plan misses (R407). -/
def State.plannedGroup (s : State) (c : Nat) (write : Bool) : State × Bool :=
  match (s.chan c).pln.xfer with
  | none => (s, false)
  | some f =>
    let cost := if write then s.writeCost c true else s.readCost c true
    if !s.planFits f.ctx.plan cost then (s, false)
    else if s.noRoom c write then (s.portMiss f.ctx.plan, false)
    else match (if write then s.issueWrite c true else s.issueRead c true) with
      | none => (s, false)
      | some t => (t.fenDraw (some f.ctx.plan) (cost.filter fun e => e.1 != 2), true)

/-- A planned context's groups of this cycle, the write group first; whether there was one. -/
def State.plannedCycle (s : State) (c : Nat) : State × Bool :=
  let w := if s.nextWrite c true = 0 || (s.chan c).pln.ending != .running then (s, false) else s.plannedGroup c true
  let r := if w.1.mayRead c true then w.1.plannedGroup c false else (w.1, false)
  (r.1.on (w.2 || r.2) fun s => s.showCur c true, w.2 || r.2)

/-- The open context's groups may issue: PAUSED holds it. -/
def State.openRuns (s : State) (c : Nat) : Bool :=
  let x := (s.chan c).opn
  (s.chSt c = chRunning || s.chSt c = chPreempted || s.chSt c = chPausing) && x.xfer.isSome && x.ending = .running

/-- An open group that could issue in this cycle but for the damper and the shares. -/
structure OpenGroup where
  chan : Nat
  hearth : Nat
  prio : Nat
  write : Bool
  cost : List (Nat × Nat)

def State.openGroups (s : State) : List OpenGroup :=
  s.busyChans.flatMap fun c =>
    let x := (s.chan c).opn
    match x.xfer with
    | none => []
    | some f =>
      if !s.openRuns c then []
      else
        (if s.nextWrite c false = 0 then [] else [⟨c, f.ctx.hearth, x.desc.prio, true, totals (s.writeCost c false)⟩]) ++
        (if s.mayRead c false then [⟨c, f.ctx.hearth, x.desc.prio, false, totals (s.readCost c false)⟩] else [])

/-- By falling PRIO, and round robin among equals from the channel after the one granted last (R314). -/
def State.openOrder (s : State) (l : List OpenGroup) : List OpenGroup :=
  (upTo 8).reverse.flatMap fun p =>
    let same := l.filter fun g => g.prio = p
    same.filter (fun g => s.dmaLast < g.chan) ++ same.filter fun g => g.chan ≤ s.dmaLast

/-- Shares on which a group may borrow in a cycle with these groups: none of them waits there whose hearth's bucket holds its charge (R315). -/
def State.lendable (s : State) (l : List OpenGroup) : List Nat :=
  (upTo 3).filter fun k => l.all fun g => let n := (g.cost.getD k (k, 0)).2; n = 0 || s.credit k g.hearth < n

/-- One open group: its charge, and its issue. -/
def State.openGroup (lend : List Nat) (g : OpenGroup) (s : State) : State :=
  match s.damp1 g.hearth lend g.cost with
  | none => s
  | some t =>
    match (if g.write then t.issueWrite g.chan false else t.issueRead g.chan false) with
    | none => s
    | some t => { t with dmaLast := g.chan }.showCur g.chan false

/-- An open context waits for planned work: at a port that has served a planned request in this cycle, or for bytes that plans claim. -/
def State.losesCycle (s : State) (c : Nat) : Bool :=
  let x := (s.chan c).opn
  s.xb.any fun r =>
    r.got.isNone && r.plan.isNone && r.since ≤ s.clk && (x.rds.any (·.reqs.contains r.id) || x.out.any (·.req = r.id)) &&
    ((s.xb.any fun q => q.plan.isSome && q.port = r.port && q.got = some s.clk) ||
     (!s.openFits r.cost && (totals r.cost).all fun e => e.2 ≤ s.openLeft e.1 + s.claimed e.1 (s.cyc / 64)))

/-- STATE of an open context that has lost the cycle to planned work, or has not (R313). -/
def State.preempt (used : List Nat) (c : Nat) (s : State) : State :=
  let st := s.chSt c
  let lost := used.contains c || s.losesCycle c
  if lost then s.on (st = chRunning) fun s => s.setFld .CH_STAT_STATE c chPreempted
  else s.on (st = chPreempted) fun s => s.setFld .CH_STAT_STATE c chRunning

/-- The groups of a cycle, and the crossbar's: planned contexts first (R312), then the open ones of the channels whose planned context
has used none of it. -/
def State.dmaCycle (s : State) : State :=
  let cs := s.busyChans
  let s := forAll cs (fun c s => (s.pollCtx c true).pollCtx c false) s
  let p := cs.foldl (fun (r : State × List Nat) c => let z := r.1.plannedCycle c; (z.1, if z.2 then r.2 ++ [c] else r.2)) (s, [])
  let gs := p.1.openGroups
  let used := p.2.filter fun c => gs.any (·.chan = c)
  let gs := gs.filter fun g => !used.contains g.chan
  let s := forAll (p.1.openOrder gs) (fun g s => s.openGroup (p.1.lendable gs) g) p.1
  let s := s.arbitrate
  forAll cs (fun c s => s.preempt used c) s

/-! ### The clock -/

/-- One register-clock cycle of what the chip does by itself. -/
def State.hwCycle (s : State) : State := (s.reedCycle.dmaCycle.ledgerCycle).advance 1

def State.hwCycles (s : State) : Nat → State
  | 0 => s
  | n + 1 => s.hwCycle.hwCycles n

/-- Something goes on by itself. -/
def State.astir (s : State) : Bool :=
  !s.flights.isEmpty || !s.busyChans.isEmpty || (s.embers.any fun e => !e.2.reeds.isEmpty) || s.xb.any fun r => r.got.isNone

/-- The clock moves forward to cycle `c`, if it is not there yet, and what the hardware does before it comes about (log entry 3). -/
def State.toClk (s : State) (c : Nat) : State := if c ≤ s.clk then s else if s.astir then s.hwCycles (c - s.clk) else s.advanceTo c

/-- Cycles pass, at most `n`, until `p` holds. -/
def State.runUntil (p : State → Bool) (s : State) : Nat → State
  | 0 => s
  | n + 1 => if p s then s else s.hwCycle.runUntil p n

/-- The shares give `cost` in the cycles that follow, at most `n`. -/
def State.payAll (s : State) (plan : Option Nat) (cost : List (Nat × Nat)) : Nat → State
  | 0 => s
  | n + 1 => let z := s.payShares plan cost; if z.2.isEmpty then z.1 else z.1.hwCycle.payAll plan z.2 n

end Sys2Proof.Machine
end

