-- ==== Sys2Proof/Machine/Rings.lean ====
section
/-! DEFINITION. Handle rings (R338 to R342): making a handle, advancing this chip's own index, and telling the peer. -/

namespace Sys2Proof.Machine

/-! ### The own index (R340) -/

/-- Address of entry `i` of channel `c`'s ring (R339). -/
def State.ringEntry (s : State) (c i : Nat) : Nat := s.fld .RING_BASE c + i % s.ringN c * 16

/-- PHASE of index `i` (R339). -/
def State.ringPhase (s : State) (c i : Nat) : Nat := bitsOf i (s.fld .RING_CFG_LOG2N c) 1

/-- Whether the index write to the peer can leave now: a remote one needs a free WID. -/
def State.peerReady (s : State) (c : Nat) : Bool :=
  !s.flag .RING_CFG_PEER_WR c || s.onChip (s.fld .RING_PEER c) || (s.widRoom false && !s.node.leaving && s.freeWid.isSome)

/-- The peer learns of the new own index: a 4-byte write to RING_PEER (R340). A local one that its checks refuse leaves an ash
record and the handle stands. -/
def State.tellPeer (s : State) (c t : Nat) : State :=
  let ga := s.fld .RING_PEER c
  let bs := leBytes 4 (s.fld .RING_OWN_IDX c)
  let r : Remote := { hearth := t, owner := .ring c, tag := 0x8000 + c }
  if !s.flag .RING_CFG_PEER_WR c then s
  else
    match s.access t ga 4 .w with
    | .error f =>
      (s.countFlaw f).postAsh t { cause := f.cause, tag := 0x8000 + c, addr := f.addr, len := f.len, issue := s.now, fail := s.now }
    | .ok _ =>
      if s.onChip ga then s.localWrite (localOf ga) bs
      else match s.postWrite ga bs r with
        | (s, .absent) => s.absentWrite ga 4 r
        | (s, _) => s

/-- The own index advances by 1, and the peer learns of it. -/
def State.ringIndex (s : State) (c t : Nat) : State :=
  ((s.keepRing c).setFld .RING_OWN_IDX c (s.fld .RING_OWN_IDX c + 1)).tellPeer c t

/-! ### Making a handle -/

/-- How putting a handle went: made and visible; its entry on its way over a link; no room; it must wait; a fault. -/
inductive Put where
  | made (s : State)
  | sent (s : State)
  | full
  | busy
  | fault (f : Flaw)

/-- A handle of channel `c` whose entry write is not acknowledged yet. -/
def State.ringBusy (s : State) (c : Nat) : Bool :=
  (s.chan c).opn.ringStage || (s.chan c).pln.ringStage ||
  s.flights.any (fun x => x.ringStage && (match x.done with | .kvRing k .. => k = c | _ => false)) ||
  s.embers.any fun e => match e.2.wait with | .ringPut k .. => k = c | _ => false

/-- The 16 bytes of Table 10.2, TAG and PHASE from the index. -/
def State.handleBytes (s : State) (c addr len tag spec : Nat) : List Byte :=
  let i := s.fld .RING_OWN_IDX c
  leBytes 8 addr ++ leBytes 4 len ++ leBytes 2 tag ++ leBytes 1 spec ++ leBytes 1 (s.ringPhase c i)

/-- R340 on channel `c`'s ring for hearth `t`. -/
def State.putHandle (s : State) (c t : Nat) (x : Remote) (bs : List Byte) : Put :=
  let ga := s.ringEntry c (s.fld .RING_OWN_IDX c)
  if s.ringBusy c then .busy
  else if s.ringFull c then .full
  else
    match s.access t ga 16 .w with
    | .error f => .fault f
    | .ok _ =>
      if s.onChip ga then
        if s.peerReady c then .made ((s.localWrite (localOf ga) bs).ringIndex c t) else .busy
      else match s.postWrite ga bs x with
        | (s, .sent) => .sent s
        | (_, .wait) => .busy
        | (_, .absent) => .fault { cause := 0x21, addr := ga, len := 16 }

end Sys2Proof.Machine
end

