-- ==== Sys2Proof/Machine/Dma.lean ====
section
/-! DEFINITION. DMA transfers from start to completion (R304 to R310, R318 to R321, R335, R336, R341 to R343, R347 to R349), and the
commands about them. -/

namespace Sys2Proof.Machine

/-! ### Completion -/

/-- A transfer that a command of a submission queue asked for: it posts one record whatever its descriptor says (R473). -/
def Xfer.commanded (f : Xfer) : Bool := f.ctx.origin = 0 && !f.reg && f.ring.isNone

/-- How a transfer that has moved everything, or has failed, ends (R309, R310, Table 14.5). -/
def State.xferEnd (s : State) (c : Nat) (planned : Bool) : End :=
  let x := s.dctx c planned
  let i := ctxInst c planned
  match x.ending with
  | .fault cause sub addr len => .faulted cause sub addr len
  | .running =>
    if x.backdraft != 0 then { End.faulted x.backdraft with ash := some x.backAsh }
    else
      let r0 := s.checkResult i x.desc
      if s.fld .PART_COUNT i != 0 then
        { status := 0x02, r0 := r0, r1 := s.fld .PART_COUNT i + s.fld .FIRST_BAD i * 2 ^ 32 }
      else { r0 := r0 }

/-- A producer that faults lets its consumer drain (R336). -/
def State.failConsumer (s : State) (c : Nat) (planned : Bool) : State :=
  match s.consumerOf c with
  | none => s
  | some k => s.setDctx k planned { s.dctx k planned with producerFaulted := true }

/-- The context is idle again; its FIFO stays. -/
def State.clearCtx (s : State) (c : Nat) (planned : Bool) : State :=
  let x := s.dctx c planned
  let s := s.setDctx c planned { fifo := x.fifo, producerFaulted := x.producerFaulted }
  { s with reads := s.reads.filter fun r => r.owner != .dma c planned }

/-- What every completed transfer does beside its record. -/
def State.afterXfer (s : State) (c : Nat) (planned : Bool) (e : End) : State :=
  let s := s.clearCtx c planned
  let s := s.on (e.status = 0x30) fun s => (s.bump .DMA_FAULT_COUNT).failConsumer c planned
  s.on (e.cause = 0x13) fun s => s.bump .STREAM_BROKEN_COUNT

/-- An open transfer completes (R308, R310, R343, R348). -/
def State.closeOpen (s : State) (c : Nat) (f : Xfer) (e : End) : State :=
  let flt := e.status = 0x30
  let st := if e.status = 0 && s.ticksLate f.ctx > 0 then 0x01 else e.status
  let s := (s.checkEnd c (s.chan c).opn.desc).afterXfer c false e
  let s := ((s.setFld .CH_STAT_LAST_STATUS c st).setFld .CH_STAT_DONE c 1).setFld .RING_STAT_WAITING c 0
  let s := if flt then (s.setFld .CH_CTRL_ENABLE c 0).setFld .CH_STAT_STATE c chFaulted else s.setFld .CH_STAT_STATE c chIdle
  let s := s.on f.reg fun s => s.setFld .CH_CTRL_START c (b2n ((s.chan c).queue.any (·.reg)))
  let s := match f.heat with
    | none => s
    | some h => s.setHeat h (if flt then 3 else 2)
  let s := s.on f.ring.isSome fun s => s.ringIndex c f.ctx.hearth
  s.complete f.ctx { e with atag := some (0x8000 + c) }

/-- A planned transfer completes; past its contracted cycle it is late (R310). A fault clears the channel's ENABLE (R308). -/
def State.closePlanned (s : State) (c : Nat) (f : Xfer) (e : End) : State :=
  let late := f.contract != 0 && f.contract < s.clk
  let e := if e.status = 0 && late then { e with status := 0x01 } else e
  let s := (s.checkEnd (ctxInst c true) (s.chan c).pln.desc).afterXfer c true e
  let s := (s.setFld .PSTAT c (if e.status = 0x30 then chFaulted else chIdle)).on (e.status = 0x30) fun s => s.setFld .CH_CTRL_ENABLE c 0
  s.complete f.ctx { e with atag := some (0x8040 + c) }

def State.closeXfer (s : State) (c : Nat) (planned : Bool) (f : Xfer) (e : End) : State :=
  if planned then s.closePlanned c f e else s.closeOpen c f e

/-! ### Start -/

/-- R349: what the heat gate says of a transfer of hearth `t`: none while it must wait. -/
def State.heatGate (s : State) (c t : Nat) : Option (Chk Unit) :=
  let h := s.fld .STRM_CFG_HEAT_SLOT c
  if !s.flag .STRM_CFG_HEAT_EN c then some (.ok ())
  else if h / 4 != t then some (.error (dchk 0x12))
  else if s.heatThen h = 1 then none
  else if s.heatThen h = 3 then some (.error { cause := 0x17 })
  else some (.ok ())

/-- The transfer starts by the short issue of Table 9.4, without a descriptor in memory. -/
def State.shortIssue (s : State) (c : Nat) (f : Xfer) : Bool := f.reg && ptrAbsent (s.fld .CH_DESC c)

/-- First data read group (Table 9.4). -/
def State.firstRead (s : State) (c : Nat) (f : Xfer) (d : DmaDesc) : Nat :=
  let issue := if s.shortIssue c f then 2 else 6
  let li := if s.isConsumer c then 2 else if regionOf (localOf d.idxAddr) = some .fen then 96 else 12
  s.clk + issue + (if isIndexed d.xmode then 1 + li else 0)

/-- R306, R307: the transfer `f` is checked and its context set up, or completes FAULTED. `gate`: what the heat gate said. -/
def State.beginXfer (s : State) (c : Nat) (planned : Bool) (f : Xfer) (gate : Chk Unit) : State :=
  let i := ctxInst c planned
  let cmd := f.commanded && !planned
  let f := { f with ctx := { f.ctx with start := s.now, cq := cmd || planned, faultCq := cmd || planned } }
  let s := if planned then s.setFld .PSTAT c chRunning else s.setFld .CH_STAT_STATE c chRunning
  let s := ((s.setFld .BYTES_DONE i 0).setFld .PART_COUNT i 0).setFld .FIRST_BAD i 0
  let s := s.on (!s.shortIssue c f) fun s => { s with dmaStart := s.clk + 3 }
  let old := s.dctx c planned
  let img : Chk (List Byte) := do
    gate
    need (f.bad = 0) { cause := f.bad, addr := s.ringEntry c ((f.ring.map (·.1)).getD 0), len := 16 }
    s.xferImage c f
  match img with
  | .error w => (s.countFlaw w).closeXfer c planned f w.toEnd
  | .ok b =>
    let d := DmaDesc.parse b
    let f := { f with ctx := { f.ctx with cq := cmd || d.cq, faultCq := cmd } }
    let s := (s.setFld .RUN_MODE_XMODE i (bnum b 2 1)).setFld .RUN_MODE_FLAGS i d.flags
    match s.checkDma f.ctx.hearth c b with
    | .error w => (s.countFlaw w).closeXfer c planned f w.toEnd
    | .ok d =>
      let x : DmaCtx :=
        { xfer := some f, desc := d, sbase := d.src, dbase := d.dst, next := s.firstRead c f d, rleft := d.units, left := d.units,
          checked := !isIndexed d.xmode,
          fifo := old.fifo, producerFaulted := old.producerFaulted,
          table := if isIndexed d.xmode && !s.isConsumer c then s.bytes (localOf d.idxAddr) (d.cnt * idxBytes d.p1) else [] }
      let s := s.checkInit i d
      (s.setDctx c planned { x with acc0 := s.checkRegs i }).showCur c planned

/-- The entry that the open context takes next: open-priority first (R304, R481). -/
def Chan.front (ch : Chan) : Option Xfer := (ch.queue.find? (·.prio)).or ch.queue.head?

/-- Whether the open context may take an entry of hearth `t` (R308, R318, R480; R514 stops open starts). -/
def State.mayTake (s : State) (c t : Nat) : Bool :=
  s.chSt c = chIdle && s.flag .CH_CTRL_ENABLE c && !s.flag .CH_CTRL_PAUSE c && (s.chan c).opn.xfer.isNone && !s.holdFull t

/-- An open start takes the front of the queue, a descriptor-path start no earlier than the engine's next free start cycle (R355). -/
def State.startOpen (s : State) (c : Nat) : State :=
  let go (s : State) (f : Xfer) : State :=
    if !s.mayTake c f.ctx.hearth || (f.prio && s.pastDeadline f.ctx.accept f.deadline) then s
    else match s.heatGate c f.ctx.hearth with
      | none => s
      | some g => (s.setChan c { s.chan c with queue := (s.chan c).queue.erase f }).beginXfer c false f g
  match (s.chan c).front with
  | none => s
  | some f =>
    if !s.mayTake c f.ctx.hearth || s.shortIssue c f then go s f
    else
      let u := s.toClk s.dmaStart
      match (u.chan c).front with
      | none => s
      | some f => go u f

/-- The planned context takes a release that waits for it. -/
def State.startPlanned (s : State) (c : Nat) : State :=
  let ch := s.chan c
  match ch.pwait with
  | [] => s
  | f :: rest =>
    if ch.pln.xfer.isSome then s else (s.setChan c { ch with pwait := rest }).beginXfer c true f (.ok ())

def execDmaTransferStart (c : Fin 64) (s : State) : Answer := live s fun s => s.startOpen c

/-! ### Finishing -/

/-- The transfer's handle on an OUT_DMA ring (R341, R342): none while it waits, else the state and how the transfer ends. -/
def State.ringOut (s : State) (c : Nat) (planned : Bool) (f : Xfer) (e : End) : State × Option End :=
  let x := s.dctx c planned
  let t := f.ctx.hearth
  if x.ringStage then
    (if s.peerReady c then (s.ringIndex c t, some e) else (s, none))
  else
    match s.putHandle c t (dmaRemote c planned f)
        (s.handleBytes c x.desc.dst x.done (s.fld .RING_OWN_IDX c % 65536) 0) with
    | .made s => (s, some e)
    | .sent s => (s.setDctx c planned { s.dctx c planned with ringWait := true, ringStage := true }, none)
    | .fault w => (s.countFlaw w, some w.toEnd)
    | .busy => (s.setDctx c planned { x with ringWait := true }, none)
    | .full =>
      if planned then (s.bump .RING_FULL_COUNT, some (.faulted 0x14))
      else
        let s := s.on (!s.flag .RING_STAT_WAITING c) fun s => (s.setFld .RING_STAT_WAITING c 1).bump .RING_FULL_COUNT
        (s.setDctx c planned { x with ringWait := true }, none)

/-- Everything the transfer wrote is visible or acknowledged, and nothing is left to move (R309, R310). -/
def State.xferDone (s : State) (c : Nat) (planned : Bool) : Bool :=
  let x := s.dctx c planned
  x.xfer.isSome && ((x.rleft = 0 && x.failing = .running && x.drained) || x.ending != .running) && x.out.isEmpty &&
  !s.writing (.dma c planned)

/-- The transfer completes, once it may. The entry of an IN_DMA ring is free, and its peer told, as it does (R340). -/
def State.finishOne (s : State) (c : Nat) (planned : Bool) : State :=
  match (s.dctx c planned).xfer with
  | none => s
  | some f =>
    if !s.xferDone c planned || (f.ring.isSome && !s.peerReady c) then s
    else
      let s := s.toClk ((s.dctx c planned).due + 1)
      let e := (s.checkEnd (ctxInst c planned) (s.dctx c planned).desc).xferEnd c planned
      if e.status != 0x30 && s.ringMode c = 1 then
        match s.ringOut c planned f e with
        | (s, none) => s
        | (s, some e) => s.closeXfer c planned f e
      else s.closeXfer c planned f e

/-- The same; where the planned context of an OUT_DMA ring can complete too, its handle is made first (R341). -/
def State.finishXfer (s : State) (c : Nat) (planned : Bool) : State :=
  (s.on (!planned && s.ringMode c = 1 && s.xferDone c true) fun s => s.finishOne c true).finishOne c planned

/-- Cycles in which a context surely comes to its end, if no other work and no link holds it up. -/
def DmaCtx.span (x : DmaCtx) : Nat :=
  4096 + 16 * x.left + 2 * x.left *
    (if x.linear then 1 else if isPlanes x.desc.xmode then 64 * x.desc.p1 else if isReshuffle x.desc.xmode then 64 * x.desc.cnt else x.desc.len)

/-- The rest of the transfer runs to its end and completes; where it does not come to its end by itself, nothing changes. -/
def State.runOut (s : State) (c : Nat) (planned : Bool) : State :=
  let u := s.runUntil (fun v => v.xferDone c planned) (s.dctx c planned).span
  if u.xferDone c planned then (u.finishXfer c planned).on planned fun s => s.startPlanned c else s

def execDmaTransferComplete (c : Fin 64) (planned : Bool) (s : State) : Answer :=
  live s fun s => if (s.dctx c planned).ringWait then s else s.runOut c planned

/-- R308: the transfer runs to its fault, if it meets one. -/
def execDmaFault (c : Fin 64) (planned : Bool) (s : State) : Answer :=
  live s fun s =>
    let u := s.runUntil (fun v => (v.dctx c planned).ending != .running || (v.dctx c planned).xfer.isNone) (s.dctx c planned).span
    if (u.dctx c planned).xfer.isSome && (u.dctx c planned).ending != .running then u.runOut c planned else s

/-- R341, R342: the handle of a transfer that waits for room or for its entry's acknowledgement. -/
def execRingOutHandle (c : Fin 64) (planned : Bool) (s : State) : Answer :=
  live s fun s =>
    if (s.dctx c planned).ringWait then (s.finishXfer c planned).on planned fun s => s.startPlanned c else s

/-! ### Pause -/

/-- A pausing context has written everything that it has read, down to the end of its row, entry or block (R318). -/
def State.pauseReady (s : State) (c : Nat) : Bool :=
  let x := (s.chan c).opn
  s.chSt c = chPausing && x.xfer.isSome && x.ending = .running && x.failing = .running && x.left != 0 && x.drained && x.out.isEmpty &&
  (x.roff = 0 || x.linear) && !s.writing (.dma c false)

/-- R318, R319: a pausing transfer with something left to move enters PAUSED; one with nothing left completes instead (log
entry 26). -/
def State.enterPaused (s : State) (c : Nat) : State :=
  if s.chSt c != chPausing then s
  else
    let u := s.runUntil (fun v => v.pauseReady c) (s.chan c).opn.span
    if !u.pauseReady c then s
    else
      let u := ((u.toClk (u.chan c).opn.due).setFld .CH_STAT_STATE c chPaused).showCur c false
      u.setDctx c false { (u.chan c).opn with shown := (u.fld .SRC_CUR c, u.fld .DST_CUR c) }

def execDmaPaused (c : Fin 64) (s : State) : Answer := live s fun s => s.enterPaused c

/-- R320: PAUSE written with 0, the other fields as they stand; a resume with REMAIN = 0 completes at once. -/
def execDmaResume (p : Path) (c : Fin 64) (s : State) : Answer :=
  live s fun s =>
    let k := s.pathChan p c
    let was := s.chSt k
    let s := s.chanPath p c 0 fun c => s.fld .CH_CTRL_ENABLE c * 4
    s.on (was = chPaused && s.chSt k != chPaused && (s.chan k).opn.left = 0) fun s => s.finishXfer k false

/-! ### Streams and rings -/

/-- A consumer needs an entry that its FIFO does not hold. -/
def State.starves (s : State) (c : Nat) (planned : Bool) : Bool :=
  let x := s.dctx c planned
  x.xfer.isSome && x.ending = .running && x.failing = .running && x.rleft != 0 && isIndexed x.desc.xmode && s.isConsumer c &&
  x.next ≤ s.clk && x.blk.isNone && x.fifo.length < idxBytes x.desc.p1 && (planned || s.openRuns c)

/-- R336: a consumer that needs an entry its FIFO does not hold, its producer having faulted; a planned one at any underrun. -/
def execStreamBroken (c : Fin 64) (planned : Bool) (s : State) : Answer :=
  live s fun s =>
    let u := s.runUntil (fun v => v.starves c planned) (s.dctx c planned).span
    let x := u.dctx c planned
    if u.starves c planned && (planned || x.producerFaulted) then
      let y := { x with fifo := [], producerFaulted := false }
      (u.setDctx c planned (if y.drained then { y with ending := .fault 0x13 0 0 0 } else { y with failing := .fault 0x13 0 0 0 })).runOut c planned
    else s

/-- IN_DMA entries already turned into transfers. -/
def Chan.ringTaken (ch : Chan) : Nat :=
  (ch.queue.filter (·.ring.isSome)).length + b2n ((ch.opn.xfer.map (·.ring.isSome)).getD false)

/-- R343, R344: the next entry becomes an open transfer at the tail of the queue. -/
def State.ringIn (s : State) (c : Nat) : State :=
  let ch := s.chan c
  match s.chanOwner c with
  | none => s
  | some t =>
    if s.ringMode c != 3 || !s.flag .CH_CTRL_ENABLE c || 16 ≤ ch.queue.length || s.flag .RING_STAT_HALTED c ||
        s.ringHeld c ≤ ch.ringTaken then s
    else
      let i := (s.fld .RING_OWN_IDX c + ch.ringTaken) % 2 ^ 32
      let ga := s.ringEntry c i
      let b := s.bytes (localOf ga) 16
      let bad := match s.access t ga 16 .r with | .error f => f.cause | .ok _ => 0
      let x : Xfer :=
        { ctx := { hearth := t, accept := s.now, start := s.now }, ptr := none, bad := bad,
          ring := some (i, bnum b 0 8, bnum b 8 4, bnum b 14 1) }
      if bad = 0 && bnum b 15 1 % 2 != s.ringPhase c i then (s.setFld .RING_STAT_HALTED c 1).setFld .RING_STAT_PHASE_ERR c 1
      else s.setChan c { ch with queue := ch.queue ++ [x] }

def execRingInTake (c : Fin 64) (s : State) : Answer := live s fun s => s.ringIn c

/-! ### Commands of submission queues -/

/-- R304, R483. -/
def submitDma (r : Taken) (s : State) : State :=
  let c := recNum r.bytes 8 1
  let ch := s.chan c
  if 16 ≤ ch.queue.length then s.complete (takenCtx r) (.refused 0x10 1)
  else
    s.setChan c { ch with queue := ch.queue ++ [{ ctx := takenCtx r, ptr := some (recNum r.bytes 12 4),
                                                  prio := (recNum r.bytes 1 1).testBit 0, deadline := recNum r.bytes 2 2 }] }

def execDmaSubmit (t : Fin 16) (s : State) : Answer := live s fun s => s.onCmd t 0x03 submitDma

/-- R347: a preheat request of a hearth for channel `c` and global heat slot `h`: none where it is refused. -/
def State.acceptHeat (s : State) (c h : Nat) (x : Xfer) : Option State :=
  let ch := s.chan c
  if s.heatSt h = 1 || 16 ≤ ch.queue.length then none
  else some ((s.setHeat h 1).setChan c { ch with queue := ch.queue ++ [{ x with heat := some h }] })

def submitPreheat (r : Taken) (s : State) : State :=
  let h := 4 * r.hearth + recNum r.bytes 9 1
  match s.acceptHeat (recNum r.bytes 8 1) h
      { ctx := takenCtx r, ptr := some (recNum r.bytes 12 4), prio := (recNum r.bytes 1 1).testBit 0,
        deadline := recNum r.bytes 2 2 } with
  | none => s.complete (takenCtx r) (.refused 0x10 (if s.heatSt h = 1 then 6 else 1))
  | some s => s

def execPreheat (t : Fin 16) (s : State) : Answer := live s fun s => s.onCmd t 0x04 submitPreheat

end Sys2Proof.Machine
end

