-- ==== Sys2Proof/Machine/Embers.lean ====
section
/-! DEFINITION. Embers: creation, fetch, the choice of each pipe, issue, loads and stores, fences and retirement (R253 to R260, R265 to R270,
R273 to R280). -/

namespace Sys2Proof.Machine

/-! ### Fetch -/

/-- R275: the check of a PC for hearth `t`. One that is not 16-byte aligned names no instruction (R154; log entry 35). -/
def State.pcCheck (s : State) (t pc : Nat) : Chk Unit := do
  need (pc < 2 ^ 48 && regionOf pc = some .staging) { cause := 0x01, addr := pc % 2 ^ 56, len := 16 }
  need (pc % 16 = 0) { cause := 0x02, addr := pc, len := 16 }
  s.access t (s.global pc) 16 .x

/-- Up to 16 instructions from `pc` on, as far as they may be fetched. -/
def State.fetch (s : State) (t pc : Nat) : Nat → List Word128
  | 0 => []
  | k + 1 =>
    match s.pcCheck t pc with
    | .error _ => []
    | .ok _ => BitVec.ofNat 128 (leNat ((upTo 16).map fun i => s.codeByte (pc + i))) :: s.fetch t (pc + 16) k

/-- An empty window is filled. Staging bytes that a write of the same cycle changes come as they were, and in checked mode R276 discards
them (R278). -/
def State.fillWindow (s : State) (e : Nat) : State :=
  let m := s.ember e
  if !m.win.isEmpty then s
  else
    let m := { m with win := s.fetch m.hearth m.pc 16 }
    let n := 16 * m.win.length
    if m.lean || s.codeClk != s.clk then s.setEmber e m
    else
      match s.codeOld.find? fun b => m.pc ≤ b.1 && s.codeOld.all fun c => !(m.pc ≤ c.1 && c.1 < b.1) with
      | none => s.setEmber e m
      | some b =>
        if m.pc + n ≤ b.1 then s.setEmber e m
        else (s.setEmber e { m with win := m.win.take ((b.1 - m.pc) / 16), stale := max m.stale (s.clk + 24) }).bump .REFETCH_COUNT

/-! ### The choice of a pipe (R265) -/

/-- The resource of a pipe (Table 2.1). -/
def pipeRes (p : Nat) : Nat := 0x40 + p

/-- Where register-clock cycle `c` stands in this tick. -/
def State.cycAt (s : State) (c : Nat) : Nat := min (s.cyc + (c - s.clk)) (s.tickLen - 1)

/-- Whether the ember may issue in cycle `c`: a planned one only in the slots its plan claims on its pipe, if it claims any there; in
a banked tick an open one only outside every envelope (R53, R265; log entry 107). -/
def State.slotOk (s : State) (e c : Nat) : Bool :=
  let m := s.ember e
  let r := pipeRes (e / 256)
  if m.planned then
    !((s.plan m.plan).budgets.any (·.res = r)) || (s.slotsOn (s.plan m.plan) false r).testBit (s.cycAt c / 64)
  else !s.flag .TICK_STAT_BANKED || (s.claimer r (s.cycAt c)).isNone

/-- The first cycle from `c` on, in this tick, in which the ember may issue. -/
def State.slotFrom (s : State) (e c : Nat) : Option Nat :=
  if s.slotOk e c then some c
  else
    let c0 := c + (64 - s.cycAt c % 64)
    ((upTo ((s.tickLen - s.cycAt c) / 64)).map fun k => c0 + 64 * k).find? fun d => s.cycAt c + (d - c) < s.tickLen && s.slotOk e d

/-- The first cycle in which the ember is ready and its pipe may issue; none while it waits (R266, R276, R277). -/
def State.readyAt (s : State) (e : Nat) : Option Nat :=
  let m := s.ember e
  if !m.live || m.draining || m.wait != .none || s.codeHeld m then none
  else s.slotFrom e (max (max s.clk m.next) (max (mget 0 (e / 256) s.pipes) (if m.win.isEmpty then m.stale else 0)))

/-- R265 among the embers `es`, by rising id, that are ready in one cycle. -/
def State.pick (s : State) (es : List Nat) : Option Nat :=
  (es.find? fun e => (s.ember e).planned).or (es.find? fun e => es.all fun o => (s.ember e).issued ≤ (s.ember o).issued)

/-- The ember that pipe `p` issues for next, and when. -/
def State.chosen (s : State) (p : Nat) : Option (Nat × Nat) :=
  let cs := (s.embers.filter fun x => x.1 / 256 = p).filterMap fun x => (s.readyAt x.1).map fun c => (x.1, c)
  match cs with
  | [] => none
  | c :: r =>
    let first := r.foldl (fun m x => min m x.2) c.2
    (s.pick ((cs.filter (·.2 = first)).map (·.1))).map fun e => (e, first)

/-- The ember's next instruction at the cycle in which its pipe issues for it: the state at that cycle, and the ember with its word, or
without where the PC can no longer be fetched. Only the state where the ember is not the one, or is no longer once that cycle has come,
or where its copy is discarded as it is fetched (R278). -/
def State.ready (s : State) (e : Nat) : State × Option (Ember × Option Word128) :=
  match s.chosen (e / 256) with
  | none => (s, none)
  | some (o, c) =>
    if o != e then (s, none)
    else
      let s := s.toClk c
      if s.chosen (e / 256) != some (e, s.clk) then (s, none)
      else
        let s := s.fillWindow e
        let m := s.ember e
        if m.win.isEmpty && s.clk < m.stale then (s, none) else (s, some (m, m.win.head?))

/-- The pipe has issued for the ember in this cycle. -/
def State.spend (s : State) (e : Nat) : State :=
  { s with pipes := mput 0 (e / 256) (s.clk + 1) s.pipes }.setEmber e { s.ember e with issued := s.clk + 1 }

/-- The ember's instruction cannot go on in this cycle, and the pipe is free for another. -/
def State.stall (s : State) (e : Nat) : State := s.setEmber e { s.ember e with next := s.clk + 1 }

/-! ### Ending an instruction -/

/-- An instruction at `m.pc` has done its effect in `m`: the ember goes on at `pc`, no earlier than cycle `next`. A PC that cannot be
fetched faults it instead, `old` being the ember before it (R275). -/
def State.goTo (s : State) (e : Nat) (old m : Ember) (pc next : Nat) (cq err : Bool) : State :=
  match s.pcCheck m.hearth pc with
  | .error f => s.emberFlaw e old old.pc f
  | .ok _ =>
    let on := pc = old.pc + 16
    let s := s.setEmber e { m with pc := pc, win := if on then old.win.drop 1 else [], stale := if on then m.stale else 0, next := next }
    s.on cq fun s => s.complete (s.emberCtx e true old.pc) { err := err }

/-- Sequential flow. -/
def State.goOn (s : State) (e : Nat) (old m : Ember) (next : Nat) (cq : Bool) : State := s.goTo e old m (old.pc + 16) next cq false

/-- The instruction issues and the ember waits for `w`; its PC stands after it. -/
def State.block (s : State) (e : Nat) (old m : Ember) (w : Wait) : State :=
  match s.pcCheck m.hearth (old.pc + 16) with
  | .error f => s.emberFlaw e old old.pc f
  | .ok _ => s.setEmber e { m with pc := old.pc + 16, win := old.win.drop 1, wait := w }

/-! ### Issue -/

/-- The event of an instruction of opcode `opc`: `f` performs it on the state at its issue cycle, or answers none where it cannot go on in
that cycle. -/
def State.issue (s : State) (e opc : Nat) (f : State → Ember → Word128 → Option State) : State :=
  match s.ready e with
  | (p, some (_, some w)) =>
    if wordOpc w != opc then s
    else
      let q := p.spend e
      (f q (q.ember e) w).getD (p.stall e)
  | (p, none) => p
  | (_, some (_, none)) => s

/-- Fields of classes 0x0 and 0x7 (Tables 8.1, 10.6). -/
def wRd (w : Word128) : Nat := wordBits w 10 4
def wRs1 (w : Word128) : Nat := wordBits w 14 4
def wRs2 (w : Word128) : Nat := wordBits w 18 4
def wFunc (w : Word128) : Nat := wordBits w 22 4
def wWid (w : Word128) : Nat := wordBits w 26 3
def wImm (w : Word128) : Nat := wordBits w 32 64
def wCq (w : Word128) : Bool := wordBits w 9 1 = 1

/-- A sum of 64 bits (Table 8.2). -/
def add64 (a b : Nat) : Nat := (a + b) % 2 ^ 64

/-- Bits an opcode of class 0x0 uses beside OPC, FORM and CQ (Table 8.2). -/
def used0 (w : Word128) : Nat :=
  let rd := bitSpan 10 13
  let rs1 := bitSpan 14 17
  let rs2 := bitSpan 18 21
  let func := bitSpan 22 25
  let wid := bitSpan 26 28
  let imm := bitSpan 32 95
  match wordOpc w with
  | 0x00 => rd + rs1 + rs2 + func + imm
  | 0x01 => rd + rs1 + rs2 + wid + imm
  | 0x02 => rd + rs1 + 2 ^ 22 + wid + imm
  | 0x03 => rs1 + rs2 + wid + imm
  | 0x05 => rd
  | 0x07 => rd + rs1 + rs2 + (if (wFunc w).testBit 3 then func else 0) + imm
  | 0x09 => rd + func
  | _ => 0

/-- Reserved values of FUNC, WID and the condition (R262). -/
def valueOk0 (w : Word128) : Bool :=
  match wordOpc w with
  | 0x00 => wFunc w < 12
  | 0x01 | 0x02 | 0x03 => wWid w < 7
  | 0x09 => wFunc w < 6
  | _ => true

/-- The checks of a class 0x0 word, in code order (R156, R261 to R264, Table 5.10). -/
def State.check0 (s : State) (t : Nat) (w : Word128) : Chk Unit := do
  need (wordOpc w ≤ 0x09) (ichk 0x01)
  need ((w.toNat &&& (used0 w + bitSpan 0 9)) = w.toNat && valueOk0 w) (ichk 0x02)
  need (!wordTile w) (ichk 0x03)
  need (wordOpc w != 0x07 || !(wFunc w).testBit 3 || s.expert t) (ichk 0x04)
  let n := ceilDiv (2 ^ wWid w) 8
  need ((wordOpc w != 0x02 || wRd w % n = 0) && (wordOpc w != 0x03 || wRs2 w % n = 0)) (ichk 0x06)

/-- An instruction of class 0x0: its checks, then `f`. -/
def State.issue0 (s : State) (e opc : Nat) (f : State → Ember → Word128 → Option State) : State :=
  s.issue e opc fun s m w =>
    match s.check0 m.hearth w with
    | .error g => some (s.emberFlaw e m m.pc g)
    | .ok _ => f s m w

/-! ### alu, br, emb.info -/

/-- Table 8.2's ALU functions on 64-bit numbers. -/
def aluFn (f a b : Nat) : Nat :=
  let n := 2 ^ 64
  let k := b % 64
  match f with
  | 0 => (a + b) % n
  | 1 => (a + n - b) % n
  | 2 => a &&& b
  | 3 => a ||| b
  | 4 => a ^^^ b
  | 5 => a * 2 ^ k % n
  | 6 => a / 2 ^ k
  | 7 => ((signedOf a 64 / (2 ^ k : Nat)) % (n : Nat)).toNat
  | 8 => a * b % n
  | 9 => if signedOf a 64 ≤ signedOf b 64 then a else b
  | 10 => if signedOf a 64 ≤ signedOf b 64 then b else a
  | _ => b2n (decide (a < b))

def execAlu (e : Fin 2048) (s : State) : Answer :=
  live s fun s => s.issue0 e 0x00 fun s m w =>
    let v := aluFn (wFunc w) (m.a (wRs1 w)) (add64 (m.a (wRs2 w)) (wImm w))
    some (s.goOn e m (m.setA (wRd w) v) (s.clk + if wFunc w = 8 then 3 else 1) (wCq w))

/-- Branch conditions. -/
def brTaken (c a b : Nat) : Bool :=
  match c with
  | 0 => true
  | 1 => a = b
  | 2 => a != b
  | 3 => signedOf a 64 < signedOf b 64
  | 4 => signedOf b 64 ≤ signedOf a 64
  | 5 => a < b
  | _ => b ≤ a

def execBr (e : Fin 2048) (s : State) : Answer :=
  live s fun s => s.issue0 e 0x01 fun s m w =>
    let m' := m.setA (wRd w) (m.pc + 16)
    if brTaken (wWid w) (m.a (wRs1 w)) (m.a (wRs2 w)) then
      some (s.goTo e m m' ((m.pc + wImm w * 16) % 2 ^ 64) (s.clk + 8) (wCq w) false)
    else some (s.goOn e m m' (s.clk + 1) (wCq w))

/-- Items of `emb.info`. -/
def State.emberInfo (s : State) (e : Nat) (m : Ember) (f : Nat) : Nat :=
  match f with
  | 0 => s.emberTag e
  | 1 => m.hearth
  | 2 => s.now
  | 3 => if m.planned then (s.plan m.plan).tick else 0
  | 4 => s.cyc
  | _ => e / 256

def execEmbInfo (e : Fin 2048) (s : State) : Answer :=
  live s fun s => s.issue0 e 0x09 fun s m w =>
    some (s.goOn e m (m.setA (wRd w) (s.emberInfo e m (wFunc w))) (s.clk + 1) (wCq w))

/-! ### Loads -/

/-- The clock moves on until request `id` is granted, within the 4,096 cycles that log entry 108 gives. -/
def State.untilGot (s : State) (id : Nat) : State := s.runUntil (fun s => (s.xbGot id).isSome) 4096

/-! ### Loads -/

/-- Alignment and address of an access of 2^WID bytes (R263, R464). -/
def State.memCheck (s : State) (t ga n : Nat) (k : AKind) : Chk Unit := do
  need (ga % n = 0) { cause := 0x02, addr := ga % 2 ^ 56, len := n }
  s.access t ga n k

/-- R266: when a planned remote load's data is back: over link `n` after two trips and 192 cycles. That of a local load follows its grant,
and an open remote one has no such cycle. -/
def State.loadDue (s : State) (e ga : Nat) : Nat :=
  if s.onChip ga || !(s.ember e).planned then s.clk
  else match s.wayTo ga (s.emberRemote e) with
    | none => s.clk
    | some r => s.clk + 2 * s.fld .LINK_LAT r.1 + 192

/-- An own store to the same bytes of another node is buffered, or posted and not resolved: the load would not observe it yet (R268). -/
def State.farStore (s : State) (e ga n : Nat) : Bool :=
  (s.ember e).ownStore ga n ||
    s.posted.any fun p => p.owner = .ember e (s.emberTag e) && overlaps ga n p.addr (p.addr + p.len)

def execLd (e : Fin 2048) (s : State) : Answer :=
  live s fun s => s.issue0 e 0x02 fun s m w =>
    let ga := add64 (m.a (wRs1 w)) (wImm w)
    let n := 2 ^ wWid w
    match s.memCheck m.hearth ga n .r with
    | .error f => some (s.emberFlaw e m m.pc f)
    | .ok _ =>
      let wt := Wait.load ga (wWid w) (wRd w) ((wFunc w).testBit 0) (wCq w) (s.loadDue e ga)
      if s.onChip ga then
        if !s.mayAccess m ga n then some (s.block e m m (wt none))
        else match s.memAsk e ga n false s.clk with
          | none => if m.planned then some ((s.stall e).tidMiss e) else none
          | some r => some (r.1.block e m m (wt (some r.2)))
      else if s.farStore e ga n then none
      else match s.postRead ga n (s.emberRemote e) with
        | (s, .sent) => some (s.block e m m (wt none))
        | (_, .wait) => none
        | (s, .absent) => some (s.emberFlaw e m m.pc { cause := 0x21, addr := ga, len := n })

/-- The loaded bytes in the registers (R262, R263). -/
def Ember.loaded (m : Ember) (rd wid : Nat) (signed : Bool) (bs : List Byte) : Ember :=
  if wid ≤ 3 then
    let n := 8 * 2 ^ wid
    let v := leNat bs
    m.setA rd (if signed && wid ≤ 2 && v.testBit (n - 1) then v + 2 ^ 64 - 2 ^ n else v)
  else m.setWide rd bs (2 ^ (wid - 3))

/-- R164: an access through a tile window takes the unit's move port for one cycle, once it is free. -/
def State.takePort (s : State) (a : Nat) : State :=
  match tileRow a with
  | none => s
  | some (cls, u, _) =>
    let s := s.toClk (s.portFree a)
    s.setSide (16 + cls) u (s.clk + 1) (s.clk + 1)

/-- R266, R268: the data of a waiting load reaches the pipe. Data of a channel that has been fenced meanwhile faults the load (R112). -/
def State.loadReturn (s : State) (e : Nat) : State :=
  let m := s.ember e
  match m.wait with
  | .load ga wid rd sg cq due req =>
    let n := 2 ^ wid
    if s.onChip ga then
      match (match req with | some id => some (s, id) | none => if s.mayAccess m ga n then s.memAsk e ga n false s.clk else none) with
      | none => s
      | some (s, id) =>
        let s := (s.setEmber e { s.ember e with wait := .load ga wid rd sg cq due (some id) }).untilGot id
        if (s.xbGot id).isNone then s
        else
          let back := s.xbDue id (s.readLat ga)
          let s := (s.toClk (s.xbDue id (s.sampleLat ga))).takePort (localOf ga)
          let m := s.ember e
          if s.fenced (localOf ga) n then s.emberFlaw e m m.waitPc { cause := 0x0F, addr := ga, len := n }
          else
            let r := s.localRead (localOf ga) n
            let s := r.1.toClk back
            s.unblock e ((s.ember e).loaded rd wid sg r.2) (s.clk + 2) cq false
    else match cached m.cache ga n with
      | none => s
      | some bs => s.unblock e (m.loaded rd wid sg bs) (max s.clk due + 2) cq false
  | _ => s

def execLoadReturn (e : Fin 2048) (s : State) : Answer := live s fun s => s.loadReturn e

/-! ### Stores -/

def execSt (e : Fin 2048) (s : State) : Answer :=
  live s fun s => s.issue0 e 0x03 fun s m w =>
    let ga := add64 (m.a (wRs1 w)) (wImm w)
    let n := 2 ^ wWid w
    match s.memCheck m.hearth ga n .w with
    | .error f => some (s.emberFlaw e m m.pc f)
    | .ok _ =>
      if 8 ≤ m.buf.length then none
      else
        let b : Store := { addr := ga, bytes := m.wide (wRs2 w) n, epoch := m.epoch }
        some (s.goOn e m { m with buf := m.buf ++ [b] } (s.clk + 1) (wCq w))

def chunkOf (a : Nat) : Nat := a / 64

/-- Whether entry `k` of the buffer may leave: none before it and no copy under way goes to the same chunk (R267, R358), and no earlier local
store is before the `order.sl` that precedes it (R269). -/
def State.mayDrain (s : State) (m : Ember) (k : Nat) (b : Store) : Bool :=
  (m.buf.take k).all (fun c => chunkOf c.addr != chunkOf b.addr) &&
  (m.reeds.all fun r => r.wreq.isSome || chunkOf b.addr < chunkOf r.dst || chunkOf (r.dst + r.n - 1) < chunkOf b.addr) &&
  (!s.onChip b.addr || (((m.buf ++ m.air).all fun c => !s.onChip c.addr || b.epoch ≤ c.epoch) &&
    m.reeds.all fun r => !s.onChip r.dst || b.epoch ≤ r.epoch))

/-- R267: an entry leaves the buffer; a remote one is posted, a local one asks for its port and becomes visible after its grant. -/
def State.drain (s : State) (e k : Nat) : State :=
  let m := s.ember e
  match m.buf[k]? with
  | none => s
  | some b =>
    if !s.mayDrain m k b then s
    else
      let m' := { m with buf := m.buf.eraseIdx k }
      if s.onChip b.addr then
        match s.memAsk e b.addr b.bytes.length true s.clk with
        | none => s.tidMiss e
        | some (s, id) => (s.setEmber e { m' with air := m.air ++ [{ b with req := id }] }).toClk (s.clk + 1)
      else match s.postWrite b.addr b.bytes (s.emberRemote e) with
        | (_, .wait) => s.widMiss (s.emberRemote e)
        | (s, .sent) => ((s.advance 1).setEmber e m').tryFree e
        | (s, .absent) => (((s.advance 1).setEmber e m').absentWrite b.addr b.bytes.length (s.emberRemote e)).tryFree e

def execStoreDrain (e : Fin 2048) (k : Fin 8) (s : State) : Answer := live s fun s => s.drain e k

/-- R267: a local store becomes visible, after the earlier ones to its chunk. -/
def State.becomeVisible (s : State) (e k : Nat) : State :=
  let m := s.ember e
  match m.air[k]? with
  | none => s
  | some b =>
    if (m.air.take k).any fun c => chunkOf c.addr = chunkOf b.addr then s
    else
      let s := s.untilGot b.req
      if (s.xbGot b.req).isNone then s
      else
      let s := (s.toClk (s.xbDue b.req (s.writeLat b.addr b.bytes.length))).takePort (localOf b.addr)
      let was := s.ember e
      let s := s.setEmber e { was with air := was.air.eraseIdx k }
      let s := (s.localWrite (localOf b.addr) b.bytes).released_ e was
      let m := s.ember e
      (s.on (!m.live && m.offBus) fun s => s.setEmber e { m with hearth := 0 }).tryFree e

def execStoreVisible (e : Fin 2048) (k : Nat) (s : State) : Answer := live s fun s => s.becomeVisible e k

/-! ### Fences -/

/-- R269: later local accesses wait for the earlier ones. -/
def execOrderSl (e : Fin 2048) (s : State) : Answer :=
  live s fun s => s.issue0 e 0x04 fun s m w => some (s.goOn e m { m with epoch := m.epoch + 1 } (s.clk + 1) (wCq w))

/-- R270, once everything earlier has resolved. -/
def State.orderDone (s : State) (e : Nat) : State :=
  let m := s.ember e
  match m.wait with
  | .orderG rd cq =>
    if !m.storesOut || s.writing (.ember e (s.emberTag e)) then s
    else
      let n := m.backdrafts
      s.unblock e ({ m with backdrafts := 0, epoch := m.epoch + 1 }.setA rd n) (s.clk + 2) cq (n != 0)
  | _ => s

/-- The fence issues, or, if it waits already, completes once it may. -/
def execOrderG (e : Fin 2048) (s : State) : Answer :=
  live s fun s =>
    (s.issue0 e 0x05 fun s m w => some (s.block e m m (.orderG (wRd w) (wCq w)))).orderDone e

/-- R280, once the earlier local stores are visible. -/
def State.syncDone (s : State) (e : Nat) : State :=
  let m := s.ember e
  match m.wait with
  | .syncI cq =>
    if ((m.buf ++ m.air).any fun b => s.onChip b.addr) || m.reeds.any fun r => s.onChip r.dst then s
    else s.unblock e { m with win := [] } (s.clk + 24) cq false
  | _ => s

def execSyncI (e : Fin 2048) (s : State) : Answer :=
  live s fun s => (s.issue0 e 0x06 fun s m w => some (s.block e m m (.syncI (wCq w)))).syncDone e

/-! ### Creation and retirement -/

/-- Open embers of pipe `p`. -/
def State.pipeLoad (s : State) (p : Nat) : Nat :=
  (s.embers.filter fun e => e.1 / 256 = p && e.2.live && !e.2.planned).length

/-- The lowest free open context of a pipe. A context whose last ember's stores are still on their way is not free yet. -/
def State.freeContext (s : State) (p : Nat) : Option Nat :=
  ((upTo 224).map (p * 256 + ·)).find? fun e => !(s.ember e).live && (s.ember e).offBus

/-- R256: the pipe with the fewest open embers among those that take one, the lowest on a tie. -/
def State.choosePipe (s : State) : Option Nat :=
  let ps := (upTo 8).filter fun p => !s.fbit .PIPE_MASK 0 p && (s.freeContext p).isSome
  ps.find? fun p => ps.all fun q => s.pipeLoad p ≤ s.pipeLoad q

/-- Open embers of a hearth against its quota. -/
def State.quotaLeft (s : State) (t : Nat) : Bool := s.resident false (fun m => m.hearth = t) < s.fld .HEARTH_CFG t

/-- The context for a new open ember of hearth `t`; `pipe` as an expert placement names it (R264). None while the chip damps
(R514). -/
def State.placeEmber (s : State) (t : Nat) (pipe : Option Nat) : Option Nat :=
  if !s.quotaLeft t || s.chip = chipDamping then none
  else match pipe with
    | some p => if s.fbit .PIPE_MASK 0 p then none else s.freeContext p
    | none => s.choosePipe.bind s.freeContext

/-- R254, R258: a new open ember. -/
def State.newEmber (s : State) (e t pc a1 next : Nat) : State :=
  s.setEmber e
    (({ live := true, hearth := t, pc := pc, lean := s.fbit .FETCH_CFG 0 t && s.expert t, incarn := (s.ember e).incarn,
        next := next } : Ember).setA 1 a1)

def execEmbSpawn (e : Fin 2048) (s : State) : Answer :=
  live s fun s => s.issue0 e 0x07 fun s m w =>
    let pc := add64 (m.a (wRs1 w)) (wImm w)
    match s.pcCheck m.hearth pc with
    | .error f => some (s.emberFlaw e m m.pc f)
    | .ok _ =>
      match s.placeEmber m.hearth (if (wFunc w).testBit 3 then some (wFunc w % 8) else none) with
      | none => some (s.goOn e m (m.setA (wRd w) (2 ^ 64 - 1)) (s.clk + 4) (wCq w))
      | some k =>
        match s.pcCheck m.hearth (m.pc + 16) with
        | .error f => some (s.emberFlaw e m m.pc f)
        | .ok _ =>
          let s := s.newEmber k m.hearth pc (m.a (wRs2 w)) (s.clk + 16)
          some (s.goOn e m (m.setA (wRd w) (s.emberTag k)) (s.clk + 4) (wCq w))

def execEmbExit (e : Fin 2048) (s : State) : Answer :=
  live s fun s => s.issue0 e 0x08 fun s m w =>
    some ((s.setEmber e { m with draining := true, exitCq := wCq w, next := s.clk + 1 }).tryFree e)

/-- R256, R275: EMBER_START. -/
def startEmber (r : Taken) (s : State) : State :=
  let x := takenCtx r
  let pc := recNum r.bytes 8 8
  match s.placeEmber r.hearth none with
  | none => s.complete x (.refused 0x10 3)
  | some e =>
    match s.pcCheck r.hearth pc with
    | .error f => s.complete x f.toEnd
    | .ok _ =>
      let s := s.newEmber e r.hearth pc (recNum r.bytes 16 8) s.clk
      s.complete x { r0 := s.emberTag e }

def execEmberStart (t : Fin 16) (s : State) : Answer := live s fun s => s.onCmd t 0x02 startEmber

end Sys2Proof.Machine
end

