-- ==== Sys2Proof/Machine/Streams.lean ====
section
/-! DEFINITION. Instructions of class 0x7: index streams, handle rings, the reed path, preheat (R332, R340, R344, R347, R352 to R358). -/

namespace Sys2Proof.Machine

/-! ### The word (Tables 10.6, 10.7) -/

def wCh (w : Word128) : Nat := wordBits w 26 6

/-- Bits an opcode of class 0x7 uses beside OPC, FORM and CQ. -/
def used7 (w : Word128) : Nat :=
  let rd := bitSpan 10 13
  let rs1 := bitSpan 14 17
  let ch := bitSpan 26 31
  match wordOpc w with
  | 0x70 => rs1 + bitSpan 22 23 + ch
  | 0x71 => rd + rs1 + 2 ^ 22 + ch
  | 0x72 => rd + 2 ^ 22 + ch
  | 0x73 => rs1 + bitSpan 18 21 + bitSpan 22 25 + bitSpan 32 39
  | 0x74 => rd + bitSpan 22 23 + ch + bitSpan 32 61
  | 0x75 => rd + bitSpan 22 23
  | _ => 0

/-- Registers that `strm.push` reads. -/
def pushRegs (w : Word128) : Nat := 2 ^ (wFunc w % 4)

/-- Whether a planned ember may issue the word (R357). -/
def plannable7 (w : Word128) : Bool :=
  wordOpc w = 0x73 || ((wordOpc w = 0x71 || wordOpc w = 0x72) && (wFunc w).testBit 0)

/-- The channel that a word names is the hearth's and in the opcode's mode. -/
def State.channelOk (s : State) (t : Nat) (w : Word128) : Bool :=
  match wordOpc w with
  | 0x70 => s.ownsChan t (wCh w) && s.fld .STRM_CFG_IN_SRC (wCh w) = 2
  | 0x71 => s.ownsChan t (wCh w) && s.ringMode (wCh w) = 2
  | 0x72 => s.ownsChan t (wCh w) && s.ringMode (wCh w) = 4
  | 0x74 => s.ownsChan t (wCh w)
  | _ => true

/-- The checks of a class 0x7 word, in code order (R156, R158, R263, R356 to R358), then the channel's. -/
def State.check7 (s : State) (t : Nat) (planned : Bool) (w : Word128) : Chk Unit := do
  need (0x70 ≤ wordOpc w && wordOpc w ≤ 0x75) (ichk 0x01)
  need ((w.toNat &&& (used7 w + bitSpan 0 9)) = w.toNat &&
    (wordOpc w != 0x74 || ptrGen (wImm w) != 0 || ptrIdx (wImm w) = 0)) (ichk 0x02)
  need (!wordTile w) (ichk 0x03)
  need (wordOpc w != 0x73 || !(wFunc w).testBit 0 || s.expert t) (ichk 0x04)
  need ((wordOpc w != 0x70 || wRs1 w % pushRegs w = 0) && (wordOpc w != 0x71 || wRs1 w % 2 = 0) &&
    (wordOpc w != 0x72 || wRd w % 2 = 0)) (ichk 0x06)
  need (!planned || plannable7 w) (ichk 0x0C)
  need (s.channelOk t w) (dchk 0x12)

/-- An instruction of class 0x7: its checks, then `f`. An instruction that `f` answers none for waits to issue. -/
def State.issue7 (s : State) (e opc : Nat) (f : State → Ember → Word128 → Option State) : State :=
  s.issue e opc fun s m w =>
    match s.check7 m.hearth m.planned w with
    | .error g => some (s.emberFlaw e m m.pc g)
    | .ok _ => f s m w

/-! ### Index streams -/

def execStrmPush (e : Fin 2048) (s : State) : Answer :=
  live s fun s => s.issue7 e 0x70 fun s m w =>
    let bs := m.wide (wRs1 w) (8 * pushRegs w)
    (s.feed (wCh w) false bs).map fun s => s.goOn e m m (s.clk + 3) (wCq w)

/-! ### Handle rings -/

/-- A remote handle's entry write has resolved (R340). One that was refused makes no handle: the index stands, and A[RD], for
which the spec states no value, is free (log entry 36). -/
def State.ringPutDone (s : State) (e : Nat) : State :=
  let m := s.ember e
  match m.wait with
  | .ringPut c rd cq wid failed =>
    if s.posted.any (fun p => p.wid = wid && p.owner = .ember e (s.emberTag e)) then s
    else if failed then
      { s with free := s.free + 8 }.unblock e (m.setA rd (leNat (freeBytesFrom s.free 8))) (s.clk + 2) cq false
    else if !s.peerReady c then s
    else
      let s := s.ringIndex c m.hearth
      let m := s.ember e
      s.unblock e (m.setA rd 0) (s.clk + 2) cq false
  | _ => s

/-- A `ring.put` on channel `c` writes a local address: its entry's, or the peer's index (R269). -/
def State.ringLocal (s : State) (c : Nat) : Bool :=
  s.onChip (s.ringEntry c (s.fld .RING_OWN_IDX c)) || (s.flag .RING_CFG_PEER_WR c && s.onChip (s.fld .RING_PEER c))

/-- The handle issues, or, if its entry write waits already, completes once it may. -/
def execRingPut (e : Fin 2048) (s : State) : Answer :=
  live s fun s =>
    (s.issue7 e 0x71 fun s m w =>
      let c := wCh w
      let h := m.wide (wRs1 w) 16
      let held := s.slHolds m && s.ringLocal c
      if bnum h 15 1 != 0 then some (s.emberFlaw e m m.pc { cause := 0x16 })
      else
        let s := s.setEmber e m
        match s.putHandle c m.hearth (s.emberRemote e) (h.take 15 ++ leBytes 1 (s.ringPhase c (s.fld .RING_OWN_IDX c))) with
        | .made s =>
          if held then none
          else
          let m := s.ember e
          some (s.goOn e m (m.setA (wRd w) 0) (s.clk + 16) (wCq w))
        | .sent p => if held then none else some (p.block e m m (.ringPut c (wRd w) (wCq w) ((p.widNext + 65535) % 65536) false))
        | .fault f => some (s.emberFlaw e m m.pc f)
        | .busy => none
        | .full => if (wFunc w).testBit 0 then some (s.goOn e m (m.setA (wRd w) 0x10) (s.clk + 16) (wCq w)) else none)
    |>.ringPutDone e

/-- R340, R344: the entry at GET, its PHASE, the index and the peer. A `ring.get` on a halted ring finds the same entry (log
entry 37). -/
def execRingGet (e : Fin 2048) (s : State) : Answer :=
  live s fun s => s.issue7 e 0x72 fun s m w =>
    let c := wCh w
    let i := s.fld .RING_OWN_IDX c
    let ga := s.ringEntry c i
    let b := s.bytes (localOf ga) 16
    if s.ringHeld c = 0 then
      if (wFunc w).testBit 0 then some (s.goOn e m (m.setWide (wRd w) (leBytes 16 (2 ^ 128 - 1)) 2) (s.clk + 16) (wCq w)) else none
    else match s.access m.hearth ga 16 .r with
      | .error f => some (s.emberFlaw e m m.pc f)
      | .ok _ =>
        if s.slHolds m then none
        else if s.flag .RING_STAT_HALTED c || bnum b 15 1 % 2 != s.ringPhase c i then
          some (((s.setFld .RING_STAT_HALTED c 1).setFld .RING_STAT_PHASE_ERR c 1).emberFlaw e m m.pc { cause := 0x15 })
        else if !s.peerReady c then none
        else
          let s := (s.setEmber e m).ringIndex c m.hearth
          let m := s.ember e
          some (s.goOn e m (m.setWide (wRd w) b 2) (s.clk + 16) (wCq w))

/-! ### The reed path -/

def reedLen (w : Word128) : Nat := wImm w % 256 + 1
def reedNowait (w : Word128) : Bool := (wFunc w).testBit 0

/-- R352: both ranges within one aligned 256-byte block, and the checks of a load and of a store. -/
def State.reedCheck (s : State) (t src dst n : Nat) : Chk Unit := do
  need (src % 256 + n ≤ 256) { cause := 0x02, addr := src % 2 ^ 56, len := n }
  need (dst % 256 + n ≤ 256) { cause := 0x02, addr := dst % 2 ^ 56, len := n }
  s.access t src n .r
  s.access t dst n .w

/-- `reed.cp` in flight on a pipe (R354). -/
def State.reedsOn (s : State) (p : Nat) : Nat :=
  sumOf ((s.embers.filter fun x => x.1 / 256 = p).map fun x => x.2.reeds.length)

/-- The damper's charge for the groups of an open copy (R353): none where it waits. -/
def State.reedCharge (s : State) (m : Ember) (src dst n : Nat) : Option State :=
  if m.planned then some s
  else s.damp1 m.hearth (s.lendable s.openGroups) (s.accessCost 32 src n false ++ s.accessCost 32 dst n true)

/-- The copy's source is asked for, with the number of its request: none where it must wait, an error where no member answers. -/
def State.reedAsk (s : State) (e src n prio : Nat) : Option (Chk (State × Nat)) :=
  if s.onChip src then (s.pipeAsk e src n false prio (s.clk + 2)).map .ok
  else match s.postRead src n (s.emberRemote e) with
    | (s, .sent) => some (.ok (s, 0))
    | (_, .wait) => none
    | (_, .absent) => some (.error { cause := 0x21, addr := src, len := n })

/-- The clock moves on while the ember waits for a copy whose source is on this chip, or has come. -/
def State.runReed (s : State) (e : Nat) : State :=
  s.runUntil
    (fun s => (s.ember e).wait != .reed || (s.ember e).reeds.all fun r => r.nowait || (r.data.isNone && !s.onChip r.src)) 4096

/-- R352 to R354, R358: the copy issues, and unless NOWAIT the ember waits for it. -/
def execReedCp (e : Fin 2048) (s : State) : Answer :=
  live s fun s =>
    (s.issue7 e 0x73 fun s m w =>
      let n := reedLen w
      let src := m.a (wRs1 w)
      let dst := m.a (wRs2 w)
      match s.reedCheck m.hearth src dst n with
      | .error f => some (s.emberFlaw e m m.pc f)
      | .ok _ =>
        if !s.mayAccess m src n || !s.mayAccess m dst n || 16 ≤ s.reedsOn (e / 256) then none
        else match s.pcCheck m.hearth (m.pc + 16) with
          | .error f => some (s.emberFlaw e m m.pc f)
          | .ok _ =>
            (s.reedCharge m src dst n).bind fun s =>
              match s.reedAsk e src n (wFunc w / 2) with
              | none => if m.planned then some ((s.stall e).tidMiss e) else none
              | some (.error f) => some (s.emberFlaw e m m.pc f)
              | some (.ok (s, id)) =>
                let r : Reed := { pc := m.pc, src := src, dst := dst, n := n, prio := wFunc w / 2, nowait := reedNowait w, cq := wCq w
                                  epoch := m.epoch, req := id }
                let m' := { m with reeds := m.reeds ++ [r] }
                some (if reedNowait w then s.goOn e m m' (s.clk + 1) false else s.block e m m' .reed))
    |>.runReed e

/-! ### Preheat -/

/-- R347, as open-bulk work of the ember. -/
def execPreHeat (e : Fin 2048) (s : State) : Answer :=
  live s fun s => s.issue7 e 0x74 fun s m w =>
    let x : Xfer := { ctx := { s.emberCtx e false m.pc with ember := e }, ptr := some (wImm w % 2 ^ 30) }
    let r := s.acceptHeat (wCh w) (4 * m.hearth + wFunc w % 4) x
    if r.isSome && s.slHolds m then none
    else some ((r.getD s).goOn e m (m.setA (wRd w) (if r.isSome then 0 else 0x10)) (s.clk + 3) (wCq w))

/-- The state of a heat slot reaches the waiting ember's register (Table 10.7). -/
def State.heatDone (s : State) (e : Nat) : State :=
  let m := s.ember e
  match m.wait with
  | .heat h rd cq => if s.heatSt h = 1 then s else s.unblock e (m.setA rd (s.heatSt h)) (max (s.clk + 1) (m.issued + 2)) cq false
  | _ => s

/-- The wait issues, or, if it waits already, ends once the slot is not FILLING. -/
def execHeatWait (e : Fin 2048) (s : State) : Answer :=
  live s fun s =>
    (s.issue7 e 0x75 fun s m w =>
      let h := 4 * m.hearth + wFunc w % 4
      if s.heatSt h = 1 then some (s.block e m m (.heat h (wRd w) (wCq w)))
      else some (s.goOn e m (m.setA (wRd w) (s.heatSt h)) (s.clk + 3) (wCq w)))
    |>.heatDone e

end Sys2Proof.Machine
end

