-- ==== Sys2Proof/Machine/Tensors.lean ====
section
/-! DEFINITION. Tensors behind layouts and owner tables: reading elements, writing whole tiles with their padding (R121, R123), the
blocks of a tensor (R550), owner tables (R135 to R139) and coordinate lists (R140 to R142, R150, R151). -/

namespace Sys2Proof.Machine

/-! ### Elements of a layout -/

/-- Coordinates from a number under an order whose first entry is fastest. -/
def unlinOrd (ext ord : List Nat) (k : Nat) : List Nat :=
  let vs := (ord.foldl (fun (r : List (Nat × Nat) × Nat) d => (r.1 ++ [(d, r.2 % ext.getD d 1)], r.2 / ext.getD d 1)) ([], k)).1
  (upTo ord.length).map fun d => mget 0 d vs

/-- The code of an element, and the scale byte of its block, in the bytes of the footprint. -/
def Layout.code (l : Layout) (bs : List Byte) (x : List Nat) : Nat := getBits bs (l.bitOff x) l.width
def Layout.scale (l : Layout) (bs : List Byte) (x : List Nat) : Nat := (bs.getD (l.scaleOff x) 0).toNat

/-- Every coordinate of a shape, dimension 0 fastest. -/
def coords (ext : List Nat) : List (List Nat) := (upTo (prod ext)).map (unlin ext)

/-- Coordinate of element `le` of inner tile `li` of outer tile `lo`. -/
def Layout.coordAt (l : Layout) (lo li le : Nat) : List Nat :=
  let o := unlinOrd l.outer l.ordO lo
  let i := unlinOrd l.t2 l.ordI li
  let e := unlinOrd l.t1 l.ordE le
  (upTo l.ndim).map fun d => (o.getD d 0 * l.t2.getD d 1 + i.getD d 0) * l.t1.getD d 1 + e.getD d 0

/-! ### Writing through a layout -/

/-- What a write puts at each coordinate: a code, the scale byte of its block, and which coordinates are no padding. -/
structure Vals where
  code : List Nat → Nat
  scale : List Nat → Nat := fun _ => 0
  inside : List Nat → Bool

/-- Bit `b` of a data byte of a tile belongs to this element. -/
def Layout.elemOf (l : Layout) (byte b : Nat) : Nat := (8 * byte + b) / l.width

/-- The data bytes of an inner tile: none for a byte that PAD leaves unwritten (R123). `old`: the tile as it stands. -/
def Layout.tileData (l : Layout) (v : Vals) (old : List Byte) (lo li : Nat) : List (Option Byte) :=
  let xs := (upTo l.elems).map (l.coordAt lo li)
  let ks := (upTo l.elems).map fun le =>
    let x := xs.getD le []
    if v.inside x then v.code x else if l.padKeep then getBits old (le * l.width) l.width else 0
  let bs := packBytes l.width ks
  (upTo (l.elems * l.width / 8)).map fun k =>
    if l.padKeep && !((upTo 8).any fun b => v.inside (xs.getD (l.elemOf k b) [])) then none else some (bs.getD k 0)

/-- The scale bytes of an inner tile of an MX format. -/
def Layout.tileScales (l : Layout) (v : Vals) (lo li : Nat) : List (Option Byte) :=
  if !isMx l.elem then []
  else (upTo (l.elems / 32)).map fun j =>
    match ((upTo 32).map fun k => l.coordAt lo li (32 * j + k)).find? v.inside with
    | some x => some (BitVec.ofNat 8 (v.scale x))
    | none => if l.padKeep then none else some 0

/-- The writes of one inner tile, at its place in the footprint. -/
def Layout.tileWrite (l : Layout) (v : Vals) (old : Nat → Nat → List Byte) (lo li : Nat) : List (Nat × List Byte) :=
  let a := l.base + l.tileOff lo li
  runs a (l.tileData v (if l.padKeep && l.width % 8 != 0 then old a l.tb1 else []) lo li ++ l.tileScales v lo li)

/-- A whole tensor, one inner tile after another in destination order (R162). -/
def Layout.write (l : Layout) (v : Vals) (old : Nat → Nat → List Byte) : List (List (Nat × List Byte)) :=
  (upTo (prod l.outer)).flatMap fun lo => (upTo (prod l.t2)).map fun li => l.tileWrite v old lo li

/-! ### Owner tables -/

/-- An owner-table header with its block layout (Table 4.6). -/
structure OwnerTab where
  elem : Nat
  ndim : Nat
  entries : Nat
  table : Nat
  ext : List Nat
  bshape : List Nat
  blay : Layout
  deriving DecidableEq, Repr

/-- A tensor operand. -/
inductive Tensor where
  | lay (l : Layout)
  | own (h : OwnerTab)
  deriving DecidableEq, Repr

def Tensor.elem : Tensor → Nat
  | .lay l => l.elem | .own h => h.elem
def Tensor.ndim : Tensor → Nat
  | .lay l => l.ndim | .own h => h.ndim
def Tensor.ext : Tensor → List Nat
  | .lay l => l.ext | .own h => h.ext

/-- A referenced 64-byte descriptor at a local address (R129). -/
def State.readDesc (s : State) (t a kind gen : Nat) : Chk (List Byte) := do
  let b ← s.readStaging t a 64 64
  kindGen b kind gen
  return b

/-- The header's own checks, then its block layout, then that the two agree (R129, R136). A table that is not in staging SRAM, or not on a
16-byte boundary, gives OWNER, not PLACE (log entry 101). -/
def State.checkOwner (s : State) (t : Nat) (b : List Byte) : Chk OwnerTab := do
  let n := bnum b 3 1 % 8
  let ext := (upTo n).map fun d => bnum b (16 + 4 * d) 4
  let bs := (upTo n).map fun d => bnum b (40 + 2 * d) 2
  let ne := bnum b 4 4
  let ta := bnum b 8 6
  need (bnum b 3 1 < 8 && bnum b 14 2 = 0 && bnum b 59 5 = 0) (dchk 0x03)
  need (1 ≤ n && n ≤ 6) (dchk 0x04)
  need (elemOk (bnum b 2 1)) (dchk 0x05)
  need ((upTo 6).all fun d =>
    if d < n then bnum b (16 + 4 * d) 4 != 0 && bnum b (40 + 2 * d) 2 != 0
    else bnum b (16 + 4 * d) 4 = 0 && bnum b (40 + 2 * d) 2 = 0) (dchk 0x07)
  need (ne = prod (List.zipWith ceilDiv ext bs) && 1 ≤ ne && ne ≤ 2 ^ 20 && regionOf ta = some .staging && ta % 16 = 0 &&
    ta + 16 * ne ≤ Region.limit .staging) (dchk 0x0E)
  let lb ← s.readDesc t (bnum b 52 6) 0x01 (bnum b 58 1)
  let l ← s.checkLayout lb
  need (l.ndim = n && l.elem = bnum b 2 1 && l.ext = bs) (dchk 0x0E)
  return { elem := l.elem, ndim := n, entries := ne, table := ta, ext := ext, bshape := bs, blay := l }

/-- A layout, or, where `owner` allows one, an owner-table header, behind a pointer. -/
def State.readTensor (s : State) (t p : Nat) (owner : Bool) : Chk Tensor := do
  let b ← s.readPtr t p
  if owner && bnum b 0 1 = 0x03 then
    kindGen b 0x03 (ptrGen p)
    let h ← s.checkOwner t b
    return .own h
  else
    kindGen b 0x01 (ptrGen p)
    let l ← s.checkLayout b
    return .lay l

/-- Local addresses of the descriptors behind a pointer, as far as they go. -/
def State.descsOf (s : State) (p : Nat) : List Nat :=
  if ptrAbsent p then []
  else ptrAddr p :: (if s.num (ptrAddr p) 1 = 0x03 then [s.num (ptrAddr p + 52) 6] else [])

/-- Entry `j` of an owner table: the nodes, owner first, and the local base; none for an absent block (R137). An unused REP that is not 0
counts as a reserved field that is not 0 (log entry 101). -/
def State.ownerEntry (s : State) (h : OwnerTab) (j : Nat) : Option (List Nat × Nat) :=
  let b := s.bytes (h.table + 16 * j) 16
  let k := bnum b 1 1 % 4
  if bnum b 1 1 / 4 != 1 || bnum b 5 3 != 0 || bnum b 14 2 != 0 || (upTo 3).any (fun r => k ≤ r && bnum b (2 + r) 1 != 0) then none
  else some (bnum b 0 1 :: (upTo k).map (fun r => bnum b (2 + r) 1), bnum b 8 6)

def State.liveNode (s : State) (n : Nat) : Bool := n = s.ownNode || s.isMember n

/-! ### Blocks (R550) -/

/-- The block grid of a tensor, and the layout of one block as a tensor of its own. -/
def Layout.grid (l : Layout) (outer : Bool) : List Nat := if outer then l.outer else l.inner

def Layout.block (l : Layout) (outer : Bool) : Layout :=
  { l with base := 0, align := 0, ext := if outer then List.zipWith (· * ·) l.t1 l.t2 else l.t1,
           t2 := if outer then l.t2 else l.t2.map fun _ => 1 }

def Tensor.grid (x : Tensor) (outer : Bool) : List Nat :=
  match x with
  | .lay l => l.grid outer
  | .own h => List.zipWith ceilDiv h.ext h.bshape

def Tensor.block (x : Tensor) (outer : Bool) : Layout :=
  match x with
  | .lay l => l.block outer
  | .own h => { h.blay with base := 0 }

/-- Global address of the block at a grid coordinate of a layout. -/
def Layout.blockAddr (l : Layout) (outer : Bool) (c : List Nat) : Nat :=
  if outer then l.base + lin c l.ordO l.outer * l.tb2
  else l.base + l.tileOff (lin (List.zipWith (· / ·) c l.t2) l.ordO l.outer) (lin (List.zipWith (· % ·) c l.t2) l.ordI l.t2)

/-- Where a block lies: an address for a read, every address for a write; or why there is none. -/
inductive Spot where
  | at_ (gas : List Nat)
  | absent
  | flaw (f : Flaw)
  deriving DecidableEq, Repr

/-- R137 to R139 for the block at a grid coordinate, issued for hearth `t`. LOCAL is taken as it is, whatever the block layout's alignment
(log entry 101). -/
def State.spot (s : State) (t : Nat) (x : Tensor) (outer wr : Bool) (c : List Nat) : Spot :=
  match x with
  | .lay l => .at_ [l.blockAddr outer c]
  | .own h =>
    let j := lin c (upTo h.ndim) (x.grid outer)
    match s.access t (s.global (h.table + 16 * j)) 16 .r with
    | .error f => .flaw f
    | .ok _ =>
      match s.ownerEntry h j with
      | none => .absent
      | some (ns, a) =>
        let lost : Flaw := { cause := 0x26, addr := ns.headD 0 * 2 ^ 48 + a, len := h.blay.size }
        if wr then (if s.liveNode (ns.headD 0) then .at_ (ns.map fun n => n * 2 ^ 48 + a) else .flaw lost)
        else match ns.find? s.liveNode with
          | some n => .at_ [n * 2 ^ 48 + a]
          | none => .flaw lost

/-! ### Coordinate lists -/

/-- A coordinate list's header (Table 4.8). -/
structure Coords where
  form : Nat
  outer : Bool
  count : Nat
  addr : Nat
  deriving DecidableEq, Repr

def entryBytes (form : Nat) : Nat := if form = 0 then 4 else if form = 2 then 32 else 8
def Coords.size (c : Coords) : Nat := c.count * entryBytes c.form

/-- The header behind a pointer, whose GEN is compared with nothing (R125, R141, R150); `n`: the tensor's rank. -/
def State.readCoords (s : State) (t p n : Nat) : Chk Coords := do
  need (ptrIdx p < 2621440) (dchk 0x0B)
  let b ← s.readStaging t (ptrAddr p) 16 16
  let c : Coords := { form := bnum b 0 1, outer := (bnum b 1 1).testBit 0, count := bnum b 4 4, addr := bnum b 8 8 }
  let a := localOf c.addr
  need (bnum b 1 1 < 2 && bnum b 2 2 = 0 && c.addr < 2 ^ 56) (dchk 0x03)
  need (c.form != 3 || t = passed || s.expert t) (dchk 0x0C)
  need (c.form < 4 && 1 ≤ c.count && c.count ≤ 2 ^ 20 && (c.form != 1 || n ≤ 4) && s.isOwn c.addr &&
    ((regionOf a = some .staging && a + c.size ≤ Region.limit .staging) ||
      (regionOf a = some .fen && a + c.size ≤ Region.limit .fen))) (dchk 0x10)
  return c

/-- A list entry: NULL, out of range, a grid coordinate or an address (R142, R151). -/
inductive Entry where
  | null
  | bad
  | at_ (c : List Nat)
  | addr (ga : Nat)
  deriving DecidableEq, Repr

/-- A C16X4 or C32X6 entry whose coordinate 0 is all ones is NULL, whatever its reserved bytes hold (log entry 101). -/
def entryOf (form n : Nat) (grid : List Nat) (b : List Byte) : Entry :=
  let ok (cs : List Nat) : Bool := (upTo cs.length).all fun d => cs.getD d 0 < grid.getD d 1
  if form = 0 then
    let v := bnum b 0 4
    if v = 0xFFFFFFFF then .null else if v < prod grid then .at_ (unlin grid v) else .bad
  else if form = 3 then (if bnum b 0 8 = 2 ^ 64 - 1 then .null else .addr (bnum b 0 8))
  else
    let w := if form = 1 then 2 else 4
    let cs := (upTo (if form = 1 then 4 else 6)).map fun d => bnum b (w * d) w
    if cs.getD 0 0 = 2 ^ (8 * w) - 1 then .null
    else if ok cs && (form = 1 || bnum b 24 8 = 0) then .at_ (cs.take n) else .bad

/-- Entry `k` of a list over a tensor. -/
def State.entry (s : State) (c : Coords) (x : Tensor) (k : Nat) : Entry :=
  entryOf c.form x.ndim (x.grid c.outer) (s.bytes (localOf c.addr + k * entryBytes c.form) (entryBytes c.form))

/-- Where the block of entry `k` lies; an address that an entry or an owner table gives is checked as its block issues. One of an ADDR64
entry with a bit above bit 55 is a hole (log entry 101). -/
def State.entrySpot (s : State) (t : Nat) (c : Coords) (x : Tensor) (wr : Bool) (k : Nat) : Spot × Option (List Nat) :=
  let n := (x.block c.outer).size
  let chk (gas : List Nat) : Spot :=
    match needAll gas (fun ga => do
      need (!s.isOwn ga || engineRegion (localOf ga)) { cause := 0x01, addr := ga % 2 ^ 56, len := n }
      s.access t ga n (if wr then .w else .r)) with
    | .error f => .flaw f
    | .ok _ => .at_ gas
  match s.entry c x k with
  | .null => (.at_ [], none)
  | .bad => (.absent, none)
  | .addr ga => (chk [ga], none)
  | .at_ g =>
    match s.spot t x c.outer wr g with
    | .at_ gas => ((match x with | .lay _ => .at_ gas | .own _ => chk gas), some g)
    | o => (o, some g)

end Sys2Proof.Machine
end

