-- ==== Sys2Proof/Machine/Pieces.lean ====
section
/-! DEFINITION. Instructions of classes 0x1 to 0x6 and 0x8 (R154 to R163, R185 to R190): where they issue from, the checks on their
word, their issue, and their end. -/

namespace Sys2Proof.Machine

/-! ### Jobs -/

/-- An instruction about to issue. -/
structure Job where
  ctx : Ctx
  word : Word128
  planned : Bool
  /-- units that a plan assigned, and its contracted completion cycle -/
  units : List Nat := []
  contract : Nat := 0
  /-- a RESHARD command -/
  cmd : Bool := false
  deriving DecidableEq, Repr

def Job.hearth (j : Job) : Nat := j.ctx.hearth

/-- The entry of an instruction queue that goes next (R481). -/
def Hearth.front (h : Hearth) : Option QEntry := (h.iq.find? (·.prio)).or h.iq.head?

/-- What an issuer has ready. -/
inductive Take where
  | none
  /-- the ember's instruction joined its hearth's queue, or cannot go on in this cycle -/
  | queued (s : State)
  | job (s : State) (j : Job)

/-- An ember's instruction: it waits in the hearth's queue behind what is there (Table 14.8). -/
def State.takeEmber (s : State) (e : Nat) (opc : Nat) : Take :=
  match s.ready e with
  | (p, none) => .queued p
  | (_, some (_, none)) => .none
  | (p, some (_, some w)) =>
    if wordOpc w != opc then .none
    else if p.slHolds (p.ember e) then .queued (p.stall e)
    else
      let s := p.spend e
      let m := s.ember e
      let x := s.emberCtx e (wCq w) m.pc
      let h := s.hearth m.hearth
      if m.planned || h.iq.isEmpty then .job s { ctx := x, word := w, planned := m.planned }
      else if 32 ≤ h.iq.length then .queued (p.stall e)
      else
        let t := s.block e m m .queued
        if (t.ember e).wait != .queued then .queued t
        else .queued (t.setHearth m.hearth { h with iq := h.iq ++ [{ ctx := x, word := w, prio := false, deadline := 0 }] })

/-- What an issuer's instruction that cannot issue now leaves: an ember's pipe is free for another ember in this cycle. -/
def State.holdJob (s : State) (i : Issuer) : State :=
  match i with
  | .ember e =>
    match s.ready e with
    | (p, some _) => p.stall e
    | (p, none) => p
  | _ => s

/-- The next instruction of an issuer, if it has opcode `opc`, on the state without it. -/
def State.takeJob (s : State) (i : Issuer) (opc : Nat) : Take :=
  match i with
  | .queue t =>
    let h := s.hearth t
    (match h.front with
     | none => .none
     | some q =>
       if wordOpc q.word != opc || (q.prio && s.pastDeadline q.ctx.accept q.deadline) then .none
       else .job (s.setHearth t { h with iq := h.iq.erase q })
         { ctx := { q.ctx with start := s.now }, word := q.word, planned := false, cmd := q.cmd })
  | .ember e => s.takeEmber e opc
  | .item k =>
    match s.released.find? (·.id = k) with
    | none => .none
    | some r =>
      if wordOpc r.word != opc then .none
      else
        let uid := (s.plan r.plan).uid
        let due := s.now + (if r.contract = 0 then 0 else (s.cyc + (r.contract - s.clk)) / s.tickLen)
        .job { s with released := s.released.filter (·.id != k) }
          { ctx := { hearth := s.planHearth r.plan, origin := 2, tag := r.index % 65536, ref := uid, accept := due,
                     start := s.now, cq := wCq r.word, plan := r.plan },
            word := r.word, planned := true, units := r.units, contract := r.contract }

/-! ### The end of a job -/

/-- The KVCPL of a partner's request (Table 13.3). -/
def State.kvcpl (s : State) (x : Ctx) (e : End) : State :=
  let part := e.status = 0x21
  s.sendLink x.link
    (localFrame 0x1C (x.tag + e.status * 2 ^ 16 + e.note % 4 * 2 ^ 24)
      [(if part then e.r0 % 2 ^ 48 else 0) + min (s.ticksLate x) 0xFFFF * 2 ^ 48, if part then e.r1 % 2 ^ 32 else 0])

/-- The ember's instruction ends: the ember goes on, or faults precisely (R186, R274). -/
def State.endEmber (s : State) (x : Ctx) (e : End) : State :=
  let m := s.ember x.ember
  if !m.live || s.emberTag x.ember != x.tag then s
  else if e.status = 0x30 then s.emberFail x.ember m x.pc e
  else (s.setEmber x.ember { m with wait := .none, next := s.clk + 1, cache := [] }).complete x e

/-- A piece of work ends, for whoever asked for it. -/
def State.endWork (s : State) (x : Ctx) (e : End) : State :=
  if x.origin = 1 then s.endEmber x e
  else if x.origin = 3 then (s.kvcpl x e).complete x e
  else s.complete x e

/-- A job that fails a check (R186). -/
def State.failJob (s : State) (x : Ctx) (f : Flaw) : State := (s.countFlaw f).endWork x f.toEnd

/-! ### Checks on the word (Table 5.10) -/

/-- Logical units of a class that the job may name (Table 5.10). -/
def State.unitLimit (s : State) (j : Job) (cls : Nat) : Nat :=
  let p := s.plan j.ctx.plan
  if j.planned && cls = fabricClass then min p.slices s.liveSlices
  else if j.planned && cls = mixerClass then min p.mixers s.liveMixers
  else s.unitCount cls

/-- Presence of an operand against what the opcode asks: `some true` required, `some false` forbidden, none either. -/
def presence (want : Option Bool) (there : Bool) : Bool := want.all (· = there)

/-- What an opcode asks of its word. `res`: its own reserved fields are 0; `elem`: its formats; `shape`: its shape rule. -/
structure Spec where
  desc : Bool := true
  tile : Bool := true
  /-- operands of the descriptor form: SRC, DST, AUX -/
  ptrs : Option Bool × Option Bool × Option Bool := (some true, some true, none)
  /-- SRC_B of the tile form -/
  srcB : Option Bool := some false
  res : Bool := true
  elem : Bool := true
  shape : Bool := true
  deriving DecidableEq, Repr

def ptrOk (p : Nat) : Bool := ptrGen p != 0 || ptrIdx p = 0

/-- Reserved fields common to every opcode. -/
def wordReserved (w : Word128) : Bool :=
  wordBits w 13 3 = 0 &&
  if wordTile w then wordBits w 12 1 = 0 && wordBits w 53 11 = 0 && (upTo 3).all fun k => wordBits w (76 + 16 * k) 4 = 0
  else wordBits w 62 2 = 0 && wordBits w 94 2 = 0 && wordBits w 126 2 = 0 && ptrOk (wAux w) && ptrOk (wSrc w) && ptrOk (wDst w)

/-- ICHK 0x02 to 0x08 of a class 0x2 to 0x6 or 0x8 word, in order, as far as the word decides them (R158, R171, R172, R185). -/
def State.checkWord (s : State) (j : Job) (p : Spec) : Chk Unit := do
  let w := j.word
  let cls := wordClass w
  let tile := wordTile w
  let there (k : Nat) : Bool := wFile w k != 0
  need (wordReserved w && p.res) (ichk 0x02)
  need (if tile then p.tile else p.desc) (ichk 0x03)
  need (!tile || s.expert j.hearth) (ichk 0x04)
  need (!tile || (wUnit w < s.unitLimit j cls && (wordOpc w != 0x24 || wAux16 w % 32 < s.unitLimit j mixerClass))) (ichk 0x05)
  need (if tile then
      (upTo 3).all (fun k => !there k || fileClass (wFile w k) = cls) && there 0 && there 1 && presence p.srcB (there 2) &&
      (there 2 || !wReuseB w)
    else presence p.ptrs.1 (!ptrAbsent (wSrc w)) && presence p.ptrs.2.1 (!ptrAbsent (wDst w)) &&
      presence p.ptrs.2.2 (!ptrAbsent (wAux w))) (ichk 0x06)
  need (elemOk (wElem w) && (tile || elemOk (wOpx w)) && p.elem) (ichk 0x07)
  need (p.shape && (!tile || !isMx (wElem w) || wD0 w % 32 = 0)) (ichk 0x08)

/-! ### Rows -/

/-- Rows of operand `k` overlap rows of another one. -/
def rowsOverlap (a na b nb : Nat) : Bool := a < b + nb && b < a + na

/-- R170 for `n` rows of a unit. -/
def State.checkRows (s : State) (t cls u row n : Nat) (k : AKind) : Chk Unit :=
  needAll (upTo n) fun r => s.access t (s.global (rowAddr cls u (row + r))) 1024 k

/-! ### Work of a KV operation -/

/-- What its data effect comes to. -/
structure Out where
  /-- writes in destination order, by global address -/
  writes : List (Nat × List Byte) := []
  status : Nat := 0
  r0 : Nat := 0
  flaw : Option Flaw := none
  deriving DecidableEq, Repr

/-- A KV operation that has passed its checks. -/
structure Work where
  /-- local addresses of the descriptors it read (R127) -/
  descs : List Nat := []
  /-- source bytes it needs, by global address -/
  reads : List (Nat × Nat) := []
  /-- local destination footprints -/
  range : List (Nat × Nat) := []
  /-- cycles of its ledger -/
  cycles : Nat := 0
  eff : State → List (List Byte) → Out

/-- The bytes of a destination as they stand, with their addresses. -/
def State.oldBytes (s : State) (e : Nat × List Byte) : List (Nat × Byte) :=
  (upTo e.2.length).map fun i => (localOf e.1 + i, s.byte (localOf e.1 + i))

/-- The data effect: bytes of this chip are written, remote ones leave. -/
def State.perform (s : State) (k : Nat) (o : Out) : State :=
  let here := o.writes.filter fun e => s.onChip e.1
  let far := (o.writes.filter fun e => !s.onChip e.1).flatMap cutPages
  let s := s.setFlight k fun x =>
    { x with fetching := false, cache := [], undo := here.flatMap s.oldBytes, out := far, status := o.status, r0 := o.r0
             owe := x.owe ++ s.fenCosts (here.map fun e => (e.1, e.2.length)) true }
  let s := forAll here (fun e s => s.localWrite (localOf e.1) e.2) s
  let s := match o.flaw with
    | none => s
    | some f =>
      (s.countFlaw f).setFlight k fun x =>
        { x with status := 0x30, cause := f.cause, sub := f.sub, addr := f.addr, len := f.len, r0 := f.arg }
  s.flush k

/-- A read of remote sources that no member answers faults the instruction (R455, Table 13.6). -/
def State.noSource (s : State) (k : Nat) : State :=
  s.setFlight k fun y => { y with status := 0x30, cause := 0x21, fetching := false, todo := [] }

/-- The sources are read, or asked for; with all of them here the data effect takes place. -/
def State.runWork (s : State) (k : Nat) (w : Work) : State :=
  match s.flight k with
  | none => s
  | some x =>
    match s.sources (flightRemote x) x.cache (w.reads.flatMap pagesOf) with
    | .absent => s.noSource k
    | .waits s => s.setFlight k fun y => { y with fetching := true }
    | .bytes s bs =>
      (s.setFlight k fun y => { y with owe := y.owe ++ s.fenCosts w.reads false }).perform k (w.eff s (splitBy (w.reads.map (·.2)) bs))

/-! ### Work of an engine instruction -/

/-- A descriptor-form instruction that has passed its checks: the descriptors it read, by local address (R127), and how many (R163); the
source bytes it needs, by global address; coordinate lists and owner tables that it goes by, as local ranges; its pieces, and what fills one with its bytes; free values that this
uses; and what is known of it at its issue. -/
structure DescProg where
  descs : List Nat
  lists : List (Nat × Nat) := []
  reads : List (Nat × Nat)
  pieces : List Piece
  fill : State → List (List Byte) → Piece → Piece
  free : Nat := 0
  oor : Nat := 0
  first : Nat := 0
  flaw : Option Flaw := none

/-- An engine instruction or tile move that may issue. -/
inductive Prog where
  | tile (t : TileRun) (range : List (Nat × Nat))
  | desc (d : DescProg)

/-- Source bytes as far as they are here. -/
def State.haveBytes (s : State) (cache : List (Nat × Byte)) (e : Nat × Nat) : List Byte :=
  if s.onChip e.1 then s.bytes (localOf e.1) e.2 else (upTo e.2).map fun k => mget 0 (e.1 + k) cache

/-- Pieces whose source bytes have all arrived get their data. -/
def State.fillPieces (s : State) (k : Nat) (d : DescProg) : State :=
  match s.flight k with
  | none => s
  | some x =>
    let bs := d.reads.map (s.haveBytes x.cache)
    let fill (p : Piece) : Piece := if p.data.isSome || !p.src.all (s.rangeHere x.cache) then p else d.fill s bs p
    let todo := x.todo.map fill
    let runs := x.runs.map fun r => { r with piece := fill r.piece }
    { s with free := s.free + d.free }.setFlight k fun y =>
      { y with todo := todo, runs := runs
               fetching := todo.any (fun p => p.data.isNone) || runs.any fun r => r.piece.data.isNone }

/-- Remote source bytes are asked for, and what is here goes into the pieces. -/
def State.feedPieces (s : State) (k : Nat) (d : DescProg) : State :=
  match s.flight k with
  | none => s
  | some x =>
    match s.sources (flightRemote x) x.cache ((d.reads.filter fun r => !s.onChip r.1).flatMap pagesOf) with
    | .absent => s.noSource k
    | .waits s => s.fillPieces k d
    | .bytes s _ => s.fillPieces k d

/-- Cycles of the issue phase of the descriptor form, for `n` descriptors read (R163). -/
def issueCycles (n : Nat) : Nat := 2 + 4 * n

/-! ### Checks and pieces of engine instructions -/

/-- Table 7.4 on the block in the SRC_B row of a tile form (R229). -/
def blockCheck (w : Word128) (b : List Byte) : Chk Unit :=
  match wordClass w with
  | 4 => do
    need (bnum b 0 1 = 0x11) (dchk 0x01)
    let p ← winBlock b
    need (p.fits (wD0 w) (wD1 w)) pchk
  | 6 =>
    if !mixHasB w then .ok ()
    else do
      need (bnum b 0 1 = 0x13) (dchk 0x01)
      let _ ← mixBlock (wordOpc w) true b
      return ()
  | _ => .ok ()

/-- The tile form once its word has passed: SHAPE, ROW and OVERLAP, the parameter block, then the rows (R185, R229). -/
def State.checkTile (s : State) (j : Job) : Chk Prog := do
  let w := j.word
  let cls := wordClass w
  let b := if wFile w 2 = 0 then [] else s.bytes (rowOf w 2) 64
  let r := tileRun w b
  let n (k : Nat) : Nat := r.rows.getD k 0
  let there (k : Nat) : Bool := wFile w k != 0
  let rows (k : Nat) (a : AKind) : Chk Unit := if there k then s.checkRows j.hearth cls (wUnit w) (wRow w k) (n k) a else .ok ()
  need r.shape (ichk 0x08)
  need ((upTo 3).all fun k => !there k || wRow w k + n k ≤ fileRows cls) (ichk 0x09)
  need ([1, 2].all fun k => !there k || !rowsOverlap (wRow w 0) (n 0) (wRow w k) (n k)) (ichk 0x0A)
  blockCheck w b
  rows 1 .r
  rows 2 .r
  rows 0 .w
  return .tile r [(rowOf w 0, n 0 * 1024)]

/-- A destination inner tile of a descriptor-form instruction: its layout with the BASE of its block, its numbers there, what each element
is given from the source bytes, which elements are no padding, and the elements read for one, each with its layout. -/
structure DTile where
  lay : Layout
  lo : Nat
  li : Nat
  nar : List (List Byte) → List Nat → Nar
  scale : List (List Byte) → List Nat → Nat := fun _ _ => 0
  inside : List Nat → Bool
  from_ : List Nat → List (Layout × List Nat)
  coll : Nat := 0
  flaw : Option Flaw := none

/-- Inner tiles of a layout in the order of their addresses. -/
def Layout.tiles (l : Layout) : List (Nat × Nat) := (upTo (prod l.outer)).flatMap fun lo => (upTo (prod l.t2)).map fun li => (lo, li)

def DTile.at_ (t : DTile) : Nat := t.lay.base + t.lay.tileOff t.lo t.li

/-- Elements of the tile that are no padding. -/
def DTile.elems (t : DTile) : List (List Nat) := ((upTo t.lay.elems).map (t.lay.coordAt t.lo t.li)).filter t.inside

/-- Whole source inner tiles that hold an element which is read, each once (R248). -/
def readTiles (ts : List DTile) : List (Nat × Nat) :=
  (ts.flatMap fun t => t.elems.flatMap fun q => (t.from_ q).map fun e =>
    let p := e.1.place e.2
    (e.1.base + e.1.tileOff p.lo p.li, e.1.tb1)).eraseDups

/-- Tiles in groups of at most 64 KiB of destination bytes (R162). -/
def inPieces (ts : List DTile) : List (List DTile) :=
  let m := max 1 (65536 / ((ts.map (·.lay.tb1)).headD 1))
  (upTo (ceilDiv ts.length m)).map fun i => (ts.drop (i * m)).take m

def pieceBytes (ts : List DTile) : Nat := sumOf (ts.map (·.lay.tb1))

/-- A destination tile as it stands; what a tile on another node shares bytes with is not known here (log entry 103). `k`: the tile's
number. -/
def State.oldTile (s : State) (k a n : Nat) : List Byte := if s.onChip a then s.bytes (localOf a) n else freeBytesFrom (s.free + k * n) n

/-- Writes cut after byte `n` of the tile at `a`. -/
def cutTile (a n : Nat) (l : List (Nat × List Byte)) : List (Nat × List Byte) :=
  (l.map fun e => (e.1, e.2.take (a + n - e.1))).filter fun e => !e.2.isEmpty

/-- What piece `p`, of the tiles `ts`, comes to; before a map that collides only the earlier maps count (R199). `k`: its first tile's number. -/
def fillTiles (s : State) (bs : List (List Byte)) (ts : List DTile) (k : Nat) (p : Piece) : Piece :=
  let tb := (ts.map (·.lay.tb1)).headD 1
  let upto := match ts.findIdx? fun t => t.flaw.any (·.cause = 0x0B) with
    | none => pieceBytes ts
    | some i => i * tb / p.step * p.step
  let put (e : DTile × Nat) : List (Nat × List Byte) :=
    let t := e.1
    cutTile t.at_ (upto - e.2 * tb)
      (t.lay.tileWrite { code := fun q => (t.nar bs q).code, scale := t.scale bs, inside := t.inside } (s.oldTile (k + e.2)) t.lo t.li)
  let ns := ts.flatMap fun t => t.elems.map (t.nar bs)
  { p with data := some (ts.zipIdx.flatMap put), sat := sumOf (ns.map (·.sat)), nan := sumOf (ns.map (·.nan)) }

/-- The program of a descriptor form over its destination tiles in order; `led`: the ledger of a piece. -/
def State.descProg (s : State) (descs : List Nat) (reads : List (Nat × Nat)) (ts : List DTile) (led : List DTile → Piece → Piece) : DescProg :=
  let ps := inPieces ts
  let m := (ps.map List.length).headD 1
  let piece (e : List DTile × Nat) : Piece :=
    led e.1
      { no := e.2, src := readTiles e.1, inC := 0, hold := 0, out0 := 0, total := 0, step := 1, coll := sumOf (e.1.map (·.coll))
        range := (e.1.filter fun t => s.onChip t.at_).map fun t => (localOf t.at_, t.lay.tb1), flaw := e.1.findSome? (·.flaw) }
  { descs := descs, reads := reads, pieces := ps.zipIdx.map piece, fill := fun s bs p => fillTiles s bs (ps.getD p.no []) (p.no * m) p
    free := if ts.all fun t => s.onChip t.at_ then 0 else pieceBytes ts }

/-! ### Issue -/

/-- An ember that issues waits for its instruction (Table 8.3); its PC must lead on (R275). -/
def State.blockFor (s : State) (j : Job) (k : Nat) : Chk State :=
  if j.ctx.origin != 1 then .ok s
  else
    let e := j.ctx.ember
    let m := s.ember e
    if m.wait = .queued then .ok (s.setEmber e { m with wait := .flight k })
    else match s.pcCheck m.hearth (m.pc + 16) with
      | .error f => .error f
      | .ok _ => .ok (s.block e m m (.flight k))

/-- The flight of a job, with nothing in it yet. -/
def State.newFlight (s : State) (j : Job) (cycles : Nat) : Flight :=
  { id := s.flightNext, ctx := j.ctx, word := j.word, planned := j.planned, due := s.clk + cycles, contract := j.contract }

def State.addFlight (s : State) (x : Flight) : State :=
  { s with flights := s.flights.filter (fun y : Flight => y.id != x.id) ++ [x], flightNext := x.id + 1 }

/-- Work on a unit that is declared dead faults (R64). -/
def State.faultDead (s : State) (k : Nat) : State :=
  match (s.flight k).bind s.deadUnit with
  | none => s
  | some p => s.faultFlight k 0x10 p

/-- A KV operation issues. -/
def State.launch (s : State) (j : Job) (w : Work) : State :=
  let k := s.flightNext
  match s.blockFor j k with
  | .error f => s.failJob j.ctx f
  | .ok s =>
    (s.addFlight { s.newFlight j w.cycles with descs := w.descs.map fun a => (a, s.bytes a 64), range := w.range }).runWork k w

/-- The logical units that a plan assigns to a descriptor-form item; all that it may name where it assigns none (log entry 19). -/
def State.planUnits (s : State) (j : Job) : List Nat :=
  if !j.planned then [] else if j.units.isEmpty then upTo (s.unitLimit j (wordClass j.word)) else j.units

/-- An engine instruction issues: its ledger begins (R163, R247). -/
def State.launchProg (s : State) (j : Job) (g : Prog) : State :=
  let k := s.flightNext
  match s.blockFor j k with
  | .error f => s.failJob j.ctx f
  | .ok s =>
    match g with
    | .tile t range =>
      ((s.takeUnits t.sides).addFlight { s.newFlight j t.cycles with
        start := s.clk, range := range, sides := t.sides, ledger := t.ledger, acts := actsFrom s.clk t.ledger }).faultDead k
    | .desc d =>
      let n := issueCycles d.descs.length
      let x := { s.newFlight j n with
        start := s.clk + n, units := s.planUnits j, todo := d.pieces
        descs := d.descs.map (fun a => (a, s.bytes a 64)) ++ d.lists.map fun e => (e.1, s.bytes e.1 e.2)
        range := d.pieces.flatMap (·.range), oor := d.oor, first := d.first }
      let s := ((s.bump .OOR_COUNT 0 d.oor).addFlight x).feedPieces k d
      match d.flaw with
      | none => s.faultDead k
      | some f =>
        ((s.countFlaw f).on (f.cause = 0x0A || f.cause = 0x0B) fun s => s.bump .MAP_FAULTS).setFlight k fun y =>
          { y.halt with status := 0x30, cause := f.cause, sub := f.sub, addr := f.addr, len := f.len, r0 := f.arg }

/-- Whether the instruction may issue now: open work waits for its units (R187, R209, R216, R247, R249). -/
def State.mayIssue (s : State) (j : Job) (g : Prog) : Bool :=
  j.planned ||
  match g with
  | .tile t _ => s.mayTakeUnits t.cycles t.sides
  | .desc _ => (upTo (s.unitCount (wordClass j.word))).any (s.unitIdle (wordClass j.word))

/-- The event of an instruction of opcode `opc`: its checks, then its issue, once its unit is free. -/
def State.issueWork (s : State) (i : Issuer) (opc : Nat) (work : State → Job → Chk Prog) : State :=
  match s.takeJob i opc with
  | .none => s
  | .queued s => s
  | .job p j =>
    match work p j with
    | .error f => p.failJob j.ctx f
    | .ok g => if p.mayIssue j g then p.launchProg j g else s.holdJob i

/-! ### Completion -/

/-- Nothing of the instruction is outstanding. -/
def State.flightDone (s : State) (x : Flight) : Bool :=
  !x.fetching && x.ledgerOver && x.out.isEmpty && !s.writing (.flight x.id)

/-- Status, R0 and R1; out-of-range lanes or entries make it DONE_PARTIAL (R142, R200). -/
def flightEnd (s : State) (x : Flight) : End :=
  if x.status = 0x30 then { End.faulted x.cause x.sub x.addr x.len x.r0 with ash := x.ash }
  else if x.status = 0 && x.oor != 0 then { status := 0x02, r0 := x.r0, r1 := x.oor % 2 ^ 32 + x.first * 2 ^ 32, note := x.note }
  else
    { status := if x.status = 0 && x.contract != 0 && x.contract < s.clk then 0x01 else x.status, r0 := x.r0, r1 := x.r1, note := x.note }

/-- The one record of R190. -/
def State.closeFlight (s : State) (x : Flight) : State :=
  let s := { s with flights := s.flights.filter (·.id != x.id), reads := s.reads.filter fun r => r.owner != Owner.flight x.id }
  s.endWork x.ctx (flightEnd s x)

/-! ### Unassigned opcodes (R155) -/

/-- The opcodes of classes 0x1 to 0x6 and 0x8 that the chapters assign. -/
def assigned (opc : Nat) : Bool :=
  [0x10, 0x11, 0x20, 0x21, 0x22, 0x23, 0x24, 0x25, 0x26, 0x30, 0x40, 0x50, 0x51, 0x52, 0x53, 0x54, 0x55, 0x56, 0x60, 0x61, 0x62, 0x63, 0x64,
   0x80, 0x81, 0x82, 0x83, 0x84, 0x85, 0x86].contains opc

/-- Instructions at the front of a hearth's queue that no chapter assigns fail as they issue. -/
def State.refuseFronts (s : State) (t : Nat) : Nat → State
  | 0 => s
  | n + 1 =>
    let h := s.hearth t
    match h.front with
    | none => s
    | some q =>
      if assigned (wordOpc q.word) then s
      else ((s.setHearth t { h with iq := h.iq.erase q }).failJob { q.ctx with start := s.now } (ichk 0x01)).refuseFronts t n

/-- A released item's instruction that no chapter assigns fails as it issues. -/
def State.refuseItem (s : State) (k : Nat) : State :=
  match s.released.find? (·.id = k) with
  | none => s
  | some r =>
    if assigned (wordOpc r.word) then s
    else match s.takeJob (.item k) (wordOpc r.word) with
      | .job p j => p.failJob j.ctx (ichk 0x01)
      | _ => s

/-! ### Commands of submission queues -/

/-- A command joins its hearth's instruction queue (R473, R483). -/
def enqueueInstr (w : Word128) (r : Taken) (s : State) (cmd : Bool := false) : State :=
  let h := s.hearth r.hearth
  if 32 ≤ h.iq.length then s.complete (takenCtx r) (.refused 0x10 2)
  else s.setHearth r.hearth
    { h with iq := h.iq ++ [{ ctx := takenCtx r, word := w, prio := (recNum r.bytes 1 1).testBit 0, deadline := recNum r.bytes 2 2, cmd := cmd }] }
    |>.refuseFronts r.hearth 32

def execInstr (t : Fin 16) (s : State) : Answer :=
  live s fun s => s.onCmd t 0x01 fun r s => enqueueInstr (BitVec.ofNat 128 (recNum r.bytes 16 16)) r s

/-! ### Pre-emption (R188) -/

/-- What a tile-form instruction writes in an uninterrupted run from now on. -/
def State.tileNew (s : State) (x : Flight) : List (Nat × List Byte) :=
  (x.ledger.foldl (fun (y : Flight) e => y.act s e.2) { x with writes := [], capA := [], capB := [] }).writes.flatMap (·.data)

/-- Planned work has pre-empted an open instruction, whose memory beats came late: what runs of it is abandoned, and starts again in the
next free window of its unit. -/
def State.preemptFlight (s : State) (x : Flight) : State :=
  if x.ledger.isEmpty then forAll x.runs (fun r s => s.requeue x.id r) s
  else
    ((s.mixChunks (s.tileNew x)).freeUnits x.sides).setFlight x.id fun y => { y with acts := [], writes := [], capA := [], capB := [], again := true }

def execPieceRestart (k : Nat) (s : State) : Answer :=
  live s fun s =>
    match s.flight k with
    | none => s
    | some x => if x.planned || x.status = 0x30 || (x.acts.isEmpty && x.writes.isEmpty && x.runs.isEmpty) then s else s.preemptFlight x

end Sys2Proof.Machine
end

