-- ==== Sys2Proof/Machine/Moves.lean ====
section
/-! DEFINITION. Tile moves `mov.t` and `mov.z` (R182 to R184). -/

namespace Sys2Proof.Machine

def fileOk (f : Nat) : Bool := 1 ≤ f && f ≤ 5

/-- Unit `u` of the class of file `f` may be named; a file that names no class is left to ICHK OPERAND. -/
def State.moveUnit (s : State) (j : Job) (f u : Nat) : Bool := !fileOk f || u < s.unitLimit j (fileClass f)

/-- Rows of the tile (R166). -/
def moveRows (w : Word128) : Nat := tileRows (tileBits (wElem w) (wD0 w * wD1 w))

/-- ICHK 0x02 to 0x0A, then the rows (R170, R182, R183). `from_`: SRC_A is an operand; `du`: the destination's unit. -/
def State.checkMove (s : State) (j : Job) (from_ : Bool) (du : Nat) : Chk Unit := do
  let w := j.word
  let n := moveRows w
  let there (k : Nat) : Bool := wFile w k != 0
  need (wordReserved w && wOpx w = 0 && (if from_ then wAux16 w < 32 else wAux16 w = 0)) (ichk 0x02)
  need (wordTile w) (ichk 0x03)
  need (s.expert j.hearth) (ichk 0x04)
  need ((!from_ || s.moveUnit j (wFile w 1) (wUnit w)) && s.moveUnit j (wFile w 0) du) (ichk 0x05)
  need (fileOk (wFile w 0) && (if from_ then fileOk (wFile w 1) else !there 1 && !wReuseA w) && !there 2 && !wReuseB w) (ichk 0x06)
  need (elemOk (wElem w)) (ichk 0x07)
  need (!isMx (wElem w) || wD0 w % 32 = 0) (ichk 0x08)
  need (wRow w 0 + n ≤ fileRows (fileClass (wFile w 0)) && (!from_ || wRow w 1 + n ≤ fileRows (fileClass (wFile w 1)))) (ichk 0x09)
  need (!(from_ && wFile w 0 = wFile w 1 && du = wUnit w && rowsOverlap (wRow w 0) n (wRow w 1) n)) (ichk 0x0A)
  if from_ then s.checkRows j.hearth (fileClass (wFile w 1)) (wUnit w) (wRow w 1) n .r else .ok ()
  s.checkRows j.hearth (fileClass (wFile w 0)) du (wRow w 0) n .w

/-- The beats of a move of `n` rows at `rate` bytes: cycle, offset and length. -/
def moveBeats (n rate : Nat) : List (Nat × Nat × Nat) := rowBeats (n * 1024) rate

/-- R182, R184: the source's move port reads a beat in each cycle from cycle 2 on, the destination's writes it TRANSIT + 1 cycles later. -/
def State.movT (s : State) (j : Job) : Chk Prog := do
  let w := j.word
  let du := wAux16 w % 32
  s.checkMove j true du
  let sc := fileClass (wFile w 1)
  let dc := fileClass (wFile w 0)
  let n := moveRows w
  let l := moveBeats n (min (portRate sc) (portRate dc))
  let b := l.length
  let transit := if sc != dc then 6 else if du = wUnit w then 1 else 4
  let sa := rowAddr sc (wUnit w) (wRow w 1)
  let da := rowAddr dc du (wRow w 0)
  return .tile
    { rows := [], cycles := 3 + transit + b
      ledger := l.map fun e => (2 + e.1, .beat (sa + e.2.1) e.2.2 (da + e.2.1) (1 + transit))
      sides := [⟨16 + sc, wUnit w, 2, 2 + b, 2, 2 + b⟩, ⟨16 + dc, du, 3 + transit, 3 + transit + b, 3 + transit, 3 + transit + b⟩] }
    [(da, n * 1024)]

/-- R183, R184. -/
def State.movZ (s : State) (j : Job) : Chk Prog := do
  let w := j.word
  s.checkMove j false (wUnit w)
  let dc := fileClass (wFile w 0)
  let l := moveBeats (moveRows w) (portRate dc)
  let b := l.length
  let da := rowAddr dc (wUnit w) (wRow w 0)
  return .tile
    { rows := [], cycles := 2 + b, ledger := l.map fun e => (2 + e.1, .zero (da + e.2.1) e.2.2)
      sides := [⟨16 + dc, wUnit w, 2, 2 + b, 2, 2 + b⟩] }
    [(da, moveRows w * 1024)]

def execMovT (i : Issuer) (s : State) : Answer := live s fun s => s.issueWork i 0x10 State.movT

def execMovZ (i : Issuer) (s : State) : Answer := live s fun s => s.issueWork i 0x11 State.movZ

end Sys2Proof.Machine
end

