-- ==== Sys2Proof/Machine/Fabric.lean ====
section
/-! DEFINITION. The permutation fabric: maps (R191 to R200), raw route words (R213, R214), the tile form (R210 to R212), relayout and
block gather and scatter (R201 to R206). -/

namespace Sys2Proof.Machine

/-! ### The word -/

/-- What the fabric asks of a word (Tables 6.1, 6.2, R202, R210). -/
def fabSpec (w : Word128) : Spec :=
  let opc := wordOpc w
  let tile := wordTile w
  { desc := opc != 0x26
    ptrs := (some true, some true, some (opc != 0x20))
    srcB := some true
    res := !tile || (wOpx w < 32 && (if opc = 0x24 then wAux16 w < 32 else wAux16 w = 0))
    elem := if tile then (if opc = 0x24 then sumElem (wElem w) else wideElem (wElem w))
      else wElem w = wOpx w && (opc != 0x24 || sumElem (wElem w))
    shape := !tile || fabShape w }

/-! ### Descriptor form -/

/-- Global footprints overlap. -/
def footOverlap (a n b m : Nat) : Bool := overlaps a n b (b + m)

/-- R204: narrow and MX formats move whole inner tiles. -/
def tilesAgree (x y : Layout) : Bool := !(isMx x.elem || x.width < 8) || (x.t1 = y.t1 && x.ordE = y.ordE)

/-- R202: formats and rank of the word against the descriptors. -/
def descMatch (w : Word128) (e1 e2 n : Nat) : Bool := wElem w = e1 && wOpx w = e2 && wNdim w = n

/-! ### Ledgers of pieces (R207, R208, R217) -/

/-- The largest power of two, at most `cap`, that divides `n`. -/
def powerIn (n cap : Nat) : Nat := (upTo 6).foldl (fun u k => if 2 ^ k ≤ cap && n % 2 ^ k = 0 then 2 ^ k else u) 1

/-- U: the bytes of a unit between two blocks' layouts (R207). -/
def unitBytes (x y : Layout) : Nat :=
  if x.t1 = y.t1 && x.ordE = y.ordE then powerIn y.tb1 32
  else
    let d := y.ordE.headD 0
    let e := y.width / 8
    if x.ordE.headD 0 != d then e else e * min (powerIn (x.t1.getD d 1) (32 / e)) (powerIn (y.t1.getD d 1) (32 / e))

/-- Bm: the bytes that a map carries. -/
def mapCarry (x y : Layout) : Nat := min 1024 (256 * unitBytes x y)

/-- Each element of a piece: its map's window of destination bytes, counted from the piece's first byte, and the window of the source that
it comes from (log entry 104). -/
def windowsOf (bm : Nat) (ts : List DTile) : List (Nat × Nat) :=
  ts.zipIdx.flatMap fun e =>
    let t := e.1
    (upTo t.lay.elems).flatMap fun le =>
      let q := t.lay.coordAt t.lo t.li le
      if !t.inside q then []
      else (t.from_ q).map fun f => ((e.2 * t.lay.tb1 + le * t.lay.width / 8) / bm, (f.1.base + f.1.bitOff f.2 / 8) / bm)

/-- Every window of the piece's destination bytes draws on one window of the source (R208). -/
def windowLocal (bm : Nat) (ts : List DTile) : Bool :=
  let l := windowsOf bm ts
  (List.zip l l.tail).all fun e => e.1.1 != e.2.1 || e.1.2 = e.2.2

/-- R217 for a piece of `ts` with `bm` bytes per map; `one`: window-local whatever the addresses. -/
def fabLedger (opc bm : Nat) (one : Bool) (ts : List DTile) (p : Piece) : Piece :=
  let ii := if opc = 0x24 then 4 else 1
  let lag := if opc = 0x24 then 13 else 9
  let m := ceilDiv (pieceBytes ts) bm
  let pass := m * ii + 10
  if one || windowLocal bm ts then
    { p with inC := m * ii, hold := m * ii, out0 := lag, total := (m - 1) * ii + lag + 1, step := bm, pace := ii }
  else { p with inC := m * ii, hold := 3 * pass, out0 := 2 * pass + lag, total := 3 * pass, step := bm, pace := ii }

/-! ### Relayout -/

/-- OVERLAP, DESC_MATCH and the window checks of two layouts (R185). -/
def State.checkPair (s : State) (j : Job) (x y : Layout) : Chk Unit := do
  need (!footOverlap x.base x.size y.base y.size) (ichk 0x0A)
  need (descMatch j.word x.elem y.elem x.ndim) (ichk 0x0B)
  s.access j.hearth x.base x.size .r
  s.access j.hearth y.base y.size .w

/-- The destination tiles of a whole tensor. -/
def Layout.whole (y : Layout) (nar : List (List Byte) → List Nat → Nar) (scale : List (List Byte) → List Nat → Nat)
    (from_ : List Nat → List (Layout × List Nat)) : List DTile :=
  y.tiles.map fun e => { lay := y, lo := e.1, li := e.2, nar := nar, scale := scale, inside := y.inside, from_ := from_ }

/-- A change of ORDER_I or ORDER_O alone, with maps no larger than a tile, is window-local (R208). -/
def ordersOnly (x y : Layout) : Bool :=
  x.t1 = y.t1 && x.t2 = y.t2 && x.ordE = y.ordE && x.align = y.align && mapCarry x y ≤ y.tb1

/-- Relayout (R203, R204). -/
def State.fabRelay (s : State) (j : Job) : Chk Prog := do
  let w := j.word
  let x ← s.readLayout j.hearth (wSrc w)
  let y ← s.readLayout j.hearth (wDst w)
  need (x.elem != y.elem || (x.ndim = y.ndim && x.ext = y.ext && tilesAgree x y)) (ichk 0x08)
  s.checkPair j x y
  let ts := y.whole (fun src q => { code := x.code (src.headD []) q }) (fun src q => x.scale (src.headD []) q) fun q => [(x, q)]
  return .desc (s.descProg [ptrAddr (wSrc w), ptrAddr (wDst w)] [(x.base, x.size)] ts (fabLedger 0x20 (mapCarry x y) (ordersOnly x y)))

/-! ### Blocks -/

/-- An element of a block of `x` at grid coordinate `c` (none for an address that is no grid block) lies inside the block, and the block's
part of the tensor (R123). -/
def blockInside (x : Tensor) (outer : Bool) (c : Option (List Nat)) (e : List Nat) : Bool :=
  let sh := (x.block outer).ext
  (upTo x.ndim).all fun d =>
    e.getD d 0 < sh.getD d 1 && c.all fun c => c.getD d 0 * sh.getD d 1 + e.getD d 0 < x.ext.getD d 0

/-- A block of a tensor at an address. -/
def Tensor.blockAt (x : Tensor) (outer : Bool) (ga : Nat) : Layout := { x.block outer with base := ga }

/-- Checks that block gather and scatter share; `x` is the listed tensor, `y` the other, a layout; `spots`: where the listed blocks lie
(R161, R205). -/
def State.checkBlocks (s : State) (j : Job) (x : Tensor) (y : Layout) (c : Coords) (gather : Bool) (spots : List Nat) : Chk Unit := do
  let w := j.word
  let bx := x.block c.outer
  let b := y.block c.outer
  need (x.elem = y.elem && x.ndim = y.ndim && bx.ext = b.ext && tilesAgree bx b && c.count ≤ prod (y.grid c.outer)) (ichk 0x08)
  let foot : List (Nat × Nat) := match x with | .lay l => [(l.base, l.size)] | .own _ => []
  let listed := foot ++ spots.map fun ga => (ga, bx.size)
  let src := (c.addr, c.size) :: (if gather then listed else [(y.base, y.size)])
  let dst := if gather then [(y.base, y.size)] else listed
  need (src.all fun r => dst.all fun d => !footOverlap r.1 r.2 d.1 d.2) (ichk 0x0A)
  need (if gather then descMatch w x.elem y.elem x.ndim else descMatch w y.elem x.elem y.ndim) (ichk 0x0B)
  needAll (if gather then foot else [(y.base, y.size)]) fun r => s.access j.hearth r.1 r.2 .r
  needAll (if gather then [(y.base, y.size)] else foot) fun d => s.access j.hearth d.1 d.2 .w
  s.access j.hearth c.addr c.size .r

/-- One listed block: what its entry says, and its grid coordinate. -/
abbrev Listed := Spot × Option (List Nat)

/-- Entries before the first whose block faults, and that fault. -/
def listedOk (l : List Listed) : List Listed × Option Flaw :=
  let ok := l.takeWhile fun e => match e.1 with | .flaw _ => false | _ => true
  (ok, match (l.drop ok.length).head? with | some (.flaw f, _) => some f | _ => none)

def isAbsent (e : Listed) : Bool := match e.1 with | .absent => true | _ => false
def spotAddrs (e : Listed) : List Nat := match e.1 with | .at_ g => g | _ => []

/-- Number of absent or out-of-range entries, and the first one. -/
def countAbsent (l : List Listed) : Nat × Nat := ((l.filter isAbsent).length, (l.findIdx? isAbsent).getD 0)

/-- The coordinate list, and the entries of an owner table, as local ranges. -/
def listsOf (x : Tensor) (c : Coords) : List (Nat × Nat) :=
  (localOf c.addr, c.size) :: (match x with | .lay _ => [] | .own h => [(h.table, 16 * h.entries)])

/-- Blocks with one tiling (R208). -/
def sameTiling (a b : Layout) : Bool := a.t1 = b.t1 && a.t2 = b.t2 && a.ordE = b.ordE && a.ordI = b.ordI

/-- Block gather (R142, R205, R550): entry `k` goes to block `k`; a NULL, absent or out-of-range one gives zero bits. -/
def State.fabGather (s : State) (j : Job) : Chk Prog := do
  let w := j.word
  let x ← s.readTensor j.hearth (wSrc w) true
  let y ← s.readLayout j.hearth (wDst w)
  let c ← s.readCoords j.hearth (wAux w) x.ndim
  let ls := listedOk ((upTo c.count).map (s.entrySpot j.hearth c x false))
  s.checkBlocks j x y c true (ls.1.flatMap spotAddrs)
  let b := y.block c.outer
  let cnt := countAbsent ls.1
  let tiles (k : Nat) : List DTile :=
    let e := ls.1.getD k (.absent, none)
    let g := unlin (y.grid c.outer) k
    let dst := { b with base := y.blockAddr c.outer g }
    let src := x.blockAt c.outer ((spotAddrs e).headD 0)
    let here (q : List Nat) : Bool := !(spotAddrs e).isEmpty && blockInside x c.outer e.2 q
    dst.tiles.map fun t =>
      { lay := dst, lo := t.1, li := t.2, inside := blockInside (.lay y) c.outer (some g)
        nar := fun bs q => { code := if here q then src.code (bs.getD k []) q else 0 }
        scale := fun bs q => if (spotAddrs e).isEmpty then 0 else src.scale (bs.getD k []) q
        from_ := fun q => if here q then [(src, q)] else []
        flaw := if k = ls.1.length then ls.2 else none }
  let g := s.descProg (s.descsOf (wSrc w) ++ [ptrAddr (wDst w), ptrAddr (wAux w)])
    (ls.1.map fun e => match spotAddrs e with | ga :: _ => (ga, (x.block c.outer).size) | [] => (0, 0))
    ((upTo (min c.count (ls.1.length + 1))).flatMap tiles) (fabLedger 0x21 (mapCarry (x.block c.outer) b) (sameTiling (x.block c.outer) b))
  return .desc { g with oor := cnt.1, first := cnt.2, lists := listsOf x c }

/-- Block scatter (R143, R196, R205, R206): blocks in the order of their addresses, each combined from every entry that names it. Nothing
is written before every source byte is here. -/
def State.fabScatter (s : State) (j : Job) : Chk Prog := do
  let w := j.word
  let p := fabPolicy (wordOpc w)
  let x ← s.readLayout j.hearth (wSrc w)
  let y ← s.readTensor j.hearth (wDst w) true
  let c ← s.readCoords j.hearth (wAux w) y.ndim
  let ls := listedOk ((upTo c.count).map (s.entrySpot j.hearth c y true))
  s.checkBlocks j y x c false (ls.1.flatMap spotAddrs)
  let cnt := countAbsent ls.1
  let hit (k : Nat) : List Nat := spotAddrs (ls.1.getD k (.absent, none))
  let b := x.block c.outer
  let srcAt (k : Nat) : Layout := { b with base := x.blockAddr c.outer (unlin (x.grid c.outer) k) }
  let named := (upTo ls.1.length).filter fun k => !(hit k).isEmpty
  let firsts := named.filter fun k => (upTo k).all fun i => hit i != hit k
  let writers (k : Nat) : List Nat := named.filter fun i => hit i = hit k
  let coll (k : Nat) : Nat := (writers k).length - 1
  let win (k : Nat) : Nat := if p = .last then (writers k).getLastD k else k
  let tiles (e : Nat × Nat) : List DTile :=
    let k := e.1
    let g := (ls.1.getD k (.absent, none)).2
    let dst := y.blockAt c.outer e.2
    let first := (hit k).headD 0 = e.2
    let val (bs : List (List Byte)) (i : Nat) (q : List Nat) : Nat :=
      if blockInside (.lay x) c.outer (some (unlin (x.grid c.outer) i)) q then b.code (bs.getD i []) q else 0
    dst.tiles.zipIdx.map fun t =>
      { lay := dst, lo := t.1.1, li := t.1.2, inside := blockInside y c.outer g
        nar := fun bs q =>
          let r := combine p x.elem ((writers k).map fun i => val bs i q)
          if first then r else { code := r.code }
        scale := fun bs q => b.scale (bs.getD (win k) []) q
        from_ := fun q => (if p = .sum then writers k else [win k]).map fun i => (srcAt i, q)
        coll := if first && t.2 = 0 then coll k else 0
        flaw := if p = .fault && coll k != 0 then some { cause := 0x0B } else none }
  let reads := (upTo ls.1.length).map fun k => ((srcAt k).base, b.size)
  let dsts := (firsts.flatMap fun k => (hit k).map fun ga => (k, ga)).mergeSort fun a b => a.2 ≤ b.2
  let g := s.descProg (ptrAddr (wSrc w) :: ptrAddr (wAux w) :: s.descsOf (wDst w)) reads (dsts.flatMap tiles)
    (fabLedger (wordOpc w) (mapCarry b (y.block c.outer)) (sameTiling b (y.block c.outer)))
  let all_ : List Piece := g.pieces.map fun q => if q.no = 0 then { q with src := reads } else q
  return .desc { g with pieces := all_, oor := cnt.1, first := cnt.2, flaw := ls.2, lists := listsOf y c }

/-! ### The instructions -/

/-- R185 for a fabric instruction; `desc`: its descriptor form. -/
def State.fabWork (desc : State → Job → Chk Prog) (s : State) (j : Job) : Chk Prog := do
  s.checkWord j (fabSpec j.word)
  if wordTile j.word then s.checkTile j else desc s j

def execPermRoute (i : Issuer) (s : State) : Answer := live s fun s => s.issueWork i 0x20 (State.fabWork State.fabRelay)

def execPermGather (i : Issuer) (s : State) : Answer := live s fun s => s.issueWork i 0x21 (State.fabWork State.fabGather)

def execPermScatterFirst (i : Issuer) (s : State) : Answer := live s fun s => s.issueWork i 0x22 (State.fabWork State.fabScatter)

def execPermScatterLast (i : Issuer) (s : State) : Answer := live s fun s => s.issueWork i 0x23 (State.fabWork State.fabScatter)

def execPermScatterSum (i : Issuer) (s : State) : Answer := live s fun s => s.issueWork i 0x24 (State.fabWork State.fabScatter)

def execPermScatterFault (i : Issuer) (s : State) : Answer := live s fun s => s.issueWork i 0x25 (State.fabWork State.fabScatter)

/-- R213: tile form only, which `checkWord` asks of opcode 0x26. -/
def execPermRaw (i : Issuer) (s : State) : Answer := live s fun s => s.issueWork i 0x26 (State.fabWork State.fabRelay)

end Sys2Proof.Machine
end

