-- ==== Sys2Proof/Machine/Engines.lean ====
section
/-! DEFINITION. Transposers, window expanders and bit-plane engines (R222 to R238, R245, R248). -/

namespace Sys2Proof.Machine

/-- The block behind AUX of a descriptor-form instruction. -/
def State.readParam (s : State) (t p kind : Nat) : Chk (List Byte) := do
  let b ← s.readPtr t p
  kindGen b kind (ptrGen p)
  return b

/-! ### Descriptor-form work -/

/-- What a descriptor-form instruction writes: each element, from the bytes of the source and of further operands, and the scale byte of its
block; the source elements that it needs; and the further operands, with the elements of each that it needs. -/
structure DescRun where
  nar : List (List Byte) → List Nat → Nar
  scale : List (List Byte) → List Nat → Nat := fun _ _ => 0
  from_ : List Nat → List (List Nat)
  more : List (Layout × (List Nat → List (List Nat))) := []

/-- Bytes of the further operands that the tiles use. -/
def DescRun.parBytes (r : DescRun) (ts : List DTile) : Nat :=
  sumOf (r.more.map fun m => (ts.flatMap fun t => t.elems.flatMap m.2).eraseDups.length * m.1.width / 8)

/-- The ledger of a piece of a shape engine (R245, R248). -/
def shapeLedger (cls : Nat) (ts : List DTile) (p : Piece) : Piece :=
  let r := portRate cls
  let n := ceilDiv (sumOf (p.src.map (·.2))) r
  let o := n + shapeLag cls
  { p with inC := n, hold := n, out0 := o, total := o + ceilDiv (pieceBytes ts) r, step := r }

/-- OVERLAP, DESC_MATCH, the window checks and the program of a source, a destination and further source layouts (R161, R185); `led`: the
ledger of a piece. -/
def State.descWork (s : State) (j : Job) (x y : Layout) (descs : List Nat) (r : DescRun) (led : List DTile → Piece → Piece) : Chk Prog := do
  let ls := x :: r.more.map (·.1)
  need (ls.all fun l => !footOverlap l.base l.size y.base y.size) (ichk 0x0A)
  need (descMatch j.word x.elem y.elem x.ndim) (ichk 0x0B)
  needAll ls fun l => s.access j.hearth l.base l.size .r
  s.access j.hearth y.base y.size .w
  let ts := y.whole r.nar r.scale fun q => (r.more.flatMap fun m => (m.2 q).map fun e => (m.1, e)) ++ (r.from_ q).map fun e => (x, e)
  return .desc (s.descProg descs (ls.map fun l => (l.base, l.size)) ts led)

/-- The same for a shape engine. -/
def State.shapeWork (s : State) (j : Job) (x y : Layout) (descs : List Nat) (r : DescRun) : Chk Prog :=
  s.descWork j x y descs r (shapeLedger (wordClass j.word))

/-- An element move: the destination element at `q` is the source's at `f q` (none: 0). -/
def moveRun (x : Layout) (f : List Nat → Option (List Nat)) : DescRun :=
  { nar := fun src q => { code := match f q with | none => 0 | some p => x.code (src.headD []) p }
    from_ := fun q => (f q).toList }

/-! ### Transposers (R230, R231) -/

def tpSpec (w : Word128) : Spec :=
  { ptrs := (some true, some true, none), res := !wordTile w || (wOpx w = 0 && wAux16 w = 0)
    elem := wideElem (wElem w) && (wordTile w || wElem w = wOpx w) }

/-- AXES of a parameter block for rank `n`. -/
def axesOf (b : List Byte) : Nat := bnum b 4 2 + bnum b 6 1 % 4 * 2 ^ 16

def State.tpDesc (s : State) (j : Job) : Chk Prog := do
  let w := j.word
  let x ← s.readLayout j.hearth (wSrc w)
  let y ← s.readLayout j.hearth (wDst w)
  let absent := ptrAbsent (wAux w)
  let b ← (if absent then .ok [] else s.readParam j.hearth (wAux w) 0x10)
  need (absent || (zeroBytes b 2 4 && bnum b 6 1 < 4 && zeroBytes b 7 64)) (dchk 0x03)
  need (absent || orderOk (axesOf b) x.ndim) pchk
  let axes := if absent then [1, 0] ++ (upTo x.ndim).drop 2 else order (axesOf b) x.ndim
  need ((!absent || 2 ≤ x.ndim) && x.ndim = y.ndim && (upTo x.ndim).all fun k => y.ext.getD k 0 = x.ext.getD (axes.getD k 0) 0) (ichk 0x08)
  s.shapeWork j x y ([wSrc w, wDst w, wAux w].filter (fun p => !ptrAbsent p) |>.map ptrAddr)
    (moveRun x fun q => some ((upTo x.ndim).map fun d => q.getD ((axes.findIdx? (· = d)).getD 0) 0))

/-! ### Window expanders (R232 to R234) -/

def winSpec (w : Word128) : Spec :=
  { ptrs := (some true, some true, some true), srcB := some true, res := !wordTile w || (wOpx w = 0 && wAux16 w = 0)
    elem := wideElem (wElem w) && (wordTile w || wElem w = wOpx w) }

def State.winDesc (s : State) (j : Job) : Chk Prog := do
  let w := j.word
  let x ← s.readLayout j.hearth (wSrc w)
  let y ← s.readLayout j.hearth (wDst w)
  let b ← s.readParam j.hearth (wAux w) 0x11
  let p ← winBlock b
  let wd := x.ext.getD 1 0
  let h := x.ext.getD 2 0
  let n := x.ndim
  need (!(n = 3 || n = 4) || p.fits wd h) pchk
  need ((n = 3 || n = 4) && y.ext = [x.ext.getD 0 0, p.kw, p.kh, p.ow wd, p.oh h] ++ x.ext.drop 3) (ichk 0x08)
  s.shapeWork j x y [ptrAddr (wSrc w), ptrAddr (wDst w), ptrAddr (wAux w)]
    (moveRun x fun q =>
      (p.input wd h (q.getD 1 0) (q.getD 2 0) (q.getD 3 0) (q.getD 4 0)).map fun c => [q.getD 0 0, c.1, c.2] ++ q.drop 5)

/-! ### Bit-plane engines -/

/-- Unsigned and signed narrow integers of Table 7.2. -/
def narrowInt2 (e : Nat) : Bool := 0x02 ≤ e && e ≤ 0x09

/-- Table 7.2 for `bp.unpack`. -/
def unpackOk (x y : Nat) : Bool :=
  (narrowInt2 x && (y = (if x % 2 = 0 then 0x0A else 0x0B) || y = 0x13 || y = 0x12)) ||
  (isMx x && (y = 0x13 || y = 0x14)) || ((x = 0x13 || x = 0x12) && y = 0x14)

/-- Table 7.2 for `bp.pack`. -/
def packOk (x y : Nat) : Bool :=
  (x = 0x0A && narrowInt2 y && y % 2 = 0) || (x = 0x0B && narrowInt2 y && y % 2 = 1) ||
  ((x = 0x12 || x = 0x13 || x = 0x14) && isMx y) || (x = 0x14 && (y = 0x13 || y = 0x12))

def convSpec (ok : Nat → Nat → Bool) (w : Word128) : Spec :=
  { ptrs := (some true, some true, some false), res := !wordTile w || wAux16 w = 0
    elem := elemOk (wOpx w) && ok (wElem w) (wOpx w)
    shape := !wordTile w || !(isMx (wElem w) || isMx (wOpx w)) || wD0 w % 32 = 0 }

/-- An element of a layout as a number. -/
def Layout.num (l : Layout) (bs : List Byte) (q : List Nat) : Num :=
  if isMx l.elem then mxUnpack l.elem (l.code bs q) (l.scale bs q) else decode l.elem (l.code bs q)

/-- The elements of the tensor in the scale block of element `q` (R120). -/
def Layout.mates (l : Layout) (q : List Nat) : List (List Nat) :=
  let p := l.place q
  ((upTo 32).map fun k => l.coordAt p.lo p.li (p.le / 32 * 32 + k)).filter l.inside

def convRun (x y : Layout) : DescRun :=
  { nar := fun src q =>
      let bs := src.headD []
      if isMx y.elem then mxPack y.elem ((y.mates q).map (x.num bs)) (x.num bs q) else narrow y.elem (x.num bs q)
    scale := fun src q => mxScaleByte y.elem ((y.mates q).map (x.num (src.headD [])))
    from_ := fun q => if isMx y.elem then y.mates q else [q] }

def State.convDesc (s : State) (j : Job) : Chk Prog := do
  let w := j.word
  let x ← s.readLayout j.hearth (wSrc w)
  let y ← s.readLayout j.hearth (wDst w)
  let lead (l : Layout) : Nat := l.t1.getD (l.ordE.headD 0) 1
  need (x.ndim = y.ndim && x.ext = y.ext && (!(isMx x.elem || isMx y.elem) || (lead x % 32 = 0 && lead y % 32 = 0))) (ichk 0x08)
  s.shapeWork j x y [ptrAddr (wSrc w), ptrAddr (wDst w)] (convRun x y)

/-! ### Bit planes (R236) -/

def planeSpec (un : Bool) (w : Word128) : Spec :=
  let f := if un then wOpx w else wElem w
  { ptrs := (some true, some true, some false), res := !wordTile w || (wOpx w < 8 && wAux16 w = 0)
    elem := if wordTile w then wElem w = 0x0A else isInt f && (if un then wElem w else wOpx w) = 0x0A
    shape := !wordTile w || wD0 w % 8 = 0 }

/-- The fields' extents against the planes'. -/
def planeShape (f p : Layout) : Bool :=
  (f.ndim = 1 || f.ndim = 2) && f.ext.getD 0 0 % 8 = 0 && p.ext = [f.ext.getD 0 0 / 8, f.width] ++ f.ext.drop 1

def planeRun (x : Layout) : DescRun :=
  { nar := fun src q => { code := sumOf ((upTo 8).map fun i =>
      b2n ((x.code (src.headD []) ((q.getD 0 0 * 8 + i) :: q.drop 2)).testBit (q.getD 1 0)) * 2 ^ i) }
    from_ := fun q => (upTo 8).map fun i => (q.getD 0 0 * 8 + i) :: q.drop 2 }

def unplaneRun (x : Layout) (fw : Nat) : DescRun :=
  { nar := fun src q => { code := sumOf ((upTo fw).map fun b =>
      b2n ((x.code (src.headD []) (q.getD 0 0 / 8 :: b :: q.drop 1)).testBit (q.getD 0 0 % 8)) * 2 ^ b) }
    from_ := fun q => (upTo fw).map fun b => q.getD 0 0 / 8 :: b :: q.drop 1 }

def State.planeDesc (un : Bool) (s : State) (j : Job) : Chk Prog := do
  let w := j.word
  let x ← s.readLayout j.hearth (wSrc w)
  let y ← s.readLayout j.hearth (wDst w)
  need (if un then planeShape y x else planeShape x y) (ichk 0x08)
  s.shapeWork j x y [ptrAddr (wSrc w), ptrAddr (wDst w)] (if un then unplaneRun x y.width else planeRun x)

/-! ### Interleave (R237) -/

def channelsOk (n : Nat) : Bool := 2 ≤ n && n ≤ 64

def ilvSpec (un : Bool) (w : Word128) : Spec :=
  { ptrs := (some true, some true, some false), res := !wordTile w || (wOpx w = 0 && wAux16 w = 0)
    elem := !isMx (wElem w) && (wordTile w || wElem w = wOpx w)
    shape := !wordTile w || channelsOk (if un then wD0 w else wD1 w) }

def State.ilvDesc (un : Bool) (s : State) (j : Job) : Chk Prog := do
  let w := j.word
  let x ← s.readLayout j.hearth (wSrc w)
  let y ← s.readLayout j.hearth (wDst w)
  let planar := if un then y else x
  let stream := if un then x else y
  let n := planar.ext.getD 1 0
  need (planar.ndim = 2 && stream.ndim = 1 && channelsOk n && stream.ext = [planar.ext.getD 0 0 * n]) (ichk 0x08)
  s.shapeWork j x y [ptrAddr (wSrc w), ptrAddr (wDst w)]
    (moveRun x fun q => some (if un then [q.getD 0 0 * n + q.getD 1 0] else [q.getD 0 0 / n, q.getD 0 0 % n]))

/-! ### Colour planes (R238) -/

def colorSpec (w : Word128) : Spec :=
  { tile := false, ptrs := (some true, some true, some true), elem := wElem w = wOpx w && (wElem w = 0x0A || wElem w = 0x20) }

/-- Samples of a frame of `n` pixels (Table 7.6). -/
def colorSamples (m n : Nat) : Nat := if m ≤ 3 then 3 * n else if m ≤ 5 then 2 * n else 3 * n / 2

/-- The source sample of destination sample `k`, for `n` pixels (Table 7.6). -/
def colorFrom (m n k : Nat) : Nat :=
  match m with
  | 1 => k % n * 3 + k / n
  | 2 => k % 3 * n + k / 3
  | 3 => k % n * 3 + (2 - k / n)
  | 4 => if k < n then k / 2 * 4 + k % 2 * 2 else if k < n + n / 2 then (k - n) * 4 + 1 else (k - n - n / 2) * 4 + 3
  | 5 => if k % 4 = 1 then n + k / 4 else if k % 4 = 3 then n + n / 2 + k / 4 else k / 4 * 2 + k % 4 / 2
  | 6 => if k < n then k else if k < n + n / 4 then n + (k - n) * 2 else n + (k - n - n / 4) * 2 + 1
  | _ => if k < n then k else n + (k - n) / 2 + (k - n) % 2 * (n / 4)

def State.colorDesc (s : State) (j : Job) : Chk Prog := do
  let w := j.word
  let x ← s.readLayout j.hearth (wSrc w)
  let y ← s.readLayout j.hearth (wDst w)
  let b ← s.readParam j.hearth (wAux w) 0x12
  let m := bnum b 4 1
  let wd := bnum b 8 4
  let h := bnum b 12 4
  let n := wd * h
  need (zeroBytes b 2 4 && zeroBytes b 5 8 && zeroBytes b 16 64) (dchk 0x03)
  need (1 ≤ m && m ≤ 7 && (m < 4 || wd % 2 = 0) && (m < 6 || h % 2 = 0) && x.ext = [colorSamples m n] && y.ext = [colorSamples m n]) pchk
  s.shapeWork j x y [ptrAddr (wSrc w), ptrAddr (wDst w), ptrAddr (wAux w)] (moveRun x fun q => some [colorFrom m n (q.getD 0 0)])

/-! ### The instructions -/

/-- R185 for an engine instruction, in either form. -/
def State.engWork (spec : Word128 → Spec) (desc : State → Job → Chk Prog) (s : State) (j : Job) : Chk Prog := do
  s.checkWord j (spec j.word)
  if wordTile j.word then s.checkTile j else desc s j

def execTpTile (i : Issuer) (s : State) : Answer := live s fun s => s.issueWork i 0x30 (State.engWork tpSpec State.tpDesc)

def execWinExpand (i : Issuer) (s : State) : Answer :=
  live s fun s => s.issueWork i 0x40 (State.engWork winSpec State.winDesc)

def execBpUnpack (i : Issuer) (s : State) : Answer :=
  live s fun s => s.issueWork i 0x50 (State.engWork (convSpec unpackOk) State.convDesc)

def execBpPack (i : Issuer) (s : State) : Answer :=
  live s fun s => s.issueWork i 0x51 (State.engWork (convSpec packOk) State.convDesc)

def execBpPlane (i : Issuer) (s : State) : Answer :=
  live s fun s => s.issueWork i 0x52 (State.engWork (planeSpec false) (State.planeDesc false))

def execBpUnplane (i : Issuer) (s : State) : Answer :=
  live s fun s => s.issueWork i 0x53 (State.engWork (planeSpec true) (State.planeDesc true))

def execBpIlv (i : Issuer) (s : State) : Answer :=
  live s fun s => s.issueWork i 0x54 (State.engWork (ilvSpec false) (State.ilvDesc false))

def execBpDilv (i : Issuer) (s : State) : Answer :=
  live s fun s => s.issueWork i 0x55 (State.engWork (ilvSpec true) (State.ilvDesc true))

/-- R238: descriptor form only, which `checkWord` asks of it. -/
def execBpColor (i : Issuer) (s : State) : Answer :=
  live s fun s => s.issueWork i 0x56 (State.engWork colorSpec State.colorDesc)

end Sys2Proof.Machine
end

