-- ==== Sys2Proof/Machine/Mixers.lean ====
section
/-! DEFINITION. Mixer arrays (R239 to R246). -/

namespace Sys2Proof.Machine

/-! ### Words and parameters -/

def mixIn (e : Nat) : Bool := e = 0x0A || e = 0x0B || e = 0x10 || e = 0x11 || e = 0x13
def mixOut (e : Nat) : Bool := mixIn e || e = 0x12 || e = 0x14

/-- Table 7.2 and the operands of R240 to R244; `b`: the opcode takes a parameter block. -/
def mixSpec (b : Bool) (w : Word128) : Spec :=
  { ptrs := (some true, some true, some b), srcB := some b, res := !wordTile w || wAux16 w = 0, elem := mixIn (wElem w) && mixOut (wOpx w) }

/-! ### Descriptor form -/

/-- A layout that P1 or P2 names. -/
def State.readPar (s : State) (t : Nat) (p : Nat × Nat) : Chk (Option Layout) := do
  if !named p then return none
  else
    let b ← s.readDesc t p.1 0x01 p.2
    let l ← s.checkLayout b
    return some l

/-- `q` with coordinate `d` replaced. -/
def setCoord (q : List Nat) (d v : Nat) : List Nat := q.set d v

/-- Shapes of source, destination, P1 and P2 (R239 to R244). -/
def mixShape (opc : Nat) (p : MixPar) (x y : Layout) (l1 l2 : Option Layout) : Bool :=
  let d := p.axis
  let e := x.ext.getD d 0
  let is (l : Option Layout) (elem : Nat) (ext : List Nat) : Bool := l.any fun l => l.elem = elem && l.ext = ext
  match opc with
  | 0x60 => d < x.ndim && x.ext = y.ext && e % 2 ^ p.logN = 0
  | 0x61 =>
    let g := setCoord x.ext d (groups p.glog2 e)
    d < x.ndim && x.ext = y.ext && is l1 0x13 g && (l2.isNone || is l2 x.elem g)
  | 0x62 => 2 ≤ x.ndim && x.ext.getD 1 0 = p.k && y.ext = x.ext.getD 0 0 :: x.ext.drop 2 && is l1 0x13 (x.ext.drop 1)
  | 0x63 => d < x.ndim && x.ext = y.ext && e % 8 = 0 && is l1 0x13 [8, 8] && (l2.isNone || is l2 0x14 [8])
  | _ => x.ext = y.ext

/-- The source elements that element `q` of the destination is made from, those of P1, and those of P2 (R240 to R244). -/
def mixFrom (opc : Nat) (p : MixPar) (q : List Nat) : List (List Nat) × List (List Nat) × List (List Nat) :=
  let d := p.axis
  let i := q.getD d 0
  let run (m : Nat) : List (List Nat) := (upTo m).map fun k => setCoord q d (i / m * m + k)
  match opc with
  | 0x60 => (run (2 ^ p.logN), [], [])
  | 0x61 => ([q], [setCoord q d (groupOf p.glog2 i)], [setCoord q d (groupOf p.glog2 i)])
  | 0x62 => ((upTo p.k).map fun k => q.getD 0 0 :: k :: q.drop 1, (upTo p.k).map fun k => k :: q.drop 1, [])
  | 0x63 => (run 8, (upTo 8).map fun k => [k, i % 8], [[i % 8]])
  | _ => ([q], [], [])

/-- Element `q` of the destination, from the bytes of the source, P1 and P2. -/
def mixElem (opc : Nat) (p : MixPar) (x : Layout) (l1 l2 : Option Layout) (src : List (List Byte)) (q : List Nat) : Num :=
  let zero : Num := .fin false 0 0
  let e := mixFrom opc p q
  let xs := e.1.map (x.num (src.headD []))
  let n1 := e.2.1.map fun c => match l1 with | none => zero | some l => l.num (src.getD 1 []) c
  let n2 := e.2.2.map fun c => match l2 with | none => zero | some l => l.num (src.getD 2 []) c
  match opc with
  | 0x60 => rotOne xs p.logN p.scale (q.getD p.axis 0 % 2 ^ p.logN)
  | 0x61 => deqOne (xs.headD zero) (n2.headD zero) (n1.headD zero)
  | 0x62 => combOne n1 xs
  | 0x63 => mmOne (n2.headD zero) n1 xs
  | _ => xs.headD zero

/-- The ledger of a piece of a mixer: it reads P1 and P2, then computes (R246, R248). -/
def mixLedger (opc : Nat) (p : MixPar) (r : DescRun) (ts : List DTile) (q : Piece) : Piece :=
  let c := mixCycles opc p (sumOf (ts.map (·.elems.length)))
  let b := ceilDiv (r.parBytes ts) 256
  { q with inC := b + c, hold := b + c, out0 := b + 6, total := b + c + 6, step := ceilDiv (pieceBytes ts) (max 1 c) }

def State.mixDesc (s : State) (j : Job) : Chk Prog := do
  let w := j.word
  let opc := wordOpc w
  let t := j.hearth
  let x ← s.readLayout t (wSrc w)
  let y ← s.readLayout t (wDst w)
  let p ← (if opc = 0x64 then .ok {} else do
    let b ← s.readParam t (wAux w) 0x13
    mixBlock opc false b)
  let l1 ← s.readPar t p.p1
  let l2 ← s.readPar t p.p2
  need (mixShape opc p x y l1 l2) (ichk 0x08)
  let at_ (q : Nat × Nat) : List Nat := if named q then [q.1] else []
  let r : DescRun :=
    { nar := fun src q => narrow y.elem (mixElem opc p x l1 l2 src q), from_ := fun q => (mixFrom opc p q).1
      more := (l1.toList.map fun l => (l, fun q => (mixFrom opc p q).2.1)) ++ l2.toList.map fun l => (l, fun q => (mixFrom opc p q).2.2) }
  s.descWork j x y ([ptrAddr (wSrc w), ptrAddr (wDst w)] ++ (if opc = 0x64 then [] else [ptrAddr (wAux w)]) ++ at_ p.p1 ++ at_ p.p2)
    r (mixLedger opc p r)

/-! ### The instructions -/

def execMixRot (i : Issuer) (s : State) : Answer :=
  live s fun s => s.issueWork i 0x60 (State.engWork (mixSpec true) State.mixDesc)

def execMixDeq (i : Issuer) (s : State) : Answer :=
  live s fun s => s.issueWork i 0x61 (State.engWork (mixSpec true) State.mixDesc)

def execMixComb (i : Issuer) (s : State) : Answer :=
  live s fun s => s.issueWork i 0x62 (State.engWork (mixSpec true) State.mixDesc)

def execMixMm (i : Issuer) (s : State) : Answer :=
  live s fun s => s.issueWork i 0x63 (State.engWork (mixSpec true) State.mixDesc)

def execMixCvt (i : Issuer) (s : State) : Answer :=
  live s fun s => s.issueWork i 0x64 (State.engWork (mixSpec false) State.mixDesc)

end Sys2Proof.Machine
end

