-- ==== Sys2Proof/Machine/Kv.lean ====
section
/-! DEFINITION. KV pages and provisional work (chapter 11): blocks, sequences and page tables, pools, tags, and the six KV operations
up to their issue; what they do at their end stands in `Completion`. -/

namespace Sys2Proof.Machine

/-! ### Page tables (R364, Table 11.1) -/

def noPage : Nat := 0xFFFFFFFF

/-- Rows of a page. -/
def Seq.rpp (q : Seq) : Nat := 2 ^ (16 - q.rowLog2)
def Seq.entryAt (q : Seq) (e : Nat) : Nat := q.ptAddr + 8 * e

structure PtEntry where
  frame : Nat := noPage
  prov : Bool := false
  spec : Nat := 0
  hearth : Nat := 0
  deriving DecidableEq, Repr

def PtEntry.bytes (p : PtEntry) : List Byte :=
  leBytes 8 (p.frame + b2n p.prov * 2 ^ 32 + p.spec % 256 * 2 ^ 33 + p.hearth % 16 * 2 ^ 41)

def State.ptEntry (s : State) (q : Seq) (e : Nat) : PtEntry :=
  let v := s.num (q.entryAt e) 8
  { frame := bitsOf v 0 32, prov := v.testBit 32, spec := bitsOf v 33 8, hearth := bitsOf v 41 4 }

def State.setEntry (s : State) (q : Seq) (e : Nat) (p : PtEntry) : State := s.unitStore (q.entryAt e) p.bytes

/-- Entry `e` holds no page any more, which the hearth's accounts show. -/
def State.dropPage (s : State) (q : Seq) (e : Nat) : State :=
  let p := s.ptEntry q e
  let s := s.setFld .KV_PAGES_USED q.hearth (s.fld .KV_PAGES_USED q.hearth - 1)
  let s := s.on p.prov fun s => s.setFld .KV_PAGES_PROV q.hearth (s.fld .KV_PAGES_PROV q.hearth - 1)
  s.setEntry q e {}

/-! ### Page pools (R366, R367) -/

def frameCount : Nat := 393216

/-- Entry `i` of the hearth's stack; one beyond its capacity holds no frame. -/
def State.poolEntry (s : State) (t i : Nat) : Nat :=
  if i < s.fld .KV_POOL_CAP t then s.num (s.fld .KV_POOL_BASE t + 4 * i) 4 else noPage

/-- R366: the frame may be taken. -/
def State.frameOk (s : State) (t f : Nat) : Bool :=
  f < frameCount && s.hearthFault t (s.global (f * pageBytes)) pageBytes .w = 0 &&
  s.hearthFault t (s.global (f * pageBytes)) pageBytes .r = 0

/-- The frames that leave the stack from `top` down until `n` usable ones have; none if it holds fewer. -/
def State.popFrames (s : State) (t : Nat) : Nat → Nat → Option (List Nat)
  | _, 0 => some []
  | 0, _ + 1 => none
  | top + 1, n + 1 =>
    let f := s.poolEntry t top
    (s.popFrames t top (if s.frameOk t f then n else n + 1)).map (f :: ·)

/-! ### The KV block (Table 11.3) -/

structure KvBlock where
  spec : Nat
  ring : Bool
  nSeq : Nat
  rows : Nat
  list : Nat
  ringCh : Nat
  rowLog2 : Nat
  firstRow : Nat
  nRows : Nat
  keep : Nat
  maxPages : Nat
  pt : Nat
  deriving DecidableEq, Repr

/-- Bytes of the block that an opcode uses. -/
def kvUsed (opc : Nat) : List Nat :=
  let seqs := [4, 5, 8, 9, 10, 11, 12, 13]
  match opc with
  | 0x81 => seqs ++ [15, 28, 29, 30, 31, 32, 33, 34, 35, 36, 37]
  | 0x82 => seqs
  | 0x83 => seqs ++ [2, 6, 7]
  | 0x84 => seqs ++ [2, 3, 14, 16, 17, 18, 19, 20, 21, 22, 23]
  | 0x85 => [2, 24, 25]
  | _ => [2]

def kvHasSeqs (opc : Nat) : Bool := opc < 0x85

/-- DCHK 0x13 (R374). -/
def kvFlaw : Flaw := dchk 0x13

/-- The block behind a pointer, with the sequences it lists (R373, R129). -/
def State.readKv (s : State) (t p opc : Nat) : Chk (KvBlock × List Nat) := do
  let b ← s.readPtr t p
  kindGen b 0x07 (ptrGen p)
  need (((upTo 62).all fun k => (kvUsed opc).contains (k + 2) || bnum b (k + 2) 1 = 0) && bnum b 3 1 < 2 && bnum b 14 1 < 64)
    (dchk 0x03)
  let k : KvBlock :=
    { spec := bnum b 2 1, ring := bnum b 3 1 = 1, nSeq := bnum b 4 2, rows := bnum b 6 2, list := bnum b 8 6, ringCh := bnum b 14 1,
      rowLog2 := bnum b 15 1, firstRow := bnum b 16 4, nRows := bnum b 20 4, keep := bnum b 24 2, maxPages := bnum b 28 4,
      pt := bnum b 32 6 }
  if !kvHasSeqs opc then return (k, [])
  need (k.nSeq != 0 && k.nSeq ≤ 4096) kvFlaw
  let l ← s.readStaging t k.list 2 (2 * k.nSeq)
  return (k, (upTo k.nSeq).map fun j => bnum l (2 * j) 2)

/-! ### Sequences -/

/-- The close of a sequence has issued and not completed. -/
def State.closing (s : State) (q : Nat) : Bool :=
  s.flights.any fun x => match x.done with | .kvClose qs _ => qs.contains q | _ => false

/-- A sequence that hearth `t` may use (R374). -/
def State.seqUsable (s : State) (t q : Nat) : Bool := (s.seq q).opened && (s.seq q).hearth = t && !s.closing q

/-- Rows, tag of the appends of a sequence in flight, in issue order (R375). -/
def State.pendingRows (s : State) (q : Nat) : List (Nat × Nat) :=
  s.flights.filterMap fun x =>
    match x.done with
    | .kvAppend qs rows spec _ _ _ => if x.status = 0 && qs.contains q then some (rows, spec) else none
    | _ => none

/-- LEN, PLEN and PSPEC as the next append of the sequence finds them: an earlier append in flight counts (R375). -/
def State.tailOf (s : State) (q : Nat) : Nat × Nat × Nat :=
  (s.pendingRows q).foldl
    (fun r e => if e.2 = 0 then (r.1 + e.1, r.2.1, r.2.2) else (r.1, r.2.1 + e.1, e.2))
    ((s.seq q).len, (s.seq q).plen, (s.seq q).pspec)

/-- A page table of hearth `t` at `a`: within one region of fen memory or staging SRAM, 8-byte aligned (R364). -/
def ptPlace (a n : Nat) : Bool :=
  (match regionOf a with
   | some .fen => a + n ≤ Region.limit .fen
   | some .staging => a + n ≤ Region.limit .staging
   | _ => false) && a % 8 = 0

/-- R374 on the listed ids and the fields of Table 11.3. -/
def State.kvCheck (s : State) (t opc : Nat) (k : KvBlock) (ids : List Nat) (l : Option Layout) : Chk Unit := do
  let q0 := s.seq (ids.headD 0)
  let bits := 8 * 2 ^ q0.rowLog2
  let w := (l.map Layout.width).getD 1
  let ext := (l.map Layout.ext).getD []
  need (ids.all (· < 4096) && decide ids.Nodup) kvFlaw
  need (if opc = 0x81 then ids.all fun q => !(s.seq q).opened else ids.all (s.seqUsable t)) kvFlaw
  match opc with
  | 0x81 =>
    let n := 8 * k.maxPages
    need (6 ≤ k.rowLog2 && k.rowLog2 ≤ 16 && 1 ≤ k.maxPages && k.maxPages ≤ 65536) kvFlaw
    need ((upTo ids.length).all fun j =>
      ptPlace (k.pt + j * n) n && s.seqs.all fun e => !e.2.opened || !overlaps (k.pt + j * n) n e.2.ptAddr (e.2.ptAddr + 8 * e.2.maxPages))
      kvFlaw
    need (s.seqOpen t + ids.length ≤ s.fld .KV_SEQ_QUOTA t) kvFlaw
  | 0x83 =>
    need (1 ≤ k.rows && k.rows ≤ 1024 && ids.all fun q => (s.seq q).rowLog2 = q0.rowLog2) kvFlaw
    need (ext.length = 2 && ext.getD 0 0 * w = bits && ext.getD 1 0 = ids.length * k.rows) kvFlaw
  | 0x84 =>
    need (1 ≤ k.nRows && ids.all fun q => (s.seq q).rowLog2 = q0.rowLog2) kvFlaw
    need (ext.length = 3 && ext.getD 0 0 * w = bits && ext.getD 1 0 = k.nRows && ext.getD 2 0 = ids.length) kvFlaw
    need (!k.ring || (s.ownsChan t k.ringCh && s.fld .RING_CFG_MODE k.ringCh = 1)) kvFlaw
  | 0x85 | 0x86 => need (k.spec != 0) kvFlaw
  | _ => .ok ()

/-! ### Issue of a KV operation -/

/-- A KV operation with its operands read. -/
structure KvOp where
  k : KvBlock
  ids : List Nat
  lay : Option Layout
  deriving DecidableEq, Repr

/-- Table 11.2. -/
def kvSpec (opc : Nat) : Spec :=
  { tile := false
    ptrs := if opc = 0x83 then (some true, some false, some true) else if opc = 0x84 then (some true, some true, some false)
      else (some true, some false, some false) }

/-- The operands, in the order SRC, DST, AUX, and the checks up to ICHK 0x0B (R185, R372, R374). -/
def State.readKvOp (s : State) (j : Job) : Chk KvOp := do
  let w := j.word
  let opc := wordOpc w
  let t := j.hearth
  s.checkWord j (kvSpec opc)
  let l0 ← if opc = 0x83 then (s.readLayout t (wSrc w)).map some else .ok none
  let b ← s.readKv t (if opc = 0x83 then wAux w else wSrc w) opc
  let l ← if opc = 0x84 then (s.readLayout t (wDst w)).map some else .ok l0
  s.kvCheck t opc b.1 b.2 l
  return { k := b.1, ids := b.2, lay := l }

/-- ICHK 0x0B (R372). -/
def kvMatch (w : Word128) (o : KvOp) : Chk Unit :=
  need (match o.lay with
    | some l => wElem w = l.elem && wOpx w = l.elem && wNdim w = l.ndim
    | none => wElem w = 0x21 && wOpx w = 0x21 && wNdim w = 1) (ichk 0x0B)

/-- The job issues with data effect `w`, and its flight is set as `f` says. Nothing more happens where it cannot issue after
all (R275). -/
def State.launchKv (s : State) (j : Job) (w : Work) (f : Flight → Flight) (and : State → State) : State :=
  let k := s.flightNext
  let s := s.launch j w
  match s.flight k with
  | none => s
  | some _ => and (s.setFlight k f)

/-- Cycles of the issue phase (R163, R389). -/
def kvIssue (o : KvOp) : Nat := 6 + 4 * b2n o.lay.isSome + ceilDiv o.ids.length 32

/-- The operation ends with `status` and nothing moves. -/
def State.kvEnd (s : State) (j : Job) (o : KvOp) (status r0 note : Nat) (and : State → State := id) : State :=
  s.launchKv j { cycles := kvIssue o, eff := fun _ _ => { status := status, r0 := r0 } } (fun x => { x with note := note }) and

/-- The event of a KV opcode: its operands are read and `f` does the rest; `may`: it can issue now. -/
def State.issueKv (s : State) (i : Issuer) (opc : Nat) (f : State → Job → KvOp → State)
    (may : State → Nat → KvOp → Bool := fun _ _ _ => true) : State :=
  match s.takeJob i opc with
  | .none => s
  | .queued s => s
  | .job p j =>
    match p.readKvOp j with
    | .error e => p.failJob j.ctx e
    | .ok o => if may p j.hearth o then f p j o else s.holdJob i

/-! ### kv.open (R365) -/

def State.openSeqs (s : State) (t : Nat) (o : KvOp) : State :=
  let s := { s with tampered := s.tampered.filter fun q => !o.ids.contains q }
  forAll (upTo o.ids.length)
    (fun j s =>
      let q : Seq := { opened := true, hearth := t, rowLog2 := o.k.rowLog2, ptAddr := o.k.pt + j * o.k.maxPages * 8, maxPages := o.k.maxPages }
      (s.setSeq (o.ids.getD j 0) q).unitStore q.ptAddr ((List.replicate o.k.maxPages ({} : PtEntry).bytes).flatten)) s

def execKvOpen (i : Issuer) (s : State) : Answer :=
  live s fun s => s.issueKv i 0x81 fun s j o =>
    let t := j.hearth
    let n := o.ids.length
    match (do kvMatch j.word o
              needAll (upTo n) fun k => s.access t (s.global (o.k.pt + k * o.k.maxPages * 8)) (o.k.maxPages * 8) .w) with
    | .error e => s.failJob j.ctx e
    | .ok _ =>
      let ld := s.writeLat (s.global o.k.pt) (8 * o.k.maxPages)
      s.launchKv j { cycles := kvIssue o + n + ceilDiv (n * o.k.maxPages) 8 + ld, eff := fun _ _ => {} } id fun s => s.openSeqs t o

/-! ### kv.close (R388) -/

/-- Pages of a sequence, in entry order. -/
def State.pagesHeld (s : State) (q : Seq) : List (Nat × Nat) :=
  (upTo (ceilDiv (q.len + q.plen) q.rpp)).filterMap fun e =>
    let p := s.ptEntry q e
    if p.frame = noPage then none else some (e, p.frame)

def State.unaccount (s : State) (q : Seq) : State :=
  forAll (s.pagesHeld q)
    (fun e s =>
      let p := s.ptEntry q e.1
      let s := s.setFld .KV_PAGES_USED q.hearth (s.fld .KV_PAGES_USED q.hearth - 1)
      s.on p.prov fun s => s.setFld .KV_PAGES_PROV q.hearth (s.fld .KV_PAGES_PROV q.hearth - 1)) s

/-- Operations on one sequence take effect in issue order (R375): a close waits for the appends before it. -/
def State.mayClose (s : State) (_ : Nat) (o : KvOp) : Bool := o.ids.all fun q => (s.pendingRows q).isEmpty

def execKvClose (i : Issuer) (s : State) : Answer :=
  live s fun s => s.issueKv i 0x82
    (fun s j o =>
      match kvMatch j.word o with
      | .error e => s.failJob j.ctx e
      | .ok _ =>
        let fs := o.ids.flatMap fun q => (s.pagesHeld (s.seq q)).map (·.2)
        s.launchKv j { cycles := kvIssue o + o.ids.length + fs.length + 13, eff := fun _ _ => {} }
          (fun x => { x with done := .kvClose o.ids fs, stack := fs.length }) id)
    State.mayClose

/-! ### Tags (R369, R370) -/

/-- What becomes of a request with tag `g` that arrives: it may start, or the note of its SQUASHED record. -/
def State.tagClosed (s : State) (t g : Nat) : Option Nat :=
  if g = 0 then none
  else match (s.tag t g).st with
    | 2 => some 1
    | 3 => some 0
    | _ => none

/-- R369: a tagged request that arrives opens its tag, if that is IDLE, whatever becomes of the request. -/
def State.tagArrive (s : State) (t g : Nat) : State :=
  s.on (g != 0 && (s.tag t g).st = 0) fun s => s.setTag t g { s.tag t g with st := 1 }

def State.tagStart (s : State) (t g : Nat) : State :=
  if g = 0 then s
  else
    let s := s.tagArrive t g
    s.setTag t g { s.tag t g with inFlight := (s.tag t g).inFlight + 1 }

/-- R370: it is not started. -/
def State.kvLate (s : State) (j : Job) (o : KvOp) (note : Nat) : State :=
  s.kvEnd j o 0x20 0 note fun s => s.on (note = 1) fun s => s.bump .KV_TOO_LATE j.hearth

/-! ### kv.append (R376 to R379) -/

/-- What an append takes and where its rows go. -/
structure AppPlan where
  popped : List Nat
  news : List (Nat × Nat × Nat)
  spots : List Nat
  deriving DecidableEq, Repr

/-- The new page-table entries of a sequence that grows by `rows`. -/
def State.newEntries (s : State) (q rows : Nat) : List Nat :=
  let z := s.tailOf q
  let r0 := z.1 + z.2.1
  let p := (s.seq q).rpp
  (List.range (ceilDiv (r0 + rows) p - ceilDiv r0 p)).map (· + ceilDiv r0 p)

/-- R378: the frames that the append takes, or none where they or the tables do not suffice. -/
def State.planAppend (s : State) (t : Nat) (o : KvOp) : Option AppPlan :=
  let need := o.ids.flatMap fun q => (s.newEntries q o.k.rows).map fun e => (q, e)
  if !(need.all fun e => e.2 < (s.seq e.1).maxPages) then none
  else match s.popFrames t (s.fld .KV_POOL_TOP t) need.length with
    | none => none
    | some fs =>
      let news := (List.zip need (fs.filter (s.frameOk t))).map fun e => (e.1.1, e.1.2, e.2)
      let spot (q k : Nat) : Nat :=
        let z := s.tailOf q
        let r := z.1 + z.2.1 + k
        let x := s.seq q
        let f := match news.find? (fun n => n.1 = q && n.2.1 = r / x.rpp) with
          | some n => n.2.2
          | none => (s.ptEntry x (r / x.rpp)).frame
        f * pageBytes + r % x.rpp * 2 ^ x.rowLog2
      some { popped := fs, news := news, spots := o.ids.flatMap fun q => (upTo o.k.rows).map (spot q) }

/-- The bytes of row `m` of a row layout (R376). -/
def Layout.rowBytes (l : Layout) (bs : List Byte) (m : Nat) : List Byte :=
  packBytes l.width ((upTo (l.ext.getD 0 0)).map fun x => l.code bs [x, m])

/-- The data effect of an append. -/
def appendOut (s : State) (l : Layout) (spots : List Nat) (bs : List Byte) : Out :=
  { writes := (upTo spots.length).map fun m => (s.global (spots.getD m 0), l.rowBytes bs m) }

/-- Cycles of the append after its issue phase: rows leave from cycle 13 on as write groups, and the entry of a new page in the cycle after
its frame has come (Table 11.5). -/
def State.appendCycles (s : State) (p : AppPlan) (row : Nat) : Nat :=
  let ld := (p.news.map fun e => s.writeLat (s.global ((s.seq e.1).entryAt e.2.1)) 8).foldl max 0
  max (13 + p.spots.length * ceilDiv row 1024 + 40) (if p.news.isEmpty then 0 else 14 + p.popped.length + ld)

def State.appendWork (s : State) (l : Layout) (o : KvOp) (p : AppPlan) (row : Nat) : Work :=
  { reads := [(l.base, l.size)], cycles := kvIssue o + s.appendCycles p row
    eff := fun s src => appendOut s l p.spots (src.headD []) }

/-- R378, R379: the new entries stand. The frames leave the pool as the locked sequences of operation `k` end (R414). -/
def State.takePages (s : State) (t spec : Nat) (p : AppPlan) (k : Nat) : State :=
  let n := p.news.length
  let s := s.on (!p.popped.isEmpty) fun s => s.setLock (s.poolPort t) k 0
  let s := s.bump .KV_LOST_FRAMES t (p.popped.length - n)
  let s := s.setFld .KV_PAGES_USED t (s.fld .KV_PAGES_USED t + n)
  let s := s.on (spec != 0) fun s => s.setFld .KV_PAGES_PROV t (s.fld .KV_PAGES_PROV t + n)
  forAll p.news (fun e s => s.setEntry (s.seq e.1) e.2.1 { frame := e.2.2, prov := spec != 0, spec := spec, hearth := t }) s

/-- The pages that hold the tail rows of a sequence, and the table entries read and written, pass the hearth's checks. -/
def State.appendAccess (s : State) (t : Nat) (o : KvOp) (l : Layout) (p : AppPlan) : Chk Unit := do
  s.access t l.base l.size .r
  needAll o.ids fun q => do
    let x := s.seq q
    let z := s.tailOf q
    let r := z.1 + z.2.1
    if r % x.rpp = 0 then .ok () else s.access t (s.global (x.entryAt (r / x.rpp))) 8 .r
  needAll p.news fun e => s.access t (s.global ((s.seq e.1).entryAt e.2.1)) 8 .w
  needAll p.spots fun a => s.access t (s.global a) (2 ^ (s.seq (o.ids.headD 0)).rowLog2) .w

/-- A footprint of this chip, if it is one, against ranges of local addresses. -/
def State.touches (s : State) (l : Layout) (rs : List (Nat × Nat)) : Bool :=
  s.onChip l.base && rs.any fun r => overlaps (localOf l.base) l.size r.1 (r.1 + r.2)

/-- A KV instruction fails because of sequence `q`, which its record's TAG names (Table 14.6; an ember's record keeps EMBER_TAG). -/
def State.failSeq (s : State) (x : Ctx) (f : Flaw) (q : Nat) : State :=
  (s.countFlaw f).endWork x { f.toEnd with atag := if x.origin = 1 then none else some q }

/-- R377: an untagged append over provisional rows, or one with a second tag. -/
def State.specConflict (s : State) (q spec : Nat) : Bool :=
  let z := s.tailOf q
  if spec = 0 then 0 < z.2.1 else z.2.2 != 0 && z.2.2 != spec

def State.appendKv (s : State) (j : Job) (o : KvOp) : State :=
  let t := j.hearth
  let g := o.k.spec
  let row := 2 ^ (s.seq (o.ids.headD 0)).rowLog2
  match o.lay with
  | none => s
  | some l =>
    let plan := s.planAppend t o
    let spots := (plan.map (·.spots)).getD []
    match (do need (!s.touches l (spots.map fun a => (a, row))) (ichk 0x0A)
              kvMatch j.word o
              s.access t l.base l.size .r) with
    | .error e => s.failJob j.ctx e
    | .ok _ =>
      match s.tagClosed t g with
      | some note => s.kvLate j o note
      | none =>
        let s := s.tagArrive t g
        match o.ids.find? fun q => (s.seq q).broken with
        | some q => s.failSeq j.ctx { cause := 0x0F, arg := q } q
        | none =>
          match o.ids.find? fun q => s.specConflict q g with
          | some q => s.failSeq j.ctx { cause := 0x12 } q
          | none => match plan with
            | none => s.kvEnd j o 0x10 7 0 fun s => s.bump .KV_ALLOC_FAIL t
            | some p =>
              match s.appendAccess t o l p with
              | .error e => s.failJob j.ctx e
              | .ok _ =>
                s.launchKv j { s.appendWork l o p row with descs := s.descsOf (wSrc j.word) ++ s.descsOf (wAux j.word) }
                  (fun x => { x with tag := g, done := .kvAppend o.ids o.k.rows g p.spots p.news p.popped, stack := p.popped.length })
                  fun u => (u.takePages t g p s.flightNext).tagStart t g

/-- The pool stays as an append has found it until its pops are over: it waits for the stack accesses of earlier operations (R413). -/
def State.mayAppend (s : State) (t : Nat) (o : KvOp) : Bool :=
  !s.poolTaken (s.poolPort t) s.flightNext || o.ids.all fun q => (s.newEntries q o.k.rows).isEmpty

def execKvAppend (i : Issuer) (s : State) : Answer := live s fun s => s.issueKv i 0x83 State.appendKv State.mayAppend

/-! ### kv.gather (R380 to R382) -/

/-- Row `r` of a sequence as a gather with SPEC `g` sees it: zeros where it is not visible, free bytes from the `k`th free value on
where software has written the page table (R365; log entry 93), or why its page cannot be read. -/
def State.kvRow (s : State) (t g q r k : Nat) : Chk (List Byte) :=
  let x := s.seq q
  let n := 2 ^ x.rowLog2
  let vis := x.len + (if g != 0 && x.pspec = g then x.plen else 0)
  if vis ≤ r then .ok (List.replicate n 0)
  else
    match s.access t (s.global (x.entryAt (r / x.rpp))) 8 .r with
    | .error e => .error e
    | .ok _ =>
      let a := (s.ptEntry x (r / x.rpp)).frame * pageBytes + r % x.rpp * n
      match s.access t (s.global a) n .r with
      | .error e => .error { e with arg := if e.cause = 0x0F then q else 0 }
      | .ok _ => .ok (if s.tampered.contains q then freeBytesFrom (s.free + k) n else s.bytes a n)

/-- The rows of the gather, row `k` of entry `j` at `j × N_ROWS + k`. -/
def State.kvRows (s : State) (t : Nat) (o : KvOp) : List (Chk (List Byte)) :=
  o.ids.zipIdx.flatMap fun q => (upTo o.k.nRows).map fun k =>
    s.kvRow t o.k.spec q.1 (o.k.firstRow + k) ((q.2 * o.k.nRows + k) * 2 ^ (s.seq q.1).rowLog2)

/-- The free values that the rows of a gather use up. -/
def State.freeRows (s : State) (o : KvOp) : State :=
  s.on (o.ids.any s.tampered.contains) fun s =>
    { s with free := s.free + o.ids.length * o.k.nRows * 2 ^ (s.seq (o.ids.headD 0)).rowLog2 }

/-- Rows of an inner tile that the layout's extents hold. -/
def tileRowsOf (l : Layout) (n lo li : Nat) : List Nat :=
  (((upTo l.elems).map (l.coordAt lo li)).filter l.inside).map (fun x => x.getD 2 0 * n + x.getD 1 0) |>.eraseDups

def chkErr {α : Type} : Chk α → Option Flaw
  | .error f => some f
  | .ok _ => none

def chkBytes : Chk (List Byte) → List Byte
  | .error _ => []
  | .ok b => b

/-- Inner tiles in destination order until one needs a row that cannot be read (R381). The element bits of an MX format are
written, not its scales. -/
def gatherTiles (s : State) (l : Layout) (rows : List (Chk (List Byte))) (n : Nat) : List ((Nat × Nat) × Nat) → Out → Out
  | [], o => o
  | ((lo, li), k) :: rest, o =>
    match (tileRowsOf l n lo li).findSome? (fun r => chkErr (rows.getD r (.ok []))) with
    | some f => { o with flaw := some f }
    | none =>
      let v : Vals :=
        { code := fun x => getBits (chkBytes (rows.getD (x.getD 2 0 * n + x.getD 1 0) (.ok []))) (x.getD 0 0 * l.width) l.width
          inside := l.inside }
      let a := l.base + l.tileOff lo li
      let old := if l.padKeep && l.width % 8 != 0 then s.oldTile k a l.tb1 else []
      gatherTiles s l rows n rest { o with writes := o.writes ++ runs a (l.tileData v old lo li) }

def gatherOut (s : State) (l : Layout) (rows : List (Chk (List Byte))) (n : Nat) : Out :=
  gatherTiles s l rows n l.tiles.zipIdx {}

/-- The free values that bytes shared with padding on another node use up (log entry 103). -/
def State.freeOld (s : State) (l : Layout) : State := if s.onChip l.base then s else { s with free := s.free + l.size }

/-- Where the visible rows of a gather lie. -/
def State.gatherRanges (s : State) (o : KvOp) : List (Nat × Nat) :=
  o.ids.flatMap fun q =>
    let x := s.seq q
    (s.pagesHeld x).map fun p => (p.2 * pageBytes, pageBytes)

def outLo (o : Out) : Nat := (o.writes.map (·.1)).foldl min (2 ^ 56)
def outHi (o : Out) : Nat := (o.writes.map fun e => e.1 + e.2.length).foldl max 0

/-- Cycles of the gather after its issue phase: entry reads, page reads, the fabric, and the destination's write groups (Table 11.5). -/
def State.gatherCycles (s : State) (o : KvOp) (l : Layout) : Nat :=
  let es := sumOf (o.ids.map fun q => (s.pagesHeld (s.seq q)).length)
  let li := (o.ids.map fun q => s.readLat (s.global (s.seq q).ptAddr)).foldl max 0
  es + li + 96 + ceilDiv l.size 1024 + 10 + s.writeLat l.base l.size + 1

/-- Fen bytes of the rows that the gather reads (R389). -/
def State.gatherCost (s : State) (o : KvOp) : List (Nat × Nat) :=
  o.ids.flatMap fun q => (upTo o.k.nRows).flatMap fun k =>
    let x := s.seq q
    let r := o.k.firstRow + k
    if x.len + (if o.k.spec != 0 && x.pspec = o.k.spec then x.plen else 0) ≤ r then []
    else fenCost 32 ((s.ptEntry x (r / x.rpp)).frame * pageBytes + r % x.rpp * 2 ^ x.rowLog2) (2 ^ x.rowLog2) false

def State.gatherKv (s : State) (j : Job) (o : KvOp) : State :=
  let t := j.hearth
  let g := o.k.spec
  match o.lay with
  | none => s
  | some l =>
    match (do need (!s.touches l ((o.k.list, 2 * o.k.nSeq) :: s.gatherRanges o)) (ichk 0x0A)
              kvMatch j.word o
              s.access t l.base l.size .w) with
    | .error e => s.failJob j.ctx e
    | .ok _ =>
      match s.tagClosed t g with
      | some note => s.kvLate j o note
      | none =>
        let s := s.tagArrive t g
        match o.ids.find? fun q => (s.seq q).broken with
        | some q => s.failSeq j.ctx { cause := 0x0F, arg := q } q
        | none =>
          let out := gatherOut (s.freeRows o) l (s.kvRows t o) o.k.nRows
          let w : Work :=
            { descs := s.descsOf (wSrc j.word) ++ s.descsOf (wDst j.word)
              range := if s.onChip l.base then [(localOf l.base, l.size)] else []
              cycles := kvIssue o + s.gatherCycles o l, eff := fun _ _ => out }
          (s.freeRows o).freeOld l |>.launchKv j w
            (fun x => { x with
              tag := g, lo := outLo out, hi := outHi out, owe := x.owe ++ s.gatherCost o
              done := if o.k.ring then .kvRing o.k.ringCh l.base l.size g else .none })
            fun s =>
              let s := s.tagStart t g
              match out.flaw with
              | some f => s.on (f.cause = 0x0F) fun s => s.setSeq f.arg { s.seq f.arg with broken := true }
              | none => s

def execKvGather (i : Issuer) (s : State) : Answer := live s fun s => s.issueKv i 0x84 State.gatherKv

/-! ### kv.confirm and kv.squash (R383 to R387) -/

/-- An append of the tag is in flight. -/
def State.appending (s : State) (t g : Nat) : Bool :=
  s.flights.any fun x => x.ctx.hearth = t && x.tag = g && wordOpc x.word = 0x83

/-- R383 on one sequence: K rows are kept, the others dropped; the frames that its dropped pages free. -/
def State.settleSeq (s : State) (g keep q : Nat) : State × List Nat :=
  let x := s.seq q
  let k := min keep x.plen
  let es := (upTo (ceilDiv (x.len + x.plen) x.rpp)).filter fun e => (s.ptEntry x e).prov && (s.ptEntry x e).spec = g
  let kept := es.filter fun e => e * x.rpp < x.len + k
  let gone := es.filter fun e => !(e * x.rpp < x.len + k)
  let fs := gone.map fun e => (s.ptEntry x e).frame
  let s := forAll kept
    (fun e s =>
      (s.setFld .KV_PAGES_PROV x.hearth (s.fld .KV_PAGES_PROV x.hearth - 1)).setEntry x e { s.ptEntry x e with prov := false, spec := 0 }) s
  let s := forAll gone (fun e s => s.dropPage x e) s
  let s := s.bump .KV_SQUASHED_ROWS x.hearth (x.plen - k)
  (s.setSeq q { x with len := x.len + k, plen := 0, pspec := 0 }, fs)

/-- The open sequences of the hearth whose PSPEC is the tag. -/
def State.settlers (s : State) (t g : Nat) : List Nat :=
  (s.seqs.filter fun e => e.2.opened && e.2.hearth = t && e.2.pspec = g).map (·.1)

/-- R383 on each of them. -/
def State.settle (s : State) (t g keep : Nat) : State × List Nat :=
  (s.settlers t g).foldl
    (fun r q => let z := r.1.settleSeq g keep q; (z.1, r.2 ++ z.2)) (s, [])

/-- Confirms and squashes whose appends have all completed take effect. -/
def State.settleReady (s : State) : State :=
  forAll (s.flights.map (·.id))
    (fun k s =>
      match s.flight k with
      | none => s
      | some x =>
        match x.done with
        | .kvSettle keep fs =>
          if s.appending x.ctx.hearth x.tag then s
          else
            let z := s.settle x.ctx.hearth x.tag keep
            let all := fs ++ z.2
            z.1.setFlight k fun y =>
              { y with done := .kvPush all, stack := all.length, due := max y.due (s.clk + (s.settlers x.ctx.hearth x.tag).length + all.length + 13) }
        | _ => s) s

/-- Table 11.4 on one request in flight. An append whose completion cycle has come counts as complete (R542; log entry 94). -/
def State.squashFlight (s : State) (x : Flight) : State :=
  if x.status != 0 || (wordOpc x.word = 0x83 && s.flightDone x && x.due ≤ s.clk) then s
  else if wordOpc x.word = 0x83 then
    (s.rollBack x).setFlight x.id fun y => { y with status := 0x20, fetching := false }
  else s.setFlight x.id fun y => { y with status := 0x21, r0 := x.lo, r1 := x.hi - x.lo, done := .none, ringStage := false }

/-- Every started append and gather of the tag. -/
def State.squashAll (s : State) (t g : Nat) : State :=
  forAll (s.flights.filter fun x => x.ctx.hearth = t && x.tag = g && (wordOpc x.word = 0x83 || wordOpc x.word = 0x84))
    (fun x s => s.squashFlight x) s

/-- NOTE of a confirm or squash that changes nothing (R386, Table 11.4). -/
def State.settleNote (s : State) (t g : Nat) (squash : Bool) : Option Nat :=
  match (s.tag t g).st with
  | 0 => some 2
  | 2 => some (b2n squash)
  | 3 => some (b2n !squash)
  | _ => none

def State.settleKv (s : State) (j : Job) (o : KvOp) (squash : Bool) : State :=
  let t := j.hearth
  let g := o.k.spec
  match kvMatch j.word o with
  | .error e => s.failJob j.ctx e
  | .ok _ =>
    match s.settleNote t g squash with
    | some note => s.kvEnd j o 0 0 note fun s => s.on (note = 1) fun s => s.bump .KV_TOO_LATE t
    | none =>
      s.launchKv j { cycles := kvIssue o + 1, eff := fun _ _ => {} }
        (fun x => { x with tag := g, done := .kvSettle (if squash then 0 else o.k.keep) [] })
        fun s =>
          let s := s.setTag t g { s.tag t g with st := if squash then 3 else 2, closed := s.now }
          (s.on squash fun s => s.squashAll t g).settleReady

def execKvConfirm (i : Issuer) (s : State) : Answer := live s fun s => s.issueKv i 0x85 fun s j o => s.settleKv j o false

def execKvSquash (i : Issuer) (s : State) : Answer := live s fun s => s.issueKv i 0x86 fun s j o => s.settleKv j o true

/-- R369: a closed tag returns to IDLE at the first tick boundary at which it may. -/
def State.tagReturn (s : State) (t g : Nat) : State :=
  let x := s.tag t g
  s.on (2 ≤ x.st && x.closed + 64 ≤ s.now && x.inFlight = 0) fun s => s.setTag t g {}

def execTagIdleReturn (t : Fin 16) (tag : Byte) (s : State) : Answer := live s fun s => s.tagReturn t tag.toNat

/-! ### The end of KV operations (R375, R382, R387) -/

/-- The pages that a stopped or failed append took leave its sequences; the frames they free. -/
def State.giveBack (s : State) (news : List (Nat × Nat × Nat)) : State :=
  forAll news (fun e s => s.dropPage (s.seq e.1) e.2.1) s

/-- R375: an append's rows count from its completion on. -/
def State.addRows (s : State) (qs : List Nat) (rows spec : Nat) : State :=
  forAll qs
    (fun q s =>
      let x := s.seq q
      s.on x.opened fun s =>
        s.setSeq q (if spec = 0 then { x with len := x.len + rows } else { x with plen := x.plen + rows, pspec := spec })) s

/-- A stopped append hands its frames to the squash that stopped it (R384, R387). -/
def State.handFrames (s : State) (t g : Nat) (fs : List Nat) : State :=
  { s with flights := s.flights.map fun x =>
      match x.done with
      | .kvSettle keep r => if x.ctx.hearth = t && x.tag = g then { x with done := .kvSettle keep (r ++ fs) } else x
      | _ => x }

/-- What the end of an append does: its rows count, or its pages are dropped, and a failed one has their frames to push. -/
def State.endAppend (s : State) (x : Flight) : State :=
  match x.done with
  | .kvAppend qs rows spec _ news _ =>
    if x.status = 0 then s.addRows qs rows spec
    else
      let fs := news.map fun e => e.2.2
      let s := s.giveBack news
      if x.status = 0x20 then
        (s.bump .KV_SQUASHED_ROWS x.ctx.hearth (rows * qs.length)).handFrames x.ctx.hearth x.tag fs
      else s.setFlight x.id fun y => { y with done := .kvPush fs, stack := fs.length }
  | _ => s

/-- One request of the tag is no longer in flight. -/
def State.tagEnd (s : State) (x : Flight) : State :=
  if x.tag = 0 || !(wordOpc x.word = 0x83 || wordOpc x.word = 0x84) then s
  else
    let g := s.tag x.ctx.hearth x.tag
    s.setTag x.ctx.hearth x.tag { g with inFlight := g.inFlight - 1 }

/-- R388: the slots are free once every frame is back. -/
def State.closeSeqs (s : State) (qs : List Nat) : State :=
  let s := forAll qs (fun q s => s.unaccount (s.seq q)) s
  forAll qs (fun q s => s.setSeq q {}) s

/-- The handle of a gather (R382, R342): none while it waits, else the state and, for a fault, why. -/
def State.gatherRing (s : State) (x : Flight) (c addr len spec : Nat) : State × Option (Option Flaw) :=
  let t := x.ctx.hearth
  if x.ringStage then (if s.peerReady c then (s.ringIndex c t, some none) else (s, none))
  else
    match s.putHandle c t (flightRemote x) (s.handleBytes c addr len (s.fld .RING_OWN_IDX c % 65536) spec) with
    | .made s => (s, some none)
    | .sent s => (s.setFlight x.id fun y => { y with ringStage := true }, none)
    | .fault f => (s.countFlaw f, some (some f))
    | .busy => (s, none)
    | .full =>
      if x.planned then (s.bump .RING_FULL_COUNT, some (some { cause := 0x14 }))
      else (s.on (!s.flag .RING_STAT_WAITING c) fun s => (s.setFld .RING_STAT_WAITING c 1).bump .RING_FULL_COUNT, none)

end Sys2Proof.Machine
end

