-- ==== Sys2Proof/Machine/Reshards.lean ====
section
/-! DEFINITION. `reshard` (R131 to R134, R145 to R153): sharding descriptors, the operand block, the moves of a node, their sending,
completion and cancelling. -/

namespace Sys2Proof.Machine

/-! ### Distributions -/

/-- A sharding descriptor (Table 4.5) with its layout. -/
structure Shard where
  elem : Nat
  ndim : Nat
  ext : List Nat
  parts : List Nat
  mode : List Nat
  bs : List Nat
  base : Nat
  stride : Nat
  lay : Layout
  deriving DecidableEq, Repr

inductive Dist where
  | shard (d : Shard)
  | own (h : OwnerTab)
  deriving DecidableEq, Repr

def Dist.elem : Dist → Nat
  | .shard d => d.elem | .own h => h.elem
def Dist.ndim : Dist → Nat
  | .shard d => d.ndim | .own h => h.ndim
def Dist.ext : Dist → List Nat
  | .shard d => d.ext | .own h => h.ext

/-- Part and local index of a coordinate along one dimension, and LMAX (R132). -/
def shardDim (g p mode b x : Nat) : Nat × Nat × Nat :=
  match mode with
  | 0 => (0, x, g)
  | 1 => let ch := ceilDiv g p; (x / ch, x % ch, ch)
  | _ => let q := x / b; (q % p, q / p * b + x % b, ceilDiv (ceilDiv g b) p * b)

def Shard.dim (d : Shard) (k x : Nat) : Nat × Nat × Nat :=
  shardDim (d.ext.getD k 1) (d.parts.getD k 1) (d.mode.getD k 0) (d.bs.getD k 1) x

/-- Node and local coordinate of a global coordinate (R132). -/
def Shard.locate (d : Shard) (x : List Nat) : Nat × List Nat :=
  let z := (upTo d.ndim).map fun k => d.dim k (x.getD k 0)
  ((d.base + lin (z.map (·.1)) (upTo d.ndim) d.parts * d.stride) % 256, z.map (·.2.1))

/-- R134, and what the descriptor must hold before its layout is read. -/
def State.readShard (s : State) (t : Nat) (b : List Byte) : Chk Shard := do
  let n := bnum b 3 1 % 8
  let ext := (upTo n).map fun d => bnum b (16 + 4 * d) 4
  let parts := (upTo 6).map fun d => bnum b (40 + d) 1 + 1
  let mode := (upTo 6).map fun d => bitsOf (bnum b 46 2) (2 * d) 2
  let bs := (upTo 6).map fun d => bnum b (48 + 2 * d) 2 + 1
  let stride := bnum b 61 1
  need (bnum b 3 1 < 8 && bnum b 4 4 = 0 && bnum b 15 1 = 0 && bnum b 62 2 = 0 && bnum b 46 2 < 2 ^ 12 && mode.all (· < 3)) (dchk 0x03)
  need (1 ≤ n && n ≤ 6) (dchk 0x04)
  need (elemOk (bnum b 2 1)) (dchk 0x05)
  need ((upTo 6).all fun d => if d < n then bnum b (16 + 4 * d) 4 != 0 else bnum b (16 + 4 * d) 4 = 0) (dchk 0x07)
  need ((upTo 6).all (fun d => (mode.getD d 0 != 0 || parts.getD d 1 = 1) && (mode.getD d 0 = 2 || bs.getD d 1 = 1) &&
      (d < n || mode.getD d 0 = 0)) &&
    stride != 0 && prod (parts.take n) ≤ 256 / Nat.gcd stride 256) (dchk 0x0D)
  let lb ← s.readDesc t (bnum b 8 6) 0x01 (bnum b 14 1)
  let l ← s.checkLayout (lb.set 14 (BitVec.ofNat 8 s.ownNode))
  let d : Shard :=
    { elem := l.elem, ndim := n, ext := ext, parts := parts.take n, mode := mode.take n, bs := bs.take n, base := bnum b 60 1,
      stride := stride, lay := { l with base := localOf l.base } }
  need (l.ndim = n && l.elem = bnum b 2 1 && (upTo n).all fun k => (d.dim k 0).2.2 ≤ l.ext.getD k 0) (dchk 0x0D)
  return d

/-- A source or destination distribution at a staging address. -/
def State.readDist (s : State) (t a gen : Nat) : Chk Dist := do
  let b ← s.readStaging t a 64 64
  if bnum b 0 1 = 0x03 then
    kindGen b 0x03 gen
    let h ← s.checkOwner t b
    s.access t (s.global h.table) (16 * h.entries) .r
    return .own h
  else
    kindGen b 0x02 gen
    let d ← s.readShard t b
    return .shard d

/-- The nodes that hold the element at a coordinate, the owner first, with its layout on them and its coordinate there; none
for a block that is absent (R137). -/
def State.holders (s : State) (d : Dist) (x : List Nat) : Option (List Nat × Layout × List Nat) :=
  match d with
  | .shard d => let z := d.locate x; some ([z.1], d.lay, z.2)
  | .own h =>
    let c := List.zipWith (· / ·) x h.bshape
    (s.ownerEntry h (lin c (upTo h.ndim) (List.zipWith ceilDiv h.ext h.bshape))).map fun e =>
      (e.1, { h.blay with base := e.2 }, List.zipWith (· % ·) x h.bshape)

/-- Nodes and local ranges that the tensor's parts occupy. A part without elements is none (R134). -/
def State.footprints (s : State) (d : Dist) : List (Nat × Nat × Nat) :=
  ((coords d.ext).flatMap fun x =>
    match s.holders d x with
    | none => []
    | some (ns, l, _) => ns.map fun n => (n, l.base, l.size)).eraseDups

/-! ### Moves of a node -/

/-- The node that sends an element (R138). -/
def State.sender (s : State) (ns : List Nat) : Option Nat := ns.find? s.liveNode

/-- Some bits of a byte: which, and what they are. -/
def putBits (m : List (Nat × Nat × Nat)) (bit w v : Nat) : List (Nat × Nat × Nat) :=
  (upTo ((bit % 8 + w + 7) / 8)).foldl
    (fun m k =>
      let a := bit / 8 + k
      let mask := (2 ^ w - 1) * 2 ^ (bit % 8) / 2 ^ (8 * k) % 256
      let val := v % 2 ^ w * 2 ^ (bit % 8) / 2 ^ (8 * k) % 256
      let o := mget (0, 0) a m
      mput (0, 0) a (o.1 ||| mask, o.2 ||| val) m) m

/-- An element that node `n` sends to node `d`: where it lies at either end, and its coordinate. -/
structure Moved where
  sl : Layout
  sx : List Nat
  dl : Layout
  dx : List Nat
  at_ : List Nat

/-- The elements that node `n` sends to node `d` (R138, R139, R145). -/
def State.movedTo (s : State) (src dst : Dist) (n d : Nat) : List Moved :=
  (coords src.ext).filterMap fun x =>
    match s.holders src x, s.holders dst x with
    | some (sn, sl, sx), some (dn, dl, dx) =>
      if s.sender sn != some n || !dn.contains d || !s.liveNode (dn.headD 0) then none else some ⟨sl, sx, dl, dx, x⟩
    | _, _ => none

/-- Element `q` of the part that holds the element at `x` is no padding (R123). -/
def Dist.within (d : Dist) (l : Layout) (x q : List Nat) : Bool :=
  l.inside q && match d with
    | .shard _ => true
    | .own h => (upTo h.ndim).all fun k => x.getD k 0 / h.bshape.getD k 1 * h.bshape.getD k 1 + q.getD k 0 < h.ext.getD k 0

/-- The padding of every inner tile that the elements go to, as zero bits, where the layout has it written (R123; log entry 106). -/
def zeroPads (dst : Dist) (ms : List Moved) (m : List (Nat × Nat × Nat)) : List (Nat × Nat × Nat) :=
  let key (e : Moved) : Nat × Nat × Nat := (e.dl.base, (e.dl.place e.dx).lo, (e.dl.place e.dx).li)
  let firsts := ms.zipIdx.filter fun e => !(ms.take e.2).any fun f => key f = key e.1
  firsts.foldl
    (fun m e =>
      let l := e.1.dl
      let k := key e.1
      let a := l.base + l.tileOff k.2.1 k.2.2
      if l.padKeep then m
      else
        let out (le : Nat) : Bool := !dst.within l e.1.at_ (l.coordAt k.2.1 k.2.2 le)
        let m := ((upTo l.elems).filter out).foldl (fun m le => putBits m (8 * a + le * l.width) l.width 0) m
        if !isMx l.elem then m
        else ((upTo (l.elems / 32)).filter fun b => (upTo 32).all fun i => out (32 * b + i)).foldl
          (fun m b => putBits m (8 * (a + l.elems * l.width / 8 + b)) 8 0) m) m

/-- What node `n` sends to node `d`: the destination bytes by local address, as bits known and their values. Values are right
for this node only, whose memory is read. -/
def State.sent (s : State) (src dst : Dist) (n d : Nat) : List (Nat × Nat × Nat) :=
  let ms := s.movedTo src dst n d
  zeroPads dst ms (ms.foldl
    (fun m e =>
      let v := if n = s.ownNode then getBits (s.bytes (e.sl.base + e.sl.bitOff e.sx / 8) 6) (e.sl.bitOff e.sx % 8) e.sl.width else 0
      let m := putBits m (8 * e.dl.base + e.dl.bitOff e.dx) e.dl.width v
      let sc := e.dl.base + e.dl.scaleOff e.dx
      if isMx e.dl.elem && mget (0, 0) sc m = (0, 0) then
        putBits m (8 * sc) 8 (if n = s.ownNode then (s.byte (e.sl.base + e.sl.scaleOff e.sx)).toNat else 0)
      else m) [])

/-- Runs of consecutive bytes within one 4 KiB page. -/
def pageRuns : List (Nat × Byte) → List (Nat × List Byte)
  | [] => []
  | (a, b) :: r =>
    match pageRuns r with
    | (c, bs) :: t => if c = a + 1 && c % 4096 != 0 then (a, b :: bs) :: t else (a, [b]) :: (c, bs) :: t
    | [] => [(a, [b])]

/-- The moves to node `d`. Other bits of a byte that shares them stay as they are on this node; on another node they are not known here, and
are free values (log entry 103). -/
def State.movesTo (s : State) (src dst : Dist) (d : Nat) : State × List RMove :=
  let m := s.sent src dst s.ownNode d
  let old (i a : Nat) : Nat := if d = s.ownNode then (s.byte a).toNat else (Config.freeByte (s.free + i)).toNat
  let bs := (List.range m.length).map fun i =>
    let e := m.getD i (0, 0, 0)
    (e.1, BitVec.ofNat 8 (e.2.2 ||| (old i e.1 &&& (255 - e.2.1))))
  ({ s with free := s.free + m.length }, (pageRuns bs).map fun e =>
    { data := some e.2, len := e.2.length, dst := d * 2 ^ 48 + e.1
      rd := if (s.footprints src).any fun f => f.1 = s.ownNode && regionOf f.2.1 = some .fen then 32 * eccUnits 0 e.2.length else 0 })

/-- Destination nodes in the order of R145: from the one after this node on. -/
def State.sendOrder (s : State) (ns : List Nat) : List Nat :=
  ((upTo 256).map fun k => (s.ownNode + 1 + k) % 256).filter ns.contains

/-! ### The operand block -/

structure ReshardOp where
  id : Nat
  src : Dist
  dst : Dist
  list : Bool
  moveAddr : Nat
  nMoves : Nat
  expectIn : Nat
  deriving DecidableEq, Repr

/-- Footprints of two distributions meet on some node. -/
def distOverlap (a b : List (Nat × Nat × Nat)) : Bool :=
  a.any fun x => b.any fun y => x.1 = y.1 && overlaps x.2.1 x.2.2 y.2.1 (y.2.1 + y.2.2)

/-- Table 4.9, R147, R150, R152: the block and what it refers to. Whether RESHARD_ID is in flight already is looked at after the source and
destination descriptors, as its code comes last of theirs (log entry 101). -/
def State.readReshard (s : State) (t p : Nat) : Chk ReshardOp := do
  let b ← s.readPtr t p
  kindGen b 0x04 (ptrGen p)
  let list := (bnum b 2 1).testBit 0
  let z (i k : Nat) : Bool := bnum b i k = 0
  need (bnum b 2 1 < 2 && z 3 1 && z 6 2 && z 15 1 && z 23 1 && z 30 2 && z 36 4 && z 48 16 &&
    (list || (z 24 6 && z 32 4 && z 40 8))) (dchk 0x03)
  need (!list || s.expert t) (dchk 0x0C)
  need (!list || (1 ≤ bnum b 32 4 && bnum b 32 4 ≤ 2 ^ 20)) (dchk 0x0F)
  let src ← s.readDist t (bnum b 8 6) (bnum b 14 1)
  let dst ← s.readDist t (bnum b 16 6) (bnum b 22 1)
  need (src.ndim = dst.ndim && src.elem = dst.elem && src.ext = dst.ext && !distOverlap (s.footprints src) (s.footprints dst) &&
    !s.reshards.any fun r => r.id = bnum b 4 2) (dchk 0x0F)
  return { id := bnum b 4 2, src := src, dst := dst, list := list, moveAddr := bnum b 24 6, nMoves := bnum b 32 4, expectIn := bnum b 40 8 }

/-- A move-list entry (R152). -/
def State.readMove (s : State) (t a : Nat) : Chk RMove := do
  s.access t (s.global a) 32 .r
  let b := s.bytes a 32
  let n := bnum b 16 4
  need (bnum b 0 8 < 2 ^ 56 && bnum b 8 8 < 2 ^ 56 && bnum b 20 12 = 0) (dchk 0x03)
  need ([bnum b 0 8, bnum b 8 8].all fun ga => !s.isOwn ga || engineRegion (localOf ga)) (dchk 0x0A)
  need (n % 64 = 0 && 64 ≤ n && n ≤ 2 ^ 24) (dchk 0x0F)
  s.access t (bnum b 0 8) n .r
  s.access t (bnum b 8 8) n .w
  return { src := bnum b 0 8, len := n, dst := bnum b 8 8 }

/-- The whole move list, or the first failure. -/
def State.readMoves (s : State) (t a : Nat) : Nat → Chk (List RMove)
  | 0 => .ok []
  | k + 1 => do
    let m ← s.readMove t a
    let r ← s.readMoves t (a + 32) k
    return m :: r

/-- A move in parts that stay within one page at both ends. -/
def cutMove (src len dst : Nat) : Nat → List RMove
  | 0 => []
  | k + 1 =>
    if len = 0 then []
    else
      let n := min len (min (4096 - src % 4096) (4096 - dst % 4096))
      { src := src, len := n, dst := dst } :: cutMove (src + n) (len - n) (dst + n) k

/-! ### Sending -/

def reshardRemote (r : Reshard) : Remote :=
  { hearth := r.ctx.hearth, owner := .reshard r.id, planned := r.planned, tag := if r.ctx.origin = 1 then r.ctx.tag else 0,
    uid := if r.ctx.origin = 2 then r.ctx.ref else 0, plan := if r.planned then some r.ctx.plan else none }

def State.reshardOf (s : State) (id : Nat) : Option Reshard := s.reshards.find? (·.id = id)

def State.setReshard (s : State) (id : Nat) (f : Reshard → Reshard) : State :=
  { s with reshards := s.reshards.map fun r => if r.id = id then f r else r }

/-- Bytes of a move: at hand, on their way, or never. -/
def State.moveBytes (s : State) (r : Reshard) (m : RMove) : Src :=
  match m.data with
  | some b => .bytes s b
  | none => s.sources (reshardRemote r) r.cache [(m.src, m.len)]

/-- The bytes of a move still lie in a channel that is in service (R112). -/
def State.moveFenced (s : State) (m : RMove) : Bool := m.data.isNone && s.onChip m.src && s.fenced (localOf m.src) m.len

/-- The reshard fails for `cause`; the first cause stands. -/
def Reshard.fail (r : Reshard) (cause : Nat) : Reshard := { r with cause := if r.cause = 0 then cause else r.cause }

/-- What a move takes of the shares (R326). -/
def State.moveCost (s : State) (m : RMove) : List (Nat × Nat) :=
  (if m.data.isSome then [(0, m.rd)] else s.fenCosts [(m.src, m.len)] false) ++ s.fenCosts [(m.dst, m.len)] true

/-- The shares give the move that is next what they have for it, and whether that is all. -/
def State.payMove (s : State) (r : Reshard) (m : RMove) : State × Bool :=
  let z := s.payShares (reshardRemote r).plan (m.owe.getD (s.moveCost m))
  (z.1.setReshard r.id fun r => { r with moves := { m with owe := some z.2 } :: r.moves.drop 1 }, z.2.isEmpty)

/-- Moves leave in order as far as they can. -/
def State.sendMoves (s : State) (id : Nat) : Nat → State
  | 0 => s
  | n + 1 =>
    match s.reshardOf id with
    | none => s
    | some r =>
      match r.moves with
      | [] => s
      | m :: rest =>
        let next (s : State) : State := s.setReshard id fun r => { r with moves := rest }
        if s.moveFenced m then State.sendMoves ((next (s.spoilMoves [m])).setReshard id (·.fail 0x0F)) id n
        else match s.moveBytes r m with
        | .waits s => s
        | .absent => State.sendMoves ((next (s.spoilMoves [m])).setReshard id (·.fail 0x21)) id n
        | .bytes s bs =>
          let z := s.payMove r m
          let s := z.1
          if !z.2 then s
          else if s.onChip m.dst then State.sendMoves (next (s.localWrite (localOf m.dst) bs)) id n
          else match s.postWrite m.dst bs (reshardRemote r) with
            | (_, .wait) => s.widMiss (reshardRemote r)
            | (s, .sent) => State.sendMoves (next s) id n
            | (s, .absent) => State.sendMoves (next (s.absentWrite m.dst bs.length (reshardRemote r))) id n

/-- The move whose source read failed is over (R149). -/
def State.dropMove (s : State) (id a : Nat) : State :=
  match s.reshardOf id with
  | none => s
  | some r =>
    match r.moves with
    | [] => s
    | m :: rest =>
      if m.data.isNone && m.src ≤ a && a < m.src + m.len then (s.spoilMoves [m]).setReshard id fun r => { r with moves := rest } else s

def State.send (s : State) (id : Nat) : State := s.sendMoves id (((s.reshardOf id).map (·.moves.length)).getD 0)

/-! ### Issue -/

/-- Nodes of both distributions. -/
def State.partNodes (s : State) (o : ReshardOp) : List Nat :=
  ((s.footprints o.src ++ s.footprints o.dst).map (·.1)).eraseDups

/-- Window and key checks: this node's source parts, and the destination parts it writes (R185, R464). A part in a tile file is none that
an operation without tile form reaches (R160, R169). -/
def State.reshardAccess (s : State) (t : Nat) (o : ReshardOp) (ds : List Nat) : Chk Unit := do
  needAll ((s.footprints o.src ++ s.footprints o.dst).filter (·.1 = s.ownNode)) fun e =>
    need (engineRegion e.2.1) { cause := 0x01, addr := s.global e.2.1, len := e.2.2 }
  needAll ((s.footprints o.src).filter (·.1 = s.ownNode)) fun e => s.access t (s.global e.2.1) e.2.2 .r
  needAll ((s.footprints o.dst).filter fun e => ds.contains e.1) fun e => s.access t (e.1 * 2 ^ 48 + e.2.1) e.2.2 .w

/-! ### Bytes that arrive (R146, R152) -/

/-- The common part of two ranges. -/
def meet (a n b m : Nat) : Option (Nat × Nat) :=
  let lo := max a b
  let hi := min (a + n) (b + m)
  if lo < hi then some (lo, hi - lo) else none

/-- Ranges of nodes without the range (`b`, `m`) of node `k`. -/
def cutOut (k b m : Nat) (l : List (Nat × Nat × Nat)) : List (Nat × Nat × Nat) :=
  l.flatMap fun e =>
    if e.1 != k then [e]
    else [(e.1, e.2.1, min (e.2.1 + e.2.2) b - e.2.1), (e.1, max e.2.1 (b + m), e.2.1 + e.2.2 - max e.2.1 (b + m))].filter (·.2.2 != 0)

/-- What the reshard counts of `n` bytes at `a` from node `k`: a byte due once; with a move list any in its destination here from a node
that takes part (log entry 105). -/
def Reshard.hits (r : Reshard) (k a n : Nat) : List (Nat × Nat) :=
  if r.list then (if r.nodes.contains k then r.inRanges.filterMap fun e => meet a n e.1 e.2 else [])
  else (r.due.filter (·.1 = k)).filterMap fun e => meet a n e.2.1 e.2.2

def Reshard.credit (r : Reshard) (k a n : Nat) : Reshard :=
  let h := r.hits k a n
  { r with gotIn := r.gotIn + sumOf (h.map (·.2)), due := h.foldl (fun l e => cutOut k e.1 e.2 l) r.due }

/-- Bytes of node `k` that are counted no more. -/
def dropHits (k : Nat) (h : List (Nat × Nat)) (l : List (Nat × Nat × Nat)) : List (Nat × Nat × Nat) := h.foldl (fun l e => cutOut k e.1 e.2 l) l

/-- A write of node `k` has arrived: reshards in flight count it; what none counts is kept for one that starts later. -/
def State.countIncoming (s : State) (k a n : Nat) : State :=
  let h := s.reshards.flatMap fun r => r.hits k a n
  { s with reshards := s.reshards.map fun r => r.credit k a n, landed := cutOut k a n s.landed ++ dropHits k h [(k, a, n)] }

/-- A reshard that starts counts what has arrived for it already. -/
def State.creditEarly (s : State) (r : Reshard) : State × Reshard :=
  s.landed.foldl
    (fun q e => ({ q.1 with landed := dropHits e.1 (q.2.hits e.1 e.2.1 e.2.2) q.1.landed }, q.2.credit e.1 e.2.1 e.2.2)) (s, r)

/-- The bytes due from a lost node are undefined (R149). -/
def State.spoilDue (s : State) (k : Nat) (r : Reshard) : State :=
  if !r.nodes.contains k then s
  else if r.list then forAll r.inRanges (fun e s => s.undefBytes e.1 e.2) s
  else forAll (r.due.filter (·.1 = k)) (fun e s => s.undefBytes e.2.1 e.2.2) s

/-- Bytes in address order as ranges of a node. -/
def dueRanges (k : Nat) : List Nat → List (Nat × Nat × Nat)
  | [] => []
  | a :: r =>
    match dueRanges k r with
    | (j, b, m) :: t => if b = a + 1 then (k, a, m + 1) :: t else (k, a, 1) :: (j, b, m) :: t
    | [] => [(k, a, 1)]

/-- The reshard that a job starts. -/
def State.planReshard (s : State) (j : Job) (o : ReshardOp) : Chk (State × Reshard) := do
  let t := j.hearth
  let ns := s.partNodes o
  let inR := ((s.footprints o.dst).filter (·.1 = s.ownNode)).map (·.2)
  let lost := ns.any fun n => !s.liveNode n
  if o.list then
    let ms ← s.readMoves t o.moveAddr o.nMoves
    return (s, { id := o.id, ctx := j.ctx, planned := j.planned, contract := j.contract, nodes := ns, expectIn := o.expectIn, inRanges := inR,
                 list := true, moves := ms.flatMap fun m => cutMove m.src m.len m.dst (2 * (m.len / 4096) + 3), cause := if lost then 0x26 else 0 })
  else
    let ds := s.sendOrder (((s.footprints o.dst).map (·.1)).filter fun d => !(s.sent o.src o.dst s.ownNode d).isEmpty)
    s.reshardAccess t o ds
    let r := ds.foldl (fun (r : State × List RMove) d => let z := r.1.movesTo o.src o.dst d; (z.1, r.2 ++ z.2)) (s, [])
    let others := ((s.footprints o.src).map (·.1)).eraseDups.filter (· != s.ownNode)
    let due := others.flatMap fun n => dueRanges n ((s.sent o.src o.dst n s.ownNode).map (·.1))
    return (r.1, { id := o.id, ctx := j.ctx, planned := j.planned, contract := j.contract, nodes := ns
                   expectIn := sumOf (due.map (·.2.2)), inRanges := inR, due := due, moves := r.2, cause := if lost then 0x26 else 0 })

/-- Word checks of `reshard` (R159); a command has no word beyond its pointer. -/
def State.reshardWord (s : State) (j : Job) : Chk Unit :=
  if j.cmd then .ok () else s.checkWord j { tile := false, ptrs := (some true, some false, some false) }

def reshardMatch (j : Job) (o : ReshardOp) : Chk Unit :=
  need (j.cmd || (wElem j.word = o.src.elem && wOpx j.word = o.src.elem && wNdim j.word = o.src.ndim)) (ichk 0x0B)

/-- R145, R148: the reshard starts on this node. -/
def State.startReshard (s : State) (j : Job) : State :=
  match (do s.reshardWord j
            let o ← s.readReshard j.hearth (wSrc j.word)
            reshardMatch j o
            s.planReshard j o) with
  | .error f => s.failJob j.ctx f
  | .ok (p, r) =>
    if 16 ≤ s.reshards.length then
      s.launch j { cycles := 6, eff := fun _ _ => { status := 0x10, r0 := 5 } }
    else
      match p.blockFor j p.flightNext with
      | .error f => s.failJob j.ctx f
      | .ok p =>
        let q := p.creditEarly r
        { q.1 with reshards := q.1.reshards ++ [q.2], flightNext := q.1.flightNext + 1 }.send r.id

/-- A RESHARD command joins its hearth's instruction queue (`fromCmd`); a `reshard` at the front of its issuer starts. -/
def execReshard (i : Issuer) (fromCmd : Bool) (s : State) : Answer :=
  live s fun s =>
    match i, fromCmd with
    | .queue t, true =>
      s.onCmd t 0x05 fun r s => enqueueInstr (BitVec.ofNat 128 (0x80 + 2 ^ 9 + recNum r.bytes 12 4 * 2 ^ 64)) r s true
    | i, _ =>
      match s.takeJob i 0x80 with
      | .none => s
      | .queued s => s
      | .job p j => p.startReshard j

/-! ### Completion and cancelling -/

/-- The move that is next waits for bytes of its share only. -/
def State.moveWaits (s : State) (id : Nat) : Bool :=
  match s.reshardOf id with
  | none => false
  | some r => match r.moves with | m :: _ => m.owe.any fun l => !l.isEmpty | [] => false

/-- What waits for bytes of its share is sent in the cycles that follow, at most `n`. -/
def State.sendOut (s : State) (id : Nat) : Nat → State
  | 0 => s
  | n + 1 => let s := s.send id; if s.moveWaits id then s.hwCycle.sendOut id n else s

/-- Every move is sent and resolved, and every byte due has arrived; a failed reshard waits for its own moves only. -/
def State.reshardDone (s : State) (r : Reshard) : Bool :=
  (r.moves.isEmpty || !r.cancel.isEmpty) && !s.writing (.reshard r.id) && (r.cause != 0 || !r.cancel.isEmpty || r.expectIn ≤ r.gotIn)

/-- How a reshard ends (R146, R149, R153). The record of a cancelled one names its RESHARD_ID (Table 14.7). -/
def reshardEnd (s : State) (r : Reshard) : End :=
  if !r.cancel.isEmpty then { End.faulted 0x19 0 0 0 r.gotIn with aid := some r.id }
  else if r.cause != 0 then { End.faulted r.cause with ash := r.ash }
  else if r.contract != 0 && r.contract < s.clk then { status := 0x01 } else {}

/-- The reshard is over; each RESHARD_CANCEL that waited for it completes too. -/
def State.endReshard (s : State) (r : Reshard) : State :=
  let s := { s with reshards := s.reshards.filter (·.id != r.id), reads := s.reads.filter fun q => q.owner != Owner.reshard r.id }
  forAll r.cancel (fun x s => s.complete x { r0 := 1 }) (s.endWork r.ctx (reshardEnd s r))

def execReshardComplete (id : BitVec 16) (s : State) : Answer :=
  live s fun s =>
    let s := s.sendOut id.toNat (2 * s.tickLen)
    match s.reshardOf id.toNat with
    | none => s
    | some r => if s.reshardDone r then s.endReshard r else s

/-- R153. A further cancel of an id that is still in flight waits for the same completion. -/
def cancelReshard (r : Taken) (s : State) : State :=
  let id := recNum r.bytes 8 2
  match s.reshards.find? fun q => q.id = id && q.ctx.hearth = r.hearth with
  | none => s.complete (takenCtx r) { r0 := 0 }
  | some q => (s.spoilMoves q.moves).setReshard id fun q => { q with moves := [], cancel := q.cancel ++ [takenCtx r] }

def execReshardCancel (t : Fin 16) (s : State) : Answer := live s fun s => s.onCmd t 0x06 cancelReshard

end Sys2Proof.Machine
end

