-- ==== Sys2Proof/Machine/Completion.lean ====
section
/-! DEFINITION. The end of instructions in flight (R190, Table 11.5), pool locks that time out (R415), and open-priority commands past their
deadline (R484). -/

namespace Sys2Proof.Machine

/-! ### Waiting for remote sources -/

/-- The checks and the program of an engine or tile-move opcode. -/
def workOf (opc : Nat) : State → Job → Chk Prog :=
  match opc with
  | 0x10 => State.movT
  | 0x11 => State.movZ
  | 0x20 => State.fabWork State.fabRelay
  | 0x21 => State.fabWork State.fabGather
  | 0x22 | 0x23 | 0x24 | 0x25 => State.fabWork State.fabScatter
  | 0x26 => State.fabWork State.fabRelay
  | 0x30 => State.engWork tpSpec State.tpDesc
  | 0x40 => State.engWork winSpec State.winDesc
  | 0x50 => State.engWork (convSpec unpackOk) State.convDesc
  | 0x51 => State.engWork (convSpec packOk) State.convDesc
  | 0x52 => State.engWork (planeSpec false) (State.planeDesc false)
  | 0x53 => State.engWork (planeSpec true) (State.planeDesc true)
  | 0x54 => State.engWork (ilvSpec false) (State.ilvDesc false)
  | 0x55 => State.engWork (ilvSpec true) (State.ilvDesc true)
  | 0x56 => State.engWork colorSpec State.colorDesc
  | 0x60 | 0x61 | 0x62 | 0x63 => State.engWork (mixSpec true) State.mixDesc
  | _ => State.engWork (mixSpec false) State.mixDesc

/-- The state as an operation in flight sees it: with the descriptors and lists as they were at its issue (R127). -/
def State.withDescs (s : State) (x : Flight) : State := forAll x.descs (fun e s => s.setBytes e.1 e.2) s

/-- The data effect of an append whose source bytes are awaited. -/
def State.appendAgain (s : State) (x : Flight) (spots : List Nat) : State :=
  match (s.withDescs x).readLayout passed (wSrc x.word) with
  | .ok l => s.runWork x.id { reads := [(l.base, l.size)], eff := fun s src => appendOut s l spots (src.headD []) }
  | .error _ => s

/-- Source bytes that have arrived go into the pieces of an engine instruction, and further ones are asked for. -/
def State.feedAgain (s : State) (x : Flight) : State :=
  match workOf (wordOpc x.word) (s.withDescs x)
      { ctx := { x.ctx with hearth := passed }, word := x.word, planned := x.planned, units := x.units, contract := x.contract } with
  | .ok (.desc d) => s.feedPieces x.id d
  | _ => s

/-- A flight whose remote sources are still missing looks again, and sends what it can. -/
def State.pump (s : State) (k : Nat) : State :=
  match s.flight k with
  | none => s
  | some x =>
    if !x.fetching then s.flush k
    else match x.done with
      | .kvAppend _ _ _ spots _ _ => s.appendAgain x spots
      | _ => s.feedAgain x

/-! ### The end (R190, R375, R382, R387, R388) -/

/-- A gather's handle is made, waits, or fails. -/
def State.endGather (s : State) (x : Flight) (c addr len spec : Nat) : State :=
  match s.gatherRing x c addr len spec with
  | (s, none) => s
  | (s, some none) => s.closeFlight x
  | (s, some (some f)) =>
    s.closeFlight { x with status := 0x30, cause := f.cause, sub := f.sub, addr := f.addr, len := f.len, r0 := f.arg }

/-- What a KV operation does as it completes; then its one record. -/
def State.endFlight (s : State) (x : Flight) : State :=
  match x.done with
  | .kvSettle _ _ => s
  | .kvRing c addr len spec => if x.status = 0 then s.endGather x c addr len spec else s.closeFlight x
  | .kvAppend _ _ _ _ news _ =>
    let s := s.endAppend x
    if x.status = 0 || x.status = 0x20 || news.isEmpty then (s.closeFlight x).settleReady else s
  | .kvPush _ => (s.closeFlight x).settleReady
  | .kvClose qs _ => (s.on (x.status != 0x30) fun s => s.closeSeqs qs).closeFlight x
  | .none => s.closeFlight x

/-- One request fewer of its tag is in flight once the flight is gone. -/
def State.tagGone (s : State) (x : Flight) : State := s.on (s.flight x.id).isNone fun s => s.tagEnd x

/-- A confirm or squash that waits for the appends of its tag. -/
def Flight.settling (x : Flight) : Bool := match x.done with | .kvSettle _ _ => true | _ => false

/-- Cycles in which the ledger of a flight is over, if nothing but its own units and two ticks of claims holds it up. -/
def State.flightSpan (s : State) (x : Flight) : Nat :=
  (x.due - s.clk) + (x.start - s.clk) + sumOf (x.todo.map (·.total)) + sumOf (x.runs.map fun r => r.left + r.tail) + 2 * s.tickLen

/-- The cycles until flight `k` is through, at most `n`. -/
def State.runFlight (s : State) (k : Nat) : Nat → State
  | 0 => s
  | n + 1 =>
    match s.flight k with
    | none => s
    | some x => if x.ledgerOver && x.due ≤ s.clk then s else s.hwCycle.runFlight k n

/-- The completion of flight `k`: its ledger runs to its end, if no source byte, unit or WID is awaited beyond that (log entry 3). -/
def State.finishFlight (s : State) (k : Nat) : State :=
  let s := s.pump k
  match s.flight k with
  | none => s
  | some x =>
    if x.fetching || x.settling || !x.out.isEmpty || s.writing (.flight k) then s
    else
      let u := s.runFlight k (s.flightSpan x)
      match u.flight k with
      | none => u
      | some y => if u.flightDone y && y.due ≤ u.clk then (u.endFlight y).tagGone y else s

def execInstructionCompletion (k : Nat) (s : State) : Answer := live s fun s => s.finishFlight k

/-! ### Locked sequences (R413 to R415) -/

/-- An append whose pops fail leaves the pool and its pages as they were, and wrote nothing: frames that its earlier locked sequences took
stand on the stack again. -/
def State.unpop (s : State) (x : Flight) (news : List (Nat × Nat × Nat)) (popped : List Nat) : State :=
  let t := x.ctx.hearth
  let s := forAll x.undo.reverse (fun e s => s.store e.1 [e.2]) s
  let s := s.giveBack news
  let gone := popped.take (popped.length - x.stack)
  let top := s.fld .KV_POOL_TOP t
  let s := forAll gone.reverse.zipIdx (fun e s => s.unitStore (s.fld .KV_POOL_BASE t + 4 * (top + e.2)) (leBytes 4 e.1)) s
  let s := s.setFld .KV_POOL_TOP t (top + gone.length)
  s.setFld .KV_LOST_FRAMES t (s.fld .KV_LOST_FRAMES t - (popped.length - news.length))

/-- The second break of a lock: XBAR_LOCK. Frames that are not pushed yet are lost. -/
def State.lockFails (s : State) (x : Flight) : State :=
  let t := x.ctx.hearth
  let s := match x.done with
    | .kvAppend _ _ _ _ news popped => s.unpop x news popped
    | .kvPush fs => s.bump .KV_LOST_FRAMES t fs.length
    | .kvClose qs fs =>
      let s := forAll qs (fun q s => s.unaccount (s.seq q)) s
      forAll qs (fun q s => s.setSeq q {}) (s.bump .KV_LOST_FRAMES t fs.length)
    | _ => s
  (s.endLock x.id).setFlight x.id fun y =>
    { y with status := 0x30, cause := 0x18, sub := 0, addr := 0, len := 0, r0 := 0, done := .none, fetching := false, out := [], owe := [], stack := 0 }

/-- Whether the operation has locked sequences left to make. -/
def Flight.locks (x : Flight) : Bool := x.status != 0x30 && x.stack != 0

/-- R415 on the pool lock of operation `k`: the sequence is made once more, from its start. -/
def State.breakLock (s : State) (k : Nat) : State :=
  match s.flight k with
  | none => s
  | some x =>
    if !x.locks then s
    else
      let s := (s.setFld .XB_STAT_LOCK_BROKEN 0 1).bump .XB_LOCK_BREAKS
      if x.breaks = 0 then (s.setLock (s.poolPort x.ctx.hearth) k 0).setFlight k fun y => { y with breaks := 1 } else s.lockFails x

def execXbarLockTimeout (k : Nat) (s : State) : Answer := live s fun s => s.breakLock k

/-! ### Deadlines (R484) -/

def State.expireQueue (s : State) (t : Nat) : State :=
  let old := (s.hearth t).iq.filter fun q => q.prio && s.pastDeadline q.ctx.accept q.deadline
  let s := s.setHearth t { s.hearth t with iq := (s.hearth t).iq.filter fun q => !(q.prio && s.pastDeadline q.ctx.accept q.deadline) }
  forAll old (fun q s => s.refuse q.ctx (.refused 0x12)) s

/-- A preheat that never starts leaves its heat slot IDLE again. -/
def State.expireXfer (s : State) (x : Xfer) : State :=
  (match x.heat with | none => s | some h => s.setHeat h 0).refuse x.ctx (.refused 0x12)

def State.expireChan (s : State) (t c : Nat) : State :=
  let old (x : Xfer) : Bool := x.ctx.hearth = t && x.prio && s.pastDeadline x.ctx.accept x.deadline
  let ch := s.chan c
  forAll (ch.queue.filter old) (fun x s => s.expireXfer x) (s.setChan c { ch with queue := ch.queue.filter fun x => !old x })

def execDeadlineExpiry (t : Fin 16) (s : State) : Answer :=
  live s fun s => forAll (upTo 64) (fun c s => s.expireChan t c) (s.expireQueue t)

end Sys2Proof.Machine
end

