-- ==== Sys2Proof/Machine/Nodes.lean ====
section
/-! DEFINITION. The domain: outstanding accesses that fail (R447, R454, R455), the member map and the routes (R442, R444, R448),
election (R441, R551) and the node ids of a formation (R442). -/

namespace Sys2Proof.Machine

/-! ### Outstanding accesses that fail -/

/-- The origin raises LOST (R454): the WID rests for 64 ticks. -/
def State.loseWrite (s : State) (p : Posted) : State :=
  ({ s.bump .LOST_COUNT with lateWids := s.lateWids ++ [(p.wid, s.now + 64)] }).failWrite p 0x05 s.now

/-- A remote read fails with an ash cause: its access faults (R455). -/
def State.failRead (s : State) (r : RemoteRead) (cause : Nat) : State :=
  let s := { s with reads := s.reads.filter fun q => q.rid != r.rid }
  match r.owner with
  | .ember e tag =>
    let m := s.ember e
    let pc := ((m.reeds.find? fun c => c.data.isNone && c.src = r.addr).map (·.pc)).getD m.waitPc
    let k := { m with reeds := m.reeds.filter fun c => !(c.data.isNone && c.src = r.addr) }
    if !m.live || s.emberTag e != tag then s
    else if m.draining then s.setEmber e k
    else s.emberFail e k pc (.faulted cause 0 r.addr r.len)
  | .dma c planned => 
    s.on ((s.dctx c planned).xfer.isSome && (s.dctx c planned).ending = .running) fun s =>
      s.setDctx c planned { s.dctx c planned with ending := .fault cause 0 r.addr r.len, rds := [], raw := [], ready := [], failing := .running }
  | .flight k =>
    (match s.flight k with
     | none => s
     | some x =>
       if x.status = 0x30 then s
       else (s.faultFlight k cause 0).setFlight k fun x => { x with addr := r.addr, len := r.len })
  | .reshard id => (s.blame (.reshard id) cause none).dropMove id r.addr
  | .ring _ | .none => s

/-- R447: what was outstanding to a node that the domain loses. A reshard with a part there fails for that before its writes are lost
(R149). -/
def State.loseNode (s : State) (k : Nat) : State :=
  let s := forAll s.reshards (fun r s => s.spoilDue k r) s
  let s := { s with reshards := s.reshards.map fun r => if r.nodes.contains k then r.fail 0x26 else r }
  let s := forAll (s.posted.filter fun p => nodeOf p.addr = k) (fun p s => s.loseWrite p) s
  forAll (s.reads.filter fun r => nodeOf r.addr = k) (fun r s => s.failRead r 0x26) s

/-! ### Routes (R448) -/

def maskOf (ls : List Nat) : Nat := (ls.map fun n => 2 ^ n).foldl (· + ·) 0

/-- In-service links to node `k` itself. -/
def State.directLinks (s : State) (k : Nat) : List Nat :=
  s.memoryLinks.filter fun n => s.flag .FAR_INFO_NODE_VALID n && s.fld .FAR_INFO_NODE n = k

/-- The first-hop mask of a member: the links to it, or, where none is known to lead there in one hop, some of those to other
nodes (log entry 10). -/
def State.reroute (s : State) (k : Nat) : State :=
  if k = s.ownNode || !s.isMember k then s.setFld .RT_LINKS k 0
  else
    let d := maskOf (s.directLinks k)
    if d != 0 then s.setFld .RT_LINKS k d
    else
      let all := maskOf s.memoryLinks
      let m := Config.freeNat s.free &&& all
      { s.setFld .RT_LINKS k (if m = 0 then all else m) with free := s.free + 1 }

/-! ### The member map (R442, R444, R446, R447) -/

/-- Bit `n` of a map of four 64-bit words. -/
def mapBit (ws : List Nat) (n : Nat) : Bool := (ws.getD (n / 64) 0).testBit (n % 64)

def State.mapWords (s : State) : List Nat :=
  (upTo 4).map fun k => s.fld .MEMBER (2 * k) + s.fld .MEMBER (2 * k + 1) * 2 ^ 32

/-- The members of this node's domain. -/
def State.members (s : State) : List Nat := (upTo 256).filter s.isMember

/-- Election of a domain that re-forms: every node names itself first (R441, R551). -/
def State.startElection (s : State) : State :=
  let s := { s with node := { s.node with scope := 1, bestPrio := s.fld .NODE_CFG_ELECT_PRIO, bestDie := s.fuses.dieId.toNat } }
  s.floodExcept none (s.upLinks.filter isSibling) (s.electFrame false false)

/-- Election again in the surviving scope, without leaving WARM (R447). -/
def State.reelect (s : State) : State :=
  ((((s.setFld .ELECT_STAT_ELECT_DONE 0 0).setFld .TRAY_POS_CHIMNEY 0 0).setFld .TRAY_POS_ROW_CHIMNEY 0 0)).startElection

/-- This node has left: it is alone, and forms a domain of its own (R446, R447). -/
def State.removed (s : State) : State :=
  let s := ((s.setFld .NODE_ID_VALID 0 0).setFld .NODE_CTL 0 0).setFld .JOIN_STAT_JSTATE 0 0
  { s with node := { s.node with leaving := false, leaveSent := false, known := [] } }.reelect

/-- A member map applies. -/
def State.applyMember (s : State) (epoch : Nat) (ws : List Nat) : State :=
  let was := s.members
  let s := s.setFld .MEMBER_EPOCH 0 epoch
  let s := forAll (upTo 8) (fun i s => s.setFld .MEMBER i ((ws.getD (i / 2) 0) / 2 ^ (32 * (i % 2)))) s
  let s := forAll (upTo 256) (fun k s => s.reroute k) s
  let gone := was.filter fun k => !s.isMember k
  let s := forAll (gone.filter (· != s.ownNode)) (fun k s => s.loseNode k) s
  let s := { s with node := { s.node with toDrop := s.node.toDrop.filter s.isMember,
                                          toAdd := s.node.toAdd.filter fun e => !s.isMember e.1 } }
  if s.flag .NODE_ID_VALID && gone.contains s.ownNode then s.removed
  else
    s.on (s.fld .JOIN_STAT_JSTATE != 4 && s.flag .NODE_ID_VALID && s.isMember s.ownNode) fun s =>
      s.setFld .JOIN_STAT_JSTATE 0 (if s.members.length = 1 then 0 else 3)

/-- The EPOCH after the current one (R442). -/
def State.nextEpoch (s : State) : Nat := if s.fld .MEMBER_EPOCH = 0xFFFF then 1 else s.fld .MEMBER_EPOCH + 1

def memberFrame (epoch : Nat) (ws : List Nat) : Frame := localFrame 0x0B epoch ((upTo 4).map fun k => ws.getD k 0)

/-- The chimney's next map: the waiting nodes that may join by tick `by_`, and without those that leave or are lost. -/
def State.nextMap (s : State) (by_ : Nat) : List Nat :=
  let add := (s.node.toAdd.filter (·.2 ≤ by_)).map (·.1)
  let has (n : Nat) : Bool := (s.isMember n || add.contains n) && !s.node.toDrop.contains n
  (upTo 4).map fun k => ((upTo 64).map fun b => b2n (has (64 * k + b)) * 2 ^ b).foldl (· + ·) 0

/-! ### Node ids of a formation (R442) -/

/-- Ids for nodes in ascending DIE_ID order: a request wins unless a lower DIE_ID makes the same one, which leaves the node without
an id; the others take the lowest free ids. -/
def giveIds (reqs : List Nat) : List Nat → List (Nat × Option Nat) → List (Nat × Option Nat)
  | _, [] => []
  | used, (d, some r) :: rest =>
    if used.contains r then (d, none) :: giveIds reqs used rest else (d, some r) :: giveIds reqs (r :: used) rest
  | used, (d, none) :: rest =>
    let id := (upTo 256).find? fun k => !used.contains k && !reqs.contains k
    (d, id) :: giveIds reqs (id.toList ++ used) rest

def assignIds (l : List (Nat × Option Nat)) : List (Nat × Option Nat) := giveIds (l.filterMap (·.2)) [] l

/-- The in-service link to a die, or to a tray by its chimney's. -/
def State.linkTo (s : State) (die : Nat) : Option Nat :=
  (s.memoryLinks.find? fun n => s.fld .FAR_DIE n = die).or (s.memoryLinks.find? fun n => (s.link n).far.trayDie = die)

/-- R445: the answer to a node takes the link towards its die, and goes by its node id where none is known. -/
def State.sendJoin (s : State) (dst die : Nat) (f : Frame) : State :=
  match s.linkTo die with
  | some n => s.sendLink n f
  | none => s.sendNode dst none f

/-- This node takes id `k` (R442). -/
def State.takeId (s : State) (k : Nat) : State := (s.setFld .NODE_ID_ID 0 k).setFld .NODE_ID_VALID 0 1

/-- The nodes that the chimney knows at formation: itself, the memory nodes on its links, and those that asked to join (log
entry 44). -/
def State.formed (s : State) : List (Nat × Option Nat) :=
  let own := (s.fuses.dieId.toNat, if s.flag .NODE_CFG_REQ_EN then some (s.fld .NODE_CFG_NODE_REQ) else none)
  let far : List (Nat × Option Nat) := s.memoryLinks.map fun n => (s.fld .FAR_DIE n, none)
  let all := far ++ s.node.known.map fun e => (e.1, e.2.1)
  all.foldl (fun l e => if l.any (·.1 = e.1) then l else minsert e.1 e.2 l) [own]

/-- R442: the domain chimney assigns ids, tells each node its own, and floods the first member map. -/
def State.form (s : State) : State :=
  let ids := assignIds s.formed
  let own := s.fuses.dieId.toNat
  let s := match mget none own ids with | none => s | some k => s.takeId k
  let s := { s with node := { s.node with known := ids.map fun e => (e.1, none, e.2) } }
  let s := forAll (ids.filter (·.1 != own)) (fun e s =>
    match e.2 with
    | some k => s.sendJoin k e.1 (s.joinFrame k 2 k 0 e.1 0)
    | none => s.sendJoin 0 e.1 (s.joinFrame 0 3 0 1 e.1 0)) s
  let got := ids.filterMap (·.2)
  let ws := (upTo 4).map fun k => ((upTo 64).map fun b => b2n (got.contains (64 * k + b)) * 2 ^ b).foldl (· + ·) 0
  let e := s.nextEpoch
  let s := s.floodExcept none s.memoryLinks (memberFrame e ws)
  let s := (s.setFld .ELECT_STAT_CHIMNEY_NODE 0 s.ownNode).setFld .ELECT_STAT_ROW_CHIMNEY_NODE 0 s.ownNode
  if s.tk.firstLock then { s with node := { s.node with pendMap := some (e, ws) }, tk := { s.tk with mbrNext := true } }
  else s.applyMember e ws

/-! ### Election (R441, R551) -/

/-- The order of candidates: the higher priority, and on a tie the lower DIE_ID. -/
def better (p d p' d' : Nat) : Bool := p' < p || (p = p' && d < d')

def State.scopeLinks (s : State) (row : Bool) : List Nat :=
  s.upLinks.filter fun n => isSibling n || (row && isRowLink n)

/-- A candidate seen in the running scope: a better one is flooded on. -/
def State.candidate (s : State) (n : Nat) (row : Bool) (prio die : Nat) : State :=
  if s.node.scope != (if row then 2 else 1) || !better prio die s.node.bestPrio s.node.bestDie then s
  else
    let s := { s with node := { s.node with bestPrio := prio, bestDie := die } }
    s.floodExcept (some n) (s.scopeLinks row) (s.electFrame row false)

/-- The tray scope ends with `die` as tray chimney; the Row scope begins, in which a sibling only forwards. -/
def State.endTray (s : State) (die : Nat) : State :=
  let own := die = s.fuses.dieId.toNat
  let s := s.floodExcept none (s.scopeLinks false) (localFrame 0x0A (s.node.bestPrio + 32) [die])
  let s := s.setFld .TRAY_POS_CHIMNEY 0 (b2n own)
  let s := { s with node := { s.node with scope := 2, trayDie := die,
                                          bestPrio := if own then s.fld .NODE_CFG_ELECT_PRIO else 0,
                                          bestDie := if own then die else 2 ^ 64 } }
  (s.on own fun s => s.floodExcept none (s.scopeLinks true) (s.electFrame true false)).tryJoin

/-- After a re-election the source in force leads to the new chimney (R447). -/
def State.effSource (s : State) (die : Nat) : State :=
  if die = s.fuses.dieId.toNat then
    let old := s.fld .ELECT_STAT_ROW_CHIMNEY_NODE
    let s := ((s.setFld .ELECT_STAT_EFF_SRC 0 0).setFld .ELECT_STAT_EFF_LINK 0 0).setFld .ELECT_STAT_ROW_CHIMNEY_NODE 0 s.ownNode
    s.on (old != s.ownNode && s.isMember old) fun s => { s with node := { s.node with toDrop := s.node.toDrop ++ [old] } }
  else
    match s.linkTo die with
    | none => s
    | some n =>
      let s := (s.setFld .ELECT_STAT_EFF_SRC 0 (if isSibling n then 1 else 2)).setFld .ELECT_STAT_EFF_LINK 0 n
      s.on (s.flag .FAR_INFO_NODE_VALID n && s.fld .FAR_DIE n = die) fun s =>
        s.setFld .ELECT_STAT_ROW_CHIMNEY_NODE 0 (s.fld .FAR_INFO_NODE n)

/-- The Row scope ends with `die` as domain chimney, which forms the domain, or takes it over. -/
def State.endRow (s : State) (die : Nat) : State :=
  let own := die = s.fuses.dieId.toNat
  let s := s.floodExcept none (s.scopeLinks true) (localFrame 0x0A (s.node.bestPrio + 16 + 32) [die])
  let s := (s.setFld .TRAY_POS_ROW_CHIMNEY 0 (b2n own)).setFld .ELECT_STAT_ELECT_DONE 0 1
  let s := { s with node := { s.node with scope := 3, rowDie := die } }
  if s.tk.firstLock && s.flag .NODE_ID_VALID then { s with node := { s.node with eff := true } }.effSource die
  else s.on own fun s => s.form

end Sys2Proof.Machine
end

