-- ==== Sys2Proof/Machine/Tick.lean ====
section
/-! DEFINITION. The tick: locking and losing its source (R443, R496, R552, R553), markers (R54 to R57, R59, R61 to R64, R434),
the boundary, slack windows (R55), kindling (R65 to R69), the damper's refill (R314), and planned releases (R38). -/

namespace Sys2Proof.Machine

/-! ### Locking -/

/-- The clock moves on to cycle `t` of the tick, if it is not past it. -/
def State.toCyc (s : State) (t : Nat) : State := s.advance (t - s.cyc)

/-- R65: COLD ends with the lock and the end of discovery. -/
def State.tryLocked (s : State) : State :=
  s.on (s.chip = chipCold && s.flag .TICK_STAT_LOCKED && s.flag .ELECT_STAT_ELECT_DONE && (upTo 24).all s.settled) fun s =>
    s.setChip chipLocked

/-- R496, R551: the links start training and the tray election begins. -/
def startLinks (s : State) : State :=
  if !s.flag .CLK_STAT_PLL_ON || s.flag .MP_STAT_FCLK_UP then s
  else
    let s := s.setFld .MP_STAT_FCLK_UP 0 1
    let s := forAll ((upTo 24).filter fun n => !s.barred n) (fun n s => s.train n lkTraining) s
    s.startElection

def execFclkUp (s : State) : Answer := live s startLinks

/-- What a marker announces for the boundary after its own. -/
def TickSt.announce (k : TickSt) (m : Mark) : TickSt :=
  { k with susp := m.susp, kindleNext := m.kindleNext, mbrNext := m.mbrNext }

/-- R552, on the first lock: the chimney is in tick 0; a follower opens the tick of its marker. -/
def State.firstLock (s : State) : State :=
  let s := { s with tk := { s.tk with firstLock := true } }
  if s.isChimney then { s with cyc := 0 }.setFld .TICK_COUNT 0 0
  else match s.tk.arrived with
    | none => s
    | some m =>
      let s := { s with clk := max s.clk (s.tk.lastB.getD 0), cyc := 0, tk := { s.tk.announce m with arrived := none } }
      (s.setFld .TICK_COUNT 0 m.n).setFld .TICK_STAT_BANK_NEXT 0 (b2n m.bankNext)

/-- A follower's first lock waits for four good markers, a later one for one (R447, R552). -/
def State.lockDue (s : State) : Bool :=
  !s.flag .TICK_STAT_LOCKED && s.flag .ELECT_STAT_ELECT_DONE &&
  (s.isChimney || (if s.tk.firstLock then 1 ≤ s.tk.good else 4 ≤ s.tk.good && s.tk.arrived.isSome))

def raiseLock (s : State) : State :=
  if !s.lockDue then s
  else if !s.sourceAgrees then s.setFld .ELECT_STAT_SRC_CONFLICT 0 1
  else
    let s := s.setFld .TICK_STAT_LOCKED 0 1
    (s.on (!s.tk.firstLock) fun s => s.firstLock).tryLocked

def execTickLock (s : State) : Answer := live s raiseLock

def execLockLost (s : State) : Answer := live s fun s => s.lockFalls

/-! ### Composing a marker (R54 to R57, R59, R62, R66) -/

/-- The chimney's view of a plan at tick N + 1, where N is the tick that the next boundary opens: its slack then, after the
refills and the charge of the boundaries before. -/
def State.slackAt (s : State) (p : Nat) : Nat :=
  let b := (s.plan p).bankSlack
  let l := s.fld .PLAN_STATE_SLACK_LEFT p
  if (s.now + 2) % 256 = 0 then b
  else
    let l := if (s.now + 1) % 256 = 0 then b else l
    if s.flag .TICK_STAT_BANK_NEXT then l - 1 else l

/-- Plans that run at the latch for boundary N or enter RUNNING there, less those that M(N − 1) lists (R56). -/
def State.chargeable (s : State) : List Nat :=
  (upTo 16).filter fun p =>
    let pl := s.plan p
    let enters := !s.flag .TICK_STAT_BANK_NEXT && (match pl.pend with | none => false | some c => c.tick ≤ s.now + 1) &&
      (match pl.retire with | none => true | some c => s.now + 1 < c.tick)
    (s.planSt p = plRunning || enters) && !s.tk.susp.contains pl.uid

/-- Tick N + 1 is a kindling tick (R56, R67). -/
def State.kindlesNext (s : State) : Bool :=
  s.tk.kindleNext || (s.chip = chipKindling && s.fld .TICK_STAT_KINDLE_TICK + 2 ≤ 255)

/-- Every node of the domain is ready to kindle (R66). -/
def State.allReady (s : State) : Bool :=
  s.chip = chipLocked && !s.members.isEmpty && s.members.all fun n => s.tk.ready.contains n

/-- The domain has other members, whose plans R56 and R57 count too; what those allow and list is free (log entry 53). -/
def State.othersRun (s : State) : Bool := s.members.any (· != s.ownNode)

/-- M(N), from the requests and reports that have reached the chimney. -/
def State.mark (s : State) : Mark :=
  let kn := !s.kindlesNext && s.allReady
  let ban := !kn && !s.kindlesNext
  let thermal := s.tk.bankThermal && ban
  let run := s.chargeable.filter fun p => !s.tk.misses.contains (s.plan p).uid
  let worn := if thermal then (run.filter fun p => s.slackAt p = 0).map fun p => (s.plan p).uid else []
  let far := if thermal && s.othersRun then (Config.farListed s.free).map (·.toNat) else []
  let susp := ((worn ++ far ++ s.tk.misses).eraseDups).take 16
  let soft := s.tk.bankSoft && ban && (!s.othersRun || Config.farSlack s.free) &&
    (s.chargeable.filter fun p => !susp.contains (s.plan p).uid).all fun p => s.slackAt p != 0
  { lead := 1016, n := (s.now + 1) % 2 ^ 48, bankNext := thermal || soft, kindleNext := kn, abort := s.tk.abortReq,
    mbrNext := s.node.pendMap.isNone &&
      (!s.node.toDrop.isEmpty || s.node.toAdd.any fun e => e.2 ≤ s.now + 2), susp := susp }

/-- The member map that a marker announces goes out before it (R444). -/
def State.floodMap (s : State) : State :=
  let ws := s.nextMap (s.now + 2)
  let s := { s with node := { s.node with pendMap := some (s.nextEpoch, ws) } }
  s.floodExcept none s.memoryLinks (memberFrame s.nextEpoch ws)

/-- This node's own software bank request is granted or dropped by the marker that answers it (R54, R56). -/
def State.answerAsk (s : State) (granted : Bool) : State :=
  s.on (s.tk.ownAsk = some true) fun s =>
    ({ s with tk := { s.tk with ownAsk := none } }.setFld .BANK_CTRL_BANK_REQ 0 0).on (!granted) fun s =>
      s.setFld .BANK_CTRL_REQ_DENIED 0 1

/-- B − 1,024 on the chimney. -/
def State.compose (s : State) : State :=
  if !s.isChimney || !s.tk.firstLock || s.tk.composed.isSome || s.tk.arrived.isSome || s.tk.didLatch then s
  else
    let s := s.toCyc (s.tickLen - 1024)
    let m := s.mark
    let s := s.answerAsk m.bankNext
    let s := { s with free := s.free + 1,
                      tk := { s.tk with composed := some m, bankThermal := false, bankSoft := false, abortReq := false,
                                        misses := s.tk.misses.filter (!m.susp.contains ·) } }
    s.on m.mbrNext fun s => s.floodMap

def execMarkerCompose (s : State) : Answer := live s fun s => s.compose

/-! ### Sending and latching -/

/-- PLAN_UIDs, four to a word (R434). -/
def uidWords (l : List Nat) : List Nat :=
  (upTo (ceilDiv l.length 4)).map fun k =>
    ((upTo 4).map fun j => l.getD (4 * k + j) 0 * 2 ^ (16 * j)).foldl (· + ·) 0

def markerFrame (m : Mark) : Frame :=
  localFrame 0x08 (m.hops + m.lead * 2 ^ 8 + b2n m.bankNext * 2 ^ 19 + b2n m.kindleNext * 2 ^ 20 + b2n m.abort * 2 ^ 21 +
    b2n m.mbrNext * 2 ^ 22 + m.susp.length * 2 ^ 24) (m.n :: uidWords m.susp)

/-- The fields of a marker (R434). -/
def readMark (f : Frame) : Mark :=
  let bit (b : Nat) : Bool := hdr f 0 b 1 = 1
  { hops := hdr f 0 32 8, lead := hdr f 0 40 11, bankNext := bit 51, kindleNext := bit 52, abort := bit 53, mbrNext := bit 54,
    n := hdr f 1 0 48, susp := (upTo (hdr f 0 56 5)).map fun k => hdr f (2 + k / 4) (16 * (k % 4)) 16 }

/-- R436: the preamble 1010 0101 1100 0011 as it is written, then each word of the marker, least significant bit first. -/
def tickOutBits (m : Mark) : List Bool :=
  (upTo 16).map (fun k => (0xA5C3 : Nat).testBit (15 - k)) ++ (markerFrame m).words.flatMap fun w => (upTo 64).map w.toNat.testBit

/-- R436: TICK_OUT sends a marker whose first preamble bit leaves now, LEAD cycles before its boundary. -/
def State.driveOut (s : State) (m : Mark) : State :=
  if s.flag .TICK_CFG_TICK_OUT_EN then { s with tickOut := tickOutBits m, tickOutAt := s.clk } else s

/-- B − 1,016 on the chimney: M(N) goes out on every link of the domain and on TICK_OUT, and the chimney follows it too. -/
def State.sendMarker (s : State) : State :=
  match s.tk.composed with
  | none => s
  | some m =>
    let s := s.toCyc (s.tickLen - 1016)
    let s := { s with tk := { s.tk with composed := none, arrived := some m } }
    (s.driveOut m).floodExcept none s.upLinks (markerFrame m)

def execMarkerSend (s : State) : Answer := live s fun s => s.sendMarker

/-- The marker that the latch for the coming boundary finds: while the node is locked only the one of that boundary counts, so that
one that came too late for its own is none (R61). -/
def State.foundMarker (s : State) : Option Mark :=
  s.tk.arrived.filter fun m => !s.flag .TICK_STAT_LOCKED || m.n = (s.now + 1) % 2 ^ 48

/-- B − 64 (R61 to R64): the commits taken up to B − 65 bind to B, the units live up to then are fixed, and the marker is taken, or is
missing. It answers a follower's own bank request (log entry 45). -/
def State.latchMarker (s : State) : State :=
  if !s.tk.firstLock || s.tk.didLatch then s
  else
    let s := s.toCyc (s.tickLen - 64)
    let found := s.foundMarker
    let s := s.on found.isNone fun s => s.setFld .TICK_STAT_SOURCE_LOST 0 1
    let s := match found with
      | none => s
      | some m => s.on (!s.isChimney) fun s => s.answerAsk m.bankNext
    { s with
      commits := s.commits.map fun c => { c with bound := c.bound || !c.late }
      units := { s.units with fixSlices := s.fld .SLICE_LIVE ||| s.units.lateSlices,
                              fixMixers := s.fld .MIXER_LIVE ||| s.units.lateMixers,
                              fixFen := s.fld .FEN_LIVE ||| s.units.lateFen }
      tk := { s.tk with latched := found, arrived := none, didLatch := true, lossAtLatch := found.isNone } }

def execMarkerLatch (s : State) : Answer := live s fun s => s.latchMarker

/-! ### Plans at a boundary -/

/-- R57, R59, R61: suspensions take effect at the boundary that opens tick `n`. A plan that the marker lists at the boundary of a banked
tick for which it has no slack left records BANK_SLACK, whatever else may have listed it (log entry 96). -/
def State.suspensions (s : State) (n : Nat) (banked lost : Bool) (susp : List Nat) : State :=
  forAll (s.plansIn (· = plRunning))
    (fun p s =>
      let pl := s.plan p
      let slack := if n % 256 = 0 then pl.bankSlack else s.fld .PLAN_STATE_SLACK_LEFT p
      if lost then s.suspend p 0x07
      else if susp.contains pl.uid then s.suspend p (if banked && slack = 0 then 0x05 else 0x08)
      else if pl.missed && (pl.retire.map (·.resume)).getD false then s.suspend p 0x08
      else s) s

/-- R51: what a resume checks again; REASON and RES_ID of the check that fails. -/
def State.resumeCheck (s : State) (p : Nat) : Option (Nat × Nat) :=
  let pl := s.plan p
  if s.liveSlices < pl.slices || s.liveMixers < pl.mixers then some (0x06, 0xFF)
  else match s.check10 pl.tickLenK (s.othersOf p) pl.budgets pl.alts with
    | some r => some (0x09, r)
    | none => (s.check11 pl.budgets pl.alts).map fun r => (0x0A, r)

/-- R50 to R52, R554: a start or resume whose boundary has come. -/
def State.enterRunning (s : State) (p : Nat) (c : PendCmd) : State :=
  let pl := s.plan p
  match (if c.resume then s.resumeCheck p else none) with
  | some (reason, res) => (s.setPlan p { pl with pend := none }).planDone c.ctx p 0x11 reason res
  | none =>
    let s := s.setPlan p { pl with pend := none, fresh := false, tick := if pl.fresh then 0 else pl.tick + 1 }
    (s.setPlanSt p plRunning).planDone c.ctx p 0 0 0xFF

/-- Its PLAN_RETIRE was taken in ADMITTED or SUSPENDED with nothing pending: the slot empties at the next boundary whatever items
of it are still open (R52). -/
def Plan.untimed (pl : Plan) : Bool := match pl.retire with | none => false | some c => c.tick = 0 && !c.resume

/-- One plan slot at the boundary that opens tick `n`: retires first (R52), then PLAN_TICK and starts (R29, Table 2.3). -/
def State.planBoundary (s : State) (n : Nat) (banked : Bool) (p : Nat) : State :=
  let pl := s.plan p
  if (match pl.retire with | none => false | some c => c.tick ≤ n) || pl.retiring then
    (if s.itemsOf p && !pl.untimed then s.setPlan p { pl with retiring := true } else s.emptySlot p)
  else if s.planSt p = plRunning then (if banked then s else s.setPlan p { pl with tick := pl.tick + 1 })
  else match pl.pend with
    | none => s
    | some c => if banked || n < c.tick then s else s.enterRunning p c

/-- PLAN_LOADs count the boundaries since they were taken (R48). -/
def State.countLoads (s : State) : State :=
  { s with plans := s.plans.map fun e => (e.1, { e.2 with load := e.2.load.map fun l => { l with boundaries := l.boundaries + 1 } }) }

/-! ### Slack (R55) -/

/-- The window that starts at this tick returns every plan's slack; the charge of a banked first tick stays. -/
def State.slackWindow (s : State) : State :=
  s.on (s.now % 256 = 0) fun s =>
    forAll (s.plansIn isAdmitted) (fun p s =>
      s.setFld .PLAN_STATE_SLACK_LEFT p
        ((s.plan p).bankSlack - b2n (s.flag .TICK_STAT_BANKED && s.planSt p = plRunning))) s

/-- The slack of the tick that has opened: refilled at a window's start, and charged in a banked tick. -/
def State.slackTick (s : State) : State :=
  if s.now % 256 = 0 then s.slackWindow
  else s.on (s.flag .TICK_STAT_BANKED) fun s =>
    forAll (s.plansIn (· = plRunning)) (fun p s =>
      s.setFld .PLAN_STATE_SLACK_LEFT p (s.fld .PLAN_STATE_SLACK_LEFT p - 1)) s

def execSlackWindowStart (s : State) : Answer := live s fun s => s.on s.tk.firstLock fun s => s.slackWindow

/-! ### Kindling (R66 to R69) -/

/-- Kindling tick 0: the counters and the measurements start again (Table 2.8), for links held by LAT_OVER too (R65, R433). -/
def State.kindleStart (s : State) : State :=
  let s := (s.setChip chipKindling).setFld .TICK_STAT_KINDLE_TICK 0 0
  let s := s.on (s.fld .JOIN_STAT_JSTATE = 1) fun s => s.setFld .JOIN_STAT_JSTATE 0 2
  let s := forAll (upTo 24) (fun n s => s.setLink n { s.link n with probes := 0, maxTrip := 0, kindleLat := none }) s
  let s := forAll ((upTo 24).filter fun n => s.lk n = lkHeld && s.fld .LINK_STAT_HOLD_CAUSE n = heldLatOver) (fun n s => s.serve n) s
  let s := forAll s.upLinks (fun n s => s.sendProbe n) s
  let s := s.setFld .TJ_MEAS_MODEL 0 (4 * 95)
  { s with bucket := [], borrowed := [], units := { s.units with phased := 0 },
           tk := { s.tk with kindleWait := false, joinTick := none, ready := [], maxMarker := 0, kdone := false } }

/-- R316: every bucket holds `k` 128ths of its cap. -/
def State.fillBuckets (s : State) (k : Nat) : State :=
  forAll (upTo 48) (fun i s => s.setCredit (i / 16) (i % 16) (s.fld .DMP_CAP * 1024 * k / 128)) s

/-- Whether a code of Table 2.9 has its trigger. -/
def State.kindleFails (s : State) (code : Nat) : Bool :=
  match code with
  | 1 => !s.flag .TICK_STAT_LOCKED
  | 2 => 896 < s.tk.maxMarker
  | 3 => 64 ≤ s.fld .TICK_STAT_KINDLE_TICK && s.upLinks.any fun n => (s.link n).kindleLat.isNone
  | 4 => s.tk.abort
  | _ => false

/-- The next kindling tick, or the boundary after the last. In ticks 224 to 255 every measurement is checked (Table 2.8); the refresh
windows of two channels are phased in every second of ticks 64 to 95 (log entry 95). -/
def State.kindleTick (s : State) : State :=
  let k := s.fld .TICK_STAT_KINDLE_TICK
  if 223 ≤ k && s.kindleFails 2 then s.kindleFail 2
  else if 223 ≤ k && s.kindleFails 3 then s.kindleFail 3
  else if k = 255 then { s with tk := { s.tk with kdone := true } }
  else
    let s := s.setFld .TICK_STAT_KINDLE_TICK 0 (k + 1)
    let s := s.on (k = 63) fun s => s.setFld .MARKER_LAT 0 (if s.isChimney then 0 else s.tk.maxMarker)
    let s := s.on (64 ≤ k + 1 && k + 1 ≤ 95) fun s => { s with units := { s.units with phased := 2 ^ ((k + 1 - 64) / 2 + 1) - 1 } }
    s.on (96 ≤ k + 1 && k + 1 ≤ 223) fun s => s.fillBuckets (k + 1 - 95)

/-- R68: all links keep the latency that kindling measured. -/
def kindled (s : State) : State :=
  s.on (s.chip = chipKindling && s.tk.kdone) fun s => { s.setChip chipWarm with tk := { s.tk with kdone := false } }

def execKindleComplete (s : State) : Answer := live s kindled

def execKindleFail (code : BitVec 4) (s : State) : Answer :=
  live s fun s => s.on (s.chip = chipKindling && s.kindleFails code.toNat) fun s => s.kindleFail code.toNat

/-! ### The boundary (Table 2.7) -/

/-- Steps before the boundary that no command has made yet (log entry 46). -/
def State.prepare (s : State) : State := ((s.compose).sendMarker).latchMarker

/-- The number of the tick that opens: a follower that has lost its lock adopts that of its source's marker (R447, R552). -/
def State.nextTick (s : State) : Nat :=
  match s.tk.latched with
  | some m => if s.flag .TICK_STAT_LOCKED || s.isChimney then s.now + 1 else m.n
  | none => s.now + 1

/-- Links whose new measurement was good come back at the boundary (R433). -/
def State.rejoinLinks (s : State) : State :=
  forAll ((upTo 24).filter fun n => (s.link n).rejoin) (fun n s => s.serve n) s

/-- R504: a new tray chimney starts its fans at FAN_CEIL. -/
def State.fanChimney (s : State) : State :=
  let c := s.flag .TRAY_POS_CHIMNEY
  let s := s.on (c && !s.therm.chimneySeen) fun s => s.setFld .FAN_DUTY 0 (s.fld .THERM_CFG_FAN_CEIL)
  { s with therm := { s.therm with chimneySeen := c } }

/-- R513: a DAMP write that was held takes effect. -/
def State.dampBoundary (s : State) : State :=
  s.on (s.damp.held && s.chip = chipWarm) fun s =>
    { s.setChip chipDamping with damp := { stage := 1, entered := s.now, held := false } }

/-- The tick has opened: what came too late for the last marker waits for the next (R54, R437). -/
def TickSt.nextAsks (k : TickSt) : TickSt :=
  { k.setAsks (k.asks.join k.late) with late := {}, ownAsk := k.ownAsk.map fun _ => true }

/-- What the boundary that opens tick `n` does, once the count stands at it: `k` is the tick machinery before it. -/
def State.open_ (s : State) (k : TickSt) (n : Nat) (banked : Bool) : State :=
  let s := s.suspensions n banked (k.lossAtLatch || k.srcLost) k.susp
  let s := s.applyBound
  let s := match (if k.mbrNext then s.node.pendMap else none) with
    | none => s
    | some (e, ws) => { s with node := { s.node with pendMap := none } }.applyMember e ws
  let s := s.remapTo s.units.fixSlices s.units.fixMixers s.units.fixFen
  let s := s.rejoinLinks
  let s := forAll (upTo 16) (fun p s => s.planBoundary n banked p) s
  let s := (s.countLoads).slackTick
  let s := { s with tk := s.tk.nextAsks, commits := s.commits.map (fun (c : Snapshot) => { c with late := false }),
                    units := { s.units with lateSlices := 0, lateMixers := 0, lateFen := 0, mapLinks := s.fld .LINK_LIVE } }
  let s := s.on banked fun s => { s.bump .BANK_COUNT with therm := { s.therm with opened := s.therm.opened + 1, pendingRelief := false } }
  let s := if s.chip = chipLocked && (k.kindleNext || k.joinTick = some n) then s.kindleStart
    else if s.chip = chipKindling then (if k.abort then s.kindleFail 4 else s.kindleTick)
    else s
  let s := { s.setFld .DMP_STAT_BORROWED 0 0 with borrowed := [] }
  (s.fanChimney).dampBoundary

def State.boundary (s : State) : State :=
  if !s.tk.firstLock then s
  else
    let s := s.prepare
    let n := s.nextTick % 2 ^ 48
    let banked := s.flag .TICK_STAT_BANK_NEXT
    let m := s.tk.latched.getD {}
    let k := { s.tk with abort := m.abort }
    let s := { s with clk := s.clk + (s.tickLen - s.cyc), cyc := 0,
                      tk := { s.tk.announce m with abort := m.abort, latched := none, didLatch := false, lossAtLatch := false,
                                                   srcLost := false } }
    let s := ((s.setFld .TICK_COUNT 0 n).setFld .TICK_STAT_BANKED 0 (b2n banked)).setFld .TICK_STAT_BANK_NEXT 0 (b2n m.bankNext)
    let s := s.on (n % 256 = 0) fun s => { s with therm := { s.therm with opened := 0 } }
    s.open_ k n banked

def execTickBoundary (s : State) : Answer := live s fun s => s.boundary

/-! ### Fen refresh and the damper -/

/-- R40: refresh keeps what the memory holds. -/
def execFenRefresh (c : Fin 16) (s : State) : Answer := let _ := c; live s fun s => s

/-- R314: in the first cycle of a slot each bucket gains its part of the slot's open budget, once. The next tick's slots have to wait for its
boundary. -/
def State.refill (s : State) : State :=
  let at_ := if s.cyc % 64 = 0 && s.fillAt != s.clk + 1 then s.clk else s.slotStart + 64
  if s.chip < chipWarm || s.tickLen ≤ s.cyc + (at_ - s.clk) then s
  else
    let s := s.toClk at_
    let sl := s.cyc / 64
    forAll (upTo 48) (fun i s =>
      let res := i / 16
      let gain := (s.shareBudget res - s.claimed res sl) * s.nibble .DMP_SHARE0 .DMP_SHARE1 (i % 16) / 16
      s.setCredit res (i % 16) (min (s.fld .DMP_CAP * 1024) (s.credit res (i % 16) + gain))) { s with fillAt := s.clk + 1 }

def execDamperRefill (s : State) : Answer := live s fun s => s.refill

/-! ### Planned releases (R38) -/

/-- A planned item's completion context (Table 14.4, R482): `due` is its contracted completion, in cycles after the slot's first. -/
def State.itemCtx (s : State) (p idx start due : Nat) : Ctx :=
  { hearth := s.planHearth p, origin := 2, tag := idx % 65536, ref := (s.plan p).uid, accept := s.now + (start + due) / s.tickLen,
    start := s.now, plan := p }

/-- A planned ember starts in the context that the plan names (R257). -/
def State.releaseEmber (s : State) (x : Ctx) (e pc contract : Nat) : State :=
  let m := s.ember e
  if m.live || !m.offBus then s.complete x (.faulted 0x11)
  else match s.pcCheck x.hearth pc with
    | .error f => s.complete x f.toEnd
    | .ok _ => s.setEmber e { live := true, planned := true, plan := x.plan, hearth := x.hearth, lean := true, pc := pc,
                              incarn := m.incarn, next := s.clk, contract := contract }

/-- Item `idx` of plan `p` leaves at cycle 0 of its slot, in its plan tick. -/
def State.release (s : State) (p planTick slot idx : Nat) (item : RelItem) : State :=
  let pl := s.plan p
  if s.planSt p != plRunning || pl.retiring || pl.tick != planTick || s.flag .TICK_STAT_BANKED || 64 * slot + 64 ≤ s.cyc ||
      s.tickLen / 64 ≤ slot then s
  else
    let s := s.toCyc (64 * slot)
    let t0 := s.clk - (s.cyc - 64 * slot)
    match item with
    | .instr w us c =>
      let r : Released :=
        { id := s.relNext, plan := p, index := idx, word := w, units := us.map (·.val), contract := if c = 0 then 0 else t0 + c }
      let q : State := { s with relNext := s.relNext + 1, released := s.released ++ [r] }
      if assigned (wordOpc w) then q else q.refuseItem s.relNext
    | .dma ch ptr c =>
      let x : Xfer := { ctx := s.itemCtx p idx (64 * slot) c, ptr := some ptr.toNat, contract := if c = 0 then 0 else t0 + c }
      (s.setChan ch { s.chan ch with pwait := (s.chan ch).pwait ++ [x] }).startPlanned ch
    | .ember pipe k pc c => s.releaseEmber (s.itemCtx p idx (64 * slot) c) (pipe * 256 + 224 + k) pc.toNat (if c = 0 then 0 else t0 + c)

def execPlanRelease (p : Fin 16) (planTick slot idx : Nat) (item : RelItem) (s : State) : Answer :=
  live s fun s => s.release p planTick slot idx item

end Sys2Proof.Machine
end

