-- ==== Sys2Proof/Machine/Thermal.lean ====
section
/-! DEFINITION. Heat, fans, the tray, the controlled power-down and the equalisers (R500 to R515, R518, R523). -/

namespace Sys2Proof.Machine

/-! ### Samples (R501) -/

/-- A signed field of ten bits; a value outside its range is free (log entry 47). -/
def State.setSigned (s : State) (f : Fld) (v : Int) : State :=
  if -512 ≤ v && v < 512 then s.setFld f 0 (v % 1024).toNat
  else { s.setFld f 0 (Config.freeNat s.free) with free := s.free + 1 }

def reading (rs : List (BitVec 10)) (k : Nat) : Int := signedOf (rs.getD k 0).toNat 10

/-- The highest of eight values. -/
def highest (f : Nat → Int) : Int := ((upTo 8).map f).foldl max (f 0)

/-- Conditions 4 and 5 of R505. -/
def State.mayRelieve (s : State) : Bool :=
  let closed := s.fld .TICK_STAT_BANK_NEXT + b2n s.therm.pendingRelief
  s.therm.opened + closed < s.fld .THERM_CFG_BANK_CEIL &&
  (s.plansIn (· = plRunning)).all fun p => closed + 1 ≤ s.fld .PLAN_STATE_SLACK_LEFT p

/-- Condition 1 of R505, with the model temperature in quarter degrees. -/
def State.tooHot (s : State) (model : Int) : Bool :=
  (4 * (s.fld .THERM_CFG_TJ_TARGET : Int) < model && s.fld .FAN_DUTY = s.fld .THERM_CFG_FAN_CEIL) ||
  (s.flag .TRAY_POS_CHIMNEY && s.fld .TRAY_P_CEIL < s.fld .TRAY_P)

/-- A bank request of the thermal loop (R54, R505, R506). -/
def State.askBank (s : State) : State :=
  let s := { s with therm := { s.therm with pendingRelief := true } }
  if s.isChimney then s.ask fun a => { a with bankThermal := true } else s.report 1 0 0 0

/-- R505 at a sample. -/
def State.relieve (s : State) (model : Int) : State :=
  let c1 := s.tooHot model
  let may := s.mayRelieve
  let gap := match s.therm.lastRelief with | none => true | some t => decide (t + 2 ^ s.fld .THERM_CFG_RELIEF_LOG2 ≤ s.now)
  let s := (s.setFld .THERM_STAT_RELIEF 0 (b2n c1)).setFld .THERM_STAT_CAPPED 0 (b2n (c1 && !may))
  s.on (c1 && s.chip = chipWarm && gap && may) fun s =>
    ({ s with therm := { s.therm with lastRelief := some s.now } }.bump .RELIEF_COUNT).askBank

/-- The FAN_MAX# line is low (R503, R523); on the tray chimney that is an override, which counts once when it starts (R500). -/
def State.fanLineLow (s : State) : State :=
  let s := { s with therm := { s.therm with fanMaxLow := true } }
  s.on (s.flag .TRAY_POS_CHIMNEY) fun s =>
    let s := s.on (!s.flag .THERM_STAT_FAN_OVR) fun s => s.safety
    (s.setFld .FAN_DUTY 0 100).setFld .THERM_STAT_FAN_OVR 0 1

/-- R502, R506: the critical range begins at 95 °C and ends at 92 °C. -/
def State.critical (s : State) (safe : Int) : State :=
  let on_ := if 380 ≤ safe then true else if safe ≤ 368 then false else s.flag .THERM_STAT_CRIT
  let s := s.setFld .THERM_STAT_CRIT 0 (b2n on_)
  let s := { s with therm := { s.therm with fanMaxDrive := on_ } }
  let s := s.on on_ fun s => s.fanLineLow
  s.on (on_ && s.chip = chipWarm) fun s => s.safety.askBank

/-- R501: one sample; `rise`: what the thermal model predicts over the next 16 ticks, in quarter degrees (log entry 48). -/
def State.sample (s : State) (rs : List (BitVec 10)) (rise : BitVec 10) : State :=
  let s := s.on s.tk.firstLock fun s => s.toCyc (s.tickLen - 2048)
  let at_ (k : Nat) : Int := reading rs k + s.tsEff k
  let meas := highest at_
  let safe := highest fun k => reading rs k + s.tsFx k
  let model := meas + signedOf rise.toNat 10
  let hot := ((upTo 8).find? fun k => at_ k = meas).getD 0
  let s := (((s.setSigned .TJ_MEAS_MEAS meas).setSigned .TJ_MEAS_MODEL model).setSigned .TJ_SAFE safe).setFld .TJ_MEAS_HOT 0 hot
  let s := { s with therm := { s.therm with hotLow := 4 * ((s.fld .THERM_CFG_TJ_TARGET : Int) - 5) < model } }
  (s.relieve model).critical safe

def execThermalSample (rs : List (BitVec 10)) (rise : BitVec 10) (s : State) : Answer :=
  liveIf (rs.length = 8) s fun s => s.sample rs rise

/-! ### Fans -/

def execFanMaxSensed (s : State) : Answer := live s fun s => s.fanLineLow

/-- The line returns high once no device drives it; the chimney's duty then falls toward FAN_CEIL (R503, R523). -/
def State.fanLineHigh (s : State) : State :=
  if s.therm.fanMaxDrive || !s.therm.fanMaxLow then s
  else
    let s := { s with therm := { s.therm with fanMaxLow := false, fanDecline := s.flag .THERM_STAT_FAN_OVR } }
    s.setFld .THERM_STAT_FAN_OVR 0 0

def execFanMaxReleased (s : State) : Answer := live s fun s => s.fanLineHigh

/-- TJ_MODEL as a number of quarter degrees. -/
def State.model (s : State) : Int := signedOf (s.fld .TJ_MEAS_MODEL) 10

/-- R503, R518: one step of the fan loop; `other`: another device pulls HOT# low. -/
def State.fanStep (s : State) (other : Bool) : State :=
  if !s.flag .TRAY_POS_CHIMNEY then s
  else
    let d := s.fld .FAN_DUTY
    let lo := s.fld .THERM_CFG_FAN_MIN
    let hi := s.fld .THERM_CFG_FAN_CEIL
    match s.fanOverride with
    | some v => s.setFld .FAN_DUTY 0 v
    | none =>
      if s.therm.fanDecline && hi < d then
        { s.setFld .FAN_DUTY 0 (d - 1) with therm := { s.therm with fanDecline := decide (hi < d - 1) } }
      else
        let v := if s.therm.hotLow || other then d + 1
          else if s.model < 4 * ((s.fld .THERM_CFG_TJ_TARGET : Int) - 10) then d - 1 else d
        { s.setFld .FAN_DUTY 0 (max lo (min hi v)) with therm := { s.therm with fanDecline := false } }

def execFanStep (hotOther : Bool) (s : State) : Answer := live s fun s => s.fanStep hotOther

/-! ### Tray polling (R511, R512) -/

/-- One rail: a reading in mV, or none where its transaction failed three tries. -/
def State.pollRail (s : State) (r : Nat) (v : Option (BitVec 16)) : State :=
  if !s.flag .RAIL_MAP_EN r then s
  else match v with
    | none => s.setFld .TRAY_STAT_BUS_ERR 0 1
    | some v =>
      let bad := v.toNat < s.fld .RAIL_LIM_LO r || s.fld .RAIL_LIM_HI r < v.toNat
      let n := if bad then mget 0 r s.tray.railBad + 1 else 0
      let s := { s.setFld .RAIL_V r v.toNat with tray := { s.tray with railBad := mput 0 r (min n 2) s.tray.railBad } }
      s.on (2 ≤ n) fun s => s.setFld .TRAY_STAT_RAIL_FAULT 0 1

def State.pollTemp (s : State) (f : Fld) (v : Option (BitVec 10)) : State :=
  match v with
  | none => s.setFld .TRAY_STAT_BUS_ERR 0 1
  | some v => s.setFld f 0 v.toNat

/-- TRAY_P: the mean of the last four readings, or of those there are; a mean between two watts is either (log entry 49). -/
def State.pollPower (s : State) (v : Option (BitVec 12)) : State :=
  match v with
  | none => s.setFld .TRAY_STAT_BUS_ERR 0 1
  | some v =>
    let ps := (v.toNat :: s.tray.powers).take 4
    let sum := ps.foldl (· + ·) 0
    let up := if sum % ps.length = 0 then 0 else Config.freeNat s.free % 2
    { s.setFld .TRAY_P 0 (sum / ps.length + up) with tray := { s.tray with powers := ps }, free := s.free + 1 }

/-- One tachometer. -/
def State.pollFan (s : State) (f : Nat) (rpm : Nat) : State :=
  let bad := s.fbit .TRAY_CFG 0 f && rpm < 300 && 20 ≤ s.fld .FAN_DUTY
  let n := if bad then mget 0 f s.tray.fanBad + 1 else 0
  let s := { s.setFld .FAN_TACH f rpm with tray := { s.tray with fanBad := mput 0 f (min n 2) s.tray.fanBad } }
  s.on (2 ≤ n) fun s => s.setFld .TRAY_STAT_FAN_FAULT 0 1

def State.poll (s : State) (rails : List (Option (BitVec 16))) (inlet exhaust : Option (BitVec 10)) (power : Option (BitVec 12))
    (tachs : List (BitVec 16)) : State :=
  if !s.flag .TRAY_POS_CHIMNEY then s
  else
    let s := forAll (upTo 8) (fun r s => s.pollRail r (rails.getD r none)) s
    let s := ((s.pollTemp .TRAY_T_INLET_T inlet).pollTemp .TRAY_T_EXHAUST_T exhaust).pollPower power
    let s := forAll (upTo 4) (fun f s => s.pollFan f (tachs.getD f 0).toNat) s
    s.on (s.fld .TRAY_P_CEIL < s.fld .TRAY_P) fun s => s.setFld .TRAY_STAT_P_OVER 0 1

def execTrayPoll (rails : List (Option (BitVec 16))) (inlet exhaust : Option (BitVec 10)) (power : Option (BitVec 12))
    (tachs : List (BitVec 16)) (s : State) : Answer :=
  liveIf (rails.length = 8 && tachs.length = 4) s fun s => s.poll rails inlet exhaust power tachs

/-! ### Controlled power-down (R514, R515) -/

/-- The miss cause of a power-down. -/
def missDamp : Nat := 0x0B

/-- No plan runs and every released item has completed. -/
def State.plansQuiet (s : State) : Bool := (s.plansIn (· = plRunning)).isEmpty && (upTo 16).all fun p => !s.itemsOf p

/-- No accepted open work and no ember remain. -/
def State.workQuiet (s : State) : Bool :=
  s.taken.isEmpty && s.flights.isEmpty && s.reshards.isEmpty && s.hearths.all (·.2.iq.isEmpty) &&
  s.chans.all (fun e => e.2.queue.isEmpty && e.2.opn.xfer.isNone) && s.embers.all fun e => !e.2.live && e.2.offBus

/-- Every posted write is resolved and every record written. -/
def State.recordsOut (s : State) : Bool :=
  s.posted.isEmpty && s.hearths.all fun e => e.2.hold.isEmpty && e.2.ashHold.isEmpty

/-- Other members of the domain. -/
def State.hasPeers (s : State) : Bool := s.flag .NODE_ID_VALID && s.members.any (· != s.ownNode)

def State.offReady (s : State) : State := (s.setFld .DAMP_STAT_WAIT_PEERS 0 0).setChip chipOffReady

/-- Stage `k` begins. -/
def State.dampEnter (s : State) (k : Nat) : State :=
  let s := { s with damp := { s.damp with stage := k } }
  if k = 2 then forAll (s.plansIn (· = plRunning)) (fun p s => s.planMiss p missDamp) s
  else if k = 5 then
    (if !s.hasPeers then s else if s.isChimney then s.setFld .DAMP_STAT_WAIT_PEERS 0 1 else s.leave 1)
  else if k = 6 then s.offReady
  else s

/-- Whether the stage may end (Table 15.5). -/
def State.dampEnds (s : State) : Bool :=
  match s.damp.stage with
  | 1 => true
  | 2 => s.plansQuiet
  | 3 => s.workQuiet
  | 4 => s.recordsOut
  | 5 => !s.hasPeers || (s.isChimney && s.flag .DAMP_STAT_FORCED)
  | _ => false

def execDampStageAdvance (s : State) : Answer :=
  live s fun s => s.on (s.chip = chipDamping && s.dampEnds) fun s => s.dampEnter (s.damp.stage + 1)

/-- R515 step 1: a resident ember stops issuing; it retires once its stores have gone. -/
def State.forceEmber (s : State) (e : Nat) : State :=
  let m := s.ember e
  let own := Owner.ember e (s.emberTag e)
  let s := { s with reads := s.reads.filter fun r => r.owner != own }
  (s.setEmber e { m with draining := true, exitCq := false, wait := .none, cache := [] }).tryFree e

/-- R515: steps 3 and 4 of R487 for every hearth, without its counts. -/
def State.discardOpen (s : State) : State :=
  let s := forAll (upTo 16) (fun t s =>
    let n := (s.hearth t).discWork
    let s := s.dropWork t
    s.setHearth t { s.hearth t with discWork := n }) s
  forAll ((upTo 64).filter fun c => (s.chan c).opn.xfer.isSome) (fun c s => s.dropOpen c) s

def State.forceDamp (s : State) : State :=
  if s.chip != chipDamping || s.fld .DAMP_CFG = 0 || s.now < s.damp.entered + s.fld .DAMP_CFG || s.flag .DAMP_STAT_FORCED then s
  else
    let s := s.setFld .DAMP_STAT_FORCED 0 1
    if s.damp.stage = 5 then s.on s.isChimney fun s => s.dampEnter 6
    else
      let es := (s.embers.filter fun e => e.2.live).map (·.1)
      let s := s.setFld .DAMP_STAT_FORCED_EMBERS 0 es.length
      let s := (forAll es (fun e s => s.forceEmber e) s).discardOpen
      { s with damp := { s.damp with stage := 4 } }

def execDampForce (s : State) : Answer := live s fun s => s.forceDamp

/-! ### Equalisers (R508) -/

/-- One step of value `k` of link `n`, if it stays in its window and the last one is 4,096 cycles back. -/
def State.adapt (s : State) (n k : Nat) (up : Bool) : State :=
  let v := s.fld (eqNow k) n
  let w := if up then v + 1 else v - 1
  let l := s.link n
  s.on (s.flag .EQ_CFG_ADAPT_EN n && (up || v != 0) && s.eqLo n k ≤ w && w ≤ s.eqHi n k && mget 0 k l.eqAt ≤ s.clk) fun s =>
    (s.setFld (eqNow k) n w).setLink n { l with eqAt := mput 0 k (s.clk + 4096) l.eqAt }

def execEqAdaptation (n : Fin 24) (val : Fin 4) (up : Bool) (s : State) : Answer := live s fun s => s.adapt n val up

end Sys2Proof.Machine
end

