-- ==== Sys2Proof/Machine/Blocks.lean ====
section
/-! DEFINITION. Link blocks (R420 to R422, R425 to R429): receiving them, taking frames out of them, sending frames, replays; links
that lock, fail and return (R424, R431 to R433, R438). -/

namespace Sys2Proof.Machine

/-! ### Links that come and go -/

/-- An identity record of this chip (Table 13.4). -/
def State.identFrame (s : State) (n : Nat) : Frame :=
  let own := s.fuses.dieId.toNat
  localFrame 0x02 (1 + n * 2 ^ 8 + 2 ^ 16)
    [own,
     0x0F2400B1 + s.fld .TRAY_POS_POS * 2 ^ 32 + s.fld .NODE_CFG_ELECT_PRIO * 2 ^ 36 + s.ownNode * 2 ^ 40 +
       s.fld .NODE_ID_VALID * 2 ^ 48 + s.fld .TRAY_POS_CHIMNEY * 2 ^ 49 + s.fld .TRAY_POS_ROW_CHIMNEY * 2 ^ 50,
     s.fld .NODE_CFG_ROW_KEY + 2048 * 2 ^ 16 + 2048 * 2 ^ 32,
     if 2 ≤ s.node.scope then s.node.trayDie else own]

/-- R431: the link goes down and retrains; when its eighth retrain in a row has failed, ENABLE clears. -/
def State.downLink (s : State) (n : Nat) : State :=
  if s.lk n = lkDown || s.lk n = lkTraining then s
  else
    let failed := if s.lk n = lkRetrain then (s.link n).failed + 1 else (s.link n).failed
    let s := (s.setFld .LINK_EVT n 1).fall n
    let s := s.setLink n { s.link n with failed := failed }
    if 8 ≤ failed then (s.setFld .LINK_CTRL n 0).linkControl n
    else (s.bump .RETRAIN_COUNT n).train n lkRetrain

def execLinkDown (n : Fin 24) (s : State) : Answer := live s fun s => s.downLink n

/-- R438: block lock; IDENT goes out. The election uses the NODE group that is active now (R496). -/
def State.blockLock (s : State) (n : Nat) : State :=
  if s.lk n != lkTraining && s.lk n != lkRetrain then s
  else
    let s := (s.setLk n lkIdent).sendLink n (s.identFrame n)
    s.on (s.node.scope = 1 && s.node.bestDie = s.fuses.dieId.toNat) fun s =>
      { s with node := { s.node with bestPrio := s.fld .NODE_CFG_ELECT_PRIO } }

def execBlockLock (n : Fin 24) (s : State) : Answer := live s fun s => s.blockLock n

/-- R65: 10 ms of training without block lock. -/
def execLinkSettleTimeout (n : Fin 24) (s : State) : Answer :=
  live s fun s => s.on (s.lk n = lkTraining || s.lk n = lkRetrain) fun s =>
    (s.setLink n { s.link n with timedOut := true }).tryLocked

/-- LINK_LAT from the largest trip (R430). -/
def State.latOf (s : State) (n : Nat) : Nat := ceilDiv (s.link n).maxTrip 2 + 8

/-- R430, R433: 64 round trips are in. In kindling they are the link's measurement; a link that has come back waits for the next
boundary, or is held. -/
def State.measured (s : State) (n : Nat) : State :=
  let lat := s.latOf n
  let s := s.setFld .LINK_LAT n (min lat 2047)
  let l := s.link n
  let again := { l with probes := 0, maxTrip := 0 }
  if 1024 < lat then ((s.on (s.fbit .LINK_LIVE 0 n) fun s => s.fall n).hold n heldLatOver)
  else if s.lk n = lkIdent then
    (if l.kindleLat.any (lat ≤ ·) then s.setLink n { again with rejoin := true } else (s.setLink n again).hold n heldLatOver)
  else if s.chip = chipKindling then s.setLink n { l with kindleLat := some lat }
  else s.setLink n again

/-- R433: the returned link has its 64 round trips. -/
def State.linkReturn (s : State) (n : Nat) : State :=
  s.on (s.lk n = lkIdent && 64 ≤ (s.link n).probes) fun s => s.measured n

def execLinkReturn (n : Fin 24) (s : State) : Answer := live s fun s => s.linkReturn n

/-! ### Frames that have arrived -/

/-- The rank of a frame among those that wait: markers, planned frames, responses, other CTL, open requests. -/
def sendRank (f : Frame) : Nat :=
  let ty := frameType f
  if ty = 0x08 then 0 else if framePlanned f then 1 else if 0x18 ≤ ty then 2 else if ty < 0x10 then 3 else 4

/-- Credits of its class that a frame costs: class (0 none, 1 REQ, 2 RSP) and number. -/
def sendCost (f : Frame) : Nat × Nat :=
  let k := if sendRank f = 2 then 2 else if sendRank f = 4 then 1 else 0
  (k, if k = 0 then 0 else 1 + ceilDiv f.data.length 64)

/-- The link on which a frame waits. -/
def State.frameLink (s : State) (f : Frame) : Option Nat := (upTo 24).find? fun n => (s.link n).rxq.contains f

/-- The credits of a frame that leaves the receive buffer are owed to the far end (R425). -/
def Link.owe (l : Link) (f : Frame) : Link :=
  match (sendCost f).1 with
  | 1 => { l with owedReq := l.owedReq + (sendCost f).2 }
  | 2 => { l with owedRsp := l.owedRsp + (sendCost f).2 }
  | _ => l

/-- A frame's own command takes it from the link, if the link's blocks have brought it. -/
def State.takeFrame (s : State) (n : Nat) (f : Frame) : State :=
  s.on ((s.link n).rxq.contains f) fun s => s.setLink n (({ s.link n with rxq := (s.link n).rxq.erase f } : Link).owe f)

/-- The backdraft, read error or failed completion that answers a request (R424, R453, R455). -/
def State.answerFault (s : State) (n : Nat) (f : Frame) (cause : Nat) : State :=
  let id := hdr f 0 32 16
  match frameType f with
  | 0x10 => s.reply n f 0x19 (id + cause * 2 ^ 16) [s.now]
  | 0x11 => s.reply n f 0x1B (id + cause * 2 ^ 16)
  | 0x12 => s.reply n f 0x1C (id + 0x30 * 2 ^ 16) [0, 0]
  | _ => s

/-- R424: a frame with a reserved field is dropped, counted and answered; `g` is the meaning of the others. -/
def State.onFrame (s : State) (n : Nat) (f : Frame) (g : State → State) : State :=
  let s := s.takeFrame n f
  if reservedOk f then g s else (s.bump .FRAME_ERR_COUNT n).answerFault n f 0x02

/-- R449: a frame for another node reaches its next link 24 cycles later. -/
def State.passOn (s : State) (n : Nat) (f : Frame) : State :=
  s.setLink n { s.link n with passing := (s.link n).passing ++ [(s.clk + 24, f)] }

/-- Frames that have passed through wait to be sent. -/
def State.passed (s : State) (n : Nat) : State :=
  let l := s.link n
  let due := l.passing.filter (·.1 ≤ s.clk)
  if due.isEmpty then s else s.setLink n { l with txq := l.txq ++ due.map (·.2), passing := l.passing.filter (s.clk < ·.1) }

/-- R449, R450: a frame for another node goes on, or is answered as having no target; `g` is the meaning of the others. -/
def State.routed (s : State) (n : Nat) (f : Frame) (addr : Option Nat) (g : State → State) : State :=
  if frameLocal f || frameDst f = s.ownNode then g s
  else if framePlanned f then s.answerFault n f 0x02
  else match s.route (frameDst f) addr with
    | none => s.answerFault n f 0x01
    | some k => s.passOn k f

/-! ### Receiving blocks (R428) -/

def blkSeq (b : Block) : Nat := bitsOf b.linkw.toNat 0 12
def blkAck (b : Block) : Nat := bitsOf b.linkw.toNat 12 12
def blkNak (b : Block) : Bool := b.linkw.toNat.testBit 24
def blkClass (b : Block) : Nat := bitsOf b.linkw.toNat 26 2
def blkCount (b : Block) : Nat := bitsOf b.linkw.toNat 28 4

/-- The CRC of Table 13.1. -/
def blkOk (b : Block) : Bool :=
  crc32c 0xFFFFFFFF (b.data ++ leBytes 8 b.hdr.toNat ++ leBytes 4 b.linkw.toNat) ^^^ 0xFFFFFFFF = b.crc.toNat

/-- Credits that the far end returns (R425). -/
def State.addCredit (s : State) (n cls k : Nat) : State :=
  match cls with
  | 1 => s.setFld .CREDITS_REQ_AVAIL n (min 65535 (s.fld .CREDITS_REQ_AVAIL n + k))
  | 2 => s.setFld .CREDITS_RSP_AVAIL n (min 65535 (s.fld .CREDITS_RSP_AVAIL n + k))
  | _ => s

/-- Whole frames in order (R421); a reserved TYPE ends the block lock (R424). -/
def State.parse (s : State) (n : Nat) : Nat → State
  | 0 => s
  | k + 1 =>
    let l := s.link n
    match l.rxHdr with
    | [] => s
    | w :: _ =>
      match headerLen w.toNat with
      | none => s.downLink n
      | some h =>
        let d := dataLen w.toNat
        if l.rxHdr.length < h || l.rxData.length < d then s
        else
          let f : Frame := ⟨l.rxHdr.take h, l.rxData.take d⟩
          let s := s.setLink n { l with rxHdr := l.rxHdr.drop h, rxData := l.rxData.drop d }
          let s := if frameType f < 2 then s.onFrame n f id else s.setLink n { s.link n with rxq := (s.link n).rxq ++ [f] }
          State.parse s n k

/-- A block accepted in its turn. -/
def State.acceptBlock (s : State) (n : Nat) (b : Block) : State :=
  let l := s.link n
  let s := s.setLink n { l with rxNext := (l.rxNext + 1) % 4096, rxHdr := l.rxHdr ++ [b.hdr], rxData := l.rxData ++ b.data,
                                nakOwed := none }
  s.addCredit n (blkClass b) (blkCount b)

/-- Blocks kept behind a gap follow once it is filled. -/
def State.acceptHeld (s : State) (n : Nat) : Nat → State
  | 0 => s
  | k + 1 =>
    let l := s.link n
    match l.rxHeld.find? (·.1 = l.rxNext) with
    | none => s
    | some e => State.acceptHeld ((s.setLink n { l with rxHeld := l.rxHeld.filter (·.1 != l.rxNext) }).acceptBlock n e.2) n k

/-- ACK_SEQ and NAK of a good block: acknowledged blocks are done with; one that is NAKed awaits its replay, and the eighth NAK in a row of
one SEQ takes the link down (R428, R429, R431). -/
def State.takeAck (s : State) (n : Nat) (b : Block) : State :=
  let l := s.link n
  if blkNak b then
    let run := if l.nakRun != 0 && l.nakSeq = blkAck b then l.nakRun + 1 else 1
    let hit (x : TxBlock) : Bool := x.seq = blkAck b
    let l' := { l with nakSeq := blkAck b, nakRun := run,
                       unacked := l.unacked.map fun x => if hit x then { x with naked := true } else x }
    (s.setLink n l').on (8 ≤ run) fun s => s.downLink n
  else match l.unacked.findIdx? (fun x => x.seq = blkAck b) with
    | none => s
    | some i => s.setLink n { l with unacked := l.unacked.drop (i + 1), nakRun := 0, ackAt := s.clk }

/-- Whether a link has block lock. -/
def State.hasLock (s : State) (n : Nat) : Bool := s.lk n = lkIdent || s.lk n = lkHeld || s.lk n = lkUp

/-- R426, R428. -/
def State.receive (s : State) (n : Nat) (b : Block) : State :=
  if !s.hasLock n then s
  else if !blkOk b then
    (s.bump .BLK_ERR_COUNT n).setLink n { s.link n with nakOwed := some (s.link n).rxNext }
  else
    let s := s.takeAck n b
    let d := (blkSeq b + 4096 - (s.link n).rxNext) % 4096
    if !s.hasLock n || 512 ≤ d then s
    else if d != 0 then
      s.on (!(s.link n).rxHeld.any (·.1 = blkSeq b)) fun s => s.setLink n { s.link n with rxHeld := (s.link n).rxHeld ++ [(blkSeq b, b)] }
    else
      let s := (s.acceptBlock n b).acceptHeld n (s.link n).rxHeld.length
      s.parse n ((s.link n).rxHdr.length + 1)

def execBlockReceive (n : Fin 24) (b : Block) (s : State) : Answer :=
  liveIf (b.data.length = 184) s fun s => s.receive n b

/-! ### Sending (R420 to R422, R425 to R428) -/

def State.creditOf (s : State) (n cls : Nat) : Nat :=
  match cls with | 1 => s.fld .CREDITS_REQ_AVAIL n | 2 => s.fld .CREDITS_RSP_AVAIL n | _ => 0

def State.maySend (s : State) (n : Nat) (f : Frame) : Bool := (sendCost f).2 ≤ s.creditOf n (sendCost f).1 || (sendCost f).1 = 0

/-- Fifths of a register-clock cycle in 4 ns, and the payload bytes of a claimed slot, at each grade (Table 2.2). -/
def blockFifths (grade : Nat) : Nat := match grade with | 0 => 24 | 1 => 28 | 2 => 32 | _ => 36
def linkPayload (grade : Nat) : Nat := match grade with | 0 => 2453 | 1 => 2102 | 2 => 1840 | _ => 1635

/-- A number for the current slot. -/
def State.slotNow (s : State) : Nat := s.now * 4096 + s.cyc / 64

/-- The running plan that claims the current transmit slot of link `n`. -/
def State.txClaimer (s : State) (n : Nat) : Option Nat := s.claimer (0x50 + n) s.cyc

/-- Whether a plan claims transmit slots of link `n` in this tick. -/
def State.txClaimed (s : State) (n : Nat) : Bool :=
  (s.plansIn (· = plRunning)).any fun p => s.slotsOn (s.plan p) false (0x50 + n) != 0

/-- Planned data bytes of the current slot so far. -/
def State.plannedSent (s : State) (n : Nat) : Nat := if (s.link n).txSlot = s.slotNow then (s.link n).txPlanned else 0

/-- Whether a waiting frame may start in this slot. A planned one takes a claimed slot with room for its data (R34, R39), or a retry slot
where its link is lost (R432); where no plan claims the link it waits for no slot. Open frames wait in kindling ticks 0 to 63 (R67), and those
with data in the claimed slots of a banked tick (R53). -/
def State.mayStart (s : State) (n : Nat) (f : Frame) : Bool :=
  if (s.link n).again.contains f then s.cyc / 64 % 16 = 15
  else if framePlanned f then
    !s.txClaimed n || ((s.txClaimer n).isSome &&
      (s.plannedSent n = 0 || s.plannedSent n + f.data.length ≤ linkPayload (s.fld .CLK_STAT_ACTIVE_GRADE)))
  else if sendRank f = 2 || sendRank f = 4 then
    !(s.chip = chipKindling && s.fld .TICK_STAT_KINDLE_TICK ≤ 63) &&
      !(s.flag .TICK_STAT_BANKED && !f.data.isEmpty && (s.txClaimer n).isSome)
  else true

/-- The frame whose header leaves next: the first of the best rank that may start and has its credits. -/
def State.nextOut (s : State) (n : Nat) : Option Frame :=
  (upTo 5).findSome? fun r =>
    match (s.link n).txq.find? (fun f => sendRank f = r && s.mayStart n f) with
    | none => none
    | some f => if s.maySend n f then some f else none

def padFrame (n : Nat) : Frame := localFrame 0x01 (n - 1) [] (List.replicate n 0)
def nopFrame : Frame := localFrame 0x00 0

def txOf (f : Frame) : TxFrame := { frame := f, words := f.words.length, bytes := f.data.length }

/-- Header words and data bytes of the frames under way that have not left. -/
def wordsLeft (l : List TxFrame) : Nat := (l.map (·.words)).foldl (· + ·) 0
def bytesLeft (l : List TxFrame) : Nat := (l.map (·.bytes)).foldl (· + ·) 0

/-- Frame `f` behind the frames under way. The data stream has no gap, so that a PAD frame goes first where the data would run out before the
last header word (R421). -/
def follow (l : List TxFrame) (f : Frame) : List TxFrame :=
  let w := wordsLeft l + f.words.length
  let b := bytesLeft l + f.data.length
  if 184 * w ≤ b then l ++ [txOf f] else l ++ [txOf (padFrame (184 * (w + 1) - b)), txOf f]

/-- A marker that is handed on names the cycles from its sending to the boundary (R435). -/
def Link.leaving (l : Link) (f : Frame) (clk : Nat) : Frame :=
  match l.markAt, f.words with
  | some t, w :: r => if frameType f = 0x08 then { f with words := (w - BitVec.ofNat 64 (min (clk - t) (bitsOf w.toNat 40 11) * 2 ^ 40)) :: r } else f
  | _, _ => f

/-- A waiting frame starts: its credits are paid. -/
def State.startFrame (s : State) (n : Nat) (f : Frame) : State :=
  let c := sendCost f
  let l := s.link n
  let sent := if framePlanned f then s.plannedSent n + f.data.length else s.plannedSent n
  let s := s.setLink n { l with txq := l.txq.erase f, again := l.again.erase f, markAt := if frameType f = 0x08 then none else l.markAt, txCur := follow l.txCur (l.leaving f s.clk), txSlot := s.slotNow, txPlanned := sent }
  match c.1 with
  | 1 => s.setFld .CREDITS_REQ_AVAIL n (s.fld .CREDITS_REQ_AVAIL n - c.2)
  | 2 => s.setFld .CREDITS_RSP_AVAIL n (s.fld .CREDITS_RSP_AVAIL n - c.2)
  | _ => s

/-- What the next block carries is under way: a header word, and 184 bytes of the data stream, filled up with PAD and NOP. IDENT goes out again
until the far end's has come (R438). -/
def State.fillTx (s : State) (n : Nat) : State :=
  let l := s.link n
  if wordsLeft l.txCur != 0 then s
  else match s.nextOut n with
    | some f => s.startFrame n f
    | none =>
      if s.lk n = lkIdent && !l.heard && !s.barred n then s.setLink n { l with txCur := follow l.txCur (s.identFrame n) }
      else s.setLink n { l with txCur := l.txCur ++ [if bytesLeft l.txCur < 184 then txOf (padFrame (184 - bytesLeft l.txCur)) else txOf nopFrame] }

/-- The next `n` bytes of the data stream, and what is left under way. -/
def takeData : Nat → List TxFrame → List Byte × List TxFrame
  | _, [] => ([], [])
  | n, x :: r =>
    let k := min n x.bytes
    let t := takeData (n - k) r
    ((x.frame.data.drop (x.frame.data.length - x.bytes)).take k ++ t.1, { x with bytes := x.bytes - k } :: t.2)

/-- The next header word, and what is left under way. -/
def takeWord : List TxFrame → Word64 × List TxFrame
  | [] => (0, [])
  | x :: r =>
    if x.words != 0 then (x.frame.words.getD (x.frame.words.length - x.words) 0, { x with words := x.words - 1 } :: r)
    else ((takeWord r).1, x :: (takeWord r).2)

/-- A copy of a block as it leaves: SEQ, ACK_SEQ and NAK are those of now (R426, R428). -/
def State.wireBlock (s : State) (n : Nat) (x : TxBlock) (again : Bool) : Block :=
  let l := s.link n
  let ack := match l.nakOwed with | some k => k | none => (l.rxNext + 4095) % 4096
  let w : Word32 := BitVec.ofNat 32
    (x.seq + ack * 2 ^ 12 + b2n l.nakOwed.isSome * 2 ^ 24 + b2n again * 2 ^ 25 + x.crClass * 2 ^ 26 + x.crCount * 2 ^ 28)
  let crc := crc32c 0xFFFFFFFF (x.data ++ leBytes 8 x.hdr.toNat ++ leBytes 4 w.toNat) ^^^ 0xFFFFFFFF
  { data := x.data, hdr := x.hdr, linkw := w, crc := BitVec.ofNat 32 crc }

/-- A new block (R420, R428). -/
def State.newBlock (s : State) (n : Nat) : State :=
  let s := s.fillTx n
  let l := s.link n
  let h := takeWord l.txCur
  let d := takeData 184 h.2
  let planned := l.txCur.any fun y => framePlanned y.frame && (y.bytes != 0 || y.words != 0)
  let cr := if l.owedReq != 0 then (1, min 15 l.owedReq) else if l.owedRsp != 0 then (2, min 15 l.owedRsp) else (0, 0)
  let gone (y : TxFrame) : Bool := y.words = 0 && y.bytes = 0
  let x : TxBlock :=
    { seq := l.txNext, data := d.1, hdr := h.1, crClass := cr.1, crCount := cr.2, planned := planned || (s.txClaimer n).isSome, replays := 0
      frames := ((d.2.filter gone).map (·.frame)).filter fun f => 2 ≤ frameType f
      slotEnd := s.cyc / 64 * 64 + 63, plan := ((s.txClaimer n).map (· + 1)).getD 0 }
  s.setLink n
    { l with txNext := (l.txNext + 1) % 4096, txCur := d.2.filter fun y => !gone y, unacked := l.unacked ++ [x], ackAt := if l.unacked.isEmpty then s.clk else l.ackAt, wire := some (s.wireBlock n x false)
             nakOwed := none, owedReq := if cr.1 = 1 then l.owedReq - cr.2 else l.owedReq
             owedRsp := if cr.1 = 2 then l.owedRsp - cr.2 else l.owedRsp }

/-- A block that has left already leaves again, with REPLAY (R428, R429). -/
def State.resendBlock (s : State) (n : Nat) (x : TxBlock) : State :=
  let l := s.link n
  (s.bump .REPLAY_COUNT n).setLink n
    { l with wire := some (s.wireBlock n x true), nakOwed := none
             unacked := l.unacked.map fun y => if y.seq = x.seq then { y with naked := false, replays := y.replays + 1 } else y }

/-- One block of a link every 4 ns: one that was NAKed in an unclaimed slot, else a new one, or at 512 unacknowledged blocks the oldest
again (R428, R429). A link whose ACK_SEQ has not advanced for 4,096 cycles goes down (R431). -/
def State.sendBlock (s : State) (n : Nat) : State :=
  let s := s.passed n
  let l := s.link n
  if !s.hasLock n then s
  else if !l.unacked.isEmpty && l.ackAt + 4096 ≤ s.clk then s.downLink n
  else if 5 * (s.clk + 1) ≤ l.txAt then s
  else
    let s := s.setLink n { l with txAt := max l.txAt (5 * s.clk) + blockFifths (s.fld .CLK_STAT_ACTIVE_GRADE) }
    match (l.unacked.find? fun x => x.naked && !x.planned).or (if l.unacked.length < 512 then none else l.unacked.head?) with
    | some x => s.resendBlock n x
    | none => s.newBlock n

/-- Start of a retry slot: slot index 15 modulo 16 (R36). -/
def isRetryStart (c : Nat) : Bool := c % 1024 = 960

/-- The running plan that a planned block belongs to: the one that claimed its slot, else that of a WRITE it ends (R43). -/
def State.blockPlan (s : State) (x : TxBlock) : Option Nat :=
  if x.plan != 0 then some (x.plan - 1)
  else
    let uids := (x.frames.filter fun f => frameType f = 0x10).map fun f => hdr f 3 16 16
    (s.plansIn (· = plRunning)).find? fun p => uids.contains (s.plan p).uid

/-- R41, R43, R429: a NAKed planned block is sent again in a retry slot, which starts at least 2 × LINK_LAT after the end of the block's own
slot. `slotEnd` is E, the end of its transfer's last claimed slot; cycles are counted from the start of the tick. A replay that cannot arrive
by D is a miss of its plan. -/
def State.replay (s : State) (n seq slotEnd start : Nat) : State :=
  let lat := s.fld .LINK_LAT n
  match (s.link n).unacked.find? fun x => x.seq = seq && x.naked with
  | none => s
  | some x =>
    if !isRetryStart start || start < x.slotEnd + 2 * lat then s
    else
      let s := s.resendBlock n x
      if start + lat ≤ slotEnd + lat + 2048 then s
      else match s.blockPlan x with
        | none => s
        | some p => s.on (s.planSt p = plRunning) fun s => s.planMiss p 0x04

def execPlannedReplay (n : Fin 24) (seq : BitVec 12) (slotEnd retryStart : Nat) (s : State) : Answer :=
  live s fun s => s.replay n seq.toNat slotEnd retryStart

end Sys2Proof.Machine
end

