-- ==== Sys2Proof/Machine/Discovery.lean ====
section
/-! DEFINITION. CTL frames: identity (R20, R438 to R440), probes (R430, R433), markers (R435, R436, R497), reports (R437), election
(R441, R551), member maps (R442, R444), joining and leaving (R445, R446), and lost nodes (R447). -/

namespace Sys2Proof.Machine

/-- The far end of a received frame's command, by the frame itself: it needs no link. -/
def State.onFrameAny (s : State) (f : Frame) (g : State → State) : State :=
  match s.frameLink f with
  | some n => s.onFrame n f g
  | none => if reservedOk f then g s else s

/-! ### IDENT -/

/-- LINK values rise across the three links of a socket, as far as they are known (R439). DESIGN CHOICE (log entry 99): where they do not,
the link whose IDENT came last is the one that mismatches, the records of links that are held or down count too, and links already in
service stay. -/
def State.socketOrder (s : State) (n : Nat) : Bool :=
  ((upTo 3).map (n / 3 * 3 + ·)).all fun m =>
    m = n || !(s.link m).far.valid ||
    (if m < n then s.fld .FAR_INFO_LINK m < s.fld .FAR_INFO_LINK n else s.fld .FAR_INFO_LINK n < s.fld .FAR_INFO_LINK m)

/-- R439, R440: 0, or the HOLD_CAUSE of a far end that may not be on this link. -/
def State.identHold (s : State) (n : Nat) : Nat :=
  let role := (s.link n).far.role
  let sp := s.fld .FAR_INFO_SOCKET_POS n
  if n < 12 then (if role = 2 && sp = n / 3 && s.socketOrder n then 0 else heldMismatch)
  else if n < 16 then
    (if role != 1 then heldMismatch else if sp % 2 = s.fld .TRAY_POS_POS then heldPosClash
     else if s.fld .FAR_INFO_LINK n = n then 0 else heldMismatch)
  else if role = 1 && (s.link n).far.rowKey = s.fld .NODE_CFG_ROW_KEY then 0
  else heldForeign

/-- The far end's record (Table 13.4) as the registers and the link keep it. -/
def State.readIdent (s : State) (n : Nat) (f : Frame) : State :=
  let s := ((s.setFld .FAR_DIE n (hdr f 1 0 64)).setFld .FAR_INFO_ROLE n (hdr f 0 32 8)).setFld .FAR_INFO_LINK n (hdr f 0 40 5)
  let s := ((s.setFld .FAR_INFO_SOCKET_POS n (hdr f 2 32 4)).setFld .FAR_INFO_NODE n (hdr f 2 40 8)).setFld .FAR_INFO_NODE_VALID n
    (hdr f 2 48 1)
  s.setLink n { s.link n with far := { valid := true, role := hdr f 0 32 8, die := hdr f 1 0 64, prio := hdr f 2 36 4, rowKey := hdr f 3 0 16,
                                       trayDie := hdr f 4 0 64, chimney := hdr f 2 49 1 = 1 } }

def State.ident (s : State) (n : Nat) (f : Frame) : State :=
  if hdr f 0 48 8 != 1 then s
  else
    let s := s.readIdent n f
    let s := s.setLink n { s.link n with heard := true }
    if s.lk n != lkIdent then s
    else
      let s := (s.setFld .CREDITS_REQ_AVAIL n (hdr f 3 16 16)).setFld .CREDITS_RSP_AVAIL n (hdr f 3 32 16)
      let h := if s.flag .LINK_FORCE_NO_IDENT n then 0 else s.identHold n
      (if h = 0 then s.identDone n else s.hold n h).tryLocked

def execIdent (n : Fin 24) (f : Frame) (s : State) : Answer :=
  liveIf (frameIs 0x02 f) s fun s => s.onFrame n f fun s => s.ident n f

/-! ### PROBE and ECHO -/

/-- R430: the answer; TURN is what the answer took (log entry 10). -/
def State.probe (s : State) (n : Nat) (f : Frame) : State :=
  { s with free := s.free + 1 }.sendLink n (localFrame 0x04 (hdr f 0 32 16 + Config.freeNat s.free % 2048 * 2 ^ 16))

def execProbe (n : Fin 24) (f : Frame) (s : State) : Answer :=
  liveIf (frameIs 0x03 f) s fun s => s.onFrame n f fun s => s.probe n f

/-- One round trip of `trip` cycles; the next PROBE follows until 64 are in. -/
def State.echo (s : State) (n : Nat) (f : Frame) (trip : Nat) : State :=
  let l := s.link n
  if hdr f 0 32 16 != l.pid || 64 ≤ l.probes then s
  else
    let s := s.setLink n { l with probes := l.probes + 1, maxTrip := max l.maxTrip (trip - hdr f 0 48 11) }
    if l.probes + 1 < 64 then s.sendProbe n
    else if s.lk n = lkIdent then s
    else (s.measured n).on (s.chip != chipKindling) fun s => s.sendProbe n

def execEcho (n : Fin 24) (f : Frame) (roundTrip : Nat) (s : State) : Answer :=
  liveIf (frameIs 0x04 f) s fun s => s.onFrame n f fun s => s.echo n f roundTrip

/-! ### MARKER -/

/-- R497: the spacing of the boundaries a follower sees; the first marker has no spacing to fail (log entry 50). -/
def State.spacing (s : State) (b : Nat) : State :=
  let k := s.tk
  let ok := match k.lastB with | none => true | some l => l + s.tickLen ≤ b + 8 && b ≤ l + s.tickLen + 8
  let good := if ok then min 4 (k.good + 1) else 1
  let seen := k.seen + 1
  let s := { s with tk := { k with lastB := some b, good := good, seen := seen % 4 } }
  s.on (seen = 4 && good < 4 && !s.flag .TICK_STAT_LOCKED) fun s => s.setFld .CLK_STAT_GRADE_CONFLICT 0 1

/-- The cycle of the boundary that a marker announces (R435, R533). -/
def State.markerAt (s : State) (n : Nat) (m : Mark) : Nat :=
  if s.tickSrc = 2 then s.clk + m.lead - s.fld .LINK_LAT n else s.clk + m.lead - 4

/-- A follower that is not locked moves its boundary onto the marker's (R447). -/
def State.moveBoundary (s : State) (b : Nat) : State :=
  s.on (s.tk.firstLock && !s.flag .TICK_STAT_LOCKED && s.clk < b && b ≤ s.clk + s.tickLen) fun s =>
    { s with cyc := s.tickLen - (b - s.clk) }

/-- R435: a marker from the node's source; `late`: cycles from B − 1,016 to its arrival (Table 2.8). -/
def State.marker (s : State) (n : Nat) (f : Frame) (late : Nat) : State :=
  let m := readMark f
  if s.isChimney || s.tickSrc = 0 || (s.tickSrc = 2 && n != s.srcLink) then s
  else if 7 ≤ m.hops && !s.flag .NODE_ID_VALID then (s.setFld .JOIN_STAT_JSTATE 0 5).setFld .JOIN_STAT_JCAUSE 0 2
  else
    let b := s.markerAt n m
    let s := (s.spacing b).moveBoundary b
    let worst := if s.chip = chipKindling && s.fld .TICK_STAT_KINDLE_TICK ≤ 63 then max s.tk.maxMarker late else s.tk.maxMarker
    let s : State := { s with tk := { s.tk with arrived := some m, maxMarker := worst } }
    if s.tickSrc = 1 then s
    else
      let out : Mark := { m with hops := m.hops + 1, lead := b - s.clk }
      let t := (s.driveOut out).floodExcept (some n) s.upLinks (markerFrame out)
      forAll (s.upLinks.filter (· != n)) (fun k t => t.setLink k { t.link k with markAt := some t.clk }) t

def execMarker (n : Fin 24) (f : Frame) (late : Nat) (s : State) : Answer :=
  liveIf (frameIs 0x08 f) s fun s => s.onFrame n f fun s => s.marker n f late

/-! ### REPORT (R437) -/

/-- A report of one kind for the chimney, which acts on it; any other node passes it on (R449). -/
def State.onReport (s : State) (f : Frame) (kind : Nat) (g : State → State) : State :=
  if hdr f 0 32 8 != kind then s
  else s.onFrameAny f fun s =>
    if frameDst f != s.ownNode then (match s.route (frameDst f) none with | none => s | some k => s.passOn k f) else s.on s.isChimney g

/-- R54: the frame does not say whether the request is a thermal one, which is free (log entry 45). -/
def execReportBankReq (f : Frame) (s : State) : Answer :=
  liveIf (frameIs 0x09 f) s fun s => s.onReport f 1 fun s =>
    let thermal := Config.farThermal s.free
    { s with free := s.free + 1 }.ask fun a =>
      if thermal then { a with bankThermal := true } else { a with bankSoft := true }

def execReportMiss (f : Frame) (s : State) : Answer :=
  liveIf (frameIs 0x09 f) s fun s => s.onReport f 2 fun s => s.noteMiss (hdr f 0 48 16)

/-- A member is ready; a node that joins gets its kindling tick 0, a coming tick (log entry 10), and becomes a member after it. -/
def State.nodeReady (s : State) (k : Nat) : State :=
  if s.isMember k then
    s.ask fun a => { a with ready := withOne a.ready k }
  else
    let t := (s.now + 2 + Config.freeNat s.free % 65536) % 2 ^ 48
    let die := ((s.node.known.find? fun e => e.2.2 = some k).map (·.1)).getD 0
    let s : State := { s with free := s.free + 1,
                              node := { s.node with toAdd := s.node.toAdd.filter (fun e => e.1 != k) ++ [(k, t + 256)] } }
    s.sendJoin k die (s.joinFrame k 5 0 0 die t)

def execKindleReady (f : Frame) (s : State) : Answer :=
  liveIf (frameIs 0x09 f) s fun s => s.onReport f 3 fun s => s.nodeReady (frameSrc f)

def execReportKindleFail (f : Frame) (s : State) : Answer :=
  liveIf (frameIs 0x09 f) s fun s => s.onReport f 4 fun s => s.ask fun a => { a with abortReq := true }

def execLinkEvent (f : Frame) (s : State) : Answer :=
  liveIf (frameIs 0x09 f) s fun s => s.onReport f 5 fun s => s.noteLink (hdr f 1 48 8) (hdr f 0 40 8 = 1)

/-! ### ELECT -/

def execElect (n : Fin 24) (f : Frame) (s : State) : Answer :=
  liveIf (frameIs 0x0A f) s fun s => s.onFrame n f fun s =>
    s.on (hdr f 0 37 1 = 0) fun s => s.candidate n (hdr f 0 36 1 = 1) (hdr f 0 32 4) (hdr f 1 0 64)

/-- This node's own count has run out: it ends the scope if it is the best candidate (R441, R551). -/
def State.countOut (s : State) : State :=
  let own := s.fuses.dieId.toNat
  if s.node.bestDie != own then s
  else if s.node.scope = 1 && ((upTo 24).filter isSibling).all s.settled then s.endTray own
  else if s.node.scope = 2 && ((upTo 24).filter isRowLink).all s.settled then s.endRow own
  else s

/-- A scope ends by a FINAL, received or due here. -/
def State.electFinal (s : State) : Option Frame → State
  | none => s.countOut
  | some f =>
    s.onFrameAny f fun s =>
      let row : Bool := hdr f 0 36 1 = 1
      if hdr f 0 37 1 = 0 || s.node.scope != (if row then 2 else 1) then s
      else if row then s.endRow (hdr f 1 0 64) else s.endTray (hdr f 1 0 64)

def execElectFinal (f : Option Frame) (s : State) : Answer :=
  liveIf (f.all (frameIs 0x0A)) s fun s => (s.electFinal f).tryLocked

/-! ### MEMBER -/

/-- R442, R444: a map with a new EPOCH goes on, and applies at once before the first lock, else at its boundary. -/
def State.member (s : State) (n : Nat) (f : Frame) : State :=
  let e := hdr f 0 32 16
  let ws := (upTo 4).map fun k => hdr f (k + 1) 0 64
  if e = 0 || e = s.fld .MEMBER_EPOCH || (s.node.pendMap.map (·.1)) = some e then s
  else
    let s := s.floodExcept (some n) s.memoryLinks f
    if s.tk.firstLock then { s with node := { s.node with pendMap := some (e, ws) } } else s.applyMember e ws

def execMember (n : Fin 24) (f : Frame) (s : State) : Answer :=
  liveIf (frameIs 0x0B f) s fun s => s.onFrame n f fun s => s.member n f

/-- R447: the chimney drops a node that the reports have shown without a link for two whole ticks; a node that has lost the
chimney runs the election again. -/
def State.nodeLost (s : State) (k : Nat) : State :=
  if s.isChimney then
    let t := mget 0 k s.node.lossCount
    s.on (t != 0 && t + 2 ≤ s.now && s.isMember k) fun s =>
      { s with node := { s.node with toDrop := s.node.toDrop ++ [k], lossCount := mput 0 k 0 s.node.lossCount } }
  else
    s.on (k = s.fld .ELECT_STAT_ROW_CHIMNEY_NODE && s.flag .NODE_ID_VALID && s.flag .TICK_STAT_SOURCE_LOST &&
      s.flag .ELECT_STAT_ELECT_DONE) fun s => s.lockFalls.reelect

def execNodeLost (node : Byte) (s : State) : Answer := live s fun s => s.nodeLost node.toNat

/-! ### JOIN (R445, R446) -/

/-- A JOIN frame of one kind. -/
def State.onJoin (s : State) (f : Frame) (kind : Nat) (g : State → State) : State :=
  if hdr f 0 32 8 != kind then s else s.onFrameAny f g

/-- An id that the chimney may give: no member's and promised to nobody. -/
def State.freeId (s : State) : Option Nat :=
  (upTo 256).find? fun k => !s.isMember k && !s.node.known.any fun e => e.2.2 = some k

/-- A node asks to join: before formation the chimney notes it, in WARM it gives an id, otherwise it refuses (log entry 44). -/
def State.joinReq (s : State) (f : Frame) : State :=
  let die := hdr f 1 0 64
  let src := frameSrc f
  let note (id : Option Nat) (s : State) : State :=
    { s with node := { s.node with known := minsert die (none, id) (s.node.known.filter (·.1 != die)) } }
  if !s.flag .ELECT_STAT_ELECT_DONE then note none s
  else if !s.isChimney then s.sendNode (s.fld .ELECT_STAT_ROW_CHIMNEY_NODE) none f
  else if s.chip != chipWarm then s.sendJoin src die (s.joinFrame src 3 0 3 die 0)
  else
    let old := (s.node.known.find? (·.1 = die)).bind (·.2.2)
    match old.or s.freeId with
    | none => s.sendJoin src die (s.joinFrame src 3 0 1 die 0)
    | some k => (note (some k) s).sendJoin k die (s.joinFrame k 2 k 0 die 0)

def execJoinReq (f : Frame) (s : State) : Answer :=
  liveIf (frameIs 0x0C f) s fun s => s.onJoin f 1 fun s => s.joinReq f

/-- An answer to a JOIN_REQ is for the node with its DIE_ID; a tray's chimney passes its sibling's on. -/
def State.forDie (s : State) (f : Frame) (g : State → State) : State :=
  let die := hdr f 1 0 64
  if die = s.fuses.dieId.toNat then g s
  else match s.linkTo die with
    | none => s
    | some n => s.sendLink n f

/-- R445 step 2: this node has its id, and learns its chimneys'. -/
def State.joinAck (s : State) (f : Frame) : State :=
  if s.flag .NODE_ID_VALID then s
  else
    let s := (s.takeId (hdr f 0 40 8)).setFld .ELECT_STAT_ROW_CHIMNEY_NODE 0 (frameSrc f)
    s.setFld .ELECT_STAT_CHIMNEY_NODE 0 (if s.flag .TRAY_POS_CHIMNEY then s.ownNode else frameSrc f)

def execJoinAck (f : Frame) (s : State) : Answer :=
  liveIf (frameIs 0x0C f) s fun s => s.onJoin f 2 fun s => s.forDie f fun s => s.joinAck f

def execJoinRefuse (f : Frame) (s : State) : Answer :=
  liveIf (frameIs 0x0C f) s fun s => s.onJoin f 3 fun s => s.forDie f fun s =>
    (s.setFld .JOIN_STAT_JSTATE 0 5).setFld .JOIN_STAT_JCAUSE 0 (hdr f 0 48 8)

/-- R446: the chimney removes the sender at the next member map; another node passes the frame on. -/
def State.joinLeave (s : State) (f : Frame) : State :=
  if !s.isChimney then s.sendNode (s.fld .ELECT_STAT_ROW_CHIMNEY_NODE) none f
  else
    let k := frameSrc f
    s.on (s.isMember k && !s.node.toDrop.contains k) fun s => { s with node := { s.node with toDrop := s.node.toDrop ++ [k] } }

def execJoinLeave (f : Frame) (s : State) : Answer :=
  liveIf (frameIs 0x0C f) s fun s => s.onJoin f 4 fun s => s.joinLeave f

/-- R445 step 4. -/
def execJoinKtick (f : Frame) (s : State) : Answer :=
  liveIf (frameIs 0x0C f) s fun s => s.onJoin f 5 fun s => s.forDie f fun s =>
    { s with tk := { s.tk with joinTick := some (hdr f 2 0 48) } }

end Sys2Proof.Machine
end

