-- ==== Sys2Proof/Machine/Incoming.lean ====
section
/-! DEFINITION. Requests from other nodes and partners (R328, R345, R424, R449, R450, R453, R465, R516), what resolves this chip's own
posted writes and reads (R454, R455), and the host's accesses to memory (R462, R549). -/

namespace Sys2Proof.Machine

/-! ### Incoming writes -/

def reqAddr (f : Frame) : Nat := hdr f 1 0 48
def reqHearth (f : Frame) : Nat := hdr f 1 48 4
def reqLen (f : Frame) : Nat := hdr f 0 48 12 + 1
def reqId (f : Frame) : Nat := hdr f 0 32 16
def reqKey (f : Frame) : Nat := hdr f 2 0 32

/-- The channel whose RING_PEER_IDX a mirror write of `n` bytes at `a` holds. -/
def State.peerIdxAt (s : State) (a n : Nat) : Option Nat :=
  let off := a - 0x3000000000
  if regionOf a != some .mirror then none
  else ((upTo n).findSome? fun k =>
    if (off + k) % 0x1000 = 0xA24 then s.pageInst .mirror (bitsOf (off + k) 12 6) 0xA24 else none)

/-- R345: whether the frame comes from the ring's peer. -/
def State.fromPeer (s : State) (n : Nat) (f : Frame) (c : Nat) : Bool :=
  let p := s.fld .RING_CFG_PEER_NODE c
  if s.flag .RING_CFG_PEER_PARTNER c then frameLocal f && (s.partnerLinks (p % 16)).contains n
  else !frameLocal f && frameSrc f = p

/-- What refuses an incoming write: 0 or a cause of Table 13.6. -/
def State.writeFault (s : State) (n : Nat) (f : Frame) : Nat :=
  if s.chip = chipOffReady then 1
  else
    let c := s.incomingFault (reqHearth f) (reqAddr f) (reqLen f) (reqKey f) .w
    if c != 0 then c
    else match s.peerIdxAt (reqAddr f) (reqLen f) with
      | none => 0
      | some c => if s.fromPeer n f c then 0 else 3

/-- The access of a frame from link `n` is made once its port is free and the slot's FEN_RM bytes hold it: until then it waits in the
link's buffers (R328, R394; log entry 108). -/
def State.arrive (s : State) (n : Nat) (f : Frame) (wr : Bool) : State :=
  let m := 17 + n / 4
  let a := reqAddr f
  let pl := framePlanned f
  let cost := arrivalCost a (reqLen f) wr
  let s := s.runUntil (fun s => s.arrivalFits pl cost && s.portsOpen m pl a (reqLen f) && s.tidRoom m wr pl) (2 * s.tickLen)
  let k : Ask :=
    { master := m, write := wr, qos := s.fld .XB_QOS_IO_FLRX_QOS, since := s.clk
      lat := if wr then s.writeLat (s.global a) (reqLen f) else s.readLat (s.global a) }
  (s.arrivalDraw pl cost).xbNow k a (reqLen f)

/-- R453, R465: the write is performed and acknowledged, or answered with a backdraft. -/
def State.performWrite (s : State) (n : Nat) (f : Frame) : State :=
  let c := s.writeFault n f
  if c != 0 then
    (s.on (c = 2 && s.planHit (reqAddr f) (reqLen f)) fun s => s.countSeal 0x06).answerFault n f c
  else
    let s := (s.arrive n f true).localWrite (reqAddr f) f.data
    (s.on (!frameLocal f) fun s => s.countIncoming (frameSrc f) (reqAddr f) (reqLen f)).reply n f 0x18 (reqId f)

/-- A planned transfer waits for cycle D (R429). -/
def State.holdPlanned (s : State) (n : Nat) (f : Frame) : State := s.setLink n { s.link n with held := (s.link n).held ++ [f] }

def execWrite (n : Fin 24) (f : Frame) (s : State) : Answer :=
  liveIf (frameIs 0x10 f) s fun s => s.onFrame n f fun s =>
    s.routed n f (some (reqAddr f)) fun s => if framePlanned f then s.holdPlanned n f else s.performWrite n f

/-- R453: a write that has not been performed within 32 ticks of its arrival. -/
def execTargetWriteTimeout (n : Fin 24) (f : Frame) (s : State) : Answer :=
  liveIf (frameIs 0x10 f) s fun s => (s.takeFrame n f).answerFault n f 2

/-! ### Incoming reads -/

def State.performRead (s : State) (n : Nat) (f : Frame) : State :=
  let c := if s.chip = chipOffReady then 1 else s.incomingFault (reqHearth f) (reqAddr f) (reqLen f) (reqKey f) .r
  if c != 0 then s.answerFault n f c
  else
    let r := (s.arrive n f false).localRead (reqAddr f) (reqLen f)
    r.1.reply n f 0x1A (reqId f + (reqLen f - 1) * 2 ^ 16) [] r.2

def execRead (n : Fin 24) (f : Frame) (s : State) : Answer :=
  liveIf (frameIs 0x11 f) s fun s => s.onFrame n f fun s =>
    s.routed n f (some (reqAddr f)) fun s => s.performRead n f

/-! ### KV requests of partners -/

/-- The context of a partner's request (Table 14.4, ORIGIN 3). -/
def State.kvreqCtx (s : State) (n : Nat) (f : Frame) : Ctx :=
  { hearth := hdr f 0 48 4, origin := 3, tag := reqId f, accept := s.now, start := s.now, link := n }

/-- R465, R483, R485, R514, R516: a KVREQ with the hearth's PKEY joins its instruction queue; one with another
key is not accepted, and only its KVCPL says so. A word of another class than 0x8 is no
KV request (log entry 51). -/
def State.kvreq (s : State) (n : Nat) (f : Frame) : State :=
  let x := s.kvreqCtx n f
  let h := s.hearth x.hearth
  let w : Word128 := BitVec.ofNat 128 (hdr f 1 0 64 + hdr f 2 0 64 * 2 ^ 64)
  if s.chip = chipOffReady || hdr f 3 0 32 != s.fld .PKEY x.hearth then s.answerFault n f 0
  else if s.fencedHearth x.hearth then s.endWork x (.refused 0x13)
  else if wordClass w != 8 then s.endWork x (.faulted 0x09)
  else if 32 ≤ h.iq.length then s.endWork x (.refused 0x10 2)
  else (s.setHearth x.hearth { h with iq := h.iq ++ [{ ctx := x, word := w, prio := false, deadline := 0 }] }).refuseFronts x.hearth 32

def execKvreq (n : Fin 24) (f : Frame) (s : State) : Answer :=
  liveIf (frameIs 0x12 f) s fun s => s.onFrame n f fun s => s.kvreq n f

/-- A KVCPL that waits on a link starts to leave, as soon as its credits and the slot allow it. One that arrives answers nothing, since this
chip sends no KVREQ (R418, R423). -/
def execKvcpl (n : Fin 24) (f : Frame) (s : State) : Answer :=
  liveIf (frameIs 0x1C f) s fun s =>
    if (s.link n).txq.contains f then s.on (s.hasLock n && s.mayStart n f && s.maySend n f) fun s => s.startFrame n f
    else s.onFrame n f id

/-! ### Posted writes resolve (R454) -/

def State.isLate (s : State) (wid : Nat) : Bool := s.lateWids.any (·.1 = wid)

/-- One WID is acknowledged. -/
def State.ackWid (s : State) (wid : Nat) : State :=
  if s.posted.any (·.wid = wid) then { s with posted := s.posted.filter (·.wid != wid) }
  else s.on (s.isLate wid) fun s => s.bump .LATE_RESP_COUNT

def State.ack (s : State) (f : Frame) : State :=
  (forAll (upTo (hdr f 0 48 8 + 1)) (fun k s => s.ackWid ((reqId f + k) % 65536)) s).sendLeave

def execAck (n : Fin 24) (f : Frame) (s : State) : Answer :=
  liveIf (frameIs 0x18 f) s fun s => s.onFrame n f fun s => s.routed n f none fun s => s.ack f

def State.bdraft (s : State) (f : Frame) : State :=
  match s.posted.find? (·.wid = reqId f) with
  | none => s.on (s.isLate (reqId f)) fun s => s.bump .LATE_RESP_COUNT
  | some p => ((s.bump .BDRAFT_COUNT).failWrite p (hdr f 0 48 8) (hdr f 1 0 48)).sendLeave

def execBdraft (n : Fin 24) (f : Frame) (s : State) : Answer :=
  liveIf (frameIs 0x19 f) s fun s => s.onFrame n f fun s => s.routed n f none fun s => s.bdraft f

/-- R454: 64 ticks without an answer. -/
def State.writeLost (s : State) (wid : Nat) : State :=
  match s.posted.find? (·.wid = wid) with
  | none => s
  | some p => s.on (p.issue + 64 ≤ s.now) fun s => (s.loseWrite p).sendLeave

def execWriteLost (wid : BitVec 16) (s : State) : Answer := live s fun s => s.writeLost wid.toNat

/-! ### Reads resolve (R455) -/

/-- Bytes with their global addresses. -/
def addressed (a : Nat) (bs : List Byte) : List (Nat × Byte) := (upTo bs.length).map fun k => (a + k, bs.getD k 0)

/-- The bytes of a reply reach whoever asked for them. -/
def State.deliverRead (s : State) (r : RemoteRead) (bs : List Byte) : State :=
  let got := addressed r.addr bs
  let s := { s with reads := s.reads.filter (·.rid != r.rid) }
  match r.owner with
  | .ember e tag =>
    let m := s.ember e
    s.on (m.live && s.emberTag e = tag) fun s => s.setEmber e { m with cache := m.cache ++ got }
  | .dma c planned => s.fillRead c planned r bs
  | .flight k => s.setFlight k fun x => { x with cache := x.cache ++ got }
  | .reshard id => s.setReshard id fun r => { r with cache := r.cache ++ got }
  | .ring _ | .none => s

def State.rdata (s : State) (f : Frame) : State :=
  match s.reads.find? (·.rid = reqId f) with
  | none => s
  | some r => s.deliverRead r (f.data.take r.len)

def execRdata (n : Fin 24) (f : Frame) (s : State) : Answer :=
  liveIf (frameIs 0x1A f) s fun s => s.onFrame n f fun s =>
    s.routed n f none fun s => if framePlanned f then s.holdPlanned n f else s.rdata f

def State.rerr (s : State) (f : Frame) : State :=
  match s.reads.find? (·.rid = reqId f) with
  | none => s
  | some r => s.failRead r (0x20 + hdr f 0 48 8)

def execRerr (n : Fin 24) (f : Frame) (s : State) : Answer :=
  liveIf (frameIs 0x1B f) s fun s => s.onFrame n f fun s => s.routed n f none fun s => s.rerr f

/-- R455: 64 ticks without an answer. -/
def State.readLost (s : State) (rid : Nat) : State :=
  match s.reads.find? (·.rid = rid) with
  | none => s
  | some r => s.on (r.issue + 64 ≤ s.now) fun s => (s.bump .LOST_COUNT).failRead r 0x25

def execReadLost (rid : BitVec 16) (s : State) : Answer := live s fun s => s.readLost rid.toNat

/-! ### Planned transfers at cycle D (R42) -/

/-- A planned frame that has arrived becomes visible at D = E + LINK_LAT + 2,048; `slotEnd` is E on the register clock. -/
def State.deliverPlanned (s : State) (n : Nat) (f : Frame) (slotEnd : Nat) : State :=
  if !(s.link n).held.contains f then s
  else
    let s := s.toClk (slotEnd + s.fld .LINK_LAT n + 2048)
    let s := s.setLink n { s.link n with held := (s.link n).held.erase f }
    if frameType f = 0x10 then s.performWrite n f else s.rdata f

def execPlannedDelivery (n : Fin 24) (f : Frame) (slotEnd : Nat) (s : State) : Answer :=
  liveIf (frameWf f) s fun s => s.deliverPlanned n f slotEnd

/-! ### BAR2 (R462, R549) -/

/-- Local address that `n` bytes at BAR2 offset `o` reach; none in a hole. -/
def bar2Addr (o n : Nat) : Option Nat :=
  if o + n ≤ 0x600000000 then some o
  else if 0x700000000 ≤ o && o + n ≤ 0x70A000000 then some (0x1000000000 + (o - 0x700000000))
  else none

/-- The checks of a BAR2 access of function `fn`: 0, or the cause. -/
def State.bar2Fault (s : State) (fn a n : Nat) (k : AKind) : Nat :=
  if fn = 0 then s.pfFault a n k else s.hearthFault (fn - 1) (s.global a) n k

/-- The hearth whose ash queue takes a function's records (R461). -/
def fnHearth (fn : Nat) : Nat := fn - 1

/-- The record of a refused BAR2 access. -/
def State.bar2Ash (s : State) (fn a n cause : Nat) : State :=
  s.postAsh (fnHearth fn)
    { cause := cause, origin := 4, addr := s.global a, len := n, issue := s.now, fail := s.now }

/-- Cycles that a host access takes in the PCIE port's clock converter, there and back: 4 each way, and up to 2 of the endpoint's 1 GHz clock,
which are free (R399; log entry 108). -/
def State.pcieCross (s : State) : Nat := 8 + Config.freeNat s.free % ((48 + 8 * s.fld .CLK_STAT_ACTIVE_GRADE) / 10 + 1)

/-- The host's access to `n` bytes at `a` is made once the ports behind it are free and the shares have given what it takes (R39, R326,
R399). -/
def State.bar2Turn (s : State) (a n : Nat) (wr : Bool) : State :=
  let s := s.runUntil (fun s => s.portsOpen 16 false a n && s.tidRoom 16 wr false) (2 * s.tickLen)
  let k : Ask :=
    { master := 16, write := wr, qos := s.fld .XB_QOS_IO_PCIE_QOS, since := s.clk
      lat := s.pcieCross + if wr then s.writeLat (s.global a) n else s.readLat (s.global a) }
  ({ s with free := s.free + 1 }.xbNow k a n).payAll none (fenCost 32 a n wr) (2 * s.tickLen)

def State.bar2Read (s : State) (fn o n : Nat) : State :=
  let ones := List.replicate n (255 : Byte)
  match bar2Addr o n with
  | none => { s with bus := ones }
  | some a =>
    let c := s.bar2Fault fn a n .r
    if c != 0 then { s.bar2Ash fn a n c with bus := ones }
    else let s := s.bar2Turn a n false; { s with bus := s.bytes a n }

def State.bar2Write (s : State) (fn o : Nat) (bs : List Byte) : State :=
  match bar2Addr o bs.length with
  | none => s
  | some a =>
    let c := s.bar2Fault fn a bs.length .w
    if c != 0 then (s.countSeal c).bar2Ash fn a bs.length c
    else ((s.bar2Turn a bs.length true).store a bs).tamper a bs.length

def execBar2Read (fn : Fin 17) (off : BitVec 35) (len : Nat) (s : State) : Answer :=
  live s fun s => { s with pcieUp := true }.bar2Read fn off.toNat len

def execBar2Write (fn : Fin 17) (off : BitVec 35) (data : List Byte) (s : State) : Answer :=
  live s fun s => { s with pcieUp := true }.bar2Write fn off.toNat data

end Sys2Proof.Machine
end

