-- ==== Sys2Proof/Machine/Fen.lean ====
section
/-! DEFINITION. Uncorrectable fen beats and the scan of a fenced channel (R23, R390, R548). -/

namespace Sys2Proof.Machine

/-- A source read of a reshard meets the beat: the move that is next fails (R23, R149). -/
def State.failMove (s : State) (id : Nat) : State :=
  match s.reshardOf id with
  | none => s
  | some r =>
    match r.moves with
    | [] => s
    | m :: rest => (s.spoilMoves [m]).setReshard id fun r => { r.fail 0x0F with moves := rest }

/-- The access that met the beat faults ECC_UNCORR; a beat counts once, whoever read it. -/
def State.beatFault (s : State) (a : Nat) (who : BeatReader) : State :=
  match who with
  | .nobody => s
  | .ember e =>
    let m := s.ember e
    s.on (m.live && !m.draining) fun s => s.emberFail e m m.waitPc (.faulted 0x0F 0 a 64)
  | .dma c planned =>
    s.on ((s.dctx c planned).xfer.isSome && (s.dctx c planned).ending = .running) fun s =>
      s.setDctx c planned { s.dctx c planned with ending := .fault 0x0F 0 a 64, rds := [], raw := [], ready := [], failing := .running }
  | .flight k => s.faultFlight k 0x0F 0
  | .bar2 fn => { s with bus := s.bus.map fun _ => 0xFF }.bar2Ash fn a 64 0x0F
  | .write n f => s.on (frameType f = 0x10) fun s => s.answerFault n f 0x04
  | .read n f => s.on (frameType f = 0x11) fun s => s.answerFault n f 0x04
  | .reshard id => s.failMove id.toNat

def execFenUncorrectableBeat (c : Fin 16) (addr : BitVec 48) (who : BeatReader) (s : State) : Answer :=
  liveIf (beatReaderWf who) s fun s =>
    (s.beatFault addr.toNat who).countUe c 1

/-- A sequence has a page in channel `c`. -/
def State.pageIn (s : State) (q : Seq) (c : Nat) : Bool :=
  (s.pagesHeld q).any fun e => fenChan (e.2 * 65536) = c

/-- R390: the scan of a fenced channel ends. -/
def State.fenceScan (s : State) (c : Nat) : State :=
  if !s.units.scan.testBit c then s
  else
    let hit := (s.seqs.filter fun e => e.2.opened && !e.2.broken && s.pageIn e.2 c)
    let s := forAll hit (fun e s =>
      (s.setSeq e.1 { s.seq e.1 with broken := true }).postAsh e.2.hearth
        { cause := 0x0F, origin := 4, tag := e.1, arg := e.1, issue := s.now, fail := s.now }) s
    let s := { s with units := { s.units with scan := clearBit s.units.scan c } }
    s.on (s.units.scan = 0) fun s => s.setFld .KV_STAT_SCAN 0 0

def execFenceScan (c : Fin 16) (s : State) : Answer := live s fun s => s.fenceScan c

end Sys2Proof.Machine
end

