-- ==== Sys2Proof/Machine/Faults.lean ====
section
/-! DEFINITION. Ember instructions that fault (R155, R186, R274, R275). -/

namespace Sys2Proof.Machine

/-- The event of an ember's instruction by its opcode; none where no chapter assigns it. -/
def emberArm (e : Fin 2048) (opc : Nat) : Option (State → Answer) :=
  match opc with
  | 0x00 => some (execAlu e)
  | 0x01 => some (execBr e)
  | 0x02 => some (execLd e)
  | 0x03 => some (execSt e)
  | 0x04 => some (execOrderSl e)
  | 0x05 => some (execOrderG e)
  | 0x06 => some (execSyncI e)
  | 0x07 => some (execEmbSpawn e)
  | 0x08 => some (execEmbExit e)
  | 0x09 => some (execEmbInfo e)
  | 0x10 => some (execMovT (.ember e))
  | 0x11 => some (execMovZ (.ember e))
  | 0x20 => some (execPermRoute (.ember e))
  | 0x21 => some (execPermGather (.ember e))
  | 0x22 => some (execPermScatterFirst (.ember e))
  | 0x23 => some (execPermScatterLast (.ember e))
  | 0x24 => some (execPermScatterSum (.ember e))
  | 0x25 => some (execPermScatterFault (.ember e))
  | 0x26 => some (execPermRaw (.ember e))
  | 0x30 => some (execTpTile (.ember e))
  | 0x40 => some (execWinExpand (.ember e))
  | 0x50 => some (execBpUnpack (.ember e))
  | 0x51 => some (execBpPack (.ember e))
  | 0x52 => some (execBpPlane (.ember e))
  | 0x53 => some (execBpUnplane (.ember e))
  | 0x54 => some (execBpIlv (.ember e))
  | 0x55 => some (execBpDilv (.ember e))
  | 0x56 => some (execBpColor (.ember e))
  | 0x60 => some (execMixRot (.ember e))
  | 0x61 => some (execMixDeq (.ember e))
  | 0x62 => some (execMixComb (.ember e))
  | 0x63 => some (execMixMm (.ember e))
  | 0x64 => some (execMixCvt (.ember e))
  | 0x70 => some (execStrmPush e)
  | 0x71 => some (execRingPut e)
  | 0x72 => some (execRingGet e)
  | 0x73 => some (execReedCp e)
  | 0x74 => some (execPreHeat e)
  | 0x75 => some (execHeatWait e)
  | 0x80 => some (execReshard (.ember e) false)
  | 0x81 => some (execKvOpen (.ember e))
  | 0x82 => some (execKvClose (.ember e))
  | 0x83 => some (execKvAppend (.ember e))
  | 0x84 => some (execKvGather (.ember e))
  | 0x85 => some (execKvConfirm (.ember e))
  | 0x86 => some (execKvSquash (.ember e))
  | _ => none

/-- The ember's next instruction faults as it issues: by its opcode, by its PC, or in its own event. -/
def State.emberFault (s : State) (e : Fin 2048) : State :=
  match s.ready e with
  | (_, none) => s
  | (p, some (m, none)) =>
    (match p.pcCheck m.hearth m.pc with
     | .error f => p.emberFlaw e m m.pc f
     | .ok _ => s)
  | (p, some (m, some w)) =>
    match emberArm e (wordOpc w) with
    | none => p.emberFlaw e m m.pc (ichk 0x01)
    | some f =>
      match f s with
      | .next t =>
        let n := t.ember e
        if (!n.live || n.draining) && (wordOpc w != 0x08 || !(p.check0 m.hearth w).isOk) then t else s
      | _ => s

def execEmberFault (e : Fin 2048) (s : State) : Answer := live s fun s => s.emberFault e

end Sys2Proof.Machine
end

