-- ==== Sys2Proof/Machine/Cycle.lean ====
section
/-! DEFINITION. One register-clock cycle in which no command stands in the queue (log entry 2): copies and DMA groups go on and the crossbar
grants (R312 to R316, R354, R405, R409), what waited and may go on goes on, the ledgers of engine instructions go on, and every link sends a
block (R427). -/

namespace Sys2Proof.Machine

/-! ### What waited -/

/-- An ember that waits goes on if what it waits for is there. -/
def State.emberCycle (s : State) (e : Nat) : State :=
  match (s.ember e).wait with
  | .orderG _ _ => s.orderDone e
  | .syncI _ => s.syncDone e
  | .ringPut .. => s.ringPutDone e
  | .heat .. => s.heatDone e
  | _ => s

/-- Operations and reshards in flight send and ask for what they can; confirms and squashes whose appends are over settle; opcodes that
no chapter assigns fail as they reach the front of a queue. -/
def State.workCycle (s : State) : State :=
  let s := forAll (s.flights.map (·.id)) (fun k s => s.pump k) s
  let s := forAll (s.reshards.map (·.id)) (fun k s => s.send k) s
  forAll (s.hearths.map (·.1)) (fun t s => s.refuseFronts t 32) s.settleReady

/-- Every link sends one block, and a leaving node its JOIN_LEAVE once it may (R446). -/
def State.linkCycle (s : State) : State := forAll (s.links.map (·.1)) (fun n s => s.sendBlock n) s.sendLeave

/-- The cycle's events in this order, then its end. -/
def State.cycle (s : State) : State :=
  let s := s.reedCycle.dmaCycle
  let s := forAll (s.embers.map (·.1)) (fun e s => s.emberCycle e) s
  s.workCycle.ledgerCycle.linkCycle.tryLocked.advance 1

/-- What a step on an empty queue does. -/
def State.idle (s : State) : State := s.running State.cycle

end Sys2Proof.Machine
end

