-- ==== Sys2Proof/Machine/Dispatch.lean ====
section
/-! DEFINITION. Which meaning each command has. -/

namespace Sys2Proof.Machine

def exec (i : Instr) (s : State) : Host.Outcome State Fault Refusal :=
  match i with
  | .powerLoss => Sys2Proof.Machine.execPowerLoss s
  | .coldReset posStrap => Sys2Proof.Machine.execColdReset posStrap s
  | .fuseLoadDone fuses => Sys2Proof.Machine.execFuseLoadDone fuses s
  | .chipRst w => Sys2Proof.Machine.execChipRst w s
  | .thermtrip => Sys2Proof.Machine.execThermtrip s
  | .undervoltageStop => Sys2Proof.Machine.execUndervoltageStop s
  | .perst => Sys2Proof.Machine.execPerst s
  | .functionLevelReset fn => Sys2Proof.Machine.execFunctionLevelReset fn s
  | .singleRead opcode addr => Sys2Proof.Machine.execSingleRead opcode addr s
  | .singleWrite opcode addr data crc => Sys2Proof.Machine.execSingleWrite opcode addr data crc s
  | .burstRead opcode addr n => Sys2Proof.Machine.execBurstRead opcode addr n s
  | .burstWrite opcode addr words => Sys2Proof.Machine.execBurstWrite opcode addr words s
  | .shortFrame opcode addr words => Sys2Proof.Machine.execShortFrame opcode addr words s
  | .bar2Read fn off len => Sys2Proof.Machine.execBar2Read fn off len s
  | .bar2Write fn off data => Sys2Proof.Machine.execBar2Write fn off data s
  | .registerWrite w => Sys2Proof.Machine.execRegisterWrite w s
  | .tickCountLo p off len => Sys2Proof.Machine.execTickCountLo p off len s
  | .tickCommit p v => Sys2Proof.Machine.execTickCommit p v s
  | .embCommit p v => Sys2Proof.Machine.execEmbCommit p v s
  | .dmpCommit p v => Sys2Proof.Machine.execDmpCommit p v s
  | .chCommit p c v => Sys2Proof.Machine.execChCommit p c v s
  | .strmCommit p c v => Sys2Proof.Machine.execStrmCommit p c v s
  | .kvPoolCommit p t v => Sys2Proof.Machine.execKvPoolCommit p t v s
  | .xbCommit p v => Sys2Proof.Machine.execXbCommit p v s
  | .nodeCommit p v => Sys2Proof.Machine.execNodeCommit p v s
  | .hearthCommit p t v => Sys2Proof.Machine.execHearthCommit p t v s
  | .queueCommit p t v => Sys2Proof.Machine.execQueueCommit p t v s
  | .clkCommit p v => Sys2Proof.Machine.execClkCommit p v s
  | .thermCommit p v => Sys2Proof.Machine.execThermCommit p v s
  | .calCommit p v => Sys2Proof.Machine.execCalCommit p v s
  | .eqCommit p n v => Sys2Proof.Machine.execEqCommit p n v s
  | .trayCommit p v => Sys2Proof.Machine.execTrayCommit p v s
  | .groupApply g => Sys2Proof.Machine.execGroupApply g s
  | .fclkUp => Sys2Proof.Machine.execFclkUp s
  | .kindle p v => Sys2Proof.Machine.execKindle p v s
  | .bankReq p v => Sys2Proof.Machine.execBankReq p v s
  | .fenKill p v => Sys2Proof.Machine.execFenKill p v s
  | .sliceKill p v => Sys2Proof.Machine.execSliceKill p v s
  | .mixKill p v => Sys2Proof.Machine.execMixKill p v s
  | .arm p v => Sys2Proof.Machine.execArm p v s
  | .heatForce p hi v => Sys2Proof.Machine.execHeatForce p hi v s
  | .kvTagReset p v => Sys2Proof.Machine.execKvTagReset p v s
  | .kvPoolTopWrite p t v => Sys2Proof.Machine.execKvPoolTopWrite p t v s
  | .ringPeerIdx p c v => Sys2Proof.Machine.execRingPeerIdx p c v s
  | .start p c v completing => Sys2Proof.Machine.execStart p c v completing s
  | .pause p c => Sys2Proof.Machine.execPause p c s
  | .dmaResume p c => Sys2Proof.Machine.execDmaResume p c s
  | .enable p c faulting => Sys2Proof.Machine.execEnable p c faulting s
  | .sqTail p t v => Sys2Proof.Machine.execSqTail p t v s
  | .reset p t v => Sys2Proof.Machine.execReset p t v s
  | .leave p v => Sys2Proof.Machine.execLeave p v s
  | .damp p v => Sys2Proof.Machine.execDamp p v s
  | .tickLock => Sys2Proof.Machine.execTickLock s
  | .lockLost => Sys2Proof.Machine.execLockLost s
  | .markerCompose => Sys2Proof.Machine.execMarkerCompose s
  | .markerSend => Sys2Proof.Machine.execMarkerSend s
  | .markerLatch => Sys2Proof.Machine.execMarkerLatch s
  | .tickBoundary => Sys2Proof.Machine.execTickBoundary s
  | .slackWindowStart => Sys2Proof.Machine.execSlackWindowStart s
  | .kindleComplete => Sys2Proof.Machine.execKindleComplete s
  | .kindleFail code => Sys2Proof.Machine.execKindleFail code s
  | .fenRefresh c => Sys2Proof.Machine.execFenRefresh c s
  | .damperRefill => Sys2Proof.Machine.execDamperRefill s
  | .planLoad t => Sys2Proof.Machine.execPlanLoad t s
  | .planAdmit p => Sys2Proof.Machine.execPlanAdmit p s
  | .planStart t => Sys2Proof.Machine.execPlanStart t s
  | .planResume t => Sys2Proof.Machine.execPlanResume t s
  | .planRetire t => Sys2Proof.Machine.execPlanRetire t s
  | .planSlotEmpty p => Sys2Proof.Machine.execPlanSlotEmpty p s
  | .planRelease p planTick slot idx item => Sys2Proof.Machine.execPlanRelease p planTick slot idx item s
  | .planMiss p cause => Sys2Proof.Machine.execPlanMiss p cause s
  | .plannedReplay n seq slotEnd retryStart => Sys2Proof.Machine.execPlannedReplay n seq slotEnd retryStart s
  | .plannedDelivery n f slotEnd => Sys2Proof.Machine.execPlannedDelivery n f slotEnd s
  | .thermalSample readings rise => Sys2Proof.Machine.execThermalSample readings rise s
  | .fanMaxSensed => Sys2Proof.Machine.execFanMaxSensed s
  | .fanStep hotOther => Sys2Proof.Machine.execFanStep hotOther s
  | .trayPoll rails inlet exhaust power tachs => Sys2Proof.Machine.execTrayPoll rails inlet exhaust power tachs s
  | .fabricParity k phys => Sys2Proof.Machine.execFabricParity k phys s
  | .engineParity k unit => Sys2Proof.Machine.execEngineParity k unit s
  | .mixerParity k phys => Sys2Proof.Machine.execMixerParity k phys s
  | .fenCorrectedError c => Sys2Proof.Machine.execFenCorrectedError c s
  | .fenUncorrectableBeat c addr who => Sys2Proof.Machine.execFenUncorrectableBeat c addr who s
  | .fenTrainingFail c => Sys2Proof.Machine.execFenTrainingFail c s
  | .fenParityFail c => Sys2Proof.Machine.execFenParityFail c s
  | .fenceScan c => Sys2Proof.Machine.execFenceScan c s
  | .sqEntryTake t => Sys2Proof.Machine.execSqEntryTake t s
  | .instr t => Sys2Proof.Machine.execInstr t s
  | .emberStart t => Sys2Proof.Machine.execEmberStart t s
  | .dmaSubmit t => Sys2Proof.Machine.execDmaSubmit t s
  | .preheat t => Sys2Proof.Machine.execPreheat t s
  | .reshard src fromCmd => Sys2Proof.Machine.execReshard src fromCmd s
  | .reshardComplete id => Sys2Proof.Machine.execReshardComplete id s
  | .reshardCancel t => Sys2Proof.Machine.execReshardCancel t s
  | .nop t => Sys2Proof.Machine.execNop t s
  | .deadlineExpiry t => Sys2Proof.Machine.execDeadlineExpiry t s
  | .cqHoldRelease t => Sys2Proof.Machine.execCqHoldRelease t s
  | .resetDone t => Sys2Proof.Machine.execResetDone t s
  | .alu e => Sys2Proof.Machine.execAlu e s
  | .br e => Sys2Proof.Machine.execBr e s
  | .ld e => Sys2Proof.Machine.execLd e s
  | .loadReturn e => Sys2Proof.Machine.execLoadReturn e s
  | .st e => Sys2Proof.Machine.execSt e s
  | .storeDrain e k => Sys2Proof.Machine.execStoreDrain e k s
  | .storeVisible e k => Sys2Proof.Machine.execStoreVisible e k s
  | .orderSl e => Sys2Proof.Machine.execOrderSl e s
  | .orderG e => Sys2Proof.Machine.execOrderG e s
  | .syncI e => Sys2Proof.Machine.execSyncI e s
  | .embSpawn e => Sys2Proof.Machine.execEmbSpawn e s
  | .embExit e => Sys2Proof.Machine.execEmbExit e s
  | .embInfo e => Sys2Proof.Machine.execEmbInfo e s
  | .emberFault e => Sys2Proof.Machine.execEmberFault e s
  | .movT src => Sys2Proof.Machine.execMovT src s
  | .movZ src => Sys2Proof.Machine.execMovZ src s
  | .permRoute src => Sys2Proof.Machine.execPermRoute src s
  | .permGather src => Sys2Proof.Machine.execPermGather src s
  | .permScatterFirst src => Sys2Proof.Machine.execPermScatterFirst src s
  | .permScatterLast src => Sys2Proof.Machine.execPermScatterLast src s
  | .permScatterSum src => Sys2Proof.Machine.execPermScatterSum src s
  | .permScatterFault src => Sys2Proof.Machine.execPermScatterFault src s
  | .permRaw src => Sys2Proof.Machine.execPermRaw src s
  | .pieceRestart k => Sys2Proof.Machine.execPieceRestart k s
  | .tpTile src => Sys2Proof.Machine.execTpTile src s
  | .winExpand src => Sys2Proof.Machine.execWinExpand src s
  | .bpUnpack src => Sys2Proof.Machine.execBpUnpack src s
  | .bpPack src => Sys2Proof.Machine.execBpPack src s
  | .bpPlane src => Sys2Proof.Machine.execBpPlane src s
  | .bpUnplane src => Sys2Proof.Machine.execBpUnplane src s
  | .bpIlv src => Sys2Proof.Machine.execBpIlv src s
  | .bpDilv src => Sys2Proof.Machine.execBpDilv src s
  | .bpColor src => Sys2Proof.Machine.execBpColor src s
  | .mixRot src => Sys2Proof.Machine.execMixRot src s
  | .mixDeq src => Sys2Proof.Machine.execMixDeq src s
  | .mixComb src => Sys2Proof.Machine.execMixComb src s
  | .mixMm src => Sys2Proof.Machine.execMixMm src s
  | .mixCvt src => Sys2Proof.Machine.execMixCvt src s
  | .dmaTransferStart c => Sys2Proof.Machine.execDmaTransferStart c s
  | .dmaFault c planned => Sys2Proof.Machine.execDmaFault c planned s
  | .dmaPaused c => Sys2Proof.Machine.execDmaPaused c s
  | .dmaTransferComplete c planned => Sys2Proof.Machine.execDmaTransferComplete c planned s
  | .ringOutHandle c planned => Sys2Proof.Machine.execRingOutHandle c planned s
  | .ringInTake c => Sys2Proof.Machine.execRingInTake c s
  | .streamBroken c planned => Sys2Proof.Machine.execStreamBroken c planned s
  | .strmPush e => Sys2Proof.Machine.execStrmPush e s
  | .ringPut e => Sys2Proof.Machine.execRingPut e s
  | .ringGet e => Sys2Proof.Machine.execRingGet e s
  | .reedCp e => Sys2Proof.Machine.execReedCp e s
  | .preHeat e => Sys2Proof.Machine.execPreHeat e s
  | .heatWait e => Sys2Proof.Machine.execHeatWait e s
  | .kvOpen src => Sys2Proof.Machine.execKvOpen src s
  | .kvClose src => Sys2Proof.Machine.execKvClose src s
  | .kvAppend src => Sys2Proof.Machine.execKvAppend src s
  | .kvGather src => Sys2Proof.Machine.execKvGather src s
  | .kvConfirm src => Sys2Proof.Machine.execKvConfirm src s
  | .kvSquash src => Sys2Proof.Machine.execKvSquash src s
  | .tagIdleReturn t tag => Sys2Proof.Machine.execTagIdleReturn t tag s
  | .xbarLockTimeout k => Sys2Proof.Machine.execXbarLockTimeout k s
  | .blockReceive n b => Sys2Proof.Machine.execBlockReceive n b s
  | .blockLock n => Sys2Proof.Machine.execBlockLock n s
  | .linkSettleTimeout n => Sys2Proof.Machine.execLinkSettleTimeout n s
  | .linkDown n => Sys2Proof.Machine.execLinkDown n s
  | .linkReturn n => Sys2Proof.Machine.execLinkReturn n s
  | .ident n f => Sys2Proof.Machine.execIdent n f s
  | .probe n f => Sys2Proof.Machine.execProbe n f s
  | .echo n f roundTrip => Sys2Proof.Machine.execEcho n f roundTrip s
  | .marker n f late => Sys2Proof.Machine.execMarker n f late s
  | .reportBankReq f => Sys2Proof.Machine.execReportBankReq f s
  | .reportMiss f => Sys2Proof.Machine.execReportMiss f s
  | .kindleReady f => Sys2Proof.Machine.execKindleReady f s
  | .reportKindleFail f => Sys2Proof.Machine.execReportKindleFail f s
  | .linkEvent f => Sys2Proof.Machine.execLinkEvent f s
  | .elect n f => Sys2Proof.Machine.execElect n f s
  | .electFinal f => Sys2Proof.Machine.execElectFinal f s
  | .member n f => Sys2Proof.Machine.execMember n f s
  | .nodeLost node => Sys2Proof.Machine.execNodeLost node s
  | .joinReq f => Sys2Proof.Machine.execJoinReq f s
  | .joinAck f => Sys2Proof.Machine.execJoinAck f s
  | .joinRefuse f => Sys2Proof.Machine.execJoinRefuse f s
  | .joinLeave f => Sys2Proof.Machine.execJoinLeave f s
  | .joinKtick f => Sys2Proof.Machine.execJoinKtick f s
  | .write n f => Sys2Proof.Machine.execWrite n f s
  | .read n f => Sys2Proof.Machine.execRead n f s
  | .kvreq n f => Sys2Proof.Machine.execKvreq n f s
  | .ack n f => Sys2Proof.Machine.execAck n f s
  | .bdraft n f => Sys2Proof.Machine.execBdraft n f s
  | .rdata n f => Sys2Proof.Machine.execRdata n f s
  | .rerr n f => Sys2Proof.Machine.execRerr n f s
  | .kvcpl n f => Sys2Proof.Machine.execKvcpl n f s
  | .writeLost wid => Sys2Proof.Machine.execWriteLost wid s
  | .readLost rid => Sys2Proof.Machine.execReadLost rid s
  | .targetWriteTimeout n f => Sys2Proof.Machine.execTargetWriteTimeout n f s
  | .dampStageAdvance => Sys2Proof.Machine.execDampStageAdvance s
  | .dampForce => Sys2Proof.Machine.execDampForce s
  | .instructionCompletion k => Sys2Proof.Machine.execInstructionCompletion k s
  | .eqAdaptation n val up => Sys2Proof.Machine.execEqAdaptation n val up s
  | .fanMaxReleased => Sys2Proof.Machine.execFanMaxReleased s

end Sys2Proof.Machine
end

