-- ==== Sys2Proof/WellFormed.lean ====
section
/-! DEFINITION. Which commands a wire can carry: the operand lists that a management-port frame, a PCIe request, a link block
and a flue frame can have (R78, R81, R84, R88, R89, R421, R420, Table 13.3), and how many readings a sample has (R501, R511). -/

namespace Sys2Proof

open Machine

/-- A 200-byte link block (Table 13.1). -/
def Block.wf (b : Block) : Bool := b.data.length = 184

/-- No operand list outside what the wire can carry. -/
def Instr.wf : Instr → Bool
  | .singleRead op _ => frameOp op = 0
  | .singleWrite op _ _ _ => frameOp op = 1
  | .burstRead op _ _ => frameOp op = 2
  | .burstWrite op _ _ => frameOp op = 3
  | .shortFrame op _ ws => ws.isEmpty || frameOp op = 3
  | .blockReceive _ b => b.wf
  | .ident _ f => frameIs 0x02 f
  | .probe _ f => frameIs 0x03 f
  | .echo _ f _ => frameIs 0x04 f
  | .marker _ f _ => frameIs 0x08 f
  | .reportBankReq f | .reportMiss f | .kindleReady f | .reportKindleFail f | .linkEvent f => frameIs 0x09 f
  | .elect _ f => frameIs 0x0A f
  | .member _ f => frameIs 0x0B f
  | .joinReq f | .joinAck f | .joinRefuse f | .joinLeave f | .joinKtick f => frameIs 0x0C f
  | .write _ f => frameIs 0x10 f
  | .read _ f => frameIs 0x11 f
  | .kvreq _ f => frameIs 0x12 f
  | .ack _ f => frameIs 0x18 f
  | .bdraft _ f => frameIs 0x19 f
  | .rdata _ f => frameIs 0x1A f
  | .rerr _ f => frameIs 0x1B f
  | .kvcpl _ f => frameIs 0x1C f
  | .plannedDelivery _ f _ => frameWf f
  | .thermalSample rs _ => rs.length = 8
  | .trayPoll rs _ _ _ ts => rs.length = 8 && ts.length = 4
  | .electFinal f => f.all (frameIs 0x0A)
  | .fenUncorrectableBeat _ _ who => beatReaderWf who
  | .targetWriteTimeout _ f => frameIs 0x10 f
  | _ => true

end Sys2Proof
end

