-- ==== Sys2Proof/Safety.lean ====
section
/-! DEFINITION. What counts as a sound state of the chip: power, clocks and THERMTRIP# agree, a chip whose state is lost holds
nothing, and memory is in canonical form; and conditions on a state that several statements share. -/

namespace Sys2Proof.Machine

/-- A step that neither faults nor refuses. -/
def Completes (o : Host.Outcome State Fault Refusal) : Prop := ∃ t, o = .next t

/-- A state that holds nothing of the chip's: every part but those three stands as in State.reset (R517). -/
def State.lost (s : State) : Prop :=
  s = { State.reset with power := s.power, pcieUp := false, pending := s.pending, free := s.free }

/-- What RESET# leaves until the fuses are loaded: the reset state with POS_STRAP sampled (R529, R530). -/
def State.fresh (s : State) : Prop := ∃ pos : Bool, s = s.blank.strapped pos

/-- THERMTRIP# is low exactly while R507 has stopped the clocks; without supply, and after R527, all state is lost; while the
fuses load, nothing has happened yet. -/
structure State.PowerInv (s : State) : Prop where
  trip : s.thermtripLow = true ↔ s.power = .stoppedHot
  off : s.power = .off → s.lost
  rail : s.power = .stoppedRail → s.lost
  load : s.power = .fuseLoad → s.fresh

/-- Two embers that differ in their fetch windows alone: what a write to the code of one may change (R276). -/
def Ember.likeWin (m n : Ember) : Prop := n = { m with win := n.win, stale := n.stale }

/-- A register command through `p` reaches instance `inst` of the register at `reg`: the management port serves frames and PORT_SEL
names the instance (R91, R530), a virtual function has it among its own (R76), and the path may write it (R103). -/
def State.reaches (s : State) (p : Path) (reg inst : Nat) : Prop :=
  match p with
  | .mp => s.portAt ≤ s.clk ∧ s.portInst reg = some inst
  | .pf => True
  | .mirror => isGuarded reg = false
  | .vf t =>
    isGuarded reg = false ∧ 0x400 ≤ reg ∧ reg < 0xC00 ∧ if reg < 0x800 then t.val = inst else s.ownsChan t inst = true

/-- A BAR2 access to `n` bytes at `a` finds its ports, its master port and the shares free in this cycle (R39, R326, R399, R402). -/
def State.bar2Free (s : State) (a n : Nat) (wr : Bool) : Bool :=
  s.portsOpen 16 false a n && s.tidRoom 16 wr false && s.openFits (fenCost 32 a n wr)

/-- An access to `n` bytes at `a` that arrives on link `k` finds its ports and the slot's FEN_RM bytes free in this cycle (R328). -/
def State.arrivalFree (s : State) (k a n : Nat) (wr planned : Bool) : Bool :=
  s.arrivalFits planned (arrivalCost a n wr) && s.portsOpen (17 + k / 4) planned a n && s.tidRoom (17 + k / 4) wr planned

end Sys2Proof.Machine

namespace Sys2Proof

/-- Commands that act on a chip whose clocks do not run: the supply, RESET# and the end of the fuse load. -/
def Instr.powers : Instr → Bool
  | .powerLoss | .coldReset _ | .fuseLoadDone _ => true
  | _ => false

/-- Commands that stop the clocks. -/
def Instr.stops : Instr → Bool
  | .thermtrip | .undervoltageStop => true
  | _ => false

/-- The COMMIT command of each group (Table 3.6). -/
def commitOf (p : Path) (v : Word32) : Group → Instr
  | .tick => .tickCommit p v | .ember => .embCommit p v | .damper => .dmpCommit p v | .chan c => .chCommit p c v
  | .stream c => .strmCommit p c v | .kvpool t => .kvPoolCommit p t v | .xbar => .xbCommit p v | .node => .nodeCommit p v
  | .hearth t => .hearthCommit p t v | .queue t => .queueCommit p t v | .clk => .clkCommit p v | .therm => .thermCommit p v
  | .cal => .calCommit p v | .eq n => .eqCommit p n v | .tray => .trayCommit p v

end Sys2Proof
end

