-- ==== Sys2Proof/Certificates/Slice0/Obligations.lean ====
section
/-! DEFINITION. The statements for the provers: what the spec says each command does to the chip, its frames, and the invariant that every
step keeps. A docstring names the rules; a clause that rests on the model's own choice names its log entry. -/

open Sys2Proof Sys2Proof.Machine

/-- A step on a queue with a command in front is `exec` of that command with the queue's rest; on an empty queue the chip runs one
cycle with the queue still empty (log entry 2: the model's own choice). -/
def Obligations.StepRunsTheFrontCommand : Prop :=
  (∀ (c : Instr) (rest : List Instr) (s : State), s.pending = c :: rest → step s = exec c { s with pending := rest }) ∧
  (∀ s : State, s.pending = [] → ∃ t, step s = .next t ∧ t.pending = [])

/-- No command touches the commands that wait behind it. Every command whose operand list a wire can carry completes in every state;
any other stops with `illFormed`. While no clock runs, only the supply, RESET# and the fuse load act: every other command leaves
everything as it is (log entry 1). -/
def Obligations.CommandsKeepTheQueueAndComplete : Prop :=
  (∀ (c : Instr) (s t : State), exec c s = .next t → t.pending = s.pending) ∧
  (∀ (c : Instr) (s : State),
     (c.wf = true → ∃ t, exec c s = .next t) ∧ (c.wf = false → exec c s = .fault .illFormed)) ∧
  (∀ (c : Instr) (s t : State), s.power ≠ .run → c.powers = false → exec c s = .next t → t = s)

/-- Every step keeps power, clocks, THERMTRIP# and lost state in agreement. -/
def Obligations.PowerInvariantKept : Prop :=
  ∀ s t : State, s.PowerInv → step s = .next t → t.PowerInv

/-- Reset has the invariant. -/
def Obligations.PowerInvariantAtReset : Prop :=
  State.reset.PowerInv ∧ Memory.wf State.reset.mem = true

/-- Power loss leaves nothing of the chip (R517); RESET# leaves every field at its reset value but the two that POS_STRAP decides
(R494, R529; memory reads 0 after it by log entry 4); the end of the fuse load brings the fuse values, starts the clocks and sets
every equaliser to its preset (R530, Table 15.7), and the management port serves frames 50 to 250 µs later (log entry 109). -/
def Obligations.SupplyAndResetPins : Prop :=
  (∀ s : State, ∃ t, exec .powerLoss s = .next t ∧ t.power = .off ∧ t.lost) ∧
  (∀ (s : State) (pos : Bool), ∃ t, exec (.coldReset pos) s = .next t ∧ t.power = .fuseLoad ∧ t.thermtripLow = false ∧
    t.fld .TRAY_POS_POS = b2n pos ∧ t.fld .NODE_CFG_ELECT_PRIO = 8 - b2n pos ∧ t.shd .NODE_CFG_ELECT_PRIO = 8 - b2n pos ∧
    (∀ (f : Fld) (i : Nat), f ≠ .TRAY_POS_POS → f ≠ .NODE_CFG_ELECT_PRIO → t.fld f i = f.resetVal i ∧ t.shd f i = f.resetVal i) ∧
    t.chip = chipCold ∧ ∀ a, t.byte a = 0) ∧
  (∀ (s : State) (f : Fuses), s.power = .fuseLoad → ∃ t, exec (.fuseLoadDone f) s = .next t ∧ t.power = .run ∧ t.fuses = f ∧
    s.clk + 5000 ≤ t.portAt ∧ t.portAt ≤ s.clk + 25000 ∧
    (∀ n k, n < 24 → k < 4 → t.fld (eqNow k) n = t.eqEff n k) ∧
    (∀ (g : Fld) (i : Nat), (∀ k, g ≠ eqNow k) → t.fld g i = s.fld g i) ∧ (∀ g i, t.shd g i = s.shd g i) ∧ ∀ a, t.byte a = s.byte a)

/-- The warm reset: 0xA5 written to CHIP_RST over the management port or through PF BAR0 leaves every field at its reset value, but
for the sampled strap, the priority that follows from it and the equalisers, which show their presets; the fuses and, through the
port, the endpoint are kept, and memory reads 0 (log entry 4). Any other value through those paths changes no field but LAST_CODE and
BURST_DONE; a write through a VF or the mirror only counts. -/
def Obligations.WarmReset : Prop :=
  (∀ (s : State) (w : RegWrite), s.power = .run → w.data.toNat % 256 = 0xA5 →
    ((w.path = .mp ∧ s.portAt ≤ s.clk) ∨ (w.path = .pf ∧ w.size = 4 ∧ w.be = 0xF)) →
    ∃ t, exec (.chipRst w) s = .next t ∧ t.power = .run ∧ t.fuses = s.fuses ∧ t.chip = chipCold ∧
      (w.path = .mp → t.pcieUp = s.pcieUp) ∧ (∀ a, t.byte a = 0) ∧
      (∀ n k, n < 24 → k < 4 → t.fld (eqNow k) n = t.eqEff n k) ∧
      ∀ (f : Fld) (i : Nat), f ≠ .TRAY_POS_POS → f ≠ .NODE_CFG_ELECT_PRIO → (∀ k, f ≠ eqNow k) → t.fld f i = f.resetVal i) ∧
  (∀ (s : State) (w : RegWrite), s.power = .run → w.data.toNat % 256 ≠ 0xA5 →
    ((w.path = .mp ∧ s.portAt ≤ s.clk) ∨ (w.path = .pf ∧ w.size = 4 ∧ w.be = 0xF)) →
    ∃ t, exec (.chipRst w) s = .next t ∧ (∀ a, t.byte a = s.byte a) ∧
      ∀ (f : Fld) (i : Nat), f ≠ .MP_STAT_LAST_CODE → f ≠ .MP_STAT_BURST_DONE → t.fld f i = s.fld f i) ∧
  (∀ (s : State) (w : RegWrite), s.power = .run → w.path ≠ .mp → w.path ≠ .pf → w.size = 4 → w.be = 0xF →
    ∃ t, exec (.chipRst w) s = .next t ∧ t = { (s.writeCycle w.path).bump .MP_ERR_COUNT with pcieUp := t.pcieUp })

/-- The thermal shutdown drives THERMTRIP# low, releases HOT# and FAN_MAX# and stops the clocks with everything kept (R507);
undervoltage stops the clocks with THERMTRIP# released and all state lost (R527); PERST# takes only the endpoint (R531). -/
def Obligations.ClockStopsAndPerst : Prop :=
  ∀ s : State, s.power = .run → s.thermtripLow = false →
    (∃ t, exec .thermtrip s = .next t ∧ t.thermtripLow = true ∧ t.power = .stoppedHot ∧ t.therm.hotLow = false ∧
      t.therm.fanMaxDrive = false ∧ (∀ f i, t.fld f i = s.fld f i) ∧ (∀ f i, t.shd f i = s.shd f i) ∧ ∀ a, t.byte a = s.byte a) ∧
    (∃ t, exec .undervoltageStop s = .next t ∧ t.thermtripLow = false ∧ t.power = .stoppedRail ∧ t.lost) ∧
    (∃ t, exec .perst s = .next t ∧ t = { s with pcieUp := false, bus := [] })

/-- A function level reset of the VF of hearth `h` starts the hearth's reset: RESETTING reads 1, no ember, taken record or queued
instruction of the hearth is left, no reuse latch is valid, the six queue indices, the error bits and FENCE are 0 and every seal of
its windows is lifted in both copies. One of the PF touches no hearth. A write of 1 to HEARTH_CTL.RESET starts the same reset through
every path that reaches the register; RESET_DONE ends it once no store of the hearth is on its way, and is written as ash entry 0 where the ash
queue takes it. -/
def Obligations.HearthReset : Prop :=
  ((∀ (s : State) (h : Fin 16), s.power = .run → s.flag .HEARTH_STAT_RESETTING h = false →
     ∃ t, exec (.functionLevelReset (Fin.ofNat 17 (h.val + 1))) s = .next t ∧ t.flag .HEARTH_STAT_RESETTING h = true ∧
       (∀ f ∈ [Fld.SQ_TAIL, .SQ_HEAD, .CQ_TAIL, .CQ_HEAD, .AQ_TAIL, .AQ_HEAD, .HEARTH_STAT_DB_ERR, .HEARTH_STAT_CFG_ERR,
         .HEARTH_STAT_AQ_OVER, .HEARTH_CTL_FENCE], t.fld f h = 0) ∧
       (∀ n : Fin 16, t.fld .WIN_BASE_LO_SEAL (h * 16 + n) = 0 ∧ t.shd .WIN_BASE_LO_SEAL (h * 16 + n) = 0) ∧
       t.latches = [] ∧ (∀ r ∈ t.taken, r.hearth ≠ h) ∧ (t.hearth h).iq = [] ∧
       ∀ e, (t.ember e).live = true → (t.ember e).hearth ≠ h) ∧
   ∀ s : State, s.power = .run → exec (.functionLevelReset 0) s = .next s) ∧
  ((∀ (s : State) (p : Path) (h : Fin 16) (v : Word32), s.power = .run → s.reaches p 0x43C h →
     s.flag .HEARTH_STAT_RESETTING h = false → v.toNat.testBit 1 = true →
     ∃ t, exec (.reset p h v) s = .next t ∧ t.flag .HEARTH_STAT_RESETTING h = true ∧ t.flag .HEARTH_CTL_RESET h = true ∧
       ∀ f ∈ [Fld.SQ_TAIL, .SQ_HEAD, .CQ_TAIL, .CQ_HEAD, .AQ_TAIL, .AQ_HEAD], t.fld f h = 0) ∧
   ∀ (s : State) (h : Fin 16), s.power = .run → s.flag .HEARTH_STAT_RESETTING h = true → s.onBus h = false →
     (s.hearth h).ashHold = [] → 16 ≤ s.aqN h → s.fld .AQ_TAIL h = 0 → s.fld .AQ_HEAD h = 0 →
     s.hearthFault h (s.global (queueEntry (s.fld .AQ_CFG_BASE_IDX h) (s.aqN h) 64 0)) 64 .w = 0 →
     ∃ t, exec (.resetDone h) s = .next t ∧ t.flag .HEARTH_STAT_RESETTING h = false ∧ t.flag .HEARTH_CTL_RESET h = false ∧
       t.fld .AQ_TAIL h = 1 ∧
       t.bytes (queueEntry (s.fld .AQ_CFG_BASE_IDX h) (s.aqN h) 64 0) 64 =
         ashBytes { cause := 0x3E, origin := 4, arg := (s.hearth h).discStores, len := (s.hearth h).discWork,
                    issue := s.now, fail := s.now } 0 ∧
       ∀ a, (a < queueEntry (s.fld .AQ_CFG_BASE_IDX h) (s.aqN h) 64 0 ∨ queueEntry (s.fld .AQ_CFG_BASE_IDX h) (s.aqN h) 64 0 + 64 ≤ a) →
         t.byte a = s.byte a)

/-- A read frame whose first word lies well and names an instance returns that word as it stands at the start of the word's own cycle,
most significant byte first, then 0xA0; a burst of n words returns 5 n bytes, and MISO is low over the header's 16 rises before them.
Where its place is bad, the word is 0 and the status says why. No register changes but MP_STAT, MP_ERR_COUNT and the capture of
TICK_COUNT; no memory byte does. A frame too soon after a reset is ignored (R530). -/
def Obligations.PortReads : Prop :=
  ∀ (s : State) (op addr : Byte) (n : Nat), s.power = .run → frameOp op % 2 = 0 → (frameOp op = 0 → n = 1) → 0 < n →
    (s.clk < s.portAt → exec (if frameOp op = 0 then .singleRead op addr else .burstRead op addr n) s = .next s) ∧
    (s.portAt ≤ s.clk → ∃ t, exec (if frameOp op = 0 then .singleRead op addr else .burstRead op addr n) s = .next t ∧
      t.miso.length = 5 * n ∧ t.misoLine = readLine t.miso ∧
      (placeStatus op (frameBase op addr) (frameBase op addr) ≠ stOk →
        t.miso.take 5 = [0, 0, 0, 0, BitVec.ofNat 8 (placeStatus op (frameBase op addr) (frameBase op addr))]) ∧
      (placeStatus op (frameBase op addr) (frameBase op addr) = stOk → s.portInst (frameBase op addr) = none →
        t.miso.take 5 = [0, 0, 0, 0, 0xA5]) ∧
      (∀ i, placeStatus op (frameBase op addr) (frameBase op addr) = stOk → s.portInst (frameBase op addr) = some i →
        t.miso.take 5 = beBytes ((s.advance 1).readReg .mp (s.flag .PORT_SEL_READ_SEL) (frameBase op addr) i) ++ [0xA0]) ∧
      (∀ a, t.byte a = s.byte a) ∧ (∀ g j, t.shd g j = s.shd g j) ∧
      ∀ (g : Fld) (j : Nat), g ≠ .MP_STAT_LAST_CODE → g ≠ .MP_STAT_FRAME_ERR → g ≠ .MP_ERR_COUNT → g ≠ .TICK_COUNT_HI →
        t.fld g j = s.fld g j)

/-- A single write: a bad CRC discards it with CRC_ERR, a bad place with FRAME_ERR, a refused expert write with EXPERT_OFF, and
nothing but MP_STAT and MP_ERR_COUNT changes (for the refused expert write: no other register and no memory byte outside the offset
written). Else it is applied as the register file takes it in a cycle of its own, BURST_DONE reads 1 and the status is 0xA0; a write that resets the chip
loses its frame (R498, log entry 56). -/
def Obligations.PortSingleWrite : Prop :=
  ∀ (s : State) (op addr : Byte) (d : Word32) (crc : Byte), s.power = .run → s.portAt ≤ s.clk → frameOp op = 1 →
    ∃ t, exec (.singleWrite op addr d crc) s = .next t ∧ (t.miso ≠ [] → t.misoLine = writeLine t.miso) ∧
      (crc.toNat ≠ wordCrc op (frameBase op addr) d → t.miso = [0xA1] ∧ t.flag .MP_STAT_CRC_ERR = true ∧ t.fld .MP_STAT_BURST_DONE = 0 ∧
        (∀ a, t.byte a = s.byte a) ∧
        ∀ (g : Fld) (j : Nat), g ≠ .MP_STAT_LAST_CODE → g ≠ .MP_STAT_CRC_ERR → g ≠ .MP_STAT_BURST_DONE → g ≠ .MP_ERR_COUNT →
          t.fld g j = s.fld g j) ∧
      (crc.toNat = wordCrc op (frameBase op addr) d → placeStatus op (frameBase op addr) (frameBase op addr) ≠ stOk →
        t.miso = [BitVec.ofNat 8 (placeStatus op (frameBase op addr) (frameBase op addr))] ∧ t.flag .MP_STAT_FRAME_ERR = true ∧
        t.fld .MP_STAT_BURST_DONE = 0 ∧ (∀ a, t.byte a = s.byte a) ∧
        ∀ (g : Fld) (j : Nat), g ≠ .MP_STAT_LAST_CODE → g ≠ .MP_STAT_FRAME_ERR → g ≠ .MP_STAT_BURST_DONE → g ≠ .MP_ERR_COUNT →
          t.fld g j = s.fld g j) ∧
      (∀ i, crc.toNat = wordCrc op (frameBase op addr) d → placeStatus op (frameBase op addr) (frameBase op addr) = stOk →
        s.portInst (frameBase op addr) = some i →
        (s.expertOk (frameBase op addr) i = false →
          t.miso = [0xA6] ∧ t.flag .MP_STAT_EXPERT_OFF = true ∧ t.fld .MP_STAT_BURST_DONE = 0 ∧ ∀ a, t.byte a = s.byte a) ∧
        (frameBase op addr = 0x33C → d.toNat % 256 = 0xA5 → t.miso = [] ∧ t.chip = chipCold ∧ t.fld .MP_STAT_BURST_DONE = 0) ∧
        (s.expertOk (frameBase op addr) i = true → ¬ (frameBase op addr = 0x33C ∧ d.toNat % 256 = 0xA5) →
          t.miso = [0xA0] ∧ t.fld .MP_STAT_BURST_DONE = 1 ∧ t.fld .MP_STAT_LAST_CODE = 0 ∧
          (∀ a, t.byte a = (((s.setFld .MP_STAT_BURST_DONE 0 0).writeCycle .mp).applyReg (frameBase op addr) i d.toNat 0).byte a) ∧
          ∀ (g : Fld) (j : Nat), g ≠ .MP_STAT_LAST_CODE → g ≠ .MP_STAT_BURST_DONE →
            t.fld g j = (((s.setFld .MP_STAT_BURST_DONE 0 0).writeCycle .mp).applyReg (frameBase op addr) i d.toNat 0).fld g j))

/-- A burst write whose first word fails its CRC applies no word: every word returns CRC_ERR and BURST_DONE reads 0 (R86). A burst
write that does not reach CHIP_RST returns one status per word. A frame that CS# cuts short sets SHORT_FRAME (R89), returns the
statuses of its complete words, and with no complete word changes nothing else but BURST_DONE and MP_ERR_COUNT. -/
def Obligations.PortBurstWriteAndShortFrame : Prop :=
  (∀ (s : State) (op addr : Byte) (ws : List (Word32 × Byte)), s.power = .run → s.portAt ≤ s.clk → frameOp op = 3 →
    ∃ t, exec (.burstWrite op addr ws) s = .next t ∧ (t.miso ≠ [] → t.misoLine = writeLine t.miso) ∧
      ((∀ k, k < ws.length → frameBase op addr + 4 * k ≠ 0x33C) → t.miso.length = ws.length) ∧
      ∀ w rest, ws = w :: rest → w.2.toNat ≠ wordCrc op (frameBase op addr) w.1 →
        t.miso = List.replicate ws.length 0xA1 ∧ t.fld .MP_STAT_BURST_DONE = 0 ∧ t.flag .MP_STAT_CRC_ERR = true ∧
        (∀ a, t.byte a = s.byte a) ∧
        ∀ (g : Fld) (j : Nat), g ≠ .MP_STAT_LAST_CODE → g ≠ .MP_STAT_CRC_ERR → g ≠ .MP_STAT_BURST_DONE → g ≠ .MP_ERR_COUNT →
          t.fld g j = s.fld g j) ∧
  ∀ (s : State) (op addr : Byte) (ws : List (Word32 × Byte)), s.power = .run → s.portAt ≤ s.clk → (ws = [] ∨ frameOp op = 3) →
    (∀ k, k < ws.length → frameBase op addr + 4 * k ≠ 0x33C) →
    ∃ t, exec (.shortFrame op addr ws) s = .next t ∧ t.flag .MP_STAT_SHORT_FRAME = true ∧ t.miso.length = ws.length ∧
      (ws = [] → (∀ a, t.byte a = s.byte a) ∧
        ∀ (g : Fld) (j : Nat), g ≠ .MP_STAT_SHORT_FRAME → g ≠ .MP_STAT_BURST_DONE → g ≠ .MP_ERR_COUNT → t.fld g j = s.fld g j)

/-- A BAR0 or mirror write of SCRATCH: one aligned word with every byte enable loads it and changes no other register; any form but
the two of R77 is discarded and counted (R547). A read of TICK_COUNT_LO captures TICK_COUNT[47:32]: over the management port it
returns the low word, and 8 aligned bytes through PF BAR0, a page of the mirror, or a VF's BAR0 return the whole count. Nothing else
of the registers changes but LAST_CODE. -/
def Obligations.PagedWritesAndTickCount : Prop :=
  ((∀ (s : State) (p : Path) (page : Fin 64) (d : Word64) (hw : Word32), s.power = .run → p = .pf ∨ p = .mirror →
     ∃ t, exec (.registerWrite ⟨p, BitVec.ofNat 19 (page.val * 0x1000 + 0x038), 4, 0xF, d, hw⟩) s = .next t ∧
       t.fld .SCRATCH = d.toNat % 2 ^ 32 ∧ (∀ a, t.byte a = s.byte a) ∧
       (∀ (g : Fld) (j : Nat), g ≠ .SCRATCH → t.fld g j = s.fld g j) ∧ ∀ g j, t.shd g j = s.shd g j) ∧
   ∀ (s : State) (w : RegWrite), s.power = .run → w.path ≠ .mp →
     ¬ (w.size = 4 ∧ w.off.toNat % 4 = 0 ∧ w.be = 0xF) → ¬ (w.size = 8 ∧ w.off.toNat % 8 = 0 ∧ w.be = 0xFF) →
     s.fld .MP_ERR_COUNT + 1 < 2 ^ 32 →
     ∃ t, exec (.registerWrite w) s = .next t ∧ t.fld .MP_ERR_COUNT = s.fld .MP_ERR_COUNT + 1 ∧ (∀ a, t.byte a = s.byte a) ∧
       ∀ (g : Fld) (j : Nat), g ≠ .MP_ERR_COUNT → t.fld g j = s.fld g j) ∧
  ((∀ (s : State) (off : BitVec 19) (len : Nat), s.power = .run → s.portAt ≤ s.clk → s.now < 2 ^ 48 →
     ∃ t, exec (.tickCountLo .mp off len) s = .next t ∧ t.miso = beBytes (s.now % 2 ^ 32) ++ [0xA0] ∧
       t.fld .TICK_COUNT_HI = s.now / 2 ^ 32 ∧
       ∀ (g : Fld) (j : Nat), g ≠ .TICK_COUNT_HI → g ≠ .MP_STAT_LAST_CODE → t.fld g j = s.fld g j) ∧
   ∀ (s : State) (p : Path) (page : Fin 64), s.power = .run → p ≠ .mp → s.now < 2 ^ 48 →
     ∃ t, exec (.tickCountLo p (BitVec.ofNat 19 (page.val * 0x1000 + 0x088)) 8) s = .next t ∧ leNat t.bus = s.now ∧
       t.fld .TICK_COUNT_HI = s.now / 2 ^ 32 ∧ ∀ (g : Fld) (j : Nat), g ≠ .TICK_COUNT_HI → t.fld g j = s.fld g j)

/-- BAR2, in a cycle in which the crossbar and the shares have room for the access: a write that passes its checks stores its bytes and
changes no other byte; one that a check refuses leaves every fen byte as it was; a hole takes none. A read that passes returns the
bytes and changes none, and a hole or a refused read returns all ones. Memory keeps its canonical form. -/
def Obligations.Bar2Accesses : Prop :=
  (∀ (s : State) (fn : Fin 17) (off : BitVec 35) (bs : List Byte) (a : Nat), s.power = .run →
    bar2Addr off.toNat bs.length = some a → s.bar2Fault fn a bs.length .w = 0 →
    s.bar2Free a bs.length true = true → fn = 0 ∨ s.ownNode < 256 →
    ∃ t, exec (.bar2Write fn off bs) s = .next t ∧ t.bytes a bs.length = bs ∧
      (∀ x, (x < a ∨ a + bs.length ≤ x) → t.byte x = s.byte x) ∧ (Memory.wf s.mem = true → Memory.wf t.mem = true) ∧
      ∀ (g : Fld) (j : Nat), g ≠ .REFETCH_COUNT → t.fld g j = s.fld g j) ∧
  (∀ (s : State) (fn : Fin 17) (off : BitVec 35) (bs : List Byte), s.power = .run → bar2Addr off.toNat bs.length = none →
    ∃ t, exec (.bar2Write fn off bs) s = .next t ∧ t = { s with pcieUp := true }) ∧
  (∀ (s : State) (fn : Fin 17) (off : BitVec 35) (bs : List Byte) (a : Nat), s.power = .run →
    bar2Addr off.toNat bs.length = some a → s.bar2Fault fn a bs.length .w ≠ 0 →
    ∃ t, exec (.bar2Write fn off bs) s = .next t ∧ ∀ x, x < 0x1000000000 → t.byte x = s.byte x) ∧
  (∀ (s : State) (fn : Fin 17) (off : BitVec 35) (n a : Nat), s.power = .run → bar2Addr off.toNat n = some a →
    s.bar2Fault fn a n .r = 0 → s.bar2Free a n false = true →
    ∃ t, exec (.bar2Read fn off n) s = .next t ∧ t.bus = s.bytes a n ∧ (∀ x, t.byte x = s.byte x) ∧ ∀ g j, t.fld g j = s.fld g j) ∧
  (∀ (s : State) (fn : Fin 17) (off : BitVec 35) (n : Nat), s.power = .run →
    (bar2Addr off.toNat n = none ∨ ∃ a, bar2Addr off.toNat n = some a ∧ s.bar2Fault fn a n .r ≠ 0) →
    ∃ t, exec (.bar2Read fn off n) s = .next t ∧ t.bus = List.replicate n 255)

/-- A COMMIT of 1 takes a snapshot of the whole shadow group through every path that reaches its register, in place of an earlier one
of the group that is for the same boundary, and changes no field but LAST_CODE and BURST_DONE; one of 0 takes none (R97). One taken in
cycle B − 64 or later is for the boundary after B (R63). The two groups whose COMMIT stands in an expert sub-range need GLOBAL_EXPERT
(R102); TICK is refused with CFG_ERR from KINDLING to DAMPING (R71), and KVPOOL while the hearth has an open sequence (Table 11.6). -/
def Obligations.CommitTakesASnapshot : Prop :=
  ∀ (s : State) (p : Path) (v : Word32) (g : Group) (reg : Nat), s.power = .run → commitAt reg (groupInst g) = some g →
    s.reaches p reg (groupInst g) → (g = .ember ∨ g = .cal → s.flag .EXPERT_CTL_GLOBAL_EXPERT = true) →
    (v.toNat.testBit 0 = true → (g = .tick → s.chip < chipKindling ∨ chipDamping < s.chip) →
      (∀ t, g = .kvpool t → s.seqOpen t = 0) →
      ∃ t, exec (commitOf p v g) s = .next t ∧
        t.commits = s.commits.filter (fun c => c.grp != g || c.bound || c.late != (s.writeCycle p).within 64) ++
          [{ grp := g, vals := s.snapshot g, bound := false, late := (s.writeCycle p).within 64 }] ∧
        (∀ f i, t.shd f i = s.shd f i) ∧ (∀ a, t.byte a = s.byte a) ∧
        ∀ (f : Fld) (i : Nat), f ≠ .MP_STAT_LAST_CODE → f ≠ .MP_STAT_BURST_DONE → t.fld f i = s.fld f i) ∧
    (v.toNat.testBit 0 = false → ∃ t, exec (commitOf p v g) s = .next t ∧ t.commits = s.commits ∧
        (∀ f i, t.shd f i = s.shd f i) ∧ (∀ a, t.byte a = s.byte a) ∧
        ∀ (f : Fld) (i : Nat), f ≠ .MP_STAT_LAST_CODE → f ≠ .MP_STAT_BURST_DONE → t.fld f i = s.fld f i) ∧
    (v.toNat.testBit 0 = true → g = .tick → chipKindling ≤ s.chip → s.chip ≤ chipDamping →
      ∃ t, exec (commitOf p v g) s = .next t ∧ t.commits = s.commits ∧ t.flag .TICK_STAT_CFG_ERR = true) ∧
    (∀ h, v.toNat.testBit 0 = true → g = .kvpool h → s.seqOpen h ≠ 0 →
      ∃ t, exec (commitOf p v g) s = .next t ∧ t.commits = s.commits ∧ t.flag .KV_HSTAT_CFG_ERR h = true)

/-- Before the first lock a pending snapshot that passes its group's checks becomes the active copy, every field of the group with
the value it had at the COMMIT; one that fails only sets the group's CFG_ERR. The shadow copy stays as it is either way (R12, R98,
R100). -/
def Obligations.GroupApplies : Prop :=
  ∀ (s : State) (g : Group) (c : Snapshot), s.power = .run → s.tk.firstLock = false → s.commits.find? (·.grp = g) = some c →
    ∃ t, exec (.groupApply g) s = .next t ∧ t.commits = s.commits.erase c ∧ (∀ f i, t.shd f i = s.shd f i) ∧
      (∀ a, t.byte a = s.byte a) ∧
      (({ s with commits := s.commits.erase c } : State).snapOk g c.vals = true → ∀ e ∈ groupCells g, t.fld e.1 e.2 = snapVal c.vals e.1 e.2 % 2 ^ e.1.width) ∧
      (({ s with commits := s.commits.erase c } : State).snapOk g c.vals = false → (∀ e ∈ groupCells g, t.fld e.1 e.2 = s.fld e.1 e.2) ∧
        t = ({ s with commits := s.commits.erase c } : State).cfgErr g)

/-- A TICK snapshot whose TICK_LEN_K lies outside 4 to 128, or whose TICK_SRC is 3, does not apply: the active copy stays, the
shadow copy keeps the written values and CFG_ERR is set, before the first lock and at a boundary. -/
def Obligations.BadTickGroupIsRefused : Prop :=
  ∀ (s : State) (c : Snapshot), c.grp = .tick →
    (snapVal c.vals .TICK_CFG_TICK_LEN_K 0 < 4 ∨ 128 < snapVal c.vals .TICK_CFG_TICK_LEN_K 0 ∨ snapVal c.vals .TICK_CFG_TICK_SRC 0 = 3) →
    (s.applySnap c).flag .TICK_STAT_CFG_ERR = true ∧ (∀ f i, (s.applySnap c).shd f i = s.shd f i) ∧
    (∀ (f : Fld) (i : Nat), f ≠ .TICK_STAT_CFG_ERR → (s.applySnap c).fld f i = s.fld f i) ∧
    (s.power = .run → s.tk.firstLock = false → s.commits.find? (·.grp = .tick) = some c →
      ∃ t, exec (.groupApply .tick) s = .next t ∧ t = ({ s with commits := s.commits.erase c } : State).applySnap c)

/-- PORT_SEL is the management port's alone: it reads 0 on every other path, and a write through one changes no register field but
is counted; the port itself loads it. -/
def Obligations.PortSelIsThePortsOwn : Prop :=
  (∀ (s : State) (p : Path) (off : Nat), p ≠ .mp → off % 0x1000 = 0x014 → s.readPage p off = 0) ∧
  (∀ (s : State) (w : RegWrite), s.power = .run → w.path ≠ .mp → w.off.toNat % 0x1000 = 0x014 → w.size = 4 → w.be = 0xF →
    ∃ t, exec (.registerWrite w) s = .next t ∧ t = { (s.writeCycle w.path).bump .MP_ERR_COUNT with pcieUp := t.pcieUp }) ∧
  (∀ (s : State) (w : RegWrite), s.power = .run → w.path = .mp → s.portAt ≤ s.clk → w.off.toNat % 0x1000 = 0x014 →
    ∃ t, exec (.registerWrite w) s = .next t ∧ t.fld .PORT_SEL_TENANT_SEL = bitsOf w.data.toNat 0 4 ∧
      t.fld .PORT_SEL_CHAN_SEL = bitsOf w.data.toNat 8 6 ∧ t.fld .PORT_SEL_LINK_SEL = bitsOf w.data.toNat 16 5 ∧
      t.fld .PORT_SEL_READ_SEL = bitsOf w.data.toNat 24 1) ∧
  ∀ (s : State) (w : RegWrite), s.power = .run → w.path ≠ .mp → w.off.toNat % 0x1000 = 0x010 → w.size = 8 → w.be = 0xFF →
    ∃ t, exec (.registerWrite w) s = .next t ∧ ∀ (f : Fld) (i : Nat), f ≠ .MP_ERR_COUNT → t.fld f i = s.fld f i

/-- EXPERT_CTL is loaded by writes over the management port and through PF BAR0, and by no other: one through a VF or the mirror
changes nothing but MP_ERR_COUNT. -/
def Obligations.ExpertCtlPaths : Prop :=
  (∀ (s : State) (w : RegWrite), s.power = .run → w.off.toNat % 0x1000 = 0x02C →
    ((w.path = .mp ∧ s.portAt ≤ s.clk) ∨ (w.path = .pf ∧ w.size = 4 ∧ w.be = 0xF) →
      ∃ t, exec (.registerWrite w) s = .next t ∧ t.fld .EXPERT_CTL_TENANT_EXPERT = bitsOf w.data.toNat 0 16 ∧
        t.fld .EXPERT_CTL_GLOBAL_EXPERT = bitsOf w.data.toNat 16 1) ∧
    (w.path ≠ .mp → w.path ≠ .pf → w.size = 4 → w.be = 0xF →
      ∃ t, exec (.registerWrite w) s = .next t ∧ t = { (s.writeCycle w.path).bump .MP_ERR_COUNT with pcieUp := t.pcieUp })) ∧
  ∀ (s : State) (w : RegWrite), s.power = .run → w.path ≠ .mp → w.path ≠ .pf → w.off.toNat % 0x1000 = 0x028 → w.size = 8 → w.be = 0xFF →
    ∃ t, exec (.registerWrite w) s = .next t ∧ ∀ (f : Fld) (i : Nat), f ≠ .MP_ERR_COUNT → t.fld f i = s.fld f i

/-- Writes that lose units, through every path that reaches the register with GLOBAL_EXPERT: every fen channel, slice or mixer array
whose bit is written with 1 is not live afterwards, a loss sets UNIT_LOST, and a fencing starts the page-table scan (R23, R218, R251,
R390). Without GLOBAL_EXPERT a write to an expert register is refused through every path: it is counted, the management port shows
EXPERT_OFF, and no unit, commit, heat slot or tag changes (R102, R547). -/
def Obligations.KillRegisters : Prop :=
  (∀ (s : State) (p : Path) (v : Word32), s.power = .run → s.flag .EXPERT_CTL_GLOBAL_EXPERT = true →
     (s.reaches p 0x070 0 → ∃ t, exec (.fenKill p v) s = .next t ∧ (∀ n, n < 16 → v.toNat.testBit n = true → t.fbit .FEN_LIVE 0 n = false) ∧
       ((∃ n, n < 16 ∧ v.toNat.testBit n = true ∧ s.fbit .FEN_LIVE 0 n = true) →
         t.flag .ALERT_STAT_UNIT_LOST = true ∧ t.flag .KV_STAT_SCAN = true)) ∧
     (s.reaches p 0x1A0 0 → ∃ t, exec (.sliceKill p v) s = .next t ∧ (∀ n, n < 16 → v.toNat.testBit n = true → t.fbit .SLICE_LIVE 0 n = false) ∧
       ((∃ n, n < 16 ∧ v.toNat.testBit n = true ∧ s.fbit .SLICE_LIVE 0 n = true) → t.flag .ALERT_STAT_UNIT_LOST = true)) ∧
     (s.reaches p 0x1E0 0 → ∃ t, exec (.mixKill p v) s = .next t ∧ (∀ n, n < 32 → v.toNat.testBit n = true → t.fbit .MIXER_LIVE 0 n = false) ∧
       ((∃ n, n < 32 ∧ v.toNat.testBit n = true ∧ s.fbit .MIXER_LIVE 0 n = true) → t.flag .ALERT_STAT_UNIT_LOST = true))) ∧
  (∀ (s : State) (p : Path) (v : Word32), s.power = .run → s.flag .EXPERT_CTL_GLOBAL_EXPERT = false → (p = .mp → s.portAt ≤ s.clk) →
     ∀ c ∈ [Instr.fenKill p v, .sliceKill p v, .mixKill p v, .heatForce p false v, .heatForce p true v, .kvTagReset p v,
            .arm p v, .embCommit p v, .calCommit p v],
       ∃ t, exec c s = .next t ∧ (p = .mp → t.flag .MP_STAT_EXPERT_OFF = true ∧ t.fld .MP_STAT_LAST_CODE = 6) ∧
         (s.fld .MP_ERR_COUNT + 1 < 2 ^ 32 → t.fld .MP_ERR_COUNT = s.fld .MP_ERR_COUNT + 1) ∧ t.commits = s.commits ∧ t.heat = s.heat ∧
         t.tags = s.tags ∧ ∀ f ∈ [Fld.FEN_LIVE, .SLICE_LIVE, .MIXER_LIVE], t.fld f = s.fld f)

/-- Expert commands through every path that reaches their registers, with their frames: ARM loads the slice and row of the trace, arms it
if its bit is 1 and leaves it as it was if not; HEAT_FORCE readies an IDLE or FAILED slot and no other; GO returns a CONFIRMED or
SQUASHED tag to IDLE and leaves an OPEN one (R221, R359, R391). Only LAST_CODE and BURST_DONE change beside. -/
def Obligations.ExpertCommands : Prop :=
  ∀ (s : State) (p : Path) (v : Word32), s.power = .run → s.flag .EXPERT_CTL_GLOBAL_EXPERT = true →
    (s.reaches p 0x1A4 0 → p = .mp ∨ s.lastHw = none → ∃ t, exec (.arm p v) s = .next t ∧
      t.fld .TRACE_CTL_SL = bitsOf v.toNat 0 4 ∧ t.fld .TRACE_CTL_ROW = bitsOf v.toNat 8 6 ∧
      t.flag .TRACE_CTL_ARM = (v.toNat.testBit 16 || s.flag .TRACE_CTL_ARM) ∧ (v.toNat.testBit 17 = true → t.flag .TRACE_CTL_DONE = false) ∧
      (∀ (f : Fld) (i : Nat), f ≠ .TRACE_CTL_SL → f ≠ .TRACE_CTL_ROW → f ≠ .TRACE_CTL_ARM → f ≠ .TRACE_CTL_DONE →
        f ≠ .MP_STAT_LAST_CODE → f ≠ .MP_STAT_BURST_DONE → t.fld f i = s.fld f i) ∧
      (∀ a, t.byte a = s.byte a) ∧ t.heat = s.heat ∧ t.tags = s.tags) ∧
    (∀ hi : Bool, s.reaches p (0x260 + 4 * b2n hi) 0 → ∃ t, exec (.heatForce p hi v) s = .next t ∧
      (∀ n, t.heatSt n =
        if 32 * b2n hi ≤ n ∧ n < 32 * b2n hi + 32 ∧ v.toNat.testBit (n - 32 * b2n hi) = true ∧ (s.heatSt n = 0 ∨ s.heatSt n = 3) then 2
        else s.heatSt n) ∧
      (∀ (f : Fld) (i : Nat), f ≠ .MP_STAT_LAST_CODE → f ≠ .MP_STAT_BURST_DONE → t.fld f i = s.fld f i) ∧
      (∀ a, t.byte a = s.byte a) ∧ t.tags = s.tags) ∧
    (s.reaches p 0x2A0 0 → ∃ t, exec (.kvTagReset p v) s = .next t ∧
      t.tag (bitsOf v.toNat 8 4) (bitsOf v.toNat 0 8) =
        (if v.toNat.testBit 16 = true ∧ ((s.tag (bitsOf v.toNat 8 4) (bitsOf v.toNat 0 8)).st = 2 ∨ (s.tag (bitsOf v.toNat 8 4) (bitsOf v.toNat 0 8)).st = 3)
         then {} else s.tag (bitsOf v.toNat 8 4) (bitsOf v.toNat 0 8)) ∧
      (∀ h g, h * 256 + g ≠ bitsOf v.toNat 8 4 * 256 + bitsOf v.toNat 0 8 → t.tag h g = s.tag h g) ∧
      t.fld .KV_TAG_RESET_TAG = bitsOf v.toNat 0 8 ∧ t.fld .KV_TAG_RESET_HEARTH = bitsOf v.toNat 8 4 ∧
      (∀ (f : Fld) (i : Nat), f ≠ .KV_TAG_RESET_TAG → f ≠ .KV_TAG_RESET_HEARTH → f ≠ .MP_STAT_LAST_CODE → f ≠ .MP_STAT_BURST_DONE →
        t.fld f i = s.fld f i) ∧
      (∀ a, t.byte a = s.byte a) ∧ t.heat = s.heat)

/-- Through every path that reaches it, the doorbell replaces SQ_TAIL and changes nothing else of the registers but LAST_CODE and
BURST_DONE, unless the occupancy would exceed N: then it only sets DB_ERR (R471). -/
def Obligations.Doorbell : Prop :=
  ∀ (s : State) (p : Path) (h : Fin 16) (v : Word32), s.power = .run → s.reaches p 0x424 h →
    ∃ t, exec (.sqTail p h v) s = .next t ∧
      (occupancy v.toNat (s.fld .SQ_HEAD h) ≤ s.sqN h → t.fld .SQ_TAIL h = v.toNat ∧
        ∀ (f : Fld) (i : Nat), f ≠ .SQ_TAIL → f ≠ .MP_STAT_LAST_CODE → f ≠ .MP_STAT_BURST_DONE → t.fld f i = s.fld f i) ∧
      (s.sqN h < occupancy v.toNat (s.fld .SQ_HEAD h) → t.flag .HEARTH_STAT_DB_ERR h = true ∧
        ∀ (f : Fld) (i : Nat), f ≠ .HEARTH_STAT_DB_ERR → f ≠ .MP_STAT_LAST_CODE → f ≠ .MP_STAT_BURST_DONE → t.fld f i = s.fld f i) ∧
      (∀ i : Nat, i % 1024 ≠ h → t.fld .SQ_TAIL i = s.fld .SQ_TAIL i) ∧ (∀ a, t.byte a = s.byte a)

/-- Requests through every path that reaches their registers. KINDLE in LOCKED clears KINDLE_FAIL and is kept for the boundary; at the
chimney it counts as ready. A software bank request is kept in BANK_REQ and reaches the chimney's own book: that of the next marker
before cycle B − 1,024, that of the one after it from there on. LEAVE and DAMP act by the chip's state (R54, R66, R446, R513). Through
the mirror and a virtual function DAMP is refused and counted; KV_POOL_TOP takes a value only while the hearth has no open sequence, and else sets TOP_BUSY; a
peer's index outside the ring's range is refused with IDX_ERR, one inside replaces it (R345, R513, Table 11.6). -/
def Obligations.RequestRegisters : Prop :=
  (∀ (s : State) (p : Path) (v : Word32), s.power = .run → v.toNat.testBit 0 = true →
     (s.reaches p 0x094 0 → s.chip = chipLocked → ∃ t, exec (.kindle p v) s = .next t ∧ t.fld .TICK_STAT_KINDLE_FAIL = 0 ∧ t.tk.kindleWait = true ∧
       (s.isChimney = true → s.ownNode ∈ t.asked.ready)) ∧
     (s.reaches p 0x094 0 → s.chip ≠ chipLocked → ∃ t, exec (.kindle p v) s = .next t ∧ t.tk = s.tk) ∧
     (s.reaches p 0x098 0 → s.flag .BANK_CTRL_BANK_REQ = false → ∃ t, exec (.bankReq p v) s = .next t ∧ t.flag .BANK_CTRL_BANK_REQ = true ∧
       (s.isChimney = true → t.asked.bankSoft = true)) ∧
     (s.reaches p 0xE08 0 → ∃ t, exec (.leave p v) s = .next t ∧ t.node.leaving = true ∧ t.flag .NODE_CTL = true) ∧
     (s.reaches p 0x330 0 → ∃ t, exec (.damp p v) s = .next t ∧
       t.chip = (if s.chip = chipCold ∨ s.chip = chipLocked then chipOffReady else s.chip) ∧
       t.damp.held = (if s.chip = chipWarm ∨ s.chip = chipKindling then true else s.damp.held))) ∧
  (∀ (s : State) (p : Path) (v : Word32), s.power = .run →
     (p ≠ .mp → p ≠ .pf → ∃ t, exec (.damp p v) s = .next t ∧ t.chip = s.chip ∧ t.damp = s.damp ∧
       (s.fld .MP_ERR_COUNT + 1 < 2 ^ 32 → t.fld .MP_ERR_COUNT = s.fld .MP_ERR_COUNT + 1)) ∧
     (∀ h : Fin 16, s.reaches p 0x610 h → p = .mp ∨ s.lastHw = none → ∃ t, exec (.kvPoolTopWrite p h v) s = .next t ∧
       (s.seqOpen h = 0 → t.fld .KV_POOL_TOP h = v.toNat % 2 ^ 19) ∧
       (s.seqOpen h ≠ 0 → t.fld .KV_POOL_TOP h = s.fld .KV_POOL_TOP h ∧ t.flag .KV_HSTAT_TOP_BUSY h = true)) ∧
     ∀ c : Fin 64, s.reaches p 0xA24 c → ∃ t, exec (.ringPeerIdx p c v) s = .next t ∧
       ((isOutRing (s.ringMode c) = true ∧ occupancy v.toNat (s.fld .RING_PEER_IDX c) ≤ s.ringD c) ∨
         (isInRing (s.ringMode c) = true ∧ occupancy v.toNat (s.fld .RING_PEER_IDX c) ≤ s.ringN c - s.ringD c) →
         t.fld .RING_PEER_IDX c = v.toNat) ∧
       ((isOutRing (s.ringMode c) = true ∧ s.ringD c < occupancy v.toNat (s.fld .RING_PEER_IDX c)) ∨
         (isInRing (s.ringMode c) = true ∧ s.ringN c - s.ringD c < occupancy v.toNat (s.fld .RING_PEER_IDX c)) →
         t.fld .RING_PEER_IDX c = s.fld .RING_PEER_IDX c ∧ t.flag .RING_STAT_IDX_ERR c = true))

/-- CH_CTRL, through every path that reaches it: START with room in the queue queues one register-path transfer, and so does one in the
cycle in which hardware clears START; it is lost while START is 1 or the queue is full; PAUSE turns a running open context to PAUSING;
a pause that has taken effect ends with PAUSE cleared and the context runs from its running registers; ENABLE set ends FAULTED (log
entry 27), unless a fault comes in the same cycle (R305, R308, R318, R320). -/
def Obligations.ChannelControl : Prop :=
  ∀ (s : State) (p : Path) (c : Fin 64), s.power = .run → s.reaches p 0x800 c → p = .mp ∨ s.lastHw = none →
    (∀ h (v : Word32) (hw : Bool), s.chanOwner c = some h → s.flag .CH_CTRL_START c = hw → (s.chan c).queue.length < 16 →
      v.toNat.testBit 0 = true → v.toNat.testBit 1 = s.flag .CH_CTRL_PAUSE c →
      ∃ t, exec (.start p c v hw) s = .next t ∧ t.flag .CH_CTRL_START c = true ∧
        (t.chan c).queue.length = (s.chan c).queue.length + 1) ∧
    (∀ v : Word32, (s.flag .CH_CTRL_START c = true ∨ 16 ≤ (s.chan c).queue.length) → v.toNat.testBit 0 = true →
      v.toNat.testBit 1 = s.flag .CH_CTRL_PAUSE c →
      ∃ t, exec (.start p c v false) s = .next t ∧ t.flag .CH_STAT_START_LOST c = true ∧ (t.chan c).queue = (s.chan c).queue) ∧
    (s.flag .CH_CTRL_PAUSE c = false → s.chSt c = chRunning ∨ s.chSt c = chPreempted →
      ∃ t, exec (.pause p c) s = .next t ∧ t.flag .CH_CTRL_PAUSE c = true ∧ t.chSt c = chPausing ∧ t.chan c = s.chan c) ∧
    (s.fld .CH_CTRL_PAUSE c = 1 → s.chSt c = chPaused → s.fld .REMAIN c ≠ 0 →
      ∃ t, exec (.dmaResume p c) s = .next t ∧ t.flag .CH_CTRL_PAUSE c = false ∧ t.chSt c = chRunning ∧
        (t.chan c).opn.left = s.fld .REMAIN c ∧ (t.chan c).pln = (s.chan c).pln) ∧
    (s.fld .CH_CTRL_PAUSE c < 2 →
      (∃ t, exec (.enable p c false) s = .next t ∧ t.flag .CH_CTRL_ENABLE c = true ∧ t.chSt c ≠ chFaulted) ∧
      (∃ t, exec (.enable p c true) s = .next t ∧ t.flag .CH_CTRL_ENABLE c = false ∧ t.chSt c = s.chSt c))

/-- When the register clock becomes FCLK, FCLK_UP reads 1, every link that software does not bar trains from its effective presets,
no other link changes state, and the tray election starts with this chip's own priority and DIE_ID (R495, R496, R551). -/
def Obligations.FclkUpStartsLinksAndElection : Prop :=
  ∀ s : State, s.power = .run → s.flag .CLK_STAT_PLL_ON = true → s.flag .MP_STAT_FCLK_UP = false →
    ∃ t, exec .fclkUp s = .next t ∧ t.flag .MP_STAT_FCLK_UP = true ∧
      (∀ n, n < 24 → s.barred n = false → t.lk n = lkTraining ∧ ∀ k, k < 4 → t.fld (eqNow k) n = s.eqEff n k) ∧
      (∀ n, n < 24 → s.barred n = true → t.lk n = s.lk n) ∧ t.node.scope = 1 ∧ t.node.bestDie = s.fuses.dieId.toNat ∧
      t.node.bestPrio = s.fld .NODE_CFG_ELECT_PRIO ∧ ∀ a, t.byte a = s.byte a

/-- TICK_LOCK on an elected domain chimney whose source agrees raises LOCKED; the first one opens tick 0 at cycle 0 and ends COLD if
every link has settled. With a source that does not agree, LOCKED stays 0 and SRC_CONFLICT is set (R65, R443, R552). Losing the lock
clears LOCKED, sets SOURCE_LOST and marks every running plan for suspension; LOCKED falls back to COLD, kindling fails with code 1,
WARM stays WARM (R65, R69, R553). -/
def Obligations.TickLockAndItsLoss : Prop :=
  (∀ s : State, s.power = .run → s.isChimney = true → s.flag .TICK_STAT_LOCKED = false → s.flag .ELECT_STAT_ELECT_DONE = true →
     (s.sourceAgrees = true → ∃ t, exec .tickLock s = .next t ∧ t.flag .TICK_STAT_LOCKED = true ∧
       (s.tk.firstLock = false → t.now = 0 ∧ t.cyc = 0 ∧ t.tk.firstLock = true) ∧
       t.chip = (if s.chip = chipCold ∧ (upTo 24).all s.settled = true then chipLocked else s.chip) ∧
       (∀ a, t.byte a = s.byte a) ∧
       ∀ (f : Fld) (i : Nat), f ≠ .TICK_STAT_LOCKED → f ≠ .TICK_COUNT → f ≠ .TICK_STAT_CHIP_STATE → t.fld f i = s.fld f i) ∧
     (s.sourceAgrees = false → ∃ t, exec .tickLock s = .next t ∧ t = s.setFld .ELECT_STAT_SRC_CONFLICT 0 1)) ∧
  (∀ s : State, s.power = .run → s.flag .TICK_STAT_LOCKED = true →
     ∃ t, exec .lockLost s = .next t ∧ t.flag .TICK_STAT_LOCKED = false ∧ t.flag .TICK_STAT_SOURCE_LOST = true ∧ t.tk.srcLost = true ∧
       (s.chip = chipLocked ∨ s.chip = chipKindling → t.chip = chipCold) ∧
       (s.chip = chipKindling → t.fld .TICK_STAT_KINDLE_FAIL = 1) ∧
       (s.chip ≠ chipLocked → s.chip ≠ chipKindling → t.chip = s.chip) ∧ ∀ a, t.byte a = s.byte a)

/-- The chimney composes M(N) from what has reached it in time: it announces tick N by number, a thermal request banks tick N + 1 unless
that tick kindles, and so does a software request, in a domain of one node, while every plan that the charge would meet has slack; the
request of the chimney's own software is then granted or denied. M(N) goes out on every link in service and on TICK_OUT, and is this
node's own marker (R54 to R56, R62, R67, R434 to R436). The latch binds every commit taken before cycle B − 64 to the coming boundary,
fixes the units live up to then and takes the marker of that boundary; a marker that has not arrived sets SOURCE_LOST, and one that has
answers a follower's own request (R56, R61 to R64). -/
def Obligations.MarkersAreSentAndLatched : Prop :=
  ((∀ s : State, s.power = .run → s.isChimney = true → s.tk.firstLock = true → s.tk.composed = none → s.tk.arrived = none →
     s.tk.didLatch = false →
     ∃ t m, exec .markerCompose s = .next t ∧ t.tk.composed = some m ∧ m.hops = 0 ∧ m.lead = 1016 ∧ m.n = (s.now + 1) % 2 ^ 48 ∧
       (s.kindlesNext = true ∨ s.allReady = true → m.bankNext = false) ∧
       (s.kindlesNext = false → s.allReady = false → s.tk.bankThermal = true → m.bankNext = true) ∧
       (s.kindlesNext = false → s.allReady = false → s.tk.bankThermal = false → s.othersRun = false →
         (m.bankNext = true ↔ s.tk.bankSoft = true ∧
           ∀ p ∈ s.chargeable, (s.plan p).uid ∉ m.susp → s.slackAt p ≠ 0)) ∧
       m.susp.length ≤ 16 ∧ t.tk.bankThermal = false ∧ t.tk.bankSoft = false ∧
       (s.tk.ownAsk = some true → t.flag .BANK_CTRL_BANK_REQ = false ∧ t.tk.ownAsk = none ∧
         (m.bankNext = false → t.flag .BANK_CTRL_REQ_DENIED = true)) ∧
       (s.tk.ownAsk ≠ some true → t.fld .BANK_CTRL_BANK_REQ = s.fld .BANK_CTRL_BANK_REQ) ∧ (∀ a, t.byte a = s.byte a) ∧
       ∀ (f : Fld) (i : Nat), f ≠ .BANK_CTRL_BANK_REQ → f ≠ .BANK_CTRL_REQ_DENIED → t.fld f i = s.fld f i) ∧
   ∀ (s : State) (m : Mark), s.power = .run → s.tk.composed = some m →
     ∃ t, exec .markerSend s = .next t ∧ t.tk.composed = none ∧ t.tk.arrived = some m ∧
       (∀ n ∈ s.upLinks, markerFrame m ∈ (t.link n).txq) ∧
       (s.flag .TICK_CFG_TICK_OUT_EN = true → t.tickOut = tickOutBits m ∧ t.tickOutAt = s.clk + (s.tickLen - 1016 - s.cyc)) ∧
       (∀ f i, t.fld f i = s.fld f i) ∧ ∀ a, t.byte a = s.byte a) ∧
  (∀ s : State, s.power = .run → s.tk.firstLock = true → s.tk.didLatch = false →
     ∃ t, exec .markerLatch s = .next t ∧ t.tk.didLatch = true ∧ t.tk.latched = s.foundMarker ∧ t.tk.arrived = none ∧
       t.commits = s.commits.map (fun c => { c with bound := c.bound || !c.late }) ∧
       t.units.fixSlices = s.fld .SLICE_LIVE ||| s.units.lateSlices ∧ t.units.fixMixers = s.fld .MIXER_LIVE ||| s.units.lateMixers ∧
       t.units.fixFen = s.fld .FEN_LIVE ||| s.units.lateFen ∧
       (s.foundMarker = none → t.flag .TICK_STAT_SOURCE_LOST = true ∧ t.tk.lossAtLatch = true) ∧
       (∀ m, s.foundMarker = some m → s.isChimney = false → s.tk.ownAsk = some true →
         t.flag .BANK_CTRL_BANK_REQ = false ∧ (m.bankNext = false → t.flag .BANK_CTRL_REQ_DENIED = true)) ∧
       (∀ a, t.byte a = s.byte a) ∧
       ∀ (f : Fld) (i : Nat), f ≠ .TICK_STAT_SOURCE_LOST → f ≠ .BANK_CTRL_BANK_REQ → f ≠ .BANK_CTRL_REQ_DENIED → t.fld f i = s.fld f i)

/-- A boundary opens the next tick: TICK_COUNT goes up by one modulo 2^48 on the chimney and on every locked node, the tick starts
at cycle 0, and it is banked exactly if the last marker announced it so. -/
def Obligations.BoundaryCountsTicks : Prop :=
  ∀ s : State, s.power = .run → s.tk.firstLock = true → s.isChimney = true ∨ s.flag .TICK_STAT_LOCKED = true →
    ∃ t, exec .tickBoundary s = .next t ∧ t.now = (s.now + 1) % 2 ^ 48 ∧ t.cyc = 0 ∧
      t.flag .TICK_STAT_BANKED = s.flag .TICK_STAT_BANK_NEXT

/-- The first tick of a slack window returns every admitted plan's slack, less the charge of a banked first tick for a running plan
(R55); refresh changes nothing (R40). From WARM on the refill comes in the first cycle of a slot, once: in the current one, or in the
next one that the tick still has (with nothing astir, log entry 3), each bucket gains its hearth's share of what plans do not claim of
that slot's budget and holds at most its cap (R314); before WARM, and where the tick has no slot left, nothing changes. Kindling ends in WARM once
the boundary after its last tick has opened; a failure whose trigger holds records its code and returns to LOCKED, or to COLD
without the lock (R68, R69). -/
def Obligations.WindowsRefillAndKindlingEnd : Prop :=
  ((∀ s : State, s.power = .run → s.tk.firstLock = true → s.now % 256 = 0 →
     ∃ t, exec .slackWindowStart s = .next t ∧
       (∀ p, p < 16 → isAdmitted (s.planSt p) = true → t.fld .PLAN_STATE_SLACK_LEFT p =
         ((s.plan p).bankSlack - b2n (s.flag .TICK_STAT_BANKED && s.planSt p = plRunning)) % 2 ^ Fld.width .PLAN_STATE_SLACK_LEFT) ∧
       (∀ p, p < 16 → isAdmitted (s.planSt p) = false → t.fld .PLAN_STATE_SLACK_LEFT p = s.fld .PLAN_STATE_SLACK_LEFT p) ∧
       (∀ a, t.byte a = s.byte a) ∧ ∀ (f : Fld) (i : Nat), f ≠ .PLAN_STATE_SLACK_LEFT → t.fld f i = s.fld f i) ∧
   (∀ (s : State) (c : Fin 16), s.power = .run → exec (.fenRefresh c) s = .next s) ∧
   (∀ (s : State) (c : Nat), s.power = .run → chipWarm ≤ s.chip → s.cyc ≤ s.clk → c < s.tickLen →
     c = (if s.cyc % 64 = 0 ∧ s.fillAt ≠ s.clk + 1 then s.cyc else s.cyc / 64 * 64 + 64) → s.astir = false ∨ c = s.cyc →
     ∃ t, exec .damperRefill s = .next t ∧ t.cyc = c ∧ t.fillAt = t.clk + 1 ∧
       (∀ r h, r < 3 → h < 16 → t.credit r h =
         min (s.fld .DMP_CAP * 1024)
           (s.credit r h + (s.shareBudget r - s.claimed r (c / 64)) * s.nibble .DMP_SHARE0 .DMP_SHARE1 h / 16)) ∧
       (∀ f i, t.fld f i = s.fld f i) ∧ ∀ a, t.byte a = s.byte a) ∧
   ∀ s : State, s.power = .run →
     s.chip < chipWarm ∨ ((s.cyc % 64 ≠ 0 ∨ s.fillAt = s.clk + 1) ∧ s.tickLen ≤ s.cyc / 64 * 64 + 64) ∨ s.tickLen ≤ s.cyc →
     exec .damperRefill s = .next s) ∧
  ((∀ s : State, s.power = .run → s.chip = chipKindling → s.tk.kdone = true →
     ∃ t, exec .kindleComplete s = .next t ∧ t.chip = chipWarm ∧ (∀ a, t.byte a = s.byte a) ∧
       ∀ (f : Fld) (i : Nat), f ≠ .TICK_STAT_CHIP_STATE → t.fld f i = s.fld f i) ∧
   ∀ (s : State) (code : BitVec 4), s.power = .run → s.chip = chipKindling → s.kindleFails code.toNat = true →
     ∃ t, exec (.kindleFail code) s = .next t ∧ t.fld .TICK_STAT_KINDLE_FAIL = code.toNat ∧ t.fld .TICK_STAT_KINDLE_TICK = 0 ∧
       t.chip = (if s.flag .TICK_STAT_LOCKED then chipLocked else chipCold) ∧
       (code ≠ 4 → s.isChimney = true → t.asked.abortReq = true) ∧ (∀ a, t.byte a = s.byte a) ∧
       ∀ (f : Fld) (i : Nat), f ≠ .TICK_STAT_KINDLE_FAIL → f ≠ .TICK_STAT_KINDLE_TICK → f ≠ .TICK_STAT_CHIP_STATE → t.fld f i = s.fld f i)

/-- A sample with TJ_SAFE, taken with the factory offsets alone, at 95 °C or more sets CRIT, pulls FAN_MAX# low and on the tray
chimney drives the fans at 100 % and counts the override as it rises (log entry 48); one at 92 °C or less releases them; HOT# is low
exactly while TJ_MODEL exceeds TJ_TARGET − 5 °C (R499, R501, R502, R503). -/
def Obligations.ThermalSample : Prop :=
  ∀ (s : State) (rs : List (BitVec 10)) (rise : BitVec 10), s.power = .run → rs.length = 8 →
    ∃ t, exec (.thermalSample rs rise) s = .next t ∧
      (380 ≤ highest (fun k => reading rs k + s.tsFx k) → t.flag .THERM_STAT_CRIT = true ∧ t.therm.fanMaxDrive = true ∧
        t.therm.fanMaxLow = true ∧
        (s.flag .TRAY_POS_CHIMNEY = true → t.fld .FAN_DUTY = 100 ∧ t.flag .THERM_STAT_FAN_OVR = true ∧
          (s.flag .THERM_STAT_FAN_OVR = false → t.flag .ALERT_STAT_SAFETY = true))) ∧
      (highest (fun k => reading rs k + s.tsFx k) ≤ 368 → t.flag .THERM_STAT_CRIT = false ∧ t.therm.fanMaxDrive = false) ∧
      t.therm.hotLow = decide (4 * ((s.fld .THERM_CFG_TJ_TARGET : Int) - 5) <
        highest (fun k => reading rs k + s.tsEff k) + signedOf rise.toNat 10) ∧
      (0 ≤ highest (fun k => reading rs k + s.tsEff k) → highest (fun k => reading rs k + s.tsEff k) < 512 →
        (t.fld .TJ_MEAS_MEAS : Int) = highest fun k => reading rs k + s.tsEff k) ∧ ∀ a, t.byte a = s.byte a

/-- The tray chimney's fan loop moves its duty by at most one step, within FAN_MIN to FAN_CEIL, up while HOT# is low, down while it
is cool; a low FAN_MAX# is 100 % whatever FAN_CEIL holds, and its release ends the override. Any other chip leaves the fans alone
(R503, R510, R523). The tray chimney's poll: an enabled rail shows its reading, and a second reading in a row outside its limits
sets RAIL_FAULT; a transaction that failed keeps the register and sets BUS_ERR; the tachometers are sampled. No other chip polls
(R510 to R512). -/
def Obligations.FanLoopAndTrayPoll : Prop :=
  ((∀ (s : State) (other : Bool), s.power = .run → s.flag .TRAY_POS_CHIMNEY = true → s.therm.fanMaxLow = false →
     s.flag .FAN_FORCE_EN = false → s.therm.fanDecline = false → s.fld .THERM_CFG_FAN_MIN ≤ s.fld .FAN_DUTY →
     s.fld .FAN_DUTY ≤ s.fld .THERM_CFG_FAN_CEIL → s.fld .THERM_CFG_FAN_CEIL ≤ 100 →
     ∃ t, exec (.fanStep other) s = .next t ∧ t.fld .FAN_DUTY =
         (if s.therm.hotLow = true ∨ other = true then min (s.fld .THERM_CFG_FAN_CEIL) (s.fld .FAN_DUTY + 1)
          else if s.model < 4 * ((s.fld .THERM_CFG_TJ_TARGET : Int) - 10) then max (s.fld .THERM_CFG_FAN_MIN) (s.fld .FAN_DUTY - 1)
          else s.fld .FAN_DUTY) ∧
       (∀ a, t.byte a = s.byte a) ∧ ∀ (f : Fld) (i : Nat), f ≠ .FAN_DUTY → t.fld f i = s.fld f i) ∧
   (∀ (s : State) (other : Bool), s.power = .run → s.flag .TRAY_POS_CHIMNEY = false → exec (.fanStep other) s = .next s) ∧
   (∀ s : State, s.power = .run → ∃ t, exec .fanMaxSensed s = .next t ∧ t.therm.fanMaxLow = true ∧
     (s.flag .TRAY_POS_CHIMNEY = true → t.fld .FAN_DUTY = 100 ∧ t.flag .THERM_STAT_FAN_OVR = true) ∧
     (s.flag .TRAY_POS_CHIMNEY = false → ∀ f i, t.fld f i = s.fld f i)) ∧
   ∀ s : State, s.power = .run → s.therm.fanMaxDrive = false → s.therm.fanMaxLow = true →
     ∃ t, exec .fanMaxReleased s = .next t ∧ t.therm.fanMaxLow = false ∧ t.flag .THERM_STAT_FAN_OVR = false ∧
       t.therm.fanDecline = s.flag .THERM_STAT_FAN_OVR ∧ ∀ (f : Fld) (i : Nat), f ≠ .THERM_STAT_FAN_OVR → t.fld f i = s.fld f i) ∧
  ((∀ (s : State) (rails : List (Option (BitVec 16))) (i e : Option (BitVec 10)) (p : Option (BitVec 12)) (tachs : List (BitVec 16)),
     s.power = .run → rails.length = 8 → tachs.length = 4 → s.flag .TRAY_POS_CHIMNEY = true →
     ∃ t, exec (.trayPoll rails i e p tachs) s = .next t ∧
       (∀ r v, r < 8 → s.flag .RAIL_MAP_EN r = true → rails.getD r none = some v → t.fld .RAIL_V r = v.toNat ∧
         (v.toNat < s.fld .RAIL_LIM_LO r ∨ s.fld .RAIL_LIM_HI r < v.toNat → 1 ≤ mget 0 r s.tray.railBad →
           t.flag .TRAY_STAT_RAIL_FAULT = true)) ∧
       (∀ r, r < 8 → s.flag .RAIL_MAP_EN r = true → rails.getD r none = none →
         t.fld .RAIL_V r = s.fld .RAIL_V r ∧ t.flag .TRAY_STAT_BUS_ERR = true) ∧
       (∀ v, i = some v → t.fld .TRAY_T_INLET_T = v.toNat) ∧ (∀ v, e = some v → t.fld .TRAY_T_EXHAUST_T = v.toNat) ∧
       (i = none → t.fld .TRAY_T_INLET_T = s.fld .TRAY_T_INLET_T ∧ t.flag .TRAY_STAT_BUS_ERR = true) ∧
       (∀ f, f < 4 → t.fld .FAN_TACH f = (tachs.getD f 0).toNat) ∧ ∀ a, t.byte a = s.byte a) ∧
   ∀ (s : State) (rails : List (Option (BitVec 16))) (i e : Option (BitVec 10)) (p : Option (BitVec 12)) (tachs : List (BitVec 16)),
     s.power = .run → rails.length = 8 → tachs.length = 4 → s.flag .TRAY_POS_CHIMNEY = false → exec (.trayPoll rails i e p tachs) s = .next s)

/-- One adaptation step moves one equaliser value by one where that stays in its window, and the next step of that value is 4,096 cycles
away; a step before that, and one past the upper edge, changes nothing (R508). -/
def Obligations.EqualiserAdapts : Prop :=
  ∀ (s : State) (n : Fin 24) (k : Fin 4), s.power = .run → s.flag .EQ_CFG_ADAPT_EN n = true →
    (s.clk < mget 0 k (s.link n).eqAt → ∀ up, exec (.eqAdaptation n k up) s = .next s) ∧
    (mget 0 k (s.link n).eqAt ≤ s.clk → s.fld (eqNow k) n < s.eqHi n k → s.eqLo n k ≤ s.fld (eqNow k) n + 1 →
      ∃ t, exec (.eqAdaptation n k true) s = .next t ∧ t.fld (eqNow k) n = s.fld (eqNow k) n + 1 ∧
        mget 0 k (t.link n).eqAt = s.clk + 4096 ∧
        ∀ (f : Fld) (i : Nat), f ≠ eqNow k → t.fld f i = s.fld f i) ∧
    (mget 0 k (s.link n).eqAt ≤ s.clk → s.eqLo n k < s.fld (eqNow k) n → s.fld (eqNow k) n ≤ s.eqHi n k + 1 → s.fld (eqNow k) n < 65 →
      ∃ t, exec (.eqAdaptation n k false) s = .next t ∧ t.fld (eqNow k) n = s.fld (eqNow k) n - 1 ∧
        mget 0 k (t.link n).eqAt = s.clk + 4096 ∧
        ∀ (f : Fld) (i : Nat), f ≠ eqNow k → t.fld f i = s.fld f i) ∧
    (s.eqHi n k ≤ s.fld (eqNow k) n → exec (.eqAdaptation n k true) s = .next s)

/-- The controlled power-down passes from a stage that has ended to the next; a lone node past the last reaches OFF_READY. At its
limit the power-down is forced: FORCED is set, resident embers are counted, and taken records and queued instructions are discarded
(R514, R515). -/
def Obligations.ControlledPowerDown : Prop :=
  (∀ s : State, s.power = .run → s.chip = chipDamping → s.dampEnds = true →
    ∃ t, exec .dampStageAdvance s = .next t ∧ (s.damp.stage < 6 → t.damp.stage = s.damp.stage + 1) ∧
      (s.damp.stage = 5 → t.chip = chipOffReady)) ∧
  ∀ s : State, s.power = .run → s.chip = chipDamping → s.fld .DAMP_CFG ≠ 0 → s.damp.entered + s.fld .DAMP_CFG ≤ s.now →
    s.flag .DAMP_STAT_FORCED = false → s.damp.stage ≠ 5 →
    ∃ t, exec .dampForce s = .next t ∧ t.flag .DAMP_STAT_FORCED = true ∧ t.damp.stage = 4 ∧ (∀ r ∈ t.taken, 16 ≤ r.hearth) ∧
      (∀ h, h < 16 → (t.hearth h).iq = []) ∧
      t.fld .DAMP_STAT_FORCED_EMBERS = (s.embers.filter fun e => e.2.live).length % 2 ^ Fld.width .DAMP_STAT_FORCED_EMBERS

/-- PLAN_LOAD into an empty slot holds the slot for its hearth in CHECKING, at the address and generation of the record; one into a
slot that is not empty is refused at once. Its decision leaves the slot ADMITTED with its slack, or EMPTY again (R47, R48). A start
or resume in the state that takes it, and a retire of a running plan, with a tick at least two ahead, wait for their boundary with
nothing else changed; one that comes too late, or in another state, is refused and leaves the plan as it is (R50, R52). -/
def Obligations.PlanLoadAndCommands : Prop :=
  ((∀ (s : State) (h : Fin 16) (r : Taken), s.power = .run → s.takenCmd h 0x10 = some r → recNum r.bytes 8 1 < 16 → r.hearth < 16 →
     (s.planSt (recNum r.bytes 8 1) = plEmpty → ∃ t l, exec (.planLoad h) s = .next t ∧ t.taken = s.taken.erase r ∧
       t.planSt (recNum r.bytes 8 1) = plChecking ∧ t.planHearth (recNum r.bytes 8 1) = r.hearth ∧
       (t.plan (recNum r.bytes 8 1)).load = some l ∧ l.addr = recNum r.bytes 16 6 ∧ l.gen = recNum r.bytes 9 1 ∧
       (∀ a, t.byte a = s.byte a) ∧
       ∀ (f : Fld) (i : Nat), f ≠ .PLAN_STATE_STATE → f ≠ .PLAN_STATE_HEARTH → t.fld f i = s.fld f i) ∧
     (s.planSt (recNum r.bytes 8 1) ≠ plEmpty → ∃ t, exec (.planLoad h) s = .next t ∧ t.taken = s.taken.erase r ∧
       t.planSt (recNum r.bytes 8 1) = s.planSt (recNum r.bytes 8 1) ∧ t.plans = s.plans ∧
       t.fld .ADMIT_STAT_REASON = 0x0D ∧ t.fld .ADMIT_STAT_PLAN_SLOT = recNum r.bytes 8 1)) ∧
   ∀ (s : State) (p : Fin 16) (l : PendLoad), s.power = .run → (s.plan p).load = some l → s.loadTurn = some p.val → s.tk.firstLock = true →
     (∀ q, s.chip = chipWarm → s.checkImage p (s.planHearth p) l = .enter q →
       ∃ t, exec (.planAdmit p) s = .next t ∧ t.planSt p = plAdmitted ∧ t.plan p = q ∧
         t.fld .PLAN_STATE_SLACK_LEFT p = q.bankSlack % 2 ^ Fld.width .PLAN_STATE_SLACK_LEFT ∧ t.fld .ADMIT_STAT_REASON = 0) ∧
     (∀ reason res, s.chip = chipWarm → s.checkImage p (s.planHearth p) l = .refuse reason res →
       ∃ t, exec (.planAdmit p) s = .next t ∧ t.planSt p = plEmpty ∧ t.fld .ADMIT_STAT_REASON = reason % 2 ^ Fld.width .ADMIT_STAT_REASON) ∧
     (∀ c a n, s.chip = chipWarm → s.checkImage p (s.planHearth p) l = .fault c a n →
       ∃ t, exec (.planAdmit p) s = .next t ∧ t.planSt p = plEmpty) ∧
     (s.chip ≠ chipWarm → ∃ t, exec (.planAdmit p) s = .next t ∧ t.planSt p = plEmpty ∧ t.fld .ADMIT_STAT_REASON = 3)) ∧
  (∀ (s : State) (h : Fin 16) (r : Taken), s.power = .run → recNum r.bytes 8 1 < 16 →
     (s.takenCmd h 0x11 = some r → s.planSt (recNum r.bytes 8 1) = plAdmitted → (s.plan (recNum r.bytes 8 1)).pend = none →
       s.now + 2 ≤ recNum r.bytes 16 6 → ∃ t c, exec (.planStart h) s = .next t ∧ t.taken = s.taken.erase r ∧
         (t.plan (recNum r.bytes 8 1)).pend = some c ∧ c.tick = recNum r.bytes 16 6 ∧ c.resume = false ∧
         (∀ f i, t.fld f i = s.fld f i) ∧ ∀ a, t.byte a = s.byte a) ∧
     (s.takenCmd h 0x12 = some r → s.planSt (recNum r.bytes 8 1) = plSuspended → (s.plan (recNum r.bytes 8 1)).pend = none →
       s.now + 2 ≤ recNum r.bytes 16 6 → ∃ t c, exec (.planResume h) s = .next t ∧ t.taken = s.taken.erase r ∧
         (t.plan (recNum r.bytes 8 1)).pend = some c ∧ c.tick = recNum r.bytes 16 6 ∧ c.resume = true ∧
         (∀ f i, t.fld f i = s.fld f i) ∧ ∀ a, t.byte a = s.byte a) ∧
     (s.takenCmd h 0x13 = some r → s.planSt (recNum r.bytes 8 1) = plRunning → (s.plan (recNum r.bytes 8 1)).retire = none →
       s.now + 2 ≤ recNum r.bytes 16 6 → ∃ t c, exec (.planRetire h) s = .next t ∧ t.taken = s.taken.erase r ∧
         (t.plan (recNum r.bytes 8 1)).retire = some c ∧ c.tick = recNum r.bytes 16 6 ∧
         (∀ f i, t.fld f i = s.fld f i) ∧ ∀ a, t.byte a = s.byte a) ∧
     (s.takenCmd h 0x11 = some r → s.planSt (recNum r.bytes 8 1) = plAdmitted → (s.plan (recNum r.bytes 8 1)).pend = none →
       recNum r.bytes 16 6 < s.now + 2 → ∃ t, exec (.planStart h) s = .next t ∧ t.plans = s.plans ∧ t.fld .ADMIT_STAT_REASON = 0x0B))

/-- A miss of a running plan whose trigger holds counts, records its cause and sets PLAN_MISS, and the slot of a plan that retires
returns to EMPTY with its last item (R52, R58). -/
def Obligations.PlanMissAndEmptySlot : Prop :=
  (∀ (s : State) (p : Fin 16) (cause : Byte), s.power = .run → s.planSt p = plRunning → s.missHolds p cause.toNat = true →
    s.fld .MISS_COUNT + 1 < 2 ^ 32 →
    ∃ t, exec (.planMiss p cause) s = .next t ∧ t.fld .PLAN_STATE_CAUSE p = cause.toNat % 2 ^ Fld.width .PLAN_STATE_CAUSE ∧
      t.fld .MISS_COUNT = s.fld .MISS_COUNT + 1 ∧ t.flag .ALERT_STAT_PLAN_MISS = true ∧ (t.plan p).missed = true ∧
      t.planSt p = plRunning ∧ (cause = 0x09 → t.flag .XB_STAT_PORT_OVER = true) ∧
      (s.isChimney = true → (s.plan p).uid ∈ t.asked.misses)) ∧
  ∀ (s : State) (p : Fin 16), s.power = .run → (s.plan p).retiring = true → s.itemsOf p = false →
    ∃ t, exec (.planSlotEmpty p) s = .next t ∧ t.planSt p = plEmpty ∧ t.plan p = {} ∧ t.fld .PLAN_STATE_HEARTH p = 0

/-- A planned item is released in its slot of its plan tick, at the slot's first cycle or as soon after it as its event comes (log entry
7): an instruction waits for its own event with its contracted cycle, a transfer waits for the planned context while that is busy, and
an ember starts in the context that the plan names; none is released in a banked tick (R29, R38, R53, R257). A NAKed planned block goes
again in a retry slot that starts at least 2 LINK_LAT after the end of the block's own slot, and in no earlier one; its plan misses if
it cannot arrive by D; a planned WRITE that has arrived becomes visible at cycle D, where nothing else is astir and the ports are free
(R41 to R43, R429; log entries 3 and 108). -/
def Obligations.PlannedReleaseAndTransfers : Prop :=
  ((∀ (s : State) (p : Fin 16) (tick slot idx : Nat), s.power = .run →
     s.planSt p = plRunning → (s.plan p).retiring = false → (s.plan p).tick = tick → s.flag .TICK_STAT_BANKED = false →
     s.cyc < 64 * slot + 64 → slot < s.tickLen / 64 →
     (∀ (w : Word128) (us : List (Fin 32)) (d : Nat), assigned (wordOpc w) = true →
       ∃ t r, exec (.planRelease p tick slot idx (.instr w us d)) s = .next t ∧ t.cyc = max s.cyc (64 * slot) ∧
         t.released = s.released ++ [r] ∧ r.plan = p.val ∧ r.index = idx ∧ r.word = w ∧ r.units = us.map (·.val) ∧
         r.contract = (if d = 0 then 0 else t.clk - (t.cyc - 64 * slot) + d) ∧
         (∀ f i, t.fld f i = s.fld f i) ∧ ∀ a, t.byte a = s.byte a) ∧
     (∀ (c : Fin 64) (ptr : BitVec 30) (d : Nat), (s.chan c).pln.xfer.isSome = true →
       ∃ t x, exec (.planRelease p tick slot idx (.dma c ptr d)) s = .next t ∧ t.cyc = max s.cyc (64 * slot) ∧
         (t.chan c).pwait = (s.chan c).pwait ++ [x] ∧ x.ptr = some ptr.toNat ∧ x.ctx.plan = p.val ∧
         (∀ f i, t.fld f i = s.fld f i) ∧ ∀ a, t.byte a = s.byte a) ∧
     (∀ (pipe : Fin 8) (k : Fin 32) (pc : BitVec 48) (d : Nat) (u : Unit),
       (s.ember (pipe * 256 + 224 + k)).live = false → (s.ember (pipe * 256 + 224 + k)).offBus = true →
       s.pcCheck (s.planHearth p) pc.toNat = .ok u →
       ∃ t, exec (.planRelease p tick slot idx (.ember pipe k pc d)) s = .next t ∧ t.cyc = max s.cyc (64 * slot) ∧
         (t.ember (pipe * 256 + 224 + k)).live = true ∧ (t.ember (pipe * 256 + 224 + k)).planned = true ∧
         (t.ember (pipe * 256 + 224 + k)).plan = p.val ∧ (t.ember (pipe * 256 + 224 + k)).hearth = s.planHearth p ∧
         (t.ember (pipe * 256 + 224 + k)).pc = pc.toNat ∧ (t.ember (pipe * 256 + 224 + k)).lean = true ∧
         (∀ f i, t.fld f i = s.fld f i) ∧ ∀ a, t.byte a = s.byte a)) ∧
   ∀ (s : State) (p : Fin 16) (tick slot idx : Nat) (item : RelItem), s.power = .run → s.flag .TICK_STAT_BANKED = true →
     exec (.planRelease p tick slot idx item) s = .next s) ∧
  ((∀ (s : State) (n : Fin 24) (seq : BitVec 12) (x : TxBlock) (e start : Nat), s.power = .run →
     (s.link n).unacked.find? (fun y => y.seq = seq.toNat && y.naked) = some x →
     (isRetryStart start = true → x.slotEnd + 2 * s.fld .LINK_LAT n ≤ start → start ≤ e + 2048 → s.fld .REPLAY_COUNT n + 1 < 2 ^ 32 →
       ∃ t, exec (.plannedReplay n seq e start) s = .next t ∧ t.fld .REPLAY_COUNT n = s.fld .REPLAY_COUNT n + 1 ∧
         (∀ y ∈ (t.link n).unacked, y.seq = seq.toNat → y.naked = false) ∧ t.plans = s.plans ∧ ∀ a, t.byte a = s.byte a) ∧
     (isRetryStart start = false ∨ start < x.slotEnd + 2 * s.fld .LINK_LAT n → exec (.plannedReplay n seq e start) s = .next s)) ∧
   (∀ (s : State) (n : Fin 24) (seq : BitVec 12) (x : TxBlock) (e start p : Nat), s.power = .run →
     (s.link n).unacked.find? (fun y => y.seq = seq.toNat && y.naked) = some x → isRetryStart start = true →
     x.slotEnd + 2 * s.fld .LINK_LAT n ≤ start → e + 2048 < start → s.blockPlan x = some p → s.planSt p = plRunning →
     ∃ t, exec (.plannedReplay n seq e start) s = .next t ∧ t.fld .PLAN_STATE_CAUSE p = 4 ∧ (t.plan p).missed = true ∧
       t.flag .ALERT_STAT_PLAN_MISS = true) ∧
   ∀ (s : State) (n : Fin 24) (f : Frame) (e : Nat), s.power = .run → frameIs 0x10 f = true → f ∈ (s.link n).held →
     s.writeFault n f = 0 → regionOf (reqAddr f) ≠ some .mirror → s.clk ≤ e → s.astir = false →
     (s.advanceTo (e + s.fld .LINK_LAT n + 2048)).arrivalFree n (reqAddr f) (reqLen f) true (framePlanned f) = true →
     ∃ t, exec (.plannedDelivery n f e) s = .next t ∧ t.clk = e + s.fld .LINK_LAT n + 2048 ∧
       t.bytes (reqAddr f) f.data.length = f.data ∧
       ∀ a, a < reqAddr f ∨ reqAddr f + f.data.length ≤ a → t.byte a = s.byte a)

/-- A link's life: block lock sends IDENT; a link that goes down leaves service, is marked in LINK_EVT, and retrains; training that
does not lock in time settles the link; a returned link whose new measurement is no worse is marked to rejoin, and any other is held
LAT_OVER (R65, R431, R433, R438). -/
def Obligations.LinkStates : Prop :=
  ∀ (s : State) (n : Fin 24), s.power = .run →
    (s.lk n = lkTraining ∨ s.lk n = lkRetrain → ∃ t, exec (.blockLock n) s = .next t ∧ t.lk n = lkIdent ∧
      s.identFrame n ∈ (t.link n).txq ∧ (∀ a, t.byte a = s.byte a) ∧
      ∀ (f : Fld) (i : Nat), f ≠ .LINK_STAT_STATE → t.fld f i = s.fld f i) ∧
    (s.lk n = lkTraining ∨ s.lk n = lkRetrain → ∃ t, exec (.linkSettleTimeout n) s = .next t ∧ (t.link n).timedOut = true ∧
      t.settled n = true ∧ ∀ a, t.byte a = s.byte a) ∧
    (s.lk n = lkUp → (s.link n).failed < 8 → s.fbit .LINK_LIVE 0 n = true → s.fld .RETRAIN_COUNT n + 1 < 2 ^ Fld.width .RETRAIN_COUNT →
      ∃ t, exec (.linkDown n) s = .next t ∧ t.lk n = lkRetrain ∧ t.fbit .LINK_LIVE 0 n = false ∧ t.flag .LINK_EVT n = true ∧
        t.flag .ALERT_STAT_LINK_CHANGE = true ∧ t.fld .RETRAIN_COUNT n = s.fld .RETRAIN_COUNT n + 1 ∧ ∀ a, t.byte a = s.byte a) ∧
    (s.lk n = lkIdent → 64 ≤ (s.link n).probes → s.latOf n ≤ 1024 →
      ∃ t, exec (.linkReturn n) s = .next t ∧ t.fld .LINK_LAT n = s.latOf n ∧
        ((s.link n).kindleLat.any (s.latOf n ≤ ·) = true → (t.link n).rejoin = true ∧ t.lk n = lkIdent) ∧
        ((s.link n).kindleLat.any (s.latOf n ≤ ·) = false → t.lk n = lkHeld ∧ t.fld .LINK_STAT_HOLD_CAUSE n = heldLatOver))

/-- A block with a bad CRC counts and is NAKed, and nothing of it is taken. A good block in its turn that carries a whole frame of
one header word is acknowledged and the frame waits for its own command (log entry 13); one out of its turn behind the window is
dropped (R426, R428). -/
def Obligations.BlockReceive : Prop :=
  ∀ (s : State) (n : Fin 24) (b : Block), s.power = .run → b.wf = true → s.hasLock n = true →
    (blkOk b = false → s.fld .BLK_ERR_COUNT n + 1 < 2 ^ Fld.width .BLK_ERR_COUNT →
      ∃ t, exec (.blockReceive n b) s = .next t ∧ t.fld .BLK_ERR_COUNT n = s.fld .BLK_ERR_COUNT n + 1 ∧
        (t.link n).nakOwed = some (s.link n).rxNext ∧ (t.link n).rxNext = (s.link n).rxNext ∧ (t.link n).rxq = (s.link n).rxq ∧
        ∀ a, t.byte a = s.byte a) ∧
    (blkOk b = true → blkNak b = false → blkSeq b = (s.link n).rxNext → (s.link n).rxNext < 4096 → (s.link n).rxHdr = [] → (s.link n).rxData = [] →
      (s.link n).rxHeld = [] → headerLen b.hdr.toNat = some 1 → dataLen b.hdr.toNat ≤ 184 → 2 ≤ frameType ⟨[b.hdr], []⟩ →
      ∃ t, exec (.blockReceive n b) s = .next t ∧
        (t.link n).rxq = (s.link n).rxq ++ [⟨[b.hdr], b.data.take (dataLen b.hdr.toNat)⟩] ∧
        (t.link n).rxNext = ((s.link n).rxNext + 1) % 4096 ∧ (t.link n).rxHdr = [] ∧ ∀ a, t.byte a = s.byte a) ∧
    (blkOk b = true → blkNak b = false → 512 ≤ (blkSeq b + 4096 - (s.link n).rxNext) % 4096 →
      ∃ t, exec (.blockReceive n b) s = .next t ∧ (t.link n).rxq = (s.link n).rxq ∧ (t.link n).rxNext = (s.link n).rxNext ∧
        (∀ f i, t.fld f i = s.fld f i) ∧ ∀ a, t.byte a = s.byte a)

/-- An identity record that fits brings its link into service in COLD, and one that does not holds it with the cause; the registers
show the far end either way (R438 to R440). A PROBE is answered with an ECHO of its number; an ECHO of the outstanding number counts
one round trip, less the turn it reports, and the next PROBE follows (R430). -/
def Obligations.IdentityAndProbes : Prop :=
  (∀ (s : State) (n : Fin 24) (f : Frame), s.power = .run → frameIs 0x02 f = true → reservedOk f = true → hdr f 0 48 8 = 1 →
     s.lk n = lkIdent → s.chip = chipCold → s.flag .LINK_FORCE_NO_IDENT n = false →
     ((s.readIdent n f).identHold n = 0 → ∃ t, exec (.ident n f) s = .next t ∧ t.lk n = lkUp ∧ t.fbit .LINK_LIVE 0 n = true ∧
       t.fld .FAR_DIE n = hdr f 1 0 64 ∧ ∀ a, t.byte a = s.byte a) ∧
     ((s.readIdent n f).identHold n ≠ 0 → ∃ t, exec (.ident n f) s = .next t ∧ t.lk n = lkHeld ∧
       t.fld .LINK_STAT_HOLD_CAUSE n = (s.readIdent n f).identHold n ∧ t.fld .FAR_DIE n = hdr f 1 0 64 ∧
       t.fld .LINK_LIVE = s.fld .LINK_LIVE ∧ ∀ a, t.byte a = s.byte a)) ∧
  ((∀ (s : State) (n : Fin 24) (f : Frame), s.power = .run → frameIs 0x03 f = true → reservedOk f = true →
     ∃ t turn, exec (.probe n f) s = .next t ∧ turn < 2048 ∧ localFrame 0x04 (hdr f 0 32 16 + turn * 2 ^ 16) ∈ (t.link n).txq ∧
       (∀ g i, t.fld g i = s.fld g i) ∧ ∀ a, t.byte a = s.byte a) ∧
   ∀ (s : State) (n : Fin 24) (f : Frame) (trip : Nat), s.power = .run → frameIs 0x04 f = true → reservedOk f = true →
     hdr f 0 32 16 = (s.link n).pid → (s.link n).probes < 63 →
     ∃ t, exec (.echo n f trip) s = .next t ∧ (t.link n).probes = (s.link n).probes + 1 ∧
       (t.link n).maxTrip = max (s.link n).maxTrip (trip - hdr f 0 48 11) ∧
       localFrame 0x03 (((s.link n).pid + 1) % 65536) ∈ (t.link n).txq ∧ (∀ g i, t.fld g i = s.fld g i) ∧ ∀ a, t.byte a = s.byte a)

/-- A follower takes the marker of its source link, and passes it on with one hop more, and the lead that is left, over every other link
in service and on TICK_OUT; the chimney, and a node that follows another link, take none (R435, R436). -/
def Obligations.MarkerIsFollowed : Prop :=
  (∀ (s : State) (n : Fin 24) (f : Frame) (late : Nat), s.power = .run → frameIs 0x08 f = true → reservedOk f = true → s.isChimney = false →
    s.tickSrc = 2 → s.srcLink = n → s.flag .NODE_ID_VALID = true →
    ∃ t lead, exec (.marker n f late) s = .next t ∧ t.tk.arrived = some (readMark f) ∧ lead = (readMark f).lead - s.fld .LINK_LAT n ∧
      (∀ k ∈ s.upLinks, k ≠ n.val → markerFrame { readMark f with hops := (readMark f).hops + 1, lead := lead } ∈ (t.link k).txq) ∧
      (s.flag .TICK_CFG_TICK_OUT_EN = true →
        t.tickOut = tickOutBits { readMark f with hops := (readMark f).hops + 1, lead := lead } ∧ t.tickOutAt = s.clk) ∧
      ∀ a, t.byte a = s.byte a) ∧
  ∀ (s : State) (n : Fin 24) (f : Frame) (late : Nat), s.power = .run → frameIs 0x08 f = true → reservedOk f = true →
    (s.isChimney = true ∨ (s.tickSrc = 2 ∧ s.srcLink ≠ n.val)) → ∃ t, exec (.marker n f late) s = .next t ∧ t.tk = s.tk

/-- Reports to the domain chimney: a bank request, a miss by its UID, a member's readiness, a failed kindling and a link event each
reach its books, those of the next marker or, from cycle B − 1,024 on, of the one after it; any other node passes the frame on by its
route. Whether the request of another node is a thermal one is free (log entry 45; R54, R59, R62, R66, R69, R437, R447, R449). -/
def Obligations.Reports : Prop :=
  (∀ (s : State) (f : Frame), s.power = .run → frameIs 0x09 f = true → reservedOk f = true → frameDst f = s.ownNode → s.isChimney = true →
    (hdr f 0 32 8 = 1 → ∃ t, exec (.reportBankReq f) s = .next t ∧ (t.asked.bankThermal = true ∨ t.asked.bankSoft = true) ∧ ∀ g i, t.fld g i = s.fld g i) ∧
    (hdr f 0 32 8 = 2 → ∃ t, exec (.reportMiss f) s = .next t ∧ hdr f 0 48 16 ∈ t.asked.misses ∧ ∀ g i, t.fld g i = s.fld g i) ∧
    (hdr f 0 32 8 = 3 → s.isMember (frameSrc f) = true → ∃ t, exec (.kindleReady f) s = .next t ∧ frameSrc f ∈ t.asked.ready ∧
      ∀ g i, t.fld g i = s.fld g i) ∧
    (hdr f 0 32 8 = 4 → ∃ t, exec (.reportKindleFail f) s = .next t ∧ t.asked.abortReq = true ∧ ∀ g i, t.fld g i = s.fld g i) ∧
    (hdr f 0 32 8 = 5 → ∃ t, exec (.linkEvent f) s = .next t ∧
      mget 0 (hdr f 1 48 8) t.node.lossCount = (if hdr f 0 40 8 = 1 then 0 else s.now + 1) ∧ ∀ g i, t.fld g i = s.fld g i)) ∧
  ∀ (s : State) (f : Frame) (k : Nat), s.power = .run → frameIs 0x09 f = true → reservedOk f = true → frameDst f ≠ s.ownNode →
    s.route (frameDst f) none = some k → hdr f 0 32 8 = 1 →
    ∃ t, exec (.reportBankReq f) s = .next t ∧ (s.clk + 24, f) ∈ (t.link k).passing ∧ t.tk = s.tk

/-- Election: a better candidate of the running scope replaces the best seen and a worse one changes nothing; FINAL ends the scope,
and the tray chimney is the chip whose DIE_ID it names (R441, R551). -/
def Obligations.Election : Prop :=
  (∀ (s : State) (n : Fin 24) (f : Frame), s.power = .run → frameIs 0x0A f = true → reservedOk f = true → hdr f 0 37 1 = 0 →
    s.node.scope = (if hdr f 0 36 1 = 1 then 2 else 1) →
    ∃ t, exec (.elect n f) s = .next t ∧ (∀ g i, t.fld g i = s.fld g i) ∧
      (better (hdr f 0 32 4) (hdr f 1 0 64) s.node.bestPrio s.node.bestDie = true →
        t.node.bestPrio = hdr f 0 32 4 ∧ t.node.bestDie = hdr f 1 0 64) ∧
      (better (hdr f 0 32 4) (hdr f 1 0 64) s.node.bestPrio s.node.bestDie = false → t.node = s.node)) ∧
  (∀ (s : State) (f : Frame), s.power = .run → frameIs 0x0A f = true → reservedOk f = true → hdr f 0 37 1 = 1 → hdr f 0 36 1 = 0 →
    s.node.scope = 1 →
    ∃ t, exec (.electFinal (some f)) s = .next t ∧ t.node.scope = 2 ∧ t.node.trayDie = hdr f 1 0 64 ∧
      (t.flag .TRAY_POS_CHIMNEY = true ↔ hdr f 1 0 64 = s.fuses.dieId.toNat)) ∧
  ∀ (s : State) (f : Frame), s.power = .run → frameIs 0x0A f = true → reservedOk f = true → hdr f 0 37 1 = 1 → hdr f 0 36 1 = 1 →
    s.node.scope = 2 → hdr f 1 0 64 ≠ s.fuses.dieId.toNat → s.tk.firstLock = false →
    ∃ t, exec (.electFinal (some f)) s = .next t ∧ t.node.scope = 3 ∧ t.flag .ELECT_STAT_ELECT_DONE = true ∧
      t.flag .TRAY_POS_ROW_CHIMNEY = false

/-- A member map with a new EPOCH applies at once before the first lock, and waits for its boundary after it; the chimney drops a
member that the reports have shown without a link for two whole ticks (R442, R444, R447). JOIN: a WARM chimney notes a node that
asks and gives it an id; the node takes the id of its answer; a refusal leaves its cause; a LEAVE marks its sender for the next map;
KTICK names the joiner's kindling tick 0. What a chimney knows of other nodes is log entry 44 (R445, R446). -/
def Obligations.MembersAndJoining : Prop :=
  ((∀ (s : State) (n : Fin 24) (f : Frame), s.power = .run → frameIs 0x0B f = true → reservedOk f = true → hdr f 0 32 16 ≠ 0 →
     hdr f 0 32 16 ≠ s.fld .MEMBER_EPOCH → s.node.pendMap = none →
     ∃ t, exec (.member n f) s = .next t ∧
       (s.tk.firstLock = false → t.fld .MEMBER_EPOCH = hdr f 0 32 16 ∧
         ∀ k, k < 256 → t.isMember k = (hdr f (k / 64 + 1) 0 64).testBit (k % 64)) ∧
       (s.tk.firstLock = true → t.fld .MEMBER_EPOCH = s.fld .MEMBER_EPOCH ∧ t.fld .MEMBER = s.fld .MEMBER ∧
         (t.node.pendMap.map (·.1)) = some (hdr f 0 32 16))) ∧
   ∀ (s : State) (k : Byte), s.power = .run → s.isChimney = true → s.isMember k.toNat = true →
     mget 0 k.toNat s.node.lossCount ≠ 0 → mget 0 k.toNat s.node.lossCount + 2 ≤ s.now →
     ∃ t, exec (.nodeLost k) s = .next t ∧ k.toNat ∈ t.node.toDrop ∧ ∀ g i, t.fld g i = s.fld g i) ∧
  (∀ (s : State) (f : Frame), s.power = .run → frameIs 0x0C f = true → reservedOk f = true →
     (hdr f 0 32 8 = 1 → s.flag .ELECT_STAT_ELECT_DONE = true → s.isChimney = true → s.chip = chipWarm → (∀ e ∈ s.node.known, e.1 ≠ hdr f 1 0 64) →
       ∀ k, s.freeId = some k →
       ∃ t, exec (.joinReq f) s = .next t ∧ mget (none, none) (hdr f 1 0 64) t.node.known = (none, some k) ∧ ∀ g i, t.fld g i = s.fld g i) ∧
     (hdr f 0 32 8 = 2 → hdr f 1 0 64 = s.fuses.dieId.toNat → s.flag .NODE_ID_VALID = false →
       ∃ t, exec (.joinAck f) s = .next t ∧ t.ownNode = hdr f 0 40 8 ∧ t.flag .NODE_ID_VALID = true ∧
         t.fld .ELECT_STAT_ROW_CHIMNEY_NODE = frameSrc f) ∧
     (hdr f 0 32 8 = 3 → hdr f 1 0 64 = s.fuses.dieId.toNat →
       ∃ t, exec (.joinRefuse f) s = .next t ∧ t.fld .JOIN_STAT_JSTATE = 5 ∧ t.fld .JOIN_STAT_JCAUSE = hdr f 0 48 8 % 2 ^ Fld.width .JOIN_STAT_JCAUSE) ∧
     (hdr f 0 32 8 = 4 → s.isChimney = true → s.isMember (frameSrc f) = true →
       ∃ t, exec (.joinLeave f) s = .next t ∧ frameSrc f ∈ t.node.toDrop ∧ ∀ g i, t.fld g i = s.fld g i) ∧
     (hdr f 0 32 8 = 5 → hdr f 1 0 64 = s.fuses.dieId.toNat →
       ∃ t, exec (.joinKtick f) s = .next t ∧ t.tk.joinTick = some (hdr f 2 0 48) ∧ ∀ g i, t.fld g i = s.fld g i))

/-- In a cycle in which its ports and the slot's FEN_RM bytes are free for it (R328; log entry 108), an open WRITE for this node that its
checks let through stores its bytes and no others, and is acknowledged; one that a check
refuses stores nothing and is answered with the cause's backdraft; a planned one is held for cycle D (R424, R429, R453, R465). A
WRITE not performed in time is answered with a backdraft of cause SEALED_OR_HOLE and stores nothing (R453). A READ for this node
that its checks let through is, likewise, answered with the bytes of its address, and one that they refuse with the cause; neither changes
memory (R455, R465). -/
def Obligations.IncomingAccesses : Prop :=
  (∀ (s : State) (n : Fin 24) (f : Frame), s.power = .run → frameIs 0x10 f = true → reservedOk f = true →
     frameLocal f = true ∨ frameDst f = s.ownNode →
     (framePlanned f = false → s.writeFault n f = 0 → regionOf (reqAddr f) ≠ some .mirror →
       s.arrivalFree n (reqAddr f) (reqLen f) true false = true →
       ∃ t k g, exec (.write n f) s = .next t ∧ t.bytes (reqAddr f) f.data.length = f.data ∧
         (∀ a, a < reqAddr f ∨ reqAddr f + f.data.length ≤ a → t.byte a = s.byte a) ∧
         g ∈ (t.link k).txq ∧ frameType g = 0x18 ∧ hdr g 0 32 16 = reqId f ∧
         (frameLocal f = true → k = n.val) ∧ ∀ (x : Fld) (i : Nat), x ≠ .REFETCH_COUNT → t.fld x i = s.fld x i) ∧
     (framePlanned f = false → s.writeFault n f ≠ 0 →
       ∃ t k g, exec (.write n f) s = .next t ∧ (∀ a, t.byte a = s.byte a) ∧ g ∈ (t.link k).txq ∧ frameType g = 0x19 ∧
         hdr g 0 32 16 = reqId f ∧ hdr g 0 48 8 = s.writeFault n f) ∧
     (framePlanned f = true → ∃ t, exec (.write n f) s = .next t ∧ f ∈ (t.link n).held ∧ (∀ a, t.byte a = s.byte a) ∧
       ∀ x i, t.fld x i = s.fld x i)) ∧
  (∀ (s : State) (n : Fin 24) (f : Frame), s.power = .run → frameIs 0x10 f = true →
     ∃ t k g, exec (.targetWriteTimeout n f) s = .next t ∧ (∀ a, t.byte a = s.byte a) ∧ (∀ x i, t.fld x i = s.fld x i) ∧
       g ∈ (t.link k).txq ∧ frameType g = 0x19 ∧ hdr g 0 32 16 = reqId f ∧ hdr g 0 48 8 = 2) ∧
  (∀ (s : State) (n : Fin 24) (f : Frame), s.power = .run → frameIs 0x11 f = true → reservedOk f = true →
     frameLocal f = true ∨ frameDst f = s.ownNode → regionOf (reqAddr f) ≠ some .mirror → s.chip ≠ chipOffReady →
     (s.incomingFault (reqHearth f) (reqAddr f) (reqLen f) (reqKey f) .r = 0 →
       s.arrivalFree n (reqAddr f) (reqLen f) false (framePlanned f) = true →
       ∃ t k g, exec (.read n f) s = .next t ∧ (∀ a, t.byte a = s.byte a) ∧ (∀ x i, t.fld x i = s.fld x i) ∧ g ∈ (t.link k).txq ∧
         frameType g = 0x1A ∧ hdr g 0 32 16 = reqId f ∧ g.data = s.bytes (reqAddr f) (reqLen f)) ∧
     (s.incomingFault (reqHearth f) (reqAddr f) (reqLen f) (reqKey f) .r ≠ 0 →
       ∃ t k g, exec (.read n f) s = .next t ∧ (∀ a, t.byte a = s.byte a) ∧ (∀ x i, t.fld x i = s.fld x i) ∧ g ∈ (t.link k).txq ∧
         frameType g = 0x1B ∧ hdr g 0 32 16 = reqId f ∧
         hdr g 0 48 8 = s.incomingFault (reqHearth f) (reqAddr f) (reqLen f) (reqKey f) .r))

/-- A partner's KV request with the hearth's key joins its instruction queue; one with another key changes no hearth and is answered
(log entry 51); a KVCPL that waits on a link starts to leave, behind what is under way there, once its slot and its credits allow, and pays
them (R422, R425, R465, R483). -/
def Obligations.PartnerRequests : Prop :=
  (∀ (s : State) (n : Fin 24) (f : Frame), s.power = .run → frameIs 0x12 f = true → reservedOk f = true → s.chip ≠ chipOffReady →
    hdr f 3 0 32 = s.fld .PKEY (hdr f 0 48 4) → s.fencedHearth (hdr f 0 48 4) = false →
    assigned (wordOpc (BitVec.ofNat 128 (hdr f 1 0 64 + hdr f 2 0 64 * 2 ^ 64))) = true →
    wordClass (BitVec.ofNat 128 (hdr f 1 0 64 + hdr f 2 0 64 * 2 ^ 64)) = 8 → (s.hearth (hdr f 0 48 4)).iq = [] →
    ∃ t q, exec (.kvreq n f) s = .next t ∧ (t.hearth (hdr f 0 48 4)).iq = [q] ∧ q.ctx.origin = 3 ∧ q.ctx.tag = reqId f ∧ q.ctx.accept = s.now ∧
      q.ctx.link = n ∧ q.word = BitVec.ofNat 128 (hdr f 1 0 64 + hdr f 2 0 64 * 2 ^ 64) ∧ ∀ a, t.byte a = s.byte a) ∧
  (∀ (s : State) (n : Fin 24) (f : Frame), s.power = .run → frameIs 0x12 f = true → reservedOk f = true →
    hdr f 3 0 32 ≠ s.fld .PKEY (hdr f 0 48 4) →
    ∃ t k g, exec (.kvreq n f) s = .next t ∧ t.hearths = s.hearths ∧ (∀ a, t.byte a = s.byte a) ∧ (∀ x i, t.fld x i = s.fld x i) ∧
      g ∈ (t.link k).txq ∧ frameType g = 0x1C ∧ hdr g 0 32 16 = reqId f) ∧
  ∀ (s : State) (n : Fin 24) (f : Frame), s.power = .run → frameIs 0x1C f = true → (s.link n).txq = [f] → s.hasLock n = true →
    s.mayStart n f = true → s.maySend n f = true →
    ∃ t, exec (.kvcpl n f) s = .next t ∧ (t.link n).txq = [] ∧ (t.link n).txCur = follow (s.link n).txCur f ∧
      ((sendCost f).1 = 2 → t.fld .CREDITS_RSP_AVAIL n = (s.fld .CREDITS_RSP_AVAIL n - (sendCost f).2) % 2 ^ Fld.width .CREDITS_RSP_AVAIL) ∧
      (∀ (x : Fld) (i : Nat), x ≠ .CREDITS_RSP_AVAIL → t.fld x i = s.fld x i) ∧ ∀ a, t.byte a = s.byte a

/-- An ACK ends the posted writes it names, and only those; a BDRAFT ends its write, counts, and marks the ember that wrote; a write
64 ticks old is LOST (R452, R454). RDATA hands its bytes to the ember that asked and ends the read; an error or 64 ticks without an
answer end it too (R455). -/
def Obligations.RemoteAccessesResolve : Prop :=
  ((∀ (s : State) (n : Fin 24) (f : Frame), s.power = .run → frameIs 0x18 f = true → reservedOk f = true →
     frameLocal f = true ∨ frameDst f = s.ownNode →
     ∃ t, exec (.ack n f) s = .next t ∧ (∀ a, t.byte a = s.byte a) ∧
       ∀ p, p ∈ t.posted ↔ p ∈ s.posted ∧ ∀ k, k ≤ hdr f 0 48 8 → p.wid ≠ (reqId f + k) % 65536) ∧
   (∀ (s : State) (n : Fin 24) (f : Frame) (p : Posted), s.power = .run → frameIs 0x19 f = true → reservedOk f = true →
     frameLocal f = true ∨ frameDst f = s.ownNode → s.posted.find? (·.wid = reqId f) = some p → s.fld .BDRAFT_COUNT + 1 < 2 ^ 32 →
     ∃ t, exec (.bdraft n f) s = .next t ∧ t.fld .BDRAFT_COUNT = s.fld .BDRAFT_COUNT + 1 ∧
       (∀ q, q ∈ t.posted ↔ q ∈ s.posted ∧ q.wid ≠ p.wid) ∧
       (∀ e tag, p.owner = .ember e tag → (s.ember e).live = true → (s.ember e).incarn * 2048 + e = tag → (s.ember e).wait = .none →
         (t.ember e).backdrafts = min ((s.ember e).backdrafts + 1) 0xFFFF)) ∧
   ∀ (s : State) (wid : BitVec 16) (p : Posted), s.power = .run → s.posted.find? (·.wid = wid.toNat) = some p → p.issue + 64 ≤ s.now →
     s.fld .LOST_COUNT + 1 < 2 ^ 32 →
     ∃ t, exec (.writeLost wid) s = .next t ∧ t.fld .LOST_COUNT = s.fld .LOST_COUNT + 1 ∧ (∀ q, q ∈ t.posted ↔ q ∈ s.posted ∧ q.wid ≠ p.wid) ∧
       (p.wid, s.now + 64) ∈ t.lateWids) ∧
  ((∀ (s : State) (n : Fin 24) (f : Frame) (r : RemoteRead) (e tag : Nat), s.power = .run → frameIs 0x1A f = true → reservedOk f = true →
     framePlanned f = false → frameLocal f = true ∨ frameDst f = s.ownNode → s.reads.find? (·.rid = reqId f) = some r → r.owner = .ember e tag →
     (s.ember e).live = true → s.emberTag e = tag →
     ∃ t, exec (.rdata n f) s = .next t ∧ (t.ember e).cache = (s.ember e).cache ++ addressed r.addr (f.data.take r.len) ∧
       (∀ q, q ∈ t.reads ↔ q ∈ s.reads ∧ q.rid ≠ r.rid) ∧ (∀ a, t.byte a = s.byte a) ∧ ∀ x i, t.fld x i = s.fld x i) ∧
   (∀ (s : State) (n : Fin 24) (f : Frame) (r : RemoteRead), s.power = .run → frameIs 0x1B f = true → reservedOk f = true →
     frameLocal f = true ∨ frameDst f = s.ownNode → s.reads.find? (·.rid = reqId f) = some r →
     ∃ t, exec (.rerr n f) s = .next t ∧ (∀ q ∈ t.reads, q ∈ s.reads ∧ q.rid ≠ r.rid)) ∧
   ∀ (s : State) (rid : BitVec 16) (r : RemoteRead), s.power = .run → s.reads.find? (·.rid = rid.toNat) = some r → r.issue + 64 ≤ s.now →
     s.fld .LOST_COUNT + 1 < 2 ^ 32 →
     ∃ t, exec (.readLost rid) s = .next t ∧ t.fld .LOST_COUNT = s.fld .LOST_COUNT + 1 ∧ ∀ q ∈ t.reads, q ∈ s.reads ∧ q.rid ≠ r.rid)

/-- The reader takes the entry of the hearth whose turn it is, no two in one cycle, and advances SQ_HEAD: a well-formed record of a hearth that is not
fenced is kept for its own command, with the tick of its acceptance; one of a fenced or damped hearth is REFUSED, which for a plan
command shows in ADMIT_STAT (R47), a malformed one is not kept. Where it is not the hearth's turn nothing changes (R471, R474, R485). -/
def Obligations.QueueEntriesAreTaken : Prop :=
  ∀ (s : State) (h : Fin 16), s.power = .run →
    (s.sqTurn ≠ some h.val → exec (.sqEntryTake h) s = .next s) ∧
    (s.sqTurn = some h.val →
      s.hearthFault h (s.global (queueEntry (s.fld .SQ_CFG_BASE_IDX h) (s.sqN h) 64 (s.fld .SQ_HEAD h))) 64 .r = 0 →
      ∃ t, exec (.sqEntryTake h) s = .next t ∧ t.fld .SQ_HEAD h = (s.fld .SQ_HEAD h + 1) % 2 ^ 32 ∧ t.sqNext = (h.val + 1) % 16 ∧
        t.sqAt = t.clk + 1 ∧ t.clk = (if s.sqAt = s.clk + 1 then s.clk + 1 else s.clk) ∧
        (s.fencedHearth h = false →
          s.formatOk h (s.bytes (queueEntry (s.fld .SQ_CFG_BASE_IDX h) (s.sqN h) 64 (s.fld .SQ_HEAD h)) 64) = true →
          t.taken = s.taken ++
            [⟨h, s.fld .SQ_HEAD h, s.now, s.bytes (queueEntry (s.fld .SQ_CFG_BASE_IDX h) (s.sqN h) 64 (s.fld .SQ_HEAD h)) 64⟩] ∧
          (∀ a, t.byte a = s.byte a) ∧ ∀ (f : Fld) (i : Nat), f ≠ .SQ_HEAD → t.fld f i = s.fld f i) ∧
        (s.fencedHearth h = true → t.taken = s.taken ∧
          (s.fld .REFUSED_COUNT h + 1 < 2 ^ Fld.width .REFUSED_COUNT → t.fld .REFUSED_COUNT h = s.fld .REFUSED_COUNT h + 1) ∧
          (isPlanCmd (recCmd (s.bytes (queueEntry (s.fld .SQ_CFG_BASE_IDX h) (s.sqN h) 64 (s.fld .SQ_HEAD h)) 64)) = true →
            t.fld .ADMIT_STAT_RES_ID = 0xFF ∧ t.fld .ADMIT_STAT_PLAN_SLOT =
              recNum (s.bytes (queueEntry (s.fld .SQ_CFG_BASE_IDX h) (s.sqN h) 64 (s.fld .SQ_HEAD h)) 64) 8 1 %
                2 ^ Fld.width .ADMIT_STAT_PLAN_SLOT)) ∧
        (s.fencedHearth h = false →
          s.formatOk h (s.bytes (queueEntry (s.fld .SQ_CFG_BASE_IDX h) (s.sqN h) 64 (s.fld .SQ_HEAD h)) 64) = false → t.taken = s.taken))

/-- Commands of a queue record: NOP completes DONE, its 32-byte record at CQ_TAIL carrying the record's TAG and place; INSTR joins
the hearth's instruction queue with its word, DMA the channel's queue, PREHEAT the same with its heat slot FILLING; where the queue
is full, or the slot is filling already, the command is REFUSED and nothing is queued (R304, R347, R473, R483, Tables 14.3, 14.4).
-/
def Obligations.QueueCommands : Prop :=
  (∀ (s : State) (h : Fin 16) (r : Taken), s.power = .run → s.takenCmd h 0x20 = some r →
    (s.hearth h).hold = [] → s.cqOcc h < s.cqN h →
    s.hearthFault h (s.global (queueEntry (s.fld .CQ_CFG_BASE_IDX h) (s.cqN h) 32 (s.fld .CQ_TAIL h))) 32 .w = 0 →
    ∃ t, exec (.nop h) s = .next t ∧ t.taken = s.taken.erase r ∧ t.fld .CQ_TAIL h = (s.fld .CQ_TAIL h + 1) % 2 ^ 32 ∧
      t.bytes (queueEntry (s.fld .CQ_CFG_BASE_IDX h) (s.cqN h) 32 (s.fld .CQ_TAIL h)) 32 =
        cqBytes { tag := recNum r.bytes 4 2, ref := r.index % 65536 } (bitsOf (s.fld .CQ_TAIL h) (s.fld .CQ_CFG_LOG2N h) 1) s.now ∧
      (∀ a, (a < queueEntry (s.fld .CQ_CFG_BASE_IDX h) (s.cqN h) 32 (s.fld .CQ_TAIL h) ∨
          queueEntry (s.fld .CQ_CFG_BASE_IDX h) (s.cqN h) 32 (s.fld .CQ_TAIL h) + 32 ≤ a) → t.byte a = s.byte a) ∧
      ∀ (f : Fld) (i : Nat), f ≠ .CQ_TAIL → f ≠ .REFETCH_COUNT → t.fld f i = s.fld f i) ∧
  (∀ (s : State) (h : Fin 16) (r : Taken), s.power = .run → s.takenCmd h 0x01 = some r →
    ((s.hearth h).iq.length < 32 → (∀ q ∈ (s.hearth h).iq, assigned (wordOpc q.word) = true) →
      assigned (wordOpc (BitVec.ofNat 128 (recNum r.bytes 16 16))) = true →
      ∃ t q, exec (.instr h) s = .next t ∧ t.taken = s.taken.erase r ∧ (t.hearth h).iq = (s.hearth h).iq ++ [q] ∧
        q.word = BitVec.ofNat 128 (recNum r.bytes 16 16) ∧ q.prio = (recNum r.bytes 1 1).testBit 0 ∧ q.deadline = recNum r.bytes 2 2 ∧
        q.ctx.hearth = h.val ∧ q.ctx.accept = r.tick ∧ (∀ f i, t.fld f i = s.fld f i) ∧ ∀ a, t.byte a = s.byte a) ∧
    (32 ≤ (s.hearth h).iq.length → s.fld .REFUSED_COUNT h + 1 < 2 ^ Fld.width .REFUSED_COUNT →
      ∃ t, exec (.instr h) s = .next t ∧ t.taken = s.taken.erase r ∧ (t.hearth h).iq = (s.hearth h).iq ∧
        t.fld .REFUSED_COUNT h = s.fld .REFUSED_COUNT h + 1)) ∧
  (∀ (s : State) (h : Fin 16) (r : Taken), s.power = .run → s.takenCmd h 0x03 = some r →
    ((s.chan (recNum r.bytes 8 1)).queue.length < 16 →
      ∃ t x, exec (.dmaSubmit h) s = .next t ∧ t.taken = s.taken.erase r ∧
        (t.chan (recNum r.bytes 8 1)).queue = (s.chan (recNum r.bytes 8 1)).queue ++ [x] ∧ x.ptr = some (recNum r.bytes 12 4) ∧
        x.ctx.hearth = h.val ∧ x.heat = none ∧ (∀ f i, t.fld f i = s.fld f i) ∧ ∀ a, t.byte a = s.byte a) ∧
    (16 ≤ (s.chan (recNum r.bytes 8 1)).queue.length → s.fld .REFUSED_COUNT h + 1 < 2 ^ Fld.width .REFUSED_COUNT →
      ∃ t, exec (.dmaSubmit h) s = .next t ∧ t.taken = s.taken.erase r ∧ t.chans = s.chans ∧
        t.fld .REFUSED_COUNT h = s.fld .REFUSED_COUNT h + 1)) ∧
  ∀ (s : State) (h : Fin 16) (r : Taken), s.power = .run → s.takenCmd h 0x04 = some r →
    (s.heatSt (4 * h.val + recNum r.bytes 9 1) ≠ 1 → (s.chan (recNum r.bytes 8 1)).queue.length < 16 →
      ∃ t x, exec (.preheat h) s = .next t ∧ t.taken = s.taken.erase r ∧ t.heatSt (4 * h.val + recNum r.bytes 9 1) = 1 ∧
        (t.chan (recNum r.bytes 8 1)).queue = (s.chan (recNum r.bytes 8 1)).queue ++ [x] ∧ x.ptr = some (recNum r.bytes 12 4) ∧
        x.heat = some (4 * h.val + recNum r.bytes 9 1) ∧ (∀ f i, t.fld f i = s.fld f i) ∧ ∀ a, t.byte a = s.byte a) ∧
    (s.heatSt (4 * h.val + recNum r.bytes 9 1) = 1 ∨ 16 ≤ (s.chan (recNum r.bytes 8 1)).queue.length →
      s.fld .REFUSED_COUNT h + 1 < 2 ^ Fld.width .REFUSED_COUNT →
      ∃ t, exec (.preheat h) s = .next t ∧ t.taken = s.taken.erase r ∧ t.heat = s.heat ∧ t.chans = s.chans ∧
        t.fld .REFUSED_COUNT h = s.fld .REFUSED_COUNT h + 1)

/-- What waits: the oldest held completion record is written as soon as its queue has room, and stays where it has none (R480); a command
past its deadline is removed from its queues and no other is, and is REFUSED (R484); a closed tag returns to IDLE 64 ticks after its
close, once nothing of it is in flight, and no other tag changes (R369); the first break of a pool lock counts and lets the operation
lock again, the second fails it with cause XBAR_LOCK (R415; log entry 74). -/
def Obligations.WaitingWork : Prop :=
  (∀ (s : State) (h : Fin 16) (r : CqRec), s.power = .run → (s.hearth h).hold = [r] →
    (s.cqOcc h < s.cqN h →
      s.hearthFault h (s.global (queueEntry (s.fld .CQ_CFG_BASE_IDX h) (s.cqN h) 32 (s.fld .CQ_TAIL h))) 32 .w = 0 →
      ∃ t, exec (.cqHoldRelease h) s = .next t ∧ (t.hearth h).hold = [] ∧ t.fld .CQ_TAIL h = (s.fld .CQ_TAIL h + 1) % 2 ^ 32 ∧
        t.bytes (queueEntry (s.fld .CQ_CFG_BASE_IDX h) (s.cqN h) 32 (s.fld .CQ_TAIL h)) 32 =
          cqBytes r (bitsOf (s.fld .CQ_TAIL h) (s.fld .CQ_CFG_LOG2N h) 1) s.now ∧
        (∀ a, (a < queueEntry (s.fld .CQ_CFG_BASE_IDX h) (s.cqN h) 32 (s.fld .CQ_TAIL h) ∨
          queueEntry (s.fld .CQ_CFG_BASE_IDX h) (s.cqN h) 32 (s.fld .CQ_TAIL h) + 32 ≤ a) → t.byte a = s.byte a) ∧
        ∀ (f : Fld) (i : Nat), f ≠ .CQ_TAIL → f ≠ .REFETCH_COUNT → t.fld f i = s.fld f i) ∧
    (s.cqN h ≤ s.cqOcc h → exec (.cqHoldRelease h) s = .next s)) ∧
  (∀ (s : State) (h : Fin 16), s.power = .run → ∃ t, exec (.deadlineExpiry h) s = .next t ∧
    (t.hearth h).iq = (s.hearth h).iq.filter (fun q => !(q.prio && decide (q.ctx.accept + q.deadline < s.now))) ∧
    (∀ c, c < 64 → (t.chan c).queue = (s.chan c).queue.filter
      (fun x => !(decide (x.ctx.hearth = h.val) && x.prio && decide (x.ctx.accept + x.deadline < s.now)))) ∧
    t.taken = s.taken ∧ t.flights = s.flights ∧ (∀ x, x < 0x1000000000 → t.byte x = s.byte x) ∧
    ((∀ q ∈ (s.hearth h).iq, q.prio = true → s.now ≤ q.ctx.accept + q.deadline) →
      (∀ c, c < 64 → ∀ x ∈ (s.chan c).queue, x.prio = true → s.now ≤ x.ctx.accept + x.deadline) →
      t.heat = s.heat ∧ (∀ f i, t.fld f i = s.fld f i) ∧ ∀ a, t.byte a = s.byte a) ∧
    ∀ q, (s.hearth h).iq = [q] → q.prio = true → q.ctx.accept + q.deadline < s.now → q.ctx.cq = true → q.ctx.hearth = h.val →
      (∀ c, c < 64 → (s.chan c).queue = []) → s.fld .REFUSED_COUNT h + 1 < 2 ^ Fld.width .REFUSED_COUNT →
      t.fld .REFUSED_COUNT h = s.fld .REFUSED_COUNT h + 1) ∧
  (∀ (s : State) (h : Fin 16) (g : Byte), s.power = .run → ∃ t, exec (.tagIdleReturn h g) s = .next t ∧
    t.tag h g.toNat = (if 2 ≤ (s.tag h g.toNat).st ∧ (s.tag h g.toNat).closed + 64 ≤ s.now ∧ (s.tag h g.toNat).inFlight = 0 then {}
      else s.tag h g.toNat) ∧
    (∀ k j, k * 256 + j ≠ h.val * 256 + g.toNat → t.tag k j = s.tag k j) ∧
    (∀ f i, t.fld f i = s.fld f i) ∧ ∀ a, t.byte a = s.byte a) ∧
  ∀ (s : State) (k : Nat) (x : Flight), s.power = .run → s.flight k = some x → x.locks = true →
    s.fld .XB_LOCK_BREAKS + 1 < 2 ^ Fld.width .XB_LOCK_BREAKS →
    ∃ t y, exec (.xbarLockTimeout k) s = .next t ∧ t.flight k = some y ∧ t.flag .XB_STAT_LOCK_BROKEN = true ∧
      t.fld .XB_LOCK_BREAKS = s.fld .XB_LOCK_BREAKS + 1 ∧
      (x.breaks = 0 → y = { x with breaks := 1 } ∧ (s.poolPort x.ctx.hearth, k, 0) ∈ t.locks ∧ (∀ a, t.byte a = s.byte a) ∧
        ∀ (f : Fld) (i : Nat), f ≠ .XB_STAT_LOCK_BROKEN → f ≠ .XB_LOCK_BREAKS → t.fld f i = s.fld f i) ∧
      (x.breaks ≠ 0 → y.status = 0x30 ∧ y.cause = 0x18 ∧ y.stack = 0 ∧ ∀ l ∈ t.locks, l.2.1 ≠ k)

/-- Units that fail. A parity error is marked and counted and faults the instruction it names if that runs on the unit, and no other; the
second one of a slice or mixer array since the chip reset takes the unit out of service, the first changes no memory. A corrected fen error only counts; a failed training
or a command parity failure fences its channel alone and starts the page-table scan; an uncorrectable beat counts, fences at the
limit, and fails whoever met it with ECC_UNCORR; the scan breaks every open sequence with a page there (R23, R199, R218, R250, R251, R390, R548). -/
def Obligations.UnitFailures : Prop :=
  (∀ (s : State) (k : Nat) (p : Fin 16), s.power = .run → s.fld .FAB_ERR_COUNT + 1 < 2 ^ Fld.width .FAB_ERR_COUNT →
    ∃ t, exec (.fabricParity k p) s = .next t ∧ t.fbit .FAB_PARITY 0 p = true ∧ t.fld .FAB_ERR_COUNT = s.fld .FAB_ERR_COUNT + 1 ∧
      t.units.parSlices.testBit p = true ∧
      (s.units.parSlices.testBit p = false → t.fld .SLICE_LIVE = s.fld .SLICE_LIVE ∧ t.hearths = s.hearths ∧ t.chans = s.chans ∧
        (∀ a, t.byte a = s.byte a) ∧
        ∀ x, s.flight k = some x → x.takes 2 (fun l => decide (s.physOf 2 l = some p.val)) = false → t.flight k = some x) ∧
      (s.units.parSlices.testBit p = true → t.fbit .SLICE_LIVE 0 p = false) ∧
      ∀ x, s.flight k = some x → wordClass x.word ≠ 1 → x.takes 2 (fun l => decide (s.physOf 2 l = some p.val)) = true → x.status ≠ 0x30 →
        ∃ y, t.flight k = some y ∧ y.status = 0x30 ∧ y.cause = 0x0C) ∧
  (∀ (s : State) (k : Nat) (u : Fin 8), s.power = .run → s.fld .ENG_ERR_COUNT + 1 < 2 ^ Fld.width .ENG_ERR_COUNT →
    ∃ t, exec (.engineParity k u) s = .next t ∧ t.fld .ENG_ERR_COUNT = s.fld .ENG_ERR_COUNT + 1 ∧
      (u.val < 4 → t.fbit .ENG_PARITY_TP 0 u = true) ∧ (4 ≤ u.val → u.val < 6 → t.fbit .ENG_PARITY_WIN 0 (u.val - 4) = true) ∧
      (6 ≤ u.val → t.fbit .ENG_PARITY_BP 0 (u.val - 6) = true) ∧ t.hearths = s.hearths ∧ t.chans = s.chans ∧ t.units = s.units ∧ (∀ a, t.byte a = s.byte a) ∧
      ∀ x, s.flight k = some x → x.status ≠ 0x30 → wordClass x.word ≠ 1 →
        (x.takes (if u.val < 4 then 3 else if u.val < 6 then 4 else 5)
            (fun l => decide (l = if u.val < 4 then u.val else if u.val < 6 then u.val - 4 else u.val - 6)) = true →
          ∃ y, t.flight k = some y ∧ y.status = 0x30 ∧ y.cause = 0x0D) ∧
        (x.takes (if u.val < 4 then 3 else if u.val < 6 then 4 else 5)
            (fun l => decide (l = if u.val < 4 then u.val else if u.val < 6 then u.val - 4 else u.val - 6)) = false →
          t.flight k = some x)) ∧
  (∀ (s : State) (k : Nat) (p : Fin 32), s.power = .run → s.fld .ENG_ERR_COUNT + 1 < 2 ^ Fld.width .ENG_ERR_COUNT →
    ∃ t, exec (.mixerParity k p) s = .next t ∧ t.fbit .MIX_PARITY 0 p = true ∧ t.fld .ENG_ERR_COUNT = s.fld .ENG_ERR_COUNT + 1 ∧
      (s.units.parMixers.testBit p = false → t.fld .MIXER_LIVE = s.fld .MIXER_LIVE ∧ (∀ a, t.byte a = s.byte a) ∧
        ∀ x, s.flight k = some x → x.takes 6 (fun l => decide (s.physOf 6 l = some p.val)) = false → t.flight k = some x) ∧
      (s.units.parMixers.testBit p = true → t.fbit .MIXER_LIVE 0 p = false) ∧
      ∀ x, s.flight k = some x → wordClass x.word ≠ 1 → x.takes 6 (fun l => decide (s.physOf 6 l = some p.val)) = true → x.status ≠ 0x30 →
        ∃ y, t.flight k = some y ∧ y.status = 0x30 ∧ y.cause = 0x0E) ∧
  (∀ (s : State) (c : Fin 16), s.power = .run →
    (s.fld .FEN_CE_COUNT c + 1 < 2 ^ Fld.width .FEN_CE_COUNT →
      ∃ t, exec (.fenCorrectedError c) s = .next t ∧ t.fld .FEN_CE_COUNT c = s.fld .FEN_CE_COUNT c + 1 ∧ (∀ a, t.byte a = s.byte a) ∧
        ∀ (f : Fld) (i : Nat), f ≠ .FEN_CE_COUNT → t.fld f i = s.fld f i) ∧
    (∀ i ∈ [Instr.fenTrainingFail c, .fenParityFail c], ∃ t, exec i s = .next t ∧ t.fbit .FEN_LIVE 0 c = false ∧
      (∀ k : Fin 16, k ≠ c → t.fbit .FEN_LIVE 0 k = s.fbit .FEN_LIVE 0 k) ∧
      (s.fbit .FEN_LIVE 0 c = true → t.flag .KV_STAT_SCAN = true ∧ t.units.scan.testBit c = true ∧ t.flag .ALERT_STAT_UNIT_LOST = true)) ∧
    (∀ (a : BitVec 48) (who : BeatReader), beatReaderWf who = true → s.fld .FEN_UE_COUNT c + 1 < 2 ^ Fld.width .FEN_UE_COUNT →
      ∃ t, exec (.fenUncorrectableBeat c a who) s = .next t ∧ t.fld .FEN_UE_COUNT c = s.fld .FEN_UE_COUNT c + 1 ∧
        t.fbit .FEN_LIVE 0 c = (s.fbit .FEN_LIVE 0 c && !(s.fld .FEN_UE_LIMIT != 0 && s.fld .FEN_UE_LIMIT ≤ s.fld .FEN_UE_COUNT c + 1)) ∧
        (∀ k x, who = .flight k → s.flight k = some x → x.status ≠ 0x30 → ∃ y, t.flight k = some y ∧ y.status = 0x30 ∧ y.cause = 0x0F) ∧
        (∀ n f, who = .write n f → ∃ k g, g ∈ (t.link k).txq ∧ frameType g = 0x19 ∧ hdr g 0 32 16 = reqId f ∧ hdr g 0 48 8 = 4) ∧
        (∀ n f, who = .read n f → ∃ k g, g ∈ (t.link k).txq ∧ frameType g = 0x1B ∧ hdr g 0 32 16 = reqId f ∧ hdr g 0 48 8 = 4)) ∧
    (s.units.scan.testBit c = true → ∃ t, exec (.fenceScan c) s = .next t ∧ t.units.scan.testBit c = false ∧
      (t.units.scan = 0 → t.flag .KV_STAT_SCAN = false) ∧
      ∀ e ∈ s.seqs, e.2.opened = true → s.seq e.1 = e.2 → s.pageIn e.2 c = true → (t.seq e.1).broken = true))

/-- alu, br, emb.info and order.sl of an ember whose pipe issues them, in the state `p` of the issue cycle: A[RD] takes the value of Table
8.2 (A0 stays 0), every other register keeps what it had, and the PC goes on by 16, or by IMM × 16 where the branch is taken. With CQ 0 no
memory byte, no register field and no other ember changes; while nothing else is under way, `p` differs from `s` in none of them either
(R254, R260, R262, R269). -/
def Obligations.EmberRegisterInstructions : Prop :=
  (∀ (s p : State) (e : Fin 2048) (x : Option (Ember × Option Word128)), s.ready e = (p, x) → s.astir = false →
    (∀ a, p.byte a = s.byte a) ∧ (∀ (f : Fld) (i : Nat), f ≠ .REFETCH_COUNT → p.fld f i = s.fld f i) ∧
      (∀ k, k ≠ e.val → p.ember k = s.ember k) ∧ ∀ i, (p.ember e).a i = (s.ember e).a i) ∧
  ∀ (s p : State) (e : Fin 2048) (m : Ember) (w : Word128), s.power = .run → s.ready e = (p, some (m, some w)) → p.check0 m.hearth w = .ok () →
    let x := BitVec.ofNat 64 (m.a (wRs1 w))
    let y := BitVec.ofNat 64 (m.a (wRs2 w)) + BitVec.ofNat 64 (wImm w)
    let y0 := BitVec.ofNat 64 (m.a (wRs2 w))
    let taken := match wWid w with
      | 0 => true | 1 => x == y0 | 2 => x != y0 | 3 => x.slt y0 | 4 => y0.sle x | 5 => x.ult y0 | _ => y0.ule x
    let tgt := (BitVec.ofNat 64 m.pc + BitVec.ofNat 64 (wImm w) * 16).toNat
    let effect (c : Instr) (rd : Option (BitVec 64)) (pc : Nat) : Prop :=
      ∃ t, exec c s = .next t ∧ (t.ember e).pc = pc ∧ (t.ember e).wait = .none ∧ (t.ember e).live = true ∧
        (∀ i, (t.ember e).a i = match rd with | none => m.a i | some v => if i = wRd w ∧ i ≠ 0 then v.toNat else m.a i) ∧
        (wCq w = false → (∀ k, k ≠ e.val → t.ember k = p.ember k) ∧ (∀ a, t.byte a = p.byte a) ∧ ∀ f i, t.fld f i = p.fld f i)
    (wordOpc w = 0x00 → p.pcCheck m.hearth (m.pc + 16) = .ok () →
      effect (.alu e) (some (match wFunc w with
        | 0 => x + y | 1 => x - y | 2 => x &&& y | 3 => x ||| y | 4 => x ^^^ y | 5 => x <<< (y.toNat % 64) | 6 => x >>> (y.toNat % 64)
        | 7 => x.sshiftRight (y.toNat % 64) | 8 => x * y | 9 => if x.sle y then x else y | 10 => if x.sle y then y else x
        | _ => if x.ult y then 1 else 0)) (m.pc + 16)) ∧
    (wordOpc w = 0x01 → taken = true → p.pcCheck m.hearth tgt = .ok () → effect (.br e) (some (BitVec.ofNat 64 (m.pc + 16))) tgt) ∧
    (wordOpc w = 0x01 → taken = false → p.pcCheck m.hearth (m.pc + 16) = .ok () →
      effect (.br e) (some (BitVec.ofNat 64 (m.pc + 16))) (m.pc + 16)) ∧
    (wordOpc w = 0x09 → p.pcCheck m.hearth (m.pc + 16) = .ok () →
      effect (.embInfo e) (some (BitVec.ofNat 64 (match wFunc w with
        | 0 => m.incarn * 2048 + e.val | 1 => m.hearth | 2 => p.now | 3 => if m.planned then (p.plan m.plan).tick else 0
        | 4 => p.cyc | _ => e.val / 256))) (m.pc + 16)) ∧
    (wordOpc w = 0x04 → p.pcCheck m.hearth (m.pc + 16) = .ok () → effect (.orderSl e) none (m.pc + 16))

/-- A load that passes its checks asks for its data and waits for it: a local one by a request to the crossbar, at once if no own store and
no order.sl holds it, and one to another node by a READ frame; one for which the master port has no TID issues again, and one that fails its
checks ends its ember. The data of a granted request, or from another node, loads A[RD], sign- or zero-extended up to 8 bytes, and
consecutive registers beyond that; no memory byte changes. Data of a channel that has been fenced meanwhile faults the load (R112, R262,
R263, R266, R268, R274, R402). -/
def Obligations.EmberLoads : Prop :=
  (∀ (s p : State) (e : Fin 2048) (m : Ember) (w : Word128), s.power = .run → s.ready e = (p, some (m, some w)) → wordOpc w = 0x02 →
    p.check0 m.hearth w = .ok () → p.pcCheck m.hearth (m.pc + 16) = .ok () →
    let ga := (m.a (wRs1 w) + wImm w) % 2 ^ 64
    let n := 2 ^ wWid w
    let waits (t : State) (req : Option Nat) : Prop := (t.ember e).pc = m.pc + 16 ∧
      (∃ due, (t.ember e).wait = .load ga (wWid w) (wRd w) ((wFunc w).testBit 0) (wCq w) due req) ∧ (∀ i, (t.ember e).a i = m.a i) ∧
      (∀ k, k ≠ e.val → t.ember k = p.ember k) ∧ (∀ a, t.byte a = p.byte a) ∧ ∀ f i, t.fld f i = p.fld f i
    (p.memCheck m.hearth ga n .r = .ok () → p.onChip ga = true →
      (p.mayAccess m ga n = false → ∃ t, exec (.ld e) s = .next t ∧ waits t none ∧ t.xb = p.xb) ∧
      (p.mayAccess m ga n = true → p.tidRoom (e.val / 256) false m.planned = true →
        ∃ t r, exec (.ld e) s = .next t ∧ waits t (some (p.xbNext + 1)) ∧ t.xb = p.xb ++ [r] ∧ r.id = p.xbNext + 1 ∧ r.master = e.val / 256 ∧
          r.write = false ∧ r.port = localPort (localOf ga) ∧ r.got = none) ∧
      (p.mayAccess m ga n = true → p.tidRoom (e.val / 256) false m.planned = false → m.planned = false →
        ∃ t, exec (.ld e) s = .next t ∧ (t.ember e).pc = m.pc ∧ (t.ember e).wait = .none ∧ (∀ i, (t.ember e).a i = m.a i) ∧ t.xb = p.xb ∧
          (∀ a, t.byte a = p.byte a) ∧ ∀ f i, t.fld f i = p.fld f i)) ∧
    (∀ q, p.memCheck m.hearth ga n .r = .ok () → p.onChip ga = false → p.farStore e ga n = false →
      (p.spend e).postRead ga n (p.emberRemote e) = (q, .sent) →
      ∃ t, exec (.ld e) s = .next t ∧ waits t none ∧ t.reads = q.reads ∧ t.links = q.links) ∧
    (∀ f, p.memCheck m.hearth ga n .r = .error f → p.fld .EMB_FAULT_COUNT + 1 < 2 ^ Fld.width .EMB_FAULT_COUNT →
      ∃ t, exec (.ld e) s = .next t ∧ ((t.ember e).live = false ∨ (t.ember e).draining = true) ∧
        t.fld .EMB_FAULT_COUNT = p.fld .EMB_FAULT_COUNT + 1)) ∧
  (∀ (s : State) (e : Fin 2048) (ga wid rd due : Nat) (sg cq : Bool) (req : Option Nat) (bs : List Byte), s.power = .run →
    (s.ember e).wait = .load ga wid rd sg cq due req → wid ≤ 6 →
    (s.onChip ga = true ∧ s.astir = false ∧ req.isSome = true ∧ s.fenced (localOf ga) (2 ^ wid) = false ∧
        regionOf (localOf ga) ≠ some .mirror ∧ bs = s.bytes (localOf ga) (2 ^ wid)) ∨
      (s.onChip ga = false ∧ cached (s.ember e).cache ga (2 ^ wid) = some bs) →
    ∃ t, exec (.loadReturn e) s = .next t ∧ (t.ember e).wait = .none ∧ (t.ember e).pc = (s.ember e).pc ∧
      (wid ≤ 3 → ∀ i, (t.ember e).a i = if i = rd ∧ i ≠ 0 then
          (if sg then ((BitVec.ofNat (8 * 2 ^ wid) (leNat bs)).signExtend 64).toNat else leNat bs) else (s.ember e).a i) ∧
      (4 ≤ wid → (∀ k, k < 2 ^ (wid - 3) → rd + k ≠ 0 → (t.ember e).a (rd + k) = leNat ((bs.drop (8 * k)).take 8)) ∧
        ∀ i, i < rd ∨ rd + 2 ^ (wid - 3) ≤ i → (t.ember e).a i = (s.ember e).a i) ∧
      (cq = false → (∀ k, k ≠ e.val → t.ember k = s.ember k) ∧ (∀ a, t.byte a = s.byte a) ∧ ∀ f i, t.fld f i = s.fld f i)) ∧
  ∀ (s : State) (e : Fin 2048) (ga wid rd due id : Nat) (sg cq : Bool), s.power = .run →
    (s.ember e).wait = .load ga wid rd sg cq due (some id) → s.onChip ga = true → s.astir = false → s.fenced (localOf ga) (2 ^ wid) = true →
    s.fld .EMB_FAULT_COUNT + 1 < 2 ^ Fld.width .EMB_FAULT_COUNT →
    ∃ t, exec (.loadReturn e) s = .next t ∧ ((t.ember e).live = false ∨ (t.ember e).draining = true) ∧
      t.fld .EMB_FAULT_COUNT = s.fld .EMB_FAULT_COUNT + 1

/-- A store enters the buffer with the bytes of its registers while there is room, and waits where there is none; an entry leaves
for the crossbar or for its link; a local one whose request is granted becomes visible as exactly its bytes, after the earlier ones to its
chunk (R263, R267). order.g waits while a store or copy of its ember is in the buffer, on the crossbar or unanswered; then A[RD] takes the
number of backdrafts, which starts again from 0. sync.i empties the fetch window, for 24 cycles at least, once the local stores and copies
are visible (R270, R280, R358). -/
def Obligations.EmberStoresAndFences : Prop :=
  ((∀ (s p : State) (e : Fin 2048) (m : Ember) (w : Word128), s.power = .run → s.ready e = (p, some (m, some w)) → wordOpc w = 0x03 →
     p.check0 m.hearth w = .ok () → p.pcCheck m.hearth (m.pc + 16) = .ok () →
     p.memCheck m.hearth ((m.a (wRs1 w) + wImm w) % 2 ^ 64) (2 ^ wWid w) .w = .ok () →
     (m.buf.length < 8 → ∃ t b, exec (.st e) s = .next t ∧ (t.ember e).pc = m.pc + 16 ∧ (t.ember e).buf = m.buf ++ [b] ∧
       b.addr = (m.a (wRs1 w) + wImm w) % 2 ^ 64 ∧ b.bytes.length = 2 ^ wWid w ∧
       (∀ k, k < 2 ^ wWid w → b.bytes.getD k 0 = BitVec.ofNat 8 (m.a (wRs2 w + k / 8) / 2 ^ (8 * (k % 8)))) ∧
       (∀ i, (t.ember e).a i = m.a i) ∧
       (wCq w = false → (∀ k, k ≠ e.val → t.ember k = p.ember k) ∧ (∀ a, t.byte a = p.byte a) ∧ ∀ f i, t.fld f i = p.fld f i)) ∧
     (8 ≤ m.buf.length → ∃ t, exec (.st e) s = .next t ∧ (t.ember e).pc = m.pc ∧ (t.ember e).buf = m.buf ∧
       (∀ i, (t.ember e).a i = m.a i) ∧ (∀ a, t.byte a = p.byte a) ∧ ∀ f i, t.fld f i = p.fld f i)) ∧
   (∀ (s : State) (e : Fin 2048) (k : Fin 8) (b : Store), s.power = .run → (s.ember e).buf[k.val]? = some b →
     s.mayDrain (s.ember e) k b = true → (s.ember e).draining = false →
     (s.onChip b.addr = true → b.bytes ≠ [] → s.astir = false → s.tidRoom (e.val / 256) true (s.ember e).planned = true →
       ∃ t b', exec (.storeDrain e k) s = .next t ∧ (t.ember e).buf = (s.ember e).buf.eraseIdx k ∧
         (t.ember e).air = (s.ember e).air ++ [b'] ∧ b'.addr = b.addr ∧ b'.bytes = b.bytes ∧ b'.epoch = b.epoch ∧ b'.req = s.xbNext + 1 ∧
         (∀ i, (t.ember e).a i = (s.ember e).a i) ∧
         ((s.ember e).planned = false → (∀ a, t.byte a = s.byte a) ∧ ∀ f i, t.fld f i = s.fld f i)) ∧
     (∀ q, s.onChip b.addr = false → s.postWrite b.addr b.bytes (s.emberRemote e) = (q, .sent) →
       ∃ t, exec (.storeDrain e k) s = .next t ∧ (t.ember e).buf = (s.ember e).buf.eraseIdx k ∧ t.posted = q.posted ∧ t.links = q.links ∧
         (∀ a, t.byte a = s.byte a) ∧ ∀ f i, t.fld f i = s.fld f i)) ∧
   ∀ (s : State) (e : Fin 2048) (k : Nat) (b : Store), s.power = .run → (s.ember e).air[k]? = some b → b.bytes ≠ [] →
     (∀ c ∈ (s.ember e).air.take k, chunkOf c.addr ≠ chunkOf b.addr) → (s.ember e).live = true → (s.ember e).draining = false →
     (s.ember e).planned = false → s.astir = false → s.fenced (localOf b.addr) b.bytes.length = false →
     regionOf (localOf b.addr) ≠ some .mirror →
     ∃ t, exec (.storeVisible e k) s = .next t ∧ (t.ember e).air = (s.ember e).air.eraseIdx k ∧
       t.bytes (localOf b.addr) b.bytes.length = b.bytes ∧
       (∀ a, a < localOf b.addr ∨ localOf b.addr + b.bytes.length ≤ a → t.byte a = s.byte a) ∧
       (∀ j, j ≠ e.val → (s.ember j).likeWin (t.ember j)) ∧
       ∀ (f : Fld) (i : Nat), f ≠ .REFETCH_COUNT → t.fld f i = s.fld f i) ∧
  ((∀ (s p : State) (e : Fin 2048) (m : Ember) (w : Word128), s.power = .run → s.ready e = (p, some (m, some w)) →
     p.check0 m.hearth w = .ok () → p.pcCheck m.hearth (m.pc + 16) = .ok () →
     let still (t : State) : Prop := (∀ k, k ≠ e.val → t.ember k = p.ember k) ∧ (∀ a, t.byte a = p.byte a) ∧ ∀ f i, t.fld f i = p.fld f i
     (wordOpc w = 0x05 →
       (m.storesOut = true → p.writing (.ember e (p.emberTag e)) = false →
         ∃ t, exec (.orderG e) s = .next t ∧ (t.ember e).pc = m.pc + 16 ∧ (t.ember e).wait = .none ∧ (t.ember e).backdrafts = 0 ∧
           (∀ i, (t.ember e).a i = if i = wRd w ∧ i ≠ 0 then m.backdrafts % 2 ^ 64 else m.a i) ∧ (wCq w = false → still t)) ∧
       (m.storesOut = false ∨ p.writing (.ember e (p.emberTag e)) = true →
         ∃ t, exec (.orderG e) s = .next t ∧ (t.ember e).wait = .orderG (wRd w) (wCq w) ∧ (∀ i, (t.ember e).a i = m.a i) ∧ still t)) ∧
     (wordOpc w = 0x06 → ((∀ b ∈ m.buf ++ m.air, p.onChip b.addr = false) ∧ ∀ r ∈ m.reeds, p.onChip r.dst = false) →
       ∃ t, exec (.syncI e) s = .next t ∧ (t.ember e).pc = m.pc + 16 ∧ (t.ember e).wait = .none ∧ (t.ember e).win = [] ∧
         p.clk + 24 ≤ (t.ember e).next ∧ (∀ i, (t.ember e).a i = m.a i) ∧ (wCq w = false → still t))) ∧
   (∀ (s : State) (e : Fin 2048) (rd : Nat) (cq : Bool), s.power = .run → (s.ember e).wait = .orderG rd cq → (s.ember e).storesOut = true →
     s.writing (.ember e (s.emberTag e)) = false →
     ∃ t, exec (.orderG e) s = .next t ∧ (t.ember e).wait = .none ∧ (t.ember e).backdrafts = 0 ∧
       ∀ i, (t.ember e).a i = if i = rd ∧ i ≠ 0 then (s.ember e).backdrafts % 2 ^ 64 else (s.ember e).a i) ∧
   ∀ (s : State) (e : Fin 2048) (cq : Bool), s.power = .run → (s.ember e).wait = .syncI cq →
     (∀ b ∈ (s.ember e).buf ++ (s.ember e).air, s.onChip b.addr = false) → (∀ r ∈ (s.ember e).reeds, s.onChip r.dst = false) →
     ∃ t, exec (.syncI e) s = .next t ∧ (t.ember e).wait = .none ∧ (t.ember e).win = [] ∧ s.clk + 24 ≤ (t.ember e).next ∧
       ∀ i, (t.ember e).a i = (s.ember e).a i)

/-- EMBER_START and emb.spawn make an ember with the PC and A1 they give, every other register 0; where no context is free, the
command is REFUSED and A[RD] is all ones. emb.exit retires its ember, at once if no store or copy is on its way. A write of a record may shorten other embers' fetch windows. A word that no chapter
assigns, and a PC that cannot be fetched, end the ember as faulted (R155, R254 to R259, R274, R275). -/
def Obligations.EmberLives : Prop :=
  (∀ (s : State) (h : Fin 16) (r : Taken), s.power = .run → s.takenCmd h 0x02 = some r →
    (∀ e, s.placeEmber h none = some e → s.pcCheck h (recNum r.bytes 8 8) = .ok () →
      ∃ t, exec (.emberStart h) s = .next t ∧ t.taken = s.taken.erase r ∧ (t.ember e).live = true ∧ (t.ember e).planned = false ∧
        (t.ember e).hearth = h.val ∧ (t.ember e).pc = recNum r.bytes 8 8 ∧ (t.ember e).wait = .none ∧ (t.ember e).draining = false ∧
        (∀ i, (t.ember e).a i = if i = 1 then recNum r.bytes 16 8 else 0) ∧ ∀ k, k ≠ e → (s.ember k).likeWin (t.ember k)) ∧
    (s.placeEmber h none = none → s.fld .REFUSED_COUNT h + 1 < 2 ^ Fld.width .REFUSED_COUNT →
      ∃ t, exec (.emberStart h) s = .next t ∧ t.taken = s.taken.erase r ∧ (∀ k, (s.ember k).likeWin (t.ember k)) ∧
        t.fld .REFUSED_COUNT h = s.fld .REFUSED_COUNT h + 1)) ∧
  (∀ (s p : State) (e : Fin 2048) (m : Ember) (w : Word128), s.power = .run → s.ready e = (p, some (m, some w)) →
    p.check0 m.hearth w = .ok () →
    (wordOpc w = 0x07 → p.pcCheck m.hearth ((m.a (wRs1 w) + wImm w) % 2 ^ 64) = .ok () → p.pcCheck m.hearth (m.pc + 16) = .ok () →
      (∀ k, p.placeEmber m.hearth (if (wFunc w).testBit 3 then some (wFunc w % 8) else none) = some k →
        ∃ t, exec (.embSpawn e) s = .next t ∧ (t.ember k).live = true ∧ (t.ember k).hearth = m.hearth ∧
          (t.ember k).pc = (m.a (wRs1 w) + wImm w) % 2 ^ 64 ∧ (∀ i, (t.ember k).a i = if i = 1 then m.a (wRs2 w) else 0) ∧
          (t.ember e).pc = m.pc + 16 ∧
          ∀ i, (t.ember e).a i = if i = wRd w ∧ i ≠ 0 then ((p.ember k).incarn * 2048 + k) % 2 ^ 64 else m.a i) ∧
      (p.placeEmber m.hearth (if (wFunc w).testBit 3 then some (wFunc w % 8) else none) = none →
        ∃ t, exec (.embSpawn e) s = .next t ∧ (t.ember e).pc = m.pc + 16 ∧ (∀ k, k ≠ e.val → (p.ember k).likeWin (t.ember k)) ∧
          ∀ i, (t.ember e).a i = if i = wRd w ∧ i ≠ 0 then 2 ^ 64 - 1 else m.a i)) ∧
    (wordOpc w = 0x08 → ∃ t, exec (.embExit e) s = .next t ∧ (∀ k, k ≠ e.val → (p.ember k).likeWin (t.ember k)) ∧
      (m.storesOut = true → (t.ember e).live = false ∧ (t.ember e).incarn = (m.incarn + 1) % 32) ∧
      (m.storesOut = false → (t.ember e).live = true ∧ (t.ember e).draining = true ∧ (t.ember e).buf = m.buf ∧ (t.ember e).air = m.air))) ∧
  (∀ (s p : State) (e : Fin 2048) (m : Ember) (w : Word128), s.power = .run → s.ready e = (p, some (m, some w)) → emberArm e (wordOpc w) = none →
    p.fld .EMB_FAULT_COUNT + 1 < 2 ^ Fld.width .EMB_FAULT_COUNT →
    ∃ t, exec (.emberFault e) s = .next t ∧ ((t.ember e).live = false ∨ (t.ember e).draining = true) ∧
      t.fld .EMB_FAULT_COUNT = p.fld .EMB_FAULT_COUNT + 1) ∧
  ∀ (s p : State) (e : Fin 2048) (m : Ember) (f : Flaw), s.power = .run → s.ready e = (p, some (m, none)) → p.pcCheck m.hearth m.pc = .error f →
    p.fld .EMB_FAULT_COUNT + 1 < 2 ^ Fld.width .EMB_FAULT_COUNT →
    ∃ t, exec (.emberFault e) s = .next t ∧ ((t.ember e).live = false ∨ (t.ember e).draining = true) ∧
      t.fld .EMB_FAULT_COUNT = p.fld .EMB_FAULT_COUNT + 1

/-- Class 0x7 instructions that pass their checks and whose PC leads on, in the state `p` of the issue cycle; where a local store before the
last order.sl is on its way, an accepted pre.heat, a ring.get of an entry and a ring.put to a local entry wait (log entry 92). strm.push
appends its registers to the channel's index FIFO, and waits where they do not fit; ring.put writes the entry at PUT and advances it,
ring.get loads the entry at GET; on a full or empty ring the NOWAIT forms answer at once; reed.cp asks for its source, and waits for its
copy unless NOWAIT: the copy takes its source bytes, and once its write is granted exactly its destination takes them and the ember goes on;
pre.heat queues a FILLING slot, and heat.wait waits for it or loads its state (R332, R339, R340, R344, R347, R352 to R354, R358). -/
def Obligations.EmberStreamInstructions : Prop :=
  (∀ (s p : State) (e : Fin 2048) (m : Ember) (w : Word128), s.power = .run → s.ready e = (p, some (m, some w)) →
    p.check7 m.hearth m.planned w = .ok () → p.pcCheck m.hearth (m.pc + 16) = .ok () →
    let c := wCh w
    let i := p.fld .RING_OWN_IDX c
    let ga := p.ringEntry c i
    let still (t : State) : Prop := (∀ k, k ≠ e.val → t.ember k = p.ember k) ∧ (∀ a, t.byte a = p.byte a) ∧ ∀ f i, t.fld f i = p.fld f i
    let stalls (t : State) : Prop := (t.ember e).pc = m.pc ∧ (t.ember e).wait = .none ∧ (∀ i, (t.ember e).a i = m.a i) ∧ still t
    (wordOpc w = 0x70 →
      ((p.dctx c false).fifo.length + (m.wide (wRs1 w) (8 * pushRegs w)).length ≤ 4096 →
        ∃ t, exec (.strmPush e) s = .next t ∧ (t.ember e).pc = m.pc + 16 ∧
          (t.dctx c false).fifo.map (·.2) = (p.dctx c false).fifo.map (·.2) ++ m.wide (wRs1 w) (8 * pushRegs w) ∧
          (∀ i, (t.ember e).a i = m.a i) ∧ (wCq w = false → still t)) ∧
      (4096 < (p.dctx c false).fifo.length + (m.wide (wRs1 w) (8 * pushRegs w)).length →
        ∃ t, exec (.strmPush e) s = .next t ∧ stalls t ∧ t.chans = p.chans)) ∧
    (wordOpc w = 0x71 → bnum (m.wide (wRs1 w) 16) 15 1 = 0 → p.ringBusy c = false →
      (p.ringFull c = true → (wFunc w).testBit 0 = true →
        ∃ t, exec (.ringPut e) s = .next t ∧ (t.ember e).pc = m.pc + 16 ∧
          (∀ i, (t.ember e).a i = if i = wRd w ∧ i ≠ 0 then 0x10 else m.a i) ∧ (wCq w = false → still t)) ∧
      (p.ringFull c = true → (wFunc w).testBit 0 = false → ∃ t, exec (.ringPut e) s = .next t ∧ stalls t) ∧
      (p.ringFull c = false → p.slHolds m = false → p.access m.hearth ga 16 .w = .ok () → p.onChip ga = true →
        regionOf (localOf ga) ≠ some .mirror → p.flag .RING_CFG_PEER_WR c = false → wCq w = false →
        ∃ t, exec (.ringPut e) s = .next t ∧ (t.ember e).pc = m.pc + 16 ∧ (∀ i, (t.ember e).a i = if i = wRd w then 0 else m.a i) ∧
          t.fld .RING_OWN_IDX c = (i + 1) % 2 ^ 32 ∧
          t.bytes (localOf ga) 16 = (m.wide (wRs1 w) 16).take 15 ++ leBytes 1 (p.ringPhase c i) ∧
          ∀ a, (a < localOf ga ∨ localOf ga + 16 ≤ a) → t.byte a = p.byte a)) ∧
    (wordOpc w = 0x72 →
      (p.ringHeld c = 0 → (wFunc w).testBit 0 = true →
        ∃ t, exec (.ringGet e) s = .next t ∧ (t.ember e).pc = m.pc + 16 ∧
          (∀ i, (t.ember e).a i = if i ≠ 0 ∧ (i = wRd w ∨ i = wRd w + 1) then 2 ^ 64 - 1 else m.a i) ∧ (wCq w = false → still t)) ∧
      (p.ringHeld c = 0 → (wFunc w).testBit 0 = false → ∃ t, exec (.ringGet e) s = .next t ∧ stalls t) ∧
      (p.ringHeld c ≠ 0 → p.slHolds m = false → p.access m.hearth ga 16 .r = .ok () → p.flag .RING_STAT_HALTED c = false →
        p.flag .RING_CFG_PEER_WR c = false → p.num (localOf ga + 15) 1 % 2 = p.ringPhase c i →
        ∃ t, exec (.ringGet e) s = .next t ∧ (t.ember e).pc = m.pc + 16 ∧ t.fld .RING_OWN_IDX c = (i + 1) % 2 ^ 32 ∧
          (wRd w ≠ 0 → (t.ember e).a (wRd w) = p.num (localOf ga) 8) ∧ (t.ember e).a (wRd w + 1) = p.num (localOf ga + 8) 8 ∧
          (∀ k, k ≠ wRd w → k ≠ wRd w + 1 → (t.ember e).a k = m.a k) ∧ (wCq w = false → ∀ a, t.byte a = p.byte a)) ∧
      (p.ringHeld c ≠ 0 → p.slHolds m = true → p.access m.hearth ga 16 .r = .ok () → ∃ t, exec (.ringGet e) s = .next t ∧ stalls t)) ∧
    (wordOpc w = 0x73 → p.reedCheck m.hearth (m.a (wRs1 w)) (m.a (wRs2 w)) (reedLen w) = .ok () →
      p.mayAccess m (m.a (wRs1 w)) (reedLen w) = true → p.mayAccess m (m.a (wRs2 w)) (reedLen w) = true → p.reedsOn (e.val / 256) < 16 →
      ∀ q1 q2 id, (p.spend e).reedCharge ((p.spend e).ember e) (m.a (wRs1 w)) (m.a (wRs2 w)) (reedLen w) = some q1 →
      q1.reedAsk e (m.a (wRs1 w)) (reedLen w) (wFunc w / 2) = some (.ok (q2, id)) →
      ∃ (q : State) (r : Reed), exec (.reedCp e) s = .next (s.running fun _ => q.runReed e) ∧ ((wFunc w).testBit 0 = true → q.runReed e = q) ∧
        (q.ember e).reeds = m.reeds ++ [r] ∧ r.src = m.a (wRs1 w) ∧ r.dst = m.a (wRs2 w) ∧ r.n = reedLen w ∧ r.req = id ∧
        r.nowait = (wFunc w).testBit 0 ∧ r.data = none ∧ r.wreq = none ∧
        (q.ember e).wait = (if (wFunc w).testBit 0 then .none else .reed) ∧ (q.ember e).pc = m.pc + 16 ∧
        (∀ i, (q.ember e).a i = m.a i) ∧ q.xb = q2.xb ∧ q.reads = q2.reads ∧ (∀ f i, q.fld f i = q2.fld f i) ∧
        (∀ k, k ≠ e.val → q.ember k = p.ember k) ∧ ∀ a, q.byte a = p.byte a) ∧
    (wordOpc w = 0x74 →
      (p.heatSt (4 * m.hearth + wFunc w % 4) ≠ 1 → (p.chan c).queue.length < 16 → p.slHolds m = false →
        ∃ t x, exec (.preHeat e) s = .next t ∧ (t.ember e).pc = m.pc + 16 ∧ t.heatSt (4 * m.hearth + wFunc w % 4) = 1 ∧
          (t.chan c).queue = (p.chan c).queue ++ [x] ∧ x.heat = some (4 * m.hearth + wFunc w % 4) ∧
          (∀ i, (t.ember e).a i = if i = wRd w then 0 else m.a i) ∧ (wCq w = false → still t)) ∧
      (p.heatSt (4 * m.hearth + wFunc w % 4) = 1 ∨ 16 ≤ (p.chan c).queue.length →
        ∃ t, exec (.preHeat e) s = .next t ∧ (t.ember e).pc = m.pc + 16 ∧ t.heat = p.heat ∧ t.chans = p.chans ∧
          (∀ i, (t.ember e).a i = if i = wRd w ∧ i ≠ 0 then 0x10 else m.a i) ∧ (wCq w = false → still t))) ∧
    (wordOpc w = 0x75 →
      (p.heatSt (4 * m.hearth + wFunc w % 4) ≠ 1 →
        ∃ t, exec (.heatWait e) s = .next t ∧ (t.ember e).pc = m.pc + 16 ∧ (t.ember e).wait = .none ∧
          (∀ i, (t.ember e).a i = if i = wRd w ∧ i ≠ 0 then p.heatSt (4 * m.hearth + wFunc w % 4) % 2 ^ 64 else m.a i) ∧
          (wCq w = false → still t)) ∧
      (p.heatSt (4 * m.hearth + wFunc w % 4) = 1 →
        ∃ t, exec (.heatWait e) s = .next t ∧ (t.ember e).wait = .heat (4 * m.hearth + wFunc w % 4) (wRd w) (wCq w) ∧ still t))) ∧
  (∀ (s : State) (e : Fin 2048) (h rd : Nat) (cq : Bool), s.power = .run → (s.ember e).wait = .heat h rd cq → s.heatSt h ≠ 1 →
    ∃ t, exec (.heatWait e) s = .next t ∧ (t.ember e).wait = .none ∧
      ∀ i, (t.ember e).a i = if i = rd ∧ i ≠ 0 then s.heatSt h % 2 ^ 64 else (s.ember e).a i) ∧
  ∀ (s : State) (e k : Nat) (r : Reed), (s.ember e).reeds[k]? = some r →
    (r.data = none → s.onChip r.src = true → (s.xbGot r.req).isSome = true → s.xbDue r.req (s.sampleLat r.src) ≤ s.clk →
      s.fenced (localOf r.src) r.n = false → s.portFree (localOf r.src) ≤ s.clk → regionOf (localOf r.src) ≠ some .mirror →
      ∃ r', ((State.reedStep e k s).ember e).reeds[k]? = some r' ∧ r'.data = some (s.bytes (localOf r.src) r.n) ∧ r'.dst = r.dst ∧
        (∀ a, (State.reedStep e k s).byte a = s.byte a) ∧ ∀ f i, (State.reedStep e k s).fld f i = s.fld f i) ∧
    (∀ bs id, r.data = some bs → r.wreq = some id → bs ≠ [] → (s.xbGot id).isSome = true → s.xbDue id (s.writeLat r.dst r.n) ≤ s.clk →
      s.portFree (localOf r.dst) ≤ s.clk → regionOf (localOf r.dst) ≠ some .mirror → s.fenced (localOf r.dst) bs.length = false →
      r.cq = false → (s.ember e).live = true → (s.ember e).draining = false → (s.ember e).planned = false →
      ((State.reedStep e k s).ember e).reeds = (s.ember e).reeds.eraseIdx k ∧
        ((s.ember e).wait = .reed → r.nowait = false → ((State.reedStep e k s).ember e).wait = .none) ∧
        (State.reedStep e k s).bytes (localOf r.dst) bs.length = bs ∧
        (∀ a, a < localOf r.dst ∨ localOf r.dst + bs.length ≤ a → (State.reedStep e k s).byte a = s.byte a) ∧
        (∀ i, ((State.reedStep e k s).ember e).a i = (s.ember e).a i) ∧
        ∀ (f : Fld) (i : Nat), f ≠ .REFETCH_COUNT → f ≠ .REED_COUNT → (State.reedStep e k s).fld f i = s.fld f i)

/-- Every engine and tile-move instruction issues once its checks pass and, for open work, its unit is free: it leaves its issuer, and a
flight of its word stands for it, with its ledger's row accesses from this cycle on, or its pieces after the issue phase; no memory byte
changes yet, and an ember waits for it. While open work has no unit, its issuer keeps the instruction; one that fails a check starts no
flight (R17, R163, R185 to R187, R209, R247, R249). An instruction with nothing outstanding ends: its flight is gone and the ember that
waited for it goes on, or faults. One that planned work pre-empts starts again later, and leaves every byte outside what it writes alone
(R188, R190). -/
def Obligations.EngineInstructionsIssueAndEnd : Prop :=
  (∀ (s p : State) (i : Issuer) (j : Job) (c : Instr) (opc : Nat), s.power = .run →
     (c, opc) ∈ [(Instr.movT i, 0x10), (.movZ i, 0x11), (.permRoute i, 0x20), (.permGather i, 0x21), (.permScatterFirst i, 0x22),
       (.permScatterLast i, 0x23), (.permScatterSum i, 0x24), (.permScatterFault i, 0x25), (.permRaw i, 0x26), (.tpTile i, 0x30),
       (.winExpand i, 0x40), (.bpUnpack i, 0x50), (.bpPack i, 0x51), (.bpPlane i, 0x52), (.bpUnplane i, 0x53), (.bpIlv i, 0x54),
       (.bpDilv i, 0x55), (.bpColor i, 0x56), (.mixRot i, 0x60), (.mixDeq i, 0x61), (.mixComb i, 0x62), (.mixMm i, 0x63), (.mixCvt i, 0x64)] →
     s.takeJob i opc = .job p j →
     (∀ r range q, workOf opc p j = .ok (.tile r range) → p.mayIssue j (.tile r range) = true → p.blockFor j p.flightNext = .ok q →
       (∀ d ∈ r.sides, p.deadBehind (d.cls % 16) d.unit = none) →
       ∃ t x, exec c s = .next t ∧ t.flight p.flightNext = some x ∧ x.word = j.word ∧ x.ctx = j.ctx ∧ x.planned = j.planned ∧
         x.range = range ∧ x.sides = r.sides ∧ x.ledger = r.ledger ∧ x.acts = actsFrom p.clk r.ledger ∧ x.writes = [] ∧ x.status = 0 ∧
         x.due = p.clk + r.cycles ∧ (j.ctx.origin = 1 → (t.ember j.ctx.ember).wait = .flight p.flightNext) ∧
         (∀ a, t.byte a = p.byte a) ∧ ∀ f i, t.fld f i = p.fld f i) ∧
     (∀ d q, workOf opc p j = .ok (.desc d) → p.mayIssue j (.desc d) = true → p.blockFor j p.flightNext = .ok q → d.flaw = none →
       (∀ r ∈ d.reads, p.onChip r.1 = true) → (∀ u ∈ p.planUnits j, p.deadBehind (wordClass j.word) u = none) →
       ∃ t x, exec c s = .next t ∧ t.flight p.flightNext = some x ∧ x.word = j.word ∧ x.ctx = j.ctx ∧ x.planned = j.planned ∧
         x.units = p.planUnits j ∧ x.todo.length = d.pieces.length ∧ x.runs = [] ∧ x.ended = [] ∧ x.status = 0 ∧ x.oor = d.oor ∧
         x.start = p.clk + (2 + 4 * d.descs.length) ∧ (j.ctx.origin = 1 → (t.ember j.ctx.ember).wait = .flight p.flightNext) ∧
         (∀ a, t.byte a = p.byte a) ∧ ∀ f i, f ≠ .OOR_COUNT → t.fld f i = p.fld f i) ∧
     (∀ g, workOf opc p j = .ok g → p.mayIssue j g = false →
       ((∀ e, i ≠ .ember e) → exec c s = .next s) ∧
       ∀ e, i = .ember e → ∃ t, exec c s = .next t ∧ t.flights = p.flights ∧ (t.ember e).pc = (p.ember e).pc ∧ (t.ember e).wait = .none ∧
         (∀ k, (t.ember e).a k = (p.ember e).a k) ∧ (∀ a, t.byte a = p.byte a) ∧ ∀ f k, t.fld f k = p.fld f k) ∧
     (∀ f, workOf opc p j = .error f →
       (j.ctx.origin = 0 ∨ j.ctx.origin = 2 → ∃ t, exec c s = .next t ∧ t.flights = s.flights ∧ (∀ k, (s.ember k).likeWin (t.ember k)) ∧
         t.links = s.links ∧
         ∀ g k, g ∉ [Fld.AQ_TAIL, .CQ_TAIL, .ASH_DROPPED, .CQ_DROPPED, .HEARTH_STAT_AQ_OVER, .LATE_COUNT, .REFUSED_COUNT, .SELF_MOD_COUNT,
           .REFETCH_COUNT] → t.fld g k = s.fld g k) ∧
       (j.ctx.origin = 1 → (p.ember j.ctx.ember).live = true → p.emberTag j.ctx.ember = j.ctx.tag →
         ∃ t, exec c s = .next t ∧ t.flights = p.flights ∧
           ((t.ember j.ctx.ember).live = false ∨ (t.ember j.ctx.ember).draining = true)))) ∧
  ((∀ (s : State) (k : Nat) (x : Flight), s.power = .run → s.flight k = some x → x.fetching = false → x.ledgerOver = true → x.due ≤ s.clk →
     x.out = [] → x.done = .none → s.writing (.flight k) = false →
     ∃ t, exec (.instructionCompletion k) s = .next t ∧ t.flight k = none ∧
       (x.ctx.origin = 1 → (s.ember x.ctx.ember).live = true → s.emberTag x.ctx.ember = x.ctx.tag →
         (x.status ≠ 0x30 → (t.ember x.ctx.ember).wait = .none ∧ (t.ember x.ctx.ember).pc = (s.ember x.ctx.ember).pc ∧
           ∀ i, (t.ember x.ctx.ember).a i = (s.ember x.ctx.ember).a i) ∧
         (x.status = 0x30 → (t.ember x.ctx.ember).live = false ∨ (t.ember x.ctx.ember).draining = true))) ∧
   ∀ (s : State) (k : Nat) (x : Flight), s.power = .run → s.flight k = some x → x.planned = false → x.status ≠ 0x30 →
     (x.ledger ≠ [] → x.acts ≠ [] ∨ x.writes ≠ [] →
       ∃ t y, exec (.pieceRestart k) s = .next t ∧ t.flight k = some y ∧ y.again = true ∧ y.acts = [] ∧ y.writes = [] ∧ y.ledger = x.ledger ∧
         y.word = x.word ∧ y.ctx = x.ctx ∧ (∀ a, (∀ e ∈ s.tileNew x, a < e.1 ∨ e.1 + e.2.length ≤ a) → t.byte a = s.byte a) ∧
         ∀ (f : Fld) (i : Nat), f ≠ .REFETCH_COUNT → t.fld f i = s.fld f i) ∧
     (x.ledger = [] → x.acts = [] → x.writes = [] → x.runs ≠ [] →
       ∃ t y, exec (.pieceRestart k) s = .next t ∧ t.flight k = some y ∧ y.runs = [] ∧ (∀ r ∈ x.runs, r.piece ∈ y.todo) ∧
         (∀ q ∈ x.todo, q ∈ y.todo) ∧ y.word = x.word ∧ y.ctx = x.ctx ∧
         (∀ a, (∀ r ∈ x.runs, ∀ e ∈ s.herePart (r.piece.data.getD []), a < e.1 ∨ e.1 + e.2.length ≤ a) → t.byte a = s.byte a) ∧
         ∀ (f : Fld) (i : Nat), f ≠ .REFETCH_COUNT → t.fld f i = s.fld f i))

/-- A cycle of an instruction's ledger makes the row accesses due in it, on the rows as they stand at its start, and changes no byte; a row
write puts exactly its bytes where it says (R174, R175). Over an uninterrupted run on the rows of `v`, mov.t copies whole rows from one tile
file to another and mov.z clears them; element (x, y) of the tile of tp.tile is element (y, x) of the source; lane i of each row of
perm.gather is the lane that index i names, and 0 where there is none; no byte outside the destination's rows changes (R182, R183, R195,
R210, R230). -/
def Obligations.TileForms : Prop :=
  ((∀ (s v : State) (k : Nat) (x : Flight), s.flight k = some x → s.flag .TRACE_CTL_ARM = false →
      (s.doActs v k).flight k =
          some ((x.acts.filter fun e => e.1 ≤ s.clk).foldl (fun y e => y.act v e.2) { x with acts := x.acts.filter fun e => s.clk < e.1 }) ∧
        (∀ a, (s.doActs v k).byte a = s.byte a) ∧ ∀ f i, (s.doActs v k).fld f i = s.fld f i) ∧
   ∀ (s : State) (k a : Nat) (x : Flight) (r : RowWrite) (bs : List Byte), s.flight k = some x → x.writes = [r] → r.at_ ≤ s.clk →
     r.data = [(a, bs)] → bs ≠ [] → r.cause = 0 → regionOf a = some .tile → s.rowClk ≠ s.clk →
     (State.doWrites r.move k s).bytes a bs.length = bs ∧
       (∀ b, b < a ∨ a + bs.length ≤ b → (State.doWrites r.move k s).byte b = s.byte b) ∧
       (State.doWrites (!r.move) k s).mem = s.mem) ∧
  (∀ (p v : State) (j : Job) (x : Flight) (r : TileRun) (range : List (Nat × Nat)), x.word = j.word → x.ledger = r.ledger → x.range = range →
    let w := j.word
    let put := (v.tileNew x).foldl (fun t e => t.setBytes e.1 e.2) v
    (p.movT j = .ok (.tile r range) →
      let da := rowAddr (fileClass (wFile w 0)) (wAux16 w % 32) (wRow w 0)
      put.bytes da (1024 * moveRows w) = v.rowBytes (rowAddr (fileClass (wFile w 1)) (wUnit w) (wRow w 1)) (1024 * moveRows w) ∧
        ∀ a, a < da ∨ da + 1024 * moveRows w ≤ a → put.byte a = v.byte a) ∧
    (p.movZ j = .ok (.tile r range) →
      let da := rowAddr (fileClass (wFile w 0)) (wUnit w) (wRow w 0)
      (∀ k, k < 1024 * moveRows w → put.byte (da + k) = 0) ∧ ∀ a, a < da ∨ da + 1024 * moveRows w ≤ a → put.byte a = v.byte a) ∧
    let e := elemBits (wElem w)
    let n := tileRows (tileBits (wElem w) (wD0 w * wD1 w))
    let src := v.rowBytes (rowOf w 1) (1024 * n)
    (wordOpc w = 0x30 → wordTile w = true → workOf 0x30 p j = .ok (.tile r range) →
      (∀ a b, a < wD1 w → b < wD0 w →
        getBits (put.bytes (rowOf w 0) (1024 * n)) ((b * wD1 w + a) * e) e = getBits src ((a * wD0 w + b) * e) e) ∧
      ∀ a, a < rowOf w 0 ∨ rowOf w 0 + 1024 * n ≤ a → put.byte a = v.byte a) ∧
    (wordOpc w = 0x21 → wordTile w = true → wOpx w = 0 → workOf 0x21 p j = .ok (.tile r range) →
      (∀ m l, m < wD1 w → l < wD0 w →
        let i := (v.rowByte (rowOf w 2 + l)).toNat
        getBits (put.bytes (rowOf w 0) (1024 * n)) ((m * wD0 w + l) * e) e = if i < wD0 w then getBits src ((m * wD0 w + i) * e) e else 0) ∧
      ∀ a, a < rowOf w 0 ∨ rowOf w 0 + 1024 * n ≤ a → put.byte a = v.byte a))

/-- A channel takes the front of its queue and runs it with its own descriptor from the beginning, or, where the descriptor cannot
be read or fails a check, ends FAULTED with ENABLE 0 (R304, R306, R308). A read group takes the bytes of its source in the cycle in which
its request takes effect; a write group's bytes leave in whole beats, and each becomes visible as exactly what left, in the cycle its
request gives. A transfer that has moved everything completes: the open context leaves the channel IDLE with DONE set, the planned one its
PSTAT IDLE. A faulted transfer ends FAULTED, in either context; a pausing one with bytes to go stops PAUSED; an indexed consumer whose
producer has faulted, or that is planned, ends STREAM_BROKEN (R286, R308 to R310, R318, R336, R403). -/
def Obligations.DmaTransfers : Prop :=
  (∀ (s : State) (c : Fin 64) (f : Xfer), s.power = .run → (s.chan c).front = some f → s.mayTake c f.ctx.hearth = true →
     (f.prio && s.pastDeadline f.ctx.accept f.deadline) = false → s.dmaStart ≤ s.clk → f.bad = 0 →
     s.heatGate c f.ctx.hearth = some (.ok ()) →
     (∀ b d, s.xferImage c f = .ok b → s.checkDma f.ctx.hearth c b = .ok d →
       ∃ t, exec (.dmaTransferStart c) s = .next t ∧ t.chSt c = chRunning ∧ (t.chan c).queue = (s.chan c).queue.erase f ∧
         (t.chan c).opn.xfer.isSome = true ∧ (t.chan c).opn.desc = d ∧ (t.chan c).opn.left = d.units ∧ (t.chan c).pln = (s.chan c).pln ∧
         t.fld .BYTES_DONE c = 0 ∧ t.fld .PART_COUNT c = 0 ∧ (∀ k, k ≠ c.val → t.chan k = s.chan k) ∧ ∀ a, t.byte a = s.byte a) ∧
     (∀ w, s.xferImage c f = .error w → f.ring = none → s.fld .DMA_FAULT_COUNT + 1 < 2 ^ Fld.width .DMA_FAULT_COUNT →
       ∃ t, exec (.dmaTransferStart c) s = .next t ∧ t.chSt c = chFaulted ∧ t.flag .CH_CTRL_ENABLE c = false ∧
         (t.chan c).queue = (s.chan c).queue.erase f ∧ (t.chan c).opn.xfer = none ∧ t.fld .DMA_FAULT_COUNT = s.fld .DMA_FAULT_COUNT + 1)) ∧
  ((∀ (s : State) (c : Fin 64) (planned : Bool) (k ga n z : Nat) (r : DmaRead), (s.dctx c planned).rds[k]? = some r → r.src = some (ga, n) →
      r.data = none → r.sample = some z → z ≤ s.clk → s.onChip ga = true → s.fenced (localOf ga) n = false →
      regionOf (localOf ga) ≠ some .mirror →
      let t := State.sampleRead c planned k s
      (∃ r', (t.dctx c planned).rds[k]? = some r' ∧ r'.data = some (s.bytes (localOf ga) n) ∧ r'.dst = r.dst) ∧
        (∀ a, t.byte a = s.byte a) ∧ ∀ f i, t.fld f i = s.fld f i) ∧
   (∀ (s : State) (c : Fin 64) (planned : Bool) (f : Xfer) (g : DmaSeg) (rest : List DmaSeg), (s.dctx c planned).xfer = some f →
      (s.dctx c planned).ready = g :: rest → s.consumerOf c = none → s.onChip g.dst = true → s.tidRoom (8 + c.val / 16) true planned = true →
      ∃ t l, s.issueWrite c planned = some t ∧ (t.dctx c planned).out = (s.dctx c planned).out ++ l ∧
        (l.map (·.bytes)).flatten = g.bytes.take (s.nextWrite c planned) ∧ (∀ a, t.byte a = s.byte a) ∧
        ∀ o ∈ l, ∃ i, o.ga = s.global (localOf g.dst + i) ∧ o.bytes = ((g.bytes.take (s.nextWrite c planned)).drop i).take o.bytes.length) ∧
   ∀ (s : State) (c : Fin 64) (planned : Bool) (o : DmaOut) (z : Nat), (s.dctx c planned).out = [o] → o.vis = some z → z ≤ s.clk →
      o.bytes ≠ [] → s.fenced (localOf o.ga) o.bytes.length = false → regionOf (localOf o.ga) ≠ some .mirror →
      let t := State.pollOut c planned s
      (t.dctx c planned).out = [] ∧ t.bytes (localOf o.ga) o.bytes.length = o.bytes ∧
        (∀ a, a < localOf o.ga ∨ localOf o.ga + o.bytes.length ≤ a → t.byte a = s.byte a) ∧
        ∀ (f : Fld) (i : Nat), f ≠ .REFETCH_COUNT → t.fld f i = s.fld f i) ∧
  (∀ (s : State) (c : Fin 64) (f : Xfer), s.power = .run → (s.chan c).opn.xfer = some f → s.writing (.dma c false) = false → f.ring = none →
     (s.chan c).opn.due < s.clk → (s.chan c).opn.out = [] → (s.ringMode c = 1 → s.xferDone c true = false) →
     (s.ringMode c ≠ 1 → (s.chan c).opn.ringWait = false → s.xferDone c false = true → (s.chan c).opn.ending = .running →
       (s.chan c).opn.backdraft = 0 →
       ∃ t, exec (.dmaTransferComplete c false) s = .next t ∧ t.chSt c = chIdle ∧ t.flag .CH_STAT_DONE c = true ∧ (t.chan c).opn.xfer = none ∧
         (t.chan c).queue = (s.chan c).queue ∧ (t.chan c).pln = (s.chan c).pln ∧ (f.ctx.cq = false → ∀ a, t.byte a = s.byte a)) ∧
     (∀ cause sub addr len, (s.chan c).opn.ending = .fault cause sub addr len → s.fld .DMA_FAULT_COUNT + 1 < 2 ^ Fld.width .DMA_FAULT_COUNT →
       ∃ t, exec (.dmaFault c false) s = .next t ∧ t.chSt c = chFaulted ∧ t.flag .CH_CTRL_ENABLE c = false ∧ (t.chan c).opn.xfer = none ∧
         t.fld .DMA_FAULT_COUNT = s.fld .DMA_FAULT_COUNT + 1) ∧
     (s.pauseReady c = true →
       ∃ t, exec (.dmaPaused c) s = .next t ∧ t.chSt c = chPaused ∧ (t.chan c).opn.xfer = some f ∧ (t.chan c).opn.left = (s.chan c).opn.left ∧
         (t.chan c).queue = (s.chan c).queue ∧ (∀ k, k ≠ c.val → t.chan k = s.chan k) ∧ ∀ a, t.byte a = s.byte a) ∧
     (s.starves c false = true → (s.chan c).opn.drained = true → (s.chan c).opn.producerFaulted = true →
       s.fld .STREAM_BROKEN_COUNT + 1 < 2 ^ Fld.width .STREAM_BROKEN_COUNT →
       ∃ t, exec (.streamBroken c false) s = .next t ∧ t.chSt c = chFaulted ∧ (t.chan c).opn.xfer = none ∧
         t.fld .STREAM_BROKEN_COUNT = s.fld .STREAM_BROKEN_COUNT + 1)) ∧
  ∀ (s : State) (c : Fin 64) (f : Xfer), s.power = .run → (s.chan c).pln.xfer = some f → s.writing (.dma c true) = false → f.ring = none →
     (s.chan c).pln.due < s.clk → (s.chan c).pln.out = [] → (s.chan c).pwait = [] →
     (s.ringMode c ≠ 1 → (s.chan c).pln.ringWait = false → s.xferDone c true = true → (s.chan c).pln.ending = .running →
       (s.chan c).pln.backdraft = 0 →
       ∃ t, exec (.dmaTransferComplete c true) s = .next t ∧ t.fld .PSTAT c = chIdle ∧ (t.chan c).pln.xfer = none ∧
         (t.chan c).opn = (s.chan c).opn ∧ (f.ctx.cq = false → ∀ a, t.byte a = s.byte a)) ∧
     (∀ cause sub addr len, (s.chan c).pln.ending = .fault cause sub addr len → s.fld .DMA_FAULT_COUNT + 1 < 2 ^ Fld.width .DMA_FAULT_COUNT →
       ∃ t, exec (.dmaFault c true) s = .next t ∧ t.fld .PSTAT c = chFaulted ∧ t.flag .CH_CTRL_ENABLE c = false ∧ (t.chan c).pln.xfer = none ∧
         t.fld .DMA_FAULT_COUNT = s.fld .DMA_FAULT_COUNT + 1) ∧
     (s.starves c true = true → (s.chan c).pln.drained = true → s.fld .STREAM_BROKEN_COUNT + 1 < 2 ^ Fld.width .STREAM_BROKEN_COUNT →
       ∃ t, exec (.streamBroken c true) s = .next t ∧ t.fld .PSTAT c = chFaulted ∧ (t.chan c).pln.xfer = none ∧
         t.fld .STREAM_BROKEN_COUNT = s.fld .STREAM_BROKEN_COUNT + 1)

/-- The handle of a finished transfer goes into the entry at PUT and PUT advances, or the transfer waits for room with WAITING set;
an IN_DMA ring's next entry becomes a transfer at the queue's tail, and one with the wrong PHASE halts the ring. Room and entries go by the
indices at the start of the cycle (R338 to R344). -/
def Obligations.HandleRings : Prop :=
  (∀ (s : State) (c : Fin 64) (f : Xfer), s.power = .run → (s.chan c).opn.xfer = some f → (s.chan c).opn.ringWait = true →
    (s.chan c).opn.ringStage = false → s.xferDone c false = true → (s.chan c).opn.due < s.clk → (s.chan c).opn.ending = .running →
    (s.chan c).opn.backdraft = 0 → s.xferDone c true = false → f.ring = none → f.ctx.cq = false → f.ctx.faultCq = false → s.ringMode c = 1 →
    s.ringBusy c = false →
    let i := s.fld .RING_OWN_IDX c
    let ga := s.ringEntry c i
    (s.ringFull c = false → s.access f.ctx.hearth ga 16 .w = .ok () → s.onChip ga = true → regionOf (localOf ga) ≠ some .mirror →
      s.flag .RING_CFG_PEER_WR c = false →
      ∃ t, exec (.ringOutHandle c false) s = .next t ∧ t.chSt c = chIdle ∧ (t.chan c).opn.xfer = none ∧
        t.fld .RING_OWN_IDX c = (i + 1) % 2 ^ 32 ∧
        t.bytes (localOf ga) 16 =
          leBytes 8 (s.chan c).opn.desc.dst ++ leBytes 4 (s.chan c).opn.done ++ leBytes 2 (i % 65536) ++ [0] ++ leBytes 1 (s.ringPhase c i) ∧
        ∀ a, (a < localOf ga ∨ localOf ga + 16 ≤ a) → t.byte a = s.byte a) ∧
    (s.ringFull c = true → ∃ t, exec (.ringOutHandle c false) s = .next t ∧ t.flag .RING_STAT_WAITING c = true ∧
      (t.chan c).opn.xfer = some f ∧ (t.chan c).opn.ringWait = true ∧ t.fld .RING_OWN_IDX c = i ∧ ∀ a, t.byte a = s.byte a)) ∧
  ∀ (s : State) (c : Fin 64) (h : Nat), s.power = .run → s.chanOwner c = some h → s.ringMode c = 3 → s.flag .CH_CTRL_ENABLE c = true →
    (s.chan c).queue.length < 16 → s.flag .RING_STAT_HALTED c = false → (s.chan c).ringTaken < s.ringHeld c →
    let i := (s.fld .RING_OWN_IDX c + (s.chan c).ringTaken) % 2 ^ 32
    let a := localOf (s.ringEntry c i)
    s.access h (s.ringEntry c i) 16 .r = .ok () →
    (s.num (a + 15) 1 % 2 = s.ringPhase c i →
      ∃ t x, exec (.ringInTake c) s = .next t ∧ (t.chan c).queue = (s.chan c).queue ++ [x] ∧ x.ctx.hearth = h ∧
        x.ring = some (i, s.num a 8, s.num (a + 8) 4, s.num (a + 14) 1) ∧ (∀ f k, t.fld f k = s.fld f k) ∧ ∀ b, t.byte b = s.byte b) ∧
    (s.num (a + 15) 1 % 2 ≠ s.ringPhase c i →
      ∃ t, exec (.ringInTake c) s = .next t ∧ t.flag .RING_STAT_HALTED c = true ∧ t.flag .RING_STAT_PHASE_ERR c = true ∧ t.chans = s.chans ∧
        ∀ b, t.byte b = s.byte b)

/-- KV operations that pass their checks. kv.open opens every listed sequence for the hearth with an empty page table; kv.close
issues and will free the listed sequences with every page they hold; kv.append takes its frames from the pool, which shrinks as its
locked sequences end, or is REFUSED with the pool as it stands; kv.gather starts under its tag and changes no sequence it can read (pages found as in log entry 67; R365,
R378, R380, R388). kv.confirm and kv.squash close an OPEN tag at this tick; on a tag that is IDLE or closed they change no tag and
no page, and their note says why (R383, R384, R386). -/
def Obligations.KvOperations : Prop :=
  ((∀ (s p q : State) (i : Issuer) (j : Job) (o : KvOp), s.power = .run → s.takeJob i 0x81 = .job p j → p.readKvOp j = .ok o →
     kvMatch j.word o = .ok () → p.blockFor j p.flightNext = .ok q →
     needAll (upTo o.ids.length) (fun k => p.access j.hearth (p.global (o.k.pt + k * o.k.maxPages * 8)) (o.k.maxPages * 8) .w) = .ok () →
     ∃ t, exec (.kvOpen i) s = .next t ∧ (∀ n, n < o.ids.length →
         t.seq (o.ids.getD n 0) = { opened := true, hearth := j.hearth, rowLog2 := o.k.rowLog2, ptAddr := o.k.pt + n * o.k.maxPages * 8,
                                    maxPages := o.k.maxPages } ∧
         ∀ e, e < o.k.maxPages → (t.ptEntry (t.seq (o.ids.getD n 0)) e).frame = noPage) ∧
       ∀ n, n ∉ o.ids → t.seq n = p.seq n) ∧
   (∀ (s p q : State) (i : Issuer) (j : Job) (o : KvOp), s.power = .run → s.takeJob i 0x82 = .job p j → p.readKvOp j = .ok o → p.mayClose j.hearth o = true →
     kvMatch j.word o = .ok () → p.blockFor j p.flightNext = .ok q →
     ∃ t x, exec (.kvClose i) s = .next t ∧ t.flight p.flightNext = some x ∧
       x.done = .kvClose o.ids (o.ids.flatMap fun n => (p.pagesHeld (p.seq n)).map (·.2)) ∧
       x.stack = (o.ids.flatMap fun n => p.pagesHeld (p.seq n)).length ∧ t.seqs = p.seqs ∧ ∀ a, t.byte a = p.byte a) ∧
   (∀ (s p q : State) (i : Issuer) (j : Job) (o : KvOp) (l : Layout), s.power = .run → s.takeJob i 0x83 = .job p j → p.readKvOp j = .ok o →
     p.mayAppend j.hearth o = true → o.lay = some l → p.touches l (((p.planAppend j.hearth o).map (·.spots)).getD [] |>.map fun a => (a, 2 ^ (p.seq (o.ids.headD 0)).rowLog2)) = false →
     kvMatch j.word o = .ok () → p.access j.hearth l.base l.size .r = .ok () → p.tagClosed j.hearth o.k.spec = none →
     (∀ n ∈ o.ids, (p.seq n).broken = false ∧ p.specConflict n o.k.spec = false) → p.blockFor j p.flightNext = .ok q →
     (∀ a, p.planAppend j.hearth o = some a → p.appendAccess j.hearth o l a = .ok () → (∀ x ∈ a.spots, regionOf x = some .fen) →
       ∃ t x, exec (.kvAppend i) s = .next t ∧ t.flight p.flightNext = some x ∧ x.tag = o.k.spec ∧
         x.done = .kvAppend o.ids o.k.rows o.k.spec a.spots a.news a.popped ∧
         x.stack = a.popped.length ∧ t.fld .KV_POOL_TOP j.hearth = p.fld .KV_POOL_TOP j.hearth ∧
         t.fld .KV_PAGES_USED j.hearth = (p.fld .KV_PAGES_USED j.hearth + a.news.length) % 2 ^ Fld.width .KV_PAGES_USED ∧ t.seqs = p.seqs) ∧
     (p.planAppend j.hearth o = none → p.fld .KV_ALLOC_FAIL j.hearth + 1 < 2 ^ Fld.width .KV_ALLOC_FAIL →
       ∃ t x, exec (.kvAppend i) s = .next t ∧ t.flight p.flightNext = some x ∧ x.status = 0x10 ∧ x.r0 = 7 ∧
         t.fld .KV_ALLOC_FAIL j.hearth = p.fld .KV_ALLOC_FAIL j.hearth + 1 ∧ t.fld .KV_POOL_TOP j.hearth = p.fld .KV_POOL_TOP j.hearth ∧
         t.seqs = p.seqs ∧ ∀ a, t.byte a = p.byte a)) ∧
   ∀ (s p q : State) (i : Issuer) (j : Job) (o : KvOp) (l : Layout), s.power = .run → s.takeJob i 0x84 = .job p j → p.readKvOp j = .ok o →
     o.lay = some l → p.touches l ((o.k.list, 2 * o.k.nSeq) :: p.gatherRanges o) = false → kvMatch j.word o = .ok () →
     p.access j.hearth l.base l.size .w = .ok () → p.tagClosed j.hearth o.k.spec = none → (∀ n ∈ o.ids, (p.seq n).broken = false) →
     (gatherOut (p.freeRows o) l (p.kvRows j.hearth o) o.k.nRows).flaw = none → p.blockFor j p.flightNext = .ok q →
     ∃ t x, exec (.kvGather i) s = .next t ∧ t.flight p.flightNext = some x ∧ x.tag = o.k.spec ∧
       x.done = (if o.k.ring then .kvRing o.k.ringCh l.base l.size o.k.spec else .none) ∧ t.seqs = p.seqs ∧
       (o.k.spec ≠ 0 → (t.tag j.hearth o.k.spec).inFlight = (p.tag j.hearth o.k.spec).inFlight + 1)) ∧
  (∀ (s p q : State) (i : Issuer) (j : Job) (o : KvOp) (squash : Bool), s.power = .run →
     s.takeJob i (if squash then 0x86 else 0x85) = .job p j → p.readKvOp j = .ok o → kvMatch j.word o = .ok () →
     p.blockFor j p.flightNext = .ok q →
     ((p.tag j.hearth o.k.spec).st = 1 →
       ∃ t, exec (if squash then .kvSquash i else .kvConfirm i) s = .next t ∧
         t.tag j.hearth o.k.spec = { p.tag j.hearth o.k.spec with st := if squash then 3 else 2, closed := p.now }) ∧
     (∀ note, p.settleNote j.hearth o.k.spec squash = some note →
       ∃ t x, exec (if squash then .kvSquash i else .kvConfirm i) s = .next t ∧ t.flight p.flightNext = some x ∧ x.status = 0 ∧ x.note = note ∧
         t.tags = p.tags ∧ t.seqs = p.seqs ∧ ∀ a, t.byte a = p.byte a))

/-- A RESHARD command joins its hearth's instruction queue; a reshard whose checks pass starts with the moves, the nodes and the
bytes it expects, of which those that have arrived already count; a move of bytes at hand to a place of this chip writes exactly them; a
reshard ends once every move is done and every byte has come; RESHARD_CANCEL stops the one of its hearth that it names, whose local
destination bytes alone may change, and one that names none completes with R0 = 0 (R145, R146, R148, R153). -/
def Obligations.Reshards : Prop :=
  (∀ (s : State) (h : Fin 16) (r : Taken), s.power = .run → s.takenCmd h 0x05 = some r → (s.hearth h).iq.length < 32 →
    (∀ q ∈ (s.hearth h).iq, assigned (wordOpc q.word) = true) →
    ∃ t q, exec (.reshard (.queue h) true) s = .next t ∧ t.taken = s.taken.erase r ∧ (t.hearth h).iq = (s.hearth h).iq ++ [q] ∧ q.cmd = true ∧
      wordOpc q.word = 0x80 ∧ wSrc q.word = recNum r.bytes 12 4 % 2 ^ 30 ∧ (∀ f i, t.fld f i = s.fld f i) ∧ ∀ a, t.byte a = s.byte a) ∧
  (∀ (s p q u : State) (i : Issuer) (j : Job) (o : ReshardOp) (r : Reshard), s.power = .run → s.takeJob i 0x80 = .job p j →
    p.reshardWord j = .ok () → p.readReshard j.hearth (wSrc j.word) = .ok o → reshardMatch j o = .ok () → p.planReshard j o = .ok (u, r) →
    p.reshards.length < 16 → u.blockFor j u.flightNext = .ok q → r.moves = [] →
    ∃ t r', exec (.reshard i false) s = .next t ∧ t.reshards = p.reshards ++ [r'] ∧ r'.id = r.id ∧ r'.nodes = r.nodes ∧ r'.expectIn = r.expectIn ∧
      r'.moves = [] ∧ (u.landed = [] → r' = r) ∧ t.flightNext = p.flightNext + 1 ∧ (∀ a, t.byte a = p.byte a) ∧ ∀ f k, t.fld f k = p.fld f k) ∧
  (∀ (s : State) (id : Nat) (r : Reshard) (m : RMove) (bs : List Byte), s.reshardOf id = some r → r.moves = [m] → m.data = some bs → bs ≠ [] →
    s.onChip m.dst = true → regionOf (localOf m.dst) ≠ some .mirror → s.fenced (localOf m.dst) bs.length = false → (s.payMove r m).2 = true →
    ∃ z, (s.send id).reshardOf id = some z ∧ z.moves = [] ∧ (s.send id).bytes (localOf m.dst) bs.length = bs ∧
      (∀ a, a < localOf m.dst ∨ localOf m.dst + bs.length ≤ a → (s.send id).byte a = s.byte a) ∧
      ∀ (f : Fld) (i : Nat), f ≠ .REFETCH_COUNT → (s.send id).fld f i = s.fld f i) ∧
  (∀ (s : State) (id : BitVec 16) (r : Reshard), s.power = .run → s.reshardOf id.toNat = some r → r.moves = [] →
    s.writing (.reshard id.toNat) = false →
    (r.cause ≠ 0 ∨ r.cancel ≠ [] ∨ r.expectIn ≤ r.gotIn →
      ∃ t, exec (.reshardComplete id) s = .next t ∧ t.reshards = s.reshards.filter (·.id != id.toNat)) ∧
    (r.cause = 0 → r.cancel = [] → r.gotIn < r.expectIn → exec (.reshardComplete id) s = .next s)) ∧
  ∀ (s : State) (h : Fin 16) (r : Taken), s.power = .run → s.takenCmd h 0x06 = some r →
    (∀ q, s.reshardOf (recNum r.bytes 8 2) = some q → q.ctx.hearth = h.val →
      ∃ t z, exec (.reshardCancel h) s = .next t ∧ t.taken = s.taken.erase r ∧ t.reshardOf (recNum r.bytes 8 2) = some z ∧ z.moves = [] ∧
        z.cancel = q.cancel ++ [takenCtx r] ∧ (∀ (f : Fld) (i : Nat), f ≠ .REFETCH_COUNT → t.fld f i = s.fld f i) ∧
        ∀ a, (∀ m ∈ q.moves, s.onChip m.dst = true → a < localOf m.dst ∨ localOf m.dst + m.len ≤ a) → t.byte a = s.byte a) ∧
    ((∀ q ∈ s.reshards, q.id = recNum r.bytes 8 2 → q.ctx.hearth ≠ h.val) →
      ∃ t, exec (.reshardCancel h) s = .next t ∧ t.taken = s.taken.erase r ∧ t.reshards = s.reshards)
end

