-- ==== Sys2Proof/Laws/Exec.lean ====
section
/-! SUPPORT. What `exec` can do, said once: every command but five is a part of the running chip, and an operand list that no wire
can carry is a fault. -/

namespace Sys2Proof.Machine

theorem running_run {s : State} (h : s.power = .run) (f : State → State) :
    s.running f = { f s with pending := s.pending, power := .run, fuses := s.fuses, thermtripLow := s.thermtripLow } := by
  simp [State.running, h]

theorem running_stopped {s : State} (h : s.power ≠ .run) (f : State → State) : s.running f = s := by simp [State.running, h]

@[simp] theorem running_pending (s : State) (f : State → State) : (s.running f).pending = s.pending := by
  unfold State.running; split <;> rfl

@[simp] theorem running_power (s : State) (f : State → State) : (s.running f).power = s.power := by
  unfold State.running; split <;> simp_all

@[simp] theorem running_fuses (s : State) (f : State → State) : (s.running f).fuses = s.fuses := by
  unfold State.running; split <;> rfl

@[simp] theorem running_thermtripLow (s : State) (f : State → State) : (s.running f).thermtripLow = s.thermtripLow := by
  unfold State.running; split <;> rfl

/-- Where a part of the running chip leaves those four fields alone, it is the whole effect. -/
theorem running_eq {s : State} {f : State → State} (h : s.power = .run) (hp : (f s).pending = s.pending)
    (hw : (f s).power = .run) (hf : (f s).fuses = s.fuses) (ht : (f s).thermtripLow = s.thermtripLow) : s.running f = f s := by
  rw [running_run h, ← hp, ← hw, ← hf, ← ht]

theorem liveIf_true (s : State) (f : State → State) {b : Bool} (h : b = true) : liveIf b s f = .next (s.running f) := by
  simp [liveIf, live, h]

/-- A well-formed command that is none of the five is a part of the running chip. -/
theorem exec_live {c : Instr} (hp : c.powers = false) (hs : c.stops = false) (hw : c.wf = true) :
    ∃ f : State → State, ∀ s, exec c s = .next (s.running f) := by
  cases c
  all_goals first
    | exact ⟨_, fun s => rfl⟩
    | exact ⟨_, fun s => liveIf_true s _ hw⟩
    | exact absurd (show true = false from hp) Bool.noConfusion
    | exact absurd (show true = false from hs) Bool.noConfusion

/-- An operand list that no wire can carry. -/
theorem exec_illFormed {c : Instr} (hw : c.wf = false) (s : State) : exec c s = .fault .illFormed := by
  cases c
  all_goals first
    | exact absurd (show true = false from hw) Bool.noConfusion
    | exact if_neg (Bool.eq_false_iff.mp hw)

end Sys2Proof.Machine
end

