-- ==== Sys2Proof/Laws/Maps.lean ====
section
/-! SUPPORT. Reading a sparse map after writing it. -/

namespace Sys2Proof.Machine

theorem mget_filter_same {α : Type} (d : α) (k : Nat) (m : List (Nat × α)) : mget d k (m.filter fun e => e.1 != k) = d := by
  induction m with
  | nil => rfl
  | cons e r ih => by_cases h : e.1 = k <;> simp [h, mget, ih]

theorem mget_filter_other {α : Type} (d : α) {k j : Nat} (h : j ≠ k) (m : List (Nat × α)) :
    mget d j (m.filter fun e => e.1 != k) = mget d j m := by
  induction m with
  | nil => rfl
  | cons e r ih =>
    by_cases hk : e.1 = k
    · have : e.1 ≠ j := fun hj => h (hj ▸ hk)
      simp [hk, mget, ih, Ne.symm h]
    · simp [hk, mget, ih]

theorem mget_minsert_other {α : Type} (d : α) {k j : Nat} (h : j ≠ k) (v : α) (m : List (Nat × α)) :
    mget d j (minsert k v m) = mget d j m := by
  induction m with
  | nil => simp [minsert, mget, Ne.symm h]
  | cons e r ih =>
    by_cases hk : k < e.1
    · simp [minsert, hk, mget, Ne.symm h]
    · simp [minsert, hk, mget, ih]

theorem mget_minsert_same {α : Type} (d : α) (k : Nat) (v : α) (m : List (Nat × α)) (h : ∀ e ∈ m, e.1 ≠ k) :
    mget d k (minsert k v m) = v := by
  induction m with
  | nil => simp [minsert, mget]
  | cons e r ih =>
    by_cases hk : k < e.1
    · simp [minsert, hk, mget]
    · have he := h e (by simp)
      simp [minsert, hk, mget, he, ih fun x hx => h x (by simp [hx])]

/-- A written key reads back. -/
@[simp] theorem mget_mput_same {α : Type} [DecidableEq α] (d : α) (k : Nat) (v : α) (m : List (Nat × α)) :
    mget d k (mput d k v m) = v := by
  unfold mput
  split
  · next h => rw [mget_filter_same, h]
  · exact mget_minsert_same d k v _ fun e he => by simpa using (List.mem_filter.mp he).2

/-- Every other key reads as before, under any default. -/
theorem mget_mput_other {α : Type} [DecidableEq α] (c d : α) {k j : Nat} (h : j ≠ k) (v : α) (m : List (Nat × α)) :
    mget c j (mput d k v m) = mget c j m := by
  unfold mput
  split
  · exact mget_filter_other c h m
  · rw [mget_minsert_other c h, mget_filter_other c h]

end Sys2Proof.Machine
end

