-- ==== Sys2Proof/Laws/Memory.lean ====
section
/-! SUPPORT. The canonical form of memory, and that every memory operation keeps it. -/

namespace Sys2Proof.Machine

/-- The canonical form as a property of members. -/
theorem Memory.wf_iff (m : List Host.Cell) : Memory.wf m = true ↔ m.Pairwise (fun a b => a.1 < b.1) ∧ ∀ e ∈ m, e.2 ≠ 0 := by
  induction m with
  | nil => simp [Memory.wf]
  | cons e r ih =>
    cases r with
    | nil => simp [Memory.wf]
    | cons f t =>
      simp only [Memory.wf, Bool.and_eq_true, bne_iff_ne, decide_eq_true_eq, ih, List.pairwise_cons, List.mem_cons]
      constructor
      · rintro ⟨⟨h0, h1⟩, ⟨h2, h3⟩, h4⟩
        refine ⟨⟨?_, h2, h3⟩, ?_⟩
        · rintro x (rfl | hx)
          · exact h1
          · exact Nat.lt_trans h1 (h2 x hx)
        · rintro x (rfl | hx)
          · exact h0
          · exact h4 x hx
      · rintro ⟨⟨h1, h2, h3⟩, h4⟩
        exact ⟨⟨h4 e (.inl rfl), h1 f (.inl rfl)⟩, ⟨h2, h3⟩, fun x hx => h4 x (.inr hx)⟩

theorem Memory.wf_filter {m : List Host.Cell} (p : Host.Cell → Bool) (h : Memory.wf m) : Memory.wf (m.filter p) := by
  rw [Memory.wf_iff] at *
  exact ⟨h.1.filter p, fun e he => h.2 e (List.mem_filter.mp he).1⟩

theorem mem_minsert {α : Type} {k : Nat} {v : α} {m : List (Nat × α)} {e : Nat × α} (h : e ∈ minsert k v m) : e = (k, v) ∨ e ∈ m := by
  induction m with
  | nil => simpa [minsert] using h
  | cons a r ih =>
    by_cases hk : k < a.1
    · simpa [minsert, hk] using h
    · simp only [minsert, hk, if_false, List.mem_cons] at h
      rcases h with h | h
      · exact .inr (by simp [h])
      · rcases ih h with h | h
        · exact .inl h
        · exact .inr (by simp [h])

theorem pairwise_minsert {α : Type} {k : Nat} (v : α) {m : List (Nat × α)} (h : m.Pairwise fun a b => a.1 < b.1)
    (hk : ∀ e ∈ m, e.1 ≠ k) : (minsert k v m).Pairwise fun a b => a.1 < b.1 := by
  induction m with
  | nil => simp [minsert]
  | cons a r ih =>
    obtain ⟨h1, h2⟩ := List.pairwise_cons.mp h
    by_cases hl : k < a.1
    · simp only [minsert, hl, if_true]
      refine List.pairwise_cons.mpr ⟨?_, h⟩
      intro e he
      rcases List.mem_cons.mp he with rfl | he
      · exact hl
      · exact Nat.lt_trans hl (h1 e he)
    · simp only [minsert, hl, if_false]
      refine List.pairwise_cons.mpr ⟨?_, ih h2 fun e he => hk e (by simp [he])⟩
      intro e he
      rcases mem_minsert he with rfl | he
      · have := hk a (by simp)
        simp only; omega
      · exact h1 e he

theorem Memory.wf_mput {m : List Host.Cell} (a : Nat) (b : Byte) (h : Memory.wf m) : Memory.wf (mput 0 a b m) := by
  unfold mput
  split
  · exact Memory.wf_filter _ h
  · next hb =>
    have hf := Memory.wf_filter (fun e => e.1 != a) h
    rw [Memory.wf_iff] at hf ⊢
    have hk : ∀ e ∈ m.filter (fun e => e.1 != a), e.1 ≠ a := fun e he => by simpa using (List.mem_filter.mp he).2
    refine ⟨pairwise_minsert b hf.1 hk, fun e he => ?_⟩
    rcases mem_minsert he with rfl | he
    · exact hb
    · exact hf.2 e he

theorem Memory.wf_memSet {m : List Host.Cell} (a : Nat) (bs : List Byte) (h : Memory.wf m) : Memory.wf (memSet m a bs) := by
  induction bs generalizing m a with
  | nil => exact h
  | cons b r ih => exact ih (a + 1) (Memory.wf_mput a b h)

/-- Every operation on memory keeps the canonical form. -/
theorem setByte_wf {s : State} (a : Nat) (b : Byte) (h : Memory.wf s.mem) : Memory.wf (s.setByte a b).mem := Memory.wf_mput a b h
theorem setBytes_wf {s : State} (a : Nat) (bs : List Byte) (h : Memory.wf s.mem) : Memory.wf (s.setBytes a bs).mem :=
  Memory.wf_memSet a bs h
theorem zeroRange_wf {s : State} (lo hi : Nat) (h : Memory.wf s.mem) : Memory.wf (s.zeroRange lo hi).mem := Memory.wf_filter _ h
theorem reset_wf : Memory.wf State.reset.mem := rfl

/-! ### Reading bytes after writing them -/

@[simp] theorem setByte_byte_same (s : State) (a : Nat) (b : Byte) : (s.setByte a b).byte a = b := mget_mput_same 0 a b s.mem

theorem setByte_byte_other (s : State) {a x : Nat} (h : x ≠ a) (b : Byte) : (s.setByte a b).byte x = s.byte x :=
  mget_mput_other 0 0 h b s.mem

theorem mget_memSet_below (m : List Host.Cell) {a x : Nat} (bs : List Byte) (h : x < a) : mget 0 x (memSet m a bs) = mget 0 x m := by
  induction bs generalizing m a with
  | nil => rfl
  | cons b r ih => rw [memSet, ih _ (Nat.lt_succ_of_lt h), mget_mput_other 0 0 (Nat.ne_of_lt h)]

theorem mget_memSet (m : List Host.Cell) (a x : Nat) (bs : List Byte) :
    mget 0 x (memSet m a bs) = if a ≤ x ∧ x < a + bs.length then bs.getD (x - a) 0 else mget 0 x m := by
  induction bs generalizing m a with
  | nil => simp [memSet]
  | cons b r ih =>
    rw [memSet, ih]
    rcases Nat.lt_trichotomy x a with h | rfl | h
    · rw [if_neg (by omega), if_neg (by omega), mget_mput_other 0 0 (by omega)]
    · rw [if_neg (by omega), if_pos ⟨Nat.le_refl _, by simp⟩]
      simp
    · by_cases hx : x < a + 1 + r.length
      · rw [if_pos ⟨h, hx⟩, if_pos ⟨by omega, by simp; omega⟩, show x - a = (x - (a + 1)) + 1 by omega]
        simp
      · rw [if_neg (by omega), if_neg (by simp; omega), mget_mput_other 0 0 (by omega)]

/-- A byte after bytes are written from `a` on: the written one inside the range, the old one elsewhere. -/
theorem setBytes_byte (s : State) (a x : Nat) (bs : List Byte) :
    (s.setBytes a bs).byte x = if a ≤ x ∧ x < a + bs.length then bs.getD (x - a) 0 else s.byte x := mget_memSet s.mem a x bs

end Sys2Proof.Machine
end

