-- ==== Sys2Proof/Laws/State.lean ====
section
/-! SUPPORT. What each elementary update of the state leaves unchanged, field by field, and what its own reader reads after it. -/

namespace Sys2Proof.Machine

/-! ### setFld -/

@[simp] theorem setFld_power (s : State) (f : Fld) (i v : Nat) : (s.setFld f i v).power = s.power := rfl
@[simp] theorem setFld_fuses (s : State) (f : Fld) (i v : Nat) : (s.setFld f i v).fuses = s.fuses := rfl
@[simp] theorem setFld_clk (s : State) (f : Fld) (i v : Nat) : (s.setFld f i v).clk = s.clk := rfl
@[simp] theorem setFld_cyc (s : State) (f : Fld) (i v : Nat) : (s.setFld f i v).cyc = s.cyc := rfl
@[simp] theorem setFld_free (s : State) (f : Fld) (i v : Nat) : (s.setFld f i v).free = s.free := rfl
@[simp] theorem setFld_shadow (s : State) (f : Fld) (i v : Nat) : (s.setFld f i v).shadow = s.shadow := rfl
@[simp] theorem setFld_commits (s : State) (f : Fld) (i v : Nat) : (s.setFld f i v).commits = s.commits := rfl
@[simp] theorem setFld_mem (s : State) (f : Fld) (i v : Nat) : (s.setFld f i v).mem = s.mem := rfl
@[simp] theorem setFld_units (s : State) (f : Fld) (i v : Nat) : (s.setFld f i v).units = s.units := rfl
@[simp] theorem setFld_latches (s : State) (f : Fld) (i v : Nat) : (s.setFld f i v).latches = s.latches := rfl
@[simp] theorem setFld_miso (s : State) (f : Fld) (i v : Nat) : (s.setFld f i v).miso = s.miso := rfl
@[simp] theorem setFld_bus (s : State) (f : Fld) (i v : Nat) : (s.setFld f i v).bus = s.bus := rfl
@[simp] theorem setFld_msix (s : State) (f : Fld) (i v : Nat) : (s.setFld f i v).msix = s.msix := rfl
@[simp] theorem setFld_tk (s : State) (f : Fld) (i v : Nat) : (s.setFld f i v).tk = s.tk := rfl
@[simp] theorem setFld_plans (s : State) (f : Fld) (i v : Nat) : (s.setFld f i v).plans = s.plans := rfl
@[simp] theorem setFld_released (s : State) (f : Fld) (i v : Nat) : (s.setFld f i v).released = s.released := rfl
@[simp] theorem setFld_relNext (s : State) (f : Fld) (i v : Nat) : (s.setFld f i v).relNext = s.relNext := rfl
@[simp] theorem setFld_loadNext (s : State) (f : Fld) (i v : Nat) : (s.setFld f i v).loadNext = s.loadNext := rfl
@[simp] theorem setFld_hearths (s : State) (f : Fld) (i v : Nat) : (s.setFld f i v).hearths = s.hearths := rfl
@[simp] theorem setFld_sqNext (s : State) (f : Fld) (i v : Nat) : (s.setFld f i v).sqNext = s.sqNext := rfl
@[simp] theorem setFld_taken (s : State) (f : Fld) (i v : Nat) : (s.setFld f i v).taken = s.taken := rfl
@[simp] theorem setFld_chans (s : State) (f : Fld) (i v : Nat) : (s.setFld f i v).chans = s.chans := rfl
@[simp] theorem setFld_embers (s : State) (f : Fld) (i v : Nat) : (s.setFld f i v).embers = s.embers := rfl
@[simp] theorem setFld_heat (s : State) (f : Fld) (i v : Nat) : (s.setFld f i v).heat = s.heat := rfl
@[simp] theorem setFld_bucket (s : State) (f : Fld) (i v : Nat) : (s.setFld f i v).bucket = s.bucket := rfl
@[simp] theorem setFld_borrowed (s : State) (f : Fld) (i v : Nat) : (s.setFld f i v).borrowed = s.borrowed := rfl
@[simp] theorem setFld_seqs (s : State) (f : Fld) (i v : Nat) : (s.setFld f i v).seqs = s.seqs := rfl
@[simp] theorem setFld_tampered (s : State) (f : Fld) (i v : Nat) : (s.setFld f i v).tampered = s.tampered := rfl
@[simp] theorem setFld_tags (s : State) (f : Fld) (i v : Nat) : (s.setFld f i v).tags = s.tags := rfl
@[simp] theorem setFld_flights (s : State) (f : Fld) (i v : Nat) : (s.setFld f i v).flights = s.flights := rfl
@[simp] theorem setFld_flightNext (s : State) (f : Fld) (i v : Nat) : (s.setFld f i v).flightNext = s.flightNext := rfl
@[simp] theorem setFld_reshards (s : State) (f : Fld) (i v : Nat) : (s.setFld f i v).reshards = s.reshards := rfl
@[simp] theorem setFld_posted (s : State) (f : Fld) (i v : Nat) : (s.setFld f i v).posted = s.posted := rfl
@[simp] theorem setFld_reads (s : State) (f : Fld) (i v : Nat) : (s.setFld f i v).reads = s.reads := rfl
@[simp] theorem setFld_lateWids (s : State) (f : Fld) (i v : Nat) : (s.setFld f i v).lateWids = s.lateWids := rfl
@[simp] theorem setFld_sides (s : State) (f : Fld) (i v : Nat) : (s.setFld f i v).sides = s.sides := rfl
@[simp] theorem setFld_rowClk (s : State) (f : Fld) (i v : Nat) : (s.setFld f i v).rowClk = s.rowClk := rfl
@[simp] theorem setFld_rowOld (s : State) (f : Fld) (i v : Nat) : (s.setFld f i v).rowOld = s.rowOld := rfl
@[simp] theorem setFld_codeClk (s : State) (f : Fld) (i v : Nat) : (s.setFld f i v).codeClk = s.codeClk := rfl
@[simp] theorem setFld_codeOld (s : State) (f : Fld) (i v : Nat) : (s.setFld f i v).codeOld = s.codeOld := rfl
@[simp] theorem setFld_pipes (s : State) (f : Fld) (i v : Nat) : (s.setFld f i v).pipes = s.pipes := rfl
@[simp] theorem setFld_portAt (s : State) (f : Fld) (i v : Nat) : (s.setFld f i v).portAt = s.portAt := rfl
@[simp] theorem setFld_misoLine (s : State) (f : Fld) (i v : Nat) : (s.setFld f i v).misoLine = s.misoLine := rfl
@[simp] theorem setFld_lastWrite (s : State) (f : Fld) (i v : Nat) : (s.setFld f i v).lastWrite = s.lastWrite := rfl
@[simp] theorem setFld_lastHw (s : State) (f : Fld) (i v : Nat) : (s.setFld f i v).lastHw = s.lastHw := rfl
@[simp] theorem setFld_tickOut (s : State) (f : Fld) (i v : Nat) : (s.setFld f i v).tickOut = s.tickOut := rfl
@[simp] theorem setFld_tickOutAt (s : State) (f : Fld) (i v : Nat) : (s.setFld f i v).tickOutAt = s.tickOutAt := rfl
@[simp] theorem setFld_sqAt (s : State) (f : Fld) (i v : Nat) : (s.setFld f i v).sqAt = s.sqAt := rfl
@[simp] theorem setFld_heatClk (s : State) (f : Fld) (i v : Nat) : (s.setFld f i v).heatClk = s.heatClk := rfl
@[simp] theorem setFld_heatOld (s : State) (f : Fld) (i v : Nat) : (s.setFld f i v).heatOld = s.heatOld := rfl
@[simp] theorem setFld_xb (s : State) (f : Fld) (i v : Nat) : (s.setFld f i v).xb = s.xb := rfl
@[simp] theorem setFld_xbNext (s : State) (f : Fld) (i v : Nat) : (s.setFld f i v).xbNext = s.xbNext := rfl
@[simp] theorem setFld_xbLast (s : State) (f : Fld) (i v : Nat) : (s.setFld f i v).xbLast = s.xbLast := rfl
@[simp] theorem setFld_xbOwed (s : State) (f : Fld) (i v : Nat) : (s.setFld f i v).xbOwed = s.xbOwed := rfl
@[simp] theorem setFld_locks (s : State) (f : Fld) (i v : Nat) : (s.setFld f i v).locks = s.locks := rfl
@[simp] theorem setFld_slotAt (s : State) (f : Fld) (i v : Nat) : (s.setFld f i v).slotAt = s.slotAt := rfl
@[simp] theorem setFld_slotUse (s : State) (f : Fld) (i v : Nat) : (s.setFld f i v).slotUse = s.slotUse := rfl
@[simp] theorem setFld_dmaStart (s : State) (f : Fld) (i v : Nat) : (s.setFld f i v).dmaStart = s.dmaStart := rfl
@[simp] theorem setFld_dmaLast (s : State) (f : Fld) (i v : Nat) : (s.setFld f i v).dmaLast = s.dmaLast := rfl
@[simp] theorem setFld_ringClk (s : State) (f : Fld) (i v : Nat) : (s.setFld f i v).ringClk = s.ringClk := rfl
@[simp] theorem setFld_ringOld (s : State) (f : Fld) (i v : Nat) : (s.setFld f i v).ringOld = s.ringOld := rfl
@[simp] theorem setFld_fillAt (s : State) (f : Fld) (i v : Nat) : (s.setFld f i v).fillAt = s.fillAt := rfl
@[simp] theorem setFld_landed (s : State) (f : Fld) (i v : Nat) : (s.setFld f i v).landed = s.landed := rfl
@[simp] theorem setFld_widNext (s : State) (f : Fld) (i v : Nat) : (s.setFld f i v).widNext = s.widNext := rfl
@[simp] theorem setFld_ridNext (s : State) (f : Fld) (i v : Nat) : (s.setFld f i v).ridNext = s.ridNext := rfl
@[simp] theorem setFld_links (s : State) (f : Fld) (i v : Nat) : (s.setFld f i v).links = s.links := rfl
@[simp] theorem setFld_node (s : State) (f : Fld) (i v : Nat) : (s.setFld f i v).node = s.node := rfl
@[simp] theorem setFld_therm (s : State) (f : Fld) (i v : Nat) : (s.setFld f i v).therm = s.therm := rfl
@[simp] theorem setFld_tray (s : State) (f : Fld) (i v : Nat) : (s.setFld f i v).tray = s.tray := rfl
@[simp] theorem setFld_damp (s : State) (f : Fld) (i v : Nat) : (s.setFld f i v).damp = s.damp := rfl
@[simp] theorem setFld_thermtripLow (s : State) (f : Fld) (i v : Nat) : (s.setFld f i v).thermtripLow = s.thermtripLow := rfl
@[simp] theorem setFld_pcieUp (s : State) (f : Fld) (i v : Nat) : (s.setFld f i v).pcieUp = s.pcieUp := rfl
@[simp] theorem setFld_pending (s : State) (f : Fld) (i v : Nat) : (s.setFld f i v).pending = s.pending := rfl
@[simp] theorem setFld_shd_read (s : State) (f : Fld) (i v : Nat) (r : Fld) (j : Nat) : (s.setFld f i v).shd r j = s.shd r j := rfl
@[simp] theorem setFld_byte_read (s : State) (f : Fld) (i v : Nat) (x : Nat) : (s.setFld f i v).byte x = s.byte x := rfl
@[simp] theorem setFld_plan_read (s : State) (f : Fld) (i v : Nat) (x : Nat) : (s.setFld f i v).plan x = s.plan x := rfl
@[simp] theorem setFld_hearth_read (s : State) (f : Fld) (i v : Nat) (x : Nat) : (s.setFld f i v).hearth x = s.hearth x := rfl
@[simp] theorem setFld_chan_read (s : State) (f : Fld) (i v : Nat) (x : Nat) : (s.setFld f i v).chan x = s.chan x := rfl
@[simp] theorem setFld_ember_read (s : State) (f : Fld) (i v : Nat) (x : Nat) : (s.setFld f i v).ember x = s.ember x := rfl
@[simp] theorem setFld_link_read (s : State) (f : Fld) (i v : Nat) (x : Nat) : (s.setFld f i v).link x = s.link x := rfl
@[simp] theorem setFld_seq_read (s : State) (f : Fld) (i v : Nat) (x : Nat) : (s.setFld f i v).seq x = s.seq x := rfl
@[simp] theorem setFld_tag_read (s : State) (f : Fld) (i v : Nat) (x y : Nat) : (s.setFld f i v).tag x y = s.tag x y := rfl
@[simp] theorem setFld_heatSt_read (s : State) (f : Fld) (i v : Nat) (x : Nat) : (s.setFld f i v).heatSt x = s.heatSt x := rfl

/-! ### setShd -/

@[simp] theorem setShd_power (s : State) (f : Fld) (i v : Nat) : (s.setShd f i v).power = s.power := rfl
@[simp] theorem setShd_fuses (s : State) (f : Fld) (i v : Nat) : (s.setShd f i v).fuses = s.fuses := rfl
@[simp] theorem setShd_clk (s : State) (f : Fld) (i v : Nat) : (s.setShd f i v).clk = s.clk := rfl
@[simp] theorem setShd_cyc (s : State) (f : Fld) (i v : Nat) : (s.setShd f i v).cyc = s.cyc := rfl
@[simp] theorem setShd_free (s : State) (f : Fld) (i v : Nat) : (s.setShd f i v).free = s.free := rfl
@[simp] theorem setShd_reg (s : State) (f : Fld) (i v : Nat) : (s.setShd f i v).reg = s.reg := rfl
@[simp] theorem setShd_commits (s : State) (f : Fld) (i v : Nat) : (s.setShd f i v).commits = s.commits := rfl
@[simp] theorem setShd_mem (s : State) (f : Fld) (i v : Nat) : (s.setShd f i v).mem = s.mem := rfl
@[simp] theorem setShd_units (s : State) (f : Fld) (i v : Nat) : (s.setShd f i v).units = s.units := rfl
@[simp] theorem setShd_latches (s : State) (f : Fld) (i v : Nat) : (s.setShd f i v).latches = s.latches := rfl
@[simp] theorem setShd_miso (s : State) (f : Fld) (i v : Nat) : (s.setShd f i v).miso = s.miso := rfl
@[simp] theorem setShd_bus (s : State) (f : Fld) (i v : Nat) : (s.setShd f i v).bus = s.bus := rfl
@[simp] theorem setShd_msix (s : State) (f : Fld) (i v : Nat) : (s.setShd f i v).msix = s.msix := rfl
@[simp] theorem setShd_tk (s : State) (f : Fld) (i v : Nat) : (s.setShd f i v).tk = s.tk := rfl
@[simp] theorem setShd_plans (s : State) (f : Fld) (i v : Nat) : (s.setShd f i v).plans = s.plans := rfl
@[simp] theorem setShd_released (s : State) (f : Fld) (i v : Nat) : (s.setShd f i v).released = s.released := rfl
@[simp] theorem setShd_relNext (s : State) (f : Fld) (i v : Nat) : (s.setShd f i v).relNext = s.relNext := rfl
@[simp] theorem setShd_loadNext (s : State) (f : Fld) (i v : Nat) : (s.setShd f i v).loadNext = s.loadNext := rfl
@[simp] theorem setShd_hearths (s : State) (f : Fld) (i v : Nat) : (s.setShd f i v).hearths = s.hearths := rfl
@[simp] theorem setShd_sqNext (s : State) (f : Fld) (i v : Nat) : (s.setShd f i v).sqNext = s.sqNext := rfl
@[simp] theorem setShd_taken (s : State) (f : Fld) (i v : Nat) : (s.setShd f i v).taken = s.taken := rfl
@[simp] theorem setShd_chans (s : State) (f : Fld) (i v : Nat) : (s.setShd f i v).chans = s.chans := rfl
@[simp] theorem setShd_embers (s : State) (f : Fld) (i v : Nat) : (s.setShd f i v).embers = s.embers := rfl
@[simp] theorem setShd_heat (s : State) (f : Fld) (i v : Nat) : (s.setShd f i v).heat = s.heat := rfl
@[simp] theorem setShd_bucket (s : State) (f : Fld) (i v : Nat) : (s.setShd f i v).bucket = s.bucket := rfl
@[simp] theorem setShd_borrowed (s : State) (f : Fld) (i v : Nat) : (s.setShd f i v).borrowed = s.borrowed := rfl
@[simp] theorem setShd_seqs (s : State) (f : Fld) (i v : Nat) : (s.setShd f i v).seqs = s.seqs := rfl
@[simp] theorem setShd_tampered (s : State) (f : Fld) (i v : Nat) : (s.setShd f i v).tampered = s.tampered := rfl
@[simp] theorem setShd_tags (s : State) (f : Fld) (i v : Nat) : (s.setShd f i v).tags = s.tags := rfl
@[simp] theorem setShd_flights (s : State) (f : Fld) (i v : Nat) : (s.setShd f i v).flights = s.flights := rfl
@[simp] theorem setShd_flightNext (s : State) (f : Fld) (i v : Nat) : (s.setShd f i v).flightNext = s.flightNext := rfl
@[simp] theorem setShd_reshards (s : State) (f : Fld) (i v : Nat) : (s.setShd f i v).reshards = s.reshards := rfl
@[simp] theorem setShd_posted (s : State) (f : Fld) (i v : Nat) : (s.setShd f i v).posted = s.posted := rfl
@[simp] theorem setShd_reads (s : State) (f : Fld) (i v : Nat) : (s.setShd f i v).reads = s.reads := rfl
@[simp] theorem setShd_lateWids (s : State) (f : Fld) (i v : Nat) : (s.setShd f i v).lateWids = s.lateWids := rfl
@[simp] theorem setShd_sides (s : State) (f : Fld) (i v : Nat) : (s.setShd f i v).sides = s.sides := rfl
@[simp] theorem setShd_rowClk (s : State) (f : Fld) (i v : Nat) : (s.setShd f i v).rowClk = s.rowClk := rfl
@[simp] theorem setShd_rowOld (s : State) (f : Fld) (i v : Nat) : (s.setShd f i v).rowOld = s.rowOld := rfl
@[simp] theorem setShd_codeClk (s : State) (f : Fld) (i v : Nat) : (s.setShd f i v).codeClk = s.codeClk := rfl
@[simp] theorem setShd_codeOld (s : State) (f : Fld) (i v : Nat) : (s.setShd f i v).codeOld = s.codeOld := rfl
@[simp] theorem setShd_pipes (s : State) (f : Fld) (i v : Nat) : (s.setShd f i v).pipes = s.pipes := rfl
@[simp] theorem setShd_portAt (s : State) (f : Fld) (i v : Nat) : (s.setShd f i v).portAt = s.portAt := rfl
@[simp] theorem setShd_misoLine (s : State) (f : Fld) (i v : Nat) : (s.setShd f i v).misoLine = s.misoLine := rfl
@[simp] theorem setShd_lastWrite (s : State) (f : Fld) (i v : Nat) : (s.setShd f i v).lastWrite = s.lastWrite := rfl
@[simp] theorem setShd_lastHw (s : State) (f : Fld) (i v : Nat) : (s.setShd f i v).lastHw = s.lastHw := rfl
@[simp] theorem setShd_tickOut (s : State) (f : Fld) (i v : Nat) : (s.setShd f i v).tickOut = s.tickOut := rfl
@[simp] theorem setShd_tickOutAt (s : State) (f : Fld) (i v : Nat) : (s.setShd f i v).tickOutAt = s.tickOutAt := rfl
@[simp] theorem setShd_sqAt (s : State) (f : Fld) (i v : Nat) : (s.setShd f i v).sqAt = s.sqAt := rfl
@[simp] theorem setShd_heatClk (s : State) (f : Fld) (i v : Nat) : (s.setShd f i v).heatClk = s.heatClk := rfl
@[simp] theorem setShd_heatOld (s : State) (f : Fld) (i v : Nat) : (s.setShd f i v).heatOld = s.heatOld := rfl
@[simp] theorem setShd_xb (s : State) (f : Fld) (i v : Nat) : (s.setShd f i v).xb = s.xb := rfl
@[simp] theorem setShd_xbNext (s : State) (f : Fld) (i v : Nat) : (s.setShd f i v).xbNext = s.xbNext := rfl
@[simp] theorem setShd_xbLast (s : State) (f : Fld) (i v : Nat) : (s.setShd f i v).xbLast = s.xbLast := rfl
@[simp] theorem setShd_xbOwed (s : State) (f : Fld) (i v : Nat) : (s.setShd f i v).xbOwed = s.xbOwed := rfl
@[simp] theorem setShd_locks (s : State) (f : Fld) (i v : Nat) : (s.setShd f i v).locks = s.locks := rfl
@[simp] theorem setShd_slotAt (s : State) (f : Fld) (i v : Nat) : (s.setShd f i v).slotAt = s.slotAt := rfl
@[simp] theorem setShd_slotUse (s : State) (f : Fld) (i v : Nat) : (s.setShd f i v).slotUse = s.slotUse := rfl
@[simp] theorem setShd_dmaStart (s : State) (f : Fld) (i v : Nat) : (s.setShd f i v).dmaStart = s.dmaStart := rfl
@[simp] theorem setShd_dmaLast (s : State) (f : Fld) (i v : Nat) : (s.setShd f i v).dmaLast = s.dmaLast := rfl
@[simp] theorem setShd_ringClk (s : State) (f : Fld) (i v : Nat) : (s.setShd f i v).ringClk = s.ringClk := rfl
@[simp] theorem setShd_ringOld (s : State) (f : Fld) (i v : Nat) : (s.setShd f i v).ringOld = s.ringOld := rfl
@[simp] theorem setShd_fillAt (s : State) (f : Fld) (i v : Nat) : (s.setShd f i v).fillAt = s.fillAt := rfl
@[simp] theorem setShd_landed (s : State) (f : Fld) (i v : Nat) : (s.setShd f i v).landed = s.landed := rfl
@[simp] theorem setShd_widNext (s : State) (f : Fld) (i v : Nat) : (s.setShd f i v).widNext = s.widNext := rfl
@[simp] theorem setShd_ridNext (s : State) (f : Fld) (i v : Nat) : (s.setShd f i v).ridNext = s.ridNext := rfl
@[simp] theorem setShd_links (s : State) (f : Fld) (i v : Nat) : (s.setShd f i v).links = s.links := rfl
@[simp] theorem setShd_node (s : State) (f : Fld) (i v : Nat) : (s.setShd f i v).node = s.node := rfl
@[simp] theorem setShd_therm (s : State) (f : Fld) (i v : Nat) : (s.setShd f i v).therm = s.therm := rfl
@[simp] theorem setShd_tray (s : State) (f : Fld) (i v : Nat) : (s.setShd f i v).tray = s.tray := rfl
@[simp] theorem setShd_damp (s : State) (f : Fld) (i v : Nat) : (s.setShd f i v).damp = s.damp := rfl
@[simp] theorem setShd_thermtripLow (s : State) (f : Fld) (i v : Nat) : (s.setShd f i v).thermtripLow = s.thermtripLow := rfl
@[simp] theorem setShd_pcieUp (s : State) (f : Fld) (i v : Nat) : (s.setShd f i v).pcieUp = s.pcieUp := rfl
@[simp] theorem setShd_pending (s : State) (f : Fld) (i v : Nat) : (s.setShd f i v).pending = s.pending := rfl
@[simp] theorem setShd_fld_read (s : State) (f : Fld) (i v : Nat) (r : Fld) (j : Nat) : (s.setShd f i v).fld r j = s.fld r j := rfl
@[simp] theorem setShd_byte_read (s : State) (f : Fld) (i v : Nat) (x : Nat) : (s.setShd f i v).byte x = s.byte x := rfl
@[simp] theorem setShd_plan_read (s : State) (f : Fld) (i v : Nat) (x : Nat) : (s.setShd f i v).plan x = s.plan x := rfl
@[simp] theorem setShd_hearth_read (s : State) (f : Fld) (i v : Nat) (x : Nat) : (s.setShd f i v).hearth x = s.hearth x := rfl
@[simp] theorem setShd_chan_read (s : State) (f : Fld) (i v : Nat) (x : Nat) : (s.setShd f i v).chan x = s.chan x := rfl
@[simp] theorem setShd_ember_read (s : State) (f : Fld) (i v : Nat) (x : Nat) : (s.setShd f i v).ember x = s.ember x := rfl
@[simp] theorem setShd_link_read (s : State) (f : Fld) (i v : Nat) (x : Nat) : (s.setShd f i v).link x = s.link x := rfl
@[simp] theorem setShd_seq_read (s : State) (f : Fld) (i v : Nat) (x : Nat) : (s.setShd f i v).seq x = s.seq x := rfl
@[simp] theorem setShd_tag_read (s : State) (f : Fld) (i v : Nat) (x y : Nat) : (s.setShd f i v).tag x y = s.tag x y := rfl
@[simp] theorem setShd_heatSt_read (s : State) (f : Fld) (i v : Nat) (x : Nat) : (s.setShd f i v).heatSt x = s.heatSt x := rfl

/-! ### setByte -/

@[simp] theorem setByte_power (s : State) (a : Nat) (b : Byte) : (s.setByte a b).power = s.power := rfl
@[simp] theorem setByte_fuses (s : State) (a : Nat) (b : Byte) : (s.setByte a b).fuses = s.fuses := rfl
@[simp] theorem setByte_clk (s : State) (a : Nat) (b : Byte) : (s.setByte a b).clk = s.clk := rfl
@[simp] theorem setByte_cyc (s : State) (a : Nat) (b : Byte) : (s.setByte a b).cyc = s.cyc := rfl
@[simp] theorem setByte_free (s : State) (a : Nat) (b : Byte) : (s.setByte a b).free = s.free := rfl
@[simp] theorem setByte_reg (s : State) (a : Nat) (b : Byte) : (s.setByte a b).reg = s.reg := rfl
@[simp] theorem setByte_shadow (s : State) (a : Nat) (b : Byte) : (s.setByte a b).shadow = s.shadow := rfl
@[simp] theorem setByte_commits (s : State) (a : Nat) (b : Byte) : (s.setByte a b).commits = s.commits := rfl
@[simp] theorem setByte_units (s : State) (a : Nat) (b : Byte) : (s.setByte a b).units = s.units := rfl
@[simp] theorem setByte_latches (s : State) (a : Nat) (b : Byte) : (s.setByte a b).latches = s.latches := rfl
@[simp] theorem setByte_miso (s : State) (a : Nat) (b : Byte) : (s.setByte a b).miso = s.miso := rfl
@[simp] theorem setByte_bus (s : State) (a : Nat) (b : Byte) : (s.setByte a b).bus = s.bus := rfl
@[simp] theorem setByte_msix (s : State) (a : Nat) (b : Byte) : (s.setByte a b).msix = s.msix := rfl
@[simp] theorem setByte_tk (s : State) (a : Nat) (b : Byte) : (s.setByte a b).tk = s.tk := rfl
@[simp] theorem setByte_plans (s : State) (a : Nat) (b : Byte) : (s.setByte a b).plans = s.plans := rfl
@[simp] theorem setByte_released (s : State) (a : Nat) (b : Byte) : (s.setByte a b).released = s.released := rfl
@[simp] theorem setByte_relNext (s : State) (a : Nat) (b : Byte) : (s.setByte a b).relNext = s.relNext := rfl
@[simp] theorem setByte_loadNext (s : State) (a : Nat) (b : Byte) : (s.setByte a b).loadNext = s.loadNext := rfl
@[simp] theorem setByte_hearths (s : State) (a : Nat) (b : Byte) : (s.setByte a b).hearths = s.hearths := rfl
@[simp] theorem setByte_sqNext (s : State) (a : Nat) (b : Byte) : (s.setByte a b).sqNext = s.sqNext := rfl
@[simp] theorem setByte_taken (s : State) (a : Nat) (b : Byte) : (s.setByte a b).taken = s.taken := rfl
@[simp] theorem setByte_chans (s : State) (a : Nat) (b : Byte) : (s.setByte a b).chans = s.chans := rfl
@[simp] theorem setByte_embers (s : State) (a : Nat) (b : Byte) : (s.setByte a b).embers = s.embers := rfl
@[simp] theorem setByte_heat (s : State) (a : Nat) (b : Byte) : (s.setByte a b).heat = s.heat := rfl
@[simp] theorem setByte_bucket (s : State) (a : Nat) (b : Byte) : (s.setByte a b).bucket = s.bucket := rfl
@[simp] theorem setByte_borrowed (s : State) (a : Nat) (b : Byte) : (s.setByte a b).borrowed = s.borrowed := rfl
@[simp] theorem setByte_seqs (s : State) (a : Nat) (b : Byte) : (s.setByte a b).seqs = s.seqs := rfl
@[simp] theorem setByte_tampered (s : State) (a : Nat) (b : Byte) : (s.setByte a b).tampered = s.tampered := rfl
@[simp] theorem setByte_tags (s : State) (a : Nat) (b : Byte) : (s.setByte a b).tags = s.tags := rfl
@[simp] theorem setByte_flights (s : State) (a : Nat) (b : Byte) : (s.setByte a b).flights = s.flights := rfl
@[simp] theorem setByte_flightNext (s : State) (a : Nat) (b : Byte) : (s.setByte a b).flightNext = s.flightNext := rfl
@[simp] theorem setByte_reshards (s : State) (a : Nat) (b : Byte) : (s.setByte a b).reshards = s.reshards := rfl
@[simp] theorem setByte_posted (s : State) (a : Nat) (b : Byte) : (s.setByte a b).posted = s.posted := rfl
@[simp] theorem setByte_reads (s : State) (a : Nat) (b : Byte) : (s.setByte a b).reads = s.reads := rfl
@[simp] theorem setByte_lateWids (s : State) (a : Nat) (b : Byte) : (s.setByte a b).lateWids = s.lateWids := rfl
@[simp] theorem setByte_sides (s : State) (a : Nat) (b : Byte) : (s.setByte a b).sides = s.sides := rfl
@[simp] theorem setByte_rowClk (s : State) (a : Nat) (b : Byte) : (s.setByte a b).rowClk = s.rowClk := rfl
@[simp] theorem setByte_rowOld (s : State) (a : Nat) (b : Byte) : (s.setByte a b).rowOld = s.rowOld := rfl
@[simp] theorem setByte_codeClk (s : State) (a : Nat) (b : Byte) : (s.setByte a b).codeClk = s.codeClk := rfl
@[simp] theorem setByte_codeOld (s : State) (a : Nat) (b : Byte) : (s.setByte a b).codeOld = s.codeOld := rfl
@[simp] theorem setByte_pipes (s : State) (a : Nat) (b : Byte) : (s.setByte a b).pipes = s.pipes := rfl
@[simp] theorem setByte_portAt (s : State) (a : Nat) (b : Byte) : (s.setByte a b).portAt = s.portAt := rfl
@[simp] theorem setByte_misoLine (s : State) (a : Nat) (b : Byte) : (s.setByte a b).misoLine = s.misoLine := rfl
@[simp] theorem setByte_lastWrite (s : State) (a : Nat) (b : Byte) : (s.setByte a b).lastWrite = s.lastWrite := rfl
@[simp] theorem setByte_lastHw (s : State) (a : Nat) (b : Byte) : (s.setByte a b).lastHw = s.lastHw := rfl
@[simp] theorem setByte_tickOut (s : State) (a : Nat) (b : Byte) : (s.setByte a b).tickOut = s.tickOut := rfl
@[simp] theorem setByte_tickOutAt (s : State) (a : Nat) (b : Byte) : (s.setByte a b).tickOutAt = s.tickOutAt := rfl
@[simp] theorem setByte_sqAt (s : State) (a : Nat) (b : Byte) : (s.setByte a b).sqAt = s.sqAt := rfl
@[simp] theorem setByte_heatClk (s : State) (a : Nat) (b : Byte) : (s.setByte a b).heatClk = s.heatClk := rfl
@[simp] theorem setByte_heatOld (s : State) (a : Nat) (b : Byte) : (s.setByte a b).heatOld = s.heatOld := rfl
@[simp] theorem setByte_xb (s : State) (a : Nat) (b : Byte) : (s.setByte a b).xb = s.xb := rfl
@[simp] theorem setByte_xbNext (s : State) (a : Nat) (b : Byte) : (s.setByte a b).xbNext = s.xbNext := rfl
@[simp] theorem setByte_xbLast (s : State) (a : Nat) (b : Byte) : (s.setByte a b).xbLast = s.xbLast := rfl
@[simp] theorem setByte_xbOwed (s : State) (a : Nat) (b : Byte) : (s.setByte a b).xbOwed = s.xbOwed := rfl
@[simp] theorem setByte_locks (s : State) (a : Nat) (b : Byte) : (s.setByte a b).locks = s.locks := rfl
@[simp] theorem setByte_slotAt (s : State) (a : Nat) (b : Byte) : (s.setByte a b).slotAt = s.slotAt := rfl
@[simp] theorem setByte_slotUse (s : State) (a : Nat) (b : Byte) : (s.setByte a b).slotUse = s.slotUse := rfl
@[simp] theorem setByte_dmaStart (s : State) (a : Nat) (b : Byte) : (s.setByte a b).dmaStart = s.dmaStart := rfl
@[simp] theorem setByte_dmaLast (s : State) (a : Nat) (b : Byte) : (s.setByte a b).dmaLast = s.dmaLast := rfl
@[simp] theorem setByte_ringClk (s : State) (a : Nat) (b : Byte) : (s.setByte a b).ringClk = s.ringClk := rfl
@[simp] theorem setByte_ringOld (s : State) (a : Nat) (b : Byte) : (s.setByte a b).ringOld = s.ringOld := rfl
@[simp] theorem setByte_fillAt (s : State) (a : Nat) (b : Byte) : (s.setByte a b).fillAt = s.fillAt := rfl
@[simp] theorem setByte_landed (s : State) (a : Nat) (b : Byte) : (s.setByte a b).landed = s.landed := rfl
@[simp] theorem setByte_widNext (s : State) (a : Nat) (b : Byte) : (s.setByte a b).widNext = s.widNext := rfl
@[simp] theorem setByte_ridNext (s : State) (a : Nat) (b : Byte) : (s.setByte a b).ridNext = s.ridNext := rfl
@[simp] theorem setByte_links (s : State) (a : Nat) (b : Byte) : (s.setByte a b).links = s.links := rfl
@[simp] theorem setByte_node (s : State) (a : Nat) (b : Byte) : (s.setByte a b).node = s.node := rfl
@[simp] theorem setByte_therm (s : State) (a : Nat) (b : Byte) : (s.setByte a b).therm = s.therm := rfl
@[simp] theorem setByte_tray (s : State) (a : Nat) (b : Byte) : (s.setByte a b).tray = s.tray := rfl
@[simp] theorem setByte_damp (s : State) (a : Nat) (b : Byte) : (s.setByte a b).damp = s.damp := rfl
@[simp] theorem setByte_thermtripLow (s : State) (a : Nat) (b : Byte) : (s.setByte a b).thermtripLow = s.thermtripLow := rfl
@[simp] theorem setByte_pcieUp (s : State) (a : Nat) (b : Byte) : (s.setByte a b).pcieUp = s.pcieUp := rfl
@[simp] theorem setByte_pending (s : State) (a : Nat) (b : Byte) : (s.setByte a b).pending = s.pending := rfl
@[simp] theorem setByte_fld_read (s : State) (a : Nat) (b : Byte) (r : Fld) (j : Nat) : (s.setByte a b).fld r j = s.fld r j := rfl
@[simp] theorem setByte_shd_read (s : State) (a : Nat) (b : Byte) (r : Fld) (j : Nat) : (s.setByte a b).shd r j = s.shd r j := rfl
@[simp] theorem setByte_plan_read (s : State) (a : Nat) (b : Byte) (x : Nat) : (s.setByte a b).plan x = s.plan x := rfl
@[simp] theorem setByte_hearth_read (s : State) (a : Nat) (b : Byte) (x : Nat) : (s.setByte a b).hearth x = s.hearth x := rfl
@[simp] theorem setByte_chan_read (s : State) (a : Nat) (b : Byte) (x : Nat) : (s.setByte a b).chan x = s.chan x := rfl
@[simp] theorem setByte_ember_read (s : State) (a : Nat) (b : Byte) (x : Nat) : (s.setByte a b).ember x = s.ember x := rfl
@[simp] theorem setByte_link_read (s : State) (a : Nat) (b : Byte) (x : Nat) : (s.setByte a b).link x = s.link x := rfl
@[simp] theorem setByte_seq_read (s : State) (a : Nat) (b : Byte) (x : Nat) : (s.setByte a b).seq x = s.seq x := rfl
@[simp] theorem setByte_tag_read (s : State) (a : Nat) (b : Byte) (x y : Nat) : (s.setByte a b).tag x y = s.tag x y := rfl
@[simp] theorem setByte_heatSt_read (s : State) (a : Nat) (b : Byte) (x : Nat) : (s.setByte a b).heatSt x = s.heatSt x := rfl

/-! ### setBytes -/

@[simp] theorem setBytes_power (s : State) (a : Nat) (bs : List Byte) : (s.setBytes a bs).power = s.power := rfl
@[simp] theorem setBytes_fuses (s : State) (a : Nat) (bs : List Byte) : (s.setBytes a bs).fuses = s.fuses := rfl
@[simp] theorem setBytes_clk (s : State) (a : Nat) (bs : List Byte) : (s.setBytes a bs).clk = s.clk := rfl
@[simp] theorem setBytes_cyc (s : State) (a : Nat) (bs : List Byte) : (s.setBytes a bs).cyc = s.cyc := rfl
@[simp] theorem setBytes_free (s : State) (a : Nat) (bs : List Byte) : (s.setBytes a bs).free = s.free := rfl
@[simp] theorem setBytes_reg (s : State) (a : Nat) (bs : List Byte) : (s.setBytes a bs).reg = s.reg := rfl
@[simp] theorem setBytes_shadow (s : State) (a : Nat) (bs : List Byte) : (s.setBytes a bs).shadow = s.shadow := rfl
@[simp] theorem setBytes_commits (s : State) (a : Nat) (bs : List Byte) : (s.setBytes a bs).commits = s.commits := rfl
@[simp] theorem setBytes_units (s : State) (a : Nat) (bs : List Byte) : (s.setBytes a bs).units = s.units := rfl
@[simp] theorem setBytes_latches (s : State) (a : Nat) (bs : List Byte) : (s.setBytes a bs).latches = s.latches := rfl
@[simp] theorem setBytes_miso (s : State) (a : Nat) (bs : List Byte) : (s.setBytes a bs).miso = s.miso := rfl
@[simp] theorem setBytes_bus (s : State) (a : Nat) (bs : List Byte) : (s.setBytes a bs).bus = s.bus := rfl
@[simp] theorem setBytes_msix (s : State) (a : Nat) (bs : List Byte) : (s.setBytes a bs).msix = s.msix := rfl
@[simp] theorem setBytes_tk (s : State) (a : Nat) (bs : List Byte) : (s.setBytes a bs).tk = s.tk := rfl
@[simp] theorem setBytes_plans (s : State) (a : Nat) (bs : List Byte) : (s.setBytes a bs).plans = s.plans := rfl
@[simp] theorem setBytes_released (s : State) (a : Nat) (bs : List Byte) : (s.setBytes a bs).released = s.released := rfl
@[simp] theorem setBytes_relNext (s : State) (a : Nat) (bs : List Byte) : (s.setBytes a bs).relNext = s.relNext := rfl
@[simp] theorem setBytes_loadNext (s : State) (a : Nat) (bs : List Byte) : (s.setBytes a bs).loadNext = s.loadNext := rfl
@[simp] theorem setBytes_hearths (s : State) (a : Nat) (bs : List Byte) : (s.setBytes a bs).hearths = s.hearths := rfl
@[simp] theorem setBytes_sqNext (s : State) (a : Nat) (bs : List Byte) : (s.setBytes a bs).sqNext = s.sqNext := rfl
@[simp] theorem setBytes_taken (s : State) (a : Nat) (bs : List Byte) : (s.setBytes a bs).taken = s.taken := rfl
@[simp] theorem setBytes_chans (s : State) (a : Nat) (bs : List Byte) : (s.setBytes a bs).chans = s.chans := rfl
@[simp] theorem setBytes_embers (s : State) (a : Nat) (bs : List Byte) : (s.setBytes a bs).embers = s.embers := rfl
@[simp] theorem setBytes_heat (s : State) (a : Nat) (bs : List Byte) : (s.setBytes a bs).heat = s.heat := rfl
@[simp] theorem setBytes_bucket (s : State) (a : Nat) (bs : List Byte) : (s.setBytes a bs).bucket = s.bucket := rfl
@[simp] theorem setBytes_borrowed (s : State) (a : Nat) (bs : List Byte) : (s.setBytes a bs).borrowed = s.borrowed := rfl
@[simp] theorem setBytes_seqs (s : State) (a : Nat) (bs : List Byte) : (s.setBytes a bs).seqs = s.seqs := rfl
@[simp] theorem setBytes_tampered (s : State) (a : Nat) (bs : List Byte) : (s.setBytes a bs).tampered = s.tampered := rfl
@[simp] theorem setBytes_tags (s : State) (a : Nat) (bs : List Byte) : (s.setBytes a bs).tags = s.tags := rfl
@[simp] theorem setBytes_flights (s : State) (a : Nat) (bs : List Byte) : (s.setBytes a bs).flights = s.flights := rfl
@[simp] theorem setBytes_flightNext (s : State) (a : Nat) (bs : List Byte) : (s.setBytes a bs).flightNext = s.flightNext := rfl
@[simp] theorem setBytes_reshards (s : State) (a : Nat) (bs : List Byte) : (s.setBytes a bs).reshards = s.reshards := rfl
@[simp] theorem setBytes_posted (s : State) (a : Nat) (bs : List Byte) : (s.setBytes a bs).posted = s.posted := rfl
@[simp] theorem setBytes_reads (s : State) (a : Nat) (bs : List Byte) : (s.setBytes a bs).reads = s.reads := rfl
@[simp] theorem setBytes_lateWids (s : State) (a : Nat) (bs : List Byte) : (s.setBytes a bs).lateWids = s.lateWids := rfl
@[simp] theorem setBytes_sides (s : State) (a : Nat) (bs : List Byte) : (s.setBytes a bs).sides = s.sides := rfl
@[simp] theorem setBytes_rowClk (s : State) (a : Nat) (bs : List Byte) : (s.setBytes a bs).rowClk = s.rowClk := rfl
@[simp] theorem setBytes_rowOld (s : State) (a : Nat) (bs : List Byte) : (s.setBytes a bs).rowOld = s.rowOld := rfl
@[simp] theorem setBytes_codeClk (s : State) (a : Nat) (bs : List Byte) : (s.setBytes a bs).codeClk = s.codeClk := rfl
@[simp] theorem setBytes_codeOld (s : State) (a : Nat) (bs : List Byte) : (s.setBytes a bs).codeOld = s.codeOld := rfl
@[simp] theorem setBytes_pipes (s : State) (a : Nat) (bs : List Byte) : (s.setBytes a bs).pipes = s.pipes := rfl
@[simp] theorem setBytes_portAt (s : State) (a : Nat) (bs : List Byte) : (s.setBytes a bs).portAt = s.portAt := rfl
@[simp] theorem setBytes_misoLine (s : State) (a : Nat) (bs : List Byte) : (s.setBytes a bs).misoLine = s.misoLine := rfl
@[simp] theorem setBytes_lastWrite (s : State) (a : Nat) (bs : List Byte) : (s.setBytes a bs).lastWrite = s.lastWrite := rfl
@[simp] theorem setBytes_lastHw (s : State) (a : Nat) (bs : List Byte) : (s.setBytes a bs).lastHw = s.lastHw := rfl
@[simp] theorem setBytes_tickOut (s : State) (a : Nat) (bs : List Byte) : (s.setBytes a bs).tickOut = s.tickOut := rfl
@[simp] theorem setBytes_tickOutAt (s : State) (a : Nat) (bs : List Byte) : (s.setBytes a bs).tickOutAt = s.tickOutAt := rfl
@[simp] theorem setBytes_sqAt (s : State) (a : Nat) (bs : List Byte) : (s.setBytes a bs).sqAt = s.sqAt := rfl
@[simp] theorem setBytes_heatClk (s : State) (a : Nat) (bs : List Byte) : (s.setBytes a bs).heatClk = s.heatClk := rfl
@[simp] theorem setBytes_heatOld (s : State) (a : Nat) (bs : List Byte) : (s.setBytes a bs).heatOld = s.heatOld := rfl
@[simp] theorem setBytes_xb (s : State) (a : Nat) (bs : List Byte) : (s.setBytes a bs).xb = s.xb := rfl
@[simp] theorem setBytes_xbNext (s : State) (a : Nat) (bs : List Byte) : (s.setBytes a bs).xbNext = s.xbNext := rfl
@[simp] theorem setBytes_xbLast (s : State) (a : Nat) (bs : List Byte) : (s.setBytes a bs).xbLast = s.xbLast := rfl
@[simp] theorem setBytes_xbOwed (s : State) (a : Nat) (bs : List Byte) : (s.setBytes a bs).xbOwed = s.xbOwed := rfl
@[simp] theorem setBytes_locks (s : State) (a : Nat) (bs : List Byte) : (s.setBytes a bs).locks = s.locks := rfl
@[simp] theorem setBytes_slotAt (s : State) (a : Nat) (bs : List Byte) : (s.setBytes a bs).slotAt = s.slotAt := rfl
@[simp] theorem setBytes_slotUse (s : State) (a : Nat) (bs : List Byte) : (s.setBytes a bs).slotUse = s.slotUse := rfl
@[simp] theorem setBytes_dmaStart (s : State) (a : Nat) (bs : List Byte) : (s.setBytes a bs).dmaStart = s.dmaStart := rfl
@[simp] theorem setBytes_dmaLast (s : State) (a : Nat) (bs : List Byte) : (s.setBytes a bs).dmaLast = s.dmaLast := rfl
@[simp] theorem setBytes_ringClk (s : State) (a : Nat) (bs : List Byte) : (s.setBytes a bs).ringClk = s.ringClk := rfl
@[simp] theorem setBytes_ringOld (s : State) (a : Nat) (bs : List Byte) : (s.setBytes a bs).ringOld = s.ringOld := rfl
@[simp] theorem setBytes_fillAt (s : State) (a : Nat) (bs : List Byte) : (s.setBytes a bs).fillAt = s.fillAt := rfl
@[simp] theorem setBytes_landed (s : State) (a : Nat) (bs : List Byte) : (s.setBytes a bs).landed = s.landed := rfl
@[simp] theorem setBytes_widNext (s : State) (a : Nat) (bs : List Byte) : (s.setBytes a bs).widNext = s.widNext := rfl
@[simp] theorem setBytes_ridNext (s : State) (a : Nat) (bs : List Byte) : (s.setBytes a bs).ridNext = s.ridNext := rfl
@[simp] theorem setBytes_links (s : State) (a : Nat) (bs : List Byte) : (s.setBytes a bs).links = s.links := rfl
@[simp] theorem setBytes_node (s : State) (a : Nat) (bs : List Byte) : (s.setBytes a bs).node = s.node := rfl
@[simp] theorem setBytes_therm (s : State) (a : Nat) (bs : List Byte) : (s.setBytes a bs).therm = s.therm := rfl
@[simp] theorem setBytes_tray (s : State) (a : Nat) (bs : List Byte) : (s.setBytes a bs).tray = s.tray := rfl
@[simp] theorem setBytes_damp (s : State) (a : Nat) (bs : List Byte) : (s.setBytes a bs).damp = s.damp := rfl
@[simp] theorem setBytes_thermtripLow (s : State) (a : Nat) (bs : List Byte) : (s.setBytes a bs).thermtripLow = s.thermtripLow := rfl
@[simp] theorem setBytes_pcieUp (s : State) (a : Nat) (bs : List Byte) : (s.setBytes a bs).pcieUp = s.pcieUp := rfl
@[simp] theorem setBytes_pending (s : State) (a : Nat) (bs : List Byte) : (s.setBytes a bs).pending = s.pending := rfl
@[simp] theorem setBytes_fld_read (s : State) (a : Nat) (bs : List Byte) (r : Fld) (j : Nat) : (s.setBytes a bs).fld r j = s.fld r j := rfl
@[simp] theorem setBytes_shd_read (s : State) (a : Nat) (bs : List Byte) (r : Fld) (j : Nat) : (s.setBytes a bs).shd r j = s.shd r j := rfl
@[simp] theorem setBytes_plan_read (s : State) (a : Nat) (bs : List Byte) (x : Nat) : (s.setBytes a bs).plan x = s.plan x := rfl
@[simp] theorem setBytes_hearth_read (s : State) (a : Nat) (bs : List Byte) (x : Nat) : (s.setBytes a bs).hearth x = s.hearth x := rfl
@[simp] theorem setBytes_chan_read (s : State) (a : Nat) (bs : List Byte) (x : Nat) : (s.setBytes a bs).chan x = s.chan x := rfl
@[simp] theorem setBytes_ember_read (s : State) (a : Nat) (bs : List Byte) (x : Nat) : (s.setBytes a bs).ember x = s.ember x := rfl
@[simp] theorem setBytes_link_read (s : State) (a : Nat) (bs : List Byte) (x : Nat) : (s.setBytes a bs).link x = s.link x := rfl
@[simp] theorem setBytes_seq_read (s : State) (a : Nat) (bs : List Byte) (x : Nat) : (s.setBytes a bs).seq x = s.seq x := rfl
@[simp] theorem setBytes_tag_read (s : State) (a : Nat) (bs : List Byte) (x y : Nat) : (s.setBytes a bs).tag x y = s.tag x y := rfl
@[simp] theorem setBytes_heatSt_read (s : State) (a : Nat) (bs : List Byte) (x : Nat) : (s.setBytes a bs).heatSt x = s.heatSt x := rfl

/-! ### zeroRange -/

@[simp] theorem zeroRange_power (s : State) (lo hi : Nat) : (s.zeroRange lo hi).power = s.power := rfl
@[simp] theorem zeroRange_fuses (s : State) (lo hi : Nat) : (s.zeroRange lo hi).fuses = s.fuses := rfl
@[simp] theorem zeroRange_clk (s : State) (lo hi : Nat) : (s.zeroRange lo hi).clk = s.clk := rfl
@[simp] theorem zeroRange_cyc (s : State) (lo hi : Nat) : (s.zeroRange lo hi).cyc = s.cyc := rfl
@[simp] theorem zeroRange_free (s : State) (lo hi : Nat) : (s.zeroRange lo hi).free = s.free := rfl
@[simp] theorem zeroRange_reg (s : State) (lo hi : Nat) : (s.zeroRange lo hi).reg = s.reg := rfl
@[simp] theorem zeroRange_shadow (s : State) (lo hi : Nat) : (s.zeroRange lo hi).shadow = s.shadow := rfl
@[simp] theorem zeroRange_commits (s : State) (lo hi : Nat) : (s.zeroRange lo hi).commits = s.commits := rfl
@[simp] theorem zeroRange_units (s : State) (lo hi : Nat) : (s.zeroRange lo hi).units = s.units := rfl
@[simp] theorem zeroRange_latches (s : State) (lo hi : Nat) : (s.zeroRange lo hi).latches = s.latches := rfl
@[simp] theorem zeroRange_miso (s : State) (lo hi : Nat) : (s.zeroRange lo hi).miso = s.miso := rfl
@[simp] theorem zeroRange_bus (s : State) (lo hi : Nat) : (s.zeroRange lo hi).bus = s.bus := rfl
@[simp] theorem zeroRange_msix (s : State) (lo hi : Nat) : (s.zeroRange lo hi).msix = s.msix := rfl
@[simp] theorem zeroRange_tk (s : State) (lo hi : Nat) : (s.zeroRange lo hi).tk = s.tk := rfl
@[simp] theorem zeroRange_plans (s : State) (lo hi : Nat) : (s.zeroRange lo hi).plans = s.plans := rfl
@[simp] theorem zeroRange_released (s : State) (lo hi : Nat) : (s.zeroRange lo hi).released = s.released := rfl
@[simp] theorem zeroRange_relNext (s : State) (lo hi : Nat) : (s.zeroRange lo hi).relNext = s.relNext := rfl
@[simp] theorem zeroRange_loadNext (s : State) (lo hi : Nat) : (s.zeroRange lo hi).loadNext = s.loadNext := rfl
@[simp] theorem zeroRange_hearths (s : State) (lo hi : Nat) : (s.zeroRange lo hi).hearths = s.hearths := rfl
@[simp] theorem zeroRange_sqNext (s : State) (lo hi : Nat) : (s.zeroRange lo hi).sqNext = s.sqNext := rfl
@[simp] theorem zeroRange_taken (s : State) (lo hi : Nat) : (s.zeroRange lo hi).taken = s.taken := rfl
@[simp] theorem zeroRange_chans (s : State) (lo hi : Nat) : (s.zeroRange lo hi).chans = s.chans := rfl
@[simp] theorem zeroRange_embers (s : State) (lo hi : Nat) : (s.zeroRange lo hi).embers = s.embers := rfl
@[simp] theorem zeroRange_heat (s : State) (lo hi : Nat) : (s.zeroRange lo hi).heat = s.heat := rfl
@[simp] theorem zeroRange_bucket (s : State) (lo hi : Nat) : (s.zeroRange lo hi).bucket = s.bucket := rfl
@[simp] theorem zeroRange_borrowed (s : State) (lo hi : Nat) : (s.zeroRange lo hi).borrowed = s.borrowed := rfl
@[simp] theorem zeroRange_seqs (s : State) (lo hi : Nat) : (s.zeroRange lo hi).seqs = s.seqs := rfl
@[simp] theorem zeroRange_tampered (s : State) (lo hi : Nat) : (s.zeroRange lo hi).tampered = s.tampered := rfl
@[simp] theorem zeroRange_tags (s : State) (lo hi : Nat) : (s.zeroRange lo hi).tags = s.tags := rfl
@[simp] theorem zeroRange_flights (s : State) (lo hi : Nat) : (s.zeroRange lo hi).flights = s.flights := rfl
@[simp] theorem zeroRange_flightNext (s : State) (lo hi : Nat) : (s.zeroRange lo hi).flightNext = s.flightNext := rfl
@[simp] theorem zeroRange_reshards (s : State) (lo hi : Nat) : (s.zeroRange lo hi).reshards = s.reshards := rfl
@[simp] theorem zeroRange_posted (s : State) (lo hi : Nat) : (s.zeroRange lo hi).posted = s.posted := rfl
@[simp] theorem zeroRange_reads (s : State) (lo hi : Nat) : (s.zeroRange lo hi).reads = s.reads := rfl
@[simp] theorem zeroRange_lateWids (s : State) (lo hi : Nat) : (s.zeroRange lo hi).lateWids = s.lateWids := rfl
@[simp] theorem zeroRange_sides (s : State) (lo hi : Nat) : (s.zeroRange lo hi).sides = s.sides := rfl
@[simp] theorem zeroRange_rowClk (s : State) (lo hi : Nat) : (s.zeroRange lo hi).rowClk = s.rowClk := rfl
@[simp] theorem zeroRange_rowOld (s : State) (lo hi : Nat) : (s.zeroRange lo hi).rowOld = s.rowOld := rfl
@[simp] theorem zeroRange_codeClk (s : State) (lo hi : Nat) : (s.zeroRange lo hi).codeClk = s.codeClk := rfl
@[simp] theorem zeroRange_codeOld (s : State) (lo hi : Nat) : (s.zeroRange lo hi).codeOld = s.codeOld := rfl
@[simp] theorem zeroRange_pipes (s : State) (lo hi : Nat) : (s.zeroRange lo hi).pipes = s.pipes := rfl
@[simp] theorem zeroRange_portAt (s : State) (lo hi : Nat) : (s.zeroRange lo hi).portAt = s.portAt := rfl
@[simp] theorem zeroRange_misoLine (s : State) (lo hi : Nat) : (s.zeroRange lo hi).misoLine = s.misoLine := rfl
@[simp] theorem zeroRange_lastWrite (s : State) (lo hi : Nat) : (s.zeroRange lo hi).lastWrite = s.lastWrite := rfl
@[simp] theorem zeroRange_lastHw (s : State) (lo hi : Nat) : (s.zeroRange lo hi).lastHw = s.lastHw := rfl
@[simp] theorem zeroRange_tickOut (s : State) (lo hi : Nat) : (s.zeroRange lo hi).tickOut = s.tickOut := rfl
@[simp] theorem zeroRange_tickOutAt (s : State) (lo hi : Nat) : (s.zeroRange lo hi).tickOutAt = s.tickOutAt := rfl
@[simp] theorem zeroRange_sqAt (s : State) (lo hi : Nat) : (s.zeroRange lo hi).sqAt = s.sqAt := rfl
@[simp] theorem zeroRange_heatClk (s : State) (lo hi : Nat) : (s.zeroRange lo hi).heatClk = s.heatClk := rfl
@[simp] theorem zeroRange_heatOld (s : State) (lo hi : Nat) : (s.zeroRange lo hi).heatOld = s.heatOld := rfl
@[simp] theorem zeroRange_xb (s : State) (lo hi : Nat) : (s.zeroRange lo hi).xb = s.xb := rfl
@[simp] theorem zeroRange_xbNext (s : State) (lo hi : Nat) : (s.zeroRange lo hi).xbNext = s.xbNext := rfl
@[simp] theorem zeroRange_xbLast (s : State) (lo hi : Nat) : (s.zeroRange lo hi).xbLast = s.xbLast := rfl
@[simp] theorem zeroRange_xbOwed (s : State) (lo hi : Nat) : (s.zeroRange lo hi).xbOwed = s.xbOwed := rfl
@[simp] theorem zeroRange_locks (s : State) (lo hi : Nat) : (s.zeroRange lo hi).locks = s.locks := rfl
@[simp] theorem zeroRange_slotAt (s : State) (lo hi : Nat) : (s.zeroRange lo hi).slotAt = s.slotAt := rfl
@[simp] theorem zeroRange_slotUse (s : State) (lo hi : Nat) : (s.zeroRange lo hi).slotUse = s.slotUse := rfl
@[simp] theorem zeroRange_dmaStart (s : State) (lo hi : Nat) : (s.zeroRange lo hi).dmaStart = s.dmaStart := rfl
@[simp] theorem zeroRange_dmaLast (s : State) (lo hi : Nat) : (s.zeroRange lo hi).dmaLast = s.dmaLast := rfl
@[simp] theorem zeroRange_ringClk (s : State) (lo hi : Nat) : (s.zeroRange lo hi).ringClk = s.ringClk := rfl
@[simp] theorem zeroRange_ringOld (s : State) (lo hi : Nat) : (s.zeroRange lo hi).ringOld = s.ringOld := rfl
@[simp] theorem zeroRange_fillAt (s : State) (lo hi : Nat) : (s.zeroRange lo hi).fillAt = s.fillAt := rfl
@[simp] theorem zeroRange_landed (s : State) (lo hi : Nat) : (s.zeroRange lo hi).landed = s.landed := rfl
@[simp] theorem zeroRange_widNext (s : State) (lo hi : Nat) : (s.zeroRange lo hi).widNext = s.widNext := rfl
@[simp] theorem zeroRange_ridNext (s : State) (lo hi : Nat) : (s.zeroRange lo hi).ridNext = s.ridNext := rfl
@[simp] theorem zeroRange_links (s : State) (lo hi : Nat) : (s.zeroRange lo hi).links = s.links := rfl
@[simp] theorem zeroRange_node (s : State) (lo hi : Nat) : (s.zeroRange lo hi).node = s.node := rfl
@[simp] theorem zeroRange_therm (s : State) (lo hi : Nat) : (s.zeroRange lo hi).therm = s.therm := rfl
@[simp] theorem zeroRange_tray (s : State) (lo hi : Nat) : (s.zeroRange lo hi).tray = s.tray := rfl
@[simp] theorem zeroRange_damp (s : State) (lo hi : Nat) : (s.zeroRange lo hi).damp = s.damp := rfl
@[simp] theorem zeroRange_thermtripLow (s : State) (lo hi : Nat) : (s.zeroRange lo hi).thermtripLow = s.thermtripLow := rfl
@[simp] theorem zeroRange_pcieUp (s : State) (lo hi : Nat) : (s.zeroRange lo hi).pcieUp = s.pcieUp := rfl
@[simp] theorem zeroRange_pending (s : State) (lo hi : Nat) : (s.zeroRange lo hi).pending = s.pending := rfl
@[simp] theorem zeroRange_fld_read (s : State) (lo hi : Nat) (r : Fld) (j : Nat) : (s.zeroRange lo hi).fld r j = s.fld r j := rfl
@[simp] theorem zeroRange_shd_read (s : State) (lo hi : Nat) (r : Fld) (j : Nat) : (s.zeroRange lo hi).shd r j = s.shd r j := rfl
@[simp] theorem zeroRange_plan_read (s : State) (lo hi : Nat) (x : Nat) : (s.zeroRange lo hi).plan x = s.plan x := rfl
@[simp] theorem zeroRange_hearth_read (s : State) (lo hi : Nat) (x : Nat) : (s.zeroRange lo hi).hearth x = s.hearth x := rfl
@[simp] theorem zeroRange_chan_read (s : State) (lo hi : Nat) (x : Nat) : (s.zeroRange lo hi).chan x = s.chan x := rfl
@[simp] theorem zeroRange_ember_read (s : State) (lo hi : Nat) (x : Nat) : (s.zeroRange lo hi).ember x = s.ember x := rfl
@[simp] theorem zeroRange_link_read (s : State) (lo hi : Nat) (x : Nat) : (s.zeroRange lo hi).link x = s.link x := rfl
@[simp] theorem zeroRange_seq_read (s : State) (lo hi : Nat) (x : Nat) : (s.zeroRange lo hi).seq x = s.seq x := rfl
@[simp] theorem zeroRange_tag_read (s : State) (lo hi : Nat) (x y : Nat) : (s.zeroRange lo hi).tag x y = s.tag x y := rfl
@[simp] theorem zeroRange_heatSt_read (s : State) (lo hi : Nat) (x : Nat) : (s.zeroRange lo hi).heatSt x = s.heatSt x := rfl

/-! ### advance -/

@[simp] theorem advance_power (s : State) (n : Nat) : (s.advance n).power = s.power := rfl
@[simp] theorem advance_fuses (s : State) (n : Nat) : (s.advance n).fuses = s.fuses := rfl
@[simp] theorem advance_free (s : State) (n : Nat) : (s.advance n).free = s.free := rfl
@[simp] theorem advance_reg (s : State) (n : Nat) : (s.advance n).reg = s.reg := rfl
@[simp] theorem advance_shadow (s : State) (n : Nat) : (s.advance n).shadow = s.shadow := rfl
@[simp] theorem advance_commits (s : State) (n : Nat) : (s.advance n).commits = s.commits := rfl
@[simp] theorem advance_mem (s : State) (n : Nat) : (s.advance n).mem = s.mem := rfl
@[simp] theorem advance_units (s : State) (n : Nat) : (s.advance n).units = s.units := rfl
@[simp] theorem advance_latches (s : State) (n : Nat) : (s.advance n).latches = s.latches := rfl
@[simp] theorem advance_miso (s : State) (n : Nat) : (s.advance n).miso = s.miso := rfl
@[simp] theorem advance_bus (s : State) (n : Nat) : (s.advance n).bus = s.bus := rfl
@[simp] theorem advance_msix (s : State) (n : Nat) : (s.advance n).msix = s.msix := rfl
@[simp] theorem advance_tk (s : State) (n : Nat) : (s.advance n).tk = s.tk := rfl
@[simp] theorem advance_plans (s : State) (n : Nat) : (s.advance n).plans = s.plans := rfl
@[simp] theorem advance_released (s : State) (n : Nat) : (s.advance n).released = s.released := rfl
@[simp] theorem advance_relNext (s : State) (n : Nat) : (s.advance n).relNext = s.relNext := rfl
@[simp] theorem advance_loadNext (s : State) (n : Nat) : (s.advance n).loadNext = s.loadNext := rfl
@[simp] theorem advance_hearths (s : State) (n : Nat) : (s.advance n).hearths = s.hearths := rfl
@[simp] theorem advance_sqNext (s : State) (n : Nat) : (s.advance n).sqNext = s.sqNext := rfl
@[simp] theorem advance_taken (s : State) (n : Nat) : (s.advance n).taken = s.taken := rfl
@[simp] theorem advance_chans (s : State) (n : Nat) : (s.advance n).chans = s.chans := rfl
@[simp] theorem advance_embers (s : State) (n : Nat) : (s.advance n).embers = s.embers := rfl
@[simp] theorem advance_heat (s : State) (n : Nat) : (s.advance n).heat = s.heat := rfl
@[simp] theorem advance_bucket (s : State) (n : Nat) : (s.advance n).bucket = s.bucket := rfl
@[simp] theorem advance_borrowed (s : State) (n : Nat) : (s.advance n).borrowed = s.borrowed := rfl
@[simp] theorem advance_seqs (s : State) (n : Nat) : (s.advance n).seqs = s.seqs := rfl
@[simp] theorem advance_tampered (s : State) (n : Nat) : (s.advance n).tampered = s.tampered := rfl
@[simp] theorem advance_tags (s : State) (n : Nat) : (s.advance n).tags = s.tags := rfl
@[simp] theorem advance_flights (s : State) (n : Nat) : (s.advance n).flights = s.flights := rfl
@[simp] theorem advance_flightNext (s : State) (n : Nat) : (s.advance n).flightNext = s.flightNext := rfl
@[simp] theorem advance_reshards (s : State) (n : Nat) : (s.advance n).reshards = s.reshards := rfl
@[simp] theorem advance_posted (s : State) (n : Nat) : (s.advance n).posted = s.posted := rfl
@[simp] theorem advance_reads (s : State) (n : Nat) : (s.advance n).reads = s.reads := rfl
@[simp] theorem advance_lateWids (s : State) (n : Nat) : (s.advance n).lateWids = s.lateWids := rfl
@[simp] theorem advance_sides (s : State) (n : Nat) : (s.advance n).sides = s.sides := rfl
@[simp] theorem advance_rowClk (s : State) (n : Nat) : (s.advance n).rowClk = s.rowClk := rfl
@[simp] theorem advance_rowOld (s : State) (n : Nat) : (s.advance n).rowOld = s.rowOld := rfl
@[simp] theorem advance_codeClk (s : State) (n : Nat) : (s.advance n).codeClk = s.codeClk := rfl
@[simp] theorem advance_codeOld (s : State) (n : Nat) : (s.advance n).codeOld = s.codeOld := rfl
@[simp] theorem advance_pipes (s : State) (n : Nat) : (s.advance n).pipes = s.pipes := rfl
@[simp] theorem advance_portAt (s : State) (n : Nat) : (s.advance n).portAt = s.portAt := rfl
@[simp] theorem advance_misoLine (s : State) (n : Nat) : (s.advance n).misoLine = s.misoLine := rfl
@[simp] theorem advance_lastWrite (s : State) (n : Nat) : (s.advance n).lastWrite = s.lastWrite := rfl
@[simp] theorem advance_lastHw (s : State) (n : Nat) : (s.advance n).lastHw = s.lastHw := rfl
@[simp] theorem advance_tickOut (s : State) (n : Nat) : (s.advance n).tickOut = s.tickOut := rfl
@[simp] theorem advance_tickOutAt (s : State) (n : Nat) : (s.advance n).tickOutAt = s.tickOutAt := rfl
@[simp] theorem advance_sqAt (s : State) (n : Nat) : (s.advance n).sqAt = s.sqAt := rfl
@[simp] theorem advance_heatClk (s : State) (n : Nat) : (s.advance n).heatClk = s.heatClk := rfl
@[simp] theorem advance_heatOld (s : State) (n : Nat) : (s.advance n).heatOld = s.heatOld := rfl
@[simp] theorem advance_xb (s : State) (n : Nat) : (s.advance n).xb = s.xb := rfl
@[simp] theorem advance_xbNext (s : State) (n : Nat) : (s.advance n).xbNext = s.xbNext := rfl
@[simp] theorem advance_xbLast (s : State) (n : Nat) : (s.advance n).xbLast = s.xbLast := rfl
@[simp] theorem advance_xbOwed (s : State) (n : Nat) : (s.advance n).xbOwed = s.xbOwed := rfl
@[simp] theorem advance_locks (s : State) (n : Nat) : (s.advance n).locks = s.locks := rfl
@[simp] theorem advance_slotAt (s : State) (n : Nat) : (s.advance n).slotAt = s.slotAt := rfl
@[simp] theorem advance_slotUse (s : State) (n : Nat) : (s.advance n).slotUse = s.slotUse := rfl
@[simp] theorem advance_dmaStart (s : State) (n : Nat) : (s.advance n).dmaStart = s.dmaStart := rfl
@[simp] theorem advance_dmaLast (s : State) (n : Nat) : (s.advance n).dmaLast = s.dmaLast := rfl
@[simp] theorem advance_ringClk (s : State) (n : Nat) : (s.advance n).ringClk = s.ringClk := rfl
@[simp] theorem advance_ringOld (s : State) (n : Nat) : (s.advance n).ringOld = s.ringOld := rfl
@[simp] theorem advance_fillAt (s : State) (n : Nat) : (s.advance n).fillAt = s.fillAt := rfl
@[simp] theorem advance_landed (s : State) (n : Nat) : (s.advance n).landed = s.landed := rfl
@[simp] theorem advance_widNext (s : State) (n : Nat) : (s.advance n).widNext = s.widNext := rfl
@[simp] theorem advance_ridNext (s : State) (n : Nat) : (s.advance n).ridNext = s.ridNext := rfl
@[simp] theorem advance_links (s : State) (n : Nat) : (s.advance n).links = s.links := rfl
@[simp] theorem advance_node (s : State) (n : Nat) : (s.advance n).node = s.node := rfl
@[simp] theorem advance_therm (s : State) (n : Nat) : (s.advance n).therm = s.therm := rfl
@[simp] theorem advance_tray (s : State) (n : Nat) : (s.advance n).tray = s.tray := rfl
@[simp] theorem advance_damp (s : State) (n : Nat) : (s.advance n).damp = s.damp := rfl
@[simp] theorem advance_thermtripLow (s : State) (n : Nat) : (s.advance n).thermtripLow = s.thermtripLow := rfl
@[simp] theorem advance_pcieUp (s : State) (n : Nat) : (s.advance n).pcieUp = s.pcieUp := rfl
@[simp] theorem advance_pending (s : State) (n : Nat) : (s.advance n).pending = s.pending := rfl
@[simp] theorem advance_fld_read (s : State) (n : Nat) (r : Fld) (j : Nat) : (s.advance n).fld r j = s.fld r j := rfl
@[simp] theorem advance_shd_read (s : State) (n : Nat) (r : Fld) (j : Nat) : (s.advance n).shd r j = s.shd r j := rfl
@[simp] theorem advance_byte_read (s : State) (n : Nat) (x : Nat) : (s.advance n).byte x = s.byte x := rfl
@[simp] theorem advance_plan_read (s : State) (n : Nat) (x : Nat) : (s.advance n).plan x = s.plan x := rfl
@[simp] theorem advance_hearth_read (s : State) (n : Nat) (x : Nat) : (s.advance n).hearth x = s.hearth x := rfl
@[simp] theorem advance_chan_read (s : State) (n : Nat) (x : Nat) : (s.advance n).chan x = s.chan x := rfl
@[simp] theorem advance_ember_read (s : State) (n : Nat) (x : Nat) : (s.advance n).ember x = s.ember x := rfl
@[simp] theorem advance_link_read (s : State) (n : Nat) (x : Nat) : (s.advance n).link x = s.link x := rfl
@[simp] theorem advance_seq_read (s : State) (n : Nat) (x : Nat) : (s.advance n).seq x = s.seq x := rfl
@[simp] theorem advance_tag_read (s : State) (n : Nat) (x y : Nat) : (s.advance n).tag x y = s.tag x y := rfl
@[simp] theorem advance_heatSt_read (s : State) (n : Nat) (x : Nat) : (s.advance n).heatSt x = s.heatSt x := rfl

/-! ### setPlan -/

@[simp] theorem setPlan_power (s : State) (p : Nat) (v : Plan) : (s.setPlan p v).power = s.power := rfl
@[simp] theorem setPlan_fuses (s : State) (p : Nat) (v : Plan) : (s.setPlan p v).fuses = s.fuses := rfl
@[simp] theorem setPlan_clk (s : State) (p : Nat) (v : Plan) : (s.setPlan p v).clk = s.clk := rfl
@[simp] theorem setPlan_cyc (s : State) (p : Nat) (v : Plan) : (s.setPlan p v).cyc = s.cyc := rfl
@[simp] theorem setPlan_free (s : State) (p : Nat) (v : Plan) : (s.setPlan p v).free = s.free := rfl
@[simp] theorem setPlan_reg (s : State) (p : Nat) (v : Plan) : (s.setPlan p v).reg = s.reg := rfl
@[simp] theorem setPlan_shadow (s : State) (p : Nat) (v : Plan) : (s.setPlan p v).shadow = s.shadow := rfl
@[simp] theorem setPlan_commits (s : State) (p : Nat) (v : Plan) : (s.setPlan p v).commits = s.commits := rfl
@[simp] theorem setPlan_mem (s : State) (p : Nat) (v : Plan) : (s.setPlan p v).mem = s.mem := rfl
@[simp] theorem setPlan_units (s : State) (p : Nat) (v : Plan) : (s.setPlan p v).units = s.units := rfl
@[simp] theorem setPlan_latches (s : State) (p : Nat) (v : Plan) : (s.setPlan p v).latches = s.latches := rfl
@[simp] theorem setPlan_miso (s : State) (p : Nat) (v : Plan) : (s.setPlan p v).miso = s.miso := rfl
@[simp] theorem setPlan_bus (s : State) (p : Nat) (v : Plan) : (s.setPlan p v).bus = s.bus := rfl
@[simp] theorem setPlan_msix (s : State) (p : Nat) (v : Plan) : (s.setPlan p v).msix = s.msix := rfl
@[simp] theorem setPlan_tk (s : State) (p : Nat) (v : Plan) : (s.setPlan p v).tk = s.tk := rfl
@[simp] theorem setPlan_released (s : State) (p : Nat) (v : Plan) : (s.setPlan p v).released = s.released := rfl
@[simp] theorem setPlan_relNext (s : State) (p : Nat) (v : Plan) : (s.setPlan p v).relNext = s.relNext := rfl
@[simp] theorem setPlan_loadNext (s : State) (p : Nat) (v : Plan) : (s.setPlan p v).loadNext = s.loadNext := rfl
@[simp] theorem setPlan_hearths (s : State) (p : Nat) (v : Plan) : (s.setPlan p v).hearths = s.hearths := rfl
@[simp] theorem setPlan_sqNext (s : State) (p : Nat) (v : Plan) : (s.setPlan p v).sqNext = s.sqNext := rfl
@[simp] theorem setPlan_taken (s : State) (p : Nat) (v : Plan) : (s.setPlan p v).taken = s.taken := rfl
@[simp] theorem setPlan_chans (s : State) (p : Nat) (v : Plan) : (s.setPlan p v).chans = s.chans := rfl
@[simp] theorem setPlan_embers (s : State) (p : Nat) (v : Plan) : (s.setPlan p v).embers = s.embers := rfl
@[simp] theorem setPlan_heat (s : State) (p : Nat) (v : Plan) : (s.setPlan p v).heat = s.heat := rfl
@[simp] theorem setPlan_bucket (s : State) (p : Nat) (v : Plan) : (s.setPlan p v).bucket = s.bucket := rfl
@[simp] theorem setPlan_borrowed (s : State) (p : Nat) (v : Plan) : (s.setPlan p v).borrowed = s.borrowed := rfl
@[simp] theorem setPlan_seqs (s : State) (p : Nat) (v : Plan) : (s.setPlan p v).seqs = s.seqs := rfl
@[simp] theorem setPlan_tampered (s : State) (p : Nat) (v : Plan) : (s.setPlan p v).tampered = s.tampered := rfl
@[simp] theorem setPlan_tags (s : State) (p : Nat) (v : Plan) : (s.setPlan p v).tags = s.tags := rfl
@[simp] theorem setPlan_flights (s : State) (p : Nat) (v : Plan) : (s.setPlan p v).flights = s.flights := rfl
@[simp] theorem setPlan_flightNext (s : State) (p : Nat) (v : Plan) : (s.setPlan p v).flightNext = s.flightNext := rfl
@[simp] theorem setPlan_reshards (s : State) (p : Nat) (v : Plan) : (s.setPlan p v).reshards = s.reshards := rfl
@[simp] theorem setPlan_posted (s : State) (p : Nat) (v : Plan) : (s.setPlan p v).posted = s.posted := rfl
@[simp] theorem setPlan_reads (s : State) (p : Nat) (v : Plan) : (s.setPlan p v).reads = s.reads := rfl
@[simp] theorem setPlan_lateWids (s : State) (p : Nat) (v : Plan) : (s.setPlan p v).lateWids = s.lateWids := rfl
@[simp] theorem setPlan_sides (s : State) (p : Nat) (v : Plan) : (s.setPlan p v).sides = s.sides := rfl
@[simp] theorem setPlan_rowClk (s : State) (p : Nat) (v : Plan) : (s.setPlan p v).rowClk = s.rowClk := rfl
@[simp] theorem setPlan_rowOld (s : State) (p : Nat) (v : Plan) : (s.setPlan p v).rowOld = s.rowOld := rfl
@[simp] theorem setPlan_codeClk (s : State) (p : Nat) (v : Plan) : (s.setPlan p v).codeClk = s.codeClk := rfl
@[simp] theorem setPlan_codeOld (s : State) (p : Nat) (v : Plan) : (s.setPlan p v).codeOld = s.codeOld := rfl
@[simp] theorem setPlan_pipes (s : State) (p : Nat) (v : Plan) : (s.setPlan p v).pipes = s.pipes := rfl
@[simp] theorem setPlan_portAt (s : State) (p : Nat) (v : Plan) : (s.setPlan p v).portAt = s.portAt := rfl
@[simp] theorem setPlan_misoLine (s : State) (p : Nat) (v : Plan) : (s.setPlan p v).misoLine = s.misoLine := rfl
@[simp] theorem setPlan_lastWrite (s : State) (p : Nat) (v : Plan) : (s.setPlan p v).lastWrite = s.lastWrite := rfl
@[simp] theorem setPlan_lastHw (s : State) (p : Nat) (v : Plan) : (s.setPlan p v).lastHw = s.lastHw := rfl
@[simp] theorem setPlan_tickOut (s : State) (p : Nat) (v : Plan) : (s.setPlan p v).tickOut = s.tickOut := rfl
@[simp] theorem setPlan_tickOutAt (s : State) (p : Nat) (v : Plan) : (s.setPlan p v).tickOutAt = s.tickOutAt := rfl
@[simp] theorem setPlan_sqAt (s : State) (p : Nat) (v : Plan) : (s.setPlan p v).sqAt = s.sqAt := rfl
@[simp] theorem setPlan_heatClk (s : State) (p : Nat) (v : Plan) : (s.setPlan p v).heatClk = s.heatClk := rfl
@[simp] theorem setPlan_heatOld (s : State) (p : Nat) (v : Plan) : (s.setPlan p v).heatOld = s.heatOld := rfl
@[simp] theorem setPlan_xb (s : State) (p : Nat) (v : Plan) : (s.setPlan p v).xb = s.xb := rfl
@[simp] theorem setPlan_xbNext (s : State) (p : Nat) (v : Plan) : (s.setPlan p v).xbNext = s.xbNext := rfl
@[simp] theorem setPlan_xbLast (s : State) (p : Nat) (v : Plan) : (s.setPlan p v).xbLast = s.xbLast := rfl
@[simp] theorem setPlan_xbOwed (s : State) (p : Nat) (v : Plan) : (s.setPlan p v).xbOwed = s.xbOwed := rfl
@[simp] theorem setPlan_locks (s : State) (p : Nat) (v : Plan) : (s.setPlan p v).locks = s.locks := rfl
@[simp] theorem setPlan_slotAt (s : State) (p : Nat) (v : Plan) : (s.setPlan p v).slotAt = s.slotAt := rfl
@[simp] theorem setPlan_slotUse (s : State) (p : Nat) (v : Plan) : (s.setPlan p v).slotUse = s.slotUse := rfl
@[simp] theorem setPlan_dmaStart (s : State) (p : Nat) (v : Plan) : (s.setPlan p v).dmaStart = s.dmaStart := rfl
@[simp] theorem setPlan_dmaLast (s : State) (p : Nat) (v : Plan) : (s.setPlan p v).dmaLast = s.dmaLast := rfl
@[simp] theorem setPlan_ringClk (s : State) (p : Nat) (v : Plan) : (s.setPlan p v).ringClk = s.ringClk := rfl
@[simp] theorem setPlan_ringOld (s : State) (p : Nat) (v : Plan) : (s.setPlan p v).ringOld = s.ringOld := rfl
@[simp] theorem setPlan_fillAt (s : State) (p : Nat) (v : Plan) : (s.setPlan p v).fillAt = s.fillAt := rfl
@[simp] theorem setPlan_landed (s : State) (p : Nat) (v : Plan) : (s.setPlan p v).landed = s.landed := rfl
@[simp] theorem setPlan_widNext (s : State) (p : Nat) (v : Plan) : (s.setPlan p v).widNext = s.widNext := rfl
@[simp] theorem setPlan_ridNext (s : State) (p : Nat) (v : Plan) : (s.setPlan p v).ridNext = s.ridNext := rfl
@[simp] theorem setPlan_links (s : State) (p : Nat) (v : Plan) : (s.setPlan p v).links = s.links := rfl
@[simp] theorem setPlan_node (s : State) (p : Nat) (v : Plan) : (s.setPlan p v).node = s.node := rfl
@[simp] theorem setPlan_therm (s : State) (p : Nat) (v : Plan) : (s.setPlan p v).therm = s.therm := rfl
@[simp] theorem setPlan_tray (s : State) (p : Nat) (v : Plan) : (s.setPlan p v).tray = s.tray := rfl
@[simp] theorem setPlan_damp (s : State) (p : Nat) (v : Plan) : (s.setPlan p v).damp = s.damp := rfl
@[simp] theorem setPlan_thermtripLow (s : State) (p : Nat) (v : Plan) : (s.setPlan p v).thermtripLow = s.thermtripLow := rfl
@[simp] theorem setPlan_pcieUp (s : State) (p : Nat) (v : Plan) : (s.setPlan p v).pcieUp = s.pcieUp := rfl
@[simp] theorem setPlan_pending (s : State) (p : Nat) (v : Plan) : (s.setPlan p v).pending = s.pending := rfl
@[simp] theorem setPlan_fld_read (s : State) (p : Nat) (v : Plan) (r : Fld) (j : Nat) : (s.setPlan p v).fld r j = s.fld r j := rfl
@[simp] theorem setPlan_shd_read (s : State) (p : Nat) (v : Plan) (r : Fld) (j : Nat) : (s.setPlan p v).shd r j = s.shd r j := rfl
@[simp] theorem setPlan_byte_read (s : State) (p : Nat) (v : Plan) (x : Nat) : (s.setPlan p v).byte x = s.byte x := rfl
@[simp] theorem setPlan_hearth_read (s : State) (p : Nat) (v : Plan) (x : Nat) : (s.setPlan p v).hearth x = s.hearth x := rfl
@[simp] theorem setPlan_chan_read (s : State) (p : Nat) (v : Plan) (x : Nat) : (s.setPlan p v).chan x = s.chan x := rfl
@[simp] theorem setPlan_ember_read (s : State) (p : Nat) (v : Plan) (x : Nat) : (s.setPlan p v).ember x = s.ember x := rfl
@[simp] theorem setPlan_link_read (s : State) (p : Nat) (v : Plan) (x : Nat) : (s.setPlan p v).link x = s.link x := rfl
@[simp] theorem setPlan_seq_read (s : State) (p : Nat) (v : Plan) (x : Nat) : (s.setPlan p v).seq x = s.seq x := rfl
@[simp] theorem setPlan_tag_read (s : State) (p : Nat) (v : Plan) (x y : Nat) : (s.setPlan p v).tag x y = s.tag x y := rfl
@[simp] theorem setPlan_heatSt_read (s : State) (p : Nat) (v : Plan) (x : Nat) : (s.setPlan p v).heatSt x = s.heatSt x := rfl

/-! ### setHearth -/

@[simp] theorem setHearth_power (s : State) (t : Nat) (v : Hearth) : (s.setHearth t v).power = s.power := rfl
@[simp] theorem setHearth_fuses (s : State) (t : Nat) (v : Hearth) : (s.setHearth t v).fuses = s.fuses := rfl
@[simp] theorem setHearth_clk (s : State) (t : Nat) (v : Hearth) : (s.setHearth t v).clk = s.clk := rfl
@[simp] theorem setHearth_cyc (s : State) (t : Nat) (v : Hearth) : (s.setHearth t v).cyc = s.cyc := rfl
@[simp] theorem setHearth_free (s : State) (t : Nat) (v : Hearth) : (s.setHearth t v).free = s.free := rfl
@[simp] theorem setHearth_reg (s : State) (t : Nat) (v : Hearth) : (s.setHearth t v).reg = s.reg := rfl
@[simp] theorem setHearth_shadow (s : State) (t : Nat) (v : Hearth) : (s.setHearth t v).shadow = s.shadow := rfl
@[simp] theorem setHearth_commits (s : State) (t : Nat) (v : Hearth) : (s.setHearth t v).commits = s.commits := rfl
@[simp] theorem setHearth_mem (s : State) (t : Nat) (v : Hearth) : (s.setHearth t v).mem = s.mem := rfl
@[simp] theorem setHearth_units (s : State) (t : Nat) (v : Hearth) : (s.setHearth t v).units = s.units := rfl
@[simp] theorem setHearth_latches (s : State) (t : Nat) (v : Hearth) : (s.setHearth t v).latches = s.latches := rfl
@[simp] theorem setHearth_miso (s : State) (t : Nat) (v : Hearth) : (s.setHearth t v).miso = s.miso := rfl
@[simp] theorem setHearth_bus (s : State) (t : Nat) (v : Hearth) : (s.setHearth t v).bus = s.bus := rfl
@[simp] theorem setHearth_msix (s : State) (t : Nat) (v : Hearth) : (s.setHearth t v).msix = s.msix := rfl
@[simp] theorem setHearth_tk (s : State) (t : Nat) (v : Hearth) : (s.setHearth t v).tk = s.tk := rfl
@[simp] theorem setHearth_plans (s : State) (t : Nat) (v : Hearth) : (s.setHearth t v).plans = s.plans := rfl
@[simp] theorem setHearth_released (s : State) (t : Nat) (v : Hearth) : (s.setHearth t v).released = s.released := rfl
@[simp] theorem setHearth_relNext (s : State) (t : Nat) (v : Hearth) : (s.setHearth t v).relNext = s.relNext := rfl
@[simp] theorem setHearth_loadNext (s : State) (t : Nat) (v : Hearth) : (s.setHearth t v).loadNext = s.loadNext := rfl
@[simp] theorem setHearth_sqNext (s : State) (t : Nat) (v : Hearth) : (s.setHearth t v).sqNext = s.sqNext := rfl
@[simp] theorem setHearth_taken (s : State) (t : Nat) (v : Hearth) : (s.setHearth t v).taken = s.taken := rfl
@[simp] theorem setHearth_chans (s : State) (t : Nat) (v : Hearth) : (s.setHearth t v).chans = s.chans := rfl
@[simp] theorem setHearth_embers (s : State) (t : Nat) (v : Hearth) : (s.setHearth t v).embers = s.embers := rfl
@[simp] theorem setHearth_heat (s : State) (t : Nat) (v : Hearth) : (s.setHearth t v).heat = s.heat := rfl
@[simp] theorem setHearth_bucket (s : State) (t : Nat) (v : Hearth) : (s.setHearth t v).bucket = s.bucket := rfl
@[simp] theorem setHearth_borrowed (s : State) (t : Nat) (v : Hearth) : (s.setHearth t v).borrowed = s.borrowed := rfl
@[simp] theorem setHearth_seqs (s : State) (t : Nat) (v : Hearth) : (s.setHearth t v).seqs = s.seqs := rfl
@[simp] theorem setHearth_tampered (s : State) (t : Nat) (v : Hearth) : (s.setHearth t v).tampered = s.tampered := rfl
@[simp] theorem setHearth_tags (s : State) (t : Nat) (v : Hearth) : (s.setHearth t v).tags = s.tags := rfl
@[simp] theorem setHearth_flights (s : State) (t : Nat) (v : Hearth) : (s.setHearth t v).flights = s.flights := rfl
@[simp] theorem setHearth_flightNext (s : State) (t : Nat) (v : Hearth) : (s.setHearth t v).flightNext = s.flightNext := rfl
@[simp] theorem setHearth_reshards (s : State) (t : Nat) (v : Hearth) : (s.setHearth t v).reshards = s.reshards := rfl
@[simp] theorem setHearth_posted (s : State) (t : Nat) (v : Hearth) : (s.setHearth t v).posted = s.posted := rfl
@[simp] theorem setHearth_reads (s : State) (t : Nat) (v : Hearth) : (s.setHearth t v).reads = s.reads := rfl
@[simp] theorem setHearth_lateWids (s : State) (t : Nat) (v : Hearth) : (s.setHearth t v).lateWids = s.lateWids := rfl
@[simp] theorem setHearth_sides (s : State) (t : Nat) (v : Hearth) : (s.setHearth t v).sides = s.sides := rfl
@[simp] theorem setHearth_rowClk (s : State) (t : Nat) (v : Hearth) : (s.setHearth t v).rowClk = s.rowClk := rfl
@[simp] theorem setHearth_rowOld (s : State) (t : Nat) (v : Hearth) : (s.setHearth t v).rowOld = s.rowOld := rfl
@[simp] theorem setHearth_codeClk (s : State) (t : Nat) (v : Hearth) : (s.setHearth t v).codeClk = s.codeClk := rfl
@[simp] theorem setHearth_codeOld (s : State) (t : Nat) (v : Hearth) : (s.setHearth t v).codeOld = s.codeOld := rfl
@[simp] theorem setHearth_pipes (s : State) (t : Nat) (v : Hearth) : (s.setHearth t v).pipes = s.pipes := rfl
@[simp] theorem setHearth_portAt (s : State) (t : Nat) (v : Hearth) : (s.setHearth t v).portAt = s.portAt := rfl
@[simp] theorem setHearth_misoLine (s : State) (t : Nat) (v : Hearth) : (s.setHearth t v).misoLine = s.misoLine := rfl
@[simp] theorem setHearth_lastWrite (s : State) (t : Nat) (v : Hearth) : (s.setHearth t v).lastWrite = s.lastWrite := rfl
@[simp] theorem setHearth_lastHw (s : State) (t : Nat) (v : Hearth) : (s.setHearth t v).lastHw = s.lastHw := rfl
@[simp] theorem setHearth_tickOut (s : State) (t : Nat) (v : Hearth) : (s.setHearth t v).tickOut = s.tickOut := rfl
@[simp] theorem setHearth_tickOutAt (s : State) (t : Nat) (v : Hearth) : (s.setHearth t v).tickOutAt = s.tickOutAt := rfl
@[simp] theorem setHearth_sqAt (s : State) (t : Nat) (v : Hearth) : (s.setHearth t v).sqAt = s.sqAt := rfl
@[simp] theorem setHearth_heatClk (s : State) (t : Nat) (v : Hearth) : (s.setHearth t v).heatClk = s.heatClk := rfl
@[simp] theorem setHearth_heatOld (s : State) (t : Nat) (v : Hearth) : (s.setHearth t v).heatOld = s.heatOld := rfl
@[simp] theorem setHearth_xb (s : State) (t : Nat) (v : Hearth) : (s.setHearth t v).xb = s.xb := rfl
@[simp] theorem setHearth_xbNext (s : State) (t : Nat) (v : Hearth) : (s.setHearth t v).xbNext = s.xbNext := rfl
@[simp] theorem setHearth_xbLast (s : State) (t : Nat) (v : Hearth) : (s.setHearth t v).xbLast = s.xbLast := rfl
@[simp] theorem setHearth_xbOwed (s : State) (t : Nat) (v : Hearth) : (s.setHearth t v).xbOwed = s.xbOwed := rfl
@[simp] theorem setHearth_locks (s : State) (t : Nat) (v : Hearth) : (s.setHearth t v).locks = s.locks := rfl
@[simp] theorem setHearth_slotAt (s : State) (t : Nat) (v : Hearth) : (s.setHearth t v).slotAt = s.slotAt := rfl
@[simp] theorem setHearth_slotUse (s : State) (t : Nat) (v : Hearth) : (s.setHearth t v).slotUse = s.slotUse := rfl
@[simp] theorem setHearth_dmaStart (s : State) (t : Nat) (v : Hearth) : (s.setHearth t v).dmaStart = s.dmaStart := rfl
@[simp] theorem setHearth_dmaLast (s : State) (t : Nat) (v : Hearth) : (s.setHearth t v).dmaLast = s.dmaLast := rfl
@[simp] theorem setHearth_ringClk (s : State) (t : Nat) (v : Hearth) : (s.setHearth t v).ringClk = s.ringClk := rfl
@[simp] theorem setHearth_ringOld (s : State) (t : Nat) (v : Hearth) : (s.setHearth t v).ringOld = s.ringOld := rfl
@[simp] theorem setHearth_fillAt (s : State) (t : Nat) (v : Hearth) : (s.setHearth t v).fillAt = s.fillAt := rfl
@[simp] theorem setHearth_landed (s : State) (t : Nat) (v : Hearth) : (s.setHearth t v).landed = s.landed := rfl
@[simp] theorem setHearth_widNext (s : State) (t : Nat) (v : Hearth) : (s.setHearth t v).widNext = s.widNext := rfl
@[simp] theorem setHearth_ridNext (s : State) (t : Nat) (v : Hearth) : (s.setHearth t v).ridNext = s.ridNext := rfl
@[simp] theorem setHearth_links (s : State) (t : Nat) (v : Hearth) : (s.setHearth t v).links = s.links := rfl
@[simp] theorem setHearth_node (s : State) (t : Nat) (v : Hearth) : (s.setHearth t v).node = s.node := rfl
@[simp] theorem setHearth_therm (s : State) (t : Nat) (v : Hearth) : (s.setHearth t v).therm = s.therm := rfl
@[simp] theorem setHearth_tray (s : State) (t : Nat) (v : Hearth) : (s.setHearth t v).tray = s.tray := rfl
@[simp] theorem setHearth_damp (s : State) (t : Nat) (v : Hearth) : (s.setHearth t v).damp = s.damp := rfl
@[simp] theorem setHearth_thermtripLow (s : State) (t : Nat) (v : Hearth) : (s.setHearth t v).thermtripLow = s.thermtripLow := rfl
@[simp] theorem setHearth_pcieUp (s : State) (t : Nat) (v : Hearth) : (s.setHearth t v).pcieUp = s.pcieUp := rfl
@[simp] theorem setHearth_pending (s : State) (t : Nat) (v : Hearth) : (s.setHearth t v).pending = s.pending := rfl
@[simp] theorem setHearth_fld_read (s : State) (t : Nat) (v : Hearth) (r : Fld) (j : Nat) : (s.setHearth t v).fld r j = s.fld r j := rfl
@[simp] theorem setHearth_shd_read (s : State) (t : Nat) (v : Hearth) (r : Fld) (j : Nat) : (s.setHearth t v).shd r j = s.shd r j := rfl
@[simp] theorem setHearth_byte_read (s : State) (t : Nat) (v : Hearth) (x : Nat) : (s.setHearth t v).byte x = s.byte x := rfl
@[simp] theorem setHearth_plan_read (s : State) (t : Nat) (v : Hearth) (x : Nat) : (s.setHearth t v).plan x = s.plan x := rfl
@[simp] theorem setHearth_chan_read (s : State) (t : Nat) (v : Hearth) (x : Nat) : (s.setHearth t v).chan x = s.chan x := rfl
@[simp] theorem setHearth_ember_read (s : State) (t : Nat) (v : Hearth) (x : Nat) : (s.setHearth t v).ember x = s.ember x := rfl
@[simp] theorem setHearth_link_read (s : State) (t : Nat) (v : Hearth) (x : Nat) : (s.setHearth t v).link x = s.link x := rfl
@[simp] theorem setHearth_seq_read (s : State) (t : Nat) (v : Hearth) (x : Nat) : (s.setHearth t v).seq x = s.seq x := rfl
@[simp] theorem setHearth_tag_read (s : State) (t : Nat) (v : Hearth) (x y : Nat) : (s.setHearth t v).tag x y = s.tag x y := rfl
@[simp] theorem setHearth_heatSt_read (s : State) (t : Nat) (v : Hearth) (x : Nat) : (s.setHearth t v).heatSt x = s.heatSt x := rfl

/-! ### setChan -/

@[simp] theorem setChan_power (s : State) (c : Nat) (v : Chan) : (s.setChan c v).power = s.power := rfl
@[simp] theorem setChan_fuses (s : State) (c : Nat) (v : Chan) : (s.setChan c v).fuses = s.fuses := rfl
@[simp] theorem setChan_clk (s : State) (c : Nat) (v : Chan) : (s.setChan c v).clk = s.clk := rfl
@[simp] theorem setChan_cyc (s : State) (c : Nat) (v : Chan) : (s.setChan c v).cyc = s.cyc := rfl
@[simp] theorem setChan_free (s : State) (c : Nat) (v : Chan) : (s.setChan c v).free = s.free := rfl
@[simp] theorem setChan_reg (s : State) (c : Nat) (v : Chan) : (s.setChan c v).reg = s.reg := rfl
@[simp] theorem setChan_shadow (s : State) (c : Nat) (v : Chan) : (s.setChan c v).shadow = s.shadow := rfl
@[simp] theorem setChan_commits (s : State) (c : Nat) (v : Chan) : (s.setChan c v).commits = s.commits := rfl
@[simp] theorem setChan_mem (s : State) (c : Nat) (v : Chan) : (s.setChan c v).mem = s.mem := rfl
@[simp] theorem setChan_units (s : State) (c : Nat) (v : Chan) : (s.setChan c v).units = s.units := rfl
@[simp] theorem setChan_latches (s : State) (c : Nat) (v : Chan) : (s.setChan c v).latches = s.latches := rfl
@[simp] theorem setChan_miso (s : State) (c : Nat) (v : Chan) : (s.setChan c v).miso = s.miso := rfl
@[simp] theorem setChan_bus (s : State) (c : Nat) (v : Chan) : (s.setChan c v).bus = s.bus := rfl
@[simp] theorem setChan_msix (s : State) (c : Nat) (v : Chan) : (s.setChan c v).msix = s.msix := rfl
@[simp] theorem setChan_tk (s : State) (c : Nat) (v : Chan) : (s.setChan c v).tk = s.tk := rfl
@[simp] theorem setChan_plans (s : State) (c : Nat) (v : Chan) : (s.setChan c v).plans = s.plans := rfl
@[simp] theorem setChan_released (s : State) (c : Nat) (v : Chan) : (s.setChan c v).released = s.released := rfl
@[simp] theorem setChan_relNext (s : State) (c : Nat) (v : Chan) : (s.setChan c v).relNext = s.relNext := rfl
@[simp] theorem setChan_loadNext (s : State) (c : Nat) (v : Chan) : (s.setChan c v).loadNext = s.loadNext := rfl
@[simp] theorem setChan_hearths (s : State) (c : Nat) (v : Chan) : (s.setChan c v).hearths = s.hearths := rfl
@[simp] theorem setChan_sqNext (s : State) (c : Nat) (v : Chan) : (s.setChan c v).sqNext = s.sqNext := rfl
@[simp] theorem setChan_taken (s : State) (c : Nat) (v : Chan) : (s.setChan c v).taken = s.taken := rfl
@[simp] theorem setChan_embers (s : State) (c : Nat) (v : Chan) : (s.setChan c v).embers = s.embers := rfl
@[simp] theorem setChan_heat (s : State) (c : Nat) (v : Chan) : (s.setChan c v).heat = s.heat := rfl
@[simp] theorem setChan_bucket (s : State) (c : Nat) (v : Chan) : (s.setChan c v).bucket = s.bucket := rfl
@[simp] theorem setChan_borrowed (s : State) (c : Nat) (v : Chan) : (s.setChan c v).borrowed = s.borrowed := rfl
@[simp] theorem setChan_seqs (s : State) (c : Nat) (v : Chan) : (s.setChan c v).seqs = s.seqs := rfl
@[simp] theorem setChan_tampered (s : State) (c : Nat) (v : Chan) : (s.setChan c v).tampered = s.tampered := rfl
@[simp] theorem setChan_tags (s : State) (c : Nat) (v : Chan) : (s.setChan c v).tags = s.tags := rfl
@[simp] theorem setChan_flights (s : State) (c : Nat) (v : Chan) : (s.setChan c v).flights = s.flights := rfl
@[simp] theorem setChan_flightNext (s : State) (c : Nat) (v : Chan) : (s.setChan c v).flightNext = s.flightNext := rfl
@[simp] theorem setChan_reshards (s : State) (c : Nat) (v : Chan) : (s.setChan c v).reshards = s.reshards := rfl
@[simp] theorem setChan_posted (s : State) (c : Nat) (v : Chan) : (s.setChan c v).posted = s.posted := rfl
@[simp] theorem setChan_reads (s : State) (c : Nat) (v : Chan) : (s.setChan c v).reads = s.reads := rfl
@[simp] theorem setChan_lateWids (s : State) (c : Nat) (v : Chan) : (s.setChan c v).lateWids = s.lateWids := rfl
@[simp] theorem setChan_sides (s : State) (c : Nat) (v : Chan) : (s.setChan c v).sides = s.sides := rfl
@[simp] theorem setChan_rowClk (s : State) (c : Nat) (v : Chan) : (s.setChan c v).rowClk = s.rowClk := rfl
@[simp] theorem setChan_rowOld (s : State) (c : Nat) (v : Chan) : (s.setChan c v).rowOld = s.rowOld := rfl
@[simp] theorem setChan_codeClk (s : State) (c : Nat) (v : Chan) : (s.setChan c v).codeClk = s.codeClk := rfl
@[simp] theorem setChan_codeOld (s : State) (c : Nat) (v : Chan) : (s.setChan c v).codeOld = s.codeOld := rfl
@[simp] theorem setChan_pipes (s : State) (c : Nat) (v : Chan) : (s.setChan c v).pipes = s.pipes := rfl
@[simp] theorem setChan_portAt (s : State) (c : Nat) (v : Chan) : (s.setChan c v).portAt = s.portAt := rfl
@[simp] theorem setChan_misoLine (s : State) (c : Nat) (v : Chan) : (s.setChan c v).misoLine = s.misoLine := rfl
@[simp] theorem setChan_lastWrite (s : State) (c : Nat) (v : Chan) : (s.setChan c v).lastWrite = s.lastWrite := rfl
@[simp] theorem setChan_lastHw (s : State) (c : Nat) (v : Chan) : (s.setChan c v).lastHw = s.lastHw := rfl
@[simp] theorem setChan_tickOut (s : State) (c : Nat) (v : Chan) : (s.setChan c v).tickOut = s.tickOut := rfl
@[simp] theorem setChan_tickOutAt (s : State) (c : Nat) (v : Chan) : (s.setChan c v).tickOutAt = s.tickOutAt := rfl
@[simp] theorem setChan_sqAt (s : State) (c : Nat) (v : Chan) : (s.setChan c v).sqAt = s.sqAt := rfl
@[simp] theorem setChan_heatClk (s : State) (c : Nat) (v : Chan) : (s.setChan c v).heatClk = s.heatClk := rfl
@[simp] theorem setChan_heatOld (s : State) (c : Nat) (v : Chan) : (s.setChan c v).heatOld = s.heatOld := rfl
@[simp] theorem setChan_xb (s : State) (c : Nat) (v : Chan) : (s.setChan c v).xb = s.xb := rfl
@[simp] theorem setChan_xbNext (s : State) (c : Nat) (v : Chan) : (s.setChan c v).xbNext = s.xbNext := rfl
@[simp] theorem setChan_xbLast (s : State) (c : Nat) (v : Chan) : (s.setChan c v).xbLast = s.xbLast := rfl
@[simp] theorem setChan_xbOwed (s : State) (c : Nat) (v : Chan) : (s.setChan c v).xbOwed = s.xbOwed := rfl
@[simp] theorem setChan_locks (s : State) (c : Nat) (v : Chan) : (s.setChan c v).locks = s.locks := rfl
@[simp] theorem setChan_slotAt (s : State) (c : Nat) (v : Chan) : (s.setChan c v).slotAt = s.slotAt := rfl
@[simp] theorem setChan_slotUse (s : State) (c : Nat) (v : Chan) : (s.setChan c v).slotUse = s.slotUse := rfl
@[simp] theorem setChan_dmaStart (s : State) (c : Nat) (v : Chan) : (s.setChan c v).dmaStart = s.dmaStart := rfl
@[simp] theorem setChan_dmaLast (s : State) (c : Nat) (v : Chan) : (s.setChan c v).dmaLast = s.dmaLast := rfl
@[simp] theorem setChan_ringClk (s : State) (c : Nat) (v : Chan) : (s.setChan c v).ringClk = s.ringClk := rfl
@[simp] theorem setChan_ringOld (s : State) (c : Nat) (v : Chan) : (s.setChan c v).ringOld = s.ringOld := rfl
@[simp] theorem setChan_fillAt (s : State) (c : Nat) (v : Chan) : (s.setChan c v).fillAt = s.fillAt := rfl
@[simp] theorem setChan_landed (s : State) (c : Nat) (v : Chan) : (s.setChan c v).landed = s.landed := rfl
@[simp] theorem setChan_widNext (s : State) (c : Nat) (v : Chan) : (s.setChan c v).widNext = s.widNext := rfl
@[simp] theorem setChan_ridNext (s : State) (c : Nat) (v : Chan) : (s.setChan c v).ridNext = s.ridNext := rfl
@[simp] theorem setChan_links (s : State) (c : Nat) (v : Chan) : (s.setChan c v).links = s.links := rfl
@[simp] theorem setChan_node (s : State) (c : Nat) (v : Chan) : (s.setChan c v).node = s.node := rfl
@[simp] theorem setChan_therm (s : State) (c : Nat) (v : Chan) : (s.setChan c v).therm = s.therm := rfl
@[simp] theorem setChan_tray (s : State) (c : Nat) (v : Chan) : (s.setChan c v).tray = s.tray := rfl
@[simp] theorem setChan_damp (s : State) (c : Nat) (v : Chan) : (s.setChan c v).damp = s.damp := rfl
@[simp] theorem setChan_thermtripLow (s : State) (c : Nat) (v : Chan) : (s.setChan c v).thermtripLow = s.thermtripLow := rfl
@[simp] theorem setChan_pcieUp (s : State) (c : Nat) (v : Chan) : (s.setChan c v).pcieUp = s.pcieUp := rfl
@[simp] theorem setChan_pending (s : State) (c : Nat) (v : Chan) : (s.setChan c v).pending = s.pending := rfl
@[simp] theorem setChan_fld_read (s : State) (c : Nat) (v : Chan) (r : Fld) (j : Nat) : (s.setChan c v).fld r j = s.fld r j := rfl
@[simp] theorem setChan_shd_read (s : State) (c : Nat) (v : Chan) (r : Fld) (j : Nat) : (s.setChan c v).shd r j = s.shd r j := rfl
@[simp] theorem setChan_byte_read (s : State) (c : Nat) (v : Chan) (x : Nat) : (s.setChan c v).byte x = s.byte x := rfl
@[simp] theorem setChan_plan_read (s : State) (c : Nat) (v : Chan) (x : Nat) : (s.setChan c v).plan x = s.plan x := rfl
@[simp] theorem setChan_hearth_read (s : State) (c : Nat) (v : Chan) (x : Nat) : (s.setChan c v).hearth x = s.hearth x := rfl
@[simp] theorem setChan_ember_read (s : State) (c : Nat) (v : Chan) (x : Nat) : (s.setChan c v).ember x = s.ember x := rfl
@[simp] theorem setChan_link_read (s : State) (c : Nat) (v : Chan) (x : Nat) : (s.setChan c v).link x = s.link x := rfl
@[simp] theorem setChan_seq_read (s : State) (c : Nat) (v : Chan) (x : Nat) : (s.setChan c v).seq x = s.seq x := rfl
@[simp] theorem setChan_tag_read (s : State) (c : Nat) (v : Chan) (x y : Nat) : (s.setChan c v).tag x y = s.tag x y := rfl
@[simp] theorem setChan_heatSt_read (s : State) (c : Nat) (v : Chan) (x : Nat) : (s.setChan c v).heatSt x = s.heatSt x := rfl

/-! ### setEmber -/

@[simp] theorem setEmber_power (s : State) (e : Nat) (v : Ember) : (s.setEmber e v).power = s.power := rfl
@[simp] theorem setEmber_fuses (s : State) (e : Nat) (v : Ember) : (s.setEmber e v).fuses = s.fuses := rfl
@[simp] theorem setEmber_clk (s : State) (e : Nat) (v : Ember) : (s.setEmber e v).clk = s.clk := rfl
@[simp] theorem setEmber_cyc (s : State) (e : Nat) (v : Ember) : (s.setEmber e v).cyc = s.cyc := rfl
@[simp] theorem setEmber_free (s : State) (e : Nat) (v : Ember) : (s.setEmber e v).free = s.free := rfl
@[simp] theorem setEmber_reg (s : State) (e : Nat) (v : Ember) : (s.setEmber e v).reg = s.reg := rfl
@[simp] theorem setEmber_shadow (s : State) (e : Nat) (v : Ember) : (s.setEmber e v).shadow = s.shadow := rfl
@[simp] theorem setEmber_commits (s : State) (e : Nat) (v : Ember) : (s.setEmber e v).commits = s.commits := rfl
@[simp] theorem setEmber_mem (s : State) (e : Nat) (v : Ember) : (s.setEmber e v).mem = s.mem := rfl
@[simp] theorem setEmber_units (s : State) (e : Nat) (v : Ember) : (s.setEmber e v).units = s.units := rfl
@[simp] theorem setEmber_latches (s : State) (e : Nat) (v : Ember) : (s.setEmber e v).latches = s.latches := rfl
@[simp] theorem setEmber_miso (s : State) (e : Nat) (v : Ember) : (s.setEmber e v).miso = s.miso := rfl
@[simp] theorem setEmber_bus (s : State) (e : Nat) (v : Ember) : (s.setEmber e v).bus = s.bus := rfl
@[simp] theorem setEmber_msix (s : State) (e : Nat) (v : Ember) : (s.setEmber e v).msix = s.msix := rfl
@[simp] theorem setEmber_tk (s : State) (e : Nat) (v : Ember) : (s.setEmber e v).tk = s.tk := rfl
@[simp] theorem setEmber_plans (s : State) (e : Nat) (v : Ember) : (s.setEmber e v).plans = s.plans := rfl
@[simp] theorem setEmber_released (s : State) (e : Nat) (v : Ember) : (s.setEmber e v).released = s.released := rfl
@[simp] theorem setEmber_relNext (s : State) (e : Nat) (v : Ember) : (s.setEmber e v).relNext = s.relNext := rfl
@[simp] theorem setEmber_loadNext (s : State) (e : Nat) (v : Ember) : (s.setEmber e v).loadNext = s.loadNext := rfl
@[simp] theorem setEmber_hearths (s : State) (e : Nat) (v : Ember) : (s.setEmber e v).hearths = s.hearths := rfl
@[simp] theorem setEmber_sqNext (s : State) (e : Nat) (v : Ember) : (s.setEmber e v).sqNext = s.sqNext := rfl
@[simp] theorem setEmber_taken (s : State) (e : Nat) (v : Ember) : (s.setEmber e v).taken = s.taken := rfl
@[simp] theorem setEmber_chans (s : State) (e : Nat) (v : Ember) : (s.setEmber e v).chans = s.chans := rfl
@[simp] theorem setEmber_heat (s : State) (e : Nat) (v : Ember) : (s.setEmber e v).heat = s.heat := rfl
@[simp] theorem setEmber_bucket (s : State) (e : Nat) (v : Ember) : (s.setEmber e v).bucket = s.bucket := rfl
@[simp] theorem setEmber_borrowed (s : State) (e : Nat) (v : Ember) : (s.setEmber e v).borrowed = s.borrowed := rfl
@[simp] theorem setEmber_seqs (s : State) (e : Nat) (v : Ember) : (s.setEmber e v).seqs = s.seqs := rfl
@[simp] theorem setEmber_tampered (s : State) (e : Nat) (v : Ember) : (s.setEmber e v).tampered = s.tampered := rfl
@[simp] theorem setEmber_tags (s : State) (e : Nat) (v : Ember) : (s.setEmber e v).tags = s.tags := rfl
@[simp] theorem setEmber_flights (s : State) (e : Nat) (v : Ember) : (s.setEmber e v).flights = s.flights := rfl
@[simp] theorem setEmber_flightNext (s : State) (e : Nat) (v : Ember) : (s.setEmber e v).flightNext = s.flightNext := rfl
@[simp] theorem setEmber_reshards (s : State) (e : Nat) (v : Ember) : (s.setEmber e v).reshards = s.reshards := rfl
@[simp] theorem setEmber_posted (s : State) (e : Nat) (v : Ember) : (s.setEmber e v).posted = s.posted := rfl
@[simp] theorem setEmber_reads (s : State) (e : Nat) (v : Ember) : (s.setEmber e v).reads = s.reads := rfl
@[simp] theorem setEmber_lateWids (s : State) (e : Nat) (v : Ember) : (s.setEmber e v).lateWids = s.lateWids := rfl
@[simp] theorem setEmber_sides (s : State) (e : Nat) (v : Ember) : (s.setEmber e v).sides = s.sides := rfl
@[simp] theorem setEmber_rowClk (s : State) (e : Nat) (v : Ember) : (s.setEmber e v).rowClk = s.rowClk := rfl
@[simp] theorem setEmber_rowOld (s : State) (e : Nat) (v : Ember) : (s.setEmber e v).rowOld = s.rowOld := rfl
@[simp] theorem setEmber_codeClk (s : State) (e : Nat) (v : Ember) : (s.setEmber e v).codeClk = s.codeClk := rfl
@[simp] theorem setEmber_codeOld (s : State) (e : Nat) (v : Ember) : (s.setEmber e v).codeOld = s.codeOld := rfl
@[simp] theorem setEmber_pipes (s : State) (e : Nat) (v : Ember) : (s.setEmber e v).pipes = s.pipes := rfl
@[simp] theorem setEmber_portAt (s : State) (e : Nat) (v : Ember) : (s.setEmber e v).portAt = s.portAt := rfl
@[simp] theorem setEmber_misoLine (s : State) (e : Nat) (v : Ember) : (s.setEmber e v).misoLine = s.misoLine := rfl
@[simp] theorem setEmber_lastWrite (s : State) (e : Nat) (v : Ember) : (s.setEmber e v).lastWrite = s.lastWrite := rfl
@[simp] theorem setEmber_lastHw (s : State) (e : Nat) (v : Ember) : (s.setEmber e v).lastHw = s.lastHw := rfl
@[simp] theorem setEmber_tickOut (s : State) (e : Nat) (v : Ember) : (s.setEmber e v).tickOut = s.tickOut := rfl
@[simp] theorem setEmber_tickOutAt (s : State) (e : Nat) (v : Ember) : (s.setEmber e v).tickOutAt = s.tickOutAt := rfl
@[simp] theorem setEmber_sqAt (s : State) (e : Nat) (v : Ember) : (s.setEmber e v).sqAt = s.sqAt := rfl
@[simp] theorem setEmber_heatClk (s : State) (e : Nat) (v : Ember) : (s.setEmber e v).heatClk = s.heatClk := rfl
@[simp] theorem setEmber_heatOld (s : State) (e : Nat) (v : Ember) : (s.setEmber e v).heatOld = s.heatOld := rfl
@[simp] theorem setEmber_xb (s : State) (e : Nat) (v : Ember) : (s.setEmber e v).xb = s.xb := rfl
@[simp] theorem setEmber_xbNext (s : State) (e : Nat) (v : Ember) : (s.setEmber e v).xbNext = s.xbNext := rfl
@[simp] theorem setEmber_xbLast (s : State) (e : Nat) (v : Ember) : (s.setEmber e v).xbLast = s.xbLast := rfl
@[simp] theorem setEmber_xbOwed (s : State) (e : Nat) (v : Ember) : (s.setEmber e v).xbOwed = s.xbOwed := rfl
@[simp] theorem setEmber_locks (s : State) (e : Nat) (v : Ember) : (s.setEmber e v).locks = s.locks := rfl
@[simp] theorem setEmber_slotAt (s : State) (e : Nat) (v : Ember) : (s.setEmber e v).slotAt = s.slotAt := rfl
@[simp] theorem setEmber_slotUse (s : State) (e : Nat) (v : Ember) : (s.setEmber e v).slotUse = s.slotUse := rfl
@[simp] theorem setEmber_dmaStart (s : State) (e : Nat) (v : Ember) : (s.setEmber e v).dmaStart = s.dmaStart := rfl
@[simp] theorem setEmber_dmaLast (s : State) (e : Nat) (v : Ember) : (s.setEmber e v).dmaLast = s.dmaLast := rfl
@[simp] theorem setEmber_ringClk (s : State) (e : Nat) (v : Ember) : (s.setEmber e v).ringClk = s.ringClk := rfl
@[simp] theorem setEmber_ringOld (s : State) (e : Nat) (v : Ember) : (s.setEmber e v).ringOld = s.ringOld := rfl
@[simp] theorem setEmber_fillAt (s : State) (e : Nat) (v : Ember) : (s.setEmber e v).fillAt = s.fillAt := rfl
@[simp] theorem setEmber_landed (s : State) (e : Nat) (v : Ember) : (s.setEmber e v).landed = s.landed := rfl
@[simp] theorem setEmber_widNext (s : State) (e : Nat) (v : Ember) : (s.setEmber e v).widNext = s.widNext := rfl
@[simp] theorem setEmber_ridNext (s : State) (e : Nat) (v : Ember) : (s.setEmber e v).ridNext = s.ridNext := rfl
@[simp] theorem setEmber_links (s : State) (e : Nat) (v : Ember) : (s.setEmber e v).links = s.links := rfl
@[simp] theorem setEmber_node (s : State) (e : Nat) (v : Ember) : (s.setEmber e v).node = s.node := rfl
@[simp] theorem setEmber_therm (s : State) (e : Nat) (v : Ember) : (s.setEmber e v).therm = s.therm := rfl
@[simp] theorem setEmber_tray (s : State) (e : Nat) (v : Ember) : (s.setEmber e v).tray = s.tray := rfl
@[simp] theorem setEmber_damp (s : State) (e : Nat) (v : Ember) : (s.setEmber e v).damp = s.damp := rfl
@[simp] theorem setEmber_thermtripLow (s : State) (e : Nat) (v : Ember) : (s.setEmber e v).thermtripLow = s.thermtripLow := rfl
@[simp] theorem setEmber_pcieUp (s : State) (e : Nat) (v : Ember) : (s.setEmber e v).pcieUp = s.pcieUp := rfl
@[simp] theorem setEmber_pending (s : State) (e : Nat) (v : Ember) : (s.setEmber e v).pending = s.pending := rfl
@[simp] theorem setEmber_fld_read (s : State) (e : Nat) (v : Ember) (r : Fld) (j : Nat) : (s.setEmber e v).fld r j = s.fld r j := rfl
@[simp] theorem setEmber_shd_read (s : State) (e : Nat) (v : Ember) (r : Fld) (j : Nat) : (s.setEmber e v).shd r j = s.shd r j := rfl
@[simp] theorem setEmber_byte_read (s : State) (e : Nat) (v : Ember) (x : Nat) : (s.setEmber e v).byte x = s.byte x := rfl
@[simp] theorem setEmber_plan_read (s : State) (e : Nat) (v : Ember) (x : Nat) : (s.setEmber e v).plan x = s.plan x := rfl
@[simp] theorem setEmber_hearth_read (s : State) (e : Nat) (v : Ember) (x : Nat) : (s.setEmber e v).hearth x = s.hearth x := rfl
@[simp] theorem setEmber_chan_read (s : State) (e : Nat) (v : Ember) (x : Nat) : (s.setEmber e v).chan x = s.chan x := rfl
@[simp] theorem setEmber_link_read (s : State) (e : Nat) (v : Ember) (x : Nat) : (s.setEmber e v).link x = s.link x := rfl
@[simp] theorem setEmber_seq_read (s : State) (e : Nat) (v : Ember) (x : Nat) : (s.setEmber e v).seq x = s.seq x := rfl
@[simp] theorem setEmber_tag_read (s : State) (e : Nat) (v : Ember) (x y : Nat) : (s.setEmber e v).tag x y = s.tag x y := rfl
@[simp] theorem setEmber_heatSt_read (s : State) (e : Nat) (v : Ember) (x : Nat) : (s.setEmber e v).heatSt x = s.heatSt x := rfl

/-! ### setLink -/

@[simp] theorem setLink_power (s : State) (n : Nat) (v : Link) : (s.setLink n v).power = s.power := rfl
@[simp] theorem setLink_fuses (s : State) (n : Nat) (v : Link) : (s.setLink n v).fuses = s.fuses := rfl
@[simp] theorem setLink_clk (s : State) (n : Nat) (v : Link) : (s.setLink n v).clk = s.clk := rfl
@[simp] theorem setLink_cyc (s : State) (n : Nat) (v : Link) : (s.setLink n v).cyc = s.cyc := rfl
@[simp] theorem setLink_free (s : State) (n : Nat) (v : Link) : (s.setLink n v).free = s.free := rfl
@[simp] theorem setLink_reg (s : State) (n : Nat) (v : Link) : (s.setLink n v).reg = s.reg := rfl
@[simp] theorem setLink_shadow (s : State) (n : Nat) (v : Link) : (s.setLink n v).shadow = s.shadow := rfl
@[simp] theorem setLink_commits (s : State) (n : Nat) (v : Link) : (s.setLink n v).commits = s.commits := rfl
@[simp] theorem setLink_mem (s : State) (n : Nat) (v : Link) : (s.setLink n v).mem = s.mem := rfl
@[simp] theorem setLink_units (s : State) (n : Nat) (v : Link) : (s.setLink n v).units = s.units := rfl
@[simp] theorem setLink_latches (s : State) (n : Nat) (v : Link) : (s.setLink n v).latches = s.latches := rfl
@[simp] theorem setLink_miso (s : State) (n : Nat) (v : Link) : (s.setLink n v).miso = s.miso := rfl
@[simp] theorem setLink_bus (s : State) (n : Nat) (v : Link) : (s.setLink n v).bus = s.bus := rfl
@[simp] theorem setLink_msix (s : State) (n : Nat) (v : Link) : (s.setLink n v).msix = s.msix := rfl
@[simp] theorem setLink_tk (s : State) (n : Nat) (v : Link) : (s.setLink n v).tk = s.tk := rfl
@[simp] theorem setLink_plans (s : State) (n : Nat) (v : Link) : (s.setLink n v).plans = s.plans := rfl
@[simp] theorem setLink_released (s : State) (n : Nat) (v : Link) : (s.setLink n v).released = s.released := rfl
@[simp] theorem setLink_relNext (s : State) (n : Nat) (v : Link) : (s.setLink n v).relNext = s.relNext := rfl
@[simp] theorem setLink_loadNext (s : State) (n : Nat) (v : Link) : (s.setLink n v).loadNext = s.loadNext := rfl
@[simp] theorem setLink_hearths (s : State) (n : Nat) (v : Link) : (s.setLink n v).hearths = s.hearths := rfl
@[simp] theorem setLink_sqNext (s : State) (n : Nat) (v : Link) : (s.setLink n v).sqNext = s.sqNext := rfl
@[simp] theorem setLink_taken (s : State) (n : Nat) (v : Link) : (s.setLink n v).taken = s.taken := rfl
@[simp] theorem setLink_chans (s : State) (n : Nat) (v : Link) : (s.setLink n v).chans = s.chans := rfl
@[simp] theorem setLink_embers (s : State) (n : Nat) (v : Link) : (s.setLink n v).embers = s.embers := rfl
@[simp] theorem setLink_heat (s : State) (n : Nat) (v : Link) : (s.setLink n v).heat = s.heat := rfl
@[simp] theorem setLink_bucket (s : State) (n : Nat) (v : Link) : (s.setLink n v).bucket = s.bucket := rfl
@[simp] theorem setLink_borrowed (s : State) (n : Nat) (v : Link) : (s.setLink n v).borrowed = s.borrowed := rfl
@[simp] theorem setLink_seqs (s : State) (n : Nat) (v : Link) : (s.setLink n v).seqs = s.seqs := rfl
@[simp] theorem setLink_tampered (s : State) (n : Nat) (v : Link) : (s.setLink n v).tampered = s.tampered := rfl
@[simp] theorem setLink_tags (s : State) (n : Nat) (v : Link) : (s.setLink n v).tags = s.tags := rfl
@[simp] theorem setLink_flights (s : State) (n : Nat) (v : Link) : (s.setLink n v).flights = s.flights := rfl
@[simp] theorem setLink_flightNext (s : State) (n : Nat) (v : Link) : (s.setLink n v).flightNext = s.flightNext := rfl
@[simp] theorem setLink_reshards (s : State) (n : Nat) (v : Link) : (s.setLink n v).reshards = s.reshards := rfl
@[simp] theorem setLink_posted (s : State) (n : Nat) (v : Link) : (s.setLink n v).posted = s.posted := rfl
@[simp] theorem setLink_reads (s : State) (n : Nat) (v : Link) : (s.setLink n v).reads = s.reads := rfl
@[simp] theorem setLink_lateWids (s : State) (n : Nat) (v : Link) : (s.setLink n v).lateWids = s.lateWids := rfl
@[simp] theorem setLink_sides (s : State) (n : Nat) (v : Link) : (s.setLink n v).sides = s.sides := rfl
@[simp] theorem setLink_rowClk (s : State) (n : Nat) (v : Link) : (s.setLink n v).rowClk = s.rowClk := rfl
@[simp] theorem setLink_rowOld (s : State) (n : Nat) (v : Link) : (s.setLink n v).rowOld = s.rowOld := rfl
@[simp] theorem setLink_codeClk (s : State) (n : Nat) (v : Link) : (s.setLink n v).codeClk = s.codeClk := rfl
@[simp] theorem setLink_codeOld (s : State) (n : Nat) (v : Link) : (s.setLink n v).codeOld = s.codeOld := rfl
@[simp] theorem setLink_pipes (s : State) (n : Nat) (v : Link) : (s.setLink n v).pipes = s.pipes := rfl
@[simp] theorem setLink_portAt (s : State) (n : Nat) (v : Link) : (s.setLink n v).portAt = s.portAt := rfl
@[simp] theorem setLink_misoLine (s : State) (n : Nat) (v : Link) : (s.setLink n v).misoLine = s.misoLine := rfl
@[simp] theorem setLink_lastWrite (s : State) (n : Nat) (v : Link) : (s.setLink n v).lastWrite = s.lastWrite := rfl
@[simp] theorem setLink_lastHw (s : State) (n : Nat) (v : Link) : (s.setLink n v).lastHw = s.lastHw := rfl
@[simp] theorem setLink_tickOut (s : State) (n : Nat) (v : Link) : (s.setLink n v).tickOut = s.tickOut := rfl
@[simp] theorem setLink_tickOutAt (s : State) (n : Nat) (v : Link) : (s.setLink n v).tickOutAt = s.tickOutAt := rfl
@[simp] theorem setLink_sqAt (s : State) (n : Nat) (v : Link) : (s.setLink n v).sqAt = s.sqAt := rfl
@[simp] theorem setLink_heatClk (s : State) (n : Nat) (v : Link) : (s.setLink n v).heatClk = s.heatClk := rfl
@[simp] theorem setLink_heatOld (s : State) (n : Nat) (v : Link) : (s.setLink n v).heatOld = s.heatOld := rfl
@[simp] theorem setLink_xb (s : State) (n : Nat) (v : Link) : (s.setLink n v).xb = s.xb := rfl
@[simp] theorem setLink_xbNext (s : State) (n : Nat) (v : Link) : (s.setLink n v).xbNext = s.xbNext := rfl
@[simp] theorem setLink_xbLast (s : State) (n : Nat) (v : Link) : (s.setLink n v).xbLast = s.xbLast := rfl
@[simp] theorem setLink_xbOwed (s : State) (n : Nat) (v : Link) : (s.setLink n v).xbOwed = s.xbOwed := rfl
@[simp] theorem setLink_locks (s : State) (n : Nat) (v : Link) : (s.setLink n v).locks = s.locks := rfl
@[simp] theorem setLink_slotAt (s : State) (n : Nat) (v : Link) : (s.setLink n v).slotAt = s.slotAt := rfl
@[simp] theorem setLink_slotUse (s : State) (n : Nat) (v : Link) : (s.setLink n v).slotUse = s.slotUse := rfl
@[simp] theorem setLink_dmaStart (s : State) (n : Nat) (v : Link) : (s.setLink n v).dmaStart = s.dmaStart := rfl
@[simp] theorem setLink_dmaLast (s : State) (n : Nat) (v : Link) : (s.setLink n v).dmaLast = s.dmaLast := rfl
@[simp] theorem setLink_ringClk (s : State) (n : Nat) (v : Link) : (s.setLink n v).ringClk = s.ringClk := rfl
@[simp] theorem setLink_ringOld (s : State) (n : Nat) (v : Link) : (s.setLink n v).ringOld = s.ringOld := rfl
@[simp] theorem setLink_fillAt (s : State) (n : Nat) (v : Link) : (s.setLink n v).fillAt = s.fillAt := rfl
@[simp] theorem setLink_landed (s : State) (n : Nat) (v : Link) : (s.setLink n v).landed = s.landed := rfl
@[simp] theorem setLink_widNext (s : State) (n : Nat) (v : Link) : (s.setLink n v).widNext = s.widNext := rfl
@[simp] theorem setLink_ridNext (s : State) (n : Nat) (v : Link) : (s.setLink n v).ridNext = s.ridNext := rfl
@[simp] theorem setLink_node (s : State) (n : Nat) (v : Link) : (s.setLink n v).node = s.node := rfl
@[simp] theorem setLink_therm (s : State) (n : Nat) (v : Link) : (s.setLink n v).therm = s.therm := rfl
@[simp] theorem setLink_tray (s : State) (n : Nat) (v : Link) : (s.setLink n v).tray = s.tray := rfl
@[simp] theorem setLink_damp (s : State) (n : Nat) (v : Link) : (s.setLink n v).damp = s.damp := rfl
@[simp] theorem setLink_thermtripLow (s : State) (n : Nat) (v : Link) : (s.setLink n v).thermtripLow = s.thermtripLow := rfl
@[simp] theorem setLink_pcieUp (s : State) (n : Nat) (v : Link) : (s.setLink n v).pcieUp = s.pcieUp := rfl
@[simp] theorem setLink_pending (s : State) (n : Nat) (v : Link) : (s.setLink n v).pending = s.pending := rfl
@[simp] theorem setLink_fld_read (s : State) (n : Nat) (v : Link) (r : Fld) (j : Nat) : (s.setLink n v).fld r j = s.fld r j := rfl
@[simp] theorem setLink_shd_read (s : State) (n : Nat) (v : Link) (r : Fld) (j : Nat) : (s.setLink n v).shd r j = s.shd r j := rfl
@[simp] theorem setLink_byte_read (s : State) (n : Nat) (v : Link) (x : Nat) : (s.setLink n v).byte x = s.byte x := rfl
@[simp] theorem setLink_plan_read (s : State) (n : Nat) (v : Link) (x : Nat) : (s.setLink n v).plan x = s.plan x := rfl
@[simp] theorem setLink_hearth_read (s : State) (n : Nat) (v : Link) (x : Nat) : (s.setLink n v).hearth x = s.hearth x := rfl
@[simp] theorem setLink_chan_read (s : State) (n : Nat) (v : Link) (x : Nat) : (s.setLink n v).chan x = s.chan x := rfl
@[simp] theorem setLink_ember_read (s : State) (n : Nat) (v : Link) (x : Nat) : (s.setLink n v).ember x = s.ember x := rfl
@[simp] theorem setLink_seq_read (s : State) (n : Nat) (v : Link) (x : Nat) : (s.setLink n v).seq x = s.seq x := rfl
@[simp] theorem setLink_tag_read (s : State) (n : Nat) (v : Link) (x y : Nat) : (s.setLink n v).tag x y = s.tag x y := rfl
@[simp] theorem setLink_heatSt_read (s : State) (n : Nat) (v : Link) (x : Nat) : (s.setLink n v).heatSt x = s.heatSt x := rfl

/-! ### setSeq -/

@[simp] theorem setSeq_power (s : State) (q : Nat) (v : Seq) : (s.setSeq q v).power = s.power := rfl
@[simp] theorem setSeq_fuses (s : State) (q : Nat) (v : Seq) : (s.setSeq q v).fuses = s.fuses := rfl
@[simp] theorem setSeq_clk (s : State) (q : Nat) (v : Seq) : (s.setSeq q v).clk = s.clk := rfl
@[simp] theorem setSeq_cyc (s : State) (q : Nat) (v : Seq) : (s.setSeq q v).cyc = s.cyc := rfl
@[simp] theorem setSeq_free (s : State) (q : Nat) (v : Seq) : (s.setSeq q v).free = s.free := rfl
@[simp] theorem setSeq_reg (s : State) (q : Nat) (v : Seq) : (s.setSeq q v).reg = s.reg := rfl
@[simp] theorem setSeq_shadow (s : State) (q : Nat) (v : Seq) : (s.setSeq q v).shadow = s.shadow := rfl
@[simp] theorem setSeq_commits (s : State) (q : Nat) (v : Seq) : (s.setSeq q v).commits = s.commits := rfl
@[simp] theorem setSeq_mem (s : State) (q : Nat) (v : Seq) : (s.setSeq q v).mem = s.mem := rfl
@[simp] theorem setSeq_units (s : State) (q : Nat) (v : Seq) : (s.setSeq q v).units = s.units := rfl
@[simp] theorem setSeq_latches (s : State) (q : Nat) (v : Seq) : (s.setSeq q v).latches = s.latches := rfl
@[simp] theorem setSeq_miso (s : State) (q : Nat) (v : Seq) : (s.setSeq q v).miso = s.miso := rfl
@[simp] theorem setSeq_bus (s : State) (q : Nat) (v : Seq) : (s.setSeq q v).bus = s.bus := rfl
@[simp] theorem setSeq_msix (s : State) (q : Nat) (v : Seq) : (s.setSeq q v).msix = s.msix := rfl
@[simp] theorem setSeq_tk (s : State) (q : Nat) (v : Seq) : (s.setSeq q v).tk = s.tk := rfl
@[simp] theorem setSeq_plans (s : State) (q : Nat) (v : Seq) : (s.setSeq q v).plans = s.plans := rfl
@[simp] theorem setSeq_released (s : State) (q : Nat) (v : Seq) : (s.setSeq q v).released = s.released := rfl
@[simp] theorem setSeq_relNext (s : State) (q : Nat) (v : Seq) : (s.setSeq q v).relNext = s.relNext := rfl
@[simp] theorem setSeq_loadNext (s : State) (q : Nat) (v : Seq) : (s.setSeq q v).loadNext = s.loadNext := rfl
@[simp] theorem setSeq_hearths (s : State) (q : Nat) (v : Seq) : (s.setSeq q v).hearths = s.hearths := rfl
@[simp] theorem setSeq_sqNext (s : State) (q : Nat) (v : Seq) : (s.setSeq q v).sqNext = s.sqNext := rfl
@[simp] theorem setSeq_taken (s : State) (q : Nat) (v : Seq) : (s.setSeq q v).taken = s.taken := rfl
@[simp] theorem setSeq_chans (s : State) (q : Nat) (v : Seq) : (s.setSeq q v).chans = s.chans := rfl
@[simp] theorem setSeq_embers (s : State) (q : Nat) (v : Seq) : (s.setSeq q v).embers = s.embers := rfl
@[simp] theorem setSeq_heat (s : State) (q : Nat) (v : Seq) : (s.setSeq q v).heat = s.heat := rfl
@[simp] theorem setSeq_bucket (s : State) (q : Nat) (v : Seq) : (s.setSeq q v).bucket = s.bucket := rfl
@[simp] theorem setSeq_borrowed (s : State) (q : Nat) (v : Seq) : (s.setSeq q v).borrowed = s.borrowed := rfl
@[simp] theorem setSeq_tampered (s : State) (q : Nat) (v : Seq) : (s.setSeq q v).tampered = s.tampered := rfl
@[simp] theorem setSeq_tags (s : State) (q : Nat) (v : Seq) : (s.setSeq q v).tags = s.tags := rfl
@[simp] theorem setSeq_flights (s : State) (q : Nat) (v : Seq) : (s.setSeq q v).flights = s.flights := rfl
@[simp] theorem setSeq_flightNext (s : State) (q : Nat) (v : Seq) : (s.setSeq q v).flightNext = s.flightNext := rfl
@[simp] theorem setSeq_reshards (s : State) (q : Nat) (v : Seq) : (s.setSeq q v).reshards = s.reshards := rfl
@[simp] theorem setSeq_posted (s : State) (q : Nat) (v : Seq) : (s.setSeq q v).posted = s.posted := rfl
@[simp] theorem setSeq_reads (s : State) (q : Nat) (v : Seq) : (s.setSeq q v).reads = s.reads := rfl
@[simp] theorem setSeq_lateWids (s : State) (q : Nat) (v : Seq) : (s.setSeq q v).lateWids = s.lateWids := rfl
@[simp] theorem setSeq_sides (s : State) (q : Nat) (v : Seq) : (s.setSeq q v).sides = s.sides := rfl
@[simp] theorem setSeq_rowClk (s : State) (q : Nat) (v : Seq) : (s.setSeq q v).rowClk = s.rowClk := rfl
@[simp] theorem setSeq_rowOld (s : State) (q : Nat) (v : Seq) : (s.setSeq q v).rowOld = s.rowOld := rfl
@[simp] theorem setSeq_codeClk (s : State) (q : Nat) (v : Seq) : (s.setSeq q v).codeClk = s.codeClk := rfl
@[simp] theorem setSeq_codeOld (s : State) (q : Nat) (v : Seq) : (s.setSeq q v).codeOld = s.codeOld := rfl
@[simp] theorem setSeq_pipes (s : State) (q : Nat) (v : Seq) : (s.setSeq q v).pipes = s.pipes := rfl
@[simp] theorem setSeq_portAt (s : State) (q : Nat) (v : Seq) : (s.setSeq q v).portAt = s.portAt := rfl
@[simp] theorem setSeq_misoLine (s : State) (q : Nat) (v : Seq) : (s.setSeq q v).misoLine = s.misoLine := rfl
@[simp] theorem setSeq_lastWrite (s : State) (q : Nat) (v : Seq) : (s.setSeq q v).lastWrite = s.lastWrite := rfl
@[simp] theorem setSeq_lastHw (s : State) (q : Nat) (v : Seq) : (s.setSeq q v).lastHw = s.lastHw := rfl
@[simp] theorem setSeq_tickOut (s : State) (q : Nat) (v : Seq) : (s.setSeq q v).tickOut = s.tickOut := rfl
@[simp] theorem setSeq_tickOutAt (s : State) (q : Nat) (v : Seq) : (s.setSeq q v).tickOutAt = s.tickOutAt := rfl
@[simp] theorem setSeq_sqAt (s : State) (q : Nat) (v : Seq) : (s.setSeq q v).sqAt = s.sqAt := rfl
@[simp] theorem setSeq_heatClk (s : State) (q : Nat) (v : Seq) : (s.setSeq q v).heatClk = s.heatClk := rfl
@[simp] theorem setSeq_heatOld (s : State) (q : Nat) (v : Seq) : (s.setSeq q v).heatOld = s.heatOld := rfl
@[simp] theorem setSeq_xb (s : State) (q : Nat) (v : Seq) : (s.setSeq q v).xb = s.xb := rfl
@[simp] theorem setSeq_xbNext (s : State) (q : Nat) (v : Seq) : (s.setSeq q v).xbNext = s.xbNext := rfl
@[simp] theorem setSeq_xbLast (s : State) (q : Nat) (v : Seq) : (s.setSeq q v).xbLast = s.xbLast := rfl
@[simp] theorem setSeq_xbOwed (s : State) (q : Nat) (v : Seq) : (s.setSeq q v).xbOwed = s.xbOwed := rfl
@[simp] theorem setSeq_locks (s : State) (q : Nat) (v : Seq) : (s.setSeq q v).locks = s.locks := rfl
@[simp] theorem setSeq_slotAt (s : State) (q : Nat) (v : Seq) : (s.setSeq q v).slotAt = s.slotAt := rfl
@[simp] theorem setSeq_slotUse (s : State) (q : Nat) (v : Seq) : (s.setSeq q v).slotUse = s.slotUse := rfl
@[simp] theorem setSeq_dmaStart (s : State) (q : Nat) (v : Seq) : (s.setSeq q v).dmaStart = s.dmaStart := rfl
@[simp] theorem setSeq_dmaLast (s : State) (q : Nat) (v : Seq) : (s.setSeq q v).dmaLast = s.dmaLast := rfl
@[simp] theorem setSeq_ringClk (s : State) (q : Nat) (v : Seq) : (s.setSeq q v).ringClk = s.ringClk := rfl
@[simp] theorem setSeq_ringOld (s : State) (q : Nat) (v : Seq) : (s.setSeq q v).ringOld = s.ringOld := rfl
@[simp] theorem setSeq_fillAt (s : State) (q : Nat) (v : Seq) : (s.setSeq q v).fillAt = s.fillAt := rfl
@[simp] theorem setSeq_landed (s : State) (q : Nat) (v : Seq) : (s.setSeq q v).landed = s.landed := rfl
@[simp] theorem setSeq_widNext (s : State) (q : Nat) (v : Seq) : (s.setSeq q v).widNext = s.widNext := rfl
@[simp] theorem setSeq_ridNext (s : State) (q : Nat) (v : Seq) : (s.setSeq q v).ridNext = s.ridNext := rfl
@[simp] theorem setSeq_links (s : State) (q : Nat) (v : Seq) : (s.setSeq q v).links = s.links := rfl
@[simp] theorem setSeq_node (s : State) (q : Nat) (v : Seq) : (s.setSeq q v).node = s.node := rfl
@[simp] theorem setSeq_therm (s : State) (q : Nat) (v : Seq) : (s.setSeq q v).therm = s.therm := rfl
@[simp] theorem setSeq_tray (s : State) (q : Nat) (v : Seq) : (s.setSeq q v).tray = s.tray := rfl
@[simp] theorem setSeq_damp (s : State) (q : Nat) (v : Seq) : (s.setSeq q v).damp = s.damp := rfl
@[simp] theorem setSeq_thermtripLow (s : State) (q : Nat) (v : Seq) : (s.setSeq q v).thermtripLow = s.thermtripLow := rfl
@[simp] theorem setSeq_pcieUp (s : State) (q : Nat) (v : Seq) : (s.setSeq q v).pcieUp = s.pcieUp := rfl
@[simp] theorem setSeq_pending (s : State) (q : Nat) (v : Seq) : (s.setSeq q v).pending = s.pending := rfl
@[simp] theorem setSeq_fld_read (s : State) (q : Nat) (v : Seq) (r : Fld) (j : Nat) : (s.setSeq q v).fld r j = s.fld r j := rfl
@[simp] theorem setSeq_shd_read (s : State) (q : Nat) (v : Seq) (r : Fld) (j : Nat) : (s.setSeq q v).shd r j = s.shd r j := rfl
@[simp] theorem setSeq_byte_read (s : State) (q : Nat) (v : Seq) (x : Nat) : (s.setSeq q v).byte x = s.byte x := rfl
@[simp] theorem setSeq_plan_read (s : State) (q : Nat) (v : Seq) (x : Nat) : (s.setSeq q v).plan x = s.plan x := rfl
@[simp] theorem setSeq_hearth_read (s : State) (q : Nat) (v : Seq) (x : Nat) : (s.setSeq q v).hearth x = s.hearth x := rfl
@[simp] theorem setSeq_chan_read (s : State) (q : Nat) (v : Seq) (x : Nat) : (s.setSeq q v).chan x = s.chan x := rfl
@[simp] theorem setSeq_ember_read (s : State) (q : Nat) (v : Seq) (x : Nat) : (s.setSeq q v).ember x = s.ember x := rfl
@[simp] theorem setSeq_link_read (s : State) (q : Nat) (v : Seq) (x : Nat) : (s.setSeq q v).link x = s.link x := rfl
@[simp] theorem setSeq_tag_read (s : State) (q : Nat) (v : Seq) (x y : Nat) : (s.setSeq q v).tag x y = s.tag x y := rfl
@[simp] theorem setSeq_heatSt_read (s : State) (q : Nat) (v : Seq) (x : Nat) : (s.setSeq q v).heatSt x = s.heatSt x := rfl

/-! ### setTag -/

@[simp] theorem setTag_power (s : State) (t g : Nat) (v : SpecTag) : (s.setTag t g v).power = s.power := rfl
@[simp] theorem setTag_fuses (s : State) (t g : Nat) (v : SpecTag) : (s.setTag t g v).fuses = s.fuses := rfl
@[simp] theorem setTag_clk (s : State) (t g : Nat) (v : SpecTag) : (s.setTag t g v).clk = s.clk := rfl
@[simp] theorem setTag_cyc (s : State) (t g : Nat) (v : SpecTag) : (s.setTag t g v).cyc = s.cyc := rfl
@[simp] theorem setTag_free (s : State) (t g : Nat) (v : SpecTag) : (s.setTag t g v).free = s.free := rfl
@[simp] theorem setTag_reg (s : State) (t g : Nat) (v : SpecTag) : (s.setTag t g v).reg = s.reg := rfl
@[simp] theorem setTag_shadow (s : State) (t g : Nat) (v : SpecTag) : (s.setTag t g v).shadow = s.shadow := rfl
@[simp] theorem setTag_commits (s : State) (t g : Nat) (v : SpecTag) : (s.setTag t g v).commits = s.commits := rfl
@[simp] theorem setTag_mem (s : State) (t g : Nat) (v : SpecTag) : (s.setTag t g v).mem = s.mem := rfl
@[simp] theorem setTag_units (s : State) (t g : Nat) (v : SpecTag) : (s.setTag t g v).units = s.units := rfl
@[simp] theorem setTag_latches (s : State) (t g : Nat) (v : SpecTag) : (s.setTag t g v).latches = s.latches := rfl
@[simp] theorem setTag_miso (s : State) (t g : Nat) (v : SpecTag) : (s.setTag t g v).miso = s.miso := rfl
@[simp] theorem setTag_bus (s : State) (t g : Nat) (v : SpecTag) : (s.setTag t g v).bus = s.bus := rfl
@[simp] theorem setTag_msix (s : State) (t g : Nat) (v : SpecTag) : (s.setTag t g v).msix = s.msix := rfl
@[simp] theorem setTag_tk (s : State) (t g : Nat) (v : SpecTag) : (s.setTag t g v).tk = s.tk := rfl
@[simp] theorem setTag_plans (s : State) (t g : Nat) (v : SpecTag) : (s.setTag t g v).plans = s.plans := rfl
@[simp] theorem setTag_released (s : State) (t g : Nat) (v : SpecTag) : (s.setTag t g v).released = s.released := rfl
@[simp] theorem setTag_relNext (s : State) (t g : Nat) (v : SpecTag) : (s.setTag t g v).relNext = s.relNext := rfl
@[simp] theorem setTag_loadNext (s : State) (t g : Nat) (v : SpecTag) : (s.setTag t g v).loadNext = s.loadNext := rfl
@[simp] theorem setTag_hearths (s : State) (t g : Nat) (v : SpecTag) : (s.setTag t g v).hearths = s.hearths := rfl
@[simp] theorem setTag_sqNext (s : State) (t g : Nat) (v : SpecTag) : (s.setTag t g v).sqNext = s.sqNext := rfl
@[simp] theorem setTag_taken (s : State) (t g : Nat) (v : SpecTag) : (s.setTag t g v).taken = s.taken := rfl
@[simp] theorem setTag_chans (s : State) (t g : Nat) (v : SpecTag) : (s.setTag t g v).chans = s.chans := rfl
@[simp] theorem setTag_embers (s : State) (t g : Nat) (v : SpecTag) : (s.setTag t g v).embers = s.embers := rfl
@[simp] theorem setTag_heat (s : State) (t g : Nat) (v : SpecTag) : (s.setTag t g v).heat = s.heat := rfl
@[simp] theorem setTag_bucket (s : State) (t g : Nat) (v : SpecTag) : (s.setTag t g v).bucket = s.bucket := rfl
@[simp] theorem setTag_borrowed (s : State) (t g : Nat) (v : SpecTag) : (s.setTag t g v).borrowed = s.borrowed := rfl
@[simp] theorem setTag_seqs (s : State) (t g : Nat) (v : SpecTag) : (s.setTag t g v).seqs = s.seqs := rfl
@[simp] theorem setTag_tampered (s : State) (t g : Nat) (v : SpecTag) : (s.setTag t g v).tampered = s.tampered := rfl
@[simp] theorem setTag_flights (s : State) (t g : Nat) (v : SpecTag) : (s.setTag t g v).flights = s.flights := rfl
@[simp] theorem setTag_flightNext (s : State) (t g : Nat) (v : SpecTag) : (s.setTag t g v).flightNext = s.flightNext := rfl
@[simp] theorem setTag_reshards (s : State) (t g : Nat) (v : SpecTag) : (s.setTag t g v).reshards = s.reshards := rfl
@[simp] theorem setTag_posted (s : State) (t g : Nat) (v : SpecTag) : (s.setTag t g v).posted = s.posted := rfl
@[simp] theorem setTag_reads (s : State) (t g : Nat) (v : SpecTag) : (s.setTag t g v).reads = s.reads := rfl
@[simp] theorem setTag_lateWids (s : State) (t g : Nat) (v : SpecTag) : (s.setTag t g v).lateWids = s.lateWids := rfl
@[simp] theorem setTag_sides (s : State) (t g : Nat) (v : SpecTag) : (s.setTag t g v).sides = s.sides := rfl
@[simp] theorem setTag_rowClk (s : State) (t g : Nat) (v : SpecTag) : (s.setTag t g v).rowClk = s.rowClk := rfl
@[simp] theorem setTag_rowOld (s : State) (t g : Nat) (v : SpecTag) : (s.setTag t g v).rowOld = s.rowOld := rfl
@[simp] theorem setTag_codeClk (s : State) (t g : Nat) (v : SpecTag) : (s.setTag t g v).codeClk = s.codeClk := rfl
@[simp] theorem setTag_codeOld (s : State) (t g : Nat) (v : SpecTag) : (s.setTag t g v).codeOld = s.codeOld := rfl
@[simp] theorem setTag_pipes (s : State) (t g : Nat) (v : SpecTag) : (s.setTag t g v).pipes = s.pipes := rfl
@[simp] theorem setTag_portAt (s : State) (t g : Nat) (v : SpecTag) : (s.setTag t g v).portAt = s.portAt := rfl
@[simp] theorem setTag_misoLine (s : State) (t g : Nat) (v : SpecTag) : (s.setTag t g v).misoLine = s.misoLine := rfl
@[simp] theorem setTag_lastWrite (s : State) (t g : Nat) (v : SpecTag) : (s.setTag t g v).lastWrite = s.lastWrite := rfl
@[simp] theorem setTag_lastHw (s : State) (t g : Nat) (v : SpecTag) : (s.setTag t g v).lastHw = s.lastHw := rfl
@[simp] theorem setTag_tickOut (s : State) (t g : Nat) (v : SpecTag) : (s.setTag t g v).tickOut = s.tickOut := rfl
@[simp] theorem setTag_tickOutAt (s : State) (t g : Nat) (v : SpecTag) : (s.setTag t g v).tickOutAt = s.tickOutAt := rfl
@[simp] theorem setTag_sqAt (s : State) (t g : Nat) (v : SpecTag) : (s.setTag t g v).sqAt = s.sqAt := rfl
@[simp] theorem setTag_heatClk (s : State) (t g : Nat) (v : SpecTag) : (s.setTag t g v).heatClk = s.heatClk := rfl
@[simp] theorem setTag_heatOld (s : State) (t g : Nat) (v : SpecTag) : (s.setTag t g v).heatOld = s.heatOld := rfl
@[simp] theorem setTag_xb (s : State) (t g : Nat) (v : SpecTag) : (s.setTag t g v).xb = s.xb := rfl
@[simp] theorem setTag_xbNext (s : State) (t g : Nat) (v : SpecTag) : (s.setTag t g v).xbNext = s.xbNext := rfl
@[simp] theorem setTag_xbLast (s : State) (t g : Nat) (v : SpecTag) : (s.setTag t g v).xbLast = s.xbLast := rfl
@[simp] theorem setTag_xbOwed (s : State) (t g : Nat) (v : SpecTag) : (s.setTag t g v).xbOwed = s.xbOwed := rfl
@[simp] theorem setTag_locks (s : State) (t g : Nat) (v : SpecTag) : (s.setTag t g v).locks = s.locks := rfl
@[simp] theorem setTag_slotAt (s : State) (t g : Nat) (v : SpecTag) : (s.setTag t g v).slotAt = s.slotAt := rfl
@[simp] theorem setTag_slotUse (s : State) (t g : Nat) (v : SpecTag) : (s.setTag t g v).slotUse = s.slotUse := rfl
@[simp] theorem setTag_dmaStart (s : State) (t g : Nat) (v : SpecTag) : (s.setTag t g v).dmaStart = s.dmaStart := rfl
@[simp] theorem setTag_dmaLast (s : State) (t g : Nat) (v : SpecTag) : (s.setTag t g v).dmaLast = s.dmaLast := rfl
@[simp] theorem setTag_ringClk (s : State) (t g : Nat) (v : SpecTag) : (s.setTag t g v).ringClk = s.ringClk := rfl
@[simp] theorem setTag_ringOld (s : State) (t g : Nat) (v : SpecTag) : (s.setTag t g v).ringOld = s.ringOld := rfl
@[simp] theorem setTag_fillAt (s : State) (t g : Nat) (v : SpecTag) : (s.setTag t g v).fillAt = s.fillAt := rfl
@[simp] theorem setTag_landed (s : State) (t g : Nat) (v : SpecTag) : (s.setTag t g v).landed = s.landed := rfl
@[simp] theorem setTag_widNext (s : State) (t g : Nat) (v : SpecTag) : (s.setTag t g v).widNext = s.widNext := rfl
@[simp] theorem setTag_ridNext (s : State) (t g : Nat) (v : SpecTag) : (s.setTag t g v).ridNext = s.ridNext := rfl
@[simp] theorem setTag_links (s : State) (t g : Nat) (v : SpecTag) : (s.setTag t g v).links = s.links := rfl
@[simp] theorem setTag_node (s : State) (t g : Nat) (v : SpecTag) : (s.setTag t g v).node = s.node := rfl
@[simp] theorem setTag_therm (s : State) (t g : Nat) (v : SpecTag) : (s.setTag t g v).therm = s.therm := rfl
@[simp] theorem setTag_tray (s : State) (t g : Nat) (v : SpecTag) : (s.setTag t g v).tray = s.tray := rfl
@[simp] theorem setTag_damp (s : State) (t g : Nat) (v : SpecTag) : (s.setTag t g v).damp = s.damp := rfl
@[simp] theorem setTag_thermtripLow (s : State) (t g : Nat) (v : SpecTag) : (s.setTag t g v).thermtripLow = s.thermtripLow := rfl
@[simp] theorem setTag_pcieUp (s : State) (t g : Nat) (v : SpecTag) : (s.setTag t g v).pcieUp = s.pcieUp := rfl
@[simp] theorem setTag_pending (s : State) (t g : Nat) (v : SpecTag) : (s.setTag t g v).pending = s.pending := rfl
@[simp] theorem setTag_fld_read (s : State) (t g : Nat) (v : SpecTag) (r : Fld) (j : Nat) : (s.setTag t g v).fld r j = s.fld r j := rfl
@[simp] theorem setTag_shd_read (s : State) (t g : Nat) (v : SpecTag) (r : Fld) (j : Nat) : (s.setTag t g v).shd r j = s.shd r j := rfl
@[simp] theorem setTag_byte_read (s : State) (t g : Nat) (v : SpecTag) (x : Nat) : (s.setTag t g v).byte x = s.byte x := rfl
@[simp] theorem setTag_plan_read (s : State) (t g : Nat) (v : SpecTag) (x : Nat) : (s.setTag t g v).plan x = s.plan x := rfl
@[simp] theorem setTag_hearth_read (s : State) (t g : Nat) (v : SpecTag) (x : Nat) : (s.setTag t g v).hearth x = s.hearth x := rfl
@[simp] theorem setTag_chan_read (s : State) (t g : Nat) (v : SpecTag) (x : Nat) : (s.setTag t g v).chan x = s.chan x := rfl
@[simp] theorem setTag_ember_read (s : State) (t g : Nat) (v : SpecTag) (x : Nat) : (s.setTag t g v).ember x = s.ember x := rfl
@[simp] theorem setTag_link_read (s : State) (t g : Nat) (v : SpecTag) (x : Nat) : (s.setTag t g v).link x = s.link x := rfl
@[simp] theorem setTag_seq_read (s : State) (t g : Nat) (v : SpecTag) (x : Nat) : (s.setTag t g v).seq x = s.seq x := rfl
@[simp] theorem setTag_heatSt_read (s : State) (t g : Nat) (v : SpecTag) (x : Nat) : (s.setTag t g v).heatSt x = s.heatSt x := rfl

/-! ### setHeat -/

@[simp] theorem setHeat_power (s : State) (h v : Nat) : (s.setHeat h v).power = s.power := rfl
@[simp] theorem setHeat_fuses (s : State) (h v : Nat) : (s.setHeat h v).fuses = s.fuses := rfl
@[simp] theorem setHeat_clk (s : State) (h v : Nat) : (s.setHeat h v).clk = s.clk := rfl
@[simp] theorem setHeat_cyc (s : State) (h v : Nat) : (s.setHeat h v).cyc = s.cyc := rfl
@[simp] theorem setHeat_free (s : State) (h v : Nat) : (s.setHeat h v).free = s.free := rfl
@[simp] theorem setHeat_reg (s : State) (h v : Nat) : (s.setHeat h v).reg = s.reg := rfl
@[simp] theorem setHeat_shadow (s : State) (h v : Nat) : (s.setHeat h v).shadow = s.shadow := rfl
@[simp] theorem setHeat_commits (s : State) (h v : Nat) : (s.setHeat h v).commits = s.commits := rfl
@[simp] theorem setHeat_mem (s : State) (h v : Nat) : (s.setHeat h v).mem = s.mem := rfl
@[simp] theorem setHeat_units (s : State) (h v : Nat) : (s.setHeat h v).units = s.units := rfl
@[simp] theorem setHeat_latches (s : State) (h v : Nat) : (s.setHeat h v).latches = s.latches := rfl
@[simp] theorem setHeat_miso (s : State) (h v : Nat) : (s.setHeat h v).miso = s.miso := rfl
@[simp] theorem setHeat_bus (s : State) (h v : Nat) : (s.setHeat h v).bus = s.bus := rfl
@[simp] theorem setHeat_msix (s : State) (h v : Nat) : (s.setHeat h v).msix = s.msix := rfl
@[simp] theorem setHeat_tk (s : State) (h v : Nat) : (s.setHeat h v).tk = s.tk := rfl
@[simp] theorem setHeat_plans (s : State) (h v : Nat) : (s.setHeat h v).plans = s.plans := rfl
@[simp] theorem setHeat_released (s : State) (h v : Nat) : (s.setHeat h v).released = s.released := rfl
@[simp] theorem setHeat_relNext (s : State) (h v : Nat) : (s.setHeat h v).relNext = s.relNext := rfl
@[simp] theorem setHeat_loadNext (s : State) (h v : Nat) : (s.setHeat h v).loadNext = s.loadNext := rfl
@[simp] theorem setHeat_hearths (s : State) (h v : Nat) : (s.setHeat h v).hearths = s.hearths := rfl
@[simp] theorem setHeat_sqNext (s : State) (h v : Nat) : (s.setHeat h v).sqNext = s.sqNext := rfl
@[simp] theorem setHeat_taken (s : State) (h v : Nat) : (s.setHeat h v).taken = s.taken := rfl
@[simp] theorem setHeat_chans (s : State) (h v : Nat) : (s.setHeat h v).chans = s.chans := rfl
@[simp] theorem setHeat_embers (s : State) (h v : Nat) : (s.setHeat h v).embers = s.embers := rfl
@[simp] theorem setHeat_bucket (s : State) (h v : Nat) : (s.setHeat h v).bucket = s.bucket := rfl
@[simp] theorem setHeat_borrowed (s : State) (h v : Nat) : (s.setHeat h v).borrowed = s.borrowed := rfl
@[simp] theorem setHeat_seqs (s : State) (h v : Nat) : (s.setHeat h v).seqs = s.seqs := rfl
@[simp] theorem setHeat_tampered (s : State) (h v : Nat) : (s.setHeat h v).tampered = s.tampered := rfl
@[simp] theorem setHeat_tags (s : State) (h v : Nat) : (s.setHeat h v).tags = s.tags := rfl
@[simp] theorem setHeat_flights (s : State) (h v : Nat) : (s.setHeat h v).flights = s.flights := rfl
@[simp] theorem setHeat_flightNext (s : State) (h v : Nat) : (s.setHeat h v).flightNext = s.flightNext := rfl
@[simp] theorem setHeat_reshards (s : State) (h v : Nat) : (s.setHeat h v).reshards = s.reshards := rfl
@[simp] theorem setHeat_posted (s : State) (h v : Nat) : (s.setHeat h v).posted = s.posted := rfl
@[simp] theorem setHeat_reads (s : State) (h v : Nat) : (s.setHeat h v).reads = s.reads := rfl
@[simp] theorem setHeat_lateWids (s : State) (h v : Nat) : (s.setHeat h v).lateWids = s.lateWids := rfl
@[simp] theorem setHeat_sides (s : State) (h v : Nat) : (s.setHeat h v).sides = s.sides := rfl
@[simp] theorem setHeat_rowClk (s : State) (h v : Nat) : (s.setHeat h v).rowClk = s.rowClk := rfl
@[simp] theorem setHeat_rowOld (s : State) (h v : Nat) : (s.setHeat h v).rowOld = s.rowOld := rfl
@[simp] theorem setHeat_codeClk (s : State) (h v : Nat) : (s.setHeat h v).codeClk = s.codeClk := rfl
@[simp] theorem setHeat_codeOld (s : State) (h v : Nat) : (s.setHeat h v).codeOld = s.codeOld := rfl
@[simp] theorem setHeat_pipes (s : State) (h v : Nat) : (s.setHeat h v).pipes = s.pipes := rfl
@[simp] theorem setHeat_portAt (s : State) (h v : Nat) : (s.setHeat h v).portAt = s.portAt := rfl
@[simp] theorem setHeat_misoLine (s : State) (h v : Nat) : (s.setHeat h v).misoLine = s.misoLine := rfl
@[simp] theorem setHeat_lastWrite (s : State) (h v : Nat) : (s.setHeat h v).lastWrite = s.lastWrite := rfl
@[simp] theorem setHeat_lastHw (s : State) (h v : Nat) : (s.setHeat h v).lastHw = s.lastHw := rfl
@[simp] theorem setHeat_tickOut (s : State) (h v : Nat) : (s.setHeat h v).tickOut = s.tickOut := rfl
@[simp] theorem setHeat_tickOutAt (s : State) (h v : Nat) : (s.setHeat h v).tickOutAt = s.tickOutAt := rfl
@[simp] theorem setHeat_sqAt (s : State) (h v : Nat) : (s.setHeat h v).sqAt = s.sqAt := rfl
@[simp] theorem setHeat_xb (s : State) (h v : Nat) : (s.setHeat h v).xb = s.xb := rfl
@[simp] theorem setHeat_xbNext (s : State) (h v : Nat) : (s.setHeat h v).xbNext = s.xbNext := rfl
@[simp] theorem setHeat_xbLast (s : State) (h v : Nat) : (s.setHeat h v).xbLast = s.xbLast := rfl
@[simp] theorem setHeat_xbOwed (s : State) (h v : Nat) : (s.setHeat h v).xbOwed = s.xbOwed := rfl
@[simp] theorem setHeat_locks (s : State) (h v : Nat) : (s.setHeat h v).locks = s.locks := rfl
@[simp] theorem setHeat_slotAt (s : State) (h v : Nat) : (s.setHeat h v).slotAt = s.slotAt := rfl
@[simp] theorem setHeat_slotUse (s : State) (h v : Nat) : (s.setHeat h v).slotUse = s.slotUse := rfl
@[simp] theorem setHeat_dmaStart (s : State) (h v : Nat) : (s.setHeat h v).dmaStart = s.dmaStart := rfl
@[simp] theorem setHeat_dmaLast (s : State) (h v : Nat) : (s.setHeat h v).dmaLast = s.dmaLast := rfl
@[simp] theorem setHeat_ringClk (s : State) (h v : Nat) : (s.setHeat h v).ringClk = s.ringClk := rfl
@[simp] theorem setHeat_ringOld (s : State) (h v : Nat) : (s.setHeat h v).ringOld = s.ringOld := rfl
@[simp] theorem setHeat_fillAt (s : State) (h v : Nat) : (s.setHeat h v).fillAt = s.fillAt := rfl
@[simp] theorem setHeat_landed (s : State) (h v : Nat) : (s.setHeat h v).landed = s.landed := rfl
@[simp] theorem setHeat_widNext (s : State) (h v : Nat) : (s.setHeat h v).widNext = s.widNext := rfl
@[simp] theorem setHeat_ridNext (s : State) (h v : Nat) : (s.setHeat h v).ridNext = s.ridNext := rfl
@[simp] theorem setHeat_links (s : State) (h v : Nat) : (s.setHeat h v).links = s.links := rfl
@[simp] theorem setHeat_node (s : State) (h v : Nat) : (s.setHeat h v).node = s.node := rfl
@[simp] theorem setHeat_therm (s : State) (h v : Nat) : (s.setHeat h v).therm = s.therm := rfl
@[simp] theorem setHeat_tray (s : State) (h v : Nat) : (s.setHeat h v).tray = s.tray := rfl
@[simp] theorem setHeat_damp (s : State) (h v : Nat) : (s.setHeat h v).damp = s.damp := rfl
@[simp] theorem setHeat_thermtripLow (s : State) (h v : Nat) : (s.setHeat h v).thermtripLow = s.thermtripLow := rfl
@[simp] theorem setHeat_pcieUp (s : State) (h v : Nat) : (s.setHeat h v).pcieUp = s.pcieUp := rfl
@[simp] theorem setHeat_pending (s : State) (h v : Nat) : (s.setHeat h v).pending = s.pending := rfl
@[simp] theorem setHeat_fld_read (s : State) (h v : Nat) (r : Fld) (j : Nat) : (s.setHeat h v).fld r j = s.fld r j := rfl
@[simp] theorem setHeat_shd_read (s : State) (h v : Nat) (r : Fld) (j : Nat) : (s.setHeat h v).shd r j = s.shd r j := rfl
@[simp] theorem setHeat_byte_read (s : State) (h v : Nat) (x : Nat) : (s.setHeat h v).byte x = s.byte x := rfl
@[simp] theorem setHeat_plan_read (s : State) (h v : Nat) (x : Nat) : (s.setHeat h v).plan x = s.plan x := rfl
@[simp] theorem setHeat_hearth_read (s : State) (h v : Nat) (x : Nat) : (s.setHeat h v).hearth x = s.hearth x := rfl
@[simp] theorem setHeat_chan_read (s : State) (h v : Nat) (x : Nat) : (s.setHeat h v).chan x = s.chan x := rfl
@[simp] theorem setHeat_ember_read (s : State) (h v : Nat) (x : Nat) : (s.setHeat h v).ember x = s.ember x := rfl
@[simp] theorem setHeat_link_read (s : State) (h v : Nat) (x : Nat) : (s.setHeat h v).link x = s.link x := rfl
@[simp] theorem setHeat_seq_read (s : State) (h v : Nat) (x : Nat) : (s.setHeat h v).seq x = s.seq x := rfl
@[simp] theorem setHeat_tag_read (s : State) (h v : Nat) (x y : Nat) : (s.setHeat h v).tag x y = s.tag x y := rfl

/-! ### Own readers -/

@[simp] theorem setPlan_plan_same (s : State) (p : Nat) (v : Plan) : (s.setPlan p v).plan p = v := mget_mput_same _ _ _ _
theorem setPlan_plan_other (s : State) {p x : Nat} (h : x ≠ p) (v : Plan) : (s.setPlan p v).plan x = s.plan x := mget_mput_other _ _ h _ _
@[simp] theorem setHearth_hearth_same (s : State) (t : Nat) (v : Hearth) : (s.setHearth t v).hearth t = v := mget_mput_same _ _ _ _
theorem setHearth_hearth_other (s : State) {t x : Nat} (h : x ≠ t) (v : Hearth) : (s.setHearth t v).hearth x = s.hearth x := mget_mput_other _ _ h _ _
@[simp] theorem setChan_chan_same (s : State) (c : Nat) (v : Chan) : (s.setChan c v).chan c = v := mget_mput_same _ _ _ _
theorem setChan_chan_other (s : State) {c x : Nat} (h : x ≠ c) (v : Chan) : (s.setChan c v).chan x = s.chan x := mget_mput_other _ _ h _ _
@[simp] theorem setEmber_ember_same (s : State) (e : Nat) (v : Ember) : (s.setEmber e v).ember e = v := mget_mput_same _ _ _ _
theorem setEmber_ember_other (s : State) {e x : Nat} (h : x ≠ e) (v : Ember) : (s.setEmber e v).ember x = s.ember x := mget_mput_other _ _ h _ _
@[simp] theorem setLink_link_same (s : State) (n : Nat) (v : Link) : (s.setLink n v).link n = v := mget_mput_same _ _ _ _
theorem setLink_link_other (s : State) {n x : Nat} (h : x ≠ n) (v : Link) : (s.setLink n v).link x = s.link x := mget_mput_other _ _ h _ _
@[simp] theorem setSeq_seq_same (s : State) (q : Nat) (v : Seq) : (s.setSeq q v).seq q = v := mget_mput_same _ _ _ _
theorem setSeq_seq_other (s : State) {q x : Nat} (h : x ≠ q) (v : Seq) : (s.setSeq q v).seq x = s.seq x := mget_mput_other _ _ h _ _
@[simp] theorem setHeat_same (s : State) (h v : Nat) : (s.setHeat h v).heatSt h = v := mget_mput_same _ _ _ _
theorem setHeat_other (s : State) {h x : Nat} (hx : x ≠ h) (v : Nat) : (s.setHeat h v).heatSt x = s.heatSt x := mget_mput_other _ _ hx _ _
@[simp] theorem setTag_same (s : State) (t g : Nat) (v : SpecTag) : (s.setTag t g v).tag t g = v := mget_mput_same _ _ _ _
theorem setTag_other (s : State) {t g x y : Nat} (h : x * 256 + y ≠ t * 256 + g) (v : SpecTag) : (s.setTag t g v).tag x y = s.tag x y :=
  mget_mput_other _ _ h _ _

/-! ### Register fields -/

theorem Fld.ctorIdx_inj {f g : Fld} (h : f.ctorIdx = g.ctorIdx) : f = g := by
  have := congrArg Fld.ofNat h
  rwa [Fld.ofNat_ctorIdx, Fld.ofNat_ctorIdx] at this

/-- A field instance has a place of its own. -/
theorem Fld.key_inj {f g : Fld} {i j : Nat} (h : f.key i = g.key j) : f = g ∧ i % 1024 = j % 1024 := by
  unfold Fld.key at h
  have : f.ctorIdx = g.ctorIdx := by omega
  exact ⟨Fld.ctorIdx_inj this, by omega⟩

@[simp] theorem setFld_fld_same (s : State) (f : Fld) (i v : Nat) : (s.setFld f i v).fld f i = v % 2 ^ f.width := mget_mput_same _ _ _ _

theorem setFld_fld_other (s : State) {f g : Fld} {i j : Nat} (h : g.key j ≠ f.key i) (v : Nat) : (s.setFld f i v).fld g j = s.fld g j := by
  unfold State.fld State.setFld
  exact mget_mput_other _ _ h _ _

/-- Another register field reads as before, whatever its instance. -/
theorem setFld_fld_ne (s : State) {f g : Fld} (h : g ≠ f) (i j v : Nat) : (s.setFld f i v).fld g j = s.fld g j :=
  setFld_fld_other s (fun e => h (Fld.key_inj e).1) v

/-- Another instance of the same field reads as before. -/
theorem setFld_fld_inst (s : State) (f : Fld) {i j : Nat} (h : j % 1024 ≠ i % 1024) (v : Nat) : (s.setFld f i v).fld f j = s.fld f j :=
  setFld_fld_other s (fun e => h (Fld.key_inj e).2) v

@[simp] theorem setShd_shd_same (s : State) (f : Fld) (i v : Nat) : (s.setShd f i v).shd f i = v % 2 ^ f.width := mget_mput_same _ _ _ _

theorem setShd_shd_ne (s : State) {f g : Fld} (h : g ≠ f) (i j v : Nat) : (s.setShd f i v).shd g j = s.shd g j := by
  unfold State.shd State.setShd
  exact mget_mput_other _ _ (fun e => h (Fld.key_inj e).1) _ _

end Sys2Proof.Machine
end

