-- ==== Sys2Proof/Laws/Visible.lean ====
section
/-! SUPPORT. What a loop over the state keeps, and what bytes that become visible do to memory (R112, R144, R180, R276, R278). -/

namespace Sys2Proof.Machine

/-- A reading that every round of a loop keeps is kept by the loop. -/
theorem forAll_keeps {α β : Type} (g : State → β) (l : List α) (f : α → State → State) (h : ∀ a ∈ l, ∀ s, g (f a s) = g s) (s : State) :
    g (forAll l f s) = g s := by
  induction l generalizing s with
  | nil => rfl
  | cons a l ih =>
    show g (forAll l f (f a s)) = g s
    rw [ih (fun b hb => h b (List.mem_cons_of_mem a hb)), h a List.mem_cons_self]

/-- A reflexive and transitive relation that every round of a loop keeps holds from its start to its end. -/
theorem forAll_rel {α : Type} {R : State → State → Prop} (rfl_ : ∀ s, R s s) (trans : ∀ {s t u}, R s t → R t u → R s u) (l : List α)
    (f : α → State → State) (h : ∀ a ∈ l, ∀ s, R s (f a s)) (s : State) : R s (forAll l f s) := by
  induction l generalizing s with
  | nil => exact rfl_ s
  | cons a l ih =>
    exact trans (h a List.mem_cons_self s) (ih (fun b hb => h b (List.mem_cons_of_mem a hb)) (f a s))

@[simp] theorem bump_mem (s : State) (f : Fld) (i n : Nat) : (s.bump f i n).mem = s.mem := by
  unfold State.bump
  split <;> rfl

@[simp] theorem keepCode_mem (s : State) (a n : Nat) : (s.keepCode a n).mem = s.mem := by
  unfold State.keepCode
  split <;> rfl

@[simp] theorem unlatch_mem (s : State) (a n : Nat) : (s.unlatch a n).mem = s.mem := by
  unfold State.unlatch
  split <;> rfl

@[simp] theorem refetch_mem (s : State) (a n : Nat) : (s.refetch a n).mem = s.mem := by
  unfold State.refetch
  split
  · rfl
  · exact forAll_keeps State.mem _ _ (fun _ _ _ => by simp) s

@[simp] theorem countSeal_mem (s : State) (c : Nat) : (s.countSeal c).mem = s.mem := by
  unfold State.countSeal State.on
  split <;> simp

/-- All that bytes becoming visible do to memory: they stand from their address on. -/
@[simp] theorem show_mem (s : State) (a : Nat) (bs : List Byte) : (s.show a bs).mem = memSet s.mem a bs := by
  unfold State.show
  split
  · cases bs <;> simp_all [memSet]
  · simp [State.setBytes]

theorem show_byte (s : State) (a x : Nat) (bs : List Byte) : (s.show a bs).byte x = (s.setBytes a bs).byte x := by
  simp [State.byte, State.setBytes]

theorem show_wf {s : State} (a : Nat) (bs : List Byte) (h : Memory.wf s.mem) : Memory.wf (s.show a bs).mem := by
  rw [show_mem]
  exact Memory.wf_memSet a bs h

/-- Away from fenced channels a store is its bytes becoming visible (R112). -/
theorem store_show {s : State} {a : Nat} {bs : List Byte} (h : s.fenced a bs.length = false) : s.store a bs = s.show a bs := by
  simp [State.store, h]

/-- All that a store away from fenced channels does to memory. -/
theorem store_mem {s : State} {a : Nat} {bs : List Byte} (h : s.fenced a bs.length = false) : (s.store a bs).mem = memSet s.mem a bs := by
  rw [store_show h, show_mem]

theorem store_byte {s : State} {a : Nat} {bs : List Byte} (h : s.fenced a bs.length = false) (x : Nat) :
    (s.store a bs).byte x = (s.setBytes a bs).byte x := by
  rw [store_show h, show_byte]

theorem store_wf {s : State} (a : Nat) (bs : List Byte) (h : Memory.wf s.mem) : Memory.wf (s.store a bs).mem := by
  unfold State.store
  split
  · exact show_wf a bs h
  · exact forAll_rel (R := fun s t => Memory.wf s.mem → Memory.wf t.mem) (fun _ => id) (fun p q w => q (p w)) _ _
      (fun e _ s => show_wf e.1 e.2) s h

theorem undefBytes_wf {s : State} (a n : Nat) (h : Memory.wf s.mem) : Memory.wf (s.undefBytes a n).mem :=
  show_wf (s := { s with free := s.free + n }) a _ h

end Sys2Proof.Machine
end

