-- ==== Sys2Proof/Laws/Reports.lean ====
section
/-! SUPPORT. All that a report can change: an ash record, a completion record or an event count touches the report queues and their
registers, and as a write to staging SRAM the fetch windows over them, and nothing else (R96, R276, R278, R463, R471 to R480). -/

namespace Sys2Proof.Machine

/-- The registers that reports write. -/
def reportFlds : List Fld :=
  [.ASH_DROPPED, .AQ_TAIL, .HEARTH_STAT_AQ_OVER, .CQ_DROPPED, .CQ_TAIL, .REFUSED_COUNT, .LATE_COUNT, .REFETCH_COUNT, .SELF_MOD_COUNT]

/-- `t` differs from `s` at most in the active registers `fs`, memory with the latches and the fetch windows over it, the hearths' waiting
records, fired vectors and the count of free values. -/
structure Reported (fs : List Fld) (s t : State) : Prop where
  rest : t = { s with reg := t.reg, mem := t.mem, hearths := t.hearths, msix := t.msix, free := t.free, latches := t.latches
                      embers := t.embers, codeClk := t.codeClk, codeOld := t.codeOld }
  windows : ∀ e, t.ember e = { s.ember e with win := (t.ember e).win, stale := (t.ember e).stale }
  regs : ∀ f i, f ∉ fs → t.fld f i = s.fld f i
  wf : Memory.wf s.mem → Memory.wf t.mem

theorem Reported.refl (fs : List Fld) (s : State) : Reported fs s s := ⟨rfl, fun _ => rfl, fun _ _ _ => rfl, id⟩

theorem Reported.trans {fs : List Fld} {s t u : State} (h : Reported fs s t) (k : Reported fs t u) : Reported fs s u := by
  refine ⟨?_, fun e => ?_, fun f i hf => (k.regs f i hf).trans (h.regs f i hf), fun w => k.wf (h.wf w)⟩
  · have hk := k.rest
    rw [h.rest] at hk
    exact hk
  · have hk := k.windows e
    rw [h.windows e] at hk
    exact hk

/-- A conditional report. -/
theorem Reported.on {fs : List Fld} {s : State} {c : Bool} {g : State → State} (h : Reported fs s (g s)) : Reported fs s (s.on c g) := by
  unfold State.on
  split
  · exact h
  · exact .refl fs s

theorem Reported.ite {fs : List Fld} {s t u : State} {c : Prop} [Decidable c] (ht : Reported fs s t) (hu : Reported fs s u) :
    Reported fs s (if c then t else u) := by
  split <;> assumption

/-- With more registers allowed. -/
theorem Reported.mono {fs gs : List Fld} {s t : State} (h : Reported fs s t) (sub : ∀ f ∈ fs, f ∈ gs) : Reported gs s t :=
  ⟨h.rest, h.windows, fun f i hf => h.regs f i fun m => hf (sub f m), h.wf⟩

theorem setFld_reported (s : State) {fs : List Fld} {f : Fld} (hf : f ∈ fs) (i v : Nat) : Reported fs s (s.setFld f i v) :=
  ⟨rfl, fun _ => rfl, fun _ j hg => setFld_fld_ne s (f := f) (fun e => hg (by rw [e]; exact hf)) i j v, id⟩

theorem bump_reported (s : State) {fs : List Fld} {f : Fld} (hf : f ∈ fs) (i n : Nat) : Reported fs s (s.bump f i n) := by
  unfold State.bump
  refine .ite (setFld_reported s hf i _) ?_
  exact ⟨rfl, fun _ => rfl, fun _ j hg => setFld_fld_ne s (f := f) (fun e => hg (by rw [e]; exact hf)) i j _, id⟩

theorem setBytes_reported (fs : List Fld) (s : State) (a : Nat) (bs : List Byte) : Reported fs s (s.setBytes a bs) :=
  ⟨rfl, fun _ => rfl, fun _ _ _ => rfl, setBytes_wf a bs⟩

theorem keepCode_reported (fs : List Fld) (s : State) (a n : Nat) : Reported fs s (s.keepCode a n) := by
  unfold State.keepCode
  exact .ite (.refl fs s) ⟨rfl, fun _ => rfl, fun _ _ _ => rfl, id⟩

theorem unlatch_reported (fs : List Fld) (s : State) (a n : Nat) : Reported fs s (s.unlatch a n) := by
  unfold State.unlatch
  exact .ite (.refl fs s) ⟨rfl, fun _ => rfl, fun _ _ _ => rfl, id⟩

/-- A window that is discarded is still the same ember's (R276). -/
theorem setTouched_reported (fs : List Fld) (s : State) (e a n clk : Nat) :
    Reported fs s (s.setEmber e ((s.ember e).touched a n clk).1) := by
  refine ⟨rfl, fun k => ?_, fun _ _ _ => rfl, id⟩
  by_cases h : k = e
  · subst h
    rw [setEmber_ember_same]
    unfold Ember.touched
    split <;> rfl
  · rw [setEmber_ember_other s h]

theorem refetch_reported (fs : List Fld) (hf : .REFETCH_COUNT ∈ fs) (s : State) (a n : Nat) : Reported fs s (s.refetch a n) := by
  unfold State.refetch
  refine .ite (.refl fs s) ?_
  exact forAll_rel (.refl fs) .trans _ _ (fun e _ u => (setTouched_reported fs u e a n u.clk).trans (bump_reported _ hf 0 1)) s

/-- Bytes that become visible. -/
theorem show_reported (fs : List Fld) (hf : .REFETCH_COUNT ∈ fs) (s : State) (a : Nat) (bs : List Byte) : Reported fs s (s.show a bs) := by
  unfold State.show
  refine .ite (.refl fs s) ?_
  exact (((keepCode_reported fs s a _).trans (setBytes_reported fs _ a bs)).trans (unlatch_reported fs _ a _)).trans (refetch_reported fs hf _ a _)

theorem countSeal_reported (s : State) (c : Nat) : Reported reportFlds s (s.countSeal c) := .on (bump_reported s (by decide) 0 1)

theorem setHearth_reported (fs : List Fld) (s : State) (t : Nat) (h : Hearth) : Reported fs s (s.setHearth t h) :=
  ⟨rfl, fun _ => rfl, fun _ _ _ => rfl, id⟩

theorem fireHearth_reported (fs : List Fld) (s : State) (t vec : Nat) : Reported fs s (s.fireHearth t vec) :=
  .trans (t := s.fire (t + 1) vec) ⟨rfl, fun _ => rfl, fun _ _ _ => rfl, id⟩ (.on ⟨rfl, fun _ => rfl, fun _ _ _ => rfl, id⟩)

/-! ### Records -/

theorem putAsh_reported (s : State) (t : Nat) (r : AshRec) : Reported reportFlds s (s.putAsh t r) := by
  unfold State.putAsh
  refine .ite ((countSeal_reported s _).trans (bump_reported _ (by decide) t 1)) ?_
  exact ((show_reported _ (by decide) s _ _).trans (setFld_reported _ (by decide) t _)).trans (.on (fireHearth_reported _ _ _ _))

theorem postAsh_reported (s : State) (t : Nat) (r : AshRec) : Reported reportFlds s (s.postAsh t r) := by
  unfold State.postAsh
  refine .ite (.refl _ s) (.ite (setHearth_reported _ s _ _) (.ite (putAsh_reported s t r) ?_))
  exact ((bump_reported s (by decide) t 1).trans (setFld_reported _ (by decide) t 1)).trans (.on (putAsh_reported _ t _))

theorem putCq_reported (s : State) (t : Nat) (r : CqRec) : Reported reportFlds s (s.putCq t r) := by
  unfold State.putCq
  refine .ite ((countSeal_reported s _).trans (bump_reported _ (by decide) t 1)) ?_
  exact ((show_reported _ (by decide) s _ _).trans (setFld_reported _ (by decide) t _)).trans (.on (fireHearth_reported _ _ _ _))

theorem postCq_reported (s : State) (t : Nat) (r : CqRec) : Reported reportFlds s (s.postCq t r) := by
  have count (c : Bool) (f : Fld) (hf : f ∈ reportFlds) (s : State) : Reported reportFlds s (s.on c fun s => s.bump f t) :=
    .on (bump_reported s hf t 1)
  unfold State.postCq
  refine ((count (isRefused r.status) .REFUSED_COUNT (by decide) s).trans (count (r.status = 0x01) .LATE_COUNT (by decide) _)).trans ?_
  exact .ite (putCq_reported _ t r) (.ite (bump_reported _ (by decide) t 1) (setHearth_reported _ _ _ _))

/-! ### Completions -/

theorem completeLate_reported (s : State) (x : Ctx) (e : End) (late : Nat) : Reported reportFlds s (s.completeLate x e late) := by
  unfold State.completeLate
  exact .trans (.on (postAsh_reported s _ _)) (.on (postCq_reported _ _ _))

theorem complete_reported (s : State) (x : Ctx) (e : End) : Reported reportFlds s (s.complete x e) := completeLate_reported s x e _

theorem refuse_reported (s : State) (x : Ctx) (e : End) : Reported reportFlds s (s.refuse x e) := completeLate_reported s x e _

/-- The registers that a plan command's record writes (R47, R554). -/
def planFlds : List Fld := [.ADMIT_STAT_PLAN_SLOT, .ADMIT_STAT_REASON, .ADMIT_STAT_RES_ID] ++ reportFlds

theorem planDone_reported (s : State) (x : Ctx) (p status reason res : Nat) : Reported planFlds s (s.planDone x p status reason res) := by
  unfold State.planDone State.admitStat
  refine .trans ?_ ((complete_reported _ x _).mono (by decide))
  exact ((setFld_reported s (by decide) 0 p).trans (setFld_reported _ (by decide) 0 reason)).trans (setFld_reported _ (by decide) 0 res)

end Sys2Proof.Machine
end

