-- ==== Sys2Proof/Laws/Store.lean ====
section
/-! SUPPORT. What a local write does (R77, R175, R365). -/

namespace Sys2Proof.Machine

@[simp] theorem tamper_mem (s : State) (a n : Nat) : (s.tamper a n).mem = s.mem := rfl
@[simp] theorem tamper_seqs (s : State) (a n : Nat) : (s.tamper a n).seqs = s.seqs := rfl

@[simp] theorem keepRows_mem (s : State) (a n : Nat) : (s.keepRows a n).mem = s.mem := by
  unfold State.keepRows
  split <;> rfl

theorem keepRows_off (s : State) {a : Nat} (h : regionOf a ≠ some .tile) (n : Nat) : s.keepRows a n = s := by
  simp [State.keepRows, h]

/-- A local write to fen memory or staging SRAM is a store, and a page table it touches is software's (R365). -/
theorem localWrite_store (s : State) {a : Nat} (h : regionOf a ≠ some .mirror) (ht : regionOf a ≠ some .tile) (bs : List Byte) :
    s.localWrite a bs = (s.store a bs).tamper a bs.length := by
  simp [State.localWrite, h, keepRows_off s ht]

end Sys2Proof.Machine
end

