-- ==== Sys2Proof/Machine/Pins.lean ====
section
/-! DEFINITION. The low-speed outputs as the state gives them (Tables 16.1 and 16.3): while the chip has no clocks every one but THERMTRIP# is
released. MISO is `State.misoAt` (R81). -/

namespace Sys2Proof.Machine

/-- IDCODE of the test port, which has the mandatory instructions of IEEE 1149.1 besides and reaches no state of this model (R522). -/
def idcode : Nat := 0x0F2400B1

/-- What the chip does to a line. -/
inductive Drive where
  | low | high | released
  deriving DecidableEq, Repr

/-- An open-drain output of a running chip. -/
def State.openDrain (s : State) (low : Bool) : Drive := if s.power = .run && low then .low else .released

/-- ALERT# (R105, R512), and HOT# and FAN_MAX# as this chip drives them (R502). -/
def State.alertPin (s : State) : Drive := s.openDrain s.alertLow
def State.hotPin (s : State) : Drive := s.openDrain s.therm.hotLow
def State.fanMaxPin (s : State) : Drive := s.openDrain s.therm.fanMaxDrive

/-- THERMTRIP# (R507, R527). -/
def State.thermtripPin (s : State) : Drive := if s.thermtripLow then .low else .released

/-- The tray bus and the fan lines are driven (R504, R510). -/
def State.drivesTray (s : State) : Bool := s.power = .run && s.flag .TRAY_POS_CHIMNEY

/-- Percent of a period of 25 kHz in which FAN_PWM `f` is released (R538); none while the line is not driven. The lines of fans that are not
marked in FAN_PRESENT are not driven: DESIGN CHOICE (log entry 115). -/
def State.fanPwm (s : State) (f : Nat) : Option Nat :=
  if s.drivesTray && s.fbit .TRAY_CFG 0 f then some (s.fld .FAN_DUTY) else none

/-- The level of TICK_OUT in cycle `c` (R436, R533): 0 between markers; none while its driver is off. -/
def State.tickOutPin (s : State) (c : Nat) : Option Bool :=
  if s.power = .run && s.flag .TICK_CFG_TICK_OUT_EN then some (if c < s.tickOutAt then false else s.tickOut.getD (c - s.tickOutAt) false) else none

end Sys2Proof.Machine
end

