-- ==== Sys2Proof/Tests/Slice0.lean ====
section
/-! SUPPORT. Small tests: ill-formed terms that `Instr.wf` refuses, one step of many commands on states built by hand, and for every
obligation with hypotheses a concrete state and operands that meet them together. -/

namespace Sys2Proof.Tests

set_option Elab.async false
open Sys2Proof Sys2Proof.Machine

/-! ### States to try commands on -/

/-- The reset state with its clocks running. -/
def up : State := { State.reset with power := .run }

/-- Register fields given by (field, instance, value). -/
def setAll (s : State) (l : List (Fld × Nat × Nat)) : State := l.foldl (fun s e => s.setFld e.1 e.2.1 e.2.2) s

/-- Window `n` of hearth 0 over `pages` pages from `hi` × 2^32, with every right. -/
def openWin (s : State) (n hi pages : Nat) : State :=
  setAll s [(.WIN_BASE_LO_V, n, 1), (.WIN_BASE_LO_R, n, 1), (.WIN_BASE_LO_W, n, 1), (.WIN_BASE_LO_X, n, 1), (.WIN_BASE_LO_RMT_OK, n, 1),
    (.WIN_BASE_HI_BASE_47_32, n, hi), (.WIN_SIZE, n, pages)]

/-- Hearth 0 may reach the fen, staging SRAM and the tile files. -/
def opened : State := openWin (openWin (openWin up 0 0x10 0xA000) 1 0 0x600000) 2 0x20 0x1000000

/-- Hearth 0 with queues of 16 entries: submission at 0, completion at 0x1000, ash at 0x2000 of the staging SRAM. -/
def queued : State :=
  setAll opened [(.SQ_CFG_LOG2N, 0, 4), (.CQ_CFG_LOG2N, 0, 4), (.AQ_CFG_LOG2N, 0, 4), (.CQ_CFG_BASE_IDX, 0, 0x40), (.AQ_CFG_BASE_IDX, 0, 0x80)]

/-- The command answers a next state of which `p` holds. -/
def gives (c : Instr) (s : State) (p : State → Bool) : Bool :=
  match exec c s with
  | .next t => p t
  | _ => false

/-! ### Commands, power and resets -/

theorem test_front_command : ({ up with pending := [.perst, .tickLock] } : State).pending = .perst :: [.tickLock] := rfl
theorem test_empty_queue : up.pending = [] ∧ step up = .next up.idle := ⟨rfl, rfl⟩
theorem test_decode_none : decodeTableWord 32 0 = none := rfl
theorem test_command_completes : Instr.perst.wf = true ∧ Instr.perst.powers = false ∧ Completes (exec .perst up) := ⟨rfl, rfl, _, rfl⟩
theorem test_ill_formed_faults : exec (.singleRead 0x40 0) up = .fault .illFormed := rfl
theorem test_ill_formed_commands :
    ∀ c ∈ [Instr.singleRead 0x40 0, .singleWrite 0 0 0 0, .burstRead 0 0 1, .burstWrite 0 0 [], .shortFrame 0 0 [(0, 0)],
      .blockReceive 0 ⟨[], 0, 0, 0⟩, .ident 0 ⟨[], []⟩, .probe 0 ⟨[], []⟩, .echo 0 ⟨[], []⟩ 0, .marker 0 ⟨[], []⟩ 0, .reportBankReq ⟨[], []⟩,
      .reportMiss ⟨[], []⟩, .kindleReady ⟨[], []⟩, .reportKindleFail ⟨[], []⟩, .linkEvent ⟨[], []⟩, .elect 0 ⟨[], []⟩, .electFinal (some ⟨[], []⟩),
      .member 0 ⟨[], []⟩, .joinReq ⟨[], []⟩, .joinAck ⟨[], []⟩, .joinRefuse ⟨[], []⟩, .joinLeave ⟨[], []⟩, .joinKtick ⟨[], []⟩, .write 0 ⟨[], []⟩,
      .read 0 ⟨[], []⟩, .kvreq 0 ⟨[], []⟩, .ack 0 ⟨[], []⟩, .bdraft 0 ⟨[], []⟩, .rdata 0 ⟨[], []⟩, .rerr 0 ⟨[], []⟩, .kvcpl 0 ⟨[], []⟩,
      .plannedDelivery 0 ⟨[], []⟩ 0, .targetWriteTimeout 0 ⟨[], []⟩, .thermalSample [] 0, .trayPoll [] none none none [],
      .fenUncorrectableBeat 0 0 (.write 0 ⟨[], []⟩)], c.wf = false := by decide +kernel
theorem test_stopped_chip : State.reset.power ≠ .run ∧ exec .tickLock State.reset = .next State.reset := ⟨by decide, rfl⟩
theorem test_running_inv : up.PowerInv := ⟨by decide, nofun, nofun, nofun⟩
theorem test_lost_inv : ({ State.reset with power := .off, pcieUp := false } : State).PowerInv :=
  ⟨by decide, fun _ => rfl, nofun, nofun⟩

theorem test_fuses_load : State.reset.power = .fuseLoad := rfl
theorem test_warm_reset_writes : up.power = .run ∧ (0xA5 : Word64).toNat % 256 = 0xA5 ∧ (0x1A5 : Word64).toNat % 256 = 0xA5 ∧
    (0xA4 : Word64).toNat % 256 ≠ 0xA5 ∧ up.portAt ≤ up.clk := by decide
/-- R498: a warm reset takes SCRATCH back to 0, and 0xA4 does not. -/
theorem test_warm_reset : gives (.chipRst ⟨.mp, 0x33C, 4, 0xF, 0xA5, 0⟩) (up.setFld .SCRATCH 0 7) (fun t => t.fld .SCRATCH = 0) = true := by decide +kernel
theorem test_no_warm_reset : gives (.chipRst ⟨.pf, 0x33C, 4, 0xF, 0xA4, 0⟩) (up.setFld .SCRATCH 0 7) (fun t => t.fld .SCRATCH = 7) = true := by decide +kernel
theorem test_clock_stops : up.power = .run ∧ up.thermtripLow = false := ⟨rfl, rfl⟩
theorem test_hearth_reset_can_start : up.power = .run ∧ up.flag .HEARTH_STAT_RESETTING 15 = false ∧ (2 : Word32).toNat.testBit 1 = true := by
  decide +kernel
theorem test_hearth_reset_can_end :
    let s := setAll queued [(.HEARTH_STAT_RESETTING, 0, 1), (.HEARTH_CTL_RESET, 0, 1)]
    s.power = .run ∧ s.flag .HEARTH_STAT_RESETTING 0 = true ∧ s.onBus 0 = false ∧ (s.hearth 0).ashHold = [] ∧ 16 ≤ s.aqN 0 ∧
      s.fld .AQ_TAIL 0 = 0 ∧ s.fld .AQ_HEAD 0 = 0 ∧
      s.hearthFault 0 (s.global (queueEntry (s.fld .AQ_CFG_BASE_IDX 0) (s.aqN 0) 64 0)) 64 .w = 0 := by decide +kernel

/-! ### Port, BARs and groups -/

/-- Selectors that name tenant 15, channel 63, which hearth 15 owns, and link 23. -/
def selected : State :=
  setAll up [(.PORT_SEL_TENANT_SEL, 0, 15), (.PORT_SEL_CHAN_SEL, 0, 63), (.PORT_SEL_LINK_SEL, 0, 23), (.CHAN_MASK_HI, 15, 0x80000000)]
theorem test_reaches_by_port : ∀ e ∈ [(0x43C, 15), (0x424, 15), (0x610, 15), (0x410, 15), (0x420, 15), (0x60C, 15), (0x800, 63), (0xA24, 63),
    (0x8C0, 63), (0xA18, 63), (0xD94, 23), (0x070, 0), (0x1A0, 0), (0x1E0, 0), (0x1A4, 0), (0x260, 0), (0x264, 0), (0x2A0, 0), (0x094, 0),
    (0x098, 0), (0xE08, 0), (0x330, 0), (0x084, 0), (0x228, 0)], selected.reaches .mp e.1 e.2 := by
  simp only [State.reaches]; decide +kernel
theorem test_reaches_by_function : ∀ e ∈ [(0x43C, 15), (0x424, 15), (0x610, 15), (0x420, 15), (0x60C, 15), (0x800, 63), (0xA24, 63), (0x8C0, 63),
    (0xA18, 63)], selected.reaches (.vf 15) e.1 e.2 ∧ selected.reaches .mirror e.1 e.2 ∧ selected.reaches .pf e.1 e.2 := by
  simp only [State.reaches]; decide +kernel
theorem test_early_frames : ({ up with portAt := 5 } : State).clk < 5 ∧ up.portAt ≤ up.clk ∧ up.lastHw = none := by decide

theorem test_read_frames : frameOp 0x00 % 2 = 0 ∧ frameOp 0x80 % 2 = 0 ∧
    placeStatus 0x10 (frameBase 0x10 0) (frameBase 0x10 0) ≠ stOk ∧ placeStatus 0x00 (frameBase 0x00 0x38) (frameBase 0x00 0x38) = stOk ∧
    up.portInst (frameBase 0x00 0x38) = some 0 ∧ placeStatus 0x3C (frameBase 0x3C 0) (frameBase 0x3C 0) = stOk ∧
    (up.setFld .PORT_SEL_LINK_SEL 0 24).portInst (frameBase 0x3C 0) = none ∧ (up.setFld .PORT_SEL_LINK_SEL 0 23).portInst (frameBase 0x3C 0) = some 23 := by
  decide +kernel
/-- R6, R81: SCRATCH 0x01020304 comes back most significant byte first, then 0xA0. -/
theorem test_single_read : gives (.singleRead 0x00 0x38) (up.setFld .SCRATCH 0 0x01020304) (fun t => t.miso = [1, 2, 3, 4, 0xA0] ∧
    t.misoLine = readLine [1, 2, 3, 4, 0xA0]) = true := by decide +kernel
theorem test_write_frames : frameOp 0x40 = 1 ∧ (0xFF : Byte).toNat ≠ wordCrc 0x40 (frameBase 0x40 0x38) 5 ∧
    (BitVec.ofNat 8 (wordCrc 0x40 (frameBase 0x40 0x38) 5)).toNat = wordCrc 0x40 (frameBase 0x40 0x38) 5 ∧
    placeStatus 0x40 (frameBase 0x40 0x38) (frameBase 0x40 0x38) = stOk ∧ placeStatus 0x40 (frameBase 0x40 0x39) (frameBase 0x40 0x39) ≠ stOk ∧
    (BitVec.ofNat 8 (wordCrc 0x40 (frameBase 0x40 0x39) 5)).toNat = wordCrc 0x40 (frameBase 0x40 0x39) 5 ∧
    up.expertOk 0x038 0 = true ∧ up.expertOk (frameBase 0x40 0x70) 0 = false ∧
    (BitVec.ofNat 8 (wordCrc 0x40 (frameBase 0x40 0x70) 5)).toNat = wordCrc 0x40 (frameBase 0x40 0x70) 5 ∧
    placeStatus 0x40 (frameBase 0x40 0x70) (frameBase 0x40 0x70) = stOk ∧ placeStatus 0x43 (frameBase 0x43 0x3C) (frameBase 0x43 0x3C) = stOk ∧
    frameBase 0x43 0x3C = 0x33C ∧ (BitVec.ofNat 8 (wordCrc 0x43 0x33C 0xA5)).toNat = wordCrc 0x43 0x33C 0xA5 := by decide +kernel
/-- R81: an accepted write of SCRATCH answers OK. -/
theorem test_single_write : gives (.singleWrite 0x40 0x38 5 (BitVec.ofNat 8 (wordCrc 0x40 0x038 5))) up (fun t => t.miso = [0xA0] ∧ t.fld .SCRATCH = 5) = true := by decide +kernel
/-- R79, R80: the CRC covers WIN as it is sent; a wrong window is refused. -/
theorem test_wrong_window : gives (.singleWrite 0x41 0x38 5 (BitVec.ofNat 8 (wordCrc 0x41 (frameBase 0x41 0x38) 5))) up
    (fun t => t.miso ≠ [0xA1] ∧ t.fld .SCRATCH = 0) = true := by decide +kernel
theorem test_burst_frames : frameOp 0xC0 = 3 ∧ (0 : Byte).toNat ≠ wordCrc 0xC0 (frameBase 0xC0 0x38) 5 ∧
    (∀ k, k < 2 → frameBase 0xC0 0x38 + 4 * k ≠ 0x33C) := by decide +kernel
theorem test_write_forms : ¬ ((2 : Fin 9) = 4 ∧ (0x038 : BitVec 19).toNat % 4 = 0 ∧ (0x3 : BitVec 8) = 0xF) ∧ up.fld .MP_ERR_COUNT + 1 < 2 ^ 32 ∧
    up.now < 2 ^ 48 := by decide +kernel
theorem test_bar2 : bar2Addr 0x5FFFFFFFF 1 = some 0x5FFFFFFFF ∧ bar2Addr 0x600000000 1 = none ∧ bar2Addr 0x700000000 4 = some 0x1000000000 ∧
    up.bar2Fault 0 0 4 .w = 0 ∧ up.bar2Fault 1 0 4 .w ≠ 0 ∧ up.bar2Fault 0 0 4 .r = 0 ∧ up.bar2Fault 1 0 4 .r ≠ 0 ∧
    up.bar2Free 0 4 true = true ∧ up.bar2Free 0 4 false = true ∧ up.ownNode < 256 := by decide +kernel
theorem test_commit_states : (1 : Word32).toNat.testBit 0 = true ∧ (0 : Word32).toNat.testBit 0 = false ∧ up.chip < chipKindling ∧
    (up.setFld .EXPERT_CTL_GLOBAL_EXPERT 0 1).flag .EXPERT_CTL_GLOBAL_EXPERT = true ∧
    chipKindling ≤ (up.setFld .TICK_STAT_CHIP_STATE 0 chipDamping).chip ∧ (up.setFld .TICK_STAT_CHIP_STATE 0 chipDamping).chip ≤ chipDamping ∧
    up.seqOpen 0 = 0 ∧ (up.setSeq 0 { opened := true }).seqOpen 0 ≠ 0 := by decide +kernel

/-- A chip with one pending snapshot of the TICK group, of the given length and source. -/
def tickGroup (len src : Nat) : State :=
  let s := (up.setShd .TICK_CFG_TICK_LEN_K 0 len).setShd .TICK_CFG_TICK_SRC 0 src
  { s with commits := [⟨.tick, s.snapshot .tick, false, false⟩] }

theorem test_good_tick_group : ∃ c, (tickGroup 4 0).commits.find? (·.grp = .tick) = some c ∧ (tickGroup 4 0).tk.firstLock = false ∧
    ({ tickGroup 4 0 with commits := (tickGroup 4 0).commits.erase c } : State).snapOk .tick c.vals = true := ⟨_, rfl, by decide +kernel⟩
theorem test_bad_tick_groups : ∀ p ∈ [(3, 0), (129, 0), (4, 3)], ∃ c, (tickGroup p.1 p.2).commits.find? (·.grp = .tick) = some c ∧
    (snapVal c.vals .TICK_CFG_TICK_LEN_K 0 < 4 ∨ 128 < snapVal c.vals .TICK_CFG_TICK_LEN_K 0 ∨ snapVal c.vals .TICK_CFG_TICK_SRC 0 = 3) ∧
    ({ tickGroup p.1 p.2 with commits := (tickGroup p.1 p.2).commits.erase c } : State).snapOk .tick c.vals = false := by
  simp only [List.mem_cons, List.mem_nil_iff, or_false, forall_eq_or_imp, forall_eq]
  exact ⟨⟨_, rfl, by decide +kernel⟩, ⟨_, rfl, by decide +kernel⟩, ⟨_, rfl, by decide +kernel⟩⟩
theorem test_port_sel_words : (0x014 : BitVec 19).toNat % 0x1000 = 0x014 ∧ (0x010 : BitVec 19).toNat % 0x1000 = 0x010 ∧
    (0x02C : BitVec 19).toNat % 0x1000 = 0x02C ∧ (0x028 : BitVec 19).toNat % 0x1000 = 0x028 ∧ (8 : Fin 9) = 8 ∧ (0xFF : BitVec 8) = 0xFF := by decide

/-! ### Registers with effects, ticks and temperatures -/

theorem test_expert_states : (setAll up [(.EXPERT_CTL_GLOBAL_EXPERT, 0, 1)]).flag .EXPERT_CTL_GLOBAL_EXPERT = true ∧
    up.flag .EXPERT_CTL_GLOBAL_EXPERT = false ∧ (0x8000 : Word32).toNat.testBit 15 = true ∧ up.fbit .FEN_LIVE 0 15 = true ∧
    up.fbit .SLICE_LIVE 0 15 = true ∧ (0x80000000 : Word32).toNat.testBit 31 = true ∧ up.fbit .MIXER_LIVE 0 31 = true ∧
    (0x10000 : Word32).toNat.testBit 16 = true := by decide +kernel
/-- R221: slot 3 fails, HEAT_FORCE readies it; slot 4 is filling and stays. -/
theorem test_heat_force : gives (.heatForce .mp false 0x18) (((setAll up [(.EXPERT_CTL_GLOBAL_EXPERT, 0, 1)]).setHeat 3 3).setHeat 4 1) (fun t => t.heatSt 3 = 2 ∧ t.heatSt 4 = 1) = true := by decide +kernel
theorem test_doorbells : occupancy (16 : Word32).toNat (queued.fld .SQ_HEAD 0) ≤ queued.sqN 0 ∧
    queued.sqN 0 < occupancy (17 : Word32).toNat (queued.fld .SQ_HEAD 0) := by decide +kernel
theorem test_request_states : (setAll up [(.TICK_STAT_CHIP_STATE, 0, chipLocked)]).chip = chipLocked ∧ up.chip ≠ chipLocked ∧
    up.flag .BANK_CTRL_BANK_REQ = false ∧ (setAll up [(.TRAY_POS_ROW_CHIMNEY, 0, 1)]).isChimney = true ∧ up.chip = chipCold := by decide +kernel
theorem test_peer_index : let s := setAll up [(.RING_CFG_MODE, 63, 1), (.RING_CFG_LOG2N, 63, 4), (.RING_OWN_IDX, 63, 2)]
    isOutRing (s.ringMode 63) = true ∧ occupancy (2 : Word32).toNat (s.fld .RING_PEER_IDX 63) ≤ s.ringD 63 ∧
    s.ringD 63 < occupancy (3 : Word32).toNat (s.fld .RING_PEER_IDX 63) := by decide +kernel
theorem test_peer_index_in : let s := setAll up [(.RING_CFG_MODE, 0, 3), (.RING_CFG_LOG2N, 0, 4), (.RING_PEER_IDX, 0, 2)]
    isInRing (s.ringMode 0) = true ∧ occupancy (16 : Word32).toNat (s.fld .RING_PEER_IDX 0) ≤ s.ringN 0 - s.ringD 0 ∧
    s.ringN 0 - s.ringD 0 < occupancy (17 : Word32).toNat (s.fld .RING_PEER_IDX 0) := by decide +kernel
theorem test_channel_states :
    let s := setAll up [(.CHAN_MASK_HI, 0, 0x80000000)]
    let p := setAll s [(.CH_CTRL_PAUSE, 63, 1), (.CH_STAT_STATE, 63, chPaused), (.REMAIN, 63, 5)]
    s.chanOwner 63 = some 0 ∧ s.flag .CH_CTRL_START 63 = false ∧ (s.chan 63).queue.length < 16 ∧ (1 : Word32).toNat.testBit 0 = true ∧
      (1 : Word32).toNat.testBit 1 = s.flag .CH_CTRL_PAUSE 63 ∧ (setAll s [(.CH_CTRL_START, 63, 1)]).flag .CH_CTRL_START 63 = true ∧
      (setAll s [(.CH_STAT_STATE, 63, chRunning)]).chSt 63 = chRunning ∧ s.flag .CH_CTRL_PAUSE 63 = false ∧
      p.fld .CH_CTRL_PAUSE 63 = 1 ∧ p.chSt 63 = chPaused ∧ p.fld .REMAIN 63 ≠ 0 ∧ (p.chan 63).opn.desc.xmode ≠ 2 ∧
      (p.chan 63).opn.desc.xmode ≠ 3 ∧ s.fld .CH_CTRL_PAUSE 63 < 2 := by decide +kernel
/-- R305: START queues one transfer. -/
theorem test_start : gives (.start .mp 63 1 false) (setAll up [(.CHAN_MASK_HI, 0, 0x80000000), (.PORT_SEL_CHAN_SEL, 0, 63)]) (fun t => t.flag .CH_CTRL_START 63 = true ∧ (t.chan 63).queue.length = 1) = true := by decide +kernel

/-- A chip whose links train (R551): the tray election runs. -/
def chimney : State := setAll up [(.TRAY_POS_CHIMNEY, 0, 1), (.TRAY_POS_ROW_CHIMNEY, 0, 1), (.ELECT_STAT_ELECT_DONE, 0, 1)]
/-- The same with its tick lock. -/
def locked : State := { setAll chimney [(.TICK_STAT_LOCKED, 0, 1)] with tk := { firstLock := true } }

theorem test_fclk_up : let s := setAll up [(.CLK_STAT_PLL_ON, 0, 1), (.LINK_CTRL, 5, 0)]
    s.flag .CLK_STAT_PLL_ON = true ∧ s.flag .MP_STAT_FCLK_UP = false ∧ s.barred 5 = true ∧ s.barred 0 = false := by decide +kernel
theorem test_tick_lock_states : chimney.isChimney = true ∧ chimney.flag .TICK_STAT_LOCKED = false ∧ chimney.flag .ELECT_STAT_ELECT_DONE = true ∧
    chimney.sourceAgrees = true ∧ (setAll chimney [(.TICK_CFG_TICK_SRC, 0, 1)]).sourceAgrees = false ∧ locked.flag .TICK_STAT_LOCKED = true ∧
    (setAll locked [(.TICK_STAT_CHIP_STATE, 0, chipKindling)]).chip = chipKindling := by decide +kernel
theorem test_marker_states : locked.tk.composed = none ∧ locked.tk.arrived = none ∧ locked.tk.didLatch = false ∧ locked.tk.firstLock = true ∧
    (setAll locked [(.TICK_STAT_CHIP_STATE, 0, chipKindling)]).kindlesNext = true ∧ locked.kindlesNext = false ∧ locked.allReady = false ∧
    ({ locked with tk := { locked.tk with bankThermal := true } } : State).tk.bankThermal = true ∧
    locked.othersRun = false ∧ ({ locked with tk := { locked.tk with ownAsk := some true } } : State).tk.ownAsk = some true ∧
    (setAll locked [(.TICK_CFG_TICK_OUT_EN, 0, 1)]).flag .TICK_CFG_TICK_OUT_EN = true ∧ locked.foundMarker = none ∧
    ({ locked with tk := { locked.tk with arrived := some { n := 1 } } } : State).foundMarker = some { n := 1 } ∧
    ({ setAll up [(.TICK_STAT_LOCKED, 0, 1)] with tk := { firstLock := true, ownAsk := some true, arrived := some { n := 1 } } } : State).foundMarker =
      some { n := 1 } ∧ (setAll up [(.TICK_STAT_LOCKED, 0, 1)]).isChimney = false := by decide +kernel
/-- R54: a thermal request banks the next tick. -/
theorem test_thermal_bank : gives .markerCompose { locked with tk := { locked.tk with bankThermal := true } } (fun t => t.tk.composed.map (fun m => (m.bankNext, m.n)) = some (true, 1)) = true := by decide +kernel
theorem test_marker_sent_state : ({ locked with tk := { locked.tk with composed := some {} } } : State).tk.composed = some {} := rfl
/-- R28: the count wraps. -/
theorem test_count_wraps : gives .tickBoundary (setAll locked [(.TICK_COUNT, 0, 2 ^ 48 - 1)]) (fun t => t.now = 0) = true := by decide +kernel
theorem test_boundary_state : locked.isChimney = true ∧ locked.now % 256 = 0 ∧ (setAll locked [(.PLAN_STATE_STATE, 15, plRunning)]).planSt 15 = plRunning ∧
    isAdmitted plRunning = true ∧ isAdmitted plEmpty = false := by decide +kernel
/-- A locked WARM chip in cycle `c` of its tick. -/
def warmAt (c : Nat) : State := { setAll locked [(.TICK_STAT_CHIP_STATE, 0, chipWarm)] with clk := c, cyc := c }
theorem test_refill_states : (∀ c ∈ [0, 1, 127], chipWarm ≤ (warmAt c).chip ∧ (warmAt c).cyc ≤ (warmAt c).clk ∧ (warmAt c).astir = false ∧
      (if (warmAt c).cyc % 64 = 0 ∧ (warmAt c).fillAt ≠ (warmAt c).clk + 1 then (warmAt c).cyc else (warmAt c).cyc / 64 * 64 + 64) < (warmAt c).tickLen) ∧
    (warmAt 1).cyc % 64 ≠ 0 ∧ locked.chip < chipWarm ∧ (warmAt 0x100000).tickLen ≤ (warmAt 0x100000).cyc := by decide +kernel
/-- R314: the buckets fill once in a slot. -/
theorem test_refill : gives .damperRefill (setAll (warmAt 0) [(.DMP_SHARE0, 0, 0xF), (.DMP_CAP, 0, 63)])
    (fun t => 0 < t.credit 0 0 ∧ t.fillAt = 1 ∧ gives .damperRefill t (fun u => u.cyc = 64) = true) = true := by decide +kernel
theorem test_kindling_states : let s := setAll locked [(.TICK_STAT_CHIP_STATE, 0, chipKindling)]
    ({ s with tk := { s.tk with kdone := true } } : State).tk.kdone = true ∧ s.chip = chipKindling ∧
    ({ s with tk := { s.tk with abort := true } } : State).kindleFails (4 : BitVec 4).toNat = true ∧
    ({ s with tk := { s.tk with maxMarker := 897 } } : State).kindleFails (2 : BitVec 4).toNat = true ∧
    ({ s with tk := { s.tk with maxMarker := 896 } } : State).kindleFails (2 : BitVec 4).toNat = false := by decide +kernel

theorem test_samples : (380 : Int) ≤ highest (fun k => reading (List.replicate 8 380) k + up.tsFx k) ∧
    highest (fun k => reading (List.replicate 8 368) k + up.tsFx k) ≤ 368 ∧ (List.replicate 8 (380 : BitVec 10)).length = 8 ∧
    0 ≤ highest (fun k => reading (List.replicate 8 380) k + up.tsEff k) ∧ highest (fun k => reading (List.replicate 8 380) k + up.tsEff k) < 512 := by
  decide +kernel
/-- R503: 95 °C sets CRIT and pulls FAN_MAX#; 94.75 °C does not. -/
theorem test_crit : gives (.thermalSample (List.replicate 8 380) 0) chimney (fun t => t.flag .THERM_STAT_CRIT = true ∧ t.fld .FAN_DUTY = 100) = true := by decide +kernel
theorem test_not_crit : gives (.thermalSample (List.replicate 8 379) 0) chimney (fun t => t.flag .THERM_STAT_CRIT = false) = true := by decide +kernel
theorem test_fan_states : let s := setAll chimney [(.FAN_DUTY, 0, 50)]
    s.flag .TRAY_POS_CHIMNEY = true ∧ s.therm.fanMaxLow = false ∧ s.flag .FAN_FORCE_EN = false ∧ s.therm.fanDecline = false ∧
    s.fld .THERM_CFG_FAN_MIN ≤ s.fld .FAN_DUTY ∧ s.fld .FAN_DUTY ≤ s.fld .THERM_CFG_FAN_CEIL ∧ s.fld .THERM_CFG_FAN_CEIL ≤ 100 ∧
    up.flag .TRAY_POS_CHIMNEY = false ∧ ({ s with therm := { s.therm with fanMaxLow := true } } : State).therm.fanMaxLow = true ∧
    ({ s with therm := { s.therm with fanMaxLow := true } } : State).therm.fanMaxDrive = false := by decide +kernel
theorem test_poll_states : let s := setAll { chimney with tray := { railBad := [(7, 1)] } } [(.RAIL_MAP_EN, 7, 1), (.RAIL_LIM_LO, 7, 100)]
    (List.replicate 8 (some (5 : BitVec 16))).length = 8 ∧ (List.replicate 4 (0 : BitVec 16)).length = 4 ∧ s.flag .TRAY_POS_CHIMNEY = true ∧
    s.flag .RAIL_MAP_EN 7 = true ∧ (List.replicate 8 (some (5 : BitVec 16))).getD 7 none = some 5 ∧ (5 : BitVec 16).toNat < s.fld .RAIL_LIM_LO 7 ∧
    1 ≤ mget 0 7 s.tray.railBad ∧ (List.replicate 8 (none : Option (BitVec 16))).getD 7 none = none := by decide +kernel
theorem test_eq_states : let s := setAll up [(.EQ_CFG_ADAPT_EN, 23, 1), (.EQ_CFG_WINDOW, 23, 4)]
    s.flag .EQ_CFG_ADAPT_EN 23 = true ∧ s.fld (eqNow 3) 23 < s.eqHi 23 3 ∧ s.eqLo 23 3 ≤ s.fld (eqNow 3) 23 + 1 ∧
    s.eqLo 23 3 < (s.setFld (eqNow 3) 23 2).fld (eqNow 3) 23 ∧ (s.setFld (eqNow 3) 23 2).fld (eqNow 3) 23 ≤ s.eqHi 23 3 + 1 ∧
    (s.setFld (eqNow 3) 23 2).fld (eqNow 3) 23 < 65 ∧ s.eqHi 23 3 ≤ (s.setFld (eqNow 3) 23 4).fld (eqNow 3) 23 := by decide +kernel
theorem test_damping_states : let s := setAll locked [(.TICK_STAT_CHIP_STATE, 0, chipDamping), (.DAMP_CFG, 0, 1), (.TICK_COUNT, 0, 1)]
    s.chip = chipDamping ∧ ({ s with damp := { stage := 1 } } : State).dampEnds = true ∧ ({ s with damp := { stage := 5 } } : State).dampEnds = true ∧
    s.fld .DAMP_CFG ≠ 0 ∧ s.damp.entered + s.fld .DAMP_CFG ≤ s.now ∧ s.flag .DAMP_STAT_FORCED = false ∧ s.damp.stage ≠ 5 := by decide +kernel

/-! ### Plans -/

/-- A queue record of hearth 0: a command, a byte of operands at offset 8, a 6-byte number at 16. -/
def recOf (cmd slot tick : Nat) : Taken := ⟨0, 0, 0, leBytes 8 cmd ++ leBytes 8 slot ++ leBytes 6 tick ++ List.replicate 42 0⟩
/-- `s` with one record taken. -/
def taking (s : State) (r : Taken) : State := { s with taken := [r] }

theorem test_plan_load : let s := taking locked (recOf 0x10 15 0x1000000000)
    s.takenCmd 0 0x10 = some (recOf 0x10 15 0x1000000000) ∧ recNum (recOf 0x10 15 0x1000000000).bytes 8 1 = 15 ∧ s.planSt 15 = plEmpty ∧
    (setAll s [(.PLAN_STATE_STATE, 15, plRunning)]).planSt 15 ≠ plEmpty := by decide +kernel

/-- A WARM chip with a due load of slot 0 from the image at the start of the staging SRAM. -/
def loading (s : State) : State :=
  setAll { s with power := .run, tk := { firstLock := true } }
    [(.TICK_STAT_CHIP_STATE, 0, chipWarm), (.PLAN_STATE_STATE, 0, plChecking)]
  |>.setPlan 0 { load := some ⟨{}, 0x1000000000, 0, 0, 2, 0⟩ }

/-- A plan image: UID 5, slack 2, one budget entry of slice 0 with no slot (Tables 2.2 to 2.4). -/
def image : State :=
  opened.setBytes 0x1000000000
    ([1, 0, 5, 0, BitVec.ofNat 8 (up.fld .TICK_CFG_TICK_LEN_K), 0, 14, 28, 2, 0, 1, 0] ++ leBytes 4 64 ++ leBytes 4 72 ++ List.replicate 44 0 ++ [8])

theorem test_load_turn : (loading opened).loadTurn = some 0 ∧ (loading opened).tk.firstLock = true ∧ (loading opened).chip = chipWarm ∧
    ((loading opened).plan 0).load = some ⟨{}, 0x1000000000, 0, 0, 2, 0⟩ := by decide +kernel
theorem test_verdicts :
    (loading opened).checkImage 0 0 ⟨{}, 0x1000000000, 0, 0, 2, 0⟩ = .refuse 1 0xFF ∧
    (loading up).checkImage 0 0 ⟨{}, 0x1000000000, 0, 0, 2, 0⟩ = .fault 3 0x1000000000 64 ∧
    (loading image).checkImage 0 0 ⟨{}, 0x1000000000, 0, 0, 2, 0⟩ =
      .enter { uid := 5, addr := 0x1000000000, len := 104, sealed := true, tickLenK := 16, slices := 14, mixers := 28, bankSlack := 2,
               budgets := [⟨8, 0, 0, [0]⟩] } := by decide +kernel
/-- R47, R48: the load is admitted with its slack. -/
theorem test_admitted : gives (.planAdmit 0) (loading image) (fun t => t.planSt 0 = plAdmitted ∧ t.fld .PLAN_STATE_SLACK_LEFT 0 = 2) = true := by decide +kernel
theorem test_plan_commands :
    (taking (setAll up [(.PLAN_STATE_STATE, 15, plAdmitted)]) (recOf 0x11 15 2)).takenCmd 0 0x11 = some (recOf 0x11 15 2) ∧
    (setAll up [(.PLAN_STATE_STATE, 15, plAdmitted)]).planSt 15 = plAdmitted ∧ (up.plan 15).pend = none ∧ (up.plan 15).retire = none ∧
    up.now + 2 ≤ recNum (recOf 0x11 15 2).bytes 16 6 ∧ recNum (recOf 0x11 15 1).bytes 16 6 < up.now + 2 ∧
    (taking (setAll up [(.PLAN_STATE_STATE, 15, plSuspended)]) (recOf 0x12 15 2)).takenCmd 0 0x12 = some (recOf 0x12 15 2) ∧
    (taking (setAll up [(.PLAN_STATE_STATE, 15, plRunning)]) (recOf 0x13 15 2)).takenCmd 0 0x13 = some (recOf 0x13 15 2) := by decide +kernel
theorem test_miss_states : (setAll up [(.PLAN_STATE_STATE, 15, plRunning)]).planSt 15 = plRunning ∧ up.missHolds 15 (0x09 : Byte).toNat = true ∧
    up.fld .MISS_COUNT + 1 < 2 ^ 32 ∧ ((up.setPlan 15 { retiring := true }).plan 15).retiring = true ∧ (up.setPlan 15 { retiring := true }).itemsOf 15 = false := by
  decide +kernel
theorem test_release_states : let s := (setAll locked [(.PLAN_STATE_STATE, 15, plRunning)]).setPlan 15 { tick := 3 }
    s.planSt 15 = plRunning ∧ (s.plan 15).retiring = false ∧ (s.plan 15).tick = 3 ∧ s.flag .TICK_STAT_BANKED = false ∧ s.cyc ≤ 64 * 1 ∧
    1 < s.tickLen / 64 ∧ assigned (wordOpc 0x11) = true ∧ (setAll s [(.TICK_STAT_BANKED, 0, 1)]).flag .TICK_STAT_BANKED = true := by decide +kernel
/-- A NAKed planned block of sequence 7 on link 3, of the plan with UID 5. -/
def naked : State :=
  (setAll locked [(.PLAN_STATE_STATE, 0, plRunning), (.LINK_LAT, 3, 100)]).setPlan 0 { uid := 5 }
    |>.setLink 3 { unacked := [{ seq := 7, frames := [⟨[0x10, 0, 0, 0x50000], []⟩], planned := true, slotEnd := 760, replays := 0, naked := true }] }
theorem test_replay_states : ((naked.link 3).unacked.find? (fun y => y.seq = (7 : BitVec 12).toNat && y.naked)).isSome = true ∧
    isRetryStart 960 = true ∧ 760 + 2 * naked.fld .LINK_LAT 3 ≤ 960 ∧ 960 ≤ 823 + 2048 ∧ naked.fld .REPLAY_COUNT 3 + 1 < 2 ^ 32 ∧
    isRetryStart 3008 = true ∧ 760 + 2 * naked.fld .LINK_LAT 3 ≤ 3008 ∧ 823 + 2048 < 3008 ∧ isRetryStart 961 = false ∧
    ((naked.link 3).unacked.find? (fun y => y.seq = (7 : BitVec 12).toNat && y.naked)).bind naked.blockPlan = some 0 ∧
    naked.planSt 0 = plRunning := by decide +kernel
/-- R41, R43: the replay that arrives after D is a miss of cause RETRY. -/
theorem test_late_replay : gives (.plannedReplay 3 7 823 3008) naked (fun t => t.fld .PLAN_STATE_CAUSE 0 = 4 ∧ t.fld .REPLAY_COUNT 3 = 1) = true := by
  decide +kernel

/-! ### Links, frames and the domain -/

/-- A link in a state. -/
def linkIn (n st : Nat) : State := setAll up [(.LINK_STAT_STATE, n, st), (.LINK_LIVE, 0, 0xFFFFFF)]

theorem test_link_states : (linkIn 23 lkTraining).lk 23 = lkTraining ∧ (linkIn 23 lkRetrain).lk 23 = lkRetrain ∧ (linkIn 23 lkUp).lk 23 = lkUp ∧
    ((linkIn 23 lkUp).link 23).failed < 8 ∧ (linkIn 23 lkUp).fbit .LINK_LIVE 0 23 = true ∧
    up.clk < mget 0 3 ({ eqAt := [(3, 1)] } : Link).eqAt ∧ (linkIn 23 lkUp).fld .RETRAIN_COUNT 23 + 1 < 2 ^ Fld.width .RETRAIN_COUNT ∧ (linkIn 23 lkIdent).lk 23 = lkIdent ∧
    (64 : Nat) ≤ (((linkIn 23 lkIdent).setLink 23 { probes := 64, maxTrip := 100, kindleLat := some 58 }).link 23).probes ∧
    ((linkIn 23 lkIdent).setLink 23 { probes := 64, maxTrip := 2032 }).latOf 23 ≤ 1024 ∧
    ((linkIn 23 lkIdent).setLink 23 { probes := 64, maxTrip := 100, kindleLat := some 58 }).latOf 23 = 58 ∧ (some 58).any (58 ≤ ·) = true ∧
    (some 57).any (58 ≤ ·) = false := by decide +kernel

/-- R431: ACK_SEQ stands still for 4,096 cycles; one cycle earlier the link is up. -/
theorem test_ack_stalls : ∀ c ∈ [4095, 4096],
    let s : State := { ((linkIn 23 lkUp).setLink 23 { unacked := [{ seq := 7, frames := [], planned := false, slotEnd := 0, replays := 0, naked := false }] }) with clk := c }
    ((s.sendBlock 23).lk 23, (s.sendBlock 23).fld .LINK_EVT 23) = if c = 4096 then (lkRetrain, 1) else (lkUp, 0) := by decide +kernel
/-- R449: a frame for another node is on its way for 24 cycles. -/
theorem test_passes : (((linkIn 23 lkUp).passOn 23 nopFrame).passed 23 |>.link 23).txq = [] ∧
    (({ (linkIn 23 lkUp).passOn 23 nopFrame with clk := (linkIn 23 lkUp).clk + 24 }.passed 23).link 23).txq = [nopFrame] := by decide +kernel

/-- A block with a good CRC. -/
def goodBlock (h : Word64) (l : Word32) : Block :=
  ⟨List.replicate 184 0, h, l, BitVec.ofNat 32 (crc32c 0xFFFFFFFF (List.replicate 184 0 ++ leBytes 8 h.toNat ++ leBytes 4 l.toNat) ^^^ 0xFFFFFFFF)⟩

theorem test_blocks : (goodBlock 0x8 0).wf = true ∧ (linkIn 0 lkUp).hasLock 0 = true ∧ blkOk { goodBlock 0x103 0 with crc := 0 } = false ∧
    (linkIn 0 lkUp).fld .BLK_ERR_COUNT 0 + 1 < 2 ^ Fld.width .BLK_ERR_COUNT ∧ blkOk (goodBlock 0x103 0) = true ∧ blkNak (goodBlock 0x103 0) = false ∧
    blkSeq (goodBlock 0x103 0) = ((linkIn 0 lkUp).link 0).rxNext ∧ headerLen (0x103 : Word64).toNat = some 1 ∧ dataLen (0x103 : Word64).toNat ≤ 184 ∧
    2 ≤ frameType ⟨[0x103], []⟩ ∧ blkOk (goodBlock 0x103 0xFFF) = true ∧ blkNak (goodBlock 0x103 0xFFF) = false ∧
    512 ≤ (blkSeq (goodBlock 0x103 0xFFF) + 4096 - ((linkIn 0 lkUp).link 0).rxNext) % 4096 := by decide +kernel

/-- R426, R428: a block with a bad CRC is NAKed. -/
theorem test_bad_block : gives (.blockReceive 0 { goodBlock 0x103 0 with crc := 0 }) (linkIn 0 lkUp) (fun t => (t.link 0).nakOwed = some 0 ∧ t.fld .BLK_ERR_COUNT 0 = 1) = true := by decide +kernel

/-- The identity record of a compute chip at position B with DIE_ID 77, on its link F12. -/
def identB : Frame := localFrame 0x02 (1 + 12 * 256 + 0x10000) [77, 2 ^ 32, 0, 77]
theorem test_idents : frameIs 0x02 identB = true ∧ reservedOk identB = true ∧ hdr identB 0 48 8 = 1 ∧ (linkIn 12 lkIdent).chip = chipCold ∧
    (linkIn 12 lkIdent).flag .LINK_FORCE_NO_IDENT 12 = false ∧ (linkIn 12 lkIdent).lk 12 = lkIdent ∧
    ((linkIn 12 lkIdent).readIdent 12 identB).identHold 12 = 0 ∧
    ((setAll (linkIn 12 lkIdent) [(.TRAY_POS_POS, 0, 1)]).readIdent 12 identB).identHold 12 = heldPosClash := by decide +kernel
/-- R438: position B's record brings F12 of position A into service. -/
theorem test_ident : gives (.ident 12 identB) (setAll (linkIn 12 lkIdent) [(.LINK_LIVE, 0, 0)]) (fun t => t.lk 12 = lkUp ∧
    t.fbit .LINK_LIVE 0 12 = true) = true := by decide +kernel

theorem test_probes : frameIs 0x03 (localFrame 0x03 5) = true ∧ reservedOk (localFrame 0x03 5) = true ∧ frameIs 0x04 (localFrame 0x04 0) = true ∧
    reservedOk (localFrame 0x04 0) = true ∧ hdr (localFrame 0x04 0) 0 32 16 = (up.link 0).pid ∧ (up.link 0).probes < 63 := by decide +kernel

/-- A marker of tick 9 with one suspension, and a node that follows link 16. -/
def mark9 : Frame := markerFrame { n := 9, lead := 1016, susp := [5] }
def follower : State := setAll up [(.TICK_CFG_TICK_SRC, 0, 2), (.TICK_CFG_SRC_LINK, 0, 16), (.NODE_ID_VALID, 0, 1), (.LINK_LIVE, 0, 0x31000)]
theorem test_markers : frameIs 0x08 mark9 = true ∧ reservedOk mark9 = true ∧ follower.isChimney = false ∧ follower.tickSrc = 2 ∧
    follower.srcLink = 16 ∧ follower.flag .NODE_ID_VALID = true ∧ follower.srcLink ≠ 17 ∧ chimney.isChimney = true := by decide +kernel
theorem test_marker : gives (.marker 16 mark9 0) follower (fun t => t.tk.arrived.map (·.susp) = some [5] ∧ (t.link 12).txq.length = 1 ∧
    (t.link 16).txq = []) = true := by decide +kernel

/-- A REPORT of a kind from node 1 to node `dst`. -/
def reportOf (kind dst : Nat) : Frame := mkFrame 0x09 dst 1 false false (kind + 5 * 2 ^ 16) [2 ^ 48] []
theorem test_reports : (∀ k ∈ [1, 2, 3, 4, 5], frameIs 0x09 (reportOf k 0) = true ∧ reservedOk (reportOf k 0) = true ∧
    frameDst (reportOf k 0) = chimney.ownNode ∧ hdr (reportOf k 0) 0 32 8 = k) ∧ (setAll chimney [(.MEMBER, 0, 2)]).isMember (frameSrc (reportOf 3 0)) = true ∧
    frameDst (reportOf 1 7) ≠ up.ownNode ∧ (setAll up [(.RT_LINKS, 7, 0x800000)]).route (frameDst (reportOf 1 7)) none = some 23 := by decide +kernel

/-- An ELECT frame: priority, Row scope, FINAL, DIE_ID. -/
def elect (prio row final die : Nat) : Frame := localFrame 0x0A (prio + 16 * row + 32 * final) [die]
theorem test_elections : let s : State := { up with node := { scope := 1, bestPrio := 7, bestDie := 9 } }
    (∀ f ∈ [elect 8 0 0 4, elect 7 0 0 9, elect 8 0 1 4, elect 8 1 1 4], frameIs 0x0A f = true ∧ reservedOk f = true) ∧
    hdr (elect 8 0 0 4) 0 37 1 = 0 ∧ s.node.scope = (if hdr (elect 8 0 0 4) 0 36 1 = 1 then 2 else 1) ∧
    better (hdr (elect 8 0 0 4) 0 32 4) (hdr (elect 8 0 0 4) 1 0 64) s.node.bestPrio s.node.bestDie = true ∧
    better (hdr (elect 7 0 0 9) 0 32 4) (hdr (elect 7 0 0 9) 1 0 64) s.node.bestPrio s.node.bestDie = false ∧
    hdr (elect 8 0 1 4) 0 37 1 = 1 ∧ hdr (elect 8 0 1 4) 0 36 1 = 0 ∧ hdr (elect 8 1 1 4) 0 36 1 = 1 ∧
    hdr (elect 8 1 1 4) 1 0 64 ≠ up.fuses.dieId.toNat ∧ up.tk.firstLock = false := by decide +kernel

/-- A member map of epoch 3 with nodes 0 and 255. -/
def members : Frame := localFrame 0x0B 3 [1, 0, 0, 2 ^ 63]
theorem test_members : frameIs 0x0B members = true ∧ reservedOk members = true ∧ hdr members 0 32 16 ≠ 0 ∧
    hdr members 0 32 16 ≠ up.fld .MEMBER_EPOCH ∧ up.node.pendMap = none ∧ up.tk.firstLock = false ∧ locked.tk.firstLock = true := by decide +kernel
theorem test_lost_node : let s : State := { setAll chimney [(.MEMBER, 7, 0x80000000), (.TICK_COUNT, 0, 5)] with node := { lossCount := [(255, 3)] } }
    s.isChimney = true ∧ s.isMember (255 : Byte).toNat = true ∧ mget 0 (255 : Byte).toNat s.node.lossCount ≠ 0 ∧
    mget 0 (255 : Byte).toNat s.node.lossCount + 2 ≤ s.now := by decide +kernel

/-- A JOIN frame of a kind, about the chip with a DIE_ID. -/
def joinOf (kind die : Nat) : Frame := mkFrame 0x0C 0 1 false false (kind + 7 * 2 ^ 8) [die, 40] []
theorem test_joins : (∀ k ∈ [1, 2, 3, 4, 5], frameIs 0x0C (joinOf k 0) = true ∧ reservedOk (joinOf k 0) = true ∧ hdr (joinOf k 0) 0 32 8 = k ∧
      hdr (joinOf k 0) 1 0 64 = up.fuses.dieId.toNat) ∧ up.flag .NODE_ID_VALID = false ∧ chimney.flag .ELECT_STAT_ELECT_DONE = true ∧
    (setAll chimney [(.TICK_STAT_CHIP_STATE, 0, chipWarm)]).chip = chipWarm ∧ chimney.freeId = some 0 ∧
    (setAll chimney [(.MEMBER, 0, 2)]).isMember (frameSrc (joinOf 4 0)) = true := by decide +kernel
theorem test_join_unknown : ∀ e ∈ chimney.node.known, e.1 ≠ hdr (joinOf 1 0) 1 0 64 := nofun

/-! ### Remote accesses -/

/-- WRITE of 4 bytes and READ of 4 bytes at a local address, LOCAL, WID or RID 9. -/
def writeTo (a : Nat) (planned : Bool) : Frame := mkFrame 0x10 0 0 true planned (9 + 3 * 2 ^ 16) [a, 0, 0] [1, 2, 3, 4]
def readFrom (a : Nat) : Frame := mkFrame 0x11 0 0 true false (9 + 3 * 2 ^ 16) [a, 0] []
theorem test_incoming : (∀ p, frameIs 0x10 (writeTo 0x1009FFFFFC p) = true ∧ reservedOk (writeTo 0x1009FFFFFC p) = true ∧ frameLocal (writeTo 0x1009FFFFFC p) = true ∧
      framePlanned (writeTo 0x1009FFFFFC p) = p) ∧ opened.writeFault 0 (writeTo 0x1009FFFFFC false) = 0 ∧
    regionOf (reqAddr (writeTo 0x1009FFFFFC false)) ≠ some .mirror ∧ opened.writeFault 0 (writeTo 0x1009FFFFFD false) ≠ 0 ∧
    frameIs 0x11 (readFrom 0x1009FFFFFC) = true ∧ reservedOk (readFrom 0x1009FFFFFC) = true ∧ opened.chip ≠ chipOffReady ∧
    opened.incomingFault 0 0x1009FFFFFC (reqLen (readFrom 0x1009FFFFFC)) (reqKey (readFrom 0x1009FFFFFC)) .r = 0 ∧
    up.incomingFault 0 0x1009FFFFFC 4 0 .r ≠ 0 ∧
    (∀ wr, opened.arrivalFree 3 (reqAddr (writeTo 0x1009FFFFFC false)) (reqLen (writeTo 0x1009FFFFFC false)) wr false = true) ∧
    reqLen (writeTo 0x1009FFFFFC false) = 4 := by decide +kernel
/-- R453: the bytes of a write are stored and acknowledged on its link. -/
theorem test_write : gives (.write 3 (writeTo 0x1009FFFFFC false)) opened (fun t => t.bytes 0x1009FFFFFC 4 = [1, 2, 3, 4] ∧
    (t.link 3).txq.map frameType = [0x18]) = true := by decide +kernel
theorem test_read : gives (.read 3 (readFrom 0x1009FFFFFC)) (opened.setBytes 0x1009FFFFFC [5, 6]) (fun t => (t.link 3).txq.map (·.data) = [[5, 6, 0, 0]]) = true := by decide +kernel
theorem test_delivery : let s := opened.setLink 0 { held := [writeTo 0x1000000000 true] }
    writeTo 0x1000000000 true ∈ (s.link 0).held ∧ s.writeFault 0 (writeTo 0x1000000000 true) = 0 ∧ s.clk ≤ 0 ∧
    s.astir = false ∧ (s.advanceTo (0 + s.fld .LINK_LAT 0 + 2048)).arrivalFree 0 0x1000000000 4 true true = true := by decide +kernel
/-- R429: a planned WRITE is visible at cycle D. -/
theorem test_planned_delivery : gives (.plannedDelivery 0 (writeTo 0x1000000000 true) 0) (opened.setLink 0 { held := [writeTo 0x1000000000 true] })
    (fun t => t.bytes 0x1000000000 5 = [1, 2, 3, 4, 0] ∧ t.clk = 2048) = true := by decide +kernel

/-- A partner's kv.open request, with a key. -/
def kvreqOf (key : Nat) : Frame := localFrame 0x12 9 [0x81, 0, key]
theorem test_kvreqs : frameIs 0x12 (kvreqOf 0) = true ∧ reservedOk (kvreqOf 0) = true ∧ hdr (kvreqOf 0) 3 0 32 = up.fld .PKEY (hdr (kvreqOf 0) 0 48 4) ∧
    up.fencedHearth 0 = false ∧ assigned (wordOpc (BitVec.ofNat 128 (hdr (kvreqOf 0) 1 0 64 + hdr (kvreqOf 0) 2 0 64 * 2 ^ 64))) = true ∧
    wordClass (BitVec.ofNat 128 (hdr (kvreqOf 0) 1 0 64 + hdr (kvreqOf 0) 2 0 64 * 2 ^ 64)) = 8 ∧ (up.hearth 0).iq = [] ∧
    reservedOk (kvreqOf 1) = true ∧ hdr (kvreqOf 1) 3 0 32 ≠ up.fld .PKEY (hdr (kvreqOf 1) 0 48 4) := by decide +kernel
theorem test_kvcpl : let f := localFrame 0x1C 9 [0, 0]
    let s := (setAll (linkIn 0 lkUp) [(.CREDITS_RSP_AVAIL, 0, 8)]).setLink 0 { txq := [f] }
    frameIs 0x1C f = true ∧ (s.link 0).txq = [f] ∧ s.hasLock 0 = true ∧ s.mayStart 0 f = true ∧ s.maySend 0 f = true ∧ (sendCost f).1 = 2 := by
  decide +kernel

/-- Ember 5 of hearth 0 lives; a write and a read of it are out. -/
def remote : State :=
  { up with embers := [(5, { live := true })], posted := [⟨9, 2 ^ 48, 4, 0, .ember 5 5, 0, false, 0⟩], reads := [⟨9, 2 ^ 48, 4, 0, .ember 5 5, 0, 0⟩] }
theorem test_answers : frameIs 0x18 (localFrame 0x18 9) = true ∧ reservedOk (localFrame 0x18 9) = true ∧ frameIs 0x19 (localFrame 0x19 (9 + 2 * 2 ^ 16) [0]) = true ∧
    reservedOk (localFrame 0x19 (9 + 2 * 2 ^ 16) [0]) = true ∧ remote.posted.find? (·.wid = reqId (localFrame 0x19 (9 + 2 * 2 ^ 16) [0])) = some ⟨9, 2 ^ 48, 4, 0, .ember 5 5, 0, false, 0⟩ ∧
    remote.fld .BDRAFT_COUNT + 1 < 2 ^ 32 ∧ (remote.ember 5).live = true ∧ (remote.ember 5).incarn * 2048 + 5 = 5 ∧ (remote.ember 5).wait = .none ∧
    (0 + 64 ≤ (setAll remote [(.TICK_COUNT, 0, 64)]).now) ∧ remote.fld .LOST_COUNT + 1 < 2 ^ 32 ∧
    frameIs 0x1A (localFrame 0x1A (9 + 3 * 2 ^ 16) [] [1, 2, 3, 4]) = true ∧ reservedOk (localFrame 0x1A (9 + 3 * 2 ^ 16) [] [1, 2, 3, 4]) = true ∧
    framePlanned (localFrame 0x1A (9 + 3 * 2 ^ 16) [] [1, 2, 3, 4]) = false ∧ remote.emberTag 5 = 5 ∧
    frameIs 0x1B (localFrame 0x1B 9) = true ∧ reservedOk (localFrame 0x1B 9) = true ∧
    remote.reads.find? (·.rid = reqId (localFrame 0x1B 9)) = some ⟨9, 2 ^ 48, 4, 0, .ember 5 5, 0, 0⟩ := by decide +kernel
/-- R454: a backdraft ends the write and counts at its ember. -/
theorem test_bdraft : gives (.bdraft 0 (localFrame 0x19 (9 + 2 * 2 ^ 16) [0])) remote (fun t => t.posted = [] ∧ (t.ember 5).backdrafts = 1) = true := by decide +kernel
theorem test_rdata : gives (.rdata 0 (localFrame 0x1A (9 + 3 * 2 ^ 16) [] [1, 2, 3, 4])) remote (fun t => t.reads = [] ∧
    (t.ember 5).cache.map (·.2) = [1, 2, 3, 4]) = true := by decide +kernel

/-! ### Queues, units -/

/-- Hearth 0's first submission entry holds `r`, and one entry waits. -/
def submitted (r : Taken) : State := (setAll queued [(.SQ_TAIL, 0, 1)]).setBytes 0x1000000000 r.bytes

theorem test_queue_entries : let s := submitted (recOf 0x20 0 0)
    s.sqTurn = some 0 ∧ queued.sqTurn ≠ some 0 ∧
    s.hearthFault 0 (s.global (queueEntry (s.fld .SQ_CFG_BASE_IDX 0) (s.sqN 0) 64 (s.fld .SQ_HEAD 0))) 64 .r = 0 ∧ s.fencedHearth 0 = false ∧
    s.formatOk 0 (s.bytes (queueEntry (s.fld .SQ_CFG_BASE_IDX 0) (s.sqN 0) 64 (s.fld .SQ_HEAD 0)) 64) = true ∧
    (submitted (recOf 0x20 1 0)).formatOk 0 ((submitted (recOf 0x20 1 0)).bytes 0x1000000000 64) = false ∧
    (setAll s [(.HEARTH_CTL_FENCE, 0, 1)]).fencedHearth 0 = true ∧ isPlanCmd (recCmd (recOf 0x10 15 2).bytes) = true ∧
    isPlanCmd (recCmd (recOf 0x20 0 0).bytes) = false ∧ s.fld .REFUSED_COUNT 0 + 1 < 2 ^ Fld.width .REFUSED_COUNT := by decide +kernel
theorem test_entry_taken : gives (.sqEntryTake 0) (submitted (recOf 0x20 0 0)) (fun t => t.taken = [recOf 0x20 0 0] ∧ t.fld .SQ_HEAD 0 = 1) = true := by
  decide +kernel

/-- A record with a pointer at 12 and an instruction word of opcode `opc`. -/
def cmdOf (cmd b8 b9 ptr opc : Nat) : Taken :=
  ⟨0, 0, 0, leBytes 8 cmd ++ leBytes 1 b8 ++ leBytes 3 b9 ++ leBytes 4 ptr ++ leBytes 16 opc ++ List.replicate 32 0⟩
theorem test_commands :
    (taking queued (cmdOf 0x20 0 0 0 0)).takenCmd 0 0x20 = some (cmdOf 0x20 0 0 0 0) ∧ (queued.hearth 0).hold = [] ∧ queued.cqOcc 0 < queued.cqN 0 ∧
    queued.hearthFault 0 (queued.global (queueEntry (queued.fld .CQ_CFG_BASE_IDX 0) (queued.cqN 0) 32 (queued.fld .CQ_TAIL 0))) 32 .w = 0 ∧
    (taking queued (cmdOf 0x01 0 0 0 0x11)).takenCmd 0 0x01 = some (cmdOf 0x01 0 0 0 0x11) ∧ (queued.hearth 0).iq.length < 32 ∧
    assigned (wordOpc (BitVec.ofNat 128 (recNum (cmdOf 0x01 0 0 0 0x11).bytes 16 16))) = true ∧
    32 ≤ ((queued.setHearth 0 { iq := List.replicate 32 ⟨{}, 0x11, false, 0, false⟩ }).hearth 0).iq.length ∧
    (taking queued (cmdOf 0x03 63 0 5 0)).takenCmd 0 0x03 = some (cmdOf 0x03 63 0 5 0) ∧ (queued.chan 63).queue.length < 16 ∧
    16 ≤ ((queued.setChan 63 { queue := List.replicate 16 { ctx := {}, ptr := none } }).chan 63).queue.length ∧
    (taking queued (cmdOf 0x04 63 3 5 0)).takenCmd 0 0x04 = some (cmdOf 0x04 63 3 5 0) ∧ queued.heatSt (4 * 0 + recNum (cmdOf 0x04 63 3 5 0).bytes 9 1) ≠ 1 ∧
    (queued.setHeat 3 1).heatSt (4 * 0 + recNum (cmdOf 0x04 63 3 5 0).bytes 9 1) = 1 := by decide +kernel
theorem test_iq_assigned : ∀ q ∈ (queued.hearth 0).iq, assigned (wordOpc q.word) = true := nofun
/-- R473: NOP completes DONE: one record, TAG and R0 zero, PHASE of index 0. -/
theorem test_nop : gives (.nop 0) (taking queued (cmdOf 0x20 0 0 0 0)) (fun t => t.fld .CQ_TAIL 0 = 1 ∧ t.taken = []) = true := by decide +kernel
theorem test_dma_submit : gives (.dmaSubmit 0) (taking queued (cmdOf 0x03 63 0 5 0)) (fun t => (t.chan 63).queue.map (·.ptr) = [some 5]) = true := by
  decide +kernel
theorem test_waiting : let s := queued.setHearth 0 { hold := [{}] }
    (s.hearth 0).hold = [{}] ∧ s.cqOcc 0 < s.cqN 0 ∧ (setAll s [(.CQ_TAIL, 0, 16)]).cqN 0 ≤ (setAll s [(.CQ_TAIL, 0, 16)]).cqOcc 0 ∧
    2 ≤ ((up.setTag 15 255 { st := 2 }).tag 15 255).st ∧ ((up.setTag 15 255 { st := 2 }).tag 15 255).closed + 64 ≤ (setAll up [(.TICK_COUNT, 0, 64)]).now ∧
    ((up.setTag 15 255 { st := 2 }).tag 15 255).inFlight = 0 ∧ ({ id := 3, ctx := {}, word := 0x83, stack := 2 } : Flight).locks = true ∧ up.fld .XB_LOCK_BREAKS + 1 < 2 ^ Fld.width .XB_LOCK_BREAKS := by
  decide +kernel
/-- R484: a command with DEADLINE 2 accepted at tick 0 is removed in tick 3, and not in tick 2. -/
theorem test_deadline : ∀ n ∈ [2, 3], gives (.deadlineExpiry 0)
    ((setAll queued [(.TICK_COUNT, 0, n)]).setHearth 0 { iq := [⟨{}, 0x11, true, 2, false⟩] }) (fun t => (t.hearth 0).iq.length = 3 - n ∧
      t.fld .REFUSED_COUNT 0 = n - 2) = true := by
  decide +kernel

/-- A permutation flight 3, a transposer one 4 and a mixer one 5; slice 15 and mixer 31 have had a parity error; channel 15 is to be scanned. -/
def working : State :=
  { up with flights := [{ id := 3, ctx := {}, word := 0x21, sides := [⟨2, 0, 0, 4, 1, 5⟩] }, { id := 4, ctx := {}, word := 0x30, sides := [⟨3, 3, 0, 4, 1, 5⟩] },
                       { id := 5, ctx := {}, word := 0x63, sides := [⟨6, 0, 0, 4, 1, 5⟩] }],
            units := { parSlices := 0x8000, parMixers := 0x80000000, scan := 0x8000 } }
theorem test_units : (working.flight 3).isSome = true ∧ wordClass (0x21 : Word128) = 2 ∧ wordClass (0x30 : Word128) = 3 ∧ wordClass (0x63 : Word128) = 6 ∧
    working.units.parSlices.testBit 15 = true ∧ working.units.parSlices.testBit 0 = false ∧ working.units.parMixers.testBit 31 = true ∧
    working.units.parMixers.testBit 0 = false ∧ working.fld .FAB_ERR_COUNT + 1 < 2 ^ Fld.width .FAB_ERR_COUNT ∧
    working.fld .ENG_ERR_COUNT + 1 < 2 ^ Fld.width .ENG_ERR_COUNT ∧ working.fld .FEN_CE_COUNT 15 + 1 < 2 ^ Fld.width .FEN_CE_COUNT ∧
    working.fld .FEN_UE_COUNT 15 + 1 < 2 ^ Fld.width .FEN_UE_COUNT ∧ working.fbit .FEN_LIVE 0 15 = true ∧ working.units.scan.testBit 15 = true ∧
    (∀ w ∈ [BeatReader.flight 3, .write 0 (writeTo 0x1000000000 false), .read 0 (readFrom 0x1000000000)], beatReaderWf w = true) := by
  decide +kernel
theorem test_units_taken : ∀ e ∈ [(3, 2, 0), (4, 3, 3), (5, 6, 0)], (working.flight e.1).any (fun x => x.takes e.2.1 (fun l => l = e.2.2) &&
    !x.takes e.2.1 (fun l => l = 15) && x.status = 0 && (e.1 = 4 || working.physOf e.2.1 0 = some 0)) = true := by decide +kernel
theorem test_second_parity : gives (.fabricParity 9 15) working (fun t => t.fbit .SLICE_LIVE 0 15 = false ∧ t.fbit .FAB_PARITY 0 15 = true) = true := by
  decide +kernel
theorem test_engine_parity : gives (.engineParity 9 3) working (fun t => t.fbit .ENG_PARITY_TP 0 3 = true ∧ t.fld .ENG_ERR_COUNT = 1) = true := by
  decide +kernel
theorem test_parity_faults : gives (.fabricParity 3 0) working (fun t => (t.flight 3).any (fun x => x.status = 0x30 && x.cause = 0x0C)) = true ∧
    gives (.engineParity 4 3) working (fun t => (t.flight 4).any (fun x => x.status = 0x30 && x.cause = 0x0D)) = true := by decide +kernel
theorem test_mixer_parity : gives (.mixerParity 9 0) working (fun t => t.fbit .MIXER_LIVE 0 0 = true ∧ t.fbit .MIX_PARITY 0 0 = true) = true := by
  decide +kernel
theorem test_scan : gives (.fenceScan 15) (setAll working [(.KV_STAT_SCAN, 0, 1)]) (fun t => t.flag .KV_STAT_SCAN = false) = true := by decide +kernel

/-! ### Embers -/

/-- An ember instruction word (Table 8.1); the channel of class 0x7 stands where WIDTH does. -/
def emWord (opc rd rs1 rs2 func wid imm : Nat) : Word128 :=
  BitVec.ofNat 128 (opc + rd * 2 ^ 10 + rs1 * 2 ^ 14 + rs2 * 2 ^ 18 + func * 2 ^ 22 + wid * 2 ^ 26 + imm * 2 ^ 32)
/-- Ember 5 of hearth 0 stands before `w`, with A2 and A3. -/
def emberAt (s : State) (w : Word128) (a2 a3 : Nat) : State :=
  s.setEmber 5 { live := true, pc := 0x1000010000, win := [w], regs := [(2, BitVec.ofNat 64 a2), (3, BitVec.ofNat 64 a3)] }
/-- What holds of the ember that can issue. -/
def readyTo (s : State) (q : State → Ember → Word128 → Bool) : Bool :=
  match s.ready 5 with
  | (p, some (m, some w)) => q p m w
  | _ => false
def passes {α : Type} (c : Chk α) : Bool :=
  match c with
  | .ok _ => true
  | .error _ => false
/-- Its checks pass and its PC leads on. -/
def goes0 (s : State) (opc : Nat) : Bool :=
  readyTo s fun p m w => wordOpc w = opc && passes (p.check0 m.hearth w) && passes (p.pcCheck m.hearth (m.pc + 16))

theorem test_ember_forms :
    goes0 (emberAt opened (emWord 0 4 2 3 11 0 0) 1 2) 0 = true ∧ goes0 (emberAt opened (emWord 1 4 2 3 0 2 0) 1 2) 1 = true ∧
    goes0 (emberAt opened (emWord 2 4 2 0 0 3 0) 0x1000000000 2) 2 = true ∧ goes0 (emberAt opened (emWord 3 0 2 4 0 6 0) 0x1000000000 2) 3 = false ∧
    goes0 (emberAt opened (emWord 3 0 2 8 0 6 0) 0x1000000000 2) 3 = true ∧ goes0 (emberAt opened (emWord 4 0 0 0 0 0 0) 0 0) 4 = true ∧
    goes0 (emberAt opened (emWord 5 4 0 0 0 0 0) 0 0) 5 = true ∧ goes0 (emberAt opened (emWord 6 0 0 0 0 0 0) 0 0) 6 = true ∧
    goes0 (emberAt opened (emWord 7 4 2 3 0 0 0) 0x1000000000 2) 7 = true ∧ goes0 (emberAt opened (emWord 8 0 0 0 0 0 0) 0 0) 8 = true ∧
    goes0 (emberAt opened (emWord 9 4 0 0 4 0 0) 0 0) 9 = true := by decide +kernel
theorem test_branches :
    readyTo (emberAt opened (emWord 1 4 2 3 0 4 2) (2 ^ 64 - 1) 1) (fun p m w => passes (p.pcCheck m.hearth (m.pc + 32)) &&
      (BitVec.ofNat 64 (m.a (wRs2 w))).sle (BitVec.ofNat 64 (m.a (wRs1 w))) == false) = true ∧
    readyTo (emberAt opened (emWord 1 4 2 3 0 6 2) (2 ^ 64 - 1) 1) (fun _ m w => (BitVec.ofNat 64 (m.a (wRs2 w))).ule (BitVec.ofNat 64 (m.a (wRs1 w)))) = true := by
  decide +kernel
/-- Table 8.2: A4 = A2 + A3 + IMM wraps. -/
theorem test_alu_wraps : gives (.alu 5) (emberAt opened (emWord 0 4 2 3 0 0 1) (2 ^ 64 - 1) 3) (fun t => (t.ember 5).a 4 = 3 ∧ (t.ember 5).pc = 0x1000010010) = true := by
  decide +kernel
theorem test_alu_zero_register : gives (.alu 5) (emberAt opened (emWord 0 0 2 3 0 0 1) 1 3) (fun t => (t.ember 5).a 0 = 0) = true := by decide +kernel
theorem test_br : gives (.br 5) (emberAt opened (emWord 1 4 2 3 0 6 2) (2 ^ 64 - 1) 1) (fun t => (t.ember 5).pc = 0x1000010020 ∧ (t.ember 5).a 4 = 0x1000010010) = true := by
  decide +kernel
theorem test_order_sl : gives (.orderSl 5) (emberAt opened (emWord 4 0 0 0 0 0 0) 0 0) (fun t => (t.ember 5).epoch = 1 ∧ (t.ember 5).pc = 0x1000010010) = true := by
  decide +kernel
theorem test_emb_info : gives (.embInfo 5) (emberAt opened (emWord 9 4 0 0 0 0 0) 0 0) (fun t => (t.ember 5).a 4 = 5) = true := by decide +kernel

/-- A ready ember with a local store before its last `order.sl` (R269). -/
def slHeld (s : State) : State := s.setEmber 5 { s.ember 5 with epoch := 1, buf := [{ addr := 0x1000000200, bytes := [1], epoch := 0 }] }
/-- Pipe 0 has as many open reads under way as it may (Table 12.1). -/
def crowded (s : State) : State :=
  { s with xb := (List.range 384).map fun k => { id := k + 1, master := 0, tid := k, write := false, qos := 0, port := 0, beats := 1, since := 0, lat := 999, got := some 0 } }
theorem test_loads :
    readyTo (emberAt opened (emWord 2 4 2 0 0 3 0) 0x1000000000 2) (fun p m w => passes (p.memCheck m.hearth ((m.a (wRs1 w) + wImm w) % 2 ^ 64) (2 ^ wWid w) .r) &&
      p.onChip ((m.a (wRs1 w) + wImm w) % 2 ^ 64) && p.mayAccess m ((m.a (wRs1 w) + wImm w) % 2 ^ 64) (2 ^ wWid w) && p.tidRoom 0 false false) = true ∧
    readyTo (slHeld (emberAt opened (emWord 2 4 2 0 0 3 0) 0x1000000000 2)) (fun p m w => passes (p.check0 m.hearth w) &&
      !p.mayAccess m ((m.a (wRs1 w) + wImm w) % 2 ^ 64) (2 ^ wWid w)) = true ∧
    readyTo (crowded (emberAt opened (emWord 2 4 2 0 0 3 0) 0x1000000000 2)) (fun p m _ => !p.tidRoom 0 false false && !m.planned) = true ∧
    readyTo (emberAt opened (emWord 2 4 2 0 0 3 0) 0x1000000004 2) (fun p m w => !passes (p.memCheck m.hearth ((m.a (wRs1 w) + wImm w) % 2 ^ 64) (2 ^ wWid w) .r)) = true ∧
    up.fld .EMB_FAULT_COUNT + 1 < 2 ^ Fld.width .EMB_FAULT_COUNT := by decide +kernel
/-- Hearth 0 may reach node 1 by link 23. -/
def routed : State :=
  setAll (openWin opened 3 0x10 0xA000) [(.WIN_BASE_HI_REMOTE, 3, 1), (.WIN_BASE_HI_NODE, 3, 1), (.MEMBER, 0, 3), (.RT_LINKS, 1, 0x800000)]
theorem test_remote_load :
    readyTo (emberAt routed (emWord 2 4 2 0 0 3 0) (2 ^ 48 + 0x1000000000) 2) (fun p m w =>
      passes (p.memCheck m.hearth ((m.a (wRs1 w) + wImm w) % 2 ^ 64) (2 ^ wWid w) .r) && !p.onChip ((m.a (wRs1 w) + wImm w) % 2 ^ 64) &&
      !p.farStore 5 ((m.a (wRs1 w) + wImm w) % 2 ^ 64) (2 ^ wWid w) &&
      ((p.spend 5).postRead ((m.a (wRs1 w) + wImm w) % 2 ^ 64) (2 ^ wWid w) (p.emberRemote 5)).2 == .sent) = true := by decide +kernel
/-- The ember waits for a load into A4, of a width; its request 1 has been granted and is done with. -/
def loadingAt (ga wid : Nat) (sg : Bool) : State :=
  (opened.setBytes 0x1000000000 [0x80, 0xFF, 3]).setEmber 5 { live := true, pc := 0x1000010010, wait := .load ga wid 4 sg false 0 (some 1) }
theorem test_load_returns : let s := loadingAt 0x1000000000 0 true
    (s.ember 5).wait = .load 0x1000000000 0 4 true false 0 (some 1) ∧ s.onChip 0x1000000000 = true ∧ s.astir = false ∧
    s.fenced (localOf 0x1000000000) (2 ^ 0) = false ∧
    (setAll (loadingAt 0 0 true) [(.FEN_LIVE, 0, 0)]).fenced (localOf 0) (2 ^ 0) = true ∧ (setAll (loadingAt 0 0 true) [(.FEN_LIVE, 0, 0)]).astir = false ∧
    regionOf (localOf 0x1000000000) ≠ some .mirror ∧ s.bytes (localOf 0x1000000000) (2 ^ 0) = [0x80] ∧
    (routed.onChip (2 ^ 48) = false) ∧ cached (addressed (2 ^ 48) [7, 8]) (2 ^ 48) 2 = some [7, 8] := by decide +kernel
/-- R262: a signed byte load extends; an unsigned one does not. -/
theorem test_load_signed : gives (.loadReturn 5) (loadingAt 0x1000000000 0 true) (fun t => (t.ember 5).a 4 = 2 ^ 64 - 0x80) = true := by decide +kernel
theorem test_load_unsigned : gives (.loadReturn 5) (loadingAt 0x1000000000 1 false) (fun t => (t.ember 5).a 4 = 0xFF80) = true := by decide +kernel
theorem test_load_wide : gives (.loadReturn 5) (loadingAt 0x1000000000 4 false) (fun t => (t.ember 5).a 4 = 0x3FF80 ∧ (t.ember 5).a 5 = 0) = true := by decide +kernel

theorem test_stores :
    readyTo (emberAt opened (emWord 3 0 2 3 0 1 0) 0x1000000000 0x1234) (fun p m w => passes (p.memCheck m.hearth ((m.a (wRs1 w) + wImm w) % 2 ^ 64) (2 ^ wWid w) .w) &&
      m.buf.length < 8) = true ∧ 8 ≤ (List.replicate 8 (⟨0, [], 0, 0⟩ : Store)).length ∧
    readyTo ((emberAt opened (emWord 3 0 2 3 0 1 0) 0x1000000000 0x1234).setEmber 5
        { (emberAt opened (emWord 3 0 2 3 0 1 0) 0x1000000000 0x1234).ember 5 with buf := List.replicate 8 ⟨0x1000000100, [1], 0, 0⟩ })
      (fun p m w => passes (p.check0 m.hearth w) && 8 ≤ m.buf.length) = true := by decide +kernel
theorem test_st : gives (.st 5) (emberAt opened (emWord 3 0 2 3 0 1 0) 0x1000000000 0x1234) (fun t => (t.ember 5).buf.map (·.bytes) = [[0x34, 0x12]]) = true := by
  decide +kernel
/-- The ember with one store in its buffer, or on its way. -/
def storing (ga : Nat) (buf : Bool) : State :=
  routed.setEmber 5 { live := true, pc := 0x1000010010, buf := if buf then [⟨ga, [1, 2], 0, 0⟩] else [], air := if buf then [] else [⟨ga, [1, 2], 0, 0⟩] }
theorem test_drains : let s := storing 0x1000000000 true
    ((s.ember 5).buf[(0 : Fin 8).val]? = some ⟨0x1000000000, [1, 2], 0, 0⟩) ∧ s.mayDrain (s.ember 5) 0 ⟨0x1000000000, [1, 2], 0, 0⟩ = true ∧ (s.ember 5).draining = false ∧
    s.onChip 0x1000000000 = true ∧ s.onChip (2 ^ 48) = false ∧ s.astir = false ∧ s.tidRoom 0 true false = true ∧
    (storing 0x1000000000 false).astir = false ∧ s.fenced (localOf 0x1000000000) 2 = false ∧
    (s.postWrite (2 ^ 48 + 0x1000000000) [1, 2] (s.emberRemote 5)).2 = .sent ∧
    (((storing 0x1000000000 false).ember 5).air[0]? = some ⟨0x1000000000, [1, 2], 0, 0⟩) ∧ (s.ember 5).live = true := by decide +kernel
theorem test_store_drain : gives (.storeDrain 5 0) (storing 0x1000000000 true) (fun t => (t.ember 5).buf = [] ∧ (t.ember 5).air.map (·.req) = [1]) = true := by decide +kernel
theorem test_store_visible : gives (.storeVisible 5 0) (storing 0x1000000000 false) (fun t => t.bytes 0x1000000000 3 = [1, 2, 0] ∧ (t.ember 5).air = []) = true := by
  decide +kernel
theorem test_fences :
    readyTo (emberAt opened (emWord 5 4 0 0 0 0 0) 0 0) (fun p m _ => m.storesOut && !p.writing (.ember 5 (p.emberTag 5))) = true ∧
    ((storing 0x1000000000 true).ember 5).storesOut = false ∧
    readyTo (slHeld (emberAt opened (emWord 5 4 0 0 0 0 0) 0 0)) (fun p m w => !m.storesOut && passes (p.check0 m.hearth w)) = true ∧ (∀ b ∈ ([] : List Store), opened.onChip b.addr = false) ∧
    (let s := opened.setEmber 5 { live := true, backdrafts := 2, wait := .orderG 4 false }
     (s.ember 5).wait = .orderG 4 false ∧ (s.ember 5).storesOut = true ∧ s.writing (.ember 5 (s.emberTag 5)) = false) := by decide +kernel
theorem test_order_g : gives (.orderG 5) (opened.setEmber 5 { live := true, backdrafts := 2, wait := .orderG 4 false })
    (fun t => (t.ember 5).a 4 = 2 ∧ (t.ember 5).backdrafts = 0) = true := by decide +kernel
theorem test_sync_i : gives (.syncI 5) (emberAt opened (emWord 6 0 0 0 0 0 0) 0 0) (fun t => (t.ember 5).win = [] ∧ 24 ≤ (t.ember 5).next) = true := by decide +kernel

/-- EMBER_START of hearth 0 at a PC with A1. -/
def startOf (pc a1 : Nat) : Taken := ⟨0, 0, 0, leBytes 8 2 ++ leBytes 8 pc ++ leBytes 8 a1 ++ List.replicate 40 0⟩
/-- Hearth 0 may have embers. -/
def roomy : State := setAll queued [(.HEARTH_CFG, 0, 2)]
/-- Hearth 0 may have none. -/
def tight : State := setAll queued [(.HEARTH_CFG, 0, 0)]
theorem test_ember_starts : let s := taking roomy (startOf 0x1000010000 7)
    s.takenCmd 0 0x02 = some (startOf 0x1000010000 7) ∧ (s.placeEmber 0 none).isSome = true ∧ passes (s.pcCheck 0 (recNum (startOf 0x1000010000 7).bytes 8 8)) = true ∧
    tight.placeEmber 0 none = none ∧
    readyTo (emberAt roomy (emWord 7 4 2 3 0 0 0) 0x1000020000 9) (fun p m w => passes (p.pcCheck m.hearth ((m.a (wRs1 w) + wImm w) % 2 ^ 64)) &&
      (p.placeEmber m.hearth (if (wFunc w).testBit 3 then some (wFunc w % 8) else none)).isSome) = true ∧
    readyTo (emberAt tight (emWord 7 4 2 3 0 0 0) 0x1000020000 9) (fun p m w =>
      (p.placeEmber m.hearth (if (wFunc w).testBit 3 then some (wFunc w % 8) else none)).isNone) = true ∧
    emberArm 5 (wordOpc (emWord 0x0A 0 0 0 0 0 0)) = none ∧ readyTo (emberAt opened (emWord 0x0A 0 0 0 0 0 0) 0 0) (fun _ _ _ => true) = true ∧
    ((opened.setEmber 5 { live := true, pc := 0x20 }).ready 5).2.map (·.2) = some none ∧ passes (opened.pcCheck 0 0x20) = false := by decide +kernel
theorem test_release_items : (opened.ember (7 * 256 + 224 + 31)).live = false ∧ (opened.ember (7 * 256 + 224 + 31)).offBus = true ∧
    passes (opened.pcCheck 0 0x1000010000) = true ∧
    ((opened.setChan 63 { pln := { xfer := some { ctx := {}, ptr := none } } }).chan 63).pln.xfer.isSome = true := by decide +kernel
/-- Nothing is astir while an ember waits for its pipe, and one that finds it taken issues a cycle later (R265). -/
theorem test_pipe : (emberAt opened (emWord 0 4 2 3 0 0 1) 1 2).astir = false ∧
    gives (.alu 5) { emberAt opened (emWord 0 4 2 3 0 0 1) 1 2 with pipes := [(0, 3)] } (fun t => t.clk = 3 ∧ (t.ember 5).a 4 = 4) = true := by decide +kernel
theorem test_ember_start : gives (.emberStart 0) (taking roomy (startOf 0x1000010000 7)) (fun t => t.embers.map (fun e => (e.2.pc, e.2.a 1)) = [(0x1000010000, 7)]) = true := by
  decide +kernel
theorem test_spawn_full : gives (.embSpawn 5) (emberAt tight (emWord 7 4 2 3 0 0 0) 0x1000020000 9) (fun t => (t.ember 5).a 4 = 2 ^ 64 - 1) = true := by decide +kernel
theorem test_exit : gives (.embExit 5) (emberAt opened (emWord 8 0 0 0 0 0 0) 0 0) (fun t => (t.ember 5).live = false ∧ (t.ember 5).incarn = 1) = true := by decide +kernel
theorem test_fault : gives (.emberFault 5) (emberAt opened (emWord 0x0A 0 0 0 0 0 0) 0 0) (fun t => (t.ember 5).live = false ∧ t.fld .EMB_FAULT_COUNT = 1) = true := by
  decide +kernel

/-! ### Streams -/

/-- Hearth 0 owns channel 63, whose ring of 16 entries at the start of the staging SRAM is in a mode. -/
def ringed (mode own peer : Nat) : State :=
  setAll opened [(.CHAN_MASK_HI, 0, 0x80000000), (.RING_CFG_MODE, 63, mode), (.RING_CFG_LOG2N, 63, 4), (.RING_BASE, 63, 0x1000000000),
    (.RING_OWN_IDX, 63, own), (.RING_PEER_IDX, 63, peer), (.STRM_CFG_IN_SRC, 63, 2)]
def goes7 (s : State) (opc : Nat) : Bool :=
  readyTo s fun p m w => wordOpc w = opc && passes (p.check7 m.hearth m.planned w) && passes (p.pcCheck m.hearth (m.pc + 16))
theorem test_stream_forms :
    goes7 (emberAt (ringed 0 0 0) (emWord 0x70 0 2 0 1 63 0) 1 2) 0x70 = true ∧ goes7 (emberAt (ringed 2 1 0) (emWord 0x71 4 2 0 0 63 0) 1 2) 0x71 = true ∧
    goes7 (emberAt (ringed 4 0 1) (emWord 0x72 2 0 0 0 63 0) 1 2) 0x72 = true ∧
    goes7 (emberAt opened (emWord 0x73 0 2 3 0 0 7) 0x1000000000 0x1000000100) 0x73 = true ∧
    goes7 (emberAt (ringed 0 0 0) (emWord 0x74 4 0 0 3 63 0) 0 0) 0x74 = true ∧ goes7 (emberAt opened (emWord 0x75 4 0 0 3 0 0) 0 0) 0x75 = true := by decide +kernel
theorem test_strm_push : readyTo (emberAt (ringed 0 0 0) (emWord 0x70 0 2 0 1 63 0) 1 2) (fun p m w =>
      decide ((p.dctx (wCh w) false).fifo.length + (m.wide (wRs1 w) (8 * pushRegs w)).length ≤ 4096)) = true ∧
    gives (.strmPush 5) (emberAt (ringed 0 0 0) (emWord 0x70 0 2 0 1 63 0) 1 2) (fun t => (t.dctx 63 false).fifo.map (·.2) = leBytes 8 1 ++ leBytes 8 2) = true := by
  decide +kernel
theorem test_strm_full : readyTo ((emberAt (ringed 0 0 0) (emWord 0x70 0 2 0 1 63 0) 1 2).setChan 63 { opn := { fifo := List.replicate 4090 (0, 0) } })
    (fun p m w => decide (4096 < (p.dctx (wCh w) false).fifo.length + (m.wide (wRs1 w) (8 * pushRegs w)).length)) = true := by decide +kernel
theorem test_ring_puts : (∀ r ∈ [(1, 16), (0, 16)], readyTo (emberAt (ringed 2 r.2 0) (emWord 0x71 4 2 0 r.1 63 0) 7 8) (fun p m w =>
      bnum (m.wide (wRs1 w) 16) 15 1 = 0 && !p.ringBusy (wCh w) && p.ringFull (wCh w)) = true) ∧
    readyTo (emberAt (ringed 2 1 0) (emWord 0x71 4 2 0 0 63 0) 7 8) (fun p m w => bnum (m.wide (wRs1 w) 16) 15 1 = 0 && !p.ringBusy (wCh w) &&
      !p.ringFull (wCh w) && passes (p.access m.hearth (p.ringEntry (wCh w) (p.fld .RING_OWN_IDX (wCh w))) 16 .w) &&
      p.onChip (p.ringEntry (wCh w) (p.fld .RING_OWN_IDX (wCh w))) && !p.flag .RING_CFG_PEER_WR (wCh w) && !wCq w &&
      !p.slHolds m) = true := by decide +kernel
theorem test_ring_put : gives (.ringPut 5) (emberAt (ringed 2 17 2) (emWord 0x71 4 2 0 0 63 0) 7 8)
    (fun t => t.bytes 0x1000000010 16 = leBytes 8 7 ++ leBytes 7 8 ++ [1] ∧ t.fld .RING_OWN_IDX 63 = 18 ∧ (t.ember 5).a 4 = 0) = true := by decide +kernel
theorem test_ring_gets : readyTo (emberAt (ringed 4 0 0) (emWord 0x72 2 0 0 1 63 0) 7 8) (fun p _ w => p.ringHeld (wCh w) = 0 && (wFunc w).testBit 0) = true ∧
    readyTo (emberAt (ringed 4 0 1) (emWord 0x72 2 0 0 0 63 0) 7 8) (fun p m w => p.ringHeld (wCh w) != 0 && !p.flag .RING_CFG_PEER_WR (wCh w) &&
      passes (p.access m.hearth (p.ringEntry (wCh w) (p.fld .RING_OWN_IDX (wCh w))) 16 .r) && !p.flag .RING_STAT_HALTED (wCh w) && !p.slHolds m &&
      p.num (localOf (p.ringEntry (wCh w) (p.fld .RING_OWN_IDX (wCh w))) + 15) 1 % 2 = p.ringPhase (wCh w) (p.fld .RING_OWN_IDX (wCh w))) = true := by decide +kernel
theorem test_ring_get : gives (.ringGet 5) (emberAt ((ringed 4 0 1).setBytes 0x1000000000 [9, 0, 0, 0, 0, 0, 0, 0, 6]) (emWord 0x72 2 0 0 0 63 0) 7 8)
    (fun t => (t.ember 5).a 2 = 9 ∧ (t.ember 5).a 3 = 6 ∧ t.fld .RING_OWN_IDX 63 = 1) = true := by decide +kernel
theorem test_reed_state : readyTo (emberAt opened (emWord 0x73 0 2 3 0 0 7) 0x1000000000 0x1000000100) (fun p m w =>
      passes (p.reedCheck m.hearth (m.a (wRs1 w)) (m.a (wRs2 w)) (reedLen w)) && p.mayAccess m (m.a (wRs1 w)) (reedLen w) &&
      p.mayAccess m (m.a (wRs2 w)) (reedLen w) && decide (p.reedsOn (5 / 256) < 16) &&
      ((p.spend 5).reedCharge ((p.spend 5).ember 5) (m.a (wRs1 w)) (m.a (wRs2 w)) (reedLen w)).any fun q =>
        (q.reedAsk 5 (m.a (wRs1 w)) (reedLen w) (wFunc w / 2)).any fun a => match a with | .ok (_, id) => id = 1 | .error _ => false) = true := by
  decide +kernel
/-- A copy of 8 bytes whose requests have been granted and are done with; its source is there, or is not yet. -/
def copying8 (data : Option (List Byte)) : State :=
  let r : Reed := { pc := 0x1000010000, src := 0x1000000000, dst := 0x1000000100, n := 8, prio := 0, nowait := false, cq := false, epoch := 0,
                    req := 1, data := data, wreq := data.map fun _ => 2 }
  (opened.setBytes 0x1000000000 [1, 2, 3]).setEmber 5 { live := true, pc := 0x1000010010, wait := .reed, reeds := [r] }
theorem test_reed_steps : (∀ d ∈ [none, some [7]], ((copying8 d).ember 5).reeds.length = 1 ∧ ((copying8 d).xbGot 1).isSome = true ∧ ((copying8 d).xbGot 2).isSome = true ∧
      (copying8 d).xbDue 1 12 ≤ (copying8 d).clk ∧ (copying8 d).portFree (localOf 0x1000000000) ≤ (copying8 d).clk ∧ (copying8 d).fenced (localOf 0x1000000100) 8 = false ∧
      ((copying8 d).ember 5).planned = false) ∧
    ((State.reedStep 5 0 (copying8 none)).ember 5).reeds.map (·.data) = [some [1, 2, 3, 0, 0, 0, 0, 0]] ∧
    (State.reedStep 5 0 (copying8 (some [7]))).bytes 0x1000000100 2 = [7, 0] ∧ ((State.reedStep 5 0 (copying8 (some [7]))).ember 5).wait = .none := by decide +kernel
theorem test_reed_cp : gives (.reedCp 5) (emberAt (opened.setBytes 0x1000000000 [1, 2, 3, 4, 5, 6, 7, 8, 9]) (emWord 0x73 0 2 3 0 0 7) 0x1000000000 0x1000000100)
    (fun t => t.bytes 0x1000000100 9 = [1, 2, 3, 4, 5, 6, 7, 8, 0]) = true := by decide +kernel
theorem test_order_sl_holds : readyTo (slHeld (emberAt (ringed 4 0 1) (emWord 0x72 2 0 0 0 63 0) 7 8)) (fun p m w => p.slHolds m &&
      passes (p.check7 m.hearth m.planned w) && passes (p.pcCheck m.hearth (m.pc + 16)) && p.ringHeld (wCh w) != 0 &&
      passes (p.access m.hearth (p.ringEntry (wCh w) (p.fld .RING_OWN_IDX (wCh w))) 16 .r)) = true ∧
    gives (.ringGet 5) (slHeld (emberAt (ringed 4 0 1) (emWord 0x72 2 0 0 0 63 0) 7 8)) (fun t => t.fld .RING_OWN_IDX 63 = 0) = true := by decide +kernel
theorem test_pre_heat : gives (.preHeat 5) (emberAt (ringed 0 0 0) (emWord 0x74 4 0 0 3 63 0) 0 0)
      (fun t => (t.slHolds (t.ember 5) = false ∧ t.heatSt 3 = 1) ∧ (t.chan 63).queue.map (·.heat) = [some 3] ∧ (t.ember 5).a 4 = 0) = true ∧
    gives (.preHeat 5) (emberAt ((ringed 0 0 0).setHeat 3 1) (emWord 0x74 4 0 0 3 63 0) 0 0) (fun t => (t.ember 5).a 4 = 0x10 ∧ (t.chan 63).queue = []) = true := by
  decide +kernel
theorem test_heat_wait : gives (.heatWait 5) (emberAt (opened.setHeat 3 2) (emWord 0x75 4 0 0 3 0 0) 0 0) (fun t => (t.ember 5).a 4 = 2 ∧ (t.ember 5).wait = .none) = true ∧
    gives (.heatWait 5) (emberAt (opened.setHeat 3 1) (emWord 0x75 4 0 0 3 0 0) 0 0) (fun t => (t.ember 5).wait = .heat 3 4 false) = true ∧
    gives (.heatWait 5) ((opened.setHeat 3 3).setEmber 5 { live := true, wait := .heat 3 4 false }) (fun t => (t.ember 5).a 4 = 3) = true := by decide +kernel

/-! ### Engines and tile moves -/

/-- A tile-form word: formats, D0 and D1, unit, (FILE, ROW) of DST, SRC_A and SRC_B (Table 5.4). -/
def tileWord (opc elem opx d0 d1 unit dr ar br bfile afile dfile aux : Nat) : Word128 :=
  BitVec.ofNat 128 (opc + 256 + elem * 2 ^ 16 + opx * 2 ^ 24 + (d0 - 1) * 2 ^ 32 + (d1 - 1) * 2 ^ 40 + unit * 2 ^ 48 +
    (dfile + dr * 8) * 2 ^ 64 + (afile + ar * 8) * 2 ^ 80 + (bfile + br * 8) * 2 ^ 96 + aux * 2 ^ 112)
/-- An ember of an expert hearth stands before a word. -/
def engineAt (w : Word128) : State := emberAt (setAll opened [(.EXPERT_CTL_TENANT_EXPERT, 0, 1)]) w 0 0
/-- The same with bytes in row 16 of logical unit 0 of its class (SRC_B). -/
def paramAt (w : Word128) (bs : List Byte) : State := (engineAt w).setBytes (rowAddr (wordClass w) 0 16) bs
/-- A descriptor-form word of rank 1: formats and the three pointers. -/
def descWord (opc elem opx src dst aux : Nat) : Word128 :=
  BitVec.ofNat 128 (opc + 1024 + elem * 2 ^ 16 + opx * 2 ^ 24 + aux * 2 ^ 32 + src * 2 ^ 64 + dst * 2 ^ 96)
/-- A 64-byte block: its first bytes. -/
def block64 (bs : List Byte) : List Byte := bs ++ List.replicate (64 - bs.length) 0
/-- A layout of `n` 8-bit integers in one tile. -/
def layout8 (base n : Nat) : List Byte :=
  block64 ([1, 1, 0x0A, 1, 0, 0, 0, 0] ++ leBytes 8 base ++ leBytes 4 n ++ List.replicate 20 0 ++ leBytes 1 (n - 1))
/-- A pointer to 64-byte place `k`, GEN 1. -/
def ptrTo (k : Nat) : Nat := k + 2 ^ 22

/-- One word of each opcode on logical unit 0 (`bp.color` in the descriptor form), and what lies in SRC_B. -/
def words : List (Nat × Word128 × List Byte) :=
  let t (opc elem opx d0 d1 : Nat) (b : Bool) : Word128 := tileWord opc elem opx d0 d1 0 0 8 16 (if b then opc / 16 - 1 else 0) (opc / 16 - 1) (opc / 16 - 1) 0
  [(0x10, tileWord 0x10 0x0A 0 32 4 0 0 8 0 0 1 1 1, []), (0x11, tileWord 0x11 0x0A 0 32 4 0 0 0 0 0 0 1 0, []),
   (0x20, t 0x20 0x0A 0 32 4 true, []), (0x21, t 0x21 0x0A 0 32 4 true, []), (0x22, t 0x22 0x0A 0 32 4 true, []), (0x23, t 0x23 0x0A 0 32 4 true, []),
   (0x24, t 0x24 0x13 0 32 4 true, []), (0x25, t 0x25 0x0A 0 32 4 true, []), (0x26, t 0x26 0x0A 0 32 4 true, []), (0x30, t 0x30 0x0A 0 32 4 false, []),
   (0x40, t 0x40 0x0A 0 32 4 true, [0x11]), (0x50, t 0x50 0x06 0x0A 32 4 false, []), (0x51, t 0x51 0x0A 0x06 32 4 false, []),
   (0x52, t 0x52 0x0A 3 32 4 false, []), (0x53, t 0x53 0x0A 3 32 4 false, []), (0x54, t 0x54 0x0A 0 32 4 false, []), (0x55, t 0x55 0x0A 0 4 32 false, []),
   (0x56, descWord 0x56 0x0A 0x0A (ptrTo 16) (ptrTo 17) (ptrTo 18), []),
   (0x60, t 0x60 0x13 0x13 32 4 true, [0x13, 0, 0, 0, 3]), (0x61, t 0x61 0x13 0x13 32 4 true, [0x13, 0, 0, 0, 0, 0, 0xFF, 0, 0, 0, 0, 0, 0, 0, 0, 0, 1]),
   (0x62, t 0x62 0x13 0x13 32 4 true, [0x13, 0, 0, 0, 0, 0, 0, 2, 0, 0, 0, 0, 0, 0, 0, 0, 1]),
   (0x63, t 0x63 0x13 0x13 32 4 true, [0x13, 0, 0, 0, 0, 0, 0, 0, 0, 0, 0, 0, 0, 0, 0, 0, 1]), (0x64, t 0x64 0x13 0x13 32 4 false, [])]

/-- The state before such a word, with layouts and a colour block behind the pointers. -/
def before (e : Nat × Word128 × List Byte) : State :=
  (paramAt e.2.1 e.2.2).setBytes 0x1000000400
    (layout8 0x1000002000 6 ++ layout8 0x1000003000 6 ++ [0x12, 1, 0, 0, 1, 0, 0, 0, 2, 0, 0, 0, 1])

/-- The job of ember 5 passes its checks, and `q` holds of what it is to do. -/
def passing (s : State) (opc : Nat) (q : State → Job → Prog → Bool) : Bool :=
  match s.takeJob (.ember 5) opc with
  | .job p j => (match workOf opc p j with
    | .ok g => q p j g
    | .error _ => false)
  | _ => false
/-- It finds its units, none of them dead, and its sources are here. -/
def issues (s : State) (opc : Nat) : Bool :=
  passing s opc fun p j g => p.mayIssue j g && passes (p.blockFor j p.flightNext) && match g with
    | .tile r _ => r.sides.all fun d => (p.deadBehind (d.cls % 16) d.unit).isNone
    | .desc d => d.flaw.isNone && d.reads.all (fun r => p.onChip r.1) && (p.planUnits j).all fun u => (p.deadBehind (wordClass j.word) u).isNone

theorem test_words_issue : words.all (fun e => issues (before e) e.1) = true := by decide +kernel
theorem test_order_sl_holds_classes : issues (slHeld (before (words.getD 1 default))) 0x11 = false ∧
    issues (((slHeld (before (words.getD 1 default))).setEmber 5 { (slHeld (before (words.getD 1 default))).ember 5 with buf := [] })) 0x11 = true := by
  decide +kernel
/-- Both sides of unit 0 of a word's class are taken for 9 cycles. -/
def busy (e : Nat × Word128 × List Byte) : State := (before e).setSide (wordClass e.2.1) 0 9 9
theorem test_busy_unit : passing (busy (words.getD 9 default)) 0x30 (fun p j g => !p.mayIssue j g) = true := by decide +kernel
/-- A command of hearth 0 with a word. -/
def commanded (w : Word128) : State := opened.setHearth 0 { iq := [⟨{}, w, false, 0, false⟩] }
theorem test_failing_command : (match (commanded (tileWord 0x30 0x0A 0 32 4 0 0 8 0 0 2 2 0)).takeJob (.queue 0) 0x30 with
    | .job p j => !passes (workOf 0x30 p j) && j.ctx.origin = 0
    | _ => false) = true ∧
    (match (emberAt opened (tileWord 0x30 0x0A 0 32 4 0 0 8 0 0 2 2 0) 0 0).takeJob (.ember 5) 0x30 with
    | .job p j => !passes (workOf 0x30 p j) && j.ctx.origin = 1 && (p.ember j.ctx.ember).live && p.emberTag j.ctx.ember = j.ctx.tag
    | _ => false) = true := by decide +kernel
/-- What the word's flight writes first, where and its first `n` bytes, in an uninterrupted run on the rows as they stand at its issue. -/
def written (s : State) (opc n : Nat) : Option (Nat × List Byte) :=
  match s.takeJob (.ember 5) opc with
  | .job p j => (match workOf opc p j with
    | .ok (.tile r range) =>
      (p.tileNew { id := 0, ctx := j.ctx, word := j.word, ledger := r.ledger, range := range }).head?.map fun e => (e.1, e.2.take n)
    | _ => none)
  | _ => none
theorem test_mov_t : written ((before (words.getD 0 default)).setBytes (rowAddr 2 0 8) [7, 8]) 0x10 3 = some (rowAddr 2 1 0, [7, 8, 0]) := by decide +kernel
theorem test_mov_z : written ((before (words.getD 1 default)).setBytes (rowAddr 2 0 0) [7, 8]) 0x11 3 = some (rowAddr 2 0 0, [0, 0, 0]) := by decide +kernel
/-- R230: the byte at (1, 0) of the 32 × 4 source becomes (0, 1) of the 4 × 32 result. -/
theorem test_tp_tile : written ((before (words.getD 9 default)).setBytes (rowAddr 3 0 8) [1, 2]) 0x30 5 = some (rowAddr 3 0 0, [1, 0, 0, 0, 2]) := by decide +kernel
/-- R210: lane 0 takes lane 3; index 32 is out of range and gives 0. -/
theorem test_perm_gather : written (((before (words.getD 3 default)).setBytes (rowAddr 2 0 8) [1, 2, 3, 4]).setBytes (rowAddr 2 0 16) [3, 32, 1]) 0x21 3 =
    some (rowAddr 2 0 0, [4, 0, 2]) := by decide +kernel
theorem test_tile_forms : ∀ k ∈ [3, 9], wordTile (words.getD k default).2.1 = true ∧ wOpx (words.getD k default).2.1 = 0 := by decide +kernel
/-- An issue starts a flight with its ledger and changes no byte. -/
theorem test_issue : gives (.tpTile (.ember 5)) ((before (words.getD 9 default)).setBytes (rowAddr 3 0 8) [1, 2])
    (fun t => t.flights.length = 1 ∧ (t.ember 5).wait = .flight 0 ∧ t.bytes (rowAddr 3 0 0) 5 = [0, 0, 0, 0, 0]) = true := by decide +kernel
/-- A flight of ember 5 that has nothing left to do. -/
def flying (status : Nat) : State :=
  { opened.setEmber 5 { live := true, pc := 0x1000010010, wait := .flight 3 } with
    flights := [{ id := 3, ctx := { origin := 1, ember := 5, tag := 5 }, word := 0x21, status := status }] }
theorem test_flights : let x : Flight := { id := 3, ctx := { origin := 1, ember := 5, tag := 5 }, word := 0x21 }
    (flying 0).flight 3 = some x ∧ x.fetching = false ∧ x.ledgerOver = true ∧ x.due ≤ (flying 0).clk ∧ x.out = [] ∧ x.done = .none ∧
    (flying 0).writing (.flight 3) = false ∧ ((flying 0).ember 5).live = true ∧ (flying 0).emberTag 5 = 5 ∧ x.planned = false ∧ x.status ≠ 0x30 ∧
    ((flying 0x30).flight 3).map (fun y => (y.status, y.ledgerOver)) = some (0x30, true) := by decide +kernel
theorem test_completion : gives (.instructionCompletion 3) (flying 0) (fun t => t.flights = [] ∧ (t.ember 5).wait = .none) = true ∧
    gives (.instructionCompletion 3) (flying 0x30) (fun t => t.flights = [] ∧ (t.ember 5).live = false) = true := by decide +kernel
/-- Flight 3 in cycle 5, with a ledger that reads a row of the fabric of unit 0, or with a write that is due. -/
def inRun (acts : List (Nat × Act)) (writes : List RowWrite) : State :=
  { opened.setBytes (rowAddr 2 0 8) [7] with
    clk := 5, flights := [{ id := 3, ctx := {}, word := 0x21, ledger := [(0, .read false (rowAddr 2 0 8) 1024)], acts := acts, writes := writes }] }
theorem test_acts : let s := inRun [(5, .read false (rowAddr 2 0 8) 2), (6, .run)] []
    (s.flight 3).isSome = true ∧ s.flag .TRACE_CTL_ARM = false ∧
      ((s.doActs s 3).flight 3).map (fun x => (x.capA, x.acts.length)) = some ([7, 0], 1) := by decide +kernel
theorem test_row_writes : ∀ m ∈ [true, false], let r : RowWrite := { at_ := 5, move := m, data := [(rowAddr 2 0 0, [9, 8])] }
    ((inRun [] [r]).flight 3).map (·.writes) = some [r] ∧ r.cause = 0 ∧ regionOf (rowAddr 2 0 0) = some .tile ∧ (inRun [] [r]).rowClk ≠ (inRun [] [r]).clk ∧
      (State.doWrites m 3 (inRun [] [r])).bytes (rowAddr 2 0 0) 3 = [9, 8, 0] := by decide +kernel
/-- A piece of flight 3 runs, with its data at hand. -/
def pieceRuns : State :=
  { opened with
    flights := [{ id := 3, ctx := {}, word := 0x430, runs := [{ piece := { no := 1, inC := 4, hold := 4, out0 := 5, total := 9, step := 64,
                                                                           data := some [(0x1000003000, [1, 2])] }, unit := 0, left := 3, tail := 2 }] }] }
theorem test_restarts : gives (.pieceRestart 3) (inRun [(6, .run)] []) (fun t => (t.flight 3).any (fun x => x.again && x.acts.isEmpty)) = true ∧
    (pieceRuns.flight 3).any (fun x => x.ledger.isEmpty && x.acts.isEmpty && x.writes.isEmpty && !x.runs.isEmpty && !x.planned && x.status = 0) = true := by
  decide +kernel

/-! ### DMA and rings -/

/-- A transfer of hearth 0 that descriptor place `k` describes. -/
def xferOf (k : Nat) : Xfer := { ctx := { cq := false, faultCq := false }, ptr := some (ptrTo k) }
/-- A COPY of 64 bytes from 0x1000002000 to 0x1000003000. -/
def copyDesc : List Byte := block64 ([5, 1, 0, 0, 0, 0, 0, 0] ++ leBytes 8 0x1000002000 ++ leBytes 8 0x1000003000 ++ leBytes 4 64)
/-- Channel 63 is enabled and has that transfer in its queue. -/
def dmaReady (k : Nat) : State :=
  ((setAll opened [(.CH_CTRL_ENABLE, 63, 1)]).setChan 63 { queue := [xferOf k] }).setBytes 0x1000000400 copyDesc
theorem test_dma_starts : let s := dmaReady 16
    (s.chan 63).front = some (xferOf 16) ∧ s.mayTake 63 0 = true ∧ (xferOf 16).bad = 0 ∧ (xferOf 16).prio = false ∧ s.dmaStart ≤ s.clk ∧
    (match s.heatGate 63 0 with | some g => passes g | none => false) = true ∧
    (match s.xferImage 63 (xferOf 16) with | .ok b => passes (s.checkDma 0 63 b) | .error _ => false) = true ∧
    passes ((dmaReady 17).xferImage 63 (xferOf 17)) = false ∧ s.fld .DMA_FAULT_COUNT + 1 < 2 ^ Fld.width .DMA_FAULT_COUNT := by decide +kernel
theorem test_dma_start : gives (.dmaTransferStart 63) (dmaReady 16) (fun t => t.chSt 63 = chRunning ∧ (t.chan 63).opn.left = 64 ∧ (t.chan 63).opn.next = 6) = true := by decide +kernel
/-- Channel 63 stands in `st` with `x` in its open and its planned context, in cycle 5. -/
def moving (st : Nat) (x : DmaCtx) : State :=
  { (setAll opened [(.CH_CTRL_ENABLE, 63, 1), (.CH_STAT_STATE, 63, st), (.PSTAT, 63, st)]).setChan 63 { opn := x, pln := x } with clk := 5 }
/-- The COPY with `n` bytes left. -/
def copying (n : Nat) : DmaCtx :=
  { xfer := some (xferOf 16), desc := { src := 0x1000002000, dst := 0x1000003000, len := 64 }, rpos := 0, rleft := n, roff := 64 - n, left := n, checked := true,
    done := 64 - n, due := 4 }
theorem test_dma_ends : let s := moving chRunning (copying 0)
    ∀ planned : Bool, let x := s.dctx 63 planned
    x.xfer = some (xferOf 16) ∧ s.writing (.dma 63 planned) = false ∧ (xferOf 16).ring = none ∧ s.ringMode 63 ≠ 1 ∧ x.ringWait = false ∧
    x.due < s.clk ∧ x.out = [] ∧ s.xferDone 63 planned = true ∧ x.ending = .running ∧ x.backdraft = 0 ∧ (s.chan 63).pwait = [] := by decide +kernel
theorem test_dma_complete : gives (.dmaTransferComplete 63 false) (moving chRunning (copying 0))
    (fun t => t.flag .CH_STAT_DONE 63 = true ∧ t.chSt 63 = chIdle ∧ t.fld .PSTAT 63 = chRunning) = true ∧
    gives (.dmaTransferComplete 63 true) (moving chRunning (copying 0)) (fun t => t.fld .PSTAT 63 = chIdle ∧ t.chSt 63 = chRunning) = true := by decide +kernel
/-- Of the COPY, a read group waits for its sample, a segment may leave, and a write becomes visible. -/
def flowing : State :=
  (moving chRunning { copying 48 with rds := [{ dst := 0x1000003010, n := 16, src := some (0x1000002010, 16), reqs := [1], sample := some 5 }],
                                      ready := [{ dst := 0x1000003000, bytes := List.replicate 64 9, ends := true, unit := true }],
                                      out := [{ ga := 0x1000003100, bytes := [6, 7], req := 2, lat := 12, vis := some 5 }] }).setBytes 0x1000002010 [1, 2]
theorem test_dma_flow : ∀ planned : Bool, (flowing.dctx 63 planned).rds.length = 1 ∧ flowing.fenced (localOf 0x1000002010) 16 = false ∧
    ((State.sampleRead 63 planned 0 flowing).dctx 63 planned).rds.map (fun r => r.data.map (·.take 3)) = [some [1, 2, 0]] ∧
    flowing.consumerOf 63 = none ∧ flowing.onChip 0x1000003000 = true ∧ flowing.tidRoom (8 + 63 / 16) true planned = true ∧
    0 < flowing.nextWrite 63 planned ∧ (State.pollOut 63 planned flowing).bytes 0x1000003100 3 = [6, 7, 0] ∧
    ((State.pollOut 63 planned flowing).dctx 63 planned).out = [] := by decide +kernel
/-- R298: the segment leaves in whole beats. -/
theorem test_dma_write : (flowing.issueWrite 63 false).map (fun t => (t.dctx 63 false).out.map fun o => (o.ga, o.bytes.length)) =
    some [(0x1000003100, 2), (0x1000003000, 64)] := by decide +kernel
/-- An indexed consumer whose producer has faulted. -/
def starved : State :=
  setAll (moving chRunning { copying 1 with desc := { xmode := 2, len := 64, cnt := 1 }, roff := 0, producerFaulted := true }) [(.STRM_CFG_IN_SRC, 63, 1)]
theorem test_dma_stops :
    ((moving chRunning { copying 0 with ending := .fault 1 2 3 4 }).chan 63).opn.ending = .fault 1 2 3 4 ∧ (moving chPausing (copying 16)).pauseReady 63 = true ∧
    (∀ planned : Bool, starved.starves 63 planned = true ∧ (starved.dctx 63 planned).drained = true ∧ (starved.dctx 63 planned).due < starved.clk) ∧
    (starved.chan 63).opn.producerFaulted = true ∧ starved.fld .STREAM_BROKEN_COUNT + 1 < 2 ^ Fld.width .STREAM_BROKEN_COUNT := by decide +kernel
theorem test_dma_fault : gives (.dmaFault 63 true) (moving chRunning { copying 0 with ending := .fault 1 2 3 4 })
    (fun t => t.fld .PSTAT 63 = chFaulted ∧ t.flag .CH_CTRL_ENABLE 63 = false) = true := by decide +kernel
theorem test_stream_broken : gives (.streamBroken 63 false) starved (fun t => t.chSt 63 = chFaulted ∧ t.fld .STREAM_BROKEN_COUNT = 1) = true := by
  decide +kernel
theorem test_dma_paused : gives (.dmaPaused 63) (moving chPausing (copying 16)) (fun t => t.chSt 63 = chPaused ∧ t.fld .REMAIN 63 = 16) = true := by decide +kernel

/-- A finished transfer whose handle waits, on an OUT_DMA ring of `2^n` entries that stands at index `own`. -/
def handled (n own : Nat) : State :=
  setAll (moving chRunning { copying 0 with ringWait := true, xfer := some { ctx := { cq := false, faultCq := false }, ptr := none } })
    [(.RING_CFG_MODE, 63, 1), (.RING_CFG_LOG2N, 63, n), (.RING_BASE, 63, 0x1000006000), (.RING_OWN_IDX, 63, own)]
/-- The same with the planned context free. -/
def alone (s : State) : State := s.setChan 63 { s.chan 63 with pln := {} }
theorem test_rings : let s := alone (handled 4 15)
    let a := s.ringEntry 63 (s.fld .RING_OWN_IDX 63)
    s.xferDone 63 false = true ∧ s.xferDone 63 true = false ∧ (s.chan 63).opn.ringStage = false ∧ (s.chan 63).opn.due < s.clk ∧ (s.chan 63).opn.backdraft = 0 ∧
    s.ringMode 63 = 1 ∧ s.ringBusy 63 = false ∧ s.ringFull 63 = false ∧ passes (s.access 0 a 16 .w) = true ∧
    s.onChip a = true ∧ regionOf (localOf a) ≠ some .mirror ∧ s.flag .RING_CFG_PEER_WR 63 = false ∧ (handled 4 16).ringFull 63 = true := by
  decide +kernel
theorem test_handle : gives (.ringOutHandle 63 false) (alone (handled 4 15)) (fun t => t.bytes 0x10000060F0 9 = [0, 0x30, 0, 0, 0x10, 0, 0, 0, 64] ∧
    t.fld .RING_OWN_IDX 63 = 16 ∧ t.chSt 63 = chIdle) = true := by decide +kernel
theorem test_handle_waits : gives (.ringOutHandle 63 false) (alone (handled 4 16)) (fun t => t.flag .RING_STAT_WAITING 63 ∧ t.fld .RING_OWN_IDX 63 = 16) = true := by
  decide +kernel
/-- An IN_DMA ring of hearth 0 at index `own` with one entry more. -/
def inRing (own : Nat) : State :=
  setAll opened [(.CHAN_MASK_HI, 0, 0x80000000), (.CH_CTRL_ENABLE, 63, 1), (.RING_CFG_MODE, 63, 3), (.RING_CFG_LOG2N, 63, 4), (.RING_BASE, 63, 0x1000006000),
    (.RING_OWN_IDX, 63, own), (.RING_PEER_IDX, 63, own + 1)]
theorem test_in_ring : ∀ own ∈ [0, 16], let s := inRing own
    let i := (s.fld .RING_OWN_IDX 63 + (s.chan 63).ringTaken) % 2 ^ 32
    s.chanOwner 63 = some 0 ∧ s.ringMode 63 = 3 ∧ s.flag .CH_CTRL_ENABLE 63 = true ∧ (s.chan 63).queue.length < 16 ∧
    s.flag .RING_STAT_HALTED 63 = false ∧ (s.chan 63).ringTaken < s.ringHeld 63 ∧ passes (s.access 0 (s.ringEntry 63 i) 16 .r) = true ∧
    (s.num (localOf (s.ringEntry 63 i) + 15) 1 % 2 = s.ringPhase 63 i ↔ own = 0) := by decide +kernel
theorem test_in_ring_phase : gives (.ringInTake 63) (inRing 0) (fun t => (t.chan 63).queue.length = 1) = true ∧
    gives (.ringInTake 63) (inRing 16) (fun t => t.flag .RING_STAT_PHASE_ERR 63) = true := by decide +kernel

/-! ### KV operations and reshards -/

/-- A KV block: SPEC, FLAGS, N_SEQ, ROWS, list at 0x1000007000, RING_CH, ROW_LOG2, FIRST_ROW, N_ROWS, KEEP, MAX_PAGES, PT_ADDR. -/
def kvBlock (spec nSeq rows list log nRows maxPages pt : Nat) : List Byte :=
  block64 ([7, 1] ++ leBytes 1 spec ++ [0] ++ leBytes 2 nSeq ++ leBytes 2 rows ++ leBytes 6 list ++ [0] ++ leBytes 1 log ++ leBytes 4 0 ++ leBytes 4 nRows ++
    leBytes 4 0 ++ leBytes 4 maxPages ++ leBytes 6 pt)
/-- A layout of rank 2 or 3 of 8-bit integers in tiles of 64 elements, 64 by `n` (by 1). -/
def rowLayout (ndim base n : Nat) : List Byte :=
  [1, 1, 0x0A] ++ leBytes 1 ndim ++ [0, 0, 0, 0] ++ leBytes 8 base ++ leBytes 4 64 ++ leBytes 4 n ++ leBytes 4 (ndim - 2) ++ leBytes 12 0 ++ leBytes 6 63 ++
    leBytes 6 0 ++ leBytes 8 ((if ndim = 2 then 8 else 136) * (1 + 2 ^ 18 + 2 ^ 36)) ++ [0, 0, 0, 0]
/-- The front command of hearth 0: a KV block at place 16 (or 17 for an append), a layout at the other; sequence 0xFFF listed. -/
def kvCommand (s : State) (opc elem ndim src dst aux : Nat) (b16 b17 : List Byte) : State :=
  ((s.setHearth 0 { iq := [⟨{}, BitVec.ofNat 128 (opc + 512 + elem * 2 ^ 16 + elem * 2 ^ 24 + ndim * 2 ^ 10 + aux * 2 ^ 32 + src * 2 ^ 64 + dst * 2 ^ 96), false, 0, false⟩] }).setBytes
    0x1000000400 (b16 ++ b17)).setBytes 0x1000007000 [0xFF, 0x0F]
/-- The operation passes its checks and `q` holds of it. -/
def operates (s : State) (opc : Nat) (q : State → Job → KvOp → Bool) : Bool :=
  match s.takeJob (.queue 0) opc with
  | .job p j => (match p.readKvOp j with
    | .ok o => passes (kvMatch j.word o) && passes (p.blockFor j p.flightNext) && q p j o
    | .error _ => false)
  | _ => false
/-- Sequence 0xFFF is open, with two rows of 64 bytes in page 5. -/
def kvOpen : State :=
  (opened.setSeq 0xFFF { opened := true, rowLog2 := 6, ptAddr := 0x1000008000, maxPages := 4, len := 2 }).setBytes 0x1000008000 [5]
def opening : State :=
  kvCommand (setAll opened [(.KV_SEQ_QUOTA, 0, 1)]) 0x81 0x21 1 (ptrTo 16) 0 0 (kvBlock 0 1 0 0x1000007000 16 0 2 0x1000008000) []
def closing : State := kvCommand kvOpen 0x82 0x21 1 (ptrTo 16) 0 0 (kvBlock 0 1 0 0x1000007000 0 0 0 0) []
/-- An append of `rows` rows; the pool holds frame 6. -/
def appending (spec rows : Nat) (top : Nat) : State :=
  (kvCommand (setAll kvOpen [(.KV_POOL_BASE, 0, 0x1000009000), (.KV_POOL_CAP, 0, 1), (.KV_POOL_TOP, 0, top)]) 0x83 0x0A 2 (ptrTo 17) 0 (ptrTo 16)
    (kvBlock spec 1 rows 0x1000007000 0 0 0 0) (rowLayout 2 0x1000002000 rows)).setBytes 0x1000009000 [6]
def gathering (spec : Nat) : State :=
  kvCommand kvOpen 0x84 0x0A 3 (ptrTo 16) (ptrTo 17) 0 (kvBlock spec 1 0 0x1000007000 0 3 0 0) (rowLayout 3 0x1000002000 3)
def settling (opc st : Nat) : State :=
  kvCommand (kvOpen.setTag 0 255 { st := st }) opc 0x21 1 (ptrTo 16) 0 0 (kvBlock 255 0 0 0 0 0 0 0) []
theorem test_kv_open : operates opening 0x81 (fun p j o => o.ids = [0xFFF] && o.k.rowLog2 = 16 &&
      passes (needAll (upTo o.ids.length) fun k => p.access j.hearth (p.global (o.k.pt + k * o.k.maxPages * 8)) (o.k.maxPages * 8) .w)) = true ∧
    gives (.kvOpen (.queue 0)) opening (fun t => (t.seq 0xFFF).opened ∧ t.num 0x1000008008 8 = noPage) = true := by decide +kernel
theorem test_kv_close : operates closing 0x82 (fun p j o => p.mayClose j.hearth o) = true ∧
    gives (.kvClose (.queue 0)) closing (fun t => t.flights.map (·.done) = [.kvClose [0xFFF] [5]]) = true := by decide +kernel
/-- What an append or a gather needs beside its blocks: layout `l`, and no closed tag, broken sequence or conflict. -/
def startsKv (p : State) (j : Job) (o : KvOp) : Bool :=
  (p.tagClosed j.hearth o.k.spec).isNone && o.ids.all fun n => !(p.seq n).broken && !p.specConflict n o.k.spec
theorem test_kv_append : ∀ g ∈ [0, 255],
    operates (appending g 1 1) 0x83 (fun p j o => startsKv p j o && p.mayAppend j.hearth o && match o.lay, p.planAppend j.hearth o with
      | some l, some a => !p.touches l (a.spots.map fun x => (x, 64)) && passes (p.access j.hearth l.base l.size .r) &&
          passes (p.appendAccess j.hearth o l a) && a.spots.all fun x => regionOf x = some .fen
      | _, _ => false) = true := by decide +kernel
/-- 1,023 rows more need a second page, and the pool is empty. -/
theorem test_kv_append_full :
    operates (appending 0 1023 0) 0x83 (fun p j o => startsKv p j o && p.mayAppend j.hearth o && match o.lay with
      | some l => !p.touches l [] && passes (p.access j.hearth l.base l.size .r) && (p.planAppend j.hearth o).isNone
      | none => false) = true ∧ up.fld .KV_ALLOC_FAIL 0 + 1 < 2 ^ Fld.width .KV_ALLOC_FAIL := by decide +kernel
theorem test_kv_gather : ∀ g ∈ [0, 255],
    operates (gathering g) 0x84 (fun p j o => startsKv p j o && match o.lay with
      | some l => !p.touches l ((o.k.list, 2 * o.k.nSeq) :: p.gatherRanges o) && passes (p.access j.hearth l.base l.size .w) &&
          (gatherOut (p.freeRows o) l (p.kvRows j.hearth o) o.k.nRows).flaw.isNone
      | none => false) = true := by decide +kernel
/-- R380: row 2 is not visible and reads as zeros. -/
theorem test_kv_gather_rows : gives (.kvGather (.queue 0)) (((gathering 0).setBytes 0x50040 [9]).setBytes 0x1000002080 [7])
    (fun t => t.bytes 0x1000002040 1 = [9] ∧ t.bytes 0x1000002080 1 = [0]) = true := by decide +kernel
/-- R390: the page of the open sequence lies in a channel that a scan looks for. -/
theorem test_scan_page : (upTo 16).any (kvOpen.pageIn (kvOpen.seq 0xFFF)) = true := by decide +kernel
theorem test_page_table_written : (kvOpen.localWrite 0x100000801F [0]).tampered = [0xFFF] ∧ (kvOpen.localWrite 0x1000008020 [0]).tampered = [] := by
  decide +kernel
theorem test_kv_tags : ∀ opc ∈ [0x85, 0x86],
    operates (settling opc 1) opc (fun p j o => o.k.spec = 255 && (p.tag j.hearth 255).st = 1) = true ∧
    ∀ st ∈ [0, 2, 3], operates (settling opc st) opc (fun p j o => (p.settleNote j.hearth o.k.spec (opc = 0x86)).isSome) = true := by decide +kernel
/-- Sequence 0xFFF with an append of tag 255 in flight whose ledger ends at cycle `due` (R542). -/
def lateAppend (due : Nat) : State :=
  { settling 0x86 1 with clk := 50
                         flights := [{ id := 9, ctx := {}, word := 0x83, tag := 255, due := due, done := .kvAppend [0xFFF] 1 255 [] [] [] }] }
theorem test_kv_squash_late : gives (.kvSquash (.queue 0)) (lateAppend 50) (fun t => (t.flight 9).map (·.status) = some 0) = true := by decide +kernel
theorem test_kv_squash : gives (.kvSquash (.queue 0)) (settling 0x86 1) (fun t => (t.tag 0 255).st = 3) = true := by decide +kernel

/-- A move-free reshard: both distributions of one element lie on node 1, which hearth 0 reads. -/
def shardBlock (nodeBase gen layIdx : Nat) : List Byte :=
  [2, 1, 0x0A, 1, 0, 0, 0, 0] ++ leBytes 6 (0x1000000000 + 64 * layIdx) ++ leBytes 1 gen ++ [0] ++ leBytes 4 1 ++ leBytes 20 0 ++ leBytes 6 0 ++ leBytes 2 0 ++ leBytes 12 0 ++
    leBytes 1 nodeBase ++ [1, 0, 0]
def resharding : State :=
  ((setAll opened [(.NODE_ID_VALID, 0, 1)]).setHearth 0 { iq := [⟨{}, BitVec.ofNat 128 (0x80 + 512 + ptrTo 16 * 2 ^ 64), false, 0, true⟩] }).setBytes 0x1000000400
    (block64 ([4, 1, 0, 0, 7, 0, 0, 0] ++ leBytes 6 0x1000000440 ++ [1, 0] ++ leBytes 6 0x1000000480 ++ [1, 0]) ++ shardBlock 1 1 19 ++ shardBlock 2 1 20 ++
      layout8 0x1000002000 1 ++ layout8 0x1000003000 1)
theorem test_reshard_starts : (match resharding.takeJob (.queue 0) 0x80 with
    | .job p j => passes (p.reshardWord j) && p.reshards.length < 16 && passes (p.blockFor j p.flightNext) && (match p.readReshard j.hearth (wSrc j.word) with
      | .ok o => passes (reshardMatch j o) && (match p.planReshard j o with | .ok (u, r) => r.moves = [] && u.landed = [] | .error _ => false)
      | .error _ => false)
    | _ => false) = true := by decide +kernel
/-- A reshard of hearth 0 in flight. -/
def resharded (r : Reshard) : State := { up with reshards := [r] }
/-- A reshard whose one move has its bytes at hand. -/
def movingOne : State :=
  resharded { id := 7, ctx := {}, moves := [{ data := some [1, 2, 3], len := 3, dst := 0x1000003000 }], nodes := [], expectIn := 0, inRanges := [(0x1000003000, 3)] }
theorem test_reshard_move : (movingOne.reshardOf 7).any (fun r => r.moves.any fun m => (movingOne.payMove r m).2 && m.data = some [1, 2, 3]) = true ∧
    movingOne.onChip 0x1000003000 = true ∧ movingOne.fenced (localOf 0x1000003000) 3 = false ∧ (movingOne.send 7).bytes 0x1000003000 4 = [1, 2, 3, 0] ∧
    (movingOne.send 7).reshards.map (·.moves) = [[]] := by decide +kernel
/-- R153: a second cancel of an id in flight waits with the first. -/
theorem test_cancel_twice : gives (.reshardCancel 0) (taking (movingOne.setReshard 7 fun r => { r with cancel := [{}] }) (cmdOf 0x06 7 0 0 0))
    (fun t => t.reshards.map (fun r => (r.moves.length, r.cancel.length)) = [(0, 2)]) = true := by decide +kernel
theorem test_reshard_ends : let r : Reshard := { id := 0xFFFF, ctx := {}, moves := [], nodes := [], expectIn := 4, inRanges := [], gotIn := 4 }
    (resharded r).reshardOf (0xFFFF : BitVec 16).toNat = some r ∧ r.moves = [] ∧ (resharded r).writing (.reshard 0xFFFF) = false ∧ r.cause = 0 ∧ r.cancel = [] ∧
    gives (.reshardComplete 0xFFFF) (resharded r) (fun t => t.reshards = []) = true ∧
    gives (.reshardComplete 0xFFFF) (resharded { r with gotIn := 3 }) (fun t => t.reshards.length = 1) = true := by decide +kernel
theorem test_reshard_commands : let r : Reshard := { id := 0xFFFF, ctx := {}, moves := [], nodes := [], expectIn := 4, inRanges := [] }
    (taking queued (cmdOf 0x05 0 0 (ptrTo 16) 0)).takenCmd 0 0x05 = some (cmdOf 0x05 0 0 (ptrTo 16) 0) ∧
    (taking (resharded r) (cmdOf 0x06 0xFF 0xFF 0 0)).takenCmd 0 0x06 = some (cmdOf 0x06 0xFF 0xFF 0 0) ∧ recNum (cmdOf 0x06 0xFF 0xFF 0 0).bytes 8 2 = 0xFFFF ∧
    (resharded r).reshardOf 0xFFFF = some r ∧ r.ctx.hearth = 0 ∧ r.cancel = [] ∧ ¬ (∀ q ∈ (resharded r).reshards, q.id = 0xFFFF → q.ctx.hearth ≠ 0) ∧
    (∀ q ∈ up.reshards, q.id = 0xFFFF → q.ctx.hearth ≠ 0) := by decide +kernel

end Sys2Proof.Tests
end

section
/-! PROOF. A TICK snapshot that fails its checks does not apply (R26, R98, R100). -/

namespace Sys2Proof.Machine

theorem snapOk_tick_eq_false (s : State) {v : List (Nat × Nat)}
    (h : snapVal v .TICK_CFG_TICK_LEN_K 0 < 4 ∨ 128 < snapVal v .TICK_CFG_TICK_LEN_K 0 ∨ snapVal v .TICK_CFG_TICK_SRC 0 = 3) :
    s.snapOk .tick v = false := by
  obtain hlo | hhi | hsrc := h
  · simp [State.snapOk, Nat.not_le.mpr hlo]
  · simp [State.snapOk, Nat.not_le.mpr hhi]
  · simp [State.snapOk, hsrc]

/-- A snapshot that fails its checks only sets its group's status bit (R100). -/
theorem applySnap_of_not_snapOk {s : State} {c : Snapshot} (h : s.snapOk c.grp c.vals = false) : s.applySnap c = s.cfgErr c.grp := by
  simp [State.applySnap, h]

theorem applySnap_badTick (s : State) {c : Snapshot} (hg : c.grp = .tick)
    (h : snapVal c.vals .TICK_CFG_TICK_LEN_K 0 < 4 ∨ 128 < snapVal c.vals .TICK_CFG_TICK_LEN_K 0 ∨ snapVal c.vals .TICK_CFG_TICK_SRC 0 = 3) :
    s.applySnap c = s.setFld .TICK_STAT_CFG_ERR 0 1 := by
  rw [applySnap_of_not_snapOk (by rw [hg]; exact snapOk_tick_eq_false s h), hg]
  rfl

/-- What a part of the running chip does in a state depends on its effect on that state alone. -/
theorem running_congr {s : State} {f g : State → State} (h : f s = g s) : s.running f = s.running g := by
  unfold State.running
  rw [h]

/-- Before the first lock GROUP_APPLY applies the group's pending snapshot (R12). -/
theorem exec_groupApply_pending {s : State} {g : Group} {c : Snapshot} (hl : s.tk.firstLock = false)
    (hc : s.commits.find? (·.grp = g) = some c) :
    exec (.groupApply g) s = .next (s.running fun s => { s with commits := s.commits.erase c }.applySnap c) := by
  refine congrArg Host.Outcome.next (running_congr ?_)
  simp only [hc, hl, Bool.false_eq_true, if_false]

end Sys2Proof.Machine

open Sys2Proof Sys2Proof.Machine

/-- Settles O16: such a snapshot fails the TICK group's check, so that applying it, at a boundary or by GROUP_APPLY, is setting CFG_ERR. -/
theorem badTickGroupIsRefused : Obligations.BadTickGroupIsRefused := by
  intro s c hg hbad
  rw [applySnap_badTick s hg hbad]
  refine ⟨?_, ?_, ?_, ?_⟩
  · rw [State.flag, setFld_fld_same]
    rfl
  · exact fun f i => setFld_shd_read ..
  · exact fun f i hf => setFld_fld_ne s hf ..
  · intro hrun hl hc
    refine ⟨_, exec_groupApply_pending hl hc, ?_⟩
    rw [running_run hrun, applySnap_badTick _ hg hbad]
    simp [State.setFld, hrun]
end

section
/-! PROOF. What takes effect at a boundary leaves the tick that it has opened as it is: its number, whether it is banked, and its first
cycle (R28). One lemma for each operation that a boundary may come to, from the state's own to `State.open_`. -/

namespace Sys2Proof.Machine

/-- The registers that say which tick is open, and whether it is banked. -/
def tickFlds : List Fld := [.TICK_COUNT, .TICK_STAT_BANKED]

theorem eqNow_notMem_tickFlds (k : Nat) : eqNow k ∉ tickFlds := by
  unfold eqNow
  split <;> decide

theorem groupCells_notMem_tickFlds {g : Group} {e : Fld × Nat} (he : e ∈ groupCells g) : e.1 ∉ tickFlds := by
  have hk : ∀ k : GKind, ∀ a ∈ k.fields, a.1 ∉ tickFlds := fun k => by cases k <;> decide
  simp only [groupCells, List.mem_flatMap, List.mem_map] at he
  obtain ⟨a, ha, _, _, rfl⟩ := he
  exact hk _ a ha

/-- `t` stands in the same cycle of the same tick as `s`. -/
structure SameTick (s t : State) : Prop where
  cyc : t.cyc = s.cyc
  flds : ∀ f ∈ tickFlds, ∀ i, t.fld f i = s.fld f i

namespace SameTick

variable {r s t : State}

theorem refl (s : State) : SameTick s s := ⟨rfl, fun _ _ _ => rfl⟩

theorem now_eq (h : SameTick s t) : t.now = s.now := h.flds .TICK_COUNT (by decide) 0

theorem banked_eq (h : SameTick s t) : t.flag .TICK_STAT_BANKED = s.flag .TICK_STAT_BANKED := by
  unfold State.flag
  rw [h.flds .TICK_STAT_BANKED (by decide) 0]

/-! ### The operations over the state -/

/-- A change outside the registers and the cycle. -/
theorem congr (h : SameTick r s) (hr : t.reg = s.reg) (hc : t.cyc = s.cyc) : SameTick r t :=
  ⟨hc.trans h.cyc, fun f hf i => (congrArg (mget (f.resetVal i) (f.key i)) hr).trans (h.flds f hf i)⟩

/-- A report that leaves the registers of the tick alone. -/
theorem reported {fs : List Fld} (h : SameTick r s) (k : Reported fs s t) (hd : ∀ f ∈ tickFlds, f ∉ fs) : SameTick r t := by
  refine ⟨?_, fun f hf i => (k.regs f i (hd f hf)).trans (h.flds f hf i)⟩
  rw [k.rest]
  exact h.cyc

theorem setFld {f : Fld} {i v : Nat} (h : SameTick r s) (hf : f ∉ tickFlds) : SameTick r (s.setFld f i v) :=
  ⟨h.cyc, fun g hg j => (setFld_fld_ne s (ne_of_mem_of_not_mem hg hf) i j v).trans (h.flds g hg j)⟩

theorem bump {f : Fld} {i n : Nat} (h : SameTick r s) (hf : f ∉ tickFlds) : SameTick r (s.bump f i n) :=
  h.reported (bump_reported s List.mem_cons_self i n) fun _ hg he => ne_of_mem_of_not_mem hg hf (List.mem_singleton.mp he)

theorem on {c : Bool} {g : State → State} (h : SameTick r s) (hg : SameTick r s → SameTick r (g s)) : SameTick r (s.on c g) := by
  unfold State.on
  split
  · exact hg h
  · exact h

theorem ite {c : Prop} [Decidable c] (hs : SameTick r s) (ht : SameTick r t) : SameTick r (if c then s else t) := by
  split <;> assumption

theorem forAll {α : Type} {l : List α} {f : α → State → State} (h : SameTick r s)
    (hf : ∀ a ∈ l, ∀ u, SameTick r u → SameTick r (f a u)) : SameTick r (forAll l f s) := by
  induction l generalizing s with
  | nil => exact h
  | cons a l ih => exact ih (hf a List.mem_cons_self s h) fun b hb => hf b (List.mem_cons_of_mem a hb)

theorem setPlanSt {p v : Nat} (h : SameTick r s) : SameTick r (s.setPlanSt p v) := h.setFld (by decide)

theorem setChip {v : Nat} (h : SameTick r s) : SameTick r (s.setChip v) := h.setFld (by decide)

/-! ### Parts of the state beside the registers -/

theorem setPlan {p : Nat} {v : Plan} (h : SameTick r s) : SameTick r (s.setPlan p v) := h.congr rfl rfl

theorem setChan {c : Nat} {v : Chan} (h : SameTick r s) : SameTick r (s.setChan c v) := h.congr rfl rfl

theorem setDctx {c : Nat} {planned : Bool} {v : DmaCtx} (h : SameTick r s) : SameTick r (s.setDctx c planned v) := h.setChan

theorem setEmber {e : Nat} {v : Ember} (h : SameTick r s) : SameTick r (s.setEmber e v) := h.congr rfl rfl

theorem setLink {n : Nat} {v : Link} (h : SameTick r s) : SameTick r (s.setLink n v) := h.congr rfl rfl

theorem setReshard {id : Nat} {f : Reshard → Reshard} (h : SameTick r s) : SameTick r (s.setReshard id f) := h.congr rfl rfl

theorem withTk {k : TickSt} (h : SameTick r s) : SameTick r { s with tk := k } := h.congr rfl rfl

theorem withUnits {u : Units} (h : SameTick r s) : SameTick r { s with units := u } := h.congr rfl rfl

theorem withNode {n : NodeSt} (h : SameTick r s) : SameTick r { s with node := n } := h.congr rfl rfl

theorem withTherm {k : ThermSt} (h : SameTick r s) : SameTick r { s with therm := k } := h.congr rfl rfl

theorem withReads {l : List RemoteRead} (h : SameTick r s) : SameTick r { s with reads := l } := h.congr rfl rfl

theorem withReshards {l : List Reshard} (h : SameTick r s) : SameTick r { s with reshards := l } := h.congr rfl rfl

/-! ### Frames and reports to the chimney -/

theorem sendLink {n : Nat} {f : Frame} (h : SameTick r s) : SameTick r (s.sendLink n f) := h.congr rfl rfl

theorem sendNode {k : Nat} {a : Option Nat} {f : Frame} (h : SameTick r s) : SameTick r (s.sendNode k a f) := by
  unfold State.sendNode
  split
  · exact h
  · exact h.sendLink

theorem report {kind code uid arg : Nat} (h : SameTick r s) : SameTick r (s.report kind code uid arg) := h.sendNode

theorem floodExcept {skip : Option Nat} {ls : List Nat} {f : Frame} (h : SameTick r s) : SameTick r (s.floodExcept skip ls f) :=
  h.forAll fun _ _ _ k => k.sendLink

theorem ask {f : Asks → Asks} (h : SameTick r s) : SameTick r (s.ask f) := h.congr rfl rfl

/-! ### Suspensions -/

theorem postAsh {t : Nat} {a : AshRec} (h : SameTick r s) : SameTick r (s.postAsh t a) := h.reported (postAsh_reported s t a) (by decide)

theorem complete {x : Ctx} {e : End} (h : SameTick r s) : SameTick r (s.complete x e) := h.reported (complete_reported s x e) (by decide)

theorem recordMiss {p cause : Nat} (h : SameTick r s) : SameTick r (s.recordMiss p cause) := by
  unfold State.recordMiss
  exact (((h.setFld (by decide)).bump (by decide)).setFld (by decide)).postAsh.setPlan

theorem suspend {p cause : Nat} (h : SameTick r s) : SameTick r (s.suspend p cause) := by
  unfold State.suspend
  exact (h.on fun k => k.recordMiss).setPlanSt.setPlan

theorem suspensions {n : Nat} {banked lost : Bool} {susp : List Nat} (h : SameTick r s) : SameTick r (s.suspensions n banked lost susp) :=
  h.forAll fun _ _ _ k => .ite k.suspend (.ite k.suspend (.ite k.suspend k))

/-! ### Snapshots -/

theorem kindleFail {code : Nat} (h : SameTick r s) : SameTick r (s.kindleFail code) := by
  unfold State.kindleFail
  extract_lets s₁ s₂ _ s₃
  have h₁ : SameTick r s₁ := (h.setFld (by decide)).setFld (by decide)
  have h₃ : SameTick r s₃ := h₁.setChip.withTk
  exact .ite h₃ (.ite h₃.ask h₃.report)

theorem lockFalls (h : SameTick r s) : SameTick r s.lockFalls := by
  unfold State.lockFalls
  refine .ite h ?_
  extract_lets s₁ _ s₂
  have h₂ : SameTick r s₂ := ((h.setFld (by decide)).setFld (by decide)).withTk
  exact .ite h₂.setChip (.ite h₂.kindleFail h₂)

theorem emptyFifos {c : Nat} (h : SameTick r s) : SameTick r (s.emptyFifos c) := h.setChan

theorem eqClamp {n : Nat} (h : SameTick r s) : SameTick r (s.eqClamp n) := h.forAll fun k _ _ hu => hu.setFld (eqNow_notMem_tickFlds k)

theorem applied {g : Group} {o : State} (h : SameTick r s) : SameTick r (s.applied g o) := by
  cases g with
  | tick =>
    unfold State.applied
    exact h.on fun h => (h.setFld (by decide)).lockFalls
  | damper => exact h.congr rfl rfl
  | stream c =>
    refine SameTick.setFld ((h.on fun h => h.emptyFifos).on fun h => ?_) (by decide)
    exact (h.setFld (by decide)).setFld (by decide)
  | queue t =>
    have hf : ∀ f ∈ [Fld.SQ_TAIL, .SQ_HEAD, .CQ_TAIL, .CQ_HEAD, .AQ_TAIL, .AQ_HEAD], f ∉ tickFlds := by decide
    exact h.forAll fun f hmem _ k => k.setFld (hf f hmem)
  | clk => exact (h.setFld (by decide)).setFld (by decide)
  | eq n => exact h.eqClamp
  | ember | chan | kvpool | xbar | node | hearth | therm | cal | tray => exact h

theorem cfgErr {g : Group} (h : SameTick r s) : SameTick r (s.cfgErr g) := by
  cases g with
  | ember | chan | node | cal | eq => exact h
  | tick | damper | stream | kvpool | xbar | hearth | queue | clk | therm | tray => exact h.setFld (by decide)

theorem applySnap {c : Snapshot} (h : SameTick r s) : SameTick r (s.applySnap c) :=
  .ite (h.forAll fun _ he _ k => k.setFld (groupCells_notMem_tickFlds he)).applied h.cfgErr

theorem applyBound (h : SameTick r s) : SameTick r s.applyBound :=
  (h.congr (t := { s with commits := s.commits.filter fun c => !c.bound }) rfl rfl).forAll fun _ _ _ k => k.applySnap

/-! ### Remaps -/

theorem undefBytes {a n : Nat} (h : SameTick r s) : SameTick r (s.undefBytes a n) :=
  (h.congr (t := { s with free := s.free + n }) rfl rfl).reported (show_reported [.REFETCH_COUNT] (by decide) _ a _) (by decide)

theorem spoil {x : Flight} (h : SameTick r s) : SameTick r (s.spoil x) :=
  .ite (h.forAll fun _ _ _ k => k.undefBytes) (h.forAll fun _ _ _ k => k.undefBytes)

theorem faultFlight {n cause arg : Nat} (h : SameTick r s) : SameTick r (s.faultFlight n cause arg) := by
  unfold State.faultFlight
  split
  · exact h
  · exact .ite h (h.spoil.congr rfl rfl)

theorem faultFlights {p : Flight → Bool} {cause arg : Nat} (h : SameTick r s) : SameTick r (s.faultFlights p cause arg) :=
  h.forAll fun _ _ _ k => k.faultFlight

/-- A remap clears the tile rows of a class and their latches (R177). -/
theorem clearTiles {lo hi : Nat} {p : Latch → Bool} (h : SameTick r s) : SameTick r ((s.zeroRange lo hi).dropLatches p) := h.congr rfl rfl

theorem remapSlices {m : Nat} (h : SameTick r s) : SameTick r (s.remapSlices m) := by
  unfold State.remapSlices
  extract_lets _ s₁ _ s₂ s₃
  have h₂ : SameTick r s₂ := h.faultFlights.withUnits
  have h₃ : SameTick r s₃ := ((h₂.setFld (by decide)).setFld (by decide)).setFld (by decide)
  exact h₃.clearTiles

theorem remapMixers {m : Nat} (h : SameTick r s) : SameTick r (s.remapMixers m) := by
  unfold State.remapMixers
  extract_lets _ s₁ _ s₂ s₃
  have h₂ : SameTick r s₂ := h.faultFlights.withUnits
  have h₃ : SameTick r s₃ := h₂.setFld (by decide)
  exact h₃.clearTiles

theorem remapTo {slices mixers fen : Nat} (h : SameTick r s) : SameTick r (s.remapTo slices mixers fen) :=
  ((h.on fun h => h.remapSlices).on fun h => h.remapMixers).withUnits

/-! ### Links -/

theorem setService {n : Nat} {up : Bool} (h : SameTick r s) : SameTick r (s.setService n up) := by
  unfold State.setService
  refine .ite h ?_
  extract_lets s₁
  have h₁ : SameTick r s₁ := SameTick.setFld (.ite (h.setFld (by decide)) (h.setFld (by decide))) (by decide)
  exact .ite h₁ (.ite (h₁.congr rfl rfl) h₁.report)

theorem candidacy {n : Nat} (h : SameTick r s) : SameTick r (s.candidacy n) := h.on fun h => h.sendLink

theorem serve {n : Nat} (h : SameTick r s) : SameTick r (s.serve n) := by
  unfold State.serve
  exact ((h.setFld (by decide)).setFld (by decide)).setService.setLink.candidacy

theorem rejoinLinks (h : SameTick r s) : SameTick r s.rejoinLinks := h.forAll fun _ _ _ k => k.serve

/-! ### The member map -/

theorem reroute {k : Nat} (h : SameTick r s) : SameTick r (s.reroute k) := by
  have hrt {v : Nat} : SameTick r (s.setFld .RT_LINKS k v) := h.setFld (by decide)
  unfold State.reroute
  exact .ite hrt (.ite hrt (hrt.congr rfl rfl))

theorem blame {o : Owner} {cause : Nat} {ash : Option Nat} (h : SameTick r s) : SameTick r (s.blame o cause ash) := by
  unfold State.blame
  cases o with
  | ember e tag => exact h.on fun h => h.setEmber
  | dma c planned => exact h.on fun h => h.setDctx
  | reshard id => exact h.congr rfl rfl
  | flight k => exact h.congr rfl rfl
  | ring | none => exact h

theorem failPut {p : Posted} (h : SameTick r s) : SameTick r (s.failPut p) := by
  unfold State.failPut
  split
  · extract_lets m
    split
    · exact .ite h.setEmber h
    · exact h
  · exact h

theorem failWrite {p : Posted} {cause fail : Nat} (h : SameTick r s) : SameTick r (s.failWrite p cause fail) := by
  have h₁ : SameTick r { s with posted := s.posted.filter fun q => q.wid != p.wid } := h.congr rfl rfl
  exact h₁.postAsh.blame.failPut

theorem loseWrite {p : Posted} (h : SameTick r s) : SameTick r (s.loseWrite p) := by
  have h₁ : SameTick r { s.bump .LOST_COUNT with lateWids := s.lateWids ++ [(p.wid, s.now + 64)] } :=
    (h.bump (f := .LOST_COUNT) (by decide)).congr rfl rfl
  exact h₁.failWrite

theorem freeEmber {e : Nat} (h : SameTick r s) : SameTick r (s.freeEmber e) := h.setEmber

theorem tryFree {e : Nat} (h : SameTick r s) : SameTick r (s.tryFree e) := by
  unfold State.tryFree
  exact .ite (h.freeEmber.on fun h => h.complete) h

theorem emberFail {e pc : Nat} {m : Ember} {end_ : End} (h : SameTick r s) : SameTick r (s.emberFail e m pc end_) := by
  unfold State.emberFail
  extract_lets x reeds s₁
  have h₁ : SameTick r s₁ := (h.bump (by decide)).setEmber
  exact h₁.withReads.complete.tryFree

theorem dropMove {id a : Nat} (h : SameTick r s) : SameTick r (s.dropMove id a) := by
  unfold State.dropMove
  split
  · exact h
  · split
    · exact h
    · exact .ite (SameTick.setReshard (h.forAll fun _ _ _ k => k.undefBytes)) h

theorem failRead {q : RemoteRead} {cause : Nat} (h : SameTick r s) : SameTick r (s.failRead q cause) := by
  unfold State.failRead
  extract_lets s₁
  have h₁ : SameTick r s₁ := h.withReads
  split
  · exact .ite h₁ (.ite h₁.setEmber h₁.emberFail)
  · exact h₁.on fun h => h.setDctx
  · split
    · exact h₁
    · exact .ite h₁ (h₁.faultFlight.congr rfl rfl)
  · exact h₁.blame.dropMove
  · exact h₁
  · exact h₁

theorem spoilDue {k : Nat} {q : Reshard} (h : SameTick r s) : SameTick r (s.spoilDue k q) :=
  .ite h (.ite (h.forAll fun _ _ _ k => k.undefBytes) (h.forAll fun _ _ _ k => k.undefBytes))

theorem loseNode {k : Nat} (h : SameTick r s) : SameTick r (s.loseNode k) := by
  unfold State.loseNode
  extract_lets s₁ s₂ s₃
  have h₁ : SameTick r s₁ := h.forAll fun _ _ _ k => k.spoilDue
  have h₃ : SameTick r s₃ := h₁.withReshards.forAll fun _ _ _ k => k.loseWrite
  exact h₃.forAll fun _ _ _ k => k.failRead

theorem startElection (h : SameTick r s) : SameTick r s.startElection := h.withNode.floodExcept

theorem removed (h : SameTick r s) : SameTick r s.removed := by
  unfold State.removed State.reelect
  extract_lets s₁ _
  have h₁ : SameTick r s₁ := ((h.setFld (by decide)).setFld (by decide)).setFld (by decide)
  exact (((h₁.withNode.setFld (by decide)).setFld (by decide)).setFld (by decide)).startElection

theorem applyMember {epoch : Nat} {ws : List Nat} (h : SameTick r s) : SameTick r (s.applyMember epoch ws) := by
  unfold State.applyMember
  extract_lets was s₁ s₂ s₃ gone s₄ _ s₅
  have h₂ : SameTick r s₂ := SameTick.forAll (h.setFld (by decide)) fun _ _ _ k => k.setFld (by decide)
  have h₃ : SameTick r s₃ := h₂.forAll fun _ _ _ k => k.reroute
  have h₄ : SameTick r s₄ := h₃.forAll fun _ _ _ k => k.loseNode
  have h₅ : SameTick r s₅ := h₄.withNode
  exact .ite h₅.removed (h₅.on fun h => h.setFld (by decide))

/-! ### Plans and their slack -/

theorem planDone {x : Ctx} {p status reason res : Nat} (h : SameTick r s) : SameTick r (s.planDone x p status reason res) :=
  h.reported (planDone_reported s x p status reason res) (by decide)

theorem emptySlot {p : Nat} (h : SameTick r s) : SameTick r (s.emptySlot p) := by
  unfold State.emptySlot
  extract_lets pl s₁ s₂ s₃
  have h₁ : SameTick r s₁ := ((h.setPlanSt.setFld (by decide)).setFld (by decide)).setFld (by decide)
  have h₃ : SameTick r s₃ := by
    unfold s₃
    split
    · exact h₁.setPlan
    · exact h₁.setPlan.planDone
  split
  · exact h₃
  · exact .ite h₃ h₃.planDone

theorem enterRunning {p : Nat} {c : PendCmd} (h : SameTick r s) : SameTick r (s.enterRunning p c) := by
  unfold State.enterRunning
  extract_lets pl
  split
  · exact h.setPlan.planDone
  · exact h.setPlan.setPlanSt.planDone

theorem planBoundary {n p : Nat} {banked : Bool} (h : SameTick r s) : SameTick r (s.planBoundary n banked p) := by
  unfold State.planBoundary
  refine .ite (.ite h.setPlan h.emptySlot) (.ite (.ite h h.setPlan) ?_)
  split
  · exact h
  · exact .ite h h.enterRunning

theorem countLoads (h : SameTick r s) : SameTick r s.countLoads := h.congr rfl rfl

theorem slackWindow (h : SameTick r s) : SameTick r s.slackWindow := h.on fun h => h.forAll fun _ _ _ k => k.setFld (by decide)

theorem slackTick (h : SameTick r s) : SameTick r s.slackTick :=
  .ite h.slackWindow (h.on fun h => h.forAll fun _ _ _ k => k.setFld (by decide))

/-! ### Kindling -/

theorem sendProbe {n : Nat} (h : SameTick r s) : SameTick r (s.sendProbe n) := h.setLink.sendLink

theorem kindleStart (h : SameTick r s) : SameTick r s.kindleStart := by
  unfold State.kindleStart
  extract_lets s₁ s₂ s₃ s₄ s₅ s₆
  have h₂ : SameTick r s₂ := SameTick.on (h.setChip.setFld (by decide)) fun h => h.setFld (by decide)
  have h₃ : SameTick r s₃ := h₂.forAll fun _ _ _ k => k.setLink
  have h₄ : SameTick r s₄ := h₃.forAll fun _ _ _ k => k.serve
  have h₅ : SameTick r s₅ := h₄.forAll fun _ _ _ k => k.sendProbe
  have h₆ : SameTick r s₆ := h₅.setFld (by decide)
  exact h₆.congr rfl rfl

theorem fillBuckets {k : Nat} (h : SameTick r s) : SameTick r (s.fillBuckets k) := h.forAll fun _ _ _ k => k.congr rfl rfl

theorem kindleTick (h : SameTick r s) : SameTick r s.kindleTick := by
  unfold State.kindleTick
  extract_lets k _ s₁ s₂ s₃
  have h₁ : SameTick r s₁ := h.setFld (by decide)
  have h₂ : SameTick r s₂ := h₁.on fun h => h.setFld (by decide)
  have h₃ : SameTick r s₃ := h₂.on fun h => h.withUnits
  exact .ite h.kindleFail (.ite h.kindleFail (.ite h.withTk (h₃.on fun h => h.fillBuckets)))

/-! ### The boundary -/

theorem fanChimney (h : SameTick r s) : SameTick r s.fanChimney := SameTick.withTherm (h.on fun h => h.setFld (by decide))

theorem dampBoundary (h : SameTick r s) : SameTick r s.dampBoundary := by
  have h₁ : SameTick r (s.setChip chipDamping) := h.setChip
  exact h.on fun _ => h₁.congr rfl rfl

/-- All that follows the count at a boundary (Table 2.7). -/
theorem open_ {k : TickSt} {n : Nat} {banked : Bool} (h : SameTick r s) : SameTick r (s.open_ k n banked) := by
  unfold State.open_
  extract_lets s₁ s₂ _ s₃ s₄ s₅ s₆ s₇ _ s₈ s₉ s₁₀ s₁₁ s₁₂
  have h₂ : SameTick r s₂ := h.suspensions.applyBound
  have h₃ : SameTick r s₃ := by
    unfold s₃
    split
    · exact h₂
    · exact h₂.withNode.applyMember
  have h₆ : SameTick r s₆ := h₃.remapTo.rejoinLinks.forAll fun _ _ _ k => k.planBoundary
  have h₇ : SameTick r s₇ := h₆.countLoads.slackTick
  clear_value s₇
  have h₈ : SameTick r s₈ := h₇.congr rfl rfl
  have h₉ : SameTick r s₉ := h₈.on fun h => SameTick.withTherm (h.bump (by decide))
  have h₁₀ : SameTick r s₁₀ := .ite h₉.kindleStart (.ite (.ite h₉.kindleFail h₉.kindleTick) h₉)
  have h₁₁ : SameTick r s₁₁ := h₁₀.setFld (by decide)
  have h₁₂ : SameTick r s₁₂ := h₁₁.congr rfl rfl
  exact h₁₂.fanChimney.dampBoundary

end SameTick
end Sys2Proof.Machine
end

section
/-! PROOF. A boundary, from the steps before it to the tick that it opens (R28, R54, R61 to R64). -/

namespace Sys2Proof.Machine

/-! ### The steps before a boundary (R54, R61 to R64) -/

/-- The registers that the steps before a boundary write. -/
def prepareFlds : List Fld := [.BANK_CTRL_BANK_REQ, .BANK_CTRL_REQ_DENIED, .TICK_STAT_SOURCE_LOST]

section
variable {f : Fld} {i : Nat}

theorem toCyc_fld (s : State) (c : Nat) : (s.toCyc c).fld f i = s.fld f i := advance_fld_read ..

theorem floodExcept_fld (s : State) (skip : Option Nat) (ls : List Nat) (g : Frame) : (s.floodExcept skip ls g).fld f i = s.fld f i := by
  unfold State.floodExcept
  exact forAll_keeps (fun s => s.fld f i) _ (fun n s => s.sendLink n g) (fun _ _ _ => rfl) s

theorem floodMap_fld (s : State) : s.floodMap.fld f i = s.fld f i := by
  unfold State.floodMap
  exact floodExcept_fld ..

theorem on_fld {s : State} {c : Bool} {g : State → State} (h : (g s).fld f i = s.fld f i) : (s.on c g).fld f i = s.fld f i := by
  unfold State.on
  split
  · exact h
  · rfl

theorem setFld_fld_of_mem {l : List Fld} {g : Fld} (hf : f ∉ l) (s : State) (j v : Nat) (hg : g ∈ l) : (s.setFld g j v).fld f i = s.fld f i :=
  setFld_fld_ne s (ne_of_mem_of_not_mem hg hf).symm j i v

theorem answerAsk_fld (hf : f ∉ prepareFlds) (s : State) (granted : Bool) : (s.answerAsk granted).fld f i = s.fld f i := by
  unfold State.answerAsk
  refine on_fld ?_
  rw [on_fld (setFld_fld_of_mem hf _ 0 1 (by decide)), setFld_fld_of_mem hf _ 0 0 (by decide)]
  rfl

theorem compose_fld (hf : f ∉ prepareFlds) (s : State) : s.compose.fld f i = s.fld f i := by
  unfold State.compose
  split
  · rfl
  · extract_lets s₁ m s₂ _ s₃
    calc
      _ = s₃.fld f i := on_fld (floodMap_fld _)
      _ = s₂.fld f i := rfl
      _ = s₁.fld f i := answerAsk_fld hf ..
      _ = s.fld f i := toCyc_fld ..

theorem sendMarker_fld (s : State) : s.sendMarker.fld f i = s.fld f i := by
  unfold State.sendMarker
  split
  · rfl
  · extract_lets s₁ _ s₂
    have hdrive (m : Mark) : (s₂.driveOut m).fld f i = s₂.fld f i := by
      unfold State.driveOut
      split <;> rfl
    calc
      _ = s₂.fld f i := (floodExcept_fld ..).trans (hdrive _)
      _ = s₁.fld f i := rfl
      _ = s.fld f i := toCyc_fld ..

theorem latchMarker_fld (hf : f ∉ prepareFlds) (s : State) : s.latchMarker.fld f i = s.fld f i := by
  unfold State.latchMarker
  split
  · rfl
  · extract_lets s₁ found s₂ s₃
    calc
      _ = s₃.fld f i := rfl
      _ = s₂.fld f i := by
        unfold s₃
        clear_value found
        cases found with
        | none => rfl
        | some m => exact on_fld (answerAsk_fld hf ..)
      _ = s₁.fld f i := on_fld (setFld_fld_of_mem hf _ 0 1 (by decide))
      _ = s.fld f i := toCyc_fld ..

/-- All that the steps before a boundary leave as it is. -/
theorem prepare_fld (hf : f ∉ prepareFlds) (s : State) : s.prepare.fld f i = s.fld f i :=
  ((latchMarker_fld hf _).trans (sendMarker_fld _)).trans (compose_fld hf s)

theorem prepare_flag (hf : f ∉ prepareFlds) (s : State) : s.prepare.flag f i = s.flag f i := by
  rw [State.flag, prepare_fld hf]
  rfl

end

/-- The chimney and every locked node count on from the tick that ends. -/
theorem nextTick_of_chimney_or_locked {s : State} (h : s.isChimney = true ∨ s.flag .TICK_STAT_LOCKED = true) : s.nextTick = s.now + 1 := by
  unfold State.nextTick
  split
  · exact if_pos (by simpa [or_comm] using h)
  · rfl

/-! ### The boundary (R28) -/

/-- After the first lock a boundary leaves the chip in cycle 0 of the next tick, banked as the last marker announced. -/
theorem boundary_tick {s : State} (hl : s.tk.firstLock = true) :
    s.boundary.cyc = 0 ∧ s.boundary.now = s.prepare.nextTick % 2 ^ 48 ∧ s.boundary.flag .TICK_STAT_BANKED = s.prepare.flag .TICK_STAT_BANK_NEXT := by
  unfold State.boundary
  rw [if_neg (by simp [hl])]
  extract_lets s₁ n banked m _ k _ s₂ s₃ s₄
  have h₄ : SameTick s₃ s₄ := (SameTick.refl s₃).on fun h => h.withTherm
  have h : SameTick s₃ (s₄.open_ k n banked) := h₄.open_
  have hcount : s₃.now = n % 2 ^ 48 := by
    calc
      _ = ((s₂.setFld .TICK_COUNT 0 n).setFld .TICK_STAT_BANKED 0 (b2n banked)).fld .TICK_COUNT 0 := setFld_fld_ne _ (by decide) ..
      _ = (s₂.setFld .TICK_COUNT 0 n).fld .TICK_COUNT 0 := setFld_fld_ne _ (by decide) ..
      _ = n % 2 ^ 48 := setFld_fld_same ..
  have hbanked : s₃.flag .TICK_STAT_BANKED = banked := by
    have hfld : s₃.fld .TICK_STAT_BANKED = b2n banked % 2 := (setFld_fld_ne _ (by decide) ..).trans (setFld_fld_same ..)
    rw [State.flag, hfld]
    cases banked <;> rfl
  exact ⟨h.cyc, h.now_eq.trans (hcount.trans (Nat.mod_mod ..)), h.banked_eq.trans hbanked⟩

end Sys2Proof.Machine

open Sys2Proof Sys2Proof.Machine

/-- Settles O27: the steps before the boundary leave the count, the lock, the chimney's role and BANK_NEXT as they are, and all that
follows the count at the boundary stays in the first cycle of the tick that has opened. -/
theorem boundaryCountsTicks : Obligations.BoundaryCountsTicks := by
  intro s hrun hl hfollows
  obtain ⟨hcyc, hnow, hbanked⟩ := boundary_tick hl
  have hnext : s.prepare.nextTick = s.now + 1 := by
    rw [nextTick_of_chimney_or_locked]
    · exact congrArg (· + 1) (prepare_fld (by decide) s)
    · rwa [State.isChimney, prepare_flag (by decide), prepare_flag (by decide)]
  refine ⟨_, rfl, ?_, ?_, ?_⟩ <;> rw [running_run hrun]
  · exact hnow.trans (by rw [hnext])
  · exact hcyc
  · exact hbanked.trans (prepare_flag (by decide) s)
end

section
/-! PROOF. What a write of one global register does, through each path: the rows that stand at its offset, the paths that its rules
close to it, and the words of a port frame or of a BAR0 or mirror write (R10, R77, R92, R103, R547). -/

namespace Sys2Proof.Machine

/-! ### The rows at an offset -/

/-- The rows of the register tables that stand at `reg`. -/
def rowsAt (reg : Nat) : List RegRow := (rowsOf reg).filter fun r => (r.index reg).isSome

/-- The stored field that a place of the map shows bits of. -/
def Cell.field? : Cell → Option Fld
  | .fld f _ _ _ => some f
  | _ => none

/-- The stored fields of the register at `reg`. -/
def fldsAt (reg : Nat) : List Fld := (rowsAt reg).filterMap (·.cell.field?)

section
variable {reg inst : Nat} {r : RegRow} {f : Fld} {i : Nat} {v : Option Nat} {hw : Nat}

theorem writeRow_of_index_none (h : r.index reg = none) (s : State) : s.writeRow reg inst v hw r = s := by
  simp [State.writeRow, h]

/-- A row takes a write into its own field alone. -/
theorem writeRow_fld (h : r.cell.field? ≠ some f) (s : State) : (s.writeRow reg inst v hw r).fld f i = s.fld f i := by
  unfold State.writeRow
  split
  next idx g frm acc coll _ hcell =>
    have hg : f ≠ g := fun e => h (by rw [hcell, e]; rfl)
    have hput (u : State) (j x : Nat) : (u.setFld g j x).fld f i = u.fld f i := setFld_fld_ne u hg j i x
    have hbump (u : State) (j n : Nat) : (u.bump g j n).fld f i = u.fld f i :=
      (bump_reported u (List.mem_singleton_self g) j n).regs f i fun m => hg (List.mem_singleton.mp m)
    dsimp only
    repeat' split
    all_goals simp only [hput, hbump, setShd_fld_read]
  next => rfl

theorem writeRows_rowsAt (s : State) :
    s.writeRows reg inst v hw = forAll (rowsAt reg) (fun r s => s.writeRow reg inst v hw r) s := by
  unfold State.writeRows forAll rowsAt
  rw [List.foldl_filter]
  congr 1
  funext s r
  split
  · rfl
  next h => exact writeRow_of_index_none (by simpa using h) s

/-- A write leaves the fields of other registers alone. -/
theorem writeRows_fld_of_notMem (h : f ∉ fldsAt reg) (s : State) : (s.writeRows reg inst v hw).fld f i = s.fld f i := by
  rw [writeRows_rowsAt]
  refine forAll_keeps (·.fld f i) _ _ (fun r hr s => writeRow_fld (fun e => h ?_) s) s
  exact List.mem_filterMap.mpr ⟨r, hr, e⟩

end

/-! ### Plain rows: a whole field, RW, without a collision rule -/

/-- The row at `reg` that shows the whole field `c.1` from bit `c.2` on. -/
def plainRow (reg : Nat) (c : Fld × Nat) : RegRow := ⟨reg, 0, 1, c.2, c.1.width, .fld c.1 0 .RW .none⟩

/-- The fields of which another register selects the copy (`State.instOf`). -/
def selectedFlds : List Fld := [.FEN_CE_COUNT, .FEN_UE_COUNT, .RT_LINKS]

theorem setBits_zero_mod (x w v : Nat) : setBits x 0 w v % 2 ^ w = v % 2 ^ w := by
  have h : x - x % 2 ^ w = 2 ^ w * (x / 2 ^ w) := by
    have := Nat.div_add_mod x (2 ^ w)
    omega
  simp [setBits, bitsOf, h]

section
variable {reg inst : Nat} {c : Fld × Nat} {cells : List (Fld × Nat)} {hw : Nat}

theorem plainRow_index : (plainRow reg c).index reg = some 0 := by simp [plainRow, RegRow.index]

theorem instOf_plainRow (h : c.1 ∉ selectedFlds) (s : State) : s.instOf c.1 (plainRow reg c) inst 0 = inst := by
  unfold State.instOf
  split
  case h_4 => simp [plainRow]
  all_goals simp_all [selectedFlds]

/-- Without a software write a plain row has nothing to take: no hardware update meets it. -/
theorem writeRow_plainRow_none (s : State) : s.writeRow reg inst none hw (plainRow reg c) = s := by
  unfold State.writeRow
  rw [plainRow_index]
  rfl

/-- A plain row loads its bits of the word. -/
theorem writeRow_plainRow_fld (h : c.1 ∉ selectedFlds) (s : State) (v : Nat) :
    (s.writeRow reg inst (some v) hw (plainRow reg c)).fld c.1 inst = bitsOf v c.2 c.1.width := by
  have hrow : s.writeRow reg inst (some v) hw (plainRow reg c) =
      s.setFld c.1 inst (setBits (s.fld c.1 inst) 0 c.1.width (bitsOf v c.2 c.1.width)) := by
    have hi : s.instOf c.1 (plainRow reg c) inst 0 = inst := instOf_plainRow h s
    unfold State.writeRow
    rw [plainRow_index]
    simp only [plainRow, Option.map_some] at hi ⊢
    rw [hi]
  rw [hrow, setFld_fld_same, setBits_zero_mod]
  exact Nat.mod_mod ..

/-- Plain rows of different fields each load their bits of the word. -/
theorem forAll_plainRow_fld (hd : (cells.map (·.1)).Nodup) (hs : ∀ e ∈ cells, e.1 ∉ selectedFlds) (hc : c ∈ cells) (s : State) (v : Nat) :
    (forAll (cells.map (plainRow reg)) (fun r s => s.writeRow reg inst (some v) hw r) s).fld c.1 inst = bitsOf v c.2 c.1.width := by
  induction cells generalizing s with
  | nil => cases hc
  | cons e cells ih =>
    obtain ⟨hne, hd⟩ := List.nodup_cons.mp hd
    obtain rfl | hc := List.mem_cons.mp hc
    · have hrest : ∀ r ∈ cells.map (plainRow reg), r.cell.field? ≠ some c.1 := by
        simp only [List.mem_map]
        rintro _ ⟨a, ha, rfl⟩ hac
        exact hne (List.mem_map.mpr ⟨a, ha, Option.some.inj hac⟩)
      exact (forAll_keeps (·.fld c.1 inst) _ _ (fun r hr s => writeRow_fld (hrest r hr) s) _).trans
        (writeRow_plainRow_fld (hs c List.mem_cons_self) s v)
    · exact ih hd (fun a ha => hs a (List.mem_cons_of_mem e ha)) hc _

end

/-! ### Registers without effects -/

/-- A global register that R102 does not protect and whose write has no effect beside its rows. -/
structure QuietReg (reg : Nat) : Prop where
  global : reg < 0x400
  aligned : reg % 4 = 0
  beat : reg ≠ 0x05C
  reset : reg ≠ 0x33C
  expert : isExpertReg reg = false
  apply : ∀ (s : State) (inst v hw : Nat), s.applyReg reg inst v hw = s.writeRows reg inst (some v) hw

/-- A quiet register of plain rows: `cells` gives its fields and the lowest bit of each. -/
structure PlainReg (reg : Nat) (cells : List (Fld × Nat)) : Prop extends QuietReg reg where
  rows : rowsAt reg = cells.map (plainRow reg)
  distinct : (cells.map (·.1)).Nodup
  direct : ∀ c ∈ cells, c.1 ∉ selectedFlds
  inWord : ∀ c ∈ cells, c.2 + c.1.width ≤ 32

/-- PORT_SEL (Table 3.7). -/
def portSelCells : List (Fld × Nat) :=
  [(.PORT_SEL_TENANT_SEL, 0), (.PORT_SEL_CHAN_SEL, 8), (.PORT_SEL_LINK_SEL, 16), (.PORT_SEL_READ_SEL, 24)]

/-- EXPERT_CTL (Table 3.7). -/
def expertCtlCells : List (Fld × Nat) := [(.EXPERT_CTL_TENANT_EXPERT, 0), (.EXPERT_CTL_GLOBAL_EXPERT, 16)]

theorem quietReg_caps : QuietReg 0x010 := ⟨by decide, by decide, by decide, by decide, by decide, fun _ _ _ _ => rfl⟩

theorem quietReg_portSel : QuietReg 0x014 := ⟨by decide, by decide, by decide, by decide, by decide, fun _ _ _ _ => rfl⟩

theorem quietReg_mpErrCount : QuietReg 0x028 := ⟨by decide, by decide, by decide, by decide, by decide, fun _ _ _ _ => rfl⟩

theorem quietReg_expertCtl : QuietReg 0x02C := ⟨by decide, by decide, by decide, by decide, by decide, fun _ _ _ _ => rfl⟩

theorem plainReg_portSel : PlainReg 0x014 portSelCells where
  toQuietReg := quietReg_portSel
  rows := rfl
  distinct := by decide
  direct := by decide
  inWord := by decide

theorem plainReg_expertCtl : PlainReg 0x02C expertCtlCells where
  toQuietReg := quietReg_expertCtl
  rows := rfl
  distinct := by decide
  direct := by decide
  inWord := by decide

theorem fldsAt_caps : fldsAt 0x010 = [] := rfl

theorem fldsAt_mpErrCount : fldsAt 0x028 = [.MP_ERR_COUNT] := rfl

section
variable {reg inst : Nat} {p : Path} {hw : Nat} {cells : List (Fld × Nat)} {c : Fld × Nat}

/-- No hardware update meets a register of plain rows. -/
theorem PlainReg.writeRows_none (h : PlainReg reg cells) (s : State) : s.writeRows reg inst none hw = s := by
  rw [writeRows_rowsAt, h.rows]
  refine forAll_rel (R := fun s t => t = s) (fun _ => rfl) (fun h k => k.trans h) _ _ (fun r hr s => ?_) s
  obtain ⟨c, -, rfl⟩ := List.mem_map.mp hr
  exact writeRow_plainRow_none s

/-- A register of plain rows loads its fields from the word. -/
theorem PlainReg.writeRows_fld (h : PlainReg reg cells) (hc : c ∈ cells) (s : State) (v : Nat) :
    (s.writeRows reg inst (some v) hw).fld c.1 inst = bitsOf v c.2 c.1.width := by
  rw [writeRows_rowsAt, h.rows]
  exact forAll_plainRow_fld h.distinct h.direct hc s v

theorem hwEvent_of_ne (h : reg ≠ 0x05C) (s : State) : s.hwEvent reg hw = s := by simp [State.hwEvent, State.on, h]

/-! ### Registers closed to a path (R92, R103) -/

/-- PORT_SEL is the management port's, and a guarded register is the management port's and the physical function's. -/
def closedTo (p : Path) (reg : Nat) : Bool := p != .mp && (reg = 0x014 || p != .pf && isGuarded reg)

theorem ne_mp_of_closedTo (h : closedTo p reg = true) : p ≠ .mp := by
  rintro rfl
  cases h

/-- Of a write to a closed register only the hardware update of its cycle remains. -/
theorem writeReg_closedTo (h : closedTo p reg = true) (s : State) (v : Nat) :
    s.writeReg p reg inst v hw = ((s.writeRows reg inst none hw).hwEvent reg hw, .discarded) := by
  unfold State.writeReg
  dsimp only
  split
  · rfl
  · split
    · rfl
    · simp_all [closedTo]

/-- A quiet register takes a write through every path that it is open to. -/
theorem QuietReg.writeReg_open (h : QuietReg reg) (ho : closedTo p reg = false) (s : State) (v : Nat) :
    s.writeReg p reg inst v hw = (({ s with lastHw := if hw != 0 then some (reg, inst, hw) else s.lastHw }).writeRows reg inst (some v)
      (s.metHw reg inst hw), .ok) := by
  have hok : s.expertOk reg inst = true := by simp [State.expertOk, h.expert]
  unfold State.writeReg
  rw [if_neg (by simp_all [closedTo]), if_neg (by simp_all [closedTo]), if_neg (by simp [hok])]
  simp only [h.apply, hwEvent_of_ne h.beat]

theorem PlainReg.writeReg_closed (h : PlainReg reg cells) (hc : closedTo p reg = true) (s : State) (v : Nat) :
    s.writeReg p reg inst v hw = (s, .discarded) := by
  rw [writeReg_closedTo hc, h.writeRows_none, hwEvent_of_ne h.beat]

theorem PlainReg.writeReg_fld (h : PlainReg reg cells) (ho : closedTo p reg = false) (hc : c ∈ cells) (s : State) (v : Nat) :
    (s.writeReg p reg inst v hw).1.fld c.1 inst = bitsOf v c.2 c.1.width := by
  rw [h.writeReg_open ho]
  exact h.writeRows_fld hc ..

/-! ### Words of the paged paths (R74 to R77) -/

variable {off : Nat}

/-- A virtual function writes no global register (R76). -/
theorem writePage_vf (t : Fin 16) (hg : off % 0x1000 < 0x400) (s : State) (v : Nat) :
    s.writePage (.vf t) off v hw = (s.writeCycle (.vf t), .discarded) := by
  unfold State.writePage
  dsimp only
  split
  · rfl
  · rw [if_pos (by simpa using hg)]

/-- The other paged paths reach a global register on every page (R75). -/
theorem writePage_global (hm : p ≠ .mp) (hv : ∀ t, p ≠ .vf t) (hg : off % 0x1000 < 0x400) (s : State) (v : Nat) :
    s.writePage p off v hw = (s.writeCycle p).writeReg p (off % 0x1000) 0 v hw := by
  unfold State.writePage
  cases p with
  | mp => exact absurd rfl hm
  | vf t => exact absurd rfl (hv t)
  | pf => simp [State.pageInst, hg]
  | mirror => simp [State.pageInst, hg]

/-- A paged write to a closed register of plain rows changes nothing but the cycle of the last write. -/
theorem PlainReg.writePage_closed (h : PlainReg reg cells) (hreg : off % 0x1000 = reg) (hc : closedTo p reg = true) (s : State) (v : Nat) :
    s.writePage p off v hw = (s.writeCycle p, .discarded) := by
  have hg : off % 0x1000 < 0x400 := hreg ▸ h.global
  by_cases hv : ∃ t, p = .vf t
  · obtain ⟨t, rfl⟩ := hv
    exact writePage_vf t hg s v
  · rw [writePage_global (ne_mp_of_closedTo hc) (not_exists.mp hv) hg, hreg, h.writeReg_closed hc]

@[simp] theorem writeCycle_fld (s : State) (p : Path) (f : Fld) (i : Nat) : (s.writeCycle p).fld f i = s.fld f i := by
  show (s.on _ fun s => s.advance 1).fld f i = s.fld f i
  exact on_fld rfl

/-- A paged write to an open quiet register leaves the fields of other registers alone. -/
theorem QuietReg.writePage_fld (h : QuietReg reg) (hreg : off % 0x1000 = reg) (hm : p ≠ .mp) (ho : closedTo p reg = false) {f : Fld}
    (hf : f ∉ fldsAt reg) (i : Nat) (s : State) (v : Nat) : (s.writePage p off v hw).1.fld f i = s.fld f i := by
  have hg : off % 0x1000 < 0x400 := hreg ▸ h.global
  by_cases hv : ∃ t, p = .vf t
  · obtain ⟨t, rfl⟩ := hv
    rw [writePage_vf t hg]
    exact writeCycle_fld ..
  · rw [writePage_global hm (not_exists.mp hv) hg, hreg, h.writeReg_open ho]
    exact (writeRows_fld_of_notMem hf _).trans (writeCycle_fld ..)

end

/-! ### Whole writes (R77, R547) -/

theorem countTook_fld {f : Fld} (hf : f ≠ .MP_ERR_COUNT) (s : State) (k : Took) (i : Nat) : (s.countTook k).fld f i = s.fld f i :=
  (Reported.on (fs := [.MP_ERR_COUNT]) (bump_reported s List.mem_cons_self 0 1)).regs f i fun m => hf (List.mem_singleton.mp m)

@[simp] theorem hostUp_fld (s : State) (p : Path) (f : Fld) (i : Nat) : (s.hostUp p).fld f i = s.fld f i := by
  cases p <;> rfl

/-- All that a write's cycle can change. -/
theorem writeCycle_rest (s : State) (p : Path) :
    s.writeCycle p = { s with clk := (s.writeCycle p).clk, cyc := (s.writeCycle p).cyc
                              lastWrite := (s.writeCycle p).lastWrite, lastHw := (s.writeCycle p).lastHw } := by
  unfold State.writeCycle State.on
  dsimp only
  split_ifs <;> rfl

theorem writeCycle_pcieUp (s : State) (p : Path) (b : Bool) :
    ({ s with pcieUp := b } : State).writeCycle p = { s.writeCycle p with pcieUp := b } := by
  have hon (c : Bool) : ({ s with pcieUp := b } : State).on c (·.advance 1) = { s.on c (·.advance 1) with pcieUp := b } := by
    cases c <;> rfl
  unfold State.writeCycle
  rw [hon]

theorem bump_pcieUp (s : State) (f : Fld) (b : Bool) : ({ s with pcieUp := b } : State).bump f = { s.bump f with pcieUp := b } := by
  unfold State.bump
  show (if s.fld f + 1 < 2 ^ f.width then _ else _) = _
  split <;> rfl

/-- A write that is counted in its cycle, where the host has just set the endpoint up. -/
theorem hostUp_writeCycle_bump (s : State) (p : Path) (f : Fld) :
    ((s.hostUp p).writeCycle p).bump f = { (s.writeCycle p).bump f with pcieUp := (s.hostUp p).pcieUp } := by
  have hup : s.hostUp p = { s with pcieUp := (s.hostUp p).pcieUp } := by cases p <;> rfl
  generalize (s.hostUp p).pcieUp = b at hup ⊢
  rw [hup, writeCycle_pcieUp, bump_pcieUp]

/-- What `State.running` keeps, a counted write keeps by itself. -/
theorem writeCycle_bump_host (s : State) (p : Path) (f : Fld) :
    let t := (s.writeCycle p).bump f
    t.pending = s.pending ∧ t.power = s.power ∧ t.fuses = s.fuses ∧ t.thermtripLow = s.thermtripLow := by
  intro t
  rw [show t = _ from (bump_reported (s.writeCycle p) (List.mem_singleton_self f) 0 1).rest, writeCycle_rest]
  exact ⟨rfl, rfl, rfl, rfl⟩

/-- A field that lies in the low word is read off that word (R77). -/
theorem bitsOf_lowWord {lo n : Nat} (h : lo + n ≤ 32) (x : Nat) : bitsOf (x % 2 ^ 32) lo n = bitsOf x lo n := by
  refine Nat.eq_of_testBit_eq fun i => ?_
  simp only [bitsOf, Nat.testBit_mod_two_pow, Nat.testBit_div_two_pow]
  by_cases hi : i < n
  · simp [show i + lo < 32 by omega]
  · simp [hi]

section
variable {reg : Nat} {cells : List (Fld × Nat)} {c : Fld × Nat} {w : RegWrite}

theorem regWrite_paged (hm : w.path ≠ .mp) (s : State) :
    s.regWrite w = (s.hostUp w.path).writeSpan w.path w.off.toNat w.size.val w.be.toNat w.data.toNat w.hw.toNat := by
  unfold State.regWrite
  split
  · contradiction
  · rfl

/-- A request of one aligned word is one page write, counted where it is not taken. -/
theorem writeSpan_word {p : Path} {off data hw : Nat} (ha : off % 4 = 0) (s : State) :
    s.writeSpan p off 4 0xF data hw =
      (s.writePage p off (data % 2 ^ 32) hw).1.countTook (s.writePage p off (data % 2 ^ 32) hw).2 := by
  simp [State.writeSpan, ha]

/-- A page begins on a word (R74). -/
theorem off_aligned {off : Nat} (hreg : off % 0x1000 = reg) (ha : reg % 4 = 0) : off % 4 = 0 := by omega

/-- A word written to a closed register of plain rows is counted, and changes nothing else (R547). -/
theorem PlainReg.regWrite_closed (h : PlainReg reg cells) (hreg : w.off.toNat % 0x1000 = reg) (hc : closedTo w.path reg = true)
    (hsize : w.size = 4) (hbe : w.be = 0xF) (s : State) :
    s.regWrite w = { (s.writeCycle w.path).bump .MP_ERR_COUNT with pcieUp := (s.hostUp w.path).pcieUp } := by
  calc
    _ = (s.hostUp w.path).writeSpan w.path w.off.toNat 4 0xF w.data.toNat w.hw.toNat := by
      rw [regWrite_paged (ne_mp_of_closedTo hc), hsize, hbe]
      rfl
    _ = ((s.hostUp w.path).writeCycle w.path).countTook .discarded := by
      rw [writeSpan_word (off_aligned hreg h.aligned), h.writePage_closed hreg hc]
    _ = _ := hostUp_writeCycle_bump ..

/-- A word of the physical function loads an open register of plain rows. -/
theorem PlainReg.regWrite_pf_fld (h : PlainReg reg cells) (hreg : w.off.toNat % 0x1000 = reg) (hp : w.path = .pf)
    (ho : closedTo .pf reg = false) (hsize : w.size = 4) (hbe : w.be = 0xF) (hc : c ∈ cells) (s : State) :
    (s.regWrite w).fld c.1 = bitsOf w.data.toNat c.2 c.1.width := by
  have hg : w.off.toNat % 0x1000 < 0x400 := hreg ▸ h.global
  have hspan : s.regWrite w = (s.hostUp .pf).writeSpan .pf w.off.toNat 4 0xF w.data.toNat w.hw.toNat := by
    rw [regWrite_paged (by simp [hp]), hp, hsize, hbe]
    rfl
  rw [hspan, writeSpan_word (off_aligned hreg h.aligned), writePage_global (by simp) (by simp) hg, hreg, h.writeReg_open ho,
    ← bitsOf_lowWord (h.inWord c hc)]
  exact h.writeRows_fld hc ..

/-- A 64-bit request whose upper word falls on a closed register changes no field but the count and those of its lower word (R77). -/
theorem PlainReg.regWrite_pair_fld (h : PlainReg (reg + 4) cells) (hlow : QuietReg reg) (hreg : w.off.toNat % 0x1000 = reg)
    (ha : reg % 8 = 0) (ho : closedTo w.path reg = false) (hc : closedTo w.path (reg + 4) = true) (hsize : w.size = 8)
    (hbe : w.be = 0xFF) {f : Fld} (hf : f ∉ fldsAt reg) (hcount : f ≠ .MP_ERR_COUNT) (i : Nat) (s : State) :
    (s.regWrite w).fld f i = s.fld f i := by
  have hm := ne_mp_of_closedTo hc
  have hoff : w.off.toNat % 8 = 0 := by omega
  have hup : (w.off.toNat + 4) % 0x1000 = reg + 4 := by
    have := hlow.global
    omega
  rw [regWrite_paged hm, hsize, hbe]
  unfold State.writeSpan
  rw [if_neg (by simp), if_pos (by simp [hoff])]
  dsimp only
  rw [countTook_fld hcount, h.writePage_closed hup hc]
  calc
    _ = (((s.hostUp w.path).writePage w.path w.off.toNat (w.data.toNat % 2 ^ 32) w.hw.toNat).1.advanceTo
          ((s.hostUp w.path).clk + 1)).fld f i := writeCycle_fld ..
    _ = ((s.hostUp w.path).writePage w.path w.off.toNat (w.data.toNat % 2 ^ 32) w.hw.toNat).1.fld f i := advance_fld_read ..
    _ = (s.hostUp w.path).fld f i := hlow.writePage_fld hreg hm ho hf ..
    _ = s.fld f i := hostUp_fld ..

/-! ### Words of the management port -/

/-- The port applies a word to a quiet register, whatever PORT_SEL names (R91). -/
theorem QuietReg.mpWrite_eq (h : QuietReg reg) (s : State) (v hw : Nat) :
    s.mpWrite reg v hw = (((s.writeCycle .mp).writeReg .mp reg 0 v hw).1, stOk) := by
  have ht : ((s.writeCycle .mp).writeReg .mp reg 0 v hw).2 = .ok := by rw [h.writeReg_open rfl]
  have hi : s.portInst reg = some 0 := by simp [State.portInst, h.global]
  simp [State.mpWrite, hi, ht]

/-- The fields that the status of a word OK writes (Table 3.7). -/
def portStatFlds : List Fld := [.MP_STAT_LAST_CODE, .MP_STAT_BURST_DONE]

/-- A word written over the port loads a register of plain rows (R91). -/
theorem PlainReg.portWrite_fld (h : PlainReg reg cells) {s : State} (hport : s.portAt ≤ s.clk) (hc : c ∈ cells)
    (hf : c.1 ∉ portStatFlds) (v hw : Nat) : (s.portWrite reg v hw).fld c.1 = bitsOf v c.2 c.1.width := by
  have hrst : resetWord reg v = false := by simp [resetWord, h.reset]
  have hlast : c.1 ≠ .MP_STAT_LAST_CODE := fun e => hf (by simp [e, portStatFlds])
  have hdone : c.1 ≠ .MP_STAT_BURST_DONE := fun e => hf (by simp [e, portStatFlds])
  unfold State.portWrite State.onPort
  rw [if_neg (Nat.not_lt.mpr hport)]
  simp only [h.aligned, h.mpWrite_eq, hrst, State.mpStatus, State.on, bne_self_eq_false, Bool.and_false, Bool.false_eq_true, if_false,
    if_true]
  rw [setFld_fld_ne _ hlast, setFld_fld_ne _ hdone]
  exact h.writeReg_fld rfl hc ..

/-- A REGISTER_WRITE of the management port loads a register of plain rows. -/
theorem PlainReg.regWrite_mp_fld (h : PlainReg reg cells) (hreg : w.off.toNat % 0x1000 = reg) (hp : w.path = .mp) {s : State}
    (hport : s.portAt ≤ s.clk) (hc : c ∈ cells) (hf : c.1 ∉ portStatFlds) : (s.regWrite w).fld c.1 = bitsOf w.data.toNat c.2 c.1.width := by
  rw [← bitsOf_lowWord (h.inWord c hc), State.regWrite, hp, hreg]
  exact h.portWrite_fld hport hc hf ..

/-! ### REGISTER_WRITE -/

theorem running_fld {s : State} (hrun : s.power = .run) (g : State → State) (f : Fld) (i : Nat) : (s.running g).fld f i = (g s).fld f i := by
  rw [running_run hrun]
  rfl

/-- A word that REGISTER_WRITE carries to a closed register of plain rows is counted, and changes nothing else. -/
theorem PlainReg.exec_closed (h : PlainReg reg cells) (hreg : w.off.toNat % 0x1000 = reg) (hc : closedTo w.path reg = true)
    (hsize : w.size = 4) (hbe : w.be = 0xF) {s : State} (hrun : s.power = .run) :
    ∃ t, exec (.registerWrite w) s = .next t ∧ t = { (s.writeCycle w.path).bump .MP_ERR_COUNT with pcieUp := t.pcieUp } := by
  have hw := h.regWrite_closed hreg hc hsize hbe s
  obtain ⟨hpending, hpower, hfuses, htherm⟩ := writeCycle_bump_host s w.path .MP_ERR_COUNT
  have hall : s.running (fun s => s.regWrite w) = s.regWrite w := by
    refine running_eq hrun ?_ ?_ ?_ ?_ <;> rw [hw]
    · exact hpending
    · exact hpower.trans hrun
    · exact hfuses
    · exact htherm
  exact ⟨_, rfl, by rw [hall, hw]⟩

/-- A 64-bit REGISTER_WRITE whose upper word falls on a closed register. -/
theorem PlainReg.exec_pair_fld (h : PlainReg (reg + 4) cells) (hlow : QuietReg reg) (hreg : w.off.toNat % 0x1000 = reg)
    (ha : reg % 8 = 0) (ho : closedTo w.path reg = false) (hc : closedTo w.path (reg + 4) = true) (hsize : w.size = 8)
    (hbe : w.be = 0xFF) (hl : ∀ f ∈ fldsAt reg, f = .MP_ERR_COUNT) {s : State} (hrun : s.power = .run) :
    ∃ t, exec (.registerWrite w) s = .next t ∧ ∀ (f : Fld) (i : Nat), f ≠ .MP_ERR_COUNT → t.fld f i = s.fld f i :=
  ⟨_, rfl, fun f i hf =>
    (running_fld hrun _ f i).trans (h.regWrite_pair_fld hlow hreg ha ho hc hsize hbe (fun hm => hf (hl f hm)) hf i s)⟩

/-- A word that REGISTER_WRITE carries over the management port or through PF BAR0 loads an open register of plain rows. -/
theorem PlainReg.exec_fld (h : PlainReg reg cells) (hreg : w.off.toNat % 0x1000 = reg) (hf : ∀ c ∈ cells, c.1 ∉ portStatFlds)
    {s : State} (hrun : s.power = .run)
    (hp : w.path = .mp ∧ s.portAt ≤ s.clk ∨ w.path = .pf ∧ closedTo .pf reg = false ∧ w.size = 4 ∧ w.be = 0xF) :
    ∃ t, exec (.registerWrite w) s = .next t ∧ ∀ c ∈ cells, t.fld c.1 = bitsOf w.data.toNat c.2 c.1.width := by
  refine ⟨_, rfl, fun c hc => (running_fld hrun _ c.1 0).trans ?_⟩
  obtain ⟨hp, hport⟩ | ⟨hp, ho, hsize, hbe⟩ := hp
  · exact h.regWrite_mp_fld hreg hp hport hc (hf c hc)
  · exact h.regWrite_pf_fld hreg hp ho hsize hbe hc s

end
end Sys2Proof.Machine
end

section
/-! PROOF. PORT_SEL and EXPERT_CTL, and the paths that they are closed to (R92, R103). -/

namespace Sys2Proof.Machine

theorem readPage_portSel {off : Nat} (h : off % 0x1000 = 0x014) (s : State) (p : Path) : s.readPage p off = 0 := by
  unfold State.readPage
  dsimp only
  split
  · rfl
  · rw [if_pos h]

theorem portSel_closedTo {p : Path} (h : p ≠ .mp) : closedTo p 0x014 = true := by simp [closedTo, h]

theorem expertCtl_closedTo {p : Path} (h : p ≠ .mp) (hpf : p ≠ .pf) : closedTo p 0x02C = true := by simp [closedTo, isGuarded, h, hpf]

theorem expertCtl_open_pf : closedTo .pf 0x02C = false := by decide

theorem caps_open (p : Path) : closedTo p 0x010 = false := by simp [closedTo, isGuarded]

theorem mpErrCount_open (p : Path) : closedTo p 0x028 = false := by simp [closedTo, isGuarded]

end Sys2Proof.Machine

open Sys2Proof Sys2Proof.Machine

/-- Settles O17: PORT_SEL is a register of plain rows that is closed to every path but the port, and CAPS, the lower word of a 64-bit
write that reaches it, holds no field. -/
theorem portSelIsThePortsOwn : Obligations.PortSelIsThePortsOwn := by
  refine ⟨?_, ?_, ?_, ?_⟩
  · exact fun s p off _ hoff => readPage_portSel hoff s p
  · intro s w hrun hp hoff hsize hbe
    exact plainReg_portSel.exec_closed hoff (portSel_closedTo hp) hsize hbe hrun
  · intro s w hrun hp hport hoff
    obtain ⟨t, ht, hload⟩ := plainReg_portSel.exec_fld hoff (by decide) hrun (.inl ⟨hp, hport⟩)
    exact ⟨t, ht, hload (.PORT_SEL_TENANT_SEL, 0) (by decide), hload (.PORT_SEL_CHAN_SEL, 8) (by decide),
      hload (.PORT_SEL_LINK_SEL, 16) (by decide), hload (.PORT_SEL_READ_SEL, 24) (by decide)⟩
  · intro s w hrun hp hoff hsize hbe
    exact plainReg_portSel.exec_pair_fld quietReg_caps hoff (by decide) (caps_open w.path) (portSel_closedTo hp) hsize hbe
      (by simp [fldsAt_caps]) hrun

/-- Settles O18: EXPERT_CTL is a register of plain rows that is closed to the virtual functions and the mirror, and the lower word of a
64-bit write that reaches it is MP_ERR_COUNT. -/
theorem expertCtlPaths : Obligations.ExpertCtlPaths := by
  refine ⟨fun s w hrun hoff => ⟨fun hp => ?_, fun hp hpf hsize hbe => ?_⟩, ?_⟩
  · obtain ⟨t, ht, hload⟩ := plainReg_expertCtl.exec_fld hoff (by decide) hrun
      (hp.imp_right fun ⟨hpf, hsize, hbe⟩ => ⟨hpf, expertCtl_open_pf, hsize, hbe⟩)
    exact ⟨t, ht, hload (.EXPERT_CTL_TENANT_EXPERT, 0) (by decide), hload (.EXPERT_CTL_GLOBAL_EXPERT, 16) (by decide)⟩
  · exact plainReg_expertCtl.exec_closed hoff (expertCtl_closedTo hp hpf) hsize hbe hrun
  · intro s w hrun hp hpf hoff hsize hbe
    exact plainReg_expertCtl.exec_pair_fld quietReg_mpErrCount hoff (by decide) (mpErrCount_open w.path) (expertCtl_closedTo hp hpf)
      hsize hbe (by simp [fldsAt_mpErrCount]) hrun
end

section
/-! PROOF. What a loop over the state leaves in a part that one of its rounds writes, and what the supply, the resets and the two clock
stops do to the parts of the state (R494, R507, R517, R527 to R530). -/

namespace Sys2Proof.Machine

/-- What a loop leaves where one of its rounds writes: the value that this round would give at the start, if no other round touches the
place or the value. -/
theorem forAll_writes {α β : Type} (g v : State → β) {l : List α} {a : α} (ha : a ∈ l) (f : α → State → State)
    (hset : ∀ s, g (f a s) = v s) (hkeep : ∀ b ∈ l, b ≠ a → ∀ s, g (f b s) = g s) (hval : ∀ b ∈ l, ∀ s, v (f b s) = v s) (s : State) :
    g (forAll l f s) = v s := by
  induction l generalizing s with
  | nil => cases ha
  | cons b l ih =>
    show g (forAll l f (f b s)) = v s
    by_cases hl : a ∈ l
    · rw [ih hl (fun c hc => hkeep c (List.mem_cons_of_mem b hc)) (fun c hc => hval c (List.mem_cons_of_mem b hc)),
        hval b List.mem_cons_self]
    · obtain rfl : a = b := (List.mem_cons.mp ha).resolve_right hl
      have hrest : ∀ c ∈ l, ∀ u, g (f c u) = g u := fun c hc =>
        hkeep c (List.mem_cons_of_mem a hc) fun e => hl (e ▸ hc)
      rw [forAll_keeps g l f hrest, hset]

/-- `t` differs from `s` in active registers alone. -/
def SameButReg (s t : State) : Prop := t = { s with reg := t.reg }

theorem SameButReg.refl (s : State) : SameButReg s s := rfl

theorem SameButReg.trans {s t u : State} (h : SameButReg s t) (k : SameButReg t u) : SameButReg s u := by
  unfold SameButReg at *
  rw [h] at k
  exact k

theorem setFld_sameButReg (s : State) (f : Fld) (i v : Nat) : SameButReg s (s.setFld f i v) := rfl

theorem eqStart_sameButReg (s : State) (n : Nat) : SameButReg s (s.eqStart n) :=
  forAll_rel .refl .trans _ _ (fun k _ s => setFld_sameButReg s (eqNow k) n _) s

theorem fused_sameButReg (s : State) : SameButReg s s.fused :=
  forAll_rel .refl .trans _ _ (fun n _ s => eqStart_sameButReg s n) s

theorem strapped_rest (s : State) (pos : Bool) :
    s.strapped pos = { s with reg := (s.strapped pos).reg, shadow := (s.strapped pos).shadow } := by
  cases pos <;> rfl

/-! ### Equalisers at their presets (Table 15.7) -/

theorem eqNow_ne_eqUc (j k : Nat) : eqUc j ≠ eqNow k := by
  unfold eqUc eqNow
  split <;> split <;> decide

theorem eqNow_inj {j k : Nat} (hj : j < 4) (hk : k < 4) (h : eqNow j = eqNow k) : j = k := by
  have : ∀ j < 4, ∀ k < 4, eqNow j = eqNow k → j = k := by decide
  exact this j hj k hk h

theorem eqNow_width (k : Nat) : (eqNow k).width = 6 := by
  unfold eqNow
  split <;> rfl

theorem eqEff_lt (s : State) (n k : Nat) : s.eqEff n k < 2 ^ 6 := by
  unfold State.eqEff saturate
  split
  · decide
  · split <;> omega

theorem eqEff_congr {s t : State} (hf : t.fuses = s.fuses) {n k : Nat} (h : t.fld (eqUc k) n = s.fld (eqUc k) n) :
    t.eqEff n k = s.eqEff n k := by
  rw [State.eqEff, State.eqEff, State.eqFx, State.eqFx, hf, h]

theorem setFld_eqNow_eqEff (s : State) (j n m k v : Nat) : (s.setFld (eqNow j) n v).eqEff m k = s.eqEff m k :=
  eqEff_congr (s := s) (t := s.setFld (eqNow j) n v) rfl (setFld_fld_ne s (eqNow_ne_eqUc k j) n m v)

theorem eqStart_eqEff (s : State) (n m k : Nat) : (s.eqStart n).eqEff m k = s.eqEff m k :=
  forAll_keeps (·.eqEff m k) _ _ (fun j _ s => setFld_eqNow_eqEff s j n m k _) s

theorem eqStart_fld_eqNow (s : State) (n : Nat) {k : Nat} (hk : k < 4) : (s.eqStart n).fld (eqNow k) n = s.eqEff n k := by
  refine forAll_writes (·.fld (eqNow k) n) (·.eqEff n k) (List.mem_range.mpr hk) _ (fun s => ?_) (fun j hj hne s => ?_)
    (fun j _ s => setFld_eqNow_eqEff s j n n k _) s
  · show (s.setFld (eqNow k) n (s.eqEff n k)).fld (eqNow k) n = _
    rw [setFld_fld_same, eqNow_width, Nat.mod_eq_of_lt (eqEff_lt s n k)]
  · exact setFld_fld_ne s (fun e => hne (eqNow_inj (List.mem_range.mp hj) hk e.symm)) n n _

theorem eqStart_fld_of_ne (s : State) (n : Nat) {f : Fld} (h : ∀ k, f ≠ eqNow k) (i : Nat) : (s.eqStart n).fld f i = s.fld f i :=
  forAll_keeps (·.fld f i) _ _ (fun k _ s => setFld_fld_ne s (h k) n i _) s

theorem eqStart_fld_inst (s : State) {n i : Nat} (h : i % 1024 ≠ n % 1024) (f : Fld) : (s.eqStart n).fld f i = s.fld f i := by
  refine forAll_keeps (·.fld f i) _ _ (fun k _ s => ?_) s
  exact setFld_fld_other s (fun e => h (Fld.key_inj e).2) _

theorem fused_fld_eqNow (s : State) {n k : Nat} (hn : n < 24) (hk : k < 4) : s.fused.fld (eqNow k) n = s.eqEff n k := by
  refine forAll_writes (·.fld (eqNow k) n) (·.eqEff n k) (List.mem_range.mpr hn) (fun n s => s.eqStart n)
    (fun s => eqStart_fld_eqNow s n hk) (fun m hm hne s => ?_) (fun m _ s => eqStart_eqEff s m n k) s
  have hm : m < 24 := List.mem_range.mp hm
  exact eqStart_fld_inst s (by omega) _

theorem fused_fld_of_ne (s : State) {f : Fld} (h : ∀ k, f ≠ eqNow k) (i : Nat) : s.fused.fld f i = s.fld f i :=
  forAll_keeps (·.fld f i) _ _ (fun n _ s => eqStart_fld_of_ne s n h i) s

theorem fused_eqEff (s : State) (n k : Nat) : s.fused.eqEff n k = s.eqEff n k :=
  forAll_keeps (·.eqEff n k) _ _ (fun m _ s => eqStart_eqEff s m n k) s

/-! ### Reset values and the strap (R494, R529) -/

theorem blank_fld (s : State) (f : Fld) (i : Nat) : s.blank.fld f i = f.resetVal i := rfl

theorem blank_shd (s : State) (f : Fld) (i : Nat) : s.blank.shd f i = f.resetVal i := rfl

theorem strapped_fld_of_ne (s : State) (pos : Bool) {f : Fld} (hp : f ≠ .TRAY_POS_POS) (he : f ≠ .NODE_CFG_ELECT_PRIO) (i : Nat) :
    (s.strapped pos).fld f i = s.fld f i ∧ (s.strapped pos).shd f i = s.shd f i := by
  cases pos with
  | false => exact ⟨rfl, rfl⟩
  | true =>
    constructor
    · show ((s.setFld .TRAY_POS_POS 0 1).setFld .NODE_CFG_ELECT_PRIO 0 7).fld f i = _
      rw [setFld_fld_ne _ he, setFld_fld_ne _ hp]
    · exact setShd_shd_ne _ he ..

/-- What the strap decides (R18, Table 13.8). -/
theorem strapped_blank_strap (s : State) (pos : Bool) :
    (s.blank.strapped pos).fld .TRAY_POS_POS = b2n pos ∧ (s.blank.strapped pos).fld .NODE_CFG_ELECT_PRIO = 8 - b2n pos ∧
      (s.blank.strapped pos).shd .NODE_CFG_ELECT_PRIO = 8 - b2n pos := by
  cases pos with
  | false => exact ⟨rfl, rfl, rfl⟩
  | true =>
    refine ⟨?_, ?_, ?_⟩
    · show ((s.blank.setFld .TRAY_POS_POS 0 1).setFld .NODE_CFG_ELECT_PRIO 0 7).fld .TRAY_POS_POS = _
      rw [setFld_fld_ne _ (by decide), setFld_fld_same]
      rfl
    · exact setFld_fld_same (s.blank.setFld .TRAY_POS_POS 0 1) .NODE_CFG_ELECT_PRIO 0 7
    · exact setShd_shd_same ((s.blank.setFld .TRAY_POS_POS 0 1).setFld .NODE_CFG_ELECT_PRIO 0 7) .NODE_CFG_ELECT_PRIO 0 7

/-! ### The invariant of power and clocks -/

theorem State.PowerInv.ofRun {s : State} (hp : s.power = .run) (ht : s.thermtripLow = false) : s.PowerInv :=
  ⟨by simp [hp, ht], by simp [hp], by simp [hp], by simp [hp]⟩

/-- The queue in front of the chip is no part of what the invariant speaks of. -/
theorem State.PowerInv.withPending {s : State} (h : s.PowerInv) (rest : List Instr) : ({ s with pending := rest } : State).PowerInv := by
  have hlost (hl : s.lost) : ({ s with pending := rest } : State).lost := by
    unfold State.lost at hl ⊢
    exact congrArg (fun u : State => { u with pending := rest }) hl
  refine ⟨h.trip, fun hp => hlost (h.off hp), fun hp => hlost (h.rail hp), fun hp => ?_⟩
  obtain ⟨pos, hs⟩ := h.load hp
  refine ⟨pos, (congrArg (fun u : State => { u with pending := rest }) hs).trans ?_⟩
  cases pos <;> rfl

/-- No part of the running chip reaches power or THERMTRIP#. -/
theorem State.PowerInv.running {s : State} (h : s.PowerInv) (f : State → State) : (s.running f).PowerInv := by
  by_cases hp : s.power = .run
  · refine .ofRun (by simp [hp]) ?_
    rw [running_thermtripLow]
    simpa [hp] using h.trip
  · rwa [running_stopped hp]

theorem State.PowerInv.ofLost {s : State} (hl : s.lost) (ht : s.thermtripLow = false) (hp : s.power = .off ∨ s.power = .stoppedRail) :
    s.PowerInv := by
  refine ⟨?_, fun _ => hl, fun _ => hl, ?_⟩ <;> rcases hp with hp | hp <;> simp [hp, ht]

/-- RESET# leaves the chip fresh. -/
theorem strapped_blank_fresh (s : State) (pos : Bool) : (s.blank.strapped pos).fresh := by
  refine ⟨pos, ?_⟩
  cases pos <;> rfl

theorem coldReset_powerInv (s : State) (pos : Bool) : (s.blank.strapped pos).PowerInv := by
  have hpower : (s.blank.strapped pos).power = .fuseLoad := by cases pos <;> rfl
  have htrip : (s.blank.strapped pos).thermtripLow = false := by cases pos <;> rfl
  exact ⟨by simp [hpower, htrip], by simp [hpower], by simp [hpower], fun _ => strapped_blank_fresh s pos⟩

theorem portStart_fld (s : State) (f : Fld) (i : Nat) : s.portStart.fld f i = s.fld f i := rfl

theorem portStart_eqEff (s : State) (n k : Nat) : s.portStart.eqEff n k = s.eqEff n k :=
  eqEff_congr (s := s) (t := s.portStart) rfl (portStart_fld s (eqUc k) n)

/-- The end of the fuse load, where it happens (R530). -/
theorem fused_portStart_rest (s : State) (f : Fuses) :
    ({ s with power := .run, fuses := f } : State).fused.portStart =
      { s with power := .run, fuses := f, reg := ({ s with power := .run, fuses := f } : State).fused.reg
               portAt := s.clk + 5000 + Config.freeNat s.free % 20001, free := s.free + 1 } := by
  rw [State.portStart, fused_sameButReg { s with power := .run, fuses := f }]

theorem fuseLoadDone_powerInv {s : State} (h : s.PowerInv) (hp : s.power = .fuseLoad) (f : Fuses) :
    ({ s with power := .run, fuses := f } : State).fused.portStart.PowerInv := by
  rw [fused_portStart_rest]
  refine .ofRun rfl ?_
  simpa [hp] using h.trip

theorem stopped_powerInv {s : State} (h : s.PowerInv) {g : State → State} (hg : (g s).PowerInv) : (s.stopped g).PowerInv := by
  unfold State.stopped
  split <;> assumption

theorem thermStop_powerInv (s : State) : s.thermStop.PowerInv := ⟨by simp [State.thermStop], nofun, nofun, nofun⟩

theorem railStop_lost (s : State) : s.railStop.lost := rfl

theorem powerLoss_lost (s : State) : ({ s.blank with power := .off, pcieUp := false } : State).lost := rfl

theorem railStop_powerInv (s : State) : s.railStop.PowerInv := .ofLost (railStop_lost s) rfl (.inr rfl)

/-- Every command keeps the invariant. -/
theorem exec_powerInv {s t : State} (h : s.PowerInv) {c : Instr} (ht : exec c s = .next t) : t.PowerInv := by
  by_cases hw : c.wf = true
  case neg => simp [exec_illFormed (Bool.not_eq_true _ ▸ hw)] at ht
  by_cases hc : c.powers = false ∧ c.stops = false
  · obtain ⟨f, hf⟩ := exec_live hc.1 hc.2 hw
    rw [hf] at ht
    obtain rfl := Host.Outcome.next.inj ht
    exact h.running f
  · have done {u : State} (hu : u.PowerInv) (he : (.next u : Answer) = .next t) : t.PowerInv := Host.Outcome.next.inj he ▸ hu
    cases c with
    | powerLoss => exact done (.ofLost (powerLoss_lost s) rfl (.inl rfl)) ht
    | coldReset pos => exact done (coldReset_powerInv s pos) ht
    | fuseLoadDone f =>
      refine done ?_ ht
      split
      next hp => exact fuseLoadDone_powerInv h hp f
      next => exact h
    | thermtrip => exact done (stopped_powerInv h (thermStop_powerInv s)) ht
    | undervoltageStop => exact done (stopped_powerInv h (railStop_powerInv s)) ht
    | _ => exact absurd ⟨rfl, rfl⟩ hc

theorem step_pending_nil {s : State} (h : s.pending = []) : step s = .next s.idle := by simp [step, h]

theorem step_pending_cons {s : State} {c : Instr} {rest : List Instr} (h : s.pending = c :: rest) :
    step s = exec c { s with pending := rest } := by
  simp [step, h]

/-- No command touches the queue behind it. -/
theorem exec_pending {c : Instr} {s t : State} (ht : exec c s = .next t) : t.pending = s.pending := by
  by_cases hw : c.wf = true
  case neg => simp [exec_illFormed (Bool.not_eq_true _ ▸ hw)] at ht
  by_cases hc : c.powers = false ∧ c.stops = false
  · obtain ⟨f, hf⟩ := exec_live hc.1 hc.2 hw
    rw [hf] at ht
    obtain rfl := Host.Outcome.next.inj ht
    exact running_pending s f
  · have done {u : State} (hu : u.pending = s.pending) (he : (.next u : Answer) = .next t) : t.pending = s.pending :=
      Host.Outcome.next.inj he ▸ hu
    have stopped (g : State → State) (hg : (g s).pending = s.pending) : (s.stopped g).pending = s.pending := by
      unfold State.stopped
      split
      · exact hg
      · rfl
    cases c with
    | powerLoss => exact done (u := { s.blank with power := .off, pcieUp := false }) rfl ht
    | coldReset pos => exact done (by cases pos <;> rfl) ht
    | fuseLoadDone f =>
      refine done ?_ ht
      split
      · rw [fused_portStart_rest]
      · rfl
    | thermtrip => exact done (stopped _ rfl) ht
    | undervoltageStop => exact done (stopped _ rfl) ht
    | _ => exact absurd ⟨rfl, rfl⟩ hc

/-- A command whose operand list a wire can carry completes. -/
theorem exec_completes {c : Instr} (hw : c.wf = true) (s : State) : ∃ t, exec c s = .next t := by
  by_cases hc : c.powers = false ∧ c.stops = false
  · obtain ⟨f, hf⟩ := exec_live hc.1 hc.2 hw
    exact ⟨_, hf s⟩
  · cases c with
    | powerLoss | coldReset | fuseLoadDone | thermtrip | undervoltageStop => exact ⟨_, rfl⟩
    | _ => exact absurd ⟨rfl, rfl⟩ hc

/-- Without clocks only the supply, RESET# and the fuse load act. -/
theorem exec_stopped {c : Instr} {s t : State} (hp : s.power ≠ .run) (hc : c.powers = false) (ht : exec c s = .next t) : t = s := by
  by_cases hw : c.wf = true
  case neg => simp [exec_illFormed (Bool.not_eq_true _ ▸ hw)] at ht
  by_cases hs : c.stops = false
  · obtain ⟨f, hf⟩ := exec_live hc hs hw
    rw [hf, running_stopped hp] at ht
    exact (Host.Outcome.next.inj ht).symm
  · have hstop (g : State → State) : s.stopped g = s := by simp [State.stopped, hp]
    cases c with
    | thermtrip | undervoltageStop => exact (Host.Outcome.next.inj ht).symm.trans (hstop _)
    | _ => exact absurd rfl hs

end Sys2Proof.Machine

open Sys2Proof Sys2Proof.Machine

/-- Settles O3: a command is a part of the running chip, which cannot reach power and THERMTRIP#, or one of the five that change them. -/
theorem powerInvariantKept : Obligations.PowerInvariantKept := by
  intro s t h ht
  cases hq : s.pending with
  | nil =>
    rw [step_pending_nil hq] at ht
    obtain rfl := Host.Outcome.next.inj ht
    exact h.running State.cycle
  | cons c rest =>
    rw [step_pending_cons hq] at ht
    exact exec_powerInv (h.withPending rest) ht

/-- Settles O1. -/
theorem stepRunsTheFrontCommand : Obligations.StepRunsTheFrontCommand := by
  refine ⟨fun c rest s hq => step_pending_cons hq, fun s hq => ⟨s.idle, step_pending_nil hq, ?_⟩⟩
  rw [State.idle, running_pending, hq]

/-- Settles O4: the reset state is what RESET# leaves at position A. -/
theorem powerInvariantAtReset : Obligations.PowerInvariantAtReset := ⟨coldReset_powerInv State.reset false, reset_wf⟩

/-- Settles O2. -/
theorem commandsKeepTheQueueAndComplete : Obligations.CommandsKeepTheQueueAndComplete :=
  ⟨fun _ _ _ => exec_pending, fun _ s => ⟨fun hw => exec_completes hw s, fun hw => exec_illFormed hw s⟩, fun _ _ _ => exec_stopped⟩

/-- Settles O5. -/
theorem supplyAndResetPins : Obligations.SupplyAndResetPins := by
  refine ⟨fun s => ⟨_, rfl, rfl, powerLoss_lost s⟩, fun s pos => ?_, fun s f hp => ?_⟩
  · obtain ⟨hpos, hprio, hshd⟩ := strapped_blank_strap s pos
    refine ⟨_, rfl, by cases pos <;> rfl, by cases pos <;> rfl, hpos, hprio, hshd, fun g i hg hg' => strapped_fld_of_ne s.blank pos hg hg' i, ?_,
      fun a => by cases pos <;> rfl⟩
    exact (strapped_fld_of_ne s.blank pos (f := .TICK_STAT_CHIP_STATE) (by decide) (by decide) 0).1
  · have hrest := fused_portStart_rest s f
    refine ⟨({ s with power := .run, fuses := f } : State).fused.portStart, congrArg Host.Outcome.next (if_pos hp), ?_⟩
    refine ⟨by rw [hrest], by rw [hrest], by rw [hrest]; show _ ≤ _ + _ + _; omega, by rw [hrest]; show _ + _ + _ ≤ _; omega, ?_, ?_, ?_, ?_⟩
    · intro n k hn hk
      rw [portStart_fld, portStart_eqEff, fused_fld_eqNow _ hn hk, fused_eqEff]
    · intro g i hg
      rw [portStart_fld, fused_fld_of_ne _ hg]
      rfl
    · exact fun g i => by rw [hrest]; rfl
    · exact fun a => by rw [hrest]; rfl

/-- Settles O7. -/
theorem clockStopsAndPerst : Obligations.ClockStopsAndPerst := by
  intro s hrun htrip
  have hstop (g : State → State) : s.stopped g = g s := if_pos hrun
  refine ⟨⟨s.thermStop, congrArg Host.Outcome.next (hstop _), rfl, rfl, rfl, rfl, fun _ _ => rfl, fun _ _ => rfl, fun _ => rfl⟩,
    ⟨s.railStop, congrArg Host.Outcome.next (hstop _), rfl, rfl, railStop_lost s⟩, ⟨_, rfl, running_eq hrun rfl hrun rfl rfl⟩⟩
end

section
/-! PROOF. A write that a path carries to a register that it reaches: the register file meets it in a cycle of its own, and the management
port notes its status (R86, R91, R93, R94). -/

namespace Sys2Proof.Machine

/-! ### The state that a write meets, and what its path notes of it -/

/-- The state in which the register file meets a write that comes through `p`. -/
def State.joined (s : State) (p : Path) : State :=
  match p with
  | .mp => (s.setFld .MP_STAT_BURST_DONE 0 0).writeCycle .mp
  | p => (s.hostUp p).writeCycle p

/-- What path `p` notes of a write that was accepted. -/
def State.noted (s : State) (p : Path) : State :=
  match p with
  | .mp => (s.setFld .MP_STAT_BURST_DONE 0 1).mpStatus stOk
  | _ => s

/-- The register file takes a write of `v` and the hardware update `hw` of its cycle. -/
def State.take (s : State) (reg inst v hw : Nat) : State :=
  ({ s with lastHw := if hw != 0 then some (reg, inst, hw) else s.lastHw }).applyReg reg inst v (s.metHw reg inst hw)

/-- `f` is neither of the fields in which the management port notes a write that it accepts. -/
abbrev Fld.unnoted (f : Fld) : Prop := f ≠ .MP_STAT_LAST_CODE ∧ f ≠ .MP_STAT_BURST_DONE

theorem joined_rest (s : State) (p : Path) :
    s.joined p = { s with reg := (s.joined p).reg, clk := (s.joined p).clk, cyc := (s.joined p).cyc, pcieUp := (s.joined p).pcieUp,
                          lastWrite := (s.joined p).lastWrite, lastHw := (s.joined p).lastHw } := by
  cases p <;> unfold State.joined <;> dsimp only <;> rw [writeCycle_rest] <;> rfl

theorem joined_fld {f : Fld} (h : f ≠ .MP_STAT_BURST_DONE) (s : State) (p : Path) (i : Nat) : (s.joined p).fld f i = s.fld f i := by
  cases p with
  | mp => exact (writeCycle_fld ..).trans (setFld_fld_ne s h 0 i 0)
  | pf => exact (writeCycle_fld ..).trans (hostUp_fld ..)
  | vf t => exact (writeCycle_fld ..).trans (hostUp_fld ..)
  | mirror => exact (writeCycle_fld ..).trans (hostUp_fld ..)

theorem noted_sameButReg (s : State) (p : Path) : SameButReg s (s.noted p) := by
  cases p <;> rfl

theorem noted_fld {f : Fld} (h : f.unnoted) (s : State) (p : Path) (i : Nat) : (s.noted p).fld f i = s.fld f i := by
  obtain ⟨hl, hd⟩ := h
  cases p with
  | mp => exact (setFld_fld_ne _ hl 0 i _).trans (setFld_fld_ne s hd 0 i 1)
  | _ => rfl

/-- The port comes first in its cycle, so it meets no write of that cycle (R93). -/
theorem writeCycle_mp_lastHw (s : State) : (s.writeCycle .mp).lastHw = none := by
  rcases hw : s.lastWrite with _ | ⟨c, k⟩
  · simp [State.writeCycle, State.on, hw]
  · by_cases hc : c = s.clk
    · simp [State.writeCycle, State.on, State.advance, hw, hc, pathRank]
    · simp [State.writeCycle, State.on, hw, hc]

theorem writeCycle_lastHw {s : State} (h : s.lastHw = none) (p : Path) : (s.writeCycle p).lastHw = none := by
  have hon (c : Bool) : (s.on c (·.advance 1)).lastHw = none := by cases c <;> exact h
  unfold State.writeCycle
  dsimp only
  simp only [hon, ite_self]

/-- A write meets a hardware update of an earlier command only where one is on record. -/
theorem joined_lastHw {s : State} {p : Path} (h : p = .mp ∨ s.lastHw = none) : (s.joined p).lastHw = none := by
  cases p with
  | mp => exact writeCycle_mp_lastHw _
  | pf => exact writeCycle_lastHw (s := s.hostUp .pf) (h.resolve_left nofun) .pf
  | vf t => exact writeCycle_lastHw (s := s.hostUp (.vf t)) (h.resolve_left nofun) (.vf t)
  | mirror => exact writeCycle_lastHw (s := s.hostUp .mirror) (h.resolve_left nofun) .mirror

theorem joined_metHw {s : State} {p : Path} (h : p = .mp ∨ s.lastHw = none) (reg inst hw : Nat) : (s.joined p).metHw reg inst hw = hw := by
  simp only [State.metHw, joined_lastHw h]
  split <;> simp_all

/-! ### A register that a path reaches -/

theorem expertOk_congr {s t : State} (h : ∀ f i, f ≠ .MP_STAT_BURST_DONE → t.fld f i = s.fld f i) (reg inst : Nat) :
    t.expertOk reg inst = s.expertOk reg inst := by
  have ho (c n : Nat) : t.ownsChan n c = s.ownsChan n c := by
    simp only [State.ownsChan, State.fbit, h .CHAN_MASK_LO n (by decide), h .CHAN_MASK_HI n (by decide)]
  simp only [State.expertOk, State.flag, State.expert, State.fbit, State.chanOwner, ho, h .EXPERT_CTL_GLOBAL_EXPERT 0 (by decide),
    h .EXPERT_CTL_TENANT_EXPERT 0 (by decide)]

theorem portInst_congr {s t : State} (h : ∀ f i, f ≠ .MP_STAT_BURST_DONE → t.fld f i = s.fld f i) (reg : Nat) :
    t.portInst reg = s.portInst reg := by
  simp only [State.portInst, h .PORT_SEL_TENANT_SEL 0 (by decide), h .PORT_SEL_CHAN_SEL 0 (by decide),
    h .PORT_SEL_LINK_SEL 0 (by decide)]

/-- A register that takes words, has no beat to test and is not the port's own selection. -/
structure WordReg (reg : Nat) : Prop where
  aligned : reg % 4 = 0
  notBeat : reg ≠ 0x05C
  notSel : reg ≠ 0x014

section
variable {reg inst v hw : Nat} {s : State} {p : Path}

theorem WordReg.writeReg_eq (h : WordReg reg) (hp : p = .mp ∨ p = .pf ∨ isGuarded reg = false) (he : s.expertOk reg inst = true) :
    s.writeReg p reg inst v hw = (s.take reg inst v hw, .ok) := by
  unfold State.writeReg
  dsimp only
  rw [if_neg (by simp [h.notSel]), if_neg (by rcases hp with rfl | rfl | hp <;> simp [*]), if_neg (by simp [he]), hwEvent_of_ne h.notBeat]
  rfl

theorem WordReg.joined_writeReg (h : WordReg reg) (hr : s.reaches p reg inst) (he : s.expertOk reg inst = true) :
    (s.joined p).writeReg p reg inst v hw = ((s.joined p).take reg inst v hw, .ok) := by
  refine h.writeReg_eq ?_ ((expertOk_congr (fun f i hf => joined_fld hf s p i) reg inst).trans he)
  cases p with
  | mp => exact .inl rfl
  | pf => exact .inr (.inl rfl)
  | vf t => exact .inr (.inr hr.1)
  | mirror => exact .inr (.inr hr)

theorem WordReg.portWrite_eq (h : WordReg reg) (hr : s.reaches .mp reg inst) (he : s.expertOk reg inst = true)
    (hrst : resetWord reg v = false) : s.portWrite reg v hw = ((s.joined .mp).take reg inst v hw).noted .mp := by
  have hi : (s.setFld .MP_STAT_BURST_DONE 0 0).portInst reg = some inst :=
    (portInst_congr (fun f i hf => setFld_fld_ne s hf 0 i 0) reg).trans hr.2
  have hmp : (s.setFld .MP_STAT_BURST_DONE 0 0).mpWrite reg v hw = ((s.joined .mp).take reg inst v hw, stOk) := by
    simp only [State.mpWrite, hi]
    rw [show (s.setFld .MP_STAT_BURST_DONE 0 0).writeCycle .mp = s.joined .mp from rfl, h.joined_writeReg hr he]
    rfl
  unfold State.portWrite State.onPort
  rw [if_neg (Nat.not_lt.mpr hr.1)]
  simp only [h.aligned, hmp, hrst]
  rfl

/-- A write through a path that reaches its register. -/
theorem WordReg.pathWrite_eq (h : WordReg reg) (hr : s.reaches p reg inst) (he : s.expertOk reg inst = true)
    (hrst : resetWord reg v = false) : s.pathWrite p reg inst v = ((s.joined p).take reg inst v 0).noted p := by
  have hw := h.joined_writeReg (v := v) (hw := 0) hr he
  cases p with
  | mp => exact h.portWrite_eq hr he hrst
  | pf =>
    show (fun r : State × Took => r.1.countTook r.2) ((s.joined .pf).writeReg .pf reg inst v 0) = _
    rw [hw]
    rfl
  | mirror =>
    show (fun r : State × Took => r.1.countTook r.2) ((s.joined .mirror).writeReg .mirror reg inst v 0) = _
    rw [hw]
    rfl
  | vf t =>
    obtain ⟨-, hlo, hhi, hmine⟩ := hr
    unfold State.pathWrite
    dsimp only
    rw [if_neg (by simp [hmine, hlo, hhi])]
    show (fun r : State × Took => r.1.countTook r.2) ((s.joined (.vf t)).writeReg (.vf t) reg inst v 0) = _
    rw [hw]
    rfl

end

/-! ### What an accepted write leaves -/

/-- `t` is `u` after its path has noted the write, in the frame of a command of the running chip. -/
structure Wrote (u t : State) : Prop where
  fld : ∀ {f : Fld}, f.unnoted → ∀ i, t.fld f i = u.fld f i
  rest : t = { u with reg := t.reg, pending := t.pending, power := t.power, fuses := t.fuses, thermtripLow := t.thermtripLow }

section
variable {u t : State}

theorem Wrote.flag (h : Wrote u t) {f : Fld} (hf : f.unnoted) (i : Nat) : t.flag f i = u.flag f i := by
  show (t.fld f i != 0) = (u.fld f i != 0)
  rw [h.fld hf]

theorem Wrote.shd (h : Wrote u t) (f : Fld) (i : Nat) : t.shd f i = u.shd f i := by rw [h.rest]; rfl
theorem Wrote.byte (h : Wrote u t) (a : Nat) : t.byte a = u.byte a := by rw [h.rest]; rfl
theorem Wrote.commits (h : Wrote u t) : t.commits = u.commits := by rw [h.rest]
theorem Wrote.heat (h : Wrote u t) : t.heat = u.heat := by rw [h.rest]
theorem Wrote.tags (h : Wrote u t) : t.tags = u.tags := by rw [h.rest]
theorem Wrote.tk (h : Wrote u t) : t.tk = u.tk := by rw [h.rest]
theorem Wrote.node (h : Wrote u t) : t.node = u.node := by rw [h.rest]
theorem Wrote.damp (h : Wrote u t) : t.damp = u.damp := by rw [h.rest]
theorem Wrote.chan (h : Wrote u t) (c : Nat) : t.chan c = u.chan c := by rw [h.rest]; rfl

theorem Wrote.asked (h : Wrote u t) : t.asked = u.asked := by
  have hl : t.fld .TICK_CFG_TICK_LEN_K = u.fld .TICK_CFG_TICK_LEN_K := h.fld (by decide) 0
  have hc : t.cyc = u.cyc := by rw [h.rest]
  have hn : t.within 1024 = u.within 1024 := by
    unfold State.within State.tickLen
    rw [hl, hc, h.tk]
  unfold State.asked
  rw [hn, h.tk]

end

section
variable (s : State) (p : Path)

theorem joined_shd (f : Fld) (i : Nat) : (s.joined p).shd f i = s.shd f i := by rw [joined_rest]; rfl
theorem joined_byte (a : Nat) : (s.joined p).byte a = s.byte a := by rw [joined_rest]; rfl
theorem joined_commits : (s.joined p).commits = s.commits := by rw [joined_rest]
theorem joined_heat : (s.joined p).heat = s.heat := by rw [joined_rest]
theorem joined_tags : (s.joined p).tags = s.tags := by rw [joined_rest]
theorem joined_tk : (s.joined p).tk = s.tk := by rw [joined_rest]
theorem joined_node : (s.joined p).node = s.node := by rw [joined_rest]
theorem joined_damp : (s.joined p).damp = s.damp := by rw [joined_rest]
theorem joined_chan (c : Nat) : (s.joined p).chan c = s.chan c := by rw [joined_rest]; rfl
theorem joined_seqs : (s.joined p).seqs = s.seqs := by rw [joined_rest]

end

section
variable {reg inst v hw : Nat} {s : State} {p : Path}

theorem live_wrote (hrun : s.power = .run) {f : State → State} {u : State} (h : f s = u.noted p) :
    ∃ t, live s f = .next t ∧ Wrote u t := by
  refine ⟨_, rfl, fun hf i => ?_, ?_⟩
  · rw [running_fld hrun, h, noted_fld hf]
  · rw [running_run hrun, h, noted_sameButReg u p]

/-- A register command through a path that reaches its register, where R102 lets it through. -/
theorem WordReg.live_pathWrite (h : WordReg reg) (hrun : s.power = .run) (hr : s.reaches p reg inst) (he : s.expertOk reg inst = true)
    (hrst : resetWord reg v = false) :
    ∃ t, live s (fun s => s.pathWrite p reg inst v) = .next t ∧
      Wrote ((s.joined p).applyReg reg inst v ((s.joined p).metHw reg inst 0)) t :=
  live_wrote hrun (h.pathWrite_eq hr he hrst)

theorem wordReg_chCtrl : WordReg 0x800 := ⟨by decide, by decide, by decide⟩

/-- A write of CH_CTRL through a path that reaches the channel. -/
theorem chanPath_eq {c : Nat} (hr : s.reaches p 0x800 c) (x : Nat → Nat) :
    s.chanPath p c hw x = ((s.joined p).take 0x800 c (x c) hw).noted p := by
  have he : s.expertOk 0x800 c = true := by simp [State.expertOk, isExpertReg]
  have hw := wordReg_chCtrl.joined_writeReg (v := x c) (hw := hw) hr he
  cases p with
  | mp =>
    have hc : s.fld .PORT_SEL_CHAN_SEL = c := Option.some.inj hr.2
    have hrst : resetWord 0x800 (x c) = false := by simp [resetWord]
    rw [State.chanPath, hc, wordReg_chCtrl.portWrite_eq hr he hrst]
  | pf => exact congrArg Prod.fst hw
  | mirror => exact congrArg Prod.fst hw
  | vf t =>
    have hmine : (s.joined (.vf t)).ownsChan t c = true := by
      have : s.ownsChan t c = true := hr.2.2.2
      simpa only [State.ownsChan, State.fbit, joined_fld (f := .CHAN_MASK_LO) (by decide), joined_fld (f := .CHAN_MASK_HI) (by decide)]
    exact (if_pos hmine).trans (congrArg Prod.fst hw)

end
/-- `rfl` alone would have the kernel evaluate the doorbell's own comparison. -/
theorem applyReg_doorbell (s : State) (t v hw : Nat) : s.applyReg 0x424 t v hw = s.doorbell t v := by
  obtain ⟨d, hd⟩ : ∃ d, s.doorbell = d := ⟨_, rfl⟩
  unfold State.applyReg
  rw [hd]
  rfl

end Sys2Proof.Machine

open Sys2Proof Sys2Proof.Machine

/-- Settles O21: the doorbell meets the register file in a state with the same indices, and only its own branch writes a field. -/
theorem doorbell : Obligations.Doorbell := by
  intro s p h v hrun hr
  have hreg : WordReg 0x424 := ⟨by decide, by decide, by decide⟩
  obtain ⟨t, ht, hw⟩ := hreg.live_pathWrite (v := v.toNat) hrun hr (by simp [State.expertOk, isExpertReg]) (by simp [resetWord])
  refine ⟨t, ht, ?_⟩
  have hv : v.toNat % 2 ^ 32 = v.toNat := Nat.mod_eq_of_lt v.isLt
  have hfld (f : Fld) (i : Nat) (hf : f ≠ .MP_STAT_BURST_DONE) : (s.joined p).fld f i = s.fld f i := joined_fld hf s p i
  have hdb : (s.joined p).doorbell h v.toNat =
      if s.sqN h < occupancy v.toNat (s.fld .SQ_HEAD h) then (s.joined p).setFld .HEARTH_STAT_DB_ERR h 1
      else (s.joined p).setFld .SQ_TAIL h v.toNat := by
    rw [State.doorbell, State.sqN, State.sqN, hfld _ _ (by decide), hfld _ _ (by decide), hv]
  rw [applyReg_doorbell, hdb] at hw
  by_cases hover : s.sqN h < occupancy v.toNat (s.fld .SQ_HEAD h)
  · rw [if_pos hover] at hw
    refine ⟨fun hle => absurd hover (Nat.not_lt.mpr hle), fun _ => ⟨?_, fun f i hd hl hb => ?_⟩, fun i hi => ?_, fun a => ?_⟩
    · rw [hw.flag (by decide), State.flag, setFld_fld_same]
      rfl
    · rw [hw.fld ⟨hl, hb⟩, setFld_fld_ne _ hd, hfld f i hb]
    · rw [hw.fld (by decide), setFld_fld_ne _ (by decide), hfld _ i (by decide)]
    · exact (hw.byte a).trans (joined_byte s p a)
  · rw [if_neg hover] at hw
    refine ⟨fun _ => ⟨?_, fun f i hd hl hb => ?_⟩, fun hlt => absurd hlt hover, fun i hi => ?_, fun a => ?_⟩
    · rw [hw.fld (by decide), setFld_fld_same, show Fld.width .SQ_TAIL = 32 from rfl, hv]
    · rw [hw.fld ⟨hl, hb⟩, setFld_fld_ne _ hd, hfld f i hb]
    · rw [hw.fld (by decide), setFld_fld_other _ (fun e => hi ((Fld.key_inj e).2.trans (Nat.mod_eq_of_lt (by omega)))), hfld _ i (by decide)]
    · exact (hw.byte a).trans (joined_byte s p a)
end

section
/-! PROOF. Shadowed groups: COMMIT takes a snapshot through every path that reaches its register (R63, R71, R97, R102), and GROUP_APPLY makes
a pending one the active copy before the first lock (R12, R98, R100). -/

namespace Sys2Proof.Machine

/-! ### COMMIT registers -/

/-- The offset of a group's COMMIT register. -/
def commitOff : Group → Nat
  | .tick => 0x084 | .xbar => 0x11C | .damper => 0x154 | .ember => 0x228 | .clk => 0x304 | .therm => 0x314 | .cal => 0x3E0
  | .hearth _ => 0x410 | .queue _ => 0x420 | .kvpool _ => 0x60C | .chan _ => 0x8C0 | .stream _ => 0xA18 | .eq _ => 0xD94
  | .node => 0xE0C | .tray => 0xF14

theorem commitOff_of_commitAt {reg inst : Nat} {g : Group} (h : commitAt reg inst = some g) : reg = commitOff g := by
  unfold commitAt at h
  split at h <;> cases h <;> rfl

theorem wordReg_commitOff (g : Group) : WordReg (commitOff g) := by
  cases g <;> constructor <;> simp [commitOff]

theorem commitOff_ne_chipRst (g : Group) (v : Nat) : resetWord (commitOff g) v = false := by cases g <;> rfl

theorem isExpertReg_commitOff (g : Group) : isExpertReg (commitOff g) = decide (g = .ember ∨ g = .cal) := by
  cases g <;> simp [commitOff, isExpertReg]

/-- Both groups whose COMMIT stands in an expert sub-range are global (R102). -/
theorem expertOk_commitOff {s : State} {g : Group} (h : g = .ember ∨ g = .cal → s.flag .EXPERT_CTL_GLOBAL_EXPERT = true) (inst : Nat) :
    s.expertOk (commitOff g) inst = true := by
  unfold State.expertOk
  rw [isExpertReg_commitOff]
  by_cases hg : g = .ember ∨ g = .cal
  · have hlow : commitOff g < 0x400 := by rcases hg with rfl | rfl <;> decide
    simp [hlow, h hg]
  · simp [hg]

theorem exec_commitOf (p : Path) (v : Word32) (g : Group) (s : State) :
    exec (commitOf p v g) s = live s fun s => s.pathWrite p (commitOff g) (groupInst g) v.toNat := by
  cases g <;> rfl

theorem applyReg_commit {g : Group} (h : commitAt (commitOff g) (groupInst g) = some g) (s : State) (v hw : Nat) :
    s.applyReg (commitOff g) (groupInst g) v hw = s.commitReg g v := by
  unfold State.applyReg
  rw [h]

/-- A COMMIT through a path that reaches its register. -/
theorem exec_commit_wrote {s : State} {p : Path} {g : Group} {reg : Nat} (hrun : s.power = .run) (hat : commitAt reg (groupInst g) = some g)
    (hr : s.reaches p reg (groupInst g)) (he : g = .ember ∨ g = .cal → s.flag .EXPERT_CTL_GLOBAL_EXPERT = true) (v : Word32) :
    ∃ t, exec (commitOf p v g) s = .next t ∧ Wrote ((s.joined p).commitReg g v.toNat) t := by
  obtain rfl := commitOff_of_commitAt hat
  rw [exec_commitOf]
  obtain ⟨t, ht, hw⟩ :=
    (wordReg_commitOff g).live_pathWrite (v := v.toNat) hrun hr (expertOk_commitOff he _) (commitOff_ne_chipRst g _)
  rw [applyReg_commit hat] at hw
  exact ⟨t, ht, hw⟩

/-! ### What a COMMIT does -/

theorem seqOpen_congr {s t : State} (h : t.seqs = s.seqs) (n : Nat) : t.seqOpen n = s.seqOpen n := by
  unfold State.seqOpen
  rw [h]

section
variable {s : State} {g : Group} {v : Nat}

theorem commitReg_zero (hv : v.testBit 0 = false) : s.commitReg g v = s := by
  have hc (g : Group) : s.commit g v = s := by simp [State.commit, hv]
  unfold State.commitReg
  split
  · simp [hv, hc]
  · exact hc g

/-- R97, where neither R71 nor an open sequence refuses the COMMIT. -/
theorem commitReg_one (hv : v.testBit 0 = true) (htick : g = .tick → s.chip < chipKindling ∨ chipDamping < s.chip)
    (hkv : ∀ t, g = .kvpool t → s.seqOpen t = 0) : s.commitReg g v = s.commitGroup g := by
  have hc : s.commit g v = s.commitGroup g := by
    unfold State.commit
    rw [if_neg (by simp [hv]), if_neg]
    unfold chipKindling chipDamping at htick
    unfold chipKindling chipWarm chipDamping
    simp only [Bool.and_eq_true, Bool.or_eq_true, decide_eq_true_eq]
    rintro ⟨hg, hchip⟩
    rcases htick hg with h | h <;> omega
  unfold State.commitReg
  split
  · next t => rw [if_neg (by simp [hkv t rfl]), hc]
  · exact hc

theorem commitReg_tick_refused (hv : v.testBit 0 = true) (hlo : chipKindling ≤ s.chip) (hhi : s.chip ≤ chipDamping) :
    s.commitReg .tick v = s.setFld .TICK_STAT_CFG_ERR 0 1 := by
  show s.commit .tick v = _
  unfold State.commit
  rw [if_neg (by simp [hv]), if_pos]
  unfold chipKindling at hlo
  unfold chipDamping at hhi
  unfold chipKindling chipWarm chipDamping
  simp only [Bool.and_eq_true, Bool.or_eq_true, decide_eq_true_eq]
  exact ⟨trivial, by omega⟩

theorem commitReg_kvpool_refused {t : Fin 16} (hv : v.testBit 0 = true) (h : s.seqOpen t ≠ 0) :
    s.commitReg (.kvpool t) v = s.setFld .KV_HSTAT_CFG_ERR t 1 := if_pos (by simp [hv, h])

end

theorem setFld_writeCycle {f : Fld} (h : f ≠ .TICK_CFG_TICK_LEN_K) (s : State) (i v : Nat) (p : Path) :
    (s.setFld f i v).writeCycle p = (s.writeCycle p).setFld f i v := by
  have hadv (n : Nat) : (s.setFld f i v).advance n = (s.advance n).setFld f i v := by
    unfold State.advance State.tickLen
    rw [setFld_fld_ne _ h.symm]
    rfl
  have hon (c : Bool) : (s.setFld f i v).on c (·.advance 1) = (s.on c (·.advance 1)).setFld f i v := by
    cases c
    · rfl
    · exact hadv 1
  unfold State.writeCycle
  simp only [hon]
  rfl

theorem joined_cyc (s : State) (p : Path) : (s.joined p).cyc = (s.writeCycle p).cyc := by
  cases p with
  | mp => exact (congrArg State.cyc (setFld_writeCycle (f := .MP_STAT_BURST_DONE) (by decide) s 0 0 .mp) :)
  | pf => exact (congrArg State.cyc (writeCycle_pcieUp s .pf true) :)
  | vf t => exact (congrArg State.cyc (writeCycle_pcieUp s (.vf t) true) :)
  | mirror => rfl

theorem joined_within (s : State) (p : Path) (n : Nat) : (s.joined p).within n = (s.writeCycle p).within n := by
  have hl : (s.joined p).tickLen = (s.writeCycle p).tickLen := by
    unfold State.tickLen
    rw [joined_fld (by decide), writeCycle_fld]
  have hk : (s.writeCycle p).tk = s.tk := by rw [writeCycle_rest]
  unfold State.within
  rw [hl, joined_cyc, joined_tk, hk]

theorem joined_snapshot (s : State) (p : Path) (g : Group) : (s.joined p).snapshot g = s.snapshot g := by
  unfold State.snapshot
  simp only [joined_shd]

end Sys2Proof.Machine

open Sys2Proof Sys2Proof.Machine

/-- Settles O14: the register file meets the COMMIT in a state with the same snapshots, shadow copies and states, and takes one of the four
branches of `commitReg`. -/
theorem commitTakesASnapshot : Obligations.CommitTakesASnapshot := by
  intro s p v g reg hrun hat hr he
  obtain ⟨t, ht, hw⟩ := exec_commit_wrote hrun hat hr he v
  have hchip : (s.joined p).chip = s.chip := joined_fld (by decide) s p 0
  have hseq (n : Nat) : (s.joined p).seqOpen n = s.seqOpen n := seqOpen_congr (joined_seqs s p) n
  refine ⟨fun hv htick hkv => ⟨t, ht, ?_⟩, fun hv => ⟨t, ht, ?_⟩, fun hv hg hlo hhi => ⟨t, ht, ?_⟩, fun h hv hg hopen => ⟨t, ht, ?_⟩⟩
  · rw [commitReg_one hv (by rwa [hchip]) (by simpa only [hseq] using hkv)] at hw
    refine ⟨?_, fun f i => (hw.shd f i).trans (joined_shd s p f i), fun a => (hw.byte a).trans (joined_byte s p a),
      fun f i hl hb => (hw.fld ⟨hl, hb⟩ i).trans (joined_fld hb s p i)⟩
    rw [hw.commits, State.commitGroup, joined_commits, joined_within, joined_snapshot]
  · rw [commitReg_zero hv] at hw
    exact ⟨hw.commits.trans (joined_commits s p), fun f i => (hw.shd f i).trans (joined_shd s p f i),
      fun a => (hw.byte a).trans (joined_byte s p a), fun f i hl hb => (hw.fld ⟨hl, hb⟩ i).trans (joined_fld hb s p i)⟩
  · subst hg
    rw [commitReg_tick_refused hv (by rwa [hchip]) (by rwa [hchip])] at hw
    exact ⟨hw.commits.trans (joined_commits s p), by rw [hw.flag (by decide), State.flag, setFld_fld_same]; rfl⟩
  · subst hg
    rw [commitReg_kvpool_refused hv (by rwa [hseq])] at hw
    exact ⟨hw.commits.trans (joined_commits s p), by rw [hw.flag (by decide), State.flag, setFld_fld_same]; rfl⟩
end

section
/-! PROOF. GROUP_APPLY before the first lock (R12, R98, R100). -/

namespace Sys2Proof.Machine

/-- How many instances a group of a kind has. -/
def GKind.count : GKind → Nat
  | .CHAN | .STREAM => 64
  | .KVPOOL | .HEARTH | .QUEUE => 16
  | .EQ => 24
  | _ => 1

/-- The fields beside its own that a group writes when it applies before the first lock. -/
def appliedFlds : GKind → List Fld
  | .STREAM => [.RING_OWN_IDX, .RING_PEER_IDX, .RING_STAT_HALTED]
  | .QUEUE => [.SQ_TAIL, .SQ_HEAD, .CQ_TAIL, .CQ_HEAD, .AQ_TAIL, .AQ_HEAD]
  | .CLK => [.CLK_STAT_PLL_ON, .CLK_STAT_ACTIVE_GRADE]
  | .EQ => [.EQ_NOW_PRE, .EQ_NOW_MAIN, .EQ_NOW_POST, .EQ_NOW_CTLE]
  | _ => []

/-- The status bit that a refused snapshot of a kind sets. -/
def cfgErrFlds : GKind → List Fld
  | .TICK => [.TICK_STAT_CFG_ERR] | .DAMPER => [.DMP_STAT_CFG_ERR] | .STREAM => [.RING_STAT_CFG_ERR]
  | .KVPOOL => [.KV_HSTAT_CFG_ERR] | .XBAR => [.XB_STAT_CFG_ERR] | .HEARTH | .QUEUE => [.HEARTH_STAT_CFG_ERR]
  | .CLK => [.CLK_STAT_CFG_ERR] | .THERM => [.THERM_STAT_CFG_ERR] | .TRAY => [.TRAY_STAT_CFG_ERR]
  | _ => []

theorem GKind.fields_fit (k : GKind) : ∀ e ∈ k.fields, k.count * e.2 ≤ 1024 := by cases k <;> decide

theorem GKind.fields_notMem (k : GKind) : ∀ e ∈ k.fields, e.1 ∉ appliedFlds k ∧ e.1 ∉ cfgErrFlds k := by cases k <;> decide

theorem groupInst_lt (g : Group) : groupInst g < (groupKind g).count := by
  cases g <;> simp [groupInst, groupKind, GKind.count]

section
variable {g : Group} {e : Fld × Nat}

theorem mem_groupCells (h : e ∈ groupCells g) : e.2 < 1024 ∧ e.1 ∉ appliedFlds (groupKind g) ∧ e.1 ∉ cfgErrFlds (groupKind g) := by
  unfold groupCells at h
  simp only [List.mem_flatMap, List.mem_map] at h
  obtain ⟨x, hx, i, hi, rfl⟩ := h
  have hi : i < x.2 := List.mem_range.mp hi
  have hfit := GKind.fields_fit _ x hx
  have hle : (groupInst g + 1) * x.2 ≤ (groupKind g).count * x.2 := Nat.mul_le_mul_right _ (groupInst_lt g)
  rw [Nat.succ_mul] at hle
  exact ⟨by show groupInst g * x.2 + i < 1024; omega, GKind.fields_notMem _ x hx⟩

/-- Loading the active copy leaves every cell of the group with its value at the COMMIT. -/
theorem loadCells_fld (he : e ∈ groupCells g) (v : List (Nat × Nat)) (s : State) :
    (forAll (groupCells g) (fun e s => s.setFld e.1 e.2 (snapVal v e.1 e.2)) s).fld e.1 e.2 = snapVal v e.1 e.2 % 2 ^ e.1.width := by
  refine forAll_writes (·.fld e.1 e.2) (fun _ => snapVal v e.1 e.2 % 2 ^ e.1.width) he _ (fun s => setFld_fld_same s _ _ _)
    (fun x hx hne s => setFld_fld_other s (fun hk => hne ?_) _) (fun _ _ _ => rfl) s
  obtain ⟨hf, hi⟩ := Fld.key_inj hk
  rw [Nat.mod_eq_of_lt (mem_groupCells he).1, Nat.mod_eq_of_lt (mem_groupCells hx).1] at hi
  exact Prod.ext hf.symm hi.symm

theorem loadCells_rest (g : Group) (v : List (Nat × Nat)) (s : State) :
    SameButReg s (forAll (groupCells g) (fun e s => s.setFld e.1 e.2 (snapVal v e.1 e.2)) s) :=
  forAll_rel .refl .trans _ _ (fun _ _ s => setFld_sameButReg s _ _ _) s

/-! ### What applying does beside (R314, R337, R346, R509) -/

theorem eqClamp_sameButReg (s : State) (n : Nat) : SameButReg s (s.eqClamp n) :=
  forAll_rel .refl .trans _ _ (fun _ _ s => setFld_sameButReg s _ _ _) s

theorem eqNow_mem (k : Nat) : eqNow k ∈ appliedFlds .EQ := by
  unfold eqNow
  split <;> decide

theorem eqClamp_fld {f : Fld} (h : f ∉ appliedFlds .EQ) (s : State) (n i : Nat) : (s.eqClamp n).fld f i = s.fld f i :=
  forAll_keeps (·.fld f i) _ _ (fun k _ s => setFld_fld_of_mem h s n _ (eqNow_mem k)) s

/-- Memory, the shadow copies and the pending snapshots. -/
def State.kept (s : State) : List Host.Cell × List (Nat × Nat) × List Snapshot := (s.mem, s.shadow, s.commits)

theorem SameButReg.kept {s t : State} (h : SameButReg s t) : t.kept = s.kept := by
  unfold SameButReg at h
  rw [h]
  rfl

theorem on_kept {s : State} {c : Bool} {f : State → State} (h : (f s).kept = s.kept) : (s.on c f).kept = s.kept := by
  cases c
  · rfl
  · exact h

/-- Before the first lock applying a snapshot leaves every other field as it is. -/
theorem applied_fld {s : State} (hl : s.tk.firstLock = false) {f : Fld} (hf : f ∉ appliedFlds (groupKind g)) (o : State) (i : Nat) :
    (s.applied g o).fld f i = s.fld f i := by
  cases g with
  | tick =>
    rw [show s.applied .tick o = s by simp [State.applied, State.on, hl]]
  | stream c =>
    have hf : f ∉ appliedFlds .STREAM := hf
    unfold State.applied
    dsimp only
    rw [setFld_fld_of_mem hf _ _ _ (by decide), on_fld, on_fld rfl]
    rw [setFld_fld_of_mem hf _ _ _ (by decide), setFld_fld_of_mem hf _ _ _ (by decide)]
  | queue t => exact forAll_keeps (·.fld f i) _ _ (fun x hx s => setFld_fld_of_mem hf s _ _ hx) s
  | clk =>
    have hf : f ∉ appliedFlds .CLK := hf
    exact (setFld_fld_of_mem hf _ _ _ (by decide)).trans (setFld_fld_of_mem hf _ _ _ (by decide))
  | eq n => exact eqClamp_fld hf s n i
  | damper | ember | chan | kvpool | xbar | node | hearth | therm | cal | tray => rfl

theorem applied_kept {s : State} (hl : s.tk.firstLock = false) (g : Group) (o : State) : (s.applied g o).kept = s.kept := by
  cases g with
  | tick =>
    rw [show s.applied .tick o = s by simp [State.applied, State.on, hl]]
  | stream c =>
    refine (setFld_sameButReg _ _ _ _).kept.trans ((on_kept ?_).trans (on_kept ?_))
    · exact ((setFld_sameButReg _ _ _ _).trans (setFld_sameButReg _ _ _ _)).kept
    · rfl
  | queue t => exact (forAll_rel .refl .trans _ _ (fun _ _ s => setFld_sameButReg s _ _ _) s : SameButReg s _).kept
  | eq n => exact (eqClamp_sameButReg s n).kept
  | clk | damper | ember | chan | kvpool | xbar | node | hearth | therm | cal | tray => rfl

theorem cfgErr_sameButReg (s : State) (g : Group) : SameButReg s (s.cfgErr g) := by
  cases g <;> rfl

theorem cfgErr_fld {f : Fld} (h : f ∉ cfgErrFlds (groupKind g)) (s : State) (i : Nat) : (s.cfgErr g).fld f i = s.fld f i := by
  cases g with
  | ember | chan | node | cal | eq => rfl
  | _ => exact setFld_fld_of_mem h s _ _ (List.mem_singleton_self _)

theorem applySnap_of_snapOk {s : State} {c : Snapshot} (h : s.snapOk c.grp c.vals = true) :
    s.applySnap c = (forAll (groupCells c.grp) (fun e s => s.setFld e.1 e.2 (snapVal c.vals e.1 e.2)) s).applied c.grp s := if_pos h

end

end Sys2Proof.Machine

open Sys2Proof Sys2Proof.Machine

/-- Settles O15: a snapshot that passes loads its cells, which nothing that applying does beside writes; one that fails sets the status bit. -/
theorem groupApplies : Obligations.GroupApplies := by
  intro s g c hrun hl hc
  obtain rfl : c.grp = g := by simpa using List.find?_some hc
  refine ⟨_, exec_groupApply_pending hl hc, ?_⟩
  rw [running_run hrun]
  rcases hok : ({ s with commits := s.commits.erase c } : State).snapOk c.grp c.vals with _ | _
  · rw [applySnap_of_not_snapOk hok]
    have hrest := cfgErr_sameButReg { s with commits := s.commits.erase c } c.grp
    obtain ⟨hm, hs, hk⟩ : _ ∧ _ ∧ _ := by simpa only [State.kept, Prod.mk.injEq] using hrest.kept
    refine ⟨hk, fun f i => congrArg (mget _ _) hs, fun a => congrArg (mget _ _) hm, nofun, fun _ => ⟨fun e he => ?_, ?_⟩⟩
    · exact cfgErr_fld (mem_groupCells he).2.2 _ _
    · rw [hrest, hrun]
  · rw [applySnap_of_snapOk hok]
    have hload := loadCells_rest c.grp c.vals { s with commits := s.commits.erase c }
    have hl' : (forAll (groupCells c.grp) (fun e s => s.setFld e.1 e.2 (snapVal c.vals e.1 e.2))
        { s with commits := s.commits.erase c }).tk.firstLock = false := by
      rw [hload]
      exact hl
    obtain ⟨hm, hs, hk⟩ : _ ∧ _ ∧ _ := by
      simpa only [State.kept, Prod.mk.injEq] using
        (applied_kept hl' c.grp { s with commits := s.commits.erase c }).trans hload.kept
    exact ⟨hk, fun f i => congrArg (mget _ _) hs, fun a => congrArg (mget _ _) hm,
      fun _ e he => (applied_fld hl' (mem_groupCells he).2.1 _ _).trans (loadCells_fld he c.vals _), nofun⟩
end

section
/-! PROOF. Expert commands: the trace's ARM, HEAT_FORCE and the reset of a tag (R221, R359, R391). -/

namespace Sys2Proof.Machine

theorem expertOk_global {s : State} (h : s.flag .EXPERT_CTL_GLOBAL_EXPERT = true) {reg : Nat} (hreg : reg < 0x400) (inst : Nat) :
    s.expertOk reg inst = true := by
  simp [State.expertOk, hreg, h]

/-- A path's own notes, and nothing beside the registers, clocks and PCIe state of the cycle in which the write came. -/
theorem Wrote.fld_eq {s t : State} {p : Path} (h : Wrote (s.joined p) t) {f : Fld} (hf : f.unnoted) (i : Nat) : t.fld f i = s.fld f i :=
  (h.fld hf i).trans (joined_fld hf.2 s p i)

/-! ### TRACE_CTL -/

/-- A row that takes its bits of the word, whatever its field held. -/
theorem writeRows_fld_of_row {reg : Nat} {v : Option Nat} {hw : Nat} {r : RegRow} {f : Fld} {x : Nat} (hr : r ∈ rowsAt reg)
    (hset : ∀ s : State, (s.writeRow reg 0 v hw r).fld f = x) (hother : ∀ q ∈ rowsAt reg, q ≠ r → q.cell.field? ≠ some f) (s : State) :
    (s.writeRows reg 0 v hw).fld f = x := by
  rw [writeRows_rowsAt]
  exact forAll_writes (·.fld f) (fun _ => x) hr _ hset (fun q hq hne s => writeRow_fld (hother q hq hne) s) (fun _ _ _ => rfl) s

/-- The arm bit's row, and the row of the end of a trace. -/
def traceArmRow : RegRow := ⟨0x1A4, 0, 1, 16, 1, .fld .TRACE_CTL_ARM 0 .W1S .SET⟩
def traceDoneRow : RegRow := ⟨0x1A4, 0, 1, 17, 1, .fld .TRACE_CTL_DONE 0 .W1C .HW⟩

theorem bitsOf_one (v k : Nat) : bitsOf v k 1 = b2n (v.testBit k) := by
  rw [bitsOf, b2n, Nat.pow_one, Nat.testBit_eq_decide_div_mod_eq]
  have := Nat.mod_lt (v / 2 ^ k) (show 0 < 2 by decide)
  split <;> simp_all

section
variable {v : Nat} (s : State)

/-- A field of TRACE_CTL that the word replaces. -/
theorem traceCtl_plain {c : Fld × Nat} (hc : plainRow 0x1A4 c ∈ rowsAt 0x1A4) (hs : c.1 ∉ selectedFlds)
    (ho : ∀ q ∈ rowsAt 0x1A4, q ≠ plainRow 0x1A4 c → q.cell.field? ≠ some c.1) :
    (s.writeRows 0x1A4 0 (some v) 0).fld c.1 = bitsOf v c.2 c.1.width :=
  writeRows_fld_of_row hc (fun s => writeRow_plainRow_fld hs s v) ho s

theorem traceCtl_arm : (s.writeRows 0x1A4 0 (some v) 0).flag .TRACE_CTL_ARM = (v.testBit 16 || s.flag .TRACE_CTL_ARM) := by
  have hrow (s : State) : s.writeRow 0x1A4 0 (some v) 0 traceArmRow =
      s.on (v.testBit 16) fun s => s.setFld .TRACE_CTL_ARM 0 (setBits (s.fld .TRACE_CTL_ARM) 0 1 1) := by
    show (if (bitsOf v 16 1 != 0) = true then _ else if (bitsOf 0 16 1 != 0) = true then _ else s) = _
    rw [bitsOf_one]
    cases v.testBit 16 <;> rfl
  have hmem : traceArmRow ∈ rowsAt 0x1A4 := by decide
  have hother : ∀ q ∈ rowsAt 0x1A4, q ≠ traceArmRow → q.cell.field? ≠ some .TRACE_CTL_ARM := by decide
  cases hv : v.testBit 16
  · have hkeep : (s.writeRows 0x1A4 0 (some v) 0).fld .TRACE_CTL_ARM = s.fld .TRACE_CTL_ARM := by
      rw [writeRows_rowsAt]
      refine forAll_keeps (·.fld .TRACE_CTL_ARM) _ _ (fun q hq s => ?_) s
      by_cases h : q = traceArmRow
      · rw [h, hrow, hv]
        rfl
      · exact writeRow_fld (hother q hq h) s
    simp [State.flag, hkeep]
  · have hset : (s.writeRows 0x1A4 0 (some v) 0).fld .TRACE_CTL_ARM = 1 :=
      writeRows_fld_of_row hmem (fun s => by rw [hrow, hv]; exact (setFld_fld_same _ _ _ _).trans (setBits_zero_mod _ 1 1)) hother s
    simp [State.flag, hset]

theorem traceCtl_done (hv : v.testBit 17 = true) : (s.writeRows 0x1A4 0 (some v) 0).flag .TRACE_CTL_DONE = false := by
  have hset : (s.writeRows 0x1A4 0 (some v) 0).fld .TRACE_CTL_DONE = 0 := by
    refine writeRows_fld_of_row (r := traceDoneRow) (by decide) (fun s => ?_) (by decide) s
    have hbit : ∀ x < 2, (x - (x &&& 1)) ||| bitsOf 0 17 1 = 0 := by decide
    have hx : bitsOf (s.fld .TRACE_CTL_DONE) 0 1 < 2 := Nat.mod_lt _ (by decide)
    show (s.setFld .TRACE_CTL_DONE 0 (setBits _ 0 1 ((bitsOf _ 0 1 - (bitsOf _ 0 1 &&& bitsOf v 17 1)) ||| bitsOf 0 17 1))).fld .TRACE_CTL_DONE = 0
    rw [setFld_fld_same, bitsOf_one v, hv]
    exact (setBits_zero_mod _ 1 _).trans (congrArg (· % 2 ^ 1) (hbit _ hx))
  simp [State.flag, hset]

end

/-- `t` differs from `s` in registers, shadow copies and the count of free values alone. -/
def SameButRows (s t : State) : Prop := t = { s with reg := t.reg, shadow := t.shadow, free := t.free }

theorem SameButRows.refl (s : State) : SameButRows s s := rfl

theorem SameButRows.trans {s t u : State} (h : SameButRows s t) (k : SameButRows t u) : SameButRows s u := by
  unfold SameButRows at *
  rw [h] at k
  exact k

theorem bump_sameButRows (s : State) (f : Fld) (i n : Nat) : SameButRows s (s.bump f i n) := by
  unfold State.bump SameButRows
  split <;> rfl

theorem writeRow_sameButRows {reg inst hw : Nat} {v : Option Nat} (r : RegRow) (s : State) :
    SameButRows s (s.writeRow reg inst v hw r) := by
  unfold State.writeRow
  split
  · dsimp only
    split
    case h_6 =>
      split
      · exact bump_sameButRows ..
      · exact .trans (t := s.setFld ..) rfl (bump_sameButRows ..)
    all_goals repeat' split
    all_goals rfl
  · rfl

theorem writeRows_sameButRows {reg inst hw : Nat} {v : Option Nat} (s : State) : SameButRows s (s.writeRows reg inst v hw) :=
  forAll_rel .refl .trans _ _ (fun r _ s => writeRow_sameButRows r s) s

/-! ### HEAT_FORCE -/

theorem applyReg_heatForce (s : State) (hi : Bool) (inst v hw : Nat) :
    s.applyReg (0x260 + 4 * b2n hi) inst v hw = s.forceHeat hi v := by
  cases hi <;> rfl

theorem forceHeat_heatSt (s : State) (hi : Bool) (v n : Nat) :
    (s.forceHeat hi v).heatSt n =
      if 32 * b2n hi ≤ n ∧ n < 32 * b2n hi + 32 ∧ v.testBit (n - 32 * b2n hi) = true ∧ (s.heatSt n = 0 ∨ s.heatSt n = 3) then 2
      else s.heatSt n := by
  have hmem (k : Nat) : k ∈ (upTo 32).filter v.testBit ↔ k < 32 ∧ v.testBit k = true := by simp [upTo]
  unfold State.forceHeat
  dsimp only
  by_cases hn : 32 * b2n hi ≤ n ∧ n - 32 * b2n hi ∈ (upTo 32).filter v.testBit
  · obtain ⟨hlo, hk⟩ := hn
    have hback : n - 32 * b2n hi + 32 * b2n hi = n := by omega
    have hb := (hmem _).mp hk
    have hcond : ∀ q : Prop, (32 * b2n hi ≤ n ∧ n < 32 * b2n hi + 32 ∧ v.testBit (n - 32 * b2n hi) = true ∧ q) ↔ q := fun q =>
      ⟨fun h => h.2.2.2, fun h => ⟨hlo, by omega, hb.2, h⟩⟩
    simp only [hcond]
    refine forAll_writes (·.heatSt n) (fun s => if s.heatSt n = 0 ∨ s.heatSt n = 3 then 2 else s.heatSt n) hk _ (fun s => ?_)
      (fun b _ hne s => ?_) (fun b _ s => ?_) s
    · rw [hback]
      by_cases h : s.heatSt n = 0 ∨ s.heatSt n = 3
      · rw [if_pos (by simpa using h), setHeat_same, if_pos h]
      · rw [if_neg (by simpa using h), if_neg h]
    · split
      · exact setHeat_other s (by omega) 2
      · rfl
    · split
      · by_cases hx : n = b + 32 * b2n hi
        · subst hx
          simp_all
        · rw [setHeat_other s hx]
      · rfl
  · rw [if_neg (fun ⟨hlo, hhi, hb, _⟩ => hn ⟨hlo, (hmem _).mpr ⟨by omega, hb⟩⟩)]
    refine forAll_keeps (·.heatSt n) _ _ (fun b hb s => ?_) s
    split
    · exact setHeat_other s (fun e => hn ⟨by omega, by rw [e, Nat.add_sub_cancel]; exact hb⟩) 2
    · rfl

/-- `t` differs from `s` in the preheat slots alone. -/
def SameButHeat (s t : State) : Prop := t = { s with heat := t.heat, heatClk := t.heatClk, heatOld := t.heatOld }

theorem forceHeat_sameButHeat (s : State) (hi : Bool) (v : Nat) : SameButHeat s (s.forceHeat hi v) := by
  refine forAll_rel (R := SameButHeat) (fun _ => rfl) (fun {s t u} h k => ?_) _ _ (fun n _ s => ?_) s
  · unfold SameButHeat at *
    rw [h] at k
    exact k
  · dsimp only
    split <;> rfl

/-! ### KV_TAG_RESET -/

/-- GO ends a closed tag. -/
def State.goEnds (s : State) (v : Nat) : Prop :=
  v.testBit 16 = true ∧ ((s.tag (bitsOf v 8 4) (bitsOf v 0 8)).st = 2 ∨ (s.tag (bitsOf v 8 4) (bitsOf v 0 8)).st = 3)

/-- TAG and HEARTH of KV_TAG_RESET, loaded. -/
def State.goLoaded (s : State) (v : Nat) : State := (s.setFld .KV_TAG_RESET_TAG 0 (bitsOf v 0 8)).setFld .KV_TAG_RESET_HEARTH 0 (bitsOf v 8 4)

theorem tagReset_eq (s : State) (v : Nat) :
    s.tagReset v = (s.goLoaded v).on (v.testBit 16 && (decide ((s.tag (bitsOf v 8 4) (bitsOf v 0 8)).st = 2) ||
      decide ((s.tag (bitsOf v 8 4) (bitsOf v 0 8)).st = 3))) fun s => s.setTag (bitsOf v 8 4) (bitsOf v 0 8) {} := rfl

theorem tagReset_ends {s : State} {v : Nat} (h : s.goEnds v) :
    s.tagReset v = (s.goLoaded v).setTag (bitsOf v 8 4) (bitsOf v 0 8) {} :=
  (tagReset_eq s v).trans (if_pos (by simpa [State.goEnds] using h))

theorem tagReset_keeps {s : State} {v : Nat} (h : ¬ s.goEnds v) : s.tagReset v = s.goLoaded v :=
  (tagReset_eq s v).trans (if_neg (by simpa [State.goEnds] using h))

theorem bitsOf_lt (x lo n : Nat) : bitsOf x lo n < 2 ^ n := Nat.mod_lt _ (Nat.two_pow_pos n)

theorem goLoaded_hearth (s : State) (v : Nat) : (s.goLoaded v).fld .KV_TAG_RESET_HEARTH = bitsOf v 8 4 :=
  (setFld_fld_same _ _ _ _).trans (Nat.mod_eq_of_lt (bitsOf_lt v 8 4))

theorem goLoaded_tag (s : State) (v : Nat) : (s.goLoaded v).fld .KV_TAG_RESET_TAG = bitsOf v 0 8 :=
  (setFld_fld_ne _ (by decide) 0 0 _).trans ((setFld_fld_same _ _ _ _).trans (Nat.mod_eq_of_lt (bitsOf_lt v 0 8)))

theorem goLoaded_fld {f : Fld} (ht : f ≠ .KV_TAG_RESET_TAG) (hh : f ≠ .KV_TAG_RESET_HEARTH) (s : State) (v i : Nat) :
    (s.goLoaded v).fld f i = s.fld f i :=
  (setFld_fld_ne _ hh 0 i _).trans (setFld_fld_ne s ht 0 i _)

end Sys2Proof.Machine

open Sys2Proof Sys2Proof.Machine

/-- Settles O20: each of the three registers takes the write by an operation of its own, in a state with the same slots, tags and fields. -/
theorem expertCommands : Obligations.ExpertCommands := by
  intro s p v hrun hx
  refine ⟨fun hr hp => ?_, fun hi hr => ?_, fun hr => ?_⟩
  · have hreg : WordReg 0x1A4 := ⟨by decide, by decide, by decide⟩
    obtain ⟨t, ht, hw⟩ := hreg.live_pathWrite (v := v.toNat) hrun hr (expertOk_global hx (by decide) 0) rfl
    rw [joined_metHw hp] at hw
    change Wrote ((s.joined p).writeRows 0x1A4 0 (some v.toNat) 0) t at hw
    have hrest := writeRows_sameButRows (reg := 0x1A4) (inst := 0) (v := some v.toNat) (hw := 0) (s.joined p)
    refine ⟨t, ht, ?_, ?_, ?_, fun hv => ?_, fun f i hsl hrow harm hdone hl hb => ?_, fun a => ?_, ?_, ?_⟩
    · exact (hw.fld (by decide) 0).trans (traceCtl_plain (c := (.TRACE_CTL_SL, 0)) _ (by decide) (by decide) (by decide))
    · exact (hw.fld (by decide) 0).trans (traceCtl_plain (c := (.TRACE_CTL_ROW, 8)) _ (by decide) (by decide) (by decide))
    · rw [hw.flag (by decide), traceCtl_arm, State.flag, joined_fld (by decide)]
      rfl
    · exact (hw.flag (by decide) 0).trans (traceCtl_done _ hv)
    · have hnot : f ∉ [Fld.TRACE_CTL_SL, .TRACE_CTL_ROW, .TRACE_CTL_ARM, .TRACE_CTL_DONE] := by simp [hsl, hrow, harm, hdone]
      exact (hw.fld ⟨hl, hb⟩ i).trans ((writeRows_fld_of_notMem hnot _).trans (joined_fld hb s p i))
    · rw [hw.byte, hrest]
      exact joined_byte s p a
    · rw [hw.heat, hrest]
      exact joined_heat s p
    · rw [hw.tags, hrest]
      exact joined_tags s p
  · have hreg : WordReg (0x260 + 4 * b2n hi) := by cases hi <;> exact ⟨by decide, by decide, by decide⟩
    obtain ⟨t, ht, hw⟩ := hreg.live_pathWrite (v := v.toNat) hrun hr (expertOk_global hx (by cases hi <;> decide) 0) (by cases hi <;> rfl)
    rw [applyReg_heatForce] at hw
    have hrest := forceHeat_sameButHeat (s.joined p) hi v.toNat
    have hst (u w : State) (h : u.heat = w.heat) (n : Nat) : u.heatSt n = w.heatSt n := congrArg (mget 0 n) h
    refine ⟨t, ht, fun n => ?_, fun f i hl hb => ?_, fun a => ?_, ?_⟩
    · rw [hst _ _ hw.heat n, forceHeat_heatSt, hst _ s (joined_heat s p) n]
    · rw [hw.fld ⟨hl, hb⟩, hrest]
      exact joined_fld hb s p i
    · rw [hw.byte, hrest]
      exact joined_byte s p a
    · rw [hw.tags, hrest]
      exact joined_tags s p
  · have hreg : WordReg 0x2A0 := ⟨by decide, by decide, by decide⟩
    obtain ⟨t, ht, hw⟩ := hreg.live_pathWrite (v := v.toNat) hrun hr (expertOk_global hx (by decide) 0) rfl
    change Wrote ((s.joined p).tagReset v.toNat) t at hw
    have htag (u w : State) (h : u.tags = w.tags) (x y : Nat) : u.tag x y = w.tag x y := congrArg (mget ({} : SpecTag) (x * 256 + y)) h
    have hj := htag (s.joined p) s (joined_tags s p)
    have hgo : (s.joined p).goEnds v.toNat ↔ s.goEnds v.toNat := by
      unfold State.goEnds
      rw [hj]
    have hfld {f : Fld} (h1 : f ≠ .KV_TAG_RESET_TAG) (h2 : f ≠ .KV_TAG_RESET_HEARTH) (hb : f ≠ .MP_STAT_BURST_DONE) (i : Nat) :
        ((s.joined p).goLoaded v.toNat).fld f i = s.fld f i := (goLoaded_fld h1 h2 _ _ i).trans (joined_fld hb s p i)
    by_cases hend : s.goEnds v.toNat
    · rw [tagReset_ends (hgo.mpr hend)] at hw
      refine ⟨t, ht, ?_, fun x y hne => ?_, ?_, ?_, fun f i h1 h2 hl hb => ?_, fun a => ?_, ?_⟩
      · rw [htag _ _ hw.tags, setTag_same]
        exact (if_pos hend).symm
      · rw [htag _ _ hw.tags, setTag_other _ hne]
        exact hj x y
      · exact (hw.fld (by decide) 0).trans (goLoaded_tag ..)
      · exact (hw.fld (by decide) 0).trans (goLoaded_hearth ..)
      · exact (hw.fld ⟨hl, hb⟩ i).trans (hfld h1 h2 hb i)
      · exact (hw.byte a).trans (joined_byte s p a)
      · exact hw.heat.trans (joined_heat s p)
    · rw [tagReset_keeps (hgo.not.mpr hend)] at hw
      refine ⟨t, ht, ?_, fun x y hne => ?_, ?_, ?_, fun f i h1 h2 hl hb => ?_, fun a => ?_, ?_⟩
      · rw [htag _ _ hw.tags]
        exact (hj _ _).trans (if_neg hend).symm
      · exact (htag _ _ hw.tags x y).trans (hj x y)
      · exact (hw.fld (by decide) 0).trans (goLoaded_tag ..)
      · exact (hw.fld (by decide) 0).trans (goLoaded_hearth ..)
      · exact (hw.fld ⟨hl, hb⟩ i).trans (hfld h1 h2 hb i)
      · exact (hw.byte a).trans (joined_byte s p a)
      · exact hw.heat.trans (joined_heat s p)
end

section
/-! PROOF. Units that are lost: the registers that a loss writes, and the kill registers (R23, R64, R102, R218, R251, R390, R547). -/

namespace Sys2Proof.Machine

/-! ### Frames of registers -/

/-- `t` differs from `s` in no register field outside `fs`. -/
def FldsBut (fs : List Fld) (s t : State) : Prop := ∀ f i, f ∉ fs → t.fld f i = s.fld f i

section
variable {fs : List Fld} {s t u : State}

theorem FldsBut.refl (fs : List Fld) (s : State) : FldsBut fs s s := fun _ _ _ => rfl

theorem FldsBut.trans (h : FldsBut fs s t) (k : FldsBut fs t u) : FldsBut fs s u := fun f i hf => (k f i hf).trans (h f i hf)

theorem FldsBut.on {c : Bool} {g : State → State} (h : FldsBut fs s (g s)) : FldsBut fs s (s.on c g) := by
  cases c
  · exact .refl fs s
  · exact h

theorem FldsBut.ite {c : Prop} [Decidable c] (ht : FldsBut fs s t) (hu : FldsBut fs s u) : FldsBut fs s (if c then t else u) := by
  split <;> assumption

theorem FldsBut.forAll {α : Type} {l : List α} {f : α → State → State} (h : ∀ a s, FldsBut fs s (f a s)) :
    FldsBut fs s (forAll l f s) :=
  forAll_rel (.refl fs) .trans _ _ (fun a _ s => h a s) s

theorem FldsBut.mono {gs : List Fld} (h : FldsBut fs s t) (sub : ∀ f ∈ fs, f ∈ gs) : FldsBut gs s t :=
  fun f i hf => h f i fun m => hf (sub f m)

theorem Reported.fldsBut (h : Reported fs s t) : FldsBut fs s t := h.regs

theorem setFld_fldsBut (s : State) {f : Fld} (hf : f ∈ fs) (i v : Nat) : FldsBut fs s (s.setFld f i v) :=
  (setFld_reported s hf i v).fldsBut

theorem bump_fldsBut (s : State) {f : Fld} (hf : f ∈ fs) (i n : Nat) : FldsBut fs s (s.bump f i n) := (bump_reported s hf i n).fldsBut

end

theorem undefBytes_fldsBut (s : State) (a n : Nat) : FldsBut [.REFETCH_COUNT] s (s.undefBytes a n) :=
  fun f i hf => (show_reported _ (List.mem_singleton_self _) { s with free := s.free + n } a _).regs f i hf

theorem spoil_fldsBut (s : State) (x : Flight) : FldsBut [.REFETCH_COUNT] s (s.spoil x) := by
  unfold State.spoil
  exact .ite (.forAll fun _ s => undefBytes_fldsBut s _ _) (.forAll fun _ s => undefBytes_fldsBut s _ _)

theorem faultFlight_fldsBut (s : State) (k cause arg : Nat) : FldsBut [.REFETCH_COUNT] s (s.faultFlight k cause arg) := by
  unfold State.faultFlight
  split
  · exact .refl _ s
  · next x _ => exact .ite (.refl _ s) (spoil_fldsBut s x)

theorem faultFlights_fldsBut (s : State) (p : Flight → Bool) (cause arg : Nat) : FldsBut [.REFETCH_COUNT] s (s.faultFlights p cause arg) :=
  .forAll fun k s => faultFlight_fldsBut s k cause arg

/-! ### Losses -/

/-- The registers that a remap writes (R177). -/
def remapFlds : List Fld := [.FAB_STAT, .SLICE_MAP0, .SLICE_MAP1, .ENG_STAT_MIX_LIVE, .REFETCH_COUNT]

theorem clearRows_fld (s : State) (lo hi : Nat) (p : Latch → Bool) (f : Fld) (i : Nat) :
    ((s.zeroRange lo hi).dropLatches p).fld f i = s.fld f i := rfl

theorem remapSlices_fldsBut (s : State) (m : Nat) : FldsBut remapFlds s (s.remapSlices m) := by
  intro f i hf
  have hset (u : State) (x y z : Nat) : (((u.setFld .FAB_STAT 0 x).setFld .SLICE_MAP0 0 y).setFld .SLICE_MAP1 0 z).fld f i = u.fld f i := by
    rw [setFld_fld_of_mem (g := .SLICE_MAP1) hf _ _ _ (by decide), setFld_fld_of_mem (g := .SLICE_MAP0) hf _ _ _ (by decide),
      setFld_fld_of_mem (g := .FAB_STAT) hf _ _ _ (by decide)]
  unfold State.remapSlices
  exact (clearRows_fld ..).trans ((hset ..).trans ((faultFlights_fldsBut s _ 0x10 _).mono (by decide) f i hf))

theorem remapMixers_fldsBut (s : State) (m : Nat) : FldsBut remapFlds s (s.remapMixers m) := by
  intro f i hf
  have hset (u : State) (x : Nat) : (u.setFld .ENG_STAT_MIX_LIVE 0 x).fld f i = u.fld f i := setFld_fld_of_mem hf _ _ _ (by decide)
  unfold State.remapMixers
  exact (clearRows_fld ..).trans ((hset ..).trans ((faultFlights_fldsBut s _ 0x10 _).mono (by decide) f i hf))

theorem remapTo_fldsBut (s : State) (slices mixers fen : Nat) : FldsBut remapFlds s (s.remapTo slices mixers fen) :=
  (FldsBut.on (remapSlices_fldsBut s slices)).trans (.on (remapMixers_fldsBut _ mixers))

theorem remapEarly_fldsBut (s : State) : FldsBut remapFlds s s.remapEarly := .on (remapTo_fldsBut s _ _ _)

/-- The bits of a number without one of them. -/
theorem testBit_clearBit (x b k : Nat) : (clearBit x b).testBit k = (x.testBit k && k != b) := by
  unfold clearBit
  split
  · next h =>
    have hq : x / 2 ^ b = 2 * (x / 2 ^ b / 2) + 1 := by
      rw [Nat.testBit_eq_decide_div_mod_eq, decide_eq_true_eq] at h
      omega
    have hr : x % 2 ^ b < 2 ^ b := Nat.mod_lt _ (Nat.two_pow_pos b)
    have hx : x = 2 ^ b * (2 * (x / 2 ^ b / 2) + 1) + x % 2 ^ b := by rw [← hq, Nat.div_add_mod]
    generalize x / 2 ^ b / 2 = q at hx
    generalize x % 2 ^ b = r at hx hr
    have hy : x - 2 ^ b = 2 ^ b * (2 * q) + r := by
      rw [Nat.mul_add, Nat.mul_one] at hx
      omega
    rw [hy, hx, Nat.testBit_two_pow_mul_add _ hr, Nat.testBit_two_pow_mul_add _ hr]
    by_cases hk : k < b
    · simp [hk, Nat.ne_of_lt hk]
    · rw [if_neg hk, if_neg hk]
      rcases hd : k - b with _ | d
      · obtain rfl : k = b := by omega
        simp [Nat.testBit_zero]
      · have : k ≠ b := by omega
        rw [Nat.testBit_succ, Nat.testBit_succ, show 2 * q / 2 = q by omega, show (2 * q + 1) / 2 = q by omega]
        simp [this]
  · next h =>
    by_cases hk : k = b
    · subst hk
      simpa using h
    · simp [hk]

/-- What losing unit `n` of the mask `live` does, where `fs` are the flags that a loss raises. -/
structure Loses (live : Fld) (fs : List Fld) (n : Nat) (s t : State) : Prop where
  bits : ∀ k < live.width, t.fbit live 0 k = (s.fbit live 0 k && k != n)
  raised : s.fbit live 0 n = true → ∀ f ∈ fs, t.flag f = true
  kept : ∀ f ∈ fs, s.flag f = true → t.flag f = true

theorem clrFbit_fbit (s : State) (f : Fld) (n : Nat) {k : Nat} (hk : k < f.width) :
    (s.clrFbit f 0 n).fbit f 0 k = (s.fbit f 0 k && k != n) := by
  unfold State.fbit State.clrFbit
  rw [setFld_fld_same, Nat.testBit_mod_two_pow, testBit_clearBit]
  simp [hk]

theorem Loses.refl {live : Fld} {fs : List Fld} {n : Nat} {s : State} (h : s.fbit live 0 n = false) : Loses live fs n s s := by
  refine ⟨fun k _ => ?_, fun hn => absurd hn (by simp [h]), fun _ _ => id⟩
  by_cases hk : k = n
  · subst hk
    simp [h]
  · simp [hk]

/-- A loss clears its bit and raises its flags. -/
theorem Loses.of {live : Fld} {fs : List Fld} {n : Nat} {s t : State} (hbits : t.fld live = (s.clrFbit live 0 n).fld live)
    (hraised : ∀ f ∈ fs, t.fld f = 1) : Loses live fs n s t := by
  have hflag : ∀ f ∈ fs, t.flag f = true := fun f hf => by simp [State.flag, hraised f hf]
  exact ⟨fun k hk => (congrArg (·.testBit k) hbits).trans (clrFbit_fbit s live n hk), fun _ => hflag, fun f hf _ => hflag f hf⟩

/-- The state in which a loss of unit `n` of the mask `live` has been noted. -/
def State.lossNoted (s : State) (live : Fld) (n : Nat) : State := (s.clrFbit live 0 n).unitLost

theorem lossNoted_live {live : Fld} (h : live ≠ .ALERT_STAT_UNIT_LOST) (s : State) (n : Nat) :
    (s.lossNoted live n).fld live = (s.clrFbit live 0 n).fld live := setFld_fld_ne _ h 0 0 1

theorem lossNoted_lost (s : State) (live : Fld) (n : Nat) : (s.lossNoted live n).fld .ALERT_STAT_UNIT_LOST = 1 := setFld_fld_same ..

theorem killSlice_lost {s : State} {n : Nat} (h : s.fbit .SLICE_LIVE 0 n = true) :
    FldsBut remapFlds (s.lossNoted .SLICE_LIVE n) (s.killSlice n) := by
  unfold State.killSlice
  rw [if_neg (by simp [h])]
  exact fun f i hf =>
    (remapEarly_fldsBut _ f i hf).trans (((faultFlights_fldsBut _ _ 0x10 n).mono (by decide) f i hf).trans (on_fld rfl))

theorem killMixer_lost {s : State} {n : Nat} (h : s.fbit .MIXER_LIVE 0 n = true) :
    FldsBut remapFlds (s.lossNoted .MIXER_LIVE n) (s.killMixer n) := by
  unfold State.killMixer
  rw [if_neg (by simp [h])]
  exact fun f i hf =>
    (remapEarly_fldsBut _ f i hf).trans (((faultFlights_fldsBut _ _ 0x10 n).mono (by decide) f i hf).trans (on_fld rfl))

theorem fence_lost {s : State} {c : Nat} (h : s.fbit .FEN_LIVE 0 c = true) :
    FldsBut remapFlds ((s.lossNoted .FEN_LIVE c).setFld .KV_STAT_SCAN 0 1) (s.fence c) := by
  unfold State.fence
  rw [if_neg (by simp [h])]
  exact .trans (fun _ _ _ => rfl) (remapEarly_fldsBut _)

theorem killSlice_dead {s : State} {n : Nat} (h : s.fbit .SLICE_LIVE 0 n = false) : s.killSlice n = s := if_pos (by simp [h])
theorem killMixer_dead {s : State} {n : Nat} (h : s.fbit .MIXER_LIVE 0 n = false) : s.killMixer n = s := if_pos (by simp [h])
theorem fence_dead {s : State} {c : Nat} (h : s.fbit .FEN_LIVE 0 c = false) : s.fence c = s := if_pos (by simp [h])

theorem killSlice_loses (s : State) (n : Nat) : Loses .SLICE_LIVE [.ALERT_STAT_UNIT_LOST] n s (s.killSlice n) := by
  cases h : s.fbit .SLICE_LIVE 0 n
  · rw [killSlice_dead h]
    exact .refl h
  · have hk := killSlice_lost h
    refine .of ((hk _ 0 (by decide)).trans (lossNoted_live (by decide) s n)) (List.forall_mem_singleton.mpr ?_)
    exact (hk _ 0 (by decide)).trans (lossNoted_lost s _ n)

theorem killMixer_loses (s : State) (n : Nat) : Loses .MIXER_LIVE [.ALERT_STAT_UNIT_LOST] n s (s.killMixer n) := by
  cases h : s.fbit .MIXER_LIVE 0 n
  · rw [killMixer_dead h]
    exact .refl h
  · have hk := killMixer_lost h
    refine .of ((hk _ 0 (by decide)).trans (lossNoted_live (by decide) s n)) (List.forall_mem_singleton.mpr ?_)
    exact (hk _ 0 (by decide)).trans (lossNoted_lost s _ n)

theorem fence_loses (s : State) (c : Nat) : Loses .FEN_LIVE [.ALERT_STAT_UNIT_LOST, .KV_STAT_SCAN] c s (s.fence c) := by
  cases h : s.fbit .FEN_LIVE 0 c
  · rw [fence_dead h]
    exact .refl h
  · have hk := fence_lost h
    have hscan (f : Fld) (hf : f ≠ .KV_STAT_SCAN) (hr : f ∉ remapFlds) : (s.fence c).fld f = (s.lossNoted .FEN_LIVE c).fld f :=
      (hk f 0 hr).trans (setFld_fld_ne _ hf 0 0 1)
    refine .of ((hscan _ (by decide) (by decide)).trans (lossNoted_live (by decide) s c)) fun f hf => ?_
    obtain rfl | rfl : f = .ALERT_STAT_UNIT_LOST ∨ f = .KV_STAT_SCAN := by simpa using hf
    · exact (hscan _ (by decide) (by decide)).trans (lossNoted_lost s _ c)
    · exact (hk _ 0 (by decide)).trans (setFld_fld_same ..)

/-! ### Kill registers -/

section
variable {live : Fld} {fs : List Fld} {kill : State → Nat → State} (hk : ∀ s n, Loses live fs n s (kill s n))
include hk

/-- Every unit of the list is dead after its kills, a dead unit stays dead, and a kill of a live unit raises the flags. -/
theorem forAll_kill_dead (l : List Nat) {n : Nat} (hn : n < live.width) (s : State) (h : n ∈ l ∨ s.fbit live 0 n = false) :
    (forAll l (fun n s => kill s n) s).fbit live 0 n = false := by
  induction l generalizing s with
  | nil => exact h.resolve_left List.not_mem_nil
  | cons b l ih =>
    refine ih (kill s b) ?_
    rw [(hk s b).bits n hn]
    by_cases hb : n = b
    · simp [hb]
    · rw [List.mem_cons, or_iff_right hb] at h
      exact h.imp_right fun h => by simp [h]

theorem forAll_kill_raised (l : List Nat) {f : Fld} (hf : f ∈ fs) (s : State)
    (h : s.flag f = true ∨ ∃ n ∈ l, n < live.width ∧ s.fbit live 0 n = true) : (forAll l (fun n s => kill s n) s).flag f = true := by
  induction l generalizing s with
  | nil => exact h.resolve_right (by simp)
  | cons b l ih =>
    refine ih (kill s b) ?_
    obtain h | ⟨n, hmem, hw, hlive⟩ := h
    · exact .inl ((hk s b).kept f hf h)
    · by_cases hb : n = b
      · subst hb
        exact .inl ((hk s n).raised hlive f hf)
      · refine .inr ⟨n, (List.mem_cons.mp hmem).resolve_left hb, hw, ?_⟩
        rw [(hk s b).bits n hw, hlive]
        simp [hb]

theorem killMask_spec {w m : Nat} (hw : live.width = w) (s : State) :
    (∀ n, n < w → m.testBit n = true → (s.killMask w m kill).fbit live 0 n = false) ∧
      ((∃ n, n < w ∧ m.testBit n = true ∧ s.fbit live 0 n = true) → ∀ f ∈ fs, (s.killMask w m kill).flag f = true) := by
  subst hw
  have hmem {n : Nat} (hn : n < live.width) (hb : m.testBit n = true) : n ∈ (upTo live.width).filter m.testBit := by simp [upTo, hn, hb]
  refine ⟨fun n hn hb => forAll_kill_dead hk _ hn s (.inl (hmem hn hb)), fun ⟨n, hn, hb, hlive⟩ f hf => ?_⟩
  exact forAll_kill_raised hk _ hf s (.inr ⟨n, hmem hn hb, hn, hlive⟩)

end

theorem applyReg_fenKill (s : State) (i v hw : Nat) :
    s.applyReg 0x070 i v hw = (s.writeRows 0x070 i (some v) hw).killMask 16 v State.fence := rfl

theorem applyReg_sliceKill (s : State) (i v hw : Nat) :
    s.applyReg 0x1A0 i v hw = (s.writeRows 0x1A0 i (some v) hw).killMask 16 v State.killSlice := rfl

theorem applyReg_mixKill (s : State) (i v hw : Nat) :
    s.applyReg 0x1E0 i v hw = (s.writeRows 0x1E0 i (some v) hw).killMask 32 v State.killMixer := rfl

/-- The masks of live units stand outside the kill registers. -/
theorem writtenMask_fbit {reg : Nat} {f : Fld} (hf : f ∉ fldsAt reg) (hb : f ≠ .MP_STAT_BURST_DONE) (s : State) (p : Path) (v : Option Nat)
    (hw n : Nat) : ((s.joined p).writeRows reg 0 v hw).fbit f 0 n = s.fbit f 0 n :=
  congrArg (·.testBit n) ((writeRows_fld_of_notMem hf (s.joined p)).trans (joined_fld hb s p 0))

theorem Wrote.fbit {u t : State} (h : Wrote u t) {f : Fld} (hf : f.unnoted) (i n : Nat) : t.fbit f i n = u.fbit f i n :=
  congrArg (·.testBit n) (h.fld hf i)

/-! ### Expert writes without the right to them (R102) -/

/-- The registers of the expert commands. -/
def expertRegs : List Nat := [0x070, 0x1A0, 0x1E0, 0x260, 0x264, 0x2A0, 0x1A4, 0x228, 0x3E0]

/-- The fields of the register file that a refused expert command leaves alone. -/
def unitFlds : List Fld := [.FEN_LIVE, .SLICE_LIVE, .MIXER_LIVE, .MP_ERR_COUNT]

theorem expertRegs_facts : ∀ reg ∈ expertRegs, reg < 0x400 ∧ isExpertReg reg = true ∧ isGuarded reg = false ∧ reg % 4 = 0 ∧ reg ≠ 0x05C ∧
    reg ≠ 0x014 ∧ ∀ f ∈ unitFlds, f ∉ fldsAt reg := by decide


section
variable {reg : Nat} (hreg : reg ∈ expertRegs) {s : State} (hx : s.flag .EXPERT_CTL_GLOBAL_EXPERT = false)
include hreg

theorem writeReg_expertOff (hx : s.flag .EXPERT_CTL_GLOBAL_EXPERT = false) (p : Path) (v : Nat) :
    s.writeReg p reg 0 v 0 = (s.writeRows reg 0 none 0, .expertOff) := by
  obtain ⟨hlow, hexp, hg, -, hbeat, hsel, -⟩ := expertRegs_facts reg hreg
  unfold State.writeReg
  dsimp only
  rw [if_neg (by simp [hsel]), if_neg (by simp [hg]), if_pos (by simp [State.expertOk, hexp, hlow, hx]), hwEvent_of_ne hbeat]

end

/-- A refused expert write: it is counted, the port shows EXPERT_OFF, and nothing but the notes of the write changes. -/
structure Refused (p : Path) (s t : State) : Prop where
  port : p = .mp → t.flag .MP_STAT_EXPERT_OFF = true ∧ t.fld .MP_STAT_LAST_CODE = 6
  counted : s.fld .MP_ERR_COUNT + 1 < 2 ^ 32 → t.fld .MP_ERR_COUNT = s.fld .MP_ERR_COUNT + 1
  units : ∀ f ∈ [Fld.FEN_LIVE, .SLICE_LIVE, .MIXER_LIVE], t.fld f = s.fld f
  rest : t.commits = s.commits ∧ t.heat = s.heat ∧ t.tags = s.tags

theorem bump_fld_self {s : State} {f : Fld} {i n : Nat} (h : s.fld f i + n < 2 ^ f.width) : (s.bump f i n).fld f i = s.fld f i + n := by
  unfold State.bump
  rw [if_pos h, setFld_fld_same, Nat.mod_eq_of_lt h]

/-- A refusal is one count, after what the port notes of it. -/
theorem Refused.of_bump {p : Path} {s w : State} (hf : ∀ f ∈ unitFlds, w.fld f = s.fld f)
    (hr : w.commits = s.commits ∧ w.heat = s.heat ∧ w.tags = s.tags)
    (hp : p = .mp → w.flag .MP_STAT_EXPERT_OFF = true ∧ w.fld .MP_STAT_LAST_CODE = 6) : Refused p s (w.bump .MP_ERR_COUNT) := by
  have hrest := bump_sameButRows w .MP_ERR_COUNT 0 1
  have herr : w.fld .MP_ERR_COUNT = s.fld .MP_ERR_COUNT := hf _ (by decide)
  have hkeep {f : Fld} (hne : f ≠ .MP_ERR_COUNT) : (w.bump .MP_ERR_COUNT).fld f = w.fld f :=
    bump_fldsBut w (fs := [.MP_ERR_COUNT]) (by decide) 0 1 f 0 (by simpa using hne)
  refine ⟨fun h => ?_, fun h => ?_, fun f hm => ?_, ?_⟩
  · rw [State.flag, hkeep (by decide), hkeep (by decide)]
    exact hp h
  · rw [← herr] at h ⊢
    exact bump_fld_self h
  · obtain ⟨hne, hu⟩ : f ≠ .MP_ERR_COUNT ∧ f ∈ unitFlds := by
      revert f
      decide
    exact (hkeep hne).trans (hf f hu)
  · rw [hrest]
    exact hr

theorem pathWrite_refused {reg : Nat} (hreg : reg ∈ expertRegs) {s : State} (hx : s.flag .EXPERT_CTL_GLOBAL_EXPERT = false) {p : Path}
    (hport : p = .mp → s.portAt ≤ s.clk) (v : Nat) : Refused p s (s.pathWrite p reg 0 v) := by
  obtain ⟨hlow, -, -, ha, hbeat, hsel, hnot⟩ := expertRegs_facts reg hreg
  have hxj : (s.joined p).flag .EXPERT_CTL_GLOBAL_EXPERT = false := by rwa [State.flag, joined_fld (by decide)]
  have hwrite := writeReg_expertOff hreg hxj p v
  have hkeep : SameButRows (s.joined p) ((s.joined p).writeRows reg 0 none 0) := writeRows_sameButRows _
  have hfld : ∀ f ∈ unitFlds, ((s.joined p).writeRows reg 0 none 0).fld f = s.fld f := fun f hf =>
    (writeRows_fld_of_notMem (hnot f hf) _).trans (joined_fld (by revert f; decide) s p 0)
  have hrest : ((s.joined p).writeRows reg 0 none 0).commits = s.commits ∧ ((s.joined p).writeRows reg 0 none 0).heat = s.heat ∧
      ((s.joined p).writeRows reg 0 none 0).tags = s.tags := by
    rw [hkeep]
    exact ⟨joined_commits s p, joined_heat s p, joined_tags s p⟩
  cases p with
  | pf =>
    have : s.pathWrite .pf reg 0 v = ((s.joined .pf).writeRows reg 0 none 0).bump .MP_ERR_COUNT :=
      congrArg (fun r : State × Took => r.1.countTook r.2) hwrite
    exact this ▸ .of_bump hfld hrest nofun
  | mirror =>
    have : s.pathWrite .mirror reg 0 v = ((s.joined .mirror).writeRows reg 0 none 0).bump .MP_ERR_COUNT :=
      congrArg (fun r : State × Took => r.1.countTook r.2) hwrite
    exact this ▸ .of_bump hfld hrest nofun
  | vf t =>
    have : s.pathWrite (.vf t) reg 0 v = (s.joined (.vf t)).bump .MP_ERR_COUNT := if_pos (by simp [hlow])
    rw [this]
    exact .of_bump (fun f hf => joined_fld (by revert f; decide) s (.vf t) 0)
      ⟨joined_commits s (.vf t), joined_heat s (.vf t), joined_tags s (.vf t)⟩ nofun
  | mp =>
    have hinst : (s.setFld .MP_STAT_BURST_DONE 0 0).portInst reg = some 0 := if_pos hlow
    have hmp : (s.setFld .MP_STAT_BURST_DONE 0 0).mpWrite reg v 0 = ((s.joined .mp).writeRows reg 0 none 0, stExpert) := by
      simp only [State.mpWrite, hinst]
      exact congrArg (fun r : State × Took => (r.1, if r.2 = .expertOff then stExpert else stOk)) hwrite
    generalize (s.joined .mp).writeRows reg 0 none 0 = w at hmp hfld hrest
    have : s.pathWrite .mp reg 0 v = ((w.setFld .MP_STAT_BURST_DONE 0 0).mpStatus stExpert).bump .MP_ERR_COUNT := by
      unfold State.pathWrite State.portWrite State.onPort
      rw [if_neg (Nat.not_lt.mpr (hport rfl))]
      simp only [ha, hmp]
      rfl
    rw [this]
    have hset {f : Fld} (hf : f ∈ unitFlds) : ((w.setFld .MP_STAT_BURST_DONE 0 0).mpStatus stExpert).fld f = w.fld f := by
      have hne : f ≠ .MP_STAT_BURST_DONE ∧ f ≠ .MP_STAT_LAST_CODE ∧ f ≠ .MP_STAT_EXPERT_OFF := by
        revert f
        decide
      exact (setFld_fld_ne _ hne.2.2 0 0 1).trans ((setFld_fld_ne _ hne.2.1 0 0 _).trans (setFld_fld_ne w hne.1 0 0 0))
    refine .of_bump (fun f hf => (hset hf).trans (hfld f hf)) hrest fun _ => ⟨?_, ?_⟩
    · show (((w.setFld .MP_STAT_BURST_DONE 0 0).setFld .MP_STAT_LAST_CODE 0 6).setFld .MP_STAT_EXPERT_OFF 0 1).flag .MP_STAT_EXPERT_OFF = true
      simp [State.flag]
      decide
    · exact (setFld_fld_ne _ (by decide) 0 0 1).trans (setFld_fld_same ..)

end Sys2Proof.Machine

open Sys2Proof Sys2Proof.Machine

/-- Settles O19: a kill mask is a loop of losses, each of which clears its own bit and raises its flags; without the right, the register
file takes none of the nine registers' writes. -/
theorem killRegisters : Obligations.KillRegisters := by
  refine ⟨fun s p v hrun hx => ⟨fun hr => ?_, fun hr => ?_, fun hr => ?_⟩, fun s p v hrun hx hport c hc => ?_⟩
  · have hreg : WordReg 0x070 := ⟨by decide, by decide, by decide⟩
    obtain ⟨t, ht, hw⟩ := hreg.live_pathWrite (v := v.toNat) hrun hr (expertOk_global hx (by decide) 0) rfl
    rw [applyReg_fenKill] at hw
    obtain ⟨hdead, hraised⟩ := killMask_spec (m := v.toNat) fence_loses rfl ((s.joined p).writeRows 0x070 0 (some v.toNat) _)
    refine ⟨t, ht, fun n hn hb => (hw.fbit (by decide) 0 n).trans (hdead n hn hb), fun ⟨n, hn, hb, hlive⟩ => ?_⟩
    have hraised := hraised ⟨n, hn, hb, (writtenMask_fbit (by decide) (by decide) s p _ _ n).trans hlive⟩
    exact ⟨(hw.flag (by decide) 0).trans (hraised _ (by decide)), (hw.flag (by decide) 0).trans (hraised _ (by decide))⟩
  · have hreg : WordReg 0x1A0 := ⟨by decide, by decide, by decide⟩
    obtain ⟨t, ht, hw⟩ := hreg.live_pathWrite (v := v.toNat) hrun hr (expertOk_global hx (by decide) 0) rfl
    rw [applyReg_sliceKill] at hw
    obtain ⟨hdead, hraised⟩ := killMask_spec (m := v.toNat) killSlice_loses rfl ((s.joined p).writeRows 0x1A0 0 (some v.toNat) _)
    refine ⟨t, ht, fun n hn hb => (hw.fbit (by decide) 0 n).trans (hdead n hn hb), fun ⟨n, hn, hb, hlive⟩ => ?_⟩
    have hraised := hraised ⟨n, hn, hb, (writtenMask_fbit (by decide) (by decide) s p _ _ n).trans hlive⟩
    exact (hw.flag (by decide) 0).trans (hraised _ (by decide))
  · have hreg : WordReg 0x1E0 := ⟨by decide, by decide, by decide⟩
    obtain ⟨t, ht, hw⟩ := hreg.live_pathWrite (v := v.toNat) hrun hr (expertOk_global hx (by decide) 0) rfl
    rw [applyReg_mixKill] at hw
    obtain ⟨hdead, hraised⟩ := killMask_spec (m := v.toNat) killMixer_loses rfl ((s.joined p).writeRows 0x1E0 0 (some v.toNat) _)
    refine ⟨t, ht, fun n hn hb => (hw.fbit (by decide) 0 n).trans (hdead n hn hb), fun ⟨n, hn, hb, hlive⟩ => ?_⟩
    have hraised := hraised ⟨n, hn, hb, (writtenMask_fbit (by decide) (by decide) s p _ _ n).trans hlive⟩
    exact (hw.flag (by decide) 0).trans (hraised _ (by decide))
  · obtain ⟨reg, hreg, he⟩ : ∃ reg ∈ expertRegs, exec c s = live s fun s => s.pathWrite p reg 0 v.toNat := by
      simp only [List.mem_cons, List.not_mem_nil, or_false] at hc
      rcases hc with rfl | rfl | rfl | rfl | rfl | rfl | rfl | rfl | rfl
      · exact ⟨0x070, by decide, rfl⟩
      · exact ⟨0x1A0, by decide, rfl⟩
      · exact ⟨0x1E0, by decide, rfl⟩
      · exact ⟨0x260, by decide, rfl⟩
      · exact ⟨0x264, by decide, rfl⟩
      · exact ⟨0x2A0, by decide, rfl⟩
      · exact ⟨0x1A4, by decide, rfl⟩
      · exact ⟨0x228, by decide, rfl⟩
      · exact ⟨0x3E0, by decide, rfl⟩
    obtain ⟨hstat, hcount, hunits, hrest⟩ := pathWrite_refused hreg hx hport v.toNat
    refine ⟨_, he, ?_⟩
    rw [running_run hrun]
    exact ⟨hstat, hcount, hrest.1, hrest.2.1, hrest.2.2, hunits⟩
end

section
/-! PROOF. Requests that software makes by registers: KINDLE, bank requests, LEAVE and DAMP, the pool top and the peer index (R54, R66, R345,
R446, R513, Table 11.6). -/

namespace Sys2Proof.Machine

/-! ### Frames handed to links, and requests to the chimney -/

/-- A frame that a node hands to its route changes the links alone. -/
theorem sendNode_rest (s : State) (n : Nat) (a : Option Nat) (f : Frame) :
    s.sendNode n a f = { s with links := (s.sendNode n a f).links } := by
  unfold State.sendNode
  split <;> rfl

theorem report_rest (s : State) (kind code uid arg : Nat) :
    s.report kind code uid arg = { s with links := (s.report kind code uid arg).links } := sendNode_rest ..

/-- A request that reaches the chimney stands in the book that is open. -/
theorem ask_asked (s : State) (f : Asks → Asks) : (s.ask f).asked = f s.asked := by
  have hw : (s.ask f).within 1024 = s.within 1024 := by
    unfold State.ask
    split <;> rfl
  unfold State.asked
  rw [hw]
  unfold State.ask
  split <;> rfl

theorem setFld_asked {f : Fld} (h : f ≠ .TICK_CFG_TICK_LEN_K) (s : State) (i v : Nat) : (s.setFld f i v).asked = s.asked := by
  have hw : (s.setFld f i v).within 1024 = s.within 1024 := by
    unfold State.within State.tickLen
    rw [setFld_fld_ne _ h.symm]
    rfl
  unfold State.asked
  rw [hw]
  rfl

theorem on_asked {s : State} {c : Bool} {g : State → State} (h : (g s).asked = s.asked) : (s.on c g).asked = s.asked := by
  cases c
  · rfl
  · exact h

theorem mem_withOne (l : List Nat) (x : Nat) : x ∈ withOne l x := by
  unfold withOne
  split <;> simp_all

/-! ### The registers -/

section
variable (s : State) (i v hw : Nat)

theorem applyReg_kindle : s.applyReg 0x094 i v hw = s.kindle v := by
  obtain ⟨d, hd⟩ : ∃ d, s.kindle = d := ⟨_, rfl⟩
  unfold State.applyReg
  rw [hd]
  rfl

theorem applyReg_bankReq :
    s.applyReg 0x098 i v hw = (s.bankReq v (hw.testBit 0)).on (hw.testBit 1) fun s => s.setFld .BANK_CTRL_REQ_DENIED 0 1 := by
  obtain ⟨d, hd⟩ : ∃ d, s.bankReq = d := ⟨_, rfl⟩
  unfold State.applyReg
  rw [hd]
  rfl

theorem applyReg_leave : s.applyReg 0xE08 i v hw = s.leave v := by
  obtain ⟨d, hd⟩ : ∃ d, s.leave = d := ⟨_, rfl⟩
  unfold State.applyReg
  rw [hd]
  rfl

theorem applyReg_damp : s.applyReg 0x330 i v hw = s.damp_ v := by
  obtain ⟨d, hd⟩ : ∃ d, s.damp_ = d := ⟨_, rfl⟩
  unfold State.applyReg
  rw [hd]
  rfl

theorem applyReg_poolTop : s.applyReg 0x610 i v hw = s.writePoolTop i v hw := by
  obtain ⟨d, hd⟩ : ∃ d, s.writePoolTop = d := ⟨_, rfl⟩
  unfold State.applyReg
  rw [hd]
  rfl

theorem applyReg_peerIdx : s.applyReg 0xA24 i v hw = s.writePeerIdx i v := by
  obtain ⟨d, hd⟩ : ∃ d, s.writePeerIdx = d := ⟨_, rfl⟩
  unfold State.applyReg
  rw [hd]
  rfl

theorem applyReg_chCtrl : s.applyReg 0x800 i v hw = s.writeChCtrl i v hw := by
  obtain ⟨d, hd⟩ : ∃ d, s.writeChCtrl = d := ⟨_, rfl⟩
  unfold State.applyReg
  rw [hd]
  rfl

end

/-! ### What each request does -/

section
variable {s : State} {v : Nat}

theorem kindle_locked (hv : v.testBit 0 = true) (hc : s.chip = chipLocked) :
    (s.kindle v).fld .TICK_STAT_KINDLE_FAIL = 0 ∧ (s.kindle v).tk.kindleWait = true ∧
      (s.isChimney = true → s.ownNode ∈ (s.kindle v).asked.ready) := by
  let u : State := { s.setFld .TICK_STAT_KINDLE_FAIL 0 0 with tk := { s.tk with kindleWait := true } }
  have hu : u.fld .TICK_STAT_KINDLE_FAIL = 0 := setFld_fld_same s _ 0 0
  have hch : u.isChimney = s.isChimney := congrArg (· != 0) (setFld_fld_ne s (f := .TICK_STAT_KINDLE_FAIL) (g := .TRAY_POS_ROW_CHIMNEY) (by decide) 0 0 0)
  have hown : u.ownNode = s.ownNode := setFld_fld_ne s (f := .TICK_STAT_KINDLE_FAIL) (g := .NODE_ID_ID) (by decide) 0 0 0
  have heq : s.kindle v = if u.isChimney then u.ask fun a => { a with ready := withOne a.ready u.ownNode } else u.report 3 0 0 0 :=
    if_neg (by simp [hv, hc])
  rw [heq, hch]
  split
  · refine ⟨hu, ?_, fun _ => ?_⟩
    · unfold State.ask
      split <;> rfl
    · rw [ask_asked, ← hown]
      exact mem_withOne _ _
  · next h =>
    rw [report_rest]
    exact ⟨hu, rfl, fun h' => absurd h' h⟩

theorem kindle_ignored (hc : s.chip ≠ chipLocked) : s.kindle v = s := if_pos (by simp [hc])

theorem bankReq_taken (hv : v.testBit 0 = true) (hb : s.flag .BANK_CTRL_BANK_REQ = false) (again : Bool) :
    (s.bankReq v again).flag .BANK_CTRL_BANK_REQ = true ∧ (s.isChimney = true → (s.bankReq v again).asked.bankSoft = true) := by
  let s₀ : State := s.on (v.testBit 1) fun s => s.setFld .BANK_CTRL_REQ_DENIED 0 0
  let u : State := { s₀.setFld .BANK_CTRL_BANK_REQ 0 1 with tk := { s₀.tk with ownAsk := some (!(s₀.setFld .BANK_CTRL_BANK_REQ 0 1).within 1024) } }
  have hs₀ {f : Fld} (hf : f ≠ .BANK_CTRL_REQ_DENIED) : s₀.fld f = s.fld f := on_fld (setFld_fld_ne s hf 0 0 0)
  have hu : u.fld .BANK_CTRL_BANK_REQ = 1 := setFld_fld_same s₀ _ 0 1
  have hch : u.isChimney = s.isChimney := congrArg (· != 0) 
    ((setFld_fld_ne s₀ (f := .BANK_CTRL_BANK_REQ) (by decide) 0 0 1).trans (hs₀ (f := .TRAY_POS_ROW_CHIMNEY) (by decide)))
  have hb₀ : s₀.flag .BANK_CTRL_BANK_REQ = false := by rw [State.flag, hs₀ (by decide)]; exact hb
  have heq : s.bankReq v again = if u.isChimney then u.ask fun a => { a with bankSoft := true } else u.report 1 0 0 0 :=
    if_neg (by
      change ¬ (!v.testBit 0 || (s₀.flag .BANK_CTRL_BANK_REQ && !again)) = true
      simp [hv, hb₀])
  rw [heq, hch]
  split
  · refine ⟨?_, fun _ => ?_⟩
    · exact congrArg (· != 0) hu
    · rw [ask_asked]
  · next h =>
    rw [report_rest]
    exact ⟨congrArg (· != 0) hu, fun h' => absurd h' h⟩

/-- Whether the leave is sent or waits, the chip still leaves. -/
theorem sendLeave_keeps (s : State) : s.sendLeave.node.leaving = s.node.leaving ∧ ∀ f i, s.sendLeave.fld f i = s.fld f i := by
  unfold State.sendLeave
  split
  · exact ⟨rfl, fun _ _ => rfl⟩
  · dsimp only
    split
    · exact ⟨rfl, fun _ _ => rfl⟩
    · rw [sendNode_rest]
      exact ⟨rfl, fun _ _ => rfl⟩

theorem leave_taken (hv : v.testBit 0 = true) : (s.leave v).node.leaving = true ∧ (s.leave v).flag .NODE_CTL = true := by
  let u : State := (s.setFld .NODE_CTL 0 1).on (s.flag .NODE_ID_VALID) fun s => s.setFld .JOIN_STAT_JSTATE 0 4
  have heq : s.leave v = { u with node := { u.node with leaving := true } }.sendLeave := if_neg (by simp [hv])
  have hu : u.fld .NODE_CTL = 1 := (on_fld (setFld_fld_ne _ (by decide) 0 0 4)).trans (setFld_fld_same s _ 0 1)
  obtain ⟨hl, hf⟩ := sendLeave_keeps { u with node := { u.node with leaving := true } }
  rw [heq]
  exact ⟨hl, congrArg (· != 0) ((hf .NODE_CTL 0).trans hu)⟩

/-- R513: DAMP acts by the chip's state. -/
theorem damp_taken (hv : v.testBit 0 = true) :
    (s.damp_ v).chip = (if s.chip = chipCold ∨ s.chip = chipLocked then chipOffReady else s.chip) ∧
      (s.damp_ v).damp.held = (if s.chip = chipWarm ∨ s.chip = chipKindling then true else s.damp.held) := by
  have heq : s.damp_ v = if s.chip = chipCold ∨ s.chip = chipLocked then s.setChip chipOffReady
      else if s.chip = chipWarm ∨ s.chip = chipKindling then { s with damp := { s.damp with held := true } } else s := by
    unfold State.damp_
    rw [if_neg (by simp [hv])]
    simp only [Bool.or_eq_true, decide_eq_true_eq]
  rw [heq]
  by_cases hlow : s.chip = chipCold ∨ s.chip = chipLocked
  · have hhigh : ¬ (s.chip = chipWarm ∨ s.chip = chipKindling) := by
      rcases hlow with h | h <;> rw [h] <;> decide
    rw [if_pos hlow, if_pos hlow, if_neg hhigh]
    exact ⟨setFld_fld_same s _ 0 chipOffReady, rfl⟩
  · rw [if_neg hlow, if_neg hlow]
    split
    · exact ⟨rfl, rfl⟩
    · exact ⟨rfl, rfl⟩

theorem poolTop_free {t : Nat} (h : s.seqOpen t = 0) : (s.writePoolTop t v 0).fld .KV_POOL_TOP t = v % 2 ^ 19 := by
  rw [show s.writePoolTop t v 0 = s.setFld .KV_POOL_TOP t v by simp [State.writePoolTop, h]]
  exact setFld_fld_same ..

theorem poolTop_busy {t : Nat} (h : s.seqOpen t ≠ 0) (hw : Nat) : s.writePoolTop t v hw = s.setFld .KV_HSTAT_TOP_BUSY t 1 :=
  if_pos (by simpa using h)

theorem not_out_of_in {m : Nat} (h : isInRing m = true) : isOutRing m = false := by
  unfold isInRing at h
  unfold isOutRing
  simp only [Bool.or_eq_true, decide_eq_true_eq] at h
  rcases h with rfl | rfl <;> rfl

/-- How far a write moves the peer's index, and how far the ring lets it move (R345). -/
def State.peerStep (s : State) (c v : Nat) : Nat := occupancy v (s.fld .RING_PEER_IDX c)
def State.peerRoom (s : State) (c : Nat) : Nat := if isOutRing (s.ringMode c) then s.ringD c else s.ringN c - s.ringD c

theorem peerIdx_eq {c : Nat} (hv : v < 2 ^ 32) (hm : isOutRing (s.ringMode c) = true ∨ isInRing (s.ringMode c) = true) :
    s.writePeerIdx c v =
      if s.peerStep c v ≤ s.peerRoom c then (s.keepRing c).setFld .RING_PEER_IDX c v else s.setFld .RING_STAT_IDX_ERR c 1 := by
  unfold State.writePeerIdx State.peerStep State.peerRoom
  rw [Nat.mod_eq_of_lt hv]
  cases ho : isOutRing (s.ringMode c)
  · rw [ho] at hm
    simp [hm.resolve_left (by simp)]
  · simp

theorem peerRoom_out {c : Nat} (h : isOutRing (s.ringMode c) = true) : s.peerRoom c = s.ringD c := if_pos h

theorem peerRoom_in {c : Nat} (h : isInRing (s.ringMode c) = true) : s.peerRoom c = s.ringN c - s.ringD c :=
  if_neg (by simp [not_out_of_in h])

theorem keepRing_fld (s : State) (c : Nat) (f : Fld) (i : Nat) : (s.keepRing c).fld f i = s.fld f i := by
  unfold State.keepRing
  dsimp only
  repeat' split
  all_goals rfl

theorem peerIdx_inside {c : Nat} (hv : v < 2 ^ 32) (hm : isOutRing (s.ringMode c) = true ∨ isInRing (s.ringMode c) = true)
    (h : s.peerStep c v ≤ s.peerRoom c) : (s.writePeerIdx c v).fld .RING_PEER_IDX c = v := by
  rw [peerIdx_eq hv hm, if_pos h, setFld_fld_same]
  exact Nat.mod_eq_of_lt hv

theorem peerIdx_outside {c : Nat} (hv : v < 2 ^ 32) (hm : isOutRing (s.ringMode c) = true ∨ isInRing (s.ringMode c) = true)
    (h : s.peerRoom c < s.peerStep c v) : s.writePeerIdx c v = s.setFld .RING_STAT_IDX_ERR c 1 := by
  rw [peerIdx_eq hv hm, if_neg (Nat.not_le.mpr h)]

/-- The ring of a channel by what the register file shows of it. -/
theorem ring_congr {s t : State} {c : Nat} (h : ∀ f ∈ [Fld.RING_CFG_MODE, .RING_CFG_LOG2N, .RING_OWN_IDX, .RING_PEER_IDX], t.fld f c = s.fld f c) :
    t.ringMode c = s.ringMode c ∧ t.peerRoom c = s.peerRoom c ∧ ∀ v, t.peerStep c v = s.peerStep c v := by
  have hm : t.ringMode c = s.ringMode c := h _ (by decide)
  have ho := h .RING_OWN_IDX (by decide)
  have hp := h .RING_PEER_IDX (by decide)
  refine ⟨hm, ?_, fun v => by rw [State.peerStep, State.peerStep, hp]⟩
  rw [State.peerRoom, State.peerRoom, State.ringD, State.ringD, State.ringN, State.ringN, hm, ho, hp, h .RING_CFG_LOG2N (by decide)]

end

theorem joined_ring (s : State) (p : Path) (c : Nat) : (s.joined p).ringMode c = s.ringMode c ∧ (s.joined p).peerRoom c = s.peerRoom c ∧
    ∀ v, (s.joined p).peerStep c v = s.peerStep c v :=
  ring_congr fun f hf => joined_fld (by revert f; decide) s p c

/-- A write through the mirror to a register that it may not write is counted (R103, R547). -/
theorem pathWrite_mirror_closed {reg : Nat} (hc : closedTo .mirror reg = true) (hb : reg ≠ 0x05C) (s : State) (i v : Nat) :
    s.pathWrite .mirror reg i v = ((s.joined .mirror).writeRows reg i none 0).bump .MP_ERR_COUNT := by
  have hreg : (s.joined .mirror).writeReg .mirror reg i v 0 = ((s.joined .mirror).writeRows reg i none 0, .discarded) := by
    rw [writeReg_closedTo hc, hwEvent_of_ne hb]
  exact congrArg (fun r : State × Took => r.1.countTook r.2) hreg

/-- A virtual function's write to a global register is counted (R76, R547). -/
theorem pathWrite_vf_global {reg : Nat} (h : reg < 0x400) (s : State) (t : Fin 16) (i v : Nat) :
    s.pathWrite (.vf t) reg i v = (s.joined (.vf t)).bump .MP_ERR_COUNT := if_pos (by simp [h])

/-- A path that R103 shuts out of DAMP. -/
theorem damp_refused {p : Path} (hm : p ≠ .mp) (hpf : p ≠ .pf) (s : State) (v : Nat) :
    ∃ w : State, s.pathWrite p 0x330 0 v = w.bump .MP_ERR_COUNT ∧ w.chip = s.chip ∧ w.damp = s.damp ∧
      w.fld .MP_ERR_COUNT = s.fld .MP_ERR_COUNT := by
  cases p with
  | mp => exact absurd rfl hm
  | pf => exact absurd rfl hpf
  | vf t =>
    exact ⟨_, pathWrite_vf_global (by decide) s t 0 v, joined_fld (by decide) s _ 0, joined_damp s _, joined_fld (by decide) s _ 0⟩
  | mirror =>
    refine ⟨_, pathWrite_mirror_closed (by decide) (by decide) s 0 v, ?_, ?_, ?_⟩
    · exact (writeRows_fld_of_notMem (f := .TICK_STAT_CHIP_STATE) (by decide) _).trans (joined_fld (by decide) s _ 0)
    · rw [writeRows_sameButRows (s.joined .mirror)]
      exact joined_damp s _
    · exact (writeRows_fld_of_notMem (f := .MP_ERR_COUNT) (by decide) _).trans (joined_fld (by decide) s _ 0)

theorem joined_isChimney (s : State) (p : Path) : (s.joined p).isChimney = s.isChimney :=
  congrArg (· != 0) (joined_fld (f := .TRAY_POS_ROW_CHIMNEY) (by decide) s p 0)

end Sys2Proof.Machine

open Sys2Proof Sys2Proof.Machine

/-- Settles O22: each register's request is made in a state with the same fields and books. -/
theorem requestRegisters : Obligations.RequestRegisters := by
  refine ⟨fun s p v hrun hv => ⟨fun hr hc => ?_, fun hr hc => ?_, fun hr hb => ?_, fun hr => ?_, fun hr => ?_⟩,
    fun s p v hrun => ⟨fun hm hpf => ?_, fun h hr hp => ?_, fun c hr => ?_⟩⟩
  · have hreg : WordReg 0x094 := ⟨by decide, by decide, by decide⟩
    obtain ⟨t, ht, hw⟩ := hreg.live_pathWrite (v := v.toNat) hrun hr (by simp [State.expertOk, isExpertReg]) rfl
    rw [applyReg_kindle] at hw
    obtain ⟨hfail, hwait, hready⟩ := kindle_locked (s := s.joined p) hv ((joined_fld (by decide) s p 0).trans hc)
    refine ⟨t, ht, (hw.fld (by decide) 0).trans hfail, by rw [hw.tk, hwait], fun hch => ?_⟩
    rw [hw.asked, ← show (s.joined p).ownNode = s.ownNode from joined_fld (by decide) s p 0]
    exact hready (by rwa [joined_isChimney])
  · have hreg : WordReg 0x094 := ⟨by decide, by decide, by decide⟩
    obtain ⟨t, ht, hw⟩ := hreg.live_pathWrite (v := v.toNat) hrun hr (by simp [State.expertOk, isExpertReg]) rfl
    rw [applyReg_kindle, kindle_ignored (by rwa [show (s.joined p).chip = s.chip from joined_fld (by decide) s p 0])] at hw
    exact ⟨t, ht, hw.tk.trans (joined_tk s p)⟩
  · have hreg : WordReg 0x098 := ⟨by decide, by decide, by decide⟩
    obtain ⟨t, ht, hw⟩ := hreg.live_pathWrite (v := v.toNat) hrun hr (by simp [State.expertOk, isExpertReg]) rfl
    rw [applyReg_bankReq] at hw
    obtain ⟨hreq, hsoft⟩ := bankReq_taken (s := s.joined p) hv (by rwa [State.flag, joined_fld (by decide)])
      (((s.joined p).metHw 0x098 0 0).testBit 0)
    refine ⟨t, ht, ?_, fun hch => ?_⟩
    · rw [hw.flag (by decide), State.flag, on_fld (setFld_fld_ne _ (by decide) 0 0 1)]
      exact hreq
    · rw [hw.asked, on_asked, hsoft (by rwa [joined_isChimney])]
      exact setFld_asked (by decide) _ 0 1
  · have hreg : WordReg 0xE08 := ⟨by decide, by decide, by decide⟩
    obtain ⟨t, ht, hw⟩ := hreg.live_pathWrite (v := v.toNat) hrun hr (by simp [State.expertOk, isExpertReg]) rfl
    rw [applyReg_leave] at hw
    obtain ⟨hl, hf⟩ := leave_taken (s := s.joined p) hv
    exact ⟨t, ht, by rw [hw.node, hl], (hw.flag (by decide) 0).trans hf⟩
  · have hreg : WordReg 0x330 := ⟨by decide, by decide, by decide⟩
    obtain ⟨t, ht, hw⟩ := hreg.live_pathWrite (v := v.toNat) hrun hr (by simp [State.expertOk, isExpertReg]) rfl
    rw [applyReg_damp] at hw
    obtain ⟨hchip, hheld⟩ := damp_taken (s := s.joined p) hv
    rw [show (s.joined p).chip = s.chip from joined_fld (by decide) s p 0] at hchip hheld
    rw [joined_damp] at hheld
    exact ⟨t, ht, (hw.fld (by decide) 0).trans hchip, by rw [hw.damp, hheld]⟩
  · obtain ⟨w, hw, hchip, hdamp, herr⟩ := damp_refused hm hpf s v.toNat
    refine ⟨_, rfl, ?_⟩
    have hrest := bump_sameButRows w .MP_ERR_COUNT 0 1
    have hbump : (w.bump .MP_ERR_COUNT).chip = w.chip := bump_fldsBut w (fs := [.MP_ERR_COUNT]) (by decide) 0 1 _ 0 (by decide)
    rw [running_run hrun, hw]
    refine ⟨hbump.trans hchip, ?_, fun h => ?_⟩
    · rw [hrest]
      exact hdamp
    · rw [← herr] at h ⊢
      exact bump_fld_self h
  · have hreg : WordReg 0x610 := ⟨by decide, by decide, by decide⟩
    obtain ⟨t, ht, hw⟩ := hreg.live_pathWrite (v := v.toNat) hrun hr (by simp [State.expertOk, isExpertReg]) rfl
    rw [applyReg_poolTop, joined_metHw hp] at hw
    have hseq : (s.joined p).seqOpen h = s.seqOpen h := seqOpen_congr (joined_seqs s p) h
    refine ⟨t, ht, fun h0 => ?_, fun h1 => ?_⟩
    · exact (hw.fld (by decide) _).trans (poolTop_free (hseq.trans h0))
    · rw [poolTop_busy (by rwa [hseq])] at hw
      refine ⟨(hw.fld (by decide) _).trans ((setFld_fld_ne _ (by decide) _ _ 1).trans (joined_fld (by decide) s p h)), ?_⟩
      exact (hw.flag (by decide) _).trans (congrArg (· != 0) (setFld_fld_same ..))
  · have hreg : WordReg 0xA24 := ⟨by decide, by decide, by decide⟩
    obtain ⟨t, ht, hw⟩ := hreg.live_pathWrite (v := v.toNat) hrun hr (by simp [State.expertOk, isExpertReg]) rfl
    rw [applyReg_peerIdx] at hw
    obtain ⟨hmode, hroom, hstep⟩ := joined_ring s p c
    have hring (h : isOutRing (s.ringMode c) = true ∨ isInRing (s.ringMode c) = true) :
        isOutRing ((s.joined p).ringMode c) = true ∨ isInRing ((s.joined p).ringMode c) = true := by rwa [hmode]
    refine ⟨t, ht, fun h => ?_, fun h => ?_⟩
    · have hle : s.peerStep c v.toNat ≤ s.peerRoom c := by
        obtain ⟨hm, h⟩ | ⟨hm, h⟩ := h
        · rwa [peerRoom_out hm]
        · rwa [peerRoom_in hm]
      exact (hw.fld (by decide) _).trans (peerIdx_inside v.isLt (hring (h.imp And.left And.left)) (by rwa [hstep, hroom]))
    · have hlt : s.peerRoom c < s.peerStep c v.toNat := by
        obtain ⟨hm, h⟩ | ⟨hm, h⟩ := h
        · rwa [peerRoom_out hm]
        · rwa [peerRoom_in hm]
      rw [peerIdx_outside v.isLt (hring (h.imp And.left And.left)) (by rwa [hstep, hroom])] at hw
      refine ⟨(hw.fld (by decide) _).trans ((setFld_fld_ne _ (by decide) _ _ 1).trans (joined_fld (by decide) s p c)), ?_⟩
      exact (hw.flag (by decide) _).trans (congrArg (· != 0) (setFld_fld_same ..))
end

section
/-! PROOF. CH_CTRL of a DMA channel: START, PAUSE, resume and ENABLE (R305, R308, R318, R320). -/

namespace Sys2Proof.Machine

section
variable {s : State} {c v hw : Nat}

/-! ### ENABLE (R308) -/

theorem setEnable_sameButReg (s : State) (c : Nat) (on faulting : Bool) : SameButReg s (s.setEnable c on faulting) := by
  unfold State.setEnable State.on
  dsimp only
  split <;> rfl

theorem setEnable_fld {f : Fld} (he : f ≠ .CH_CTRL_ENABLE) (hs : f ≠ .CH_STAT_STATE) (s : State) (c : Nat) (on faulting : Bool) (i : Nat) :
    (s.setEnable c on faulting).fld f i = s.fld f i :=
  (on_fld (setFld_fld_ne _ hs c i _)).trans (setFld_fld_ne s he c i _)

theorem setEnable_chan (s : State) (c : Nat) (on faulting : Bool) (x : Nat) : (s.setEnable c on faulting).chan x = s.chan x := by
  rw [setEnable_sameButReg]
  rfl

theorem setEnable_enable (s : State) (c : Nat) (on faulting : Bool) :
    (s.setEnable c on faulting).fld .CH_CTRL_ENABLE c = b2n (on && !faulting) := by
  refine (on_fld (setFld_fld_ne _ (by decide) c c _)).trans ((setFld_fld_same ..).trans ?_)
  cases on <;> cases faulting <;> rfl

theorem setEnable_chSt (s : State) (c : Nat) (on faulting : Bool) :
    (s.setEnable c on faulting).chSt c = if on && !faulting && s.chSt c = chFaulted then chIdle else s.chSt c := by
  have hst : (s.setFld .CH_CTRL_ENABLE c (b2n (on && !faulting))).chSt c = s.chSt c := setFld_fld_ne s (by decide) c c _
  unfold State.setEnable State.on
  dsimp only
  split
  · exact setFld_fld_same ..
  · exact hst

/-! ### The register, by the bits of the word -/

theorem writeChCtrl_start (h0 : v.testBit 0 = true)
    (h1 : v.testBit 1 = (s.startReg c (hw.testBit 0)).flag .CH_CTRL_PAUSE c) :
    s.writeChCtrl c v hw = (s.startReg c (hw.testBit 0)).setEnable c (v.testBit 2) (hw.testBit 2) := by
  unfold State.writeChCtrl
  rw [h0]
  show ((s.startReg c (hw.testBit 0)).on (v.testBit 1 != (s.startReg c (hw.testBit 0)).flag .CH_CTRL_PAUSE c) _).setEnable c _ _ = _
  rw [h1, bne_self_eq_false]
  rfl

theorem writeChCtrl_pause (h0 : v.testBit 0 = false) (h1 : v.testBit 1 ≠ s.flag .CH_CTRL_PAUSE c) :
    s.writeChCtrl c v hw = (s.setPause c (v.testBit 1)).setEnable c (v.testBit 2) (hw.testBit 2) := by
  simp [State.writeChCtrl, State.on, h0, h1]

theorem writeChCtrl_enable (h0 : v.testBit 0 = false) (h1 : v.testBit 1 = s.flag .CH_CTRL_PAUSE c) :
    s.writeChCtrl c v hw = s.setEnable c (v.testBit 2) (hw.testBit 2) := by
  simp [State.writeChCtrl, State.on, h0, ← h1]

/-! ### START (R305) -/

/-- A transfer of hearth `t` by the register path. -/
def State.regXfer (s : State) (t : Nat) : Xfer := { ctx := { hearth := t, accept := s.now, start := s.now }, ptr := none, reg := true }

theorem startReg_queued {t : Nat} {completing : Bool} (ho : s.chanOwner c = some t) (hs : s.flag .CH_CTRL_START c = completing)
    (hq : (s.chan c).queue.length < 16) :
    s.startReg c completing =
      (s.setChan c { s.chan c with queue := (s.chan c).queue ++ [s.regXfer t] }).setFld .CH_CTRL_START c 1 := by
  have hc : ((completing && !completing) || decide (16 ≤ (s.chan c).queue.length)) = false := by
    cases completing <;> simp [hq]
  unfold State.startReg
  dsimp only
  rw [ho]
  dsimp only
  rw [hs, if_neg (by simp only [hc]; decide)]
  rfl

theorem startReg_lost (h : s.flag .CH_CTRL_START c = true ∨ 16 ≤ (s.chan c).queue.length) :
    s.startReg c false = s.setFld .CH_STAT_START_LOST c 1 := by
  unfold State.startReg
  dsimp only
  split
  · rfl
  · rw [if_pos (by simpa using h)]

/-! ### PAUSE (R318, R320) -/

theorem setPause_running (h : s.chSt c = chRunning ∨ s.chSt c = chPreempted) :
    s.setPause c true = (s.setFld .CH_CTRL_PAUSE c 1).setFld .CH_STAT_STATE c chPausing := by
  unfold State.setPause
  dsimp only
  rw [if_pos rfl, if_pos (by simpa using h)]
  rfl

/-- The open context of a paused channel as it goes on. -/
def State.resumed (s : State) (c : Nat) : DmaCtx :=
  (s.chan c).opn.rebase (s.fld .SRC_CUR c) (s.fld .DST_CUR c) (s.fld .REMAIN c) (s.fld .POS c) s.clk

theorem setPause_resume (h : s.chSt c = chPaused) :
    s.setPause c false =
      ((s.setFld .CH_CTRL_PAUSE c 0).setFld .CH_STAT_STATE c chRunning).setChan c { s.chan c with opn := s.resumed c } := by
  have hcur {f : Fld} (hf : f ≠ .CH_CTRL_PAUSE) : (s.setFld .CH_CTRL_PAUSE c 0).fld f c = s.fld f c := setFld_fld_ne s hf c c 0
  unfold State.setPause
  dsimp only
  rw [if_neg (by decide), if_pos h]
  show (((s.setFld .CH_CTRL_PAUSE c 0).setFld .CH_STAT_STATE c chRunning).setChan c { s.chan c with opn := _ }) = _
  unfold State.resumed
  rw [← hcur (f := .SRC_CUR) (by decide), ← hcur (f := .DST_CUR) (by decide), ← hcur (f := .REMAIN) (by decide), ← hcur (f := .POS) (by decide)]
  rfl

/-! ### What a word does -/

theorem setChan_chSt (s : State) (c : Nat) (x : Chan) (d : Nat) : (s.setChan c x).chSt d = s.chSt d := rfl

theorem writeChCtrl_queues {t : Nat} (h0 : v.testBit 0 = true) (h1 : v.testBit 1 = s.flag .CH_CTRL_PAUSE c) (ho : s.chanOwner c = some t)
    (hs : s.flag .CH_CTRL_START c = hw.testBit 0) (hq : (s.chan c).queue.length < 16) :
    (s.writeChCtrl c v hw).fld .CH_CTRL_START c = 1 ∧ ((s.writeChCtrl c v hw).chan c).queue.length = (s.chan c).queue.length + 1 := by
  have hreg := startReg_queued ho hs hq
  have hkeep : (s.startReg c (hw.testBit 0)).flag .CH_CTRL_PAUSE c = s.flag .CH_CTRL_PAUSE c := by
    rw [hreg]
    exact congrArg (· != 0) (setFld_fld_ne _ (by decide) c c 1)
  rw [writeChCtrl_start h0 (h1.trans hkeep.symm), hreg, setEnable_fld (by decide) (by decide), setEnable_chan]
  refine ⟨setFld_fld_same .., ?_⟩
  rw [setFld_chan_read, setChan_chan_same, List.length_append]
  rfl

theorem writeChCtrl_startLost (h0 : v.testBit 0 = true) (h1 : v.testBit 1 = s.flag .CH_CTRL_PAUSE c) (hb : hw.testBit 0 = false)
    (h : s.flag .CH_CTRL_START c = true ∨ 16 ≤ (s.chan c).queue.length) :
    (s.writeChCtrl c v hw).fld .CH_STAT_START_LOST c = 1 ∧ (s.writeChCtrl c v hw).chan c = s.chan c := by
  have hreg : s.startReg c (hw.testBit 0) = s.setFld .CH_STAT_START_LOST c 1 := by rw [hb, startReg_lost h]
  have hkeep : (s.startReg c (hw.testBit 0)).flag .CH_CTRL_PAUSE c = s.flag .CH_CTRL_PAUSE c := by
    rw [hreg]
    exact congrArg (· != 0) (setFld_fld_ne _ (by decide) c c 1)
  rw [writeChCtrl_start h0 (h1.trans hkeep.symm), hreg, setEnable_fld (by decide) (by decide), setEnable_chan]
  exact ⟨setFld_fld_same .., rfl⟩

theorem writeChCtrl_pauses (h0 : v.testBit 0 = false) (h1 : v.testBit 1 = true) (hp : s.flag .CH_CTRL_PAUSE c = false)
    (hst : s.chSt c = chRunning ∨ s.chSt c = chPreempted) :
    (s.writeChCtrl c v hw).fld .CH_CTRL_PAUSE c = 1 ∧ (s.writeChCtrl c v hw).chSt c = chPausing ∧
      (s.writeChCtrl c v hw).chan c = s.chan c := by
  rw [writeChCtrl_pause h0 (by simp [h1, hp]), h1, setPause_running hst, setEnable_fld (by decide) (by decide), setEnable_chSt,
    setEnable_chan]
  have hpausing : ((s.setFld .CH_CTRL_PAUSE c 1).setFld .CH_STAT_STATE c chPausing).chSt c = chPausing := setFld_fld_same ..
  refine ⟨(setFld_fld_ne _ (by decide) c c _).trans (setFld_fld_same ..), ?_, rfl⟩
  rw [hpausing, if_neg (by simp [chPausing, chFaulted])]

theorem writeChCtrl_resumes (h0 : v.testBit 0 = false) (h1 : v.testBit 1 = false) (hp : s.flag .CH_CTRL_PAUSE c = true)
    (hst : s.chSt c = chPaused) :
    (s.writeChCtrl c v hw).fld .CH_CTRL_PAUSE c = 0 ∧ (s.writeChCtrl c v hw).chSt c = chRunning ∧
      (s.writeChCtrl c v hw).chan c = { s.chan c with opn := s.resumed c } := by
  rw [writeChCtrl_pause h0 (by simp [h1, hp]), h1, setPause_resume hst, setEnable_fld (by decide) (by decide), setEnable_chSt,
    setEnable_chan]
  have hset : (s.setFld .CH_CTRL_PAUSE c 0).fld .CH_CTRL_PAUSE c = 0 := setFld_fld_same ..
  have hkeep : ((s.setFld .CH_CTRL_PAUSE c 0).setFld .CH_STAT_STATE c chRunning).fld .CH_CTRL_PAUSE c = 0 :=
    (setFld_fld_ne _ (by decide) c c _).trans hset
  have hrunning : ((s.setFld .CH_CTRL_PAUSE c 0).setFld .CH_STAT_STATE c chRunning).chSt c = chRunning := setFld_fld_same ..
  rw [setChan_chSt, setChan_fld_read, hrunning, if_neg (by simp [chRunning, chFaulted])]
  exact ⟨hkeep, rfl, setChan_chan_same ..⟩

theorem writeChCtrl_enables (h0 : v.testBit 0 = false) (h1 : v.testBit 1 = s.flag .CH_CTRL_PAUSE c) (h2 : v.testBit 2 = true) :
    (s.writeChCtrl c v hw).fld .CH_CTRL_ENABLE c = b2n !hw.testBit 2 ∧
      (s.writeChCtrl c v hw).chSt c = if hw.testBit 2 = false ∧ s.chSt c = chFaulted then chIdle else s.chSt c := by
  rw [writeChCtrl_enable h0 h1, h2, setEnable_enable, setEnable_chSt]
  refine ⟨by simp, ?_⟩
  congr 1
  simp

end

/-! ### The channel that a write meets -/

/-- The state in which the register file takes a write of CH_CTRL. -/
def State.chanMet (s : State) (p : Path) (c hw : Nat) : State :=
  { s.joined p with lastHw := if hw != 0 then some (0x800, c, hw) else (s.joined p).lastHw }

section
variable {s : State} {p : Path} {c : Nat}

theorem take_chCtrl (hp : p = .mp ∨ s.lastHw = none) (v hw : Nat) :
    (s.joined p).take 0x800 c v hw = (s.chanMet p c hw).writeChCtrl c v hw := by
  show State.applyReg _ 0x800 c v ((s.joined p).metHw 0x800 c hw) = _
  rw [applyReg_chCtrl, joined_metHw hp]
  rfl

theorem chanMet_fld {f : Fld} (hf : f ≠ .MP_STAT_BURST_DONE) (hw i : Nat) : (s.chanMet p c hw).fld f i = s.fld f i := joined_fld hf s p i

theorem chanMet_chan (hw : Nat) : (s.chanMet p c hw).chan c = s.chan c := joined_chan s p c

theorem chanMet_flag {f : Fld} (hf : f ≠ .MP_STAT_BURST_DONE) (hw i : Nat) : (s.chanMet p c hw).flag f i = s.flag f i :=
  congrArg (· != 0) (chanMet_fld hf hw i)

theorem chanMet_owner (hw : Nat) : (s.chanMet p c hw).chanOwner c = s.chanOwner c := by
  unfold State.chanOwner State.ownsChan State.fbit
  simp only [chanMet_fld (f := .CHAN_MASK_LO) (by decide), chanMet_fld (f := .CHAN_MASK_HI) (by decide)]

end

/-! ### Words that change one bit of CH_CTRL -/

theorem chCtrl_testBit_zero (s : State) (c : Nat) : (s.chCtrl c).testBit 0 = false := by
  unfold State.chCtrl
  rw [Nat.testBit_eq_decide_div_mod_eq, decide_eq_false_iff_not]
  omega

theorem chCtrl_testBit_one {s : State} {c : Nat} (h : s.fld .CH_CTRL_PAUSE c < 2) : (s.chCtrl c).testBit 1 = s.flag .CH_CTRL_PAUSE c := by
  unfold State.chCtrl State.flag
  rw [Nat.testBit_eq_decide_div_mod_eq]
  generalize s.fld .CH_CTRL_PAUSE c = x at *
  generalize s.fld .CH_CTRL_ENABLE c = y
  rw [show (x * 2 + y * 4) / 2 ^ 1 % 2 = x by omega]
  interval_cases x <;> rfl

theorem orBit_testBit (x b k : Nat) : (orBit x b).testBit k = (x.testBit k || decide (b = k)) := by
  rw [orBit, Nat.testBit_or, Nat.testBit_two_pow]

theorem Wrote.chSt {u t : State} (h : Wrote u t) (c : Nat) : t.chSt c = u.chSt c := h.fld (f := .CH_STAT_STATE) (by decide) c

/-- A write of CH_CTRL, by the channel that it meets. -/
theorem exec_chanPath {s : State} {p : Path} {c : Nat} (hrun : s.power = .run) (hr : s.reaches p 0x800 c) (hp : p = .mp ∨ s.lastHw = none)
    (hw : Nat) (x : State → Nat → Nat) :
    ∃ t, live s (fun s => s.chanPath p c hw (x s)) = .next t ∧ Wrote ((s.chanMet p c hw).writeChCtrl c (x s c) hw) t := by
  rw [← take_chCtrl hp]
  exact live_wrote (f := fun s => s.chanPath p c hw (x s)) hrun (chanPath_eq hr (x s))

theorem pathChan_of_reaches {s : State} {p : Path} {c : Nat} (hr : s.reaches p 0x800 c) : s.pathChan p c = c := by
  unfold State.pathChan
  split
  · next h =>
    subst h
    exact Option.some.inj hr.2
  · rfl

theorem noted_chan (u : State) (p : Path) (c : Nat) : (u.noted p).chan c = u.chan c := by
  rw [noted_sameButReg]
  rfl

/-- A resume that leaves units to move finishes nothing. -/
theorem exec_dmaResume_wrote {s : State} {p : Path} {c : Fin 64} (hrun : s.power = .run) (hr : s.reaches p 0x800 c)
    (hp : p = .mp ∨ s.lastHw = none) (hleft : (((s.chanMet p c 0).writeChCtrl c (s.fld .CH_CTRL_ENABLE c * 4) 0).chan c).opn.left ≠ 0) :
    ∃ t, exec (.dmaResume p c) s = .next t ∧ Wrote ((s.chanMet p c 0).writeChCtrl c (s.fld .CH_CTRL_ENABLE c * 4) 0) t := by
  rw [← take_chCtrl hp] at hleft ⊢
  refine live_wrote (p := p) hrun ?_
  dsimp only
  rw [pathChan_of_reaches hr, chanPath_eq hr, noted_chan, State.on, if_neg (by simp [hleft])]

end Sys2Proof.Machine

open Sys2Proof Sys2Proof.Machine

/-- Settles O23: CH_CTRL's word falls apart into START, PAUSE and ENABLE, each in a channel as it stood. -/
theorem channelControl : Obligations.ChannelControl := by
  intro s p c hrun hr hp
  have hfld {f : Fld} (hf : f ≠ .MP_STAT_BURST_DONE) (hw : Nat) : (s.chanMet p c hw).fld f c = s.fld f c := chanMet_fld hf hw c
  have hflag {f : Fld} (hf : f ≠ .MP_STAT_BURST_DONE) (hw : Nat) : (s.chanMet p c hw).flag f c = s.flag f c := chanMet_flag hf hw c
  have hst (hw : Nat) : (s.chanMet p c hw).chSt c = s.chSt c := hfld (by decide) hw
  have hone {t : State} {f : Fld} (h : t.fld f c = 1) : t.flag f c = true := by simp [State.flag, h]
  have hzero {t : State} {f : Fld} (h : t.fld f c = 0) : t.flag f c = false := by simp [State.flag, h]
  refine ⟨fun h v hw ho hs hq h0 h1 => ?_, fun v hlost h0 h1 => ?_, fun hpause hrunning => ?_, fun hpause hpaused hrem => ?_, fun hpause => ?_⟩
  · obtain ⟨t, ht, hwr⟩ := exec_chanPath hrun hr hp (b2n hw) fun _ _ => v.toNat
    have hb : (b2n hw).testBit 0 = hw := by cases hw <;> rfl
    obtain ⟨hstart, hlen⟩ := writeChCtrl_queues (s := s.chanMet p c (b2n hw)) (hw := b2n hw) h0 (h1.trans (hflag (by decide) _).symm) ((chanMet_owner _).trans ho)
      ((hflag (by decide) _).trans (hs.trans hb.symm)) (by rwa [chanMet_chan])
    exact ⟨t, ht, hone ((hwr.fld (by decide) _).trans hstart), by rw [hwr.chan, hlen, chanMet_chan]⟩
  · obtain ⟨t, ht, hwr⟩ := exec_chanPath hrun hr hp 0 fun _ _ => v.toNat
    obtain ⟨hl, hch⟩ := writeChCtrl_startLost (s := s.chanMet p c 0) (hw := 0) h0 (h1.trans (hflag (by decide) _).symm) rfl
      (by rwa [chanMet_chan, hflag (by decide)])
    exact ⟨t, ht, hone ((hwr.fld (by decide) _).trans hl), by rw [hwr.chan, hch, chanMet_chan]⟩
  · obtain ⟨t, ht, hwr⟩ := exec_chanPath hrun hr hp 0 fun s c => orBit (s.chCtrl c) 1
    have h0 : (orBit (s.chCtrl c) 1).testBit 0 = false := by rw [orBit_testBit, chCtrl_testBit_zero]; rfl
    have h1 : (orBit (s.chCtrl c) 1).testBit 1 = true := by rw [orBit_testBit]; simp
    obtain ⟨hpau, hpst, hch⟩ := writeChCtrl_pauses (s := s.chanMet p c 0) (hw := 0) h0 h1 ((hflag (by decide) _).trans hpause)
      (by rwa [hst])
    exact ⟨t, ht, hone ((hwr.fld (by decide) _).trans hpau), (hwr.chSt c).trans hpst, by rw [hwr.chan, hch, chanMet_chan]⟩
  · have h0 : (s.fld .CH_CTRL_ENABLE c * 4).testBit 0 = false := by
      rw [Nat.testBit_eq_decide_div_mod_eq, decide_eq_false_iff_not]
      omega
    have h1 : (s.fld .CH_CTRL_ENABLE c * 4).testBit 1 = false := by
      rw [Nat.testBit_eq_decide_div_mod_eq, decide_eq_false_iff_not]
      omega
    obtain ⟨hp0, hps, hch⟩ := writeChCtrl_resumes (s := s.chanMet p c 0) (hw := 0) h0 h1 ((hflag (by decide) 0).trans (hone hpause))
      ((hst 0).trans hpaused)
    have hleft : ((s.chanMet p c 0).resumed c).left = s.fld .REMAIN c := hfld (f := .REMAIN) (by decide) 0
    obtain ⟨t, ht, hwr⟩ := exec_dmaResume_wrote hrun hr hp (by rw [hch]; exact fun h => hrem (hleft.symm.trans h))
    refine ⟨t, ht, hzero ((hwr.fld (by decide) _).trans hp0), (hwr.chSt c).trans hps, ?_, ?_⟩
    · rw [hwr.chan, hch]
      exact hleft
    · rw [hwr.chan, hch]
      show ((s.chanMet p c 0).chan c).pln = _
      rw [chanMet_chan]
  · have h0 : (orBit (s.chCtrl c) 2).testBit 0 = false := by rw [orBit_testBit, chCtrl_testBit_zero]; rfl
    have h1 : (orBit (s.chCtrl c) 2).testBit 1 = s.flag .CH_CTRL_PAUSE c := by
      rw [orBit_testBit, chCtrl_testBit_one hpause]
      simp
    have h2 : (orBit (s.chCtrl c) 2).testBit 2 = true := by rw [orBit_testBit]; simp
    constructor
    · obtain ⟨t, ht, hwr⟩ := exec_chanPath hrun hr hp 0 fun s c => orBit (s.chCtrl c) 2
      obtain ⟨hen, hs⟩ := writeChCtrl_enables (s := s.chanMet p c 0) (hw := 0) h0 (h1.trans (hflag (by decide) _).symm) h2
      refine ⟨t, ht, hone ((hwr.fld (by decide) _).trans hen), ?_⟩
      rw [hwr.chSt, hs]
      split
      · decide
      · next h => exact fun hf => h ⟨rfl, hf⟩
    · obtain ⟨t, ht, hwr⟩ := exec_chanPath hrun hr hp 4 fun s c => orBit (s.chCtrl c) 2
      obtain ⟨hen, hs⟩ := writeChCtrl_enables (s := s.chanMet p c 4) (hw := 4) h0 (h1.trans (hflag (by decide) _).symm) h2
      refine ⟨t, ht, hzero ((hwr.fld (by decide) _).trans hen), ?_⟩
      rw [hwr.chSt, hs, if_neg fun h => absurd h.1 (by decide)]
      exact hst 4
end

section
/-! PROOF. REGISTER_WRITE of one word, its forms, and CHIP_RST (R77, R498, R547). -/

namespace Sys2Proof.Machine

section
variable {reg : Nat} {w : RegWrite} {s : State}

/-- The word that a request of one word carries. -/
def writtenWord (w : RegWrite) : Nat := w.data.toNat % 2 ^ 32

/-- A word over the port that ends with a chip reset loses its frame (R498). -/
theorem WordReg.portWrite_reset {inst v hw : Nat} (h : WordReg reg) (hr : s.reaches .mp reg inst) (he : s.expertOk reg inst = true)
    (hrst : resetWord reg v = true) : s.portWrite reg v hw = (s.joined .mp).take reg inst v hw := by
  have hi : (s.setFld .MP_STAT_BURST_DONE 0 0).portInst reg = some inst :=
    (portInst_congr (fun f i hf => setFld_fld_ne s hf 0 i 0) reg).trans hr.2
  have hmp : (s.setFld .MP_STAT_BURST_DONE 0 0).mpWrite reg v hw = ((s.joined .mp).take reg inst v hw, stOk) := by
    simp only [State.mpWrite, hi]
    rw [show (s.setFld .MP_STAT_BURST_DONE 0 0).writeCycle .mp = s.joined .mp from rfl, h.joined_writeReg hr he]
    rfl
  unfold State.portWrite State.onPort
  rw [if_neg (Nat.not_lt.mpr hr.1)]
  simp only [h.aligned, hmp, hrst]
  rfl

/-- The paths and forms by which a word reaches a global register. -/
def Arrives (w : RegWrite) (s : State) (reg : Nat) : Prop :=
  w.path = .mp ∧ s.portAt ≤ s.clk ∨ (w.path = .pf ∨ w.path = .mirror ∧ isGuarded reg = false) ∧ w.size = 4 ∧ w.be = 0xF

theorem WordReg.regWrite_paged_eq (h : WordReg reg) (hreg : w.off.toNat % 0x1000 = reg) (hlow : reg < 0x400) (he : s.expertOk reg 0 = true)
    (hp : w.path = .pf ∨ w.path = .mirror ∧ isGuarded reg = false) (hsize : w.size = 4) (hbe : w.be = 0xF) :
    s.regWrite w = (s.joined w.path).take reg 0 (writtenWord w) w.hw.toNat := by
  have hm : w.path ≠ .mp := by rcases hp with hp | ⟨hp, -⟩ <;> simp [hp]
  have hv : ∀ t, w.path ≠ .vf t := by rcases hp with hp | ⟨hp, -⟩ <;> simp [hp]
  have hr : s.reaches w.path reg 0 := by
    rcases hp with hp | ⟨hp, hg⟩ <;> rw [hp]
    · trivial
    · exact hg
  have hjoin : (s.hostUp w.path).writeCycle w.path = s.joined w.path := by rcases hp with hp | ⟨hp, -⟩ <;> rw [hp] <;> rfl
  rw [regWrite_paged hm, hsize, hbe]
  refine (writeSpan_word (off_aligned hreg h.aligned) _).trans ?_
  rw [writePage_global hm hv (hreg ▸ hlow), hreg, hjoin, h.joined_writeReg hr he]
  rfl

/-- One word that REGISTER_WRITE carries to a global register. -/
theorem WordReg.regWrite_eq (h : WordReg reg) (hreg : w.off.toNat % 0x1000 = reg) (hlow : reg < 0x400) (he : s.expertOk reg 0 = true)
    (hp : Arrives w s reg) (hrst : resetWord reg (writtenWord w) = false) :
    s.regWrite w = ((s.joined w.path).take reg 0 (writtenWord w) w.hw.toNat).noted w.path := by
  obtain ⟨hp, hport⟩ | ⟨hp, hsize, hbe⟩ := hp
  · unfold State.regWrite
    rw [hp, hreg]
    exact h.portWrite_eq ⟨hport, if_pos hlow⟩ he hrst
  · rw [h.regWrite_paged_eq hreg hlow he hp hsize hbe]
    rcases hp with hp | ⟨hp, -⟩ <;> rw [hp] <;> rfl

end

/-! ### CHIP_RST -/

theorem wordReg_chipRst : WordReg 0x33C := ⟨by decide, by decide, by decide⟩

theorem chipRst_expertOk (s : State) : s.expertOk 0x33C 0 = true := by simp [State.expertOk, isExpertReg]

/-- CHIP_RST's offset within the page that a write names. -/
def toChipRst (w : RegWrite) : RegWrite := { w with off := BitVec.ofNat 19 (w.off.toNat / 0x1000 * 0x1000 + 0x33C) }

theorem toChipRst_off (w : RegWrite) : (toChipRst w).off.toNat % 0x1000 = 0x33C := by
  have := w.off.isLt
  simp only [toChipRst, BitVec.toNat_ofNat]
  omega

theorem applyReg_chipRst (s : State) (i v hw : Nat) : s.applyReg 0x33C i v hw = if v % 256 = 0xA5 then s.chipReset else s := by
  obtain ⟨d, hd⟩ : ∃ d, s.chipReset = d := ⟨_, rfl⟩
  unfold State.applyReg
  rw [hd]
  rfl

theorem SameButReg.pcieUp {s t : State} (h : SameButReg s t) : t.pcieUp = s.pcieUp := by
  unfold SameButReg at h
  rw [h]

theorem SameButReg.byte {s t : State} (h : SameButReg s t) (a : Nat) : t.byte a = s.byte a := by
  unfold SameButReg at h
  rw [h]
  rfl

theorem SameButReg.fuses {s t : State} (h : SameButReg s t) : t.fuses = s.fuses := by
  unfold SameButReg at h
  rw [h]

/-- What a command of the running chip leaves of a state shows the same effective presets. -/
theorem eqEff_running (u : State) {x : Fuses} (q : List Instr) (h : x = u.fuses) (n k : Nat) {p : Power} {b : Bool} :
    ({ u with pending := q, power := p, fuses := x, thermtripLow := b } : State).eqEff n k = u.eqEff n k := by
  subst h
  rfl

theorem chipReset_fuses (s : State) : s.chipReset.fuses = s.fuses := by
  have hstrap (u : State) (pos : Bool) : (u.strapped pos).fuses = u.fuses := by cases pos <;> rfl
  exact (fused_sameButReg _).fuses.trans (hstrap _ _)

/-- What the warm reset leaves (R498). -/
theorem chipReset_spec (s : State) :
    s.chipReset.chip = chipCold ∧ s.chipReset.pcieUp = s.pcieUp ∧ (∀ a, s.chipReset.byte a = 0) ∧
      (∀ n k, n < 24 → k < 4 → s.chipReset.fld (eqNow k) n = s.chipReset.eqEff n k) ∧
      ∀ (f : Fld) (i : Nat), f ≠ .TRAY_POS_POS → f ≠ .NODE_CFG_ELECT_PRIO → (∀ k, f ≠ eqNow k) → s.chipReset.fld f i = f.resetVal i := by
  have hpcie (u : State) (pos : Bool) : (u.strapped pos).pcieUp = u.pcieUp := by cases pos <;> rfl
  have hbyte (u : State) (pos : Bool) (a : Nat) : (u.strapped pos).byte a = u.byte a := by cases pos <;> rfl
  let u : State := { s.blank with power := .run, fuses := s.fuses, pcieUp := s.pcieUp }.strapped (s.flag .TRAY_POS_POS)
  have hrest : SameButReg u s.chipReset := fused_sameButReg u
  have hval {f : Fld} (i : Nat) (hp : f ≠ .TRAY_POS_POS) (he : f ≠ .NODE_CFG_ELECT_PRIO) (hk : ∀ k, f ≠ eqNow k) :
      s.chipReset.fld f i = f.resetVal i :=
    (fused_fld_of_ne u hk i).trans (strapped_fld_of_ne _ _ hp he i).1
  have hchip : ∀ k, Fld.TICK_STAT_CHIP_STATE ≠ eqNow k := fun k => by
    unfold eqNow
    split <;> decide
  refine ⟨hval 0 (by decide) (by decide) hchip, ?_, fun a => ?_, fun n k hn hk => ?_, fun f i hp he hk => hval i hp he hk⟩
  · exact hrest.pcieUp.trans (hpcie _ _)
  · exact (hrest.byte a).trans (hbyte _ _ a)
  · exact (fused_fld_eqNow u hn hk).trans (fused_eqEff u n k).symm

theorem joined_pcieUp_mp (s : State) : (s.joined .mp).pcieUp = s.pcieUp := by
  show ((s.setFld .MP_STAT_BURST_DONE 0 0).writeCycle .mp).pcieUp = _
  rw [writeCycle_rest]
  rfl

/-- A word to CHIP_RST through the port or PF BAR0. -/
def toChip (s : State) (w : RegWrite) : Prop := w.path = .mp ∧ s.portAt ≤ s.clk ∨ w.path = .pf ∧ w.size = 4 ∧ w.be = 0xF

theorem take_chipRst (s : State) (p : Path) (v hw : Nat) :
    (s.joined p).take 0x33C 0 v hw =
      let u : State := { s.joined p with lastHw := if hw != 0 then some (0x33C, 0, hw) else (s.joined p).lastHw }
      if v % 256 = 0xA5 then u.chipReset else u := applyReg_chipRst _ 0 v _

theorem exec_chipRst (w : RegWrite) (s : State) : exec (.chipRst w) s = live s fun s => s.regWrite (toChipRst w) := rfl

theorem resetWord_lowByte (v : Nat) : resetWord 0x33C (v % 2 ^ 32) = decide (v % 256 = 0xA5) := by
  unfold resetWord
  rw [Nat.mod_mod_of_dvd v (by decide : 256 ∣ 2 ^ 32)]
  rfl

/-- CHIP_RST's write is a REGISTER_WRITE of the same path, form and data at 0x33C. -/
theorem exec_chipRst_regWrite (w : RegWrite) : ∃ x : RegWrite, x.off.toNat % 0x1000 = 0x33C ∧ x.path = w.path ∧ x.data = w.data ∧
    x.size = w.size ∧ x.be = w.be ∧ ∀ s, exec (.chipRst w) s = live s fun s => s.regWrite x := by
  refine ⟨toChipRst w, toChipRst_off w, ?_, ?_, ?_, ?_, exec_chipRst w⟩ <;> unfold toChipRst <;> rfl

section
variable {s : State} {w : RegWrite} (hoff : w.off.toNat % 0x1000 = 0x33C)
include hoff

theorem regWrite_chipRst (hv : w.data.toNat % 256 = 0xA5) (hp : toChip s w) :
    ∃ u : State, s.regWrite w = u.chipReset ∧ u.fuses = s.fuses ∧ (w.path = .mp → u.pcieUp = s.pcieUp) := by
  have hlow : writtenWord w % 256 = 0xA5 := (Nat.mod_mod_of_dvd _ (by decide)).trans hv
  have hrst : resetWord 0x33C (writtenWord w) = true := (resetWord_lowByte _).trans (decide_eq_true hv)
  have htake : s.regWrite w = (s.joined w.path).take 0x33C 0 (writtenWord w) w.hw.toNat := by
    obtain ⟨hp, hport⟩ | ⟨hp, hsize, hbe⟩ := hp
    · unfold State.regWrite
      rw [hp, hoff]
      exact wordReg_chipRst.portWrite_reset ⟨hport, if_pos (by decide)⟩ (chipRst_expertOk s) hrst
    · exact wordReg_chipRst.regWrite_paged_eq hoff (by decide) (chipRst_expertOk s) (.inl hp) hsize hbe
  have hrest := joined_rest s w.path
  refine ⟨_, htake.trans ((take_chipRst ..).trans (if_pos hlow)), (congrArg State.fuses hrest :), fun hm => ?_⟩
  refine Eq.trans ?_ (joined_pcieUp_mp s)
  rw [hm]

theorem regWrite_chipRst_other (hv : w.data.toNat % 256 ≠ 0xA5) (hp : toChip s w) :
    (∀ a, (s.regWrite w).byte a = s.byte a) ∧ ∀ f i, f.unnoted → (s.regWrite w).fld f i = s.fld f i := by
  have hlow : ¬ writtenWord w % 256 = 0xA5 := fun h => hv ((Nat.mod_mod_of_dvd _ (by decide)).symm.trans h)
  have hrst : resetWord 0x33C (writtenWord w) = false := (resetWord_lowByte _).trans (decide_eq_false hv)
  have harr : Arrives w s 0x33C := hp.imp_right fun h => ⟨.inl h.1, h.2⟩
  have hr := wordReg_chipRst.regWrite_eq hoff (by decide) (chipRst_expertOk s) harr hrst
  rw [take_chipRst] at hr
  dsimp only at hr
  rw [if_neg hlow] at hr
  rw [hr]
  exact ⟨fun a => ((noted_sameButReg _ _).byte a).trans (joined_byte s _ a), fun f i hf => (noted_fld hf _ _ i).trans (joined_fld hf.2 s _ i)⟩

end

theorem rowsAt_chipRst : rowsAt 0x33C = [⟨0x33C, 0, 1, 0, 8, .cmd⟩] := rfl

/-- A command's offset holds no field to write. -/
theorem chipRst_writeRows (s : State) (v : Option Nat) (hw : Nat) : s.writeRows 0x33C 0 v hw = s := by
  rw [writeRows_rowsAt, rowsAt_chipRst]
  rfl

/-- Through a virtual function or the mirror the write is counted (R498, R547). -/
theorem regWrite_chipRst_closed {s : State} {w : RegWrite} (hoff : w.off.toNat % 0x1000 = 0x33C) (hm : w.path ≠ .mp) (hpf : w.path ≠ .pf)
    (hsize : w.size = 4) (hbe : w.be = 0xF) :
    s.regWrite w = { (s.writeCycle w.path).bump .MP_ERR_COUNT with pcieUp := (s.hostUp w.path).pcieUp } := by
  have hclosed : closedTo w.path 0x33C = true := by simp [closedTo, hm, hpf, isGuarded]
  have hpage (u : State) (v hw : Nat) : u.writePage w.path w.off.toNat v hw = (u.writeCycle w.path, .discarded) := by
    by_cases hv : ∃ t, w.path = .vf t
    · obtain ⟨t, ht⟩ := hv
      rw [ht]
      exact writePage_vf t (by rw [hoff]; decide) u v
    · rw [writePage_global hm (not_exists.mp hv) (by rw [hoff]; decide), hoff, writeReg_closedTo hclosed, chipRst_writeRows,
        hwEvent_of_ne (by decide)]
  rw [regWrite_paged hm, hsize, hbe]
  refine (writeSpan_word (off_aligned hoff (by decide)) _).trans ?_
  rw [hpage]
  exact hostUp_writeCycle_bump s w.path .MP_ERR_COUNT

end Sys2Proof.Machine

open Sys2Proof Sys2Proof.Machine

/-- Settles O6: the word meets `applyReg` at 0x33C, which resets the chip on 0xA5 alone; the other paths only count it. -/
theorem warmReset : Obligations.WarmReset := by
  refine ⟨fun s w hrun hv hp => ?_, fun s w hrun hv hp => ?_, fun s w hrun hm hpf hsize hbe => ?_⟩
  · obtain ⟨x, hoff, hpath, hdata, hsize, hbe, he⟩ := exec_chipRst_regWrite w
    rw [← hpath, ← hsize, ← hbe] at hp
    obtain ⟨u, hreset, hfuses, hpcie⟩ := regWrite_chipRst hoff (by rwa [hdata]) hp
    obtain ⟨hchip, hup, hmem, heq, hflds⟩ := chipReset_spec u
    have hkept := hfuses.symm.trans (chipReset_fuses u).symm
    refine ⟨_, he s, ?_⟩
    rw [running_run hrun, hreset, ← hpath]
    generalize u.chipReset = r at *
    refine ⟨rfl, rfl, hchip, fun hm => hup.trans (hpcie hm), hmem, fun n k hn hk => (heq n k hn hk).trans ?_, hflds⟩
    exact (eqEff_running r _ hkept n k).symm
  · obtain ⟨x, hoff, hpath, hdata, hsize, hbe, he⟩ := exec_chipRst_regWrite w
    rw [← hpath, ← hsize, ← hbe] at hp
    obtain ⟨hmem, hflds⟩ := regWrite_chipRst_other hoff (by rwa [hdata]) hp
    refine ⟨_, he s, ?_⟩
    rw [running_run hrun]
    exact ⟨hmem, fun f i hl hb => hflds f i ⟨hl, hb⟩⟩
  · obtain ⟨x, hoff, hpath, hdata, hsize', hbe', he⟩ := exec_chipRst_regWrite w
    have hw := regWrite_chipRst_closed (s := s) hoff (by rwa [hpath]) (by rwa [hpath]) (hsize'.trans hsize) (hbe'.trans hbe)
    obtain ⟨hpending, hpower, hfuses, htherm⟩ := writeCycle_bump_host s x.path .MP_ERR_COUNT
    have hall : s.running (fun s => s.regWrite x) = s.regWrite x := by
      refine running_eq hrun ?_ ?_ ?_ ?_ <;> rw [hw]
      · exact hpending
      · exact hpower.trans hrun
      · exact hfuses
      · exact htherm
    exact ⟨_, he s, by rw [hall, hw, hpath]⟩
end

section
/-! PROOF. Read frames of the management port (R79, R81, R82, R88, R95, R530). -/

namespace Sys2Proof.Machine

/-! ### The port serves frames -/

theorem framed_run {s : State} {ok : Bool} (hok : ok = true) (hport : s.portAt ≤ s.clk) (f : State → State) :
    framed ok s f = .next (s.running f) := by
  unfold framed
  rw [liveIf_true s _ hok]
  exact congrArg Host.Outcome.next (running_congr (if_neg (Nat.not_lt.mpr hport)))

/-- A frame too soon after a reset is ignored (R530). -/
theorem framed_early {s : State} {ok : Bool} (hok : ok = true) (hrun : s.power = .run) (hport : s.clk < s.portAt) (f : State → State) :
    framed ok s f = .next s := by
  have hon : s.onPort f = s := if_pos hport
  unfold framed
  rw [liveIf_true s _ hok, running_eq hrun (by rw [hon]) (by rw [hon]; exact hrun) (by rw [hon]) (by rw [hon]), hon]

/-! ### One word -/

/-- The fields that the words of a read frame write. -/
def readFlds : List Fld := [.MP_STAT_LAST_CODE, .MP_STAT_FRAME_ERR, .TICK_COUNT_HI]

/-- `t` differs from `s` in the clock and, of the registers, in the fields `fs`. -/
structure Timed (fs : List Fld) (s t : State) : Prop where
  rest : t = { s with reg := t.reg, clk := t.clk, cyc := t.cyc }
  flds : FldsBut fs s t

theorem Timed.refl (fs : List Fld) (s : State) : Timed fs s s := ⟨rfl, .refl fs s⟩

theorem Timed.trans {fs : List Fld} {s t u : State} (h : Timed fs s t) (k : Timed fs t u) : Timed fs s u := by
  refine ⟨?_, h.flds.trans k.flds⟩
  have hk := k.rest
  rw [h.rest] at hk
  exact hk

theorem Timed.advance (fs : List Fld) (s : State) (n : Nat) : Timed fs s (s.advance n) := ⟨rfl, fun _ _ _ => rfl⟩

theorem Timed.setFld {fs : List Fld} {f : Fld} (hf : f ∈ fs) (s : State) (i v : Nat) : Timed fs s (s.setFld f i v) :=
  ⟨rfl, setFld_fldsBut s hf i v⟩

theorem Timed.on {fs : List Fld} {s : State} {c : Bool} {g : State → State} (h : Timed fs s (g s)) : Timed fs s (s.on c g) := by
  cases c
  · exact .refl fs s
  · exact h

/-- The statuses of a place (Table 3.4). -/
theorem placeStatus_mem (op : Byte) (base a : Nat) : placeStatus op base a ∈ [stOk, stWindow, stAlign, stEnd] := by
  unfold placeStatus
  repeat' split
  all_goals decide

/-- The status of a word that no CRC and no right was missing for. -/
theorem mpStatus_timed {fs : List Fld} (hl : .MP_STAT_LAST_CODE ∈ fs) (he : .MP_STAT_FRAME_ERR ∈ fs) {st : Nat} (hc : st ≠ stCrc)
    (hx : st ≠ stExpert) (s : State) : Timed fs s (s.mpStatus st) := by
  have h := Timed.setFld hl s 0 (st % 16)
  unfold State.mpStatus
  dsimp only
  rw [if_neg hc, if_neg hx]
  split
  · exact h
  · exact h.trans (.setFld he _ 0 1)

theorem mpRead_timed (s : State) (op addr : Byte) (k : Nat) : Timed readFlds s (s.mpRead op addr k).1 := by
  have hstat {st : Nat} (h : st ∈ [stOk, stWindow, stAlign, stEnd, stNoTarget]) (u : State) : Timed readFlds u (u.mpStatus st) := by
    have hne : st ≠ stCrc ∧ st ≠ stExpert := by
      revert st
      decide
    exact mpStatus_timed (by decide) (by decide) hne.1 hne.2 u
  have hplace := placeStatus_mem op (frameBase op addr) (frameBase op addr + 4 * k)
  have hadv := Timed.advance readFlds s 1
  unfold State.mpRead
  dsimp only
  split
  · exact hadv.trans (hstat (by revert hplace; generalize placeStatus op _ _ = st; revert st; decide) _)
  · split
    · exact hadv.trans (hstat (st := stNoTarget) (by decide) _)
    · exact hadv.trans ((Timed.on (g := State.capture) (.setFld (f := .TICK_COUNT_HI) (by decide) _ 0 _)).trans
        (hstat (st := stOk) (by decide) _))

/-! Data and status of the word at offset `a`, by what its place allows (R79, R82, R91). -/

section
variable {s : State} {op addr : Byte} {k a : Nat} (ha : frameBase op addr + 4 * k = a)
include ha

theorem mpRead_bad (h : placeStatus op (frameBase op addr) a ≠ stOk) :
    (s.mpRead op addr k).2 = (0, placeStatus op (frameBase op addr) a) := by
  subst ha
  unfold State.mpRead
  dsimp only
  rw [if_pos (by simpa using h)]

theorem mpRead_noTarget (h : placeStatus op (frameBase op addr) a = stOk) (hi : s.portInst a = none) :
    (s.mpRead op addr k).2 = (0, stNoTarget) := by
  subst ha
  have hi' : (s.advance 1).portInst (frameBase op addr + 4 * k) = none := hi
  unfold State.mpRead
  dsimp only
  rw [if_neg (by simp [h]), hi']

theorem mpRead_ok {i : Nat} (h : placeStatus op (frameBase op addr) a = stOk) (hi : s.portInst a = some i) :
    (s.mpRead op addr k).2 = ((s.advance 1).readReg .mp (s.flag .PORT_SEL_READ_SEL) a i, stOk) := by
  subst ha
  have hi' : (s.advance 1).portInst (frameBase op addr + 4 * k) = some i := hi
  unfold State.mpRead
  dsimp only
  rw [if_neg (by simp [h]), hi']
  rfl

end

/-! ### Whole frames -/

/-- The bytes of MISO for one word. -/
def wordMiso (w : Nat × Nat) : List Byte := beBytes w.1 ++ [BitVec.ofNat 8 w.2]

theorem leBytes_length (n x : Nat) : (leBytes n x).length = n := by
  induction n generalizing x with
  | zero => rfl
  | succ n ih => simp [leBytes, ih]

theorem wordMiso_length (w : Nat × Nat) : (wordMiso w).length = 5 := by simp [wordMiso, beBytes, leBytes_length]

/-- A word without data. -/
theorem wordMiso_zero (st : Nat) : wordMiso (0, st) = [0, 0, 0, 0, BitVec.ofNat 8 st] := by
  have h : beBytes 0 = [0, 0, 0, 0] := by decide
  rw [wordMiso, h]
  rfl

/-- A frame's words one after the other. -/
def State.readStep (op addr : Byte) (r : State × List Byte × Bool) (k : Nat) : State × List Byte × Bool :=
  ((r.1.mpRead op addr k).1, r.2.1 ++ wordMiso (r.1.mpRead op addr k).2, r.2.2 && (r.1.mpRead op addr k).2.2 = stOk)

theorem mpReads_eq (s : State) (op addr : Byte) (n : Nat) : s.mpReads op addr n = (upTo n).foldl (State.readStep op addr) (s, [], true) := by
  unfold State.mpReads
  congr 1
  funext r k
  simp [State.readStep, wordMiso]

/-- Further words only append to MISO. -/
theorem readSteps_spec (op addr : Byte) (l : List Nat) (r : State × List Byte × Bool) :
    Timed readFlds r.1 (l.foldl (State.readStep op addr) r).1 ∧
      ∃ rest, (l.foldl (State.readStep op addr) r).2.1 = r.2.1 ++ rest ∧ rest.length = 5 * l.length := by
  induction l generalizing r with
  | nil => exact ⟨.refl _ _, [], by simp, rfl⟩
  | cons k l ih =>
    obtain ⟨ht, rest, hrest, hlen⟩ := ih (State.readStep op addr r k)
    refine ⟨(mpRead_timed r.1 op addr k).trans ht, wordMiso (r.1.mpRead op addr k).2 ++ rest, ?_, ?_⟩
    · rw [List.foldl_cons, hrest, ← List.append_assoc]
      rfl
    · rw [List.length_append, wordMiso_length, hlen, List.length_cons]
      omega

theorem mpReads_spec (s : State) (op addr : Byte) {n : Nat} (hn : 0 < n) :
    Timed readFlds s (s.mpReads op addr n).1 ∧ (s.mpReads op addr n).2.1.length = 5 * n ∧
      (s.mpReads op addr n).2.1.take 5 = wordMiso (s.mpRead op addr 0).2 := by
  obtain ⟨m, rfl⟩ : ∃ m, n = m + 1 := ⟨n - 1, by omega⟩
  have hl : upTo (m + 1) = 0 :: (List.range m).map (· + 1) := List.range_succ_eq_map
  obtain ⟨ht, rest, hrest, hlen⟩ := readSteps_spec op addr ((List.range m).map (· + 1)) (State.readStep op addr (s, [], true) 0)
  rw [mpReads_eq, hl, List.foldl_cons]
  rw [show (State.readStep op addr (s, [], true) 0).2.1 = wordMiso (s.mpRead op addr 0).2 from List.nil_append _] at hrest
  refine ⟨(mpRead_timed s op addr 0).trans ht, ?_, ?_⟩
  · rw [hrest, List.length_append, wordMiso_length, hlen, List.length_map, List.length_range]
    omega
  · rw [hrest, List.take_left' (wordMiso_length _)]

/-- The end of a frame: MISO and its line, and at most one count. -/
theorem endFrame_spec (s : State) (miso : List Byte) (line : List Bool) (ok : Bool) :
    (s.endFrame miso line ok).miso = miso ∧ (s.endFrame miso line ok).misoLine = line ∧
      (∀ a, (s.endFrame miso line ok).byte a = s.byte a) ∧ (∀ f i, (s.endFrame miso line ok).shd f i = s.shd f i) ∧
      FldsBut [.MP_ERR_COUNT] s (s.endFrame miso line ok) := by
  cases ok with
  | true => exact ⟨rfl, rfl, fun _ => rfl, fun _ _ => rfl, .refl _ _⟩
  | false =>
    show State.miso (State.bump _ _) = _ ∧ State.misoLine (State.bump _ _) = _ ∧ (∀ a, (State.bump _ _).byte a = _) ∧
      (∀ f i, (State.bump _ _).shd f i = _) ∧ FldsBut _ s (State.bump _ _)
    have hrest := (bump_reported { s with miso := miso, misoLine := line } (List.mem_singleton_self .MP_ERR_COUNT) 0 1).rest
    refine ⟨by rw [hrest], by rw [hrest], fun a => ?_, fun f i => ?_, bump_fldsBut _ (List.mem_singleton_self _) 0 1⟩
    · exact congrArg (mget 0 a) (bump_mem _ _ 0 1)
    · rw [hrest]
      rfl

theorem readFrame_spec (s : State) (op addr : Byte) {n : Nat} (hn : 0 < n) :
    (s.readFrame op addr n).miso.length = 5 * n ∧ (s.readFrame op addr n).misoLine = readLine (s.readFrame op addr n).miso ∧
      (s.readFrame op addr n).miso.take 5 = wordMiso (s.mpRead op addr 0).2 ∧ (∀ a, (s.readFrame op addr n).byte a = s.byte a) ∧
      (∀ f i, (s.readFrame op addr n).shd f i = s.shd f i) ∧ FldsBut (.MP_ERR_COUNT :: readFlds) s (s.readFrame op addr n) := by
  obtain ⟨⟨hrest, hflds⟩, hlen, htake⟩ := mpReads_spec s op addr hn
  obtain ⟨hm, hline, hbyte, hshd, hend⟩ := endFrame_spec (s.mpReads op addr n).1 (s.mpReads op addr n).2.1
    (readLine (s.mpReads op addr n).2.1) (s.mpReads op addr n).2.2
  have hm' : (s.readFrame op addr n).miso = (s.mpReads op addr n).2.1 := hm
  rw [hm']
  refine ⟨hlen, hline, htake, fun a => (hbyte a).trans ?_, fun f i => (hshd f i).trans ?_, ?_⟩
  · rw [hrest]
    rfl
  · rw [hrest]
    rfl
  · exact (hflds.mono (by decide)).trans (hend.mono (by decide))

end Sys2Proof.Machine

open Sys2Proof Sys2Proof.Machine

/-- Settles O9: a frame is its words one after the other, of which the first stands in MISO's first five bytes. -/
theorem portReads : Obligations.PortReads := by
  intro s op addr n hrun hop hone hn
  have hexec : exec (if frameOp op = 0 then .singleRead op addr else .burstRead op addr n) s =
      framed true s fun s => s.readFrame op addr n := by
    have hlt : frameOp op < 4 := by
      have := op.isLt
      unfold frameOp
      omega
    by_cases h0 : frameOp op = 0
    · rw [if_pos h0, hone h0]
      show framed (decide (frameOp op = 0)) s _ = _
      rw [h0]
      rfl
    · have h2 : frameOp op = 2 := by omega
      rw [if_neg h0]
      show framed (decide (frameOp op = 2)) s _ = _
      rw [h2]
      rfl
  refine ⟨fun hport => by rw [hexec, framed_early rfl hrun hport], fun hport => ⟨_, hexec.trans (framed_run rfl hport _), ?_⟩⟩
  rw [running_run hrun]
  obtain ⟨hlen, hline, htake, hbyte, hshd, hflds⟩ := readFrame_spec s op addr hn
  have h0 : frameBase op addr + 4 * 0 = frameBase op addr := by rw [Nat.mul_zero, Nat.add_zero]
  refine ⟨hlen, hline, fun h => htake.trans ?_, fun h hi => htake.trans ?_, fun i h hi => htake.trans ?_, hbyte, hshd,
    fun g j hl he hc ht => hflds g j (by simp [readFlds, hl, he, hc, ht])⟩
  · rw [mpRead_bad h0 h, wordMiso_zero]
  · rw [mpRead_noTarget h0 h hi, wordMiso_zero]
    rfl
  · rw [mpRead_ok h0 h hi]
    rfl
end

section
/-! PROOF. BAR0 and mirror writes by their form, and the captured TICK_COUNT (R30, R77, R95, R546, R547). -/

namespace Sys2Proof.Machine

/-! ### SCRATCH -/

theorem plainReg_scratch : PlainReg 0x038 [(.SCRATCH, 0)] where
  global := by decide
  aligned := by decide
  beat := by decide
  reset := by decide
  expert := by decide
  apply := fun _ _ _ _ => rfl
  rows := rfl
  distinct := by decide
  direct := by decide
  inWord := by decide

theorem fldsAt_scratch : fldsAt 0x038 = [.SCRATCH] := rfl

/-- A register of plain rows has no shadow copy, and its write counts nothing. -/
theorem PlainReg.writeRows_sameButReg {reg inst hw : Nat} {cells : List (Fld × Nat)} (h : PlainReg reg cells) (s : State) (v : Nat) :
    SameButReg s (s.writeRows reg inst (some v) hw) := by
  rw [writeRows_rowsAt, h.rows]
  refine forAll_rel .refl .trans _ _ (fun r hr s => ?_) s
  obtain ⟨c, -, rfl⟩ := List.mem_map.mp hr
  unfold State.writeRow
  rw [plainRow_index]
  rfl

theorem QuietReg.wordReg {reg : Nat} (h : QuietReg reg) (hsel : reg ≠ 0x014) : WordReg reg := ⟨h.aligned, h.beat, hsel⟩

theorem joined_fld_paged {p : Path} (hp : p ≠ .mp) (s : State) (f : Fld) (i : Nat) : (s.joined p).fld f i = s.fld f i := by
  cases p with
  | mp => exact absurd rfl hp
  | pf => exact (writeCycle_fld ..).trans (hostUp_fld ..)
  | vf t => exact (writeCycle_fld ..).trans (hostUp_fld ..)
  | mirror => exact (writeCycle_fld ..).trans (hostUp_fld ..)

theorem SameButReg.shd {s t : State} (h : SameButReg s t) (f : Fld) (i : Nat) : t.shd f i = s.shd f i := by
  unfold SameButReg at h
  rw [h]
  rfl

/-- One aligned word with every byte enable loads SCRATCH and nothing else. -/
theorem regWrite_scratch {w : RegWrite} {s : State} (hoff : w.off.toNat % 0x1000 = 0x038) (hp : w.path = .pf ∨ w.path = .mirror)
    (hsize : w.size = 4) (hbe : w.be = 0xF) :
    (s.regWrite w).fld .SCRATCH = w.data.toNat % 2 ^ 32 ∧ (∀ a, (s.regWrite w).byte a = s.byte a) ∧
      (∀ f i, f ≠ .SCRATCH → (s.regWrite w).fld f i = s.fld f i) ∧ ∀ f i, (s.regWrite w).shd f i = s.shd f i := by
  have hm : w.path ≠ .mp := by rcases hp with hp | hp <;> simp [hp]
  let u : State := { s.joined w.path with lastHw := if w.hw.toNat != 0 then some (0x038, 0, w.hw.toNat) else (s.joined w.path).lastHw }
  have heq : s.regWrite w = u.writeRows 0x038 0 (some (writtenWord w)) ((s.joined w.path).metHw 0x038 0 w.hw.toNat) := by
    rw [(plainReg_scratch.wordReg (by decide)).regWrite_paged_eq hoff (by decide) (by simp [State.expertOk, isExpertReg])
      (hp.imp_right fun h => ⟨h, by decide⟩) hsize hbe]
    exact plainReg_scratch.apply _ _ _ _
  have hrest := plainReg_scratch.writeRows_sameButReg (inst := 0) (hw := (s.joined w.path).metHw 0x038 0 w.hw.toNat) u (writtenWord w)
  rw [heq]
  refine ⟨?_, fun a => (hrest.byte a).trans (joined_byte s w.path a), fun f i hf => ?_, fun f i => (hrest.shd f i).trans (joined_shd s w.path f i)⟩
  · refine (plainReg_scratch.writeRows_fld (inst := 0) (c := (.SCRATCH, 0)) (by decide) u (writtenWord w)).trans ?_
    show writtenWord w / 2 ^ 0 % 2 ^ 32 = _
    rw [Nat.pow_zero, Nat.div_one]
    exact Nat.mod_mod _ _
  · exact (writeRows_fld_of_notMem (by rw [fldsAt_scratch]; simpa using hf) u).trans (joined_fld_paged hm s f i)

/-- Any other form is discarded and counted (R547). -/
theorem regWrite_badForm {w : RegWrite} (hm : w.path ≠ .mp) (h4 : ¬ (w.size = 4 ∧ w.off.toNat % 4 = 0 ∧ w.be = 0xF))
    (h8 : ¬ (w.size = 8 ∧ w.off.toNat % 8 = 0 ∧ w.be = 0xFF)) (s : State) :
    s.regWrite w = (s.hostUp w.path).bump .MP_ERR_COUNT := by
  have hsize (n : Fin 9) : w.size.val = n.val ↔ w.size = n := Fin.ext_iff.symm
  have hbe (b : BitVec 8) : w.be.toNat = b.toNat ↔ w.be = b := BitVec.toNat_inj
  rw [regWrite_paged hm]
  unfold State.writeSpan
  rw [if_neg, if_neg]
  · rfl
  · simpa [and_assoc, ← hsize, ← hbe] using h8
  · simpa [and_assoc, ← hsize, ← hbe] using h4

/-! ### Words of the map -/

theorem sum_filter_zero {α : Type} (f : α → Nat) (p : α → Bool) (h : ∀ r, p r = false → f r = 0) (l : List α) (a : Nat) :
    (l.map f).foldl (· + ·) a = ((l.filter p).map f).foldl (· + ·) a := by
  induction l generalizing a with
  | nil => rfl
  | cons r l ih =>
    cases hr : p r
    · rw [List.filter_cons_of_neg (by simp [hr]), ← ih, List.map_cons, List.foldl_cons, h r hr, Nat.add_zero]
    · rw [List.filter_cons_of_pos hr, List.map_cons, List.map_cons, List.foldl_cons, List.foldl_cons, ih]

/-- A word is the sum of the rows at its offset. -/
theorem readReg_rowsAt (s : State) (p : Path) (shadow : Bool) (reg inst : Nat) :
    s.readReg p shadow reg inst = ((rowsAt reg).map (s.readRow p shadow reg inst)).foldl (· + ·) 0 := by
  refine sum_filter_zero _ _ (fun r hr => ?_) _ 0
  unfold State.readRow
  rw [Option.isSome_eq_false_iff.mp hr |> Option.isNone_iff_eq_none.mp]

theorem readReg_tickLo (s : State) (p : Path) (shadow : Bool) : s.readReg p shadow 0x088 0 = s.now % 2 ^ 32 := by
  have hrow : rowsAt 0x088 = [⟨0x088, 0, 1, 0, 32, .fld .TICK_COUNT 0 .RO .none⟩] := rfl
  rw [readReg_rowsAt, hrow]
  simp [State.readRow, RegRow.index, trayOnly, State.instOf, bitsOf, State.now]

theorem readReg_tickHi (s : State) (p : Path) (shadow : Bool) : s.readReg p shadow 0x08C 0 = s.fld .TICK_COUNT_HI % 2 ^ 16 := by
  have hrow : rowsAt 0x08C = [⟨0x08C, 0, 1, 0, 16, .fld .TICK_COUNT_HI 0 .RO .none⟩] := rfl
  rw [readReg_rowsAt, hrow]
  simp [State.readRow, RegRow.index, trayOnly, State.instOf, bitsOf]

theorem capture_hi {s : State} (h : s.now < 2 ^ 48) : s.capture.fld .TICK_COUNT_HI = s.now / 2 ^ 32 := by
  refine (setFld_fld_same ..).trans (Nat.mod_eq_of_lt ?_)
  show s.now / 2 ^ 32 < 2 ^ 16
  omega

theorem capture_fld {f : Fld} (hf : f ≠ .TICK_COUNT_HI) (s : State) (i : Nat) : s.capture.fld f i = s.fld f i := setFld_fld_ne s hf 0 i _

/-! ### Reads of TICK_COUNT_LO -/

/-- A read frame of one word that lies well. -/
theorem readFrame_one {s : State} {op addr : Byte} {a i : Nat} (ha : frameBase op addr = a) (hp : placeStatus op a a = stOk)
    (hi : s.portInst a = some i) :
    s.readFrame op addr 1 =
      { ((s.advance 1).on (a = 0x088) State.capture).mpStatus stOk with
        miso := wordMiso ((s.advance 1).readReg .mp (s.flag .PORT_SEL_READ_SEL) a i, stOk)
        misoLine := readLine (wordMiso ((s.advance 1).readReg .mp (s.flag .PORT_SEL_READ_SEL) a i, stOk)) } := by
  have h0 : frameBase op addr + 4 * 0 = a := by rw [Nat.mul_zero, Nat.add_zero, ha]
  have hi' : (s.advance 1).portInst a = some i := hi
  have hread : s.mpRead op addr 0 = (((s.advance 1).on (a = 0x088) State.capture).mpStatus stOk,
      (s.advance 1).readReg .mp (s.flag .PORT_SEL_READ_SEL) a i, stOk) := by
    unfold State.mpRead
    dsimp only
    rw [h0, ha, hp, hi']
    rfl
  have hreads : s.mpReads op addr 1 = ((s.mpRead op addr 0).1, wordMiso (s.mpRead op addr 0).2, decide ((s.mpRead op addr 0).2.2 = stOk)) := by
    rw [mpReads_eq]
    show State.readStep op addr (s, [], true) 0 = _
    simp [State.readStep]
  unfold State.readFrame
  rw [hreads, hread]
  rfl

theorem mpStatus_ok_fld {f : Fld} (hf : f ≠ .MP_STAT_LAST_CODE) (s : State) (i : Nat) : (s.mpStatus stOk).fld f i = s.fld f i :=
  setFld_fld_ne s hf 0 i _

theorem exec_tickCountLo_paged {p : Path} (hp : p ≠ .mp) (off : BitVec 19) (len : Nat) (s : State) :
    exec (.tickCountLo p off len) s = live s fun s =>
      { ((s.hostUp p).readSpan p off.toNat len).1 with bus := ((s.hostUp p).readSpan p off.toNat len).2 } := by
  cases p with
  | mp => exact absurd rfl hp
  | pf => rfl
  | vf t => rfl
  | mirror => rfl

theorem leNat_leBytes (n x : Nat) : leNat (leBytes n x) = x % 256 ^ n := by
  induction n generalizing x with
  | zero => simp [leBytes, leNat, Nat.mod_one]
  | succ n ih =>
    rw [leBytes, leNat, ih, BitVec.toNat_ofNat, show 256 ^ (n + 1) = 256 * 256 ^ n from Nat.pow_succ', Nat.mod_mul]

theorem leNat_append (a b : List Byte) : leNat (a ++ b) = leNat a + 256 ^ a.length * leNat b := by
  induction a with
  | nil => simp [leNat]
  | cons x a ih =>
    rw [List.cons_append, leNat, ih, leNat, List.length_cons, Nat.pow_succ]
    ring

/-- Two words of a span, the first of which is TICK_COUNT_LO. -/
theorem readSpan_tick {s : State} {p : Path} {off : Nat} (hreg : off % 0x1000 = 0x088) (hoff : off + 4 < 0x80000) (hnow : s.now < 2 ^ 48) :
    s.readSpan p off 8 = (((s.advance 1).capture).advance 1, leBytes 4 (s.now % 2 ^ 32) ++ leBytes 4 (s.now / 2 ^ 32)) := by
  have hinst (page reg : Nat) (h : 0x080 ≤ reg) (h' : reg ≤ 0x0AB) (u : State) : u.pageInst p page reg = some 0 := by
    cases p <;> simp [State.pageInst, show reg < 1024 by omega, h, h']
  have hw0 : (off / 4 + 0) * 4 = off := by omega
  have hw1 : (off / 4 + 1) * 4 = off + 4 := by omega
  have hreg1 : (off + 4) % 0x1000 = 0x08C := by omega
  have hlo (u : State) : u.readPage p off = u.now % 2 ^ 32 := by
    unfold State.readPage
    dsimp only
    rw [hreg, hinst _ _ (by decide) (by decide)]
    exact readReg_tickLo u p _
  have hhi (u : State) : u.readPage p (off + 4) = u.fld .TICK_COUNT_HI % 2 ^ 16 := by
    unfold State.readPage
    dsimp only
    rw [hreg1, hinst _ _ (by decide) (by decide)]
    exact readReg_tickHi u p _
  have hcount : (off + 8 + 3) / 4 - off / 4 = 2 := by omega
  have hcap : (((s.advance 1).capture).advance 1).fld .TICK_COUNT_HI % 2 ^ 16 = s.now / 2 ^ 32 := by
    rw [show (((s.advance 1).capture).advance 1).fld .TICK_COUNT_HI = _ from capture_hi (s := s.advance 1) hnow]
    exact Nat.mod_eq_of_lt (by show s.now / 2 ^ 32 < 2 ^ 16; omega)
  have hdrop : off % 4 = 0 := by omega
  unfold State.readSpan
  rw [hcount, hdrop]
  simp only [show upTo 2 = [0, 1] from rfl, List.foldl_cons, List.foldl_nil, hw0, hw1, if_neg (show ¬ 0x80000 ≤ off by omega),
    if_neg (show ¬ 0x80000 ≤ off + 4 by omega), hreg, hreg1, hlo, hhi, hinst _ _ (show 0x080 ≤ 0x088 by decide) (by decide),
    Option.isSome_some, Bool.true_and, decide_true, if_true, hcap]
  rw [if_neg (by simp)]
  have hlen : (leBytes 4 (s.now % 2 ^ 32) ++ leBytes 4 (s.now / 2 ^ 32)).length = 8 := by simp [leBytes_length]
  exact congrArg (Prod.mk _) (List.take_of_length_le hlen.le)

end Sys2Proof.Machine

open Sys2Proof Sys2Proof.Machine

/-- Settles O12: SCRATCH is a register of plain rows, a bad form is one count, and a read of TICK_COUNT_LO is the capture in its own cycle. -/
theorem pagedWritesAndTickCount : Obligations.PagedWritesAndTickCount := by
  refine ⟨⟨fun s p page d hw hrun hp => ?_, fun s w hrun hm h4 h8 herr => ?_⟩, fun s off len hrun hport hnow => ?_,
    fun s p page hrun hp hnow => ?_⟩
  · have hoff : (BitVec.ofNat 19 (page.val * 0x1000 + 0x038)).toNat % 0x1000 = 0x038 := by
      have := page.isLt
      rw [BitVec.toNat_ofNat]
      omega
    have hw := regWrite_scratch (w := ⟨p, BitVec.ofNat 19 (page.val * 0x1000 + 0x038), 4, 0xF, d, hw⟩) (s := s) hoff hp rfl rfl
    obtain ⟨hs, hb, hf, hsh⟩ := hw
    refine ⟨_, rfl, ?_⟩
    rw [running_run hrun]
    exact ⟨hs, hb, fun g j hg => hf g j hg, hsh⟩
  · have hw := regWrite_badForm hm h4 h8 s
    have hrest := bump_sameButRows (s.hostUp w.path) .MP_ERR_COUNT 0 1
    have hup : (s.hostUp w.path).fld .MP_ERR_COUNT = s.fld .MP_ERR_COUNT := hostUp_fld ..
    refine ⟨_, rfl, ?_⟩
    rw [running_run hrun, hw]
    refine ⟨?_, fun a => ?_, fun g j hg => ?_⟩
    · rw [← hup] at herr ⊢
      exact bump_fld_self herr
    · refine (congrArg (mget 0 a) (bump_mem (s.hostUp w.path) _ 0 1)).trans ?_
      show (s.hostUp w.path).byte a = s.byte a
      cases w.path <;> rfl
    · exact (bump_fldsBut _ (fs := [.MP_ERR_COUNT]) (by decide) 0 1 g j (by simpa using hg)).trans (hostUp_fld ..)
  · have hframe := readFrame_one (s := s) (op := 0x00) (addr := 0x88) (a := 0x088) (i := 0) (by decide) (by decide) (by simp [State.portInst])
    have hread : (s.advance 1).readReg .mp (s.flag .PORT_SEL_READ_SEL) 0x088 0 = s.now % 2 ^ 32 := readReg_tickLo _ _ _
    rw [hread, show (s.advance 1).on (0x088 = 0x088) State.capture = (s.advance 1).capture from if_pos (by simp)] at hframe
    have hexec : exec (.tickCountLo .mp off len) s = .next (s.running fun s => s.readFrame 0x00 0x88 1) :=
      congrArg Host.Outcome.next (running_congr (if_neg (Nat.not_lt.mpr hport)))
    refine ⟨_, hexec, ?_⟩
    rw [running_run hrun, hframe]
    refine ⟨rfl, ?_, fun g j hg hl => ?_⟩
    · exact (mpStatus_ok_fld (f := .TICK_COUNT_HI) (by decide) _ 0).trans (capture_hi (s := s.advance 1) hnow)
    · exact (mpStatus_ok_fld hl _ j).trans (capture_fld hg (s.advance 1) j)
  · have hoff : (BitVec.ofNat 19 (page.val * 0x1000 + 0x088)).toNat = page.val * 0x1000 + 0x088 := by
      have := page.isLt
      rw [BitVec.toNat_ofNat]
      omega
    have hspan := readSpan_tick (s := s.hostUp p) (p := p) (off := page.val * 0x1000 + 0x088) (by omega) (by have := page.isLt; omega)
      (by rwa [show (s.hostUp p).now = s.now from hostUp_fld ..])
    rw [show (s.hostUp p).now = s.now from hostUp_fld ..] at hspan
    refine ⟨_, exec_tickCountLo_paged hp _ 8 s, ?_⟩
    rw [← hoff] at hspan
    rw [running_run hrun, hspan]
    refine ⟨?_, ?_, fun g j hg => ?_⟩
    · show leNat (leBytes 4 (s.now % 2 ^ 32) ++ leBytes 4 (s.now / 2 ^ 32)) = s.now
      rw [leNat_append, leBytes_length, leNat_leBytes, leNat_leBytes]
      omega
    · exact (capture_hi (s := (s.hostUp p).advance 1) (by rwa [show ((s.hostUp p).advance 1).now = s.now from hostUp_fld ..])).trans
        (congrArg (· / 2 ^ 32) (hostUp_fld ..))
    · exact (capture_fld hg ((s.hostUp p).advance 1) j).trans (hostUp_fld ..)
end

section
/-! PROOF. Write frames of the management port, whole and cut short (R79 to R81, R85 to R89, R91, R498). -/

namespace Sys2Proof.Machine

/-! ### The status of a word -/

/-- The flag of MP_STAT in which a status other than 0xA0 shows (Table 3.7). -/
def statusFlag (st : Nat) : Fld := if st = stCrc then .MP_STAT_CRC_ERR else if st = stExpert then .MP_STAT_EXPERT_OFF else .MP_STAT_FRAME_ERR

section
variable {st : Nat} (h : st ≠ stOk) (s : State)
include h

theorem mpStatus_eq : s.mpStatus st = (s.setFld .MP_STAT_LAST_CODE 0 (st % 16)).setFld (statusFlag st) 0 1 := by
  unfold State.mpStatus statusFlag
  dsimp only
  rw [if_neg h]
  split
  · rfl
  · split <;> rfl

theorem mpStatus_flag {f : Fld} (hf : statusFlag st = f) (hw : f.width = 1) : (s.mpStatus st).flag f = true := by
  rw [mpStatus_eq h, hf, State.flag, setFld_fld_same, hw]
  rfl

theorem mpStatus_fldsBut {f : Fld} (hf : statusFlag st = f) : FldsBut [.MP_STAT_LAST_CODE, f] s (s.mpStatus st) := by
  rw [mpStatus_eq h, hf]
  exact (setFld_fldsBut s (List.mem_cons_self ..) 0 _).trans (setFld_fldsBut _ (by simp) 0 1)

end

theorem mpStatus_sameButReg (s : State) (st : Nat) : SameButReg s (s.mpStatus st) := by
  unfold State.mpStatus
  repeat' split
  all_goals rfl

/-! ### One word of a frame -/

/-- The run after a word that the port answers with status `st`. -/
def WriteRun.give (r : WriteRun) (s : State) (st : Nat) (failed applied : Bool) : WriteRun :=
  { s := s.mpStatus st, failed := failed, applied := r.applied + b2n applied, miso := r.miso ++ [BitVec.ofNat 8 st],
    ok := r.ok && st = stOk }

section
variable {r : WriteRun} {op addr : Byte} {k a : Nat} {w : Word32 × Byte} (hl : r.lost = false)
include hl

/-- After a bad CRC every word fails (R86). -/
theorem word_failed (hf : r.failed = true) : r.word op addr k w = r.give r.s stCrc true false := by
  unfold WriteRun.word
  dsimp only
  rw [if_neg (by simp [hl]), if_pos hf]
  rfl

variable (hf : r.failed = false) (ha : frameBase op addr + 4 * k = a)
include hf ha

theorem word_badCrc (he : placeStatus op (frameBase op addr) a ≠ stEnd) (hc : w.2.toNat ≠ wordCrc op a w.1) :
    r.word op addr k w = r.give r.s stCrc true false := by
  subst ha
  unfold WriteRun.word
  dsimp only
  rw [if_neg (by simp [hl]), if_neg (by simp [hf]), if_neg he, if_pos (by simpa using hc)]
  rfl

theorem word_badPlace (he : placeStatus op (frameBase op addr) a ≠ stEnd) (hc : w.2.toNat = wordCrc op a w.1)
    (hp : placeStatus op (frameBase op addr) a ≠ stOk) :
    r.word op addr k w = r.give r.s (placeStatus op (frameBase op addr) a) false false := by
  subst ha
  unfold WriteRun.word
  dsimp only
  rw [if_neg (by simp [hl]), if_neg (by simp [hf]), if_neg he, if_neg (by simp [hc]), if_pos (by simpa using hp)]
  rfl

theorem word_applied (hc : w.2.toNat = wordCrc op a w.1) (hp : placeStatus op (frameBase op addr) a = stOk) :
    r.word op addr k w =
      if (r.s.mpWrite a w.1.toNat 0).2 = stOk && resetWord a w.1.toNat then ⟨(r.s.mpWrite a w.1.toNat 0).1, false, 0, [], true, true⟩
      else r.give (r.s.mpWrite a w.1.toNat 0).1 (r.s.mpWrite a w.1.toNat 0).2 false ((r.s.mpWrite a w.1.toNat 0).2 = stOk) := by
  subst ha
  unfold WriteRun.word
  dsimp only
  rw [if_neg (by simp [hl]), if_neg (by simp [hf]), if_neg (by rw [hp]; decide), if_neg (by simp [hc]), if_neg (by simp [hp])]
  rfl

end

/-- Only CHIP_RST's value loses the frame; every other word appends its status. -/
theorem word_miso {r : WriteRun} (hl : r.lost = false) (op addr : Byte) (k : Nat) (w : Word32 × Byte) :
    ((r.word op addr k w).lost = true → (r.word op addr k w).miso = [] ∧ frameBase op addr + 4 * k = 0x33C) ∧
      ((r.word op addr k w).lost = false → (r.word op addr k w).miso.length = r.miso.length + 1) := by
  have hgive (s : State) (st : Nat) (f b : Bool) : ((r.give s st f b).lost = true → (r.give s st f b).miso = [] ∧ frameBase op addr + 4 * k = 0x33C) ∧
      ((r.give s st f b).lost = false → (r.give s st f b).miso.length = r.miso.length + 1) :=
    ⟨nofun, fun _ => by simp [WriteRun.give]⟩
  unfold WriteRun.word
  dsimp only
  rw [if_neg (by simp [hl])]
  split
  · exact hgive _ _ _ _
  split
  · exact hgive _ _ _ _
  split
  · exact hgive _ _ _ _
  split
  · exact hgive _ _ _ _
  split
  next h =>
    simp only [Bool.and_eq_true, resetWord, decide_eq_true_eq] at h
    exact ⟨fun _ => ⟨rfl, h.2.1⟩, nofun⟩
  next => exact hgive _ _ _ _

/-! ### The words of a frame -/

/-- The words of a frame from a run on. -/
def WriteRun.words (r : WriteRun) (op addr : Byte) (l : List ((Word32 × Byte) × Nat)) : WriteRun :=
  l.foldl (fun r e => r.word op addr e.2 e.1) r

/-- The run before the first word. -/
def State.startRun (s : State) : WriteRun := ⟨s.setFld .MP_STAT_BURST_DONE 0 0, false, 0, [], true, false⟩

theorem writeWords_eq (s : State) (op addr : Byte) (ws : List (Word32 × Byte)) :
    s.writeWords op addr ws = { s.startRun.words op addr ws.zipIdx with
      s := (s.startRun.words op addr ws.zipIdx).s.setFld .MP_STAT_BURST_DONE 0 (min (s.startRun.words op addr ws.zipIdx).applied 0xFFFF) } := rfl

theorem words_lost {r : WriteRun} (h : r.lost = true) (op addr : Byte) (l : List ((Word32 × Byte) × Nat)) : r.words op addr l = r := by
  have hword (k : Nat) (w : Word32 × Byte) : r.word op addr k w = r := if_pos h
  induction l with
  | nil => rfl
  | cons e l ih =>
    show (r.word op addr e.2 e.1).words op addr l = r
    rw [hword, ih]

/-- A frame that is lost returns nothing, and any other one status per word. -/
theorem words_miso {r : WriteRun} (hl : r.lost = false) (op addr : Byte) (l : List ((Word32 × Byte) × Nat)) :
    ((r.words op addr l).lost = true → (r.words op addr l).miso = [] ∧ ∃ e ∈ l, frameBase op addr + 4 * e.2 = 0x33C) ∧
      ((r.words op addr l).lost = false → (r.words op addr l).miso.length = r.miso.length + l.length) := by
  induction l generalizing r with
  | nil => exact ⟨fun h => absurd (hl.symm.trans h) (by decide), fun _ => rfl⟩
  | cons e l ih =>
    obtain ⟨hlost, hlen⟩ := word_miso hl op addr e.2 e.1
    have hcons : r.words op addr (e :: l) = (r.word op addr e.2 e.1).words op addr l := rfl
    rw [hcons]
    cases hw : (r.word op addr e.2 e.1).lost with
    | true =>
      rw [words_lost hw]
      exact ⟨fun _ => ⟨(hlost hw).1, e, List.mem_cons_self .., (hlost hw).2⟩, fun h => absurd (hw.symm.trans h) (by decide)⟩
    | false =>
      obtain ⟨hno, hyes⟩ := ih hw
      refine ⟨fun h => ⟨(hno h).1, ?_⟩, fun h => ?_⟩
      · obtain ⟨x, hx, hxa⟩ := (hno h).2
        exact ⟨x, List.mem_cons_of_mem _ hx, hxa⟩
      · rw [hyes h, hlen hw, List.length_cons]
        omega

/-- A frame that does not reach CHIP_RST is not lost. -/
theorem words_kept {r : WriteRun} (hl : r.lost = false) {op addr : Byte} {ws : List (Word32 × Byte)}
    (hno : ∀ k, k < ws.length → frameBase op addr + 4 * k ≠ 0x33C) : (r.words op addr ws.zipIdx).lost = false := by
  refine Bool.eq_false_iff.mpr fun h => ?_
  obtain ⟨-, e, he, ha⟩ := (words_miso hl op addr ws.zipIdx).1 h
  exact hno e.2 (List.snd_lt_of_mem_zipIdx he) ha

/-- After a failed word no word is applied (R86). -/
structure AllFailed (s : State) (n : Nat) (r : WriteRun) : Prop where
  failed : r.failed = true
  kept : r.lost = false ∧ r.applied = 0
  miso : r.miso = List.replicate n 0xA1
  flag : r.s.flag .MP_STAT_CRC_ERR = true
  rest : SameButReg s r.s
  flds : FldsBut [.MP_STAT_LAST_CODE, .MP_STAT_CRC_ERR] s r.s

/-- A word that fails its CRC. -/
theorem AllFailed.give {r : WriteRun} {s : State} {n : Nat} (ha : r.applied = 0) (hm : r.miso = List.replicate n 0xA1)
    (hrest : SameButReg s r.s) (hflds : FldsBut [.MP_STAT_LAST_CODE, .MP_STAT_CRC_ERR] s r.s) :
    AllFailed s (n + 1) (r.give r.s stCrc true false) where
  failed := rfl
  kept := ⟨rfl, ha⟩
  miso := by
    show r.miso ++ [0xA1] = _
    rw [hm, List.replicate_succ']
  flag := mpStatus_flag (by decide) _ rfl rfl
  rest := hrest.trans (mpStatus_sameButReg r.s stCrc)
  flds := hflds.trans (mpStatus_fldsBut (by decide) _ rfl)

theorem AllFailed.words {r : WriteRun} {s : State} {n : Nat} (h : AllFailed s n r) (op addr : Byte) (l : List ((Word32 × Byte) × Nat)) :
    AllFailed s (n + l.length) (r.words op addr l) := by
  induction l generalizing r n with
  | nil => exact h
  | cons e l ih =>
    have hword : r.word op addr e.2 e.1 = r.give r.s stCrc true false := word_failed h.kept.1 h.failed
    have hnext := ih (AllFailed.give h.kept.2 h.miso h.rest h.flds)
    rw [← hword, Nat.add_assoc, Nat.add_comm 1] at hnext
    exact hnext

theorem window_end {w b : Nat} (hw : w = b / 1024 % 4) (hb : b < 4096) (h4 : b % 4 = 0) : ¬ w * 0x400 + 0x3FC < b := by omega

/-- The first word of a frame never runs past its window's end. -/
theorem placeStatus_first (op addr : Byte) : placeStatus op (frameBase op addr) (frameBase op addr) ≠ stEnd := by
  have hbase : frameBase op addr < 4096 := by
    have := addr.isLt
    unfold frameBase
    omega
  unfold placeStatus
  split
  · decide
  next hw =>
  split
  · decide
  next h4 =>
  have hwin : frameWin op = frameBase op addr / 1024 % 4 := by simpa [bitsOf] using hw
  rw [if_neg (window_end hwin hbase (by simpa using h4))]
  decide

/-! ### Frames that CS# cuts short -/

/-- The run of the complete words of a frame that is cut short. -/
def State.shortRun (s : State) (op addr : Byte) (ws : List (Word32 × Byte)) : WriteRun :=
  if frameOp op % 2 = 1 then s.writeWords op addr ws else ⟨s, false, 0, [], true, false⟩

theorem shortRun_spec {s : State} {op addr : Byte} {ws : List (Word32 × Byte)} (hop : ws = [] ∨ frameOp op = 3)
    (hno : ∀ k, k < ws.length → frameBase op addr + 4 * k ≠ 0x33C) :
    (s.shortRun op addr ws).lost = false ∧ (s.shortRun op addr ws).miso.length = ws.length ∧
      (ws = [] → SameButReg s (s.shortRun op addr ws).s ∧ FldsBut [.MP_STAT_BURST_DONE] s (s.shortRun op addr ws).s) := by
  unfold State.shortRun
  split
  · have hlen := (words_miso (r := s.startRun) rfl op addr ws.zipIdx).2
    have hkept : (s.startRun.words op addr ws.zipIdx).lost = false := words_kept rfl hno
    rw [writeWords_eq]
    refine ⟨hkept, (hlen hkept).trans (by rw [List.length_zipIdx]; exact Nat.zero_add _), fun hws => ?_⟩
    subst hws
    exact ⟨rfl, (setFld_fldsBut s (by simp) 0 0).trans (setFld_fldsBut _ (by simp) 0 _)⟩
  next hodd =>
    have hws : ws = [] := hop.resolve_right fun h => hodd (by rw [h])
    subst hws
    exact ⟨rfl, rfl, fun _ => ⟨rfl, .refl _ _⟩⟩

theorem shortWrite_eq {s : State} {op addr : Byte} {ws : List (Word32 × Byte)} (h : (s.shortRun op addr ws).lost = false) :
    s.shortWrite op addr ws = ((s.shortRun op addr ws).s.setFld .MP_STAT_SHORT_FRAME 0 1).endFrame (s.shortRun op addr ws).miso
      (if (s.shortRun op addr ws).miso.isEmpty then [] else writeLine (s.shortRun op addr ws).miso) false := by
  have hcut : s.shortWrite op addr ws = if (s.shortRun op addr ws).lost then (s.shortRun op addr ws).s.endFrame [] [] true
      else ((s.shortRun op addr ws).s.setFld .MP_STAT_SHORT_FRAME 0 1).endFrame (s.shortRun op addr ws).miso
        (if (s.shortRun op addr ws).miso.isEmpty then [] else writeLine (s.shortRun op addr ws).miso) false := rfl
  rw [hcut, h]
  rfl

/-! ### Frames of one word -/

/-- The end of a frame whose words left `r`. -/
def WriteRun.done (r : WriteRun) : State :=
  (r.s.setFld .MP_STAT_BURST_DONE 0 (min r.applied 0xFFFF)).endFrame r.miso (if r.lost then [] else writeLine r.miso) r.ok

theorem writeFrame_one (s : State) (op addr : Byte) (d : Word32) (crc : Byte) :
    s.writeFrame op addr [(d, crc)] = (s.startRun.word op addr 0 (d, crc)).done := rfl

theorem done_spec (r : WriteRun) :
    r.done.miso = r.miso ∧ r.done.misoLine = (if r.lost then [] else writeLine r.miso) ∧ (∀ a, r.done.byte a = r.s.byte a) ∧
      FldsBut [.MP_STAT_BURST_DONE, .MP_ERR_COUNT] r.s r.done ∧ r.done.fld .MP_STAT_BURST_DONE = min r.applied 0xFFFF := by
  obtain ⟨hm, hline, hbyte, -, hflds⟩ := endFrame_spec (r.s.setFld .MP_STAT_BURST_DONE 0 (min r.applied 0xFFFF)) r.miso
    (if r.lost then [] else writeLine r.miso) r.ok
  refine ⟨hm, hline, hbyte, (setFld_fldsBut _ (by simp) 0 _).trans (hflds.mono (by decide)), (hflds _ 0 (by decide)).trans ?_⟩
  rw [setFld_fld_same]
  exact Nat.mod_eq_of_lt (Nat.lt_of_le_of_lt (Nat.min_le_right _ _) (by decide))

/-- A frame without a bad status counts nothing. -/
theorem done_fld_err {r : WriteRun} (h : r.ok = true) (i : Nat) : r.done.fld .MP_ERR_COUNT i = r.s.fld .MP_ERR_COUNT i := by
  unfold WriteRun.done
  rw [h]
  exact setFld_fld_ne _ (by decide) 0 i _

section
variable {s : State} {a i v : Nat}

/-- The port's write of a word, by what R102 allows. -/
theorem mpWrite_refused (hi : s.portInst a = some i) (he : s.expertOk a i = false) :
    ∃ u, (s.setFld .MP_STAT_BURST_DONE 0 0).mpWrite a v 0 = (u, stExpert) ∧ ∀ x, u.byte x = s.byte x := by
  have hi' : (s.setFld .MP_STAT_BURST_DONE 0 0).portInst a = some i := (portInst_congr (fun f i hf => setFld_fld_ne s hf 0 i 0) a).trans hi
  have he' : (s.joined .mp).expertOk a i = false := (expertOk_congr (fun f i hf => joined_fld hf s .mp i) a i).trans he
  have hw : (s.joined .mp).writeReg .mp a i v 0 = ((s.joined .mp).writeRows a i none 0, .expertOff) := by
    unfold State.writeReg
    dsimp only
    rw [if_neg (by simp), if_neg (by simp), if_pos (by simp [he'])]
    simp [State.hwEvent, State.on]
  have hkeep : SameButRows (s.joined .mp) ((s.joined .mp).writeRows a i none 0) := writeRows_sameButRows _
  refine ⟨(s.joined .mp).writeRows a i none 0, ?_, fun x => ?_⟩
  · simp only [State.mpWrite, hi']
    exact congrArg (fun r : State × Took => (r.1, if r.2 = .expertOff then stExpert else stOk)) hw
  · rw [hkeep]
    exact joined_byte s .mp x

theorem mpWrite_taken (hi : s.portInst a = some i) (he : s.expertOk a i = true) :
    ∃ u, (s.setFld .MP_STAT_BURST_DONE 0 0).mpWrite a v 0 = (u, stOk) ∧ u = (s.joined .mp).applyReg a i v 0 := by
  have hi' : (s.setFld .MP_STAT_BURST_DONE 0 0).portInst a = some i := (portInst_congr (fun f i hf => setFld_fld_ne s hf 0 i 0) a).trans hi
  have he' : (s.joined .mp).expertOk a i = true := (expertOk_congr (fun f i hf => joined_fld hf s .mp i) a i).trans he
  have hw : (s.joined .mp).writeReg .mp a i v 0 = ((s.joined .mp).applyReg a i v 0, .ok) := by
    have hmet : (s.joined .mp).metHw a i 0 = 0 := joined_metHw (.inl rfl) a i 0
    unfold State.writeReg
    dsimp only
    rw [if_neg (by simp), if_neg (by simp), if_neg (by simp [he']), hmet]
    generalize (s.joined .mp) = u
    simp [State.hwEvent, State.on]
  refine ⟨(s.joined .mp).applyReg a i v 0, ?_, rfl⟩
  simp only [State.mpWrite, hi']
  exact congrArg (fun r : State × Took => (r.1, if r.2 = .expertOff then stExpert else stOk)) hw

end

/-- A status of a place is none of a CRC or a right. -/
theorem statusFlag_place {st : Nat} (h : st ∈ [stOk, stWindow, stAlign, stEnd]) : statusFlag st = .MP_STAT_FRAME_ERR := by
  revert st
  decide

theorem done_line (r : WriteRun) (h : r.lost = true → r.miso = []) : r.done.miso ≠ [] → r.done.misoLine = writeLine r.done.miso := by
  obtain ⟨hm, hline, -⟩ := done_spec r
  rw [hm, hline]
  cases hl : r.lost with
  | true => exact fun hne => absurd (h hl) hne
  | false => exact fun _ => rfl

/-- A word answered with a bad status, as the frame's only one. -/
theorem done_give {s : State} {u : State} {st : Nat} {failed : Bool} {f : Fld} (hst : st ≠ stOk) (hf : statusFlag st = f) (hw : f.width = 1)
    (hne : f ≠ .MP_STAT_BURST_DONE ∧ f ≠ .MP_ERR_COUNT) :
    (s.startRun.give u st failed false).done.miso = [BitVec.ofNat 8 st] ∧ (s.startRun.give u st failed false).done.flag f = true ∧
      (s.startRun.give u st failed false).done.fld .MP_STAT_BURST_DONE = 0 ∧
      (∀ a, (s.startRun.give u st failed false).done.byte a = u.byte a) ∧
      FldsBut [.MP_STAT_LAST_CODE, f, .MP_STAT_BURST_DONE, .MP_ERR_COUNT] u (s.startRun.give u st failed false).done := by
  obtain ⟨hm, -, hbyte, hflds, hdone⟩ := done_spec (s.startRun.give u st failed false)
  refine ⟨hm, ?_, hdone, fun a => (hbyte a).trans ((mpStatus_sameButReg u st).byte a), ?_⟩
  · show ((s.startRun.give u st failed false).done.fld f 0 != 0) = true
    rw [hflds f 0 (by simp [hne])]
    exact mpStatus_flag hst u hf hw
  · exact ((mpStatus_fldsBut hst u hf).mono (by simp)).trans (hflds.mono (by simp))

end Sys2Proof.Machine

open Sys2Proof Sys2Proof.Machine

/-- Settles O10: the frame is its only word, by what its CRC, its place and R102 say of it. -/
theorem portSingleWrite : Obligations.PortSingleWrite := by
  intro s op addr d crc hrun hport hop
  have hexec : exec (.singleWrite op addr d crc) s = .next (s.running fun s => s.writeFrame op addr [(d, crc)]) :=
    framed_run (decide_eq_true hop) hport _
  refine ⟨_, hexec, ?_⟩
  rw [running_run hrun, writeFrame_one]
  have h0 : frameBase op addr + 4 * 0 = frameBase op addr := by rw [Nat.mul_zero, Nat.add_zero]
  have hstart : FldsBut [.MP_STAT_BURST_DONE] s s.startRun.s := setFld_fldsBut s (by simp) 0 0
  have hplace := placeStatus_mem op (frameBase op addr) (frameBase op addr)
  refine ⟨done_line _ fun h => ((word_miso rfl op addr 0 (d, crc)).1 h).1, fun hc => ?_, fun hc hp => ?_, fun i hc hp hi => ⟨fun he => ?_, fun ha hv => ?_, fun he hr => ?_⟩⟩
  · rw [word_badCrc rfl rfl h0 (placeStatus_first op addr) hc]
    obtain ⟨hm, hflag, hdone, hbyte, hflds⟩ := done_give (s := s) (u := s.startRun.s) (failed := true) (st := stCrc) (f := .MP_STAT_CRC_ERR) (by decide) rfl rfl
      ⟨by decide, by decide⟩
    exact ⟨hm, hflag, hdone, hbyte, fun g j h1 h2 h3 h4 => (hflds g j (by simp [h1, h2, h3, h4])).trans (hstart g j (by simp [h3]))⟩
  · rw [word_badPlace rfl rfl h0 (placeStatus_first op addr) hc hp]
    obtain ⟨hm, hflag, hdone, hbyte, hflds⟩ := done_give (s := s) (u := s.startRun.s) (failed := false) (f := .MP_STAT_FRAME_ERR) hp (statusFlag_place hplace) rfl
      ⟨by decide, by decide⟩
    exact ⟨hm, hflag, hdone, hbyte, fun g j h1 h2 h3 h4 => (hflds g j (by simp [h1, h2, h3, h4])).trans (hstart g j (by simp [h3]))⟩
  · obtain ⟨u, hu, hbyte⟩ := mpWrite_refused (v := d.toNat) hi he
    have hq : s.startRun.s.mpWrite (frameBase op addr) d.toNat 0 = (u, stExpert) := hu
    rw [word_applied rfl rfl h0 hc hp, hq, if_neg (by simp [stExpert, stOk])]
    obtain ⟨hm, hflag, hdone, hb, -⟩ := done_give (s := s) (u := u) (failed := false) (st := stExpert) (f := .MP_STAT_EXPERT_OFF) (by decide) rfl rfl
      ⟨by decide, by decide⟩
    exact ⟨hm, hflag, hdone, fun a => (hb a).trans (hbyte a)⟩
  · have he : s.expertOk (frameBase op addr) i = true := by rw [ha]; simp [State.expertOk, isExpertReg]
    obtain ⟨u, hu, hreset⟩ := mpWrite_taken (v := d.toNat) hi he
    rw [ha, applyReg_chipRst, if_pos hv] at hreset
    have hq : s.startRun.s.mpWrite (frameBase op addr) d.toNat 0 = (u, stOk) := hu
    rw [word_applied rfl rfl h0 hc hp, hq, if_pos (by simp [resetWord, ha, hv])]
    obtain ⟨hm, -, -, hflds, hdone⟩ := done_spec ⟨u, false, 0, [], true, true⟩
    refine ⟨hm, (hflds .TICK_STAT_CHIP_STATE 0 (by decide)).trans ?_, hdone⟩
    rw [hreset]
    exact (chipReset_spec (s.joined .mp)).1
  · obtain ⟨u, hu, happ⟩ := mpWrite_taken (v := d.toNat) hi he
    have hq : s.startRun.s.mpWrite (frameBase op addr) d.toNat 0 = (u, stOk) := hu
    rw [word_applied rfl rfl h0 hc hp, hq, if_neg (by simpa [resetWord] using hr), show ((s.setFld .MP_STAT_BURST_DONE 0 0).writeCycle .mp) = s.joined .mp from rfl, ← happ]
    obtain ⟨hm, -, hbyte, hflds, hdone⟩ := done_spec (s.startRun.give u stOk false (decide (stOk = stOk)))
    have hlast : (s.startRun.give u stOk false (decide (stOk = stOk))).s = u.setFld .MP_STAT_LAST_CODE 0 0 := rfl
    refine ⟨hm, hdone, ?_, fun a => (hbyte a).trans rfl, fun g j h1 h2 => ?_⟩
    · exact (hflds .MP_STAT_LAST_CODE 0 (by decide)).trans (by rw [hlast, setFld_fld_same]; rfl)
    · have hset : (s.startRun.give u stOk false (decide (stOk = stOk))).s.fld g j = u.fld g j := by rw [hlast, setFld_fld_ne _ h1]
      by_cases herr : g = .MP_ERR_COUNT
      · subst herr
        exact (done_fld_err rfl j).trans hset
      · exact (hflds g j (by simp [h2, herr])).trans hset

/-- Settles O11: a failed word fails all that follow it, and every word of a frame that no reset ends appends one status. -/
theorem portBurstWriteAndShortFrame : Obligations.PortBurstWriteAndShortFrame := by
  refine ⟨fun s op addr ws hrun hport hop => ?_, fun s op addr ws hrun hport hop hno => ?_⟩
  · have hexec : exec (.burstWrite op addr ws) s = .next (s.running fun s => s.writeFrame op addr ws) :=
      framed_run (decide_eq_true hop) hport _
    refine ⟨_, hexec, ?_⟩
    rw [running_run hrun, show s.writeFrame op addr ws = (s.startRun.words op addr ws.zipIdx).done from rfl]
    obtain ⟨hlost, hlen⟩ := words_miso (r := s.startRun) rfl op addr ws.zipIdx
    refine ⟨done_line _ fun h => (hlost h).1, fun hno => ?_, fun w rest hws hc => ?_⟩
    · have hkept : (s.startRun.words op addr ws.zipIdx).lost = false := words_kept rfl hno
      exact (congrArg List.length (done_spec _).1).trans ((hlen hkept).trans (by rw [List.length_zipIdx]; exact Nat.zero_add _))
    · subst hws
      have h0 : frameBase op addr + 4 * 0 = frameBase op addr := by rw [Nat.mul_zero, Nat.add_zero]
      have hfirst : s.startRun.word op addr 0 w = s.startRun.give s.startRun.s stCrc true false :=
        word_badCrc rfl rfl h0 (placeStatus_first op addr) hc
      have hone : AllFailed s.startRun.s 1 (s.startRun.word op addr 0 w) := by
        rw [hfirst]
        exact AllFailed.give (n := 0) rfl rfl rfl (.refl _ _)
      have hall := hone.words op addr (rest.zipIdx 1)
      rw [show s.startRun.words op addr (w :: rest).zipIdx = (s.startRun.word op addr 0 w).words op addr (rest.zipIdx 1) from rfl]
      generalize (s.startRun.word op addr 0 w).words op addr (rest.zipIdx 1) = r at hall
      obtain ⟨hm, -, hbyte, hflds, hdone⟩ := done_spec r
      refine ⟨hm.trans ?_, ?_, ?_, fun a => (hbyte a).trans (hall.rest.byte a), fun g j h1 h2 h3 h4 => ?_⟩
      · rw [hall.miso, List.length_zipIdx, List.length_cons, Nat.add_comm]
      · exact hdone.trans (by rw [hall.kept.2]; rfl)
      · show (r.done.fld .MP_STAT_CRC_ERR 0 != 0) = true
        rw [hflds _ 0 (by decide)]
        exact hall.flag
      · exact ((hflds g j (by simp [h3, h4])).trans (hall.flds g j (by simp [h1, h2]))).trans (setFld_fld_ne s h3 0 j 0)
  · have hexec : exec (.shortFrame op addr ws) s = .next (s.running fun s => s.shortWrite op addr ws) :=
      framed_run (by rcases hop with h | h <;> simp [h]) hport _
    refine ⟨_, hexec, ?_⟩
    obtain ⟨hl, hlen, hnil⟩ := shortRun_spec (s := s) hop hno
    rw [running_run hrun, shortWrite_eq hl]
    generalize s.shortRun op addr ws = r at hlen hnil
    obtain ⟨hm, -, hbyte, -, hflds⟩ := endFrame_spec (r.s.setFld .MP_STAT_SHORT_FRAME 0 1) r.miso
      (if r.miso.isEmpty then [] else writeLine r.miso) false
    refine ⟨?_, (congrArg List.length hm).trans hlen, fun hws => ⟨fun a => (hbyte a).trans ((hnil hws).1.byte a), fun g j h1 h2 h3 => ?_⟩⟩
    · refine (congrArg (· != 0) ((hflds .MP_STAT_SHORT_FRAME 0 (by decide)).trans (setFld_fld_same ..)) :)
    · exact (hflds g j (by simp [h3])).trans ((setFld_fld_ne _ h1 0 j 1).trans ((hnil hws).2 g j (by simp [h2])))
end

section
/-! PROOF. The start of the links and of the tray election, the tick lock and its loss (R65, R69, R443, R495, R496, R551 to R553). -/

namespace Sys2Proof.Machine

/-! ### What a part of the chip leaves of registers and memory -/

/-- `s` has the memory of `r`, and its registers but for the fields `fs`. -/
structure Leaves (fs : List Fld) (r s : State) : Prop where
  mem : s.mem = r.mem
  flds : FldsBut fs r s

namespace Leaves

variable {fs : List Fld} {r s t : State}

theorem refl (fs : List Fld) (s : State) : Leaves fs s s := ⟨rfl, .refl fs s⟩

theorem trans (h : Leaves fs r s) (k : Leaves fs s t) : Leaves fs r t := ⟨k.mem.trans h.mem, h.flds.trans k.flds⟩

theorem mono {gs : List Fld} (h : Leaves fs r s) (sub : ∀ f ∈ fs, f ∈ gs) : Leaves gs r s := ⟨h.mem, h.flds.mono sub⟩

theorem byte (h : Leaves fs r s) (a : Nat) : s.byte a = r.byte a := congrArg (mget 0 a) h.mem

/-- A change outside registers and memory. -/
theorem congr (h : Leaves fs r s) (hr : t.reg = s.reg) (hm : t.mem = s.mem) : Leaves fs r t :=
  ⟨hm.trans h.mem, fun f i hf => (congrArg (mget (f.resetVal i) (f.key i)) hr).trans (h.flds f i hf)⟩

theorem setFld {f : Fld} {i v : Nat} (h : Leaves fs r s) (hf : f ∈ fs) : Leaves fs r (s.setFld f i v) :=
  ⟨h.mem, h.flds.trans (setFld_fldsBut s hf i v)⟩

theorem bump {f : Fld} {i n : Nat} (h : Leaves fs r s) (hf : f ∈ fs) : Leaves fs r (s.bump f i n) :=
  ⟨(bump_mem s f i n).trans h.mem, h.flds.trans (bump_fldsBut s hf i n)⟩

theorem on {c : Bool} {g : State → State} (h : Leaves fs r s) (hg : Leaves fs r s → Leaves fs r (g s)) : Leaves fs r (s.on c g) := by
  cases c
  · exact h
  · exact hg h

theorem ite {c : Prop} [Decidable c] (hs : Leaves fs r s) (ht : Leaves fs r t) : Leaves fs r (if c then s else t) := by
  split <;> assumption

theorem forAll {α : Type} {l : List α} {f : α → State → State} (h : Leaves fs r s)
    (hf : ∀ a ∈ l, ∀ u, Leaves fs r u → Leaves fs r (f a u)) : Leaves fs r (forAll l f s) := by
  induction l generalizing s with
  | nil => exact h
  | cons a l ih => exact ih (hf a List.mem_cons_self s h) fun b hb => hf b (List.mem_cons_of_mem a hb)

theorem advance {n : Nat} (h : Leaves fs r s) : Leaves fs r (s.advance n) := h.congr rfl rfl

theorem toCyc {c : Nat} (h : Leaves fs r s) : Leaves fs r (s.toCyc c) := h.advance

theorem sendLink {n : Nat} {f : Frame} (h : Leaves fs r s) : Leaves fs r (s.sendLink n f) := h.congr rfl rfl

theorem sendNode {k : Nat} {a : Option Nat} {f : Frame} (h : Leaves fs r s) : Leaves fs r (s.sendNode k a f) := by
  unfold State.sendNode
  split
  · exact h
  · exact h.sendLink

theorem report {kind code uid arg : Nat} (h : Leaves fs r s) : Leaves fs r (s.report kind code uid arg) := h.sendNode

theorem floodExcept {skip : Option Nat} {ls : List Nat} {f : Frame} (h : Leaves fs r s) : Leaves fs r (s.floodExcept skip ls f) :=
  h.forAll fun _ _ _ k => k.sendLink

theorem ask {f : Asks → Asks} (h : Leaves fs r s) : Leaves fs r (s.ask f) := h.congr rfl rfl

theorem kindleFail {code : Nat} (hf : ∀ f ∈ [Fld.TICK_STAT_KINDLE_FAIL, .TICK_STAT_KINDLE_TICK, .TICK_STAT_CHIP_STATE], f ∈ fs)
    (h : Leaves fs r s) : Leaves fs r (s.kindleFail code) := by
  unfold State.kindleFail
  extract_lets s₁ s₂ _ s₃
  have h₂ : Leaves fs r s₂ := ((h.setFld (hf _ (by decide))).setFld (hf _ (by decide))).setFld (hf _ (by decide))
  have h₃ : Leaves fs r s₃ := h₂.congr rfl rfl
  exact .ite h₃ (.ite h₃.ask h₃.report)

end Leaves

/-! ### FCLK_UP -/

/-- The registers that the start of a link's training writes. -/
def trainFlds : List Fld :=
  [.LINK_STAT_STATE, .LINK_STAT_HOLD_CAUSE, .EQ_NOW_PRE, .EQ_NOW_MAIN, .EQ_NOW_POST, .EQ_NOW_CTLE]

theorem eqNow_mem_trainFlds (k : Nat) : eqNow k ∈ trainFlds := by
  unfold eqNow
  split <;> decide

theorem Leaves.train {fs : List Fld} (hf : ∀ f ∈ trainFlds, f ∈ fs) {r s : State} (h : Leaves fs r s) (n st : Nat) : Leaves fs r (s.train n st) := by
  have h₁ : Leaves fs r ((s.setLk n st).setFld .LINK_STAT_HOLD_CAUSE n 0) := (h.setFld (hf _ (by decide))).setFld (hf _ (by decide))
  exact h₁.forAll fun k _ _ k' => k'.setFld (hf _ (eqNow_mem_trainFlds k))

/-- A field that is not a software trim of an equaliser does not move its preset. -/
theorem setFld_eqEff {f : Fld} (hf : f ∉ [Fld.EQ_UC_PRE, .EQ_UC_MAIN, .EQ_UC_POST, .EQ_UC_CTLE]) (s : State) (i v n k : Nat) :
    (s.setFld f i v).eqEff n k = s.eqEff n k := by
  have hk : eqUc k ∈ [Fld.EQ_UC_PRE, .EQ_UC_MAIN, .EQ_UC_POST, .EQ_UC_CTLE] := by
    unfold eqUc
    split <;> decide
  exact eqEff_congr (s := s) (t := s.setFld f i v) rfl (setFld_fld_ne s (ne_of_mem_of_not_mem hk hf) i n v)

/-- A link whose training begins. -/
def State.toTrain (s : State) (n st : Nat) : State := (s.setLk n st).setFld .LINK_STAT_HOLD_CAUSE n 0

section
variable (s : State) (n st : Nat)

theorem train_eq : s.train n st = (s.toTrain n st).eqStart n := rfl

theorem toTrain_eqEff (m k : Nat) : (s.toTrain n st).eqEff m k = s.eqEff m k := by
  unfold State.toTrain State.setLk
  rw [setFld_eqEff (by decide), setFld_eqEff (by decide)]

theorem toTrain_fld_inst {i : Nat} (h : i % 1024 ≠ n % 1024) (f : Fld) : (s.toTrain n st).fld f i = s.fld f i := by
  have hk (g : Fld) : f.key i ≠ g.key n := fun e => h (Fld.key_inj e).2
  unfold State.toTrain State.setLk
  rw [setFld_fld_other _ (hk _), setFld_fld_other _ (hk _)]

theorem toTrain_lk (hst : st < 8) : (s.toTrain n st).fld .LINK_STAT_STATE n = st := by
  unfold State.toTrain State.setLk
  rw [setFld_fld_ne _ (by decide), setFld_fld_same]
  exact Nat.mod_eq_of_lt hst

theorem train_lk (hst : st < 8) : (s.train n st).fld .LINK_STAT_STATE n = st := by
  rw [train_eq, eqStart_fld_of_ne _ n (fun k => ?_), toTrain_lk _ _ _ hst]
  unfold eqNow
  split <;> decide

theorem train_eqEff (m k : Nat) : (s.train n st).eqEff m k = s.eqEff m k := by
  rw [train_eq, eqStart_eqEff, toTrain_eqEff]

theorem train_eqNow {k : Nat} (hk : k < 4) : (s.train n st).fld (eqNow k) n = s.eqEff n k := by
  rw [train_eq, eqStart_fld_eqNow _ n hk, toTrain_eqEff]

theorem train_fld_inst {i : Nat} (h : i % 1024 ≠ n % 1024) (f : Fld) : (s.train n st).fld f i = s.fld f i := by
  rw [train_eq, eqStart_fld_inst _ h, toTrain_fld_inst _ _ _ h]

end

/-- The links of `p` begin to train. -/
def State.trained (s : State) (p : Nat → Bool) : State := forAll ((upTo 24).filter p) (fun n s => s.train n lkTraining) s

/-- The links that software does not bar train from their presets; the others stay as they are (R496, R509). -/
theorem trained_spec (s : State) (p : Nat → Bool) {n : Nat} (hn : n < 24) :
    (p n = true → (s.trained p).fld .LINK_STAT_STATE n = lkTraining ∧ ∀ k, k < 4 → (s.trained p).fld (eqNow k) n = s.eqEff n k) ∧
      (p n = false → (s.trained p).fld .LINK_STAT_STATE n = s.fld .LINK_STAT_STATE n) := by
  have hother (f : Fld) : ∀ b ∈ (upTo 24).filter p, b ≠ n → ∀ s : State, (s.train b lkTraining).fld f n = s.fld f n := by
    intro b hb hne s
    have : b < 24 := List.mem_range.mp (List.mem_filter.mp hb).1
    exact train_fld_inst s b _ (by omega) f
  refine ⟨fun h => ?_, fun h => ?_⟩
  · have hmem : n ∈ (upTo 24).filter p := List.mem_filter.mpr ⟨List.mem_range.mpr hn, h⟩
    exact ⟨forAll_writes (State.fld · .LINK_STAT_STATE n) (fun _ => lkTraining) hmem (fun n s => s.train n lkTraining)
        (fun s => train_lk s n _ (by decide)) (hother _) (fun _ _ _ => rfl) s, fun k hk =>
      forAll_writes (State.fld · (eqNow k) n) (State.eqEff · n k) hmem (fun n s => s.train n lkTraining)
        (fun s => train_eqNow s n _ hk) (hother _) (fun b _ s => train_eqEff s b _ n k) s⟩
  · refine forAll_keeps (State.fld · .LINK_STAT_STATE n) _ (fun n s => s.train n lkTraining) (fun b hb s => hother _ b hb (fun e => ?_) s) s
    subst e
    exact absurd ((List.mem_filter.mp hb).2.symm.trans h) (by decide)

theorem floodExcept_rest (s : State) (skip : Option Nat) (ls : List Nat) (f : Frame) :
    s.floodExcept skip ls f = { s with links := (s.floodExcept skip ls f).links } := by
  refine forAll_rel (R := fun s t => t = { s with links := t.links }) (fun _ => rfl) (fun h k => ?_) _ _ (fun _ _ _ => rfl) s
  rw [h] at k
  exact k

theorem trained_sameButReg (s : State) (p : Nat → Bool) : SameButReg s (s.trained p) :=
  forAll_rel .refl .trans _ _ (fun n _ s => SameButReg.trans (t := s.toTrain n lkTraining) rfl (eqStart_sameButReg _ n)) s

theorem startLinks_eq {s : State} (hpll : s.flag .CLK_STAT_PLL_ON = true) (hup : s.flag .MP_STAT_FCLK_UP = false) :
    startLinks s = ((s.setFld .MP_STAT_FCLK_UP 0 1).trained fun n => !(s.setFld .MP_STAT_FCLK_UP 0 1).barred n).startElection := by
  unfold startLinks State.trained
  rw [hpll, hup]
  rfl

theorem startElection_spec (s : State) :
    (∀ f i, s.startElection.fld f i = s.fld f i) ∧ s.startElection.mem = s.mem ∧ s.startElection.node.scope = 1 ∧
      s.startElection.node.bestDie = s.fuses.dieId.toNat ∧ s.startElection.node.bestPrio = s.fld .NODE_CFG_ELECT_PRIO := by
  unfold State.startElection
  dsimp only
  rw [floodExcept_rest]
  exact ⟨fun _ _ => rfl, rfl, rfl, rfl, rfl⟩

end Sys2Proof.Machine

open Sys2Proof Sys2Proof.Machine

/-- Settles O24: the links are trained one by one, and the election writes only this node's own candidate and frames. -/
theorem fclkUpStartsLinksAndElection : Obligations.FclkUpStartsLinksAndElection := by
  intro s hrun hpll hup
  refine ⟨_, rfl, ?_⟩
  have hbarred (n : Nat) : (s.setFld .MP_STAT_FCLK_UP 0 1).barred n = s.barred n := by
    simp only [State.barred, State.flag, setFld_fld_ne s (f := .MP_STAT_FCLK_UP) (g := .LINK_CTRL) (by decide),
      setFld_fld_ne s (f := .MP_STAT_FCLK_UP) (g := .LINK_FORCE_FORCE_DOWN) (by decide)]
  rw [running_run hrun, startLinks_eq hpll hup]
  have hrest := trained_sameButReg (s.setFld .MP_STAT_FCLK_UP 0 1) fun n => !(s.setFld .MP_STAT_FCLK_UP 0 1).barred n
  have hlink {n : Nat} (hn : n < 24) := trained_spec (s.setFld .MP_STAT_FCLK_UP 0 1) (fun n => !(s.setFld .MP_STAT_FCLK_UP 0 1).barred n) hn
  have hkeep : Leaves trainFlds (s.setFld .MP_STAT_FCLK_UP 0 1)
      ((s.setFld .MP_STAT_FCLK_UP 0 1).trained fun n => !(s.setFld .MP_STAT_FCLK_UP 0 1).barred n) :=
    (Leaves.refl _ _).forAll fun n _ _ k => k.train (by decide) n lkTraining
  generalize hv : ((s.setFld .MP_STAT_FCLK_UP 0 1).trained fun n => !(s.setFld .MP_STAT_FCLK_UP 0 1).barred n) = v at *
  obtain ⟨hfld, hmem, hscope, hdie, hprio⟩ := startElection_spec v
  refine ⟨?_, fun n hn hb => ⟨?_, fun k hk => ?_⟩, fun n hn hb => ?_, hscope, hdie.trans (by rw [hrest.fuses]; rfl), hprio.trans ?_, fun a => ?_⟩
  · refine (congrArg (· != 0) ((hfld .MP_STAT_FCLK_UP 0).trans ((hkeep.flds _ 0 (by decide)).trans (setFld_fld_same ..))) :)
  · exact (hfld _ n).trans ((hlink hn).1 (by simp [hbarred, hb])).1
  · exact (hfld _ n).trans ((((hlink hn).1 (by simp [hbarred, hb])).2 k hk).trans (setFld_eqEff (by decide) s 0 1 n k))
  · exact (hfld _ n).trans (((hlink hn).2 (by simp [hbarred, hb])).trans (setFld_fld_ne s (by decide) 0 n 1))
  · exact (hkeep.flds _ 0 (by decide)).trans (setFld_fld_ne s (by decide) 0 0 1)
  · exact congrArg (mget 0 a) (hmem.trans hkeep.mem)
end

section
/-! PROOF. The tick lock and its loss, the windows of slack, the damper's refill and the end of kindling (R40, R55, R65, R68, R69, R314,
R443, R552, R553). -/

namespace Sys2Proof.Machine

/-! ### The lock -/

/-- COLD ends with the lock once every link has settled (R65). -/
theorem tryLocked_spec (s : State) :
    s.tryLocked.chip = (if (s.chip = chipCold && s.flag .TICK_STAT_LOCKED && s.flag .ELECT_STAT_ELECT_DONE && (upTo 24).all s.settled) = true
      then chipLocked else s.chip) ∧
      SameButReg s s.tryLocked ∧ FldsBut [.TICK_STAT_CHIP_STATE] s s.tryLocked := by
  unfold State.tryLocked State.on
  split
  · exact ⟨setFld_fld_same s .TICK_STAT_CHIP_STATE 0 chipLocked, rfl, setFld_fldsBut s (by simp) 0 _⟩
  · exact ⟨rfl, rfl, .refl _ s⟩

theorem settled_congr {s t : State} (hl : t.links = s.links)
    (h : ∀ f ∈ [Fld.LINK_STAT_STATE, .LINK_CTRL, .LINK_FORCE_FORCE_DOWN], ∀ i, t.fld f i = s.fld f i) (n : Nat) :
    t.settled n = s.settled n := by
  simp only [State.settled, State.lk, State.barred, State.flag, State.link, hl, h .LINK_STAT_STATE (by decide),
    h .LINK_CTRL (by decide), h .LINK_FORCE_FORCE_DOWN (by decide)]
  rfl

section
variable {s : State} (hchimney : s.isChimney = true)
include hchimney

theorem lockDue_chimney (hl : s.flag .TICK_STAT_LOCKED = false) (he : s.flag .ELECT_STAT_ELECT_DONE = true) : s.lockDue = true := by
  simp [State.lockDue, hl, he, hchimney]

/-- Tick 0 opens on the chimney with its first lock (R552). -/
theorem firstLock_chimney :
    s.firstLock = { s.setFld .TICK_COUNT 0 0 with cyc := 0, tk := { s.tk with firstLock := true } } := if_pos hchimney

/-- The chimney's state once LOCKED is set, with its first tick where this is the first lock. -/
theorem locked_spec (u : State) (hu : u = (s.setFld .TICK_STAT_LOCKED 0 1).on (!s.tk.firstLock) fun s => s.firstLock) :
    u.flag .TICK_STAT_LOCKED = true ∧ (s.tk.firstLock = false → u.now = 0 ∧ u.cyc = 0 ∧ u.tk.firstLock = true) ∧
      Leaves [.TICK_STAT_LOCKED, .TICK_COUNT] s u ∧ u.links = s.links := by
  have hlock : (s.setFld .TICK_STAT_LOCKED 0 1).flag .TICK_STAT_LOCKED = true := congrArg (· != 0) (setFld_fld_same s .TICK_STAT_LOCKED 0 1)
  have hset : Leaves [.TICK_STAT_LOCKED, .TICK_COUNT] s (s.setFld .TICK_STAT_LOCKED 0 1) := (Leaves.refl _ s).setFld (by decide)
  have hc : (s.setFld .TICK_STAT_LOCKED 0 1).isChimney = true := by
    rw [← hchimney]
    exact congrArg (· != 0) (setFld_fld_ne s (f := .TICK_STAT_LOCKED) (g := .TRAY_POS_ROW_CHIMNEY) (by decide) 0 0 1)
  subst hu
  cases hf : s.tk.firstLock with
  | true => exact ⟨hlock, nofun, hset, rfl⟩
  | false =>
    rw [show (s.setFld .TICK_STAT_LOCKED 0 1).on (!false) (fun s => s.firstLock) = (s.setFld .TICK_STAT_LOCKED 0 1).firstLock from rfl,
      firstLock_chimney hc]
    refine ⟨?_, fun _ => ⟨setFld_fld_same (s.setFld .TICK_STAT_LOCKED 0 1) .TICK_COUNT 0 0, rfl, rfl⟩,
      (hset.setFld (f := .TICK_COUNT) (i := 0) (v := 0) (by decide)).congr rfl rfl, rfl⟩
    exact (congrArg (· != 0) (setFld_fld_ne (s.setFld .TICK_STAT_LOCKED 0 1) (f := .TICK_COUNT) (g := .TICK_STAT_LOCKED) (by decide) 0 0 0)).trans hlock

theorem raiseLock_agrees (hl : s.flag .TICK_STAT_LOCKED = false) (he : s.flag .ELECT_STAT_ELECT_DONE = true) (ha : s.sourceAgrees = true) :
    raiseLock s = ((s.setFld .TICK_STAT_LOCKED 0 1).on (!s.tk.firstLock) fun s => s.firstLock).tryLocked := by
  unfold raiseLock
  rw [lockDue_chimney hchimney hl he, ha]
  rfl

theorem raiseLock_disagrees (hl : s.flag .TICK_STAT_LOCKED = false) (he : s.flag .ELECT_STAT_ELECT_DONE = true) (ha : s.sourceAgrees = false) :
    raiseLock s = s.setFld .ELECT_STAT_SRC_CONFLICT 0 1 := by
  unfold raiseLock
  rw [lockDue_chimney hchimney hl he, ha]
  rfl

end

/-! ### Failing to kindle, and losing the lock -/

/-- What a failed kindling writes (R69), and where the chimney learns of it. -/
theorem kindleFail_spec (s : State) {code : Nat} (hcode : code < 16) :
    (s.kindleFail code).fld .TICK_STAT_KINDLE_FAIL = code ∧ (s.kindleFail code).fld .TICK_STAT_KINDLE_TICK = 0 ∧
      (s.kindleFail code).chip = (if s.flag .TICK_STAT_LOCKED then chipLocked else chipCold) ∧
      (code ≠ 4 → s.isChimney = true → (s.kindleFail code).asked.abortReq = true) ∧
      (s.kindleFail code).tk.srcLost = s.tk.srcLost := by
  let u : State := (s.setFld .TICK_STAT_KINDLE_FAIL 0 code).setFld .TICK_STAT_KINDLE_TICK 0 0
  have hlock : u.flag .TICK_STAT_LOCKED = s.flag .TICK_STAT_LOCKED := by
    simp only [u, State.flag, setFld_fld_ne _ (f := .TICK_STAT_KINDLE_TICK) (g := .TICK_STAT_LOCKED) (by decide),
      setFld_fld_ne _ (f := .TICK_STAT_KINDLE_FAIL) (g := .TICK_STAT_LOCKED) (by decide)]
  let v : State := { u.setChip (if u.flag .TICK_STAT_LOCKED then chipLocked else chipCold) with
                     tk := { s.tk with kindleWait := false, kindleNext := false, joinTick := none } }
  have hv : s.kindleFail code = if code = 4 then v else if v.isChimney then v.ask fun a => { a with abortReq := true } else v.report 4 code 0 0 := rfl
  have hchimney : v.isChimney = s.isChimney := by
    refine congrArg (· != 0) ?_
    show (((s.setFld .TICK_STAT_KINDLE_FAIL 0 code).setFld .TICK_STAT_KINDLE_TICK 0 0).setFld .TICK_STAT_CHIP_STATE 0 _).fld .TRAY_POS_ROW_CHIMNEY 0 = _
    rw [setFld_fld_ne _ (by decide), setFld_fld_ne _ (by decide), setFld_fld_ne _ (by decide)]
  have hfail : v.fld .TICK_STAT_KINDLE_FAIL = code := by
    refine (setFld_fld_ne u (by decide) 0 0 _).trans ((setFld_fld_ne _ (by decide) 0 0 0).trans ?_)
    rw [setFld_fld_same]
    exact Nat.mod_eq_of_lt hcode
  have htick : v.fld .TICK_STAT_KINDLE_TICK = 0 := (setFld_fld_ne u (by decide) 0 0 _).trans (setFld_fld_same ..)
  have hchip : v.chip = if s.flag .TICK_STAT_LOCKED then chipLocked else chipCold := by
    refine (setFld_fld_same u .TICK_STAT_CHIP_STATE 0 _).trans ?_
    rw [hlock]
    split <;> rfl
  have hkeep (w : State) (hw : w.reg = v.reg) (hl : w.tk.srcLost = v.tk.srcLost) (hask : code ≠ 4 → s.isChimney = true → w.asked.abortReq = true) :
      w.fld .TICK_STAT_KINDLE_FAIL = code ∧ w.fld .TICK_STAT_KINDLE_TICK = 0 ∧
        w.chip = (if s.flag .TICK_STAT_LOCKED then chipLocked else chipCold) ∧
        (code ≠ 4 → s.isChimney = true → w.asked.abortReq = true) ∧ w.tk.srcLost = s.tk.srcLost := by
    have hf (f : Fld) : w.fld f = v.fld f := congrArg (mget (f.resetVal 0) (f.key 0)) hw
    exact ⟨(hf _).trans hfail, (hf _).trans htick, (hf _).trans hchip, hask, hl⟩
  rw [hv]
  split
  next h => exact hkeep v rfl rfl fun hne => absurd h hne
  next =>
    split
    · refine hkeep _ rfl ?_ fun _ _ => by rw [ask_asked]
      unfold State.ask
      split <;> rfl
    next hno =>
      refine hkeep _ ?_ ?_ fun _ h => absurd (hchimney.trans h) hno
      · rw [report_rest]
      · rw [report_rest]

/-- LOCKED has fallen, and the chip stays in its state. -/
def State.unlocked (s : State) : State :=
  { (s.setFld .TICK_STAT_LOCKED 0 0).setFld .TICK_STAT_SOURCE_LOST 0 1 with tk := { s.tk with srcLost := true, good := 0 } }

theorem lockFalls_eq {s : State} (hl : s.flag .TICK_STAT_LOCKED = true) :
    s.lockFalls = if s.unlocked.chip = chipLocked then s.unlocked.setChip chipCold
      else if s.unlocked.chip = chipKindling then s.unlocked.kindleFail 1 else s.unlocked := by
  unfold State.lockFalls
  rw [hl]
  rfl

theorem unlocked_spec (s : State) :
    s.unlocked.flag .TICK_STAT_LOCKED = false ∧ s.unlocked.flag .TICK_STAT_SOURCE_LOST = true ∧ s.unlocked.chip = s.chip ∧
      s.unlocked.mem = s.mem := by
  refine ⟨?_, ?_, ?_, rfl⟩
  · refine (congrArg (· != 0) ((setFld_fld_ne (s.setFld .TICK_STAT_LOCKED 0 0) (f := .TICK_STAT_SOURCE_LOST) (g := .TICK_STAT_LOCKED)
      (by decide) 0 0 1).trans (setFld_fld_same ..)) :)
  · refine (congrArg (· != 0) (setFld_fld_same (s.setFld .TICK_STAT_LOCKED 0 0) .TICK_STAT_SOURCE_LOST 0 1) :)
  · exact (setFld_fld_ne (s.setFld .TICK_STAT_LOCKED 0 0) (f := .TICK_STAT_SOURCE_LOST) (g := .TICK_STAT_CHIP_STATE) (by decide) 0 0 1).trans
      (setFld_fld_ne s (by decide) 0 0 0)

/-- Where the chip goes that loses its lock (R65, R69). -/
theorem lockFalls_spec {s : State} (hl : s.flag .TICK_STAT_LOCKED = true) :
    Leaves [.TICK_STAT_KINDLE_FAIL, .TICK_STAT_KINDLE_TICK, .TICK_STAT_CHIP_STATE] s.unlocked s.lockFalls ∧ s.lockFalls.tk.srcLost = true ∧
      (s.chip = chipLocked ∨ s.chip = chipKindling → s.lockFalls.chip = chipCold) ∧
      (s.chip = chipKindling → s.lockFalls.fld .TICK_STAT_KINDLE_FAIL = 1) ∧
      (s.chip ≠ chipLocked → s.chip ≠ chipKindling → s.lockFalls.chip = s.chip) := by
  obtain ⟨hlock, -, hchip, -⟩ := unlocked_spec s
  rw [lockFalls_eq hl, hchip]
  split
  next h =>
    refine ⟨(Leaves.refl _ _).setFld (by decide), rfl, fun _ => setFld_fld_same s.unlocked .TICK_STAT_CHIP_STATE 0 chipCold, fun hk => ?_,
      fun hne => absurd h hne⟩
    exact absurd (h.symm.trans hk) (by decide)
  next hne =>
    split
    next h =>
      obtain ⟨hfail, -, hst, -, hlost⟩ := kindleFail_spec s.unlocked (code := 1) (by decide)
      rw [hlock] at hst
      exact ⟨(Leaves.refl _ _).kindleFail fun _ => id, hlost, fun _ => hst, fun _ => hfail, fun _ hk => absurd h hk⟩
    next hne' =>
      exact ⟨.refl _ _, rfl, fun h => absurd h (by simp [hne, hne']), fun h => absurd h hne', fun _ _ => hchip⟩

end Sys2Proof.Machine

open Sys2Proof Sys2Proof.Machine

/-- Settles O25: the lock writes LOCKED and, the first time, the tick's own start; its loss leaves LOCKED or KINDLING behind. -/
theorem tickLockAndItsLoss : Obligations.TickLockAndItsLoss := by
  refine ⟨fun s hrun hc hl he => ⟨fun ha => ⟨_, rfl, ?_⟩, fun ha => ⟨_, rfl, ?_⟩⟩, fun s hrun hl => ⟨_, rfl, ?_⟩⟩
  · rw [running_run hrun, raiseLock_agrees hc hl he ha]
    generalize hu : (s.setFld .TICK_STAT_LOCKED 0 1).on (!s.tk.firstLock) (fun s => s.firstLock) = u
    obtain ⟨hlock, hfirst, hleaves, hlinks⟩ := locked_spec hc u hu.symm
    obtain ⟨hchip, hrest, hflds⟩ := tryLocked_spec u
    have hkeep (f : Fld) (i : Nat) (h1 : f ≠ .TICK_STAT_LOCKED) (h2 : f ≠ .TICK_COUNT) : u.fld f i = s.fld f i :=
      hleaves.flds f i (by simp [h1, h2])
    have hset : u.settled = s.settled := funext fun n => settled_congr hlinks (fun f hf i => by
      refine hkeep f i ?_ ?_ <;> (rintro rfl; revert hf; decide)) n
    refine ⟨?_, fun h => ?_, ?_, fun a => ?_, fun f i h1 h2 h3 => ?_⟩
    · exact (congrArg (· != 0) (hflds .TICK_STAT_LOCKED 0 (by decide))).trans hlock
    · obtain ⟨hnow, hcyc, hfl⟩ := hfirst h
      refine ⟨(hflds .TICK_COUNT 0 (by decide)).trans hnow, ?_, ?_⟩
      · rw [hrest]; exact hcyc
      · rw [hrest]; exact hfl
    · refine hchip.trans ?_
      have hel : u.flag .ELECT_STAT_ELECT_DONE = true := (congrArg (· != 0) (hkeep .ELECT_STAT_ELECT_DONE 0 (by decide) (by decide))).trans he
      have hch : u.chip = s.chip := hkeep .TICK_STAT_CHIP_STATE 0 (by decide) (by decide)
      rw [hlock, hel, hset, hch]
      simp
    · exact (hrest.byte a).trans (hleaves.byte a)
    · exact (hflds f i (by simp [h3])).trans (hkeep f i h1 h2)
  · rw [running_eq hrun] <;> rw [raiseLock_disagrees hc hl he ha]
    · rfl
    · exact hrun
    · rfl
    · rfl
  · rw [running_run hrun]
    obtain ⟨hlock, hsrc, -, hmem⟩ := unlocked_spec s
    obtain ⟨hleaves, hlost, hfall, hfail, hstay⟩ := lockFalls_spec hl
    refine ⟨?_, ?_, hlost, hfall, hfail, hstay, fun a => ?_⟩
    · exact (congrArg (· != 0) (hleaves.flds .TICK_STAT_LOCKED 0 (by decide))).trans hlock
    · exact (congrArg (· != 0) (hleaves.flds .TICK_STAT_SOURCE_LOST 0 (by decide))).trans hsrc
    · exact congrArg (mget 0 a) (hleaves.mem.trans hmem)
end

section
/-! PROOF. The windows of slack, the damper's refill and the end of kindling (R40, R55, R68, R69, R314). -/

namespace Sys2Proof.Machine

/-- A part of the chip that changes nothing. -/
theorem running_self {s : State} (hrun : s.power = .run) {f : State → State} (h : f s = s) : s.running f = s := by
  rw [running_run hrun, h, ← hrun]

/-- What a loop leaves where one of its rounds, which comes once, writes what it read at the start. -/
theorem forAll_once {α β : Type} (g v : State → β) {l : List α} (hl : l.Nodup) {a : α} (ha : a ∈ l) (f : α → State → State)
    (hset : ∀ s, g (f a s) = v s) (hkeep : ∀ b ∈ l, b ≠ a → ∀ s, g (f b s) = g s ∧ v (f b s) = v s) (s : State) :
    g (forAll l f s) = v s := by
  induction l generalizing s with
  | nil => cases ha
  | cons b l ih =>
    obtain ⟨hb, hl⟩ := List.nodup_cons.mp hl
    have hrest : ∀ c ∈ l, c ≠ a → ∀ s, g (f c s) = g s ∧ v (f c s) = v s := fun c hc => hkeep c (List.mem_cons_of_mem b hc)
    show g (forAll l f (f b s)) = v s
    by_cases hba : b = a
    · subst hba
      rw [forAll_keeps g l f (fun c hc u => (hrest c hc (fun e => hb (e ▸ hc)) u).1), hset]
    · rw [ih hl ((List.mem_cons.mp ha).resolve_left (Ne.symm hba)) hrest, (hkeep b List.mem_cons_self hba s).2]

/-! ### Slack -/

/-- Plan `p`'s slack when a window starts (R55). -/
def State.freshSlack (s : State) (p : Nat) : Nat := (s.plan p).bankSlack - b2n (s.flag .TICK_STAT_BANKED && s.planSt p = plRunning)

theorem setSlack_freshSlack (s : State) (q v p : Nat) : (s.setFld .PLAN_STATE_SLACK_LEFT q v).freshSlack p = s.freshSlack p := by
  simp only [State.freshSlack, State.flag, State.planSt, setFld_fld_ne s (f := .PLAN_STATE_SLACK_LEFT) (g := .TICK_STAT_BANKED) (by decide),
    setFld_fld_ne s (f := .PLAN_STATE_SLACK_LEFT) (g := .PLAN_STATE_STATE) (by decide)]
  rfl

theorem slackWindow_eq {s : State} (h : s.now % 256 = 0) :
    s.slackWindow = forAll (s.plansIn isAdmitted) (fun p s => s.setFld .PLAN_STATE_SLACK_LEFT p (s.freshSlack p)) s := by
  unfold State.slackWindow
  rw [h]
  rfl

theorem slackWindow_spec {s : State} (h : s.now % 256 = 0) {p : Nat} (hp : p < 16) :
    (isAdmitted (s.planSt p) = true →
      s.slackWindow.fld .PLAN_STATE_SLACK_LEFT p = s.freshSlack p % 2 ^ Fld.width .PLAN_STATE_SLACK_LEFT) ∧
    (isAdmitted (s.planSt p) = false → s.slackWindow.fld .PLAN_STATE_SLACK_LEFT p = s.fld .PLAN_STATE_SLACK_LEFT p) := by
  have hother : ∀ q ∈ s.plansIn isAdmitted, q ≠ p → ∀ u : State,
      (u.setFld .PLAN_STATE_SLACK_LEFT q (u.freshSlack q)).fld .PLAN_STATE_SLACK_LEFT p = u.fld .PLAN_STATE_SLACK_LEFT p := by
    intro q hq hne u
    have : q < 16 := List.mem_range.mp (List.mem_filter.mp hq).1
    exact setFld_fld_inst u _ (by omega) _
  rw [slackWindow_eq h]
  refine ⟨fun ha => ?_, fun ha => ?_⟩
  · exact forAll_writes (State.fld · .PLAN_STATE_SLACK_LEFT p) (fun s => s.freshSlack p % 2 ^ Fld.width .PLAN_STATE_SLACK_LEFT)
      (List.mem_filter.mpr ⟨List.mem_range.mpr hp, ha⟩) (fun p s => s.setFld .PLAN_STATE_SLACK_LEFT p (s.freshSlack p))
      (fun u => setFld_fld_same ..) hother (fun q _ u => congrArg (· % _) (setSlack_freshSlack u q _ p)) s
  · refine forAll_keeps (State.fld · .PLAN_STATE_SLACK_LEFT p) _ (fun p s => s.setFld .PLAN_STATE_SLACK_LEFT p (s.freshSlack p))
      (fun q hq u => hother q hq (fun e => ?_) u) s
    subst e
    exact absurd ((List.mem_filter.mp hq).2.symm.trans ha) (by decide)

theorem slackWindow_leaves (s : State) : Leaves [.PLAN_STATE_SLACK_LEFT] s s.slackWindow :=
  (Leaves.refl _ s).on fun h => h.forAll fun _ _ _ k => k.setFld (by decide)

/-! ### The damper's refill -/

/-- What bucket `h` of share `r` holds once the budget of slot `sl` has been shared out (R314). -/
def State.refilled (s : State) (sl r h : Nat) : Nat :=
  min (s.fld .DMP_CAP * 1024) (s.credit r h + (s.shareBudget r - s.claimed r sl) * s.nibble .DMP_SHARE0 .DMP_SHARE1 h / 16)

/-- Every bucket takes its part of slot `sl`. -/
def State.fillAll (s : State) (sl : Nat) : State :=
  forAll (upTo 48) (fun i s => s.setCredit (i / 16) (i % 16) (s.refilled sl (i / 16) (i % 16))) s

theorem fillAll_rest (s : State) (sl : Nat) : s.fillAll sl = { s with bucket := (s.fillAll sl).bucket } := by
  refine forAll_rel (R := fun s t => t = { s with bucket := t.bucket }) (fun _ => rfl) (fun h k => ?_) _ _ (fun _ _ _ => rfl) s
  rw [h] at k
  exact k

theorem setCredit_refilled (s : State) {r h r' h' : Nat} (hne : bucketKey r h ≠ bucketKey r' h') (v sl : Nat) :
    (s.setCredit r' h' v).credit r h = s.credit r h ∧ (s.setCredit r' h' v).refilled sl r h = s.refilled sl r h := by
  have hc : (s.setCredit r' h' v).credit r h = s.credit r h := mget_mput_other _ _ hne _ _
  refine ⟨hc, ?_⟩
  unfold State.refilled
  rw [hc]
  rfl

theorem fillAll_credit (s : State) (sl : Nat) {r h : Nat} (hr : r < 3) (hh : h < 16) : (s.fillAll sl).credit r h = s.refilled sl r h := by
  have hi : (16 * r + h) / 16 = r := by omega
  have hm : (16 * r + h) % 16 = h := by omega
  refine forAll_once (State.credit · r h) (State.refilled · sl r h) (a := 16 * r + h) List.nodup_range (List.mem_range.mpr (by omega)) _
    (fun u => ?_) (fun i _ hne u => setCredit_refilled u ?_ _ sl) s
  · simp only [hi, hm]
    exact mget_mput_same ..
  · unfold bucketKey
    omega

/-- The cycle in which the next refill comes. -/
def State.fillCycle (s : State) : Nat := if s.cyc % 64 = 0 && s.fillAt != s.clk + 1 then s.clk else s.slotStart + 64

theorem refill_def (s : State) :
    s.refill = if s.chip < chipWarm || s.tickLen ≤ s.cyc + (s.fillCycle - s.clk) then s
      else { s.toClk s.fillCycle with fillAt := (s.toClk s.fillCycle).clk + 1 }.fillAll ((s.toClk s.fillCycle).cyc / 64) := rfl

/-- The clock moves on to a later cycle of the tick with nothing astir, or stays where it is. -/
theorem toClk_still {s : State} {n : Nat} (h : s.astir = false ∨ n = 0) (hlen : s.cyc + n < s.tickLen) :
    s.toClk (s.clk + n) = { s with clk := s.clk + n, cyc := s.cyc + n } := by
  unfold State.toClk
  by_cases hn : n = 0
  · subst hn
    rw [if_pos (Nat.le_of_eq (Nat.add_zero _))]
    rfl
  · rw [if_neg (by omega), h.resolve_right hn, if_neg (by decide)]
    have hcyc : min (s.cyc + n) (s.tickLen - 1) = s.cyc + n := by omega
    simp only [State.advanceTo, State.advance, Nat.add_sub_cancel_left, hcyc]

/-- The refill of the slot whose first cycle of the tick is `c`. -/
theorem refill_eq {s : State} {c : Nat} (hwarm : chipWarm ≤ s.chip) (hcyc : s.cyc ≤ s.clk) (hlen : c < s.tickLen)
    (hc : c = if s.cyc % 64 = 0 ∧ s.fillAt ≠ s.clk + 1 then s.cyc else s.cyc / 64 * 64 + 64) (hstill : s.astir = false ∨ c = s.cyc) :
    s.refill = { s with clk := s.clk + (c - s.cyc), cyc := c, fillAt := s.clk + (c - s.cyc) + 1 }.fillAll (c / 64) := by
  have hfill : s.fillCycle = s.clk + (c - s.cyc) ∧ s.cyc ≤ c := by
    unfold State.fillCycle State.slotStart
    by_cases h : s.cyc % 64 = 0 ∧ s.fillAt ≠ s.clk + 1
    · rw [if_pos h] at hc
      rw [if_pos (by simpa using h)]
      omega
    · rw [if_neg h] at hc
      rw [if_neg (by simpa using h)]
      omega
  obtain ⟨hfill, hle⟩ := hfill
  have hto : s.toClk s.fillCycle = { s with clk := s.clk + (c - s.cyc), cyc := s.cyc + (c - s.cyc) } := by
    rw [hfill]
    exact toClk_still (hstill.imp_right fun h => by omega) (by omega)
  have hcc : s.cyc + (c - s.cyc) = c := by omega
  rw [hcc] at hto
  rw [refill_def, hto, if_neg]
  rw [hfill]
  simp only [Bool.or_eq_true, decide_eq_true_eq]
  omega

/-- No slot left, or not yet WARM. -/
theorem refill_none {s : State} (h : s.chip < chipWarm ∨ ((s.cyc % 64 ≠ 0 ∨ s.fillAt = s.clk + 1) ∧ s.tickLen ≤ s.cyc / 64 * 64 + 64) ∨
    s.tickLen ≤ s.cyc) : s.refill = s := by
  rw [refill_def, if_pos]
  simp only [Bool.or_eq_true, decide_eq_true_eq]
  rcases h with h | ⟨h, hlen⟩ | h
  · exact .inl h
  · right
    unfold State.fillCycle State.slotStart
    rw [if_neg (by simpa [← Decidable.imp_iff_not_or] using h)]
    omega
  · omega

/-! ### The end of kindling -/

theorem kindled_eq {s : State} (hc : s.chip = chipKindling) (hd : s.tk.kdone = true) :
    kindled s = { s.setChip chipWarm with tk := { s.tk with kdone := false } } := by
  unfold kindled
  rw [hc, hd]
  rfl

end Sys2Proof.Machine

open Sys2Proof Sys2Proof.Machine

/-- Settles O28: slack and buckets are written one plan and one bucket at a time, and kindling's end writes the chip's state. -/
theorem windowsRefillAndKindlingEnd : Obligations.WindowsRefillAndKindlingEnd := by
  refine ⟨⟨fun s hrun hl hnow => ⟨_, rfl, ?_⟩, fun s c hrun => ?_, fun s c hrun hwarm hcyc hlen hc hstill => ⟨_, rfl, ?_⟩, fun s hrun h => ?_⟩,
    fun s hrun hc hd => ⟨_, rfl, ?_⟩, fun s code hrun hc hf => ⟨_, rfl, ?_⟩⟩
  · rw [running_run hrun, hl]
    have hkeep := slackWindow_leaves s
    exact ⟨fun p hp => (slackWindow_spec hnow hp).1, fun p hp => (slackWindow_spec hnow hp).2, hkeep.byte,
      fun f i hne => hkeep.flds f i (by simpa using hne)⟩
  · exact congrArg Host.Outcome.next (running_self hrun rfl)
  · rw [running_run hrun, refill_eq hwarm hcyc hlen hc hstill]
    have hrest := fillAll_rest { s with clk := s.clk + (c - s.cyc), cyc := c, fillAt := s.clk + (c - s.cyc) + 1 } (c / 64)
    have hcredit (r h : Nat) (hr : r < 3) (hh : h < 16) :=
      fillAll_credit { s with clk := s.clk + (c - s.cyc), cyc := c, fillAt := s.clk + (c - s.cyc) + 1 } (c / 64) hr hh
    generalize { s with clk := s.clk + (c - s.cyc), cyc := c, fillAt := s.clk + (c - s.cyc) + 1 }.fillAll (c / 64) = t at hrest hcredit
    rw [hrest] at hcredit ⊢
    exact ⟨rfl, rfl, hcredit, fun _ _ => rfl, fun _ => rfl⟩
  · exact congrArg Host.Outcome.next (running_self hrun (refill_none h))
  · rw [running_run hrun, kindled_eq hc hd]
    exact ⟨setFld_fld_same s .TICK_STAT_CHIP_STATE 0 chipWarm, fun _ => rfl, fun f i hne => setFld_fld_ne s hne 0 i chipWarm⟩
  · have hon : s.on (s.chip = chipKindling && s.kindleFails code.toNat) (fun s => s.kindleFail code.toNat) = s.kindleFail code.toNat := by
      rw [hc, hf]
      rfl
    rw [running_run hrun, hon]
    obtain ⟨hfail, htick, hst, hask, -⟩ := kindleFail_spec s (code := code.toNat) code.isLt
    have hkeep : Leaves [.TICK_STAT_KINDLE_FAIL, .TICK_STAT_KINDLE_TICK, .TICK_STAT_CHIP_STATE] s (s.kindleFail code.toNat) :=
      (Leaves.refl _ s).kindleFail fun _ => id
    exact ⟨hfail, htick, hst, fun hne hch => hask (fun h => hne (BitVec.eq_of_toNat_eq h)) hch, hkeep.byte,
      fun f i h1 h2 h3 => hkeep.flds f i (by simp [h1, h2, h3])⟩
end

section
/-! PROOF. A thermal sample, the fan loop, the tray poll and the equalisers' steps (R499 to R503, R508, R510 to R512, R523). -/

namespace Sys2Proof.Machine

theorem flag_eq {s t : State} {f : Fld} {i : Nat} (h : t.fld f i = s.fld f i) : t.flag f i = s.flag f i := congrArg (· != 0) h

theorem setFld_flag (s : State) (f : Fld) (i : Nat) {v : Nat} (h : v % 2 ^ f.width ≠ 0) : (s.setFld f i v).flag f i = true := by
  rw [State.flag, setFld_fld_same]
  simpa using h

theorem bump_therm (s : State) (f : Fld) (i n : Nat) : (s.bump f i n).therm = s.therm := by
  unfold State.bump
  split <;> rfl

theorem on_therm {s : State} {c : Bool} {g : State → State} (h : (g s).therm = s.therm) : (s.on c g).therm = s.therm := by
  cases c
  · rfl
  · exact h

/-! ### A sample's registers -/

theorem setSigned_spec {f : Fld} (s : State) (v : Int) : Leaves [f] s (s.setSigned f v) ∧ (s.setSigned f v).therm = s.therm ∧
    (s.setSigned f v).fuses = s.fuses ∧ (-512 ≤ v → v < 512 → s.setSigned f v = s.setFld f 0 (v % 1024).toNat) := by
  have hset : Leaves [f] s (s.setFld f 0 (v % 1024).toNat) := (Leaves.refl _ s).setFld (by simp)
  have hfree : Leaves [f] s { s.setFld f 0 (Config.freeNat s.free) with free := s.free + 1 } :=
    ((Leaves.refl _ s).setFld (f := f) (i := 0) (v := Config.freeNat s.free) (by simp)).congr rfl rfl
  unfold State.setSigned
  split
  next h => exact ⟨hset, rfl, rfl, fun _ _ => rfl⟩
  next h => exact ⟨hfree, rfl, rfl, fun h1 h2 => absurd (by simp [h1, h2]) h⟩

/-- A bank request of the thermal loop reaches the chimney's book or leaves as a frame. -/
theorem askBank_spec (s : State) : Leaves [] s s.askBank ∧
    s.askBank.therm = { s.therm with pendingRelief := true } := by
  have h₁ : Leaves [] s { s with therm := { s.therm with pendingRelief := true } } := (Leaves.refl _ s).congr rfl rfl
  unfold State.askBank
  dsimp only
  split
  · refine ⟨h₁.ask, ?_⟩
    unfold State.ask
    split <;> rfl
  · refine ⟨h₁.report, ?_⟩
    rw [report_rest]

theorem safety_spec (s : State) : Leaves [.ALERT_STAT_SAFETY, .SAFETY_COUNT] s s.safety ∧ s.safety.therm = s.therm ∧
    s.safety.flag .ALERT_STAT_SAFETY = true := by
  refine ⟨((Leaves.refl _ s).setFld (by decide)).bump (by decide), bump_therm _ _ _ _, ?_⟩
  exact (flag_eq ((bump_fldsBut (fs := [.SAFETY_COUNT]) _ (by decide) 0 1) .ALERT_STAT_SAFETY 0 (by decide))).trans
    (setFld_flag s .ALERT_STAT_SAFETY 0 (by decide))

/-- The relief request at a sample (R505). -/
theorem relieve_spec (s : State) (model : Int) :
    Leaves [.THERM_STAT_RELIEF, .THERM_STAT_CAPPED, .RELIEF_COUNT] s (s.relieve model) ∧
      (s.relieve model).therm.hotLow = s.therm.hotLow := by
  unfold State.relieve
  extract_lets c1 may gap s₁
  have h₁ : Leaves [.THERM_STAT_RELIEF, .THERM_STAT_CAPPED, .RELIEF_COUNT] s s₁ :=
    ((Leaves.refl _ s).setFld (by decide)).setFld (by decide)
  have ht₁ : s₁.therm.hotLow = s.therm.hotLow := rfl
  clear_value s₁
  have h₂ : Leaves [.THERM_STAT_RELIEF, .THERM_STAT_CAPPED, .RELIEF_COUNT] s { s₁ with therm := { s₁.therm with lastRelief := some s₁.now } } :=
    h₁.congr rfl rfl
  unfold State.on
  split
  · obtain ⟨hl, ht⟩ := askBank_spec (({ s₁ with therm := { s₁.therm with lastRelief := some s₁.now } } : State).bump .RELIEF_COUNT)
    refine ⟨(h₂.bump (by decide)).trans (hl.mono (by simp)), ?_⟩
    rw [ht, bump_therm]
    exact ht₁
  · exact ⟨h₁, ht₁⟩

/-! ### The FAN_MAX# line -/

/-- The registers that a low FAN_MAX# line writes. -/
def fanLineFlds : List Fld := [.ALERT_STAT_SAFETY, .SAFETY_COUNT, .FAN_DUTY, .THERM_STAT_FAN_OVR]

/-- The FAN_MAX# line reads low. -/
def State.lineLow (s : State) : State := { s with therm := { s.therm with fanMaxLow := true } }

/-- The fans of the tray chimney at full speed. -/
def State.fullSpeed (s : State) : State := (s.setFld .FAN_DUTY 0 100).setFld .THERM_STAT_FAN_OVR 0 1

theorem fanLineLow_eq (s : State) :
    s.fanLineLow = if s.flag .TRAY_POS_CHIMNEY then (s.lineLow.on (!s.flag .THERM_STAT_FAN_OVR) fun s => s.safety).fullSpeed else s.lineLow := rfl

theorem fullSpeed_spec (s : State) :
    Leaves fanLineFlds s s.fullSpeed ∧ s.fullSpeed.therm = s.therm ∧ s.fullSpeed.fld .FAN_DUTY = 100 ∧
      s.fullSpeed.flag .THERM_STAT_FAN_OVR = true ∧ s.fullSpeed.flag .ALERT_STAT_SAFETY = s.flag .ALERT_STAT_SAFETY := by
  refine ⟨((Leaves.refl _ s).setFld (by decide)).setFld (by decide), rfl, ?_, setFld_flag _ .THERM_STAT_FAN_OVR 0 (by decide), flag_eq ?_⟩
  · exact (setFld_fld_ne _ (by decide) 0 0 1).trans (setFld_fld_same s .FAN_DUTY 0 100)
  · exact (setFld_fld_ne _ (by decide) 0 0 1).trans (setFld_fld_ne s (by decide) 0 0 100)

theorem fanLineLow_spec (s : State) :
    Leaves fanLineFlds s s.fanLineLow ∧ s.fanLineLow.therm = { s.therm with fanMaxLow := true } ∧
      (s.flag .TRAY_POS_CHIMNEY = true → s.fanLineLow.fld .FAN_DUTY = 100 ∧ s.fanLineLow.flag .THERM_STAT_FAN_OVR = true ∧
        (s.flag .THERM_STAT_FAN_OVR = false → s.fanLineLow.flag .ALERT_STAT_SAFETY = true)) := by
  have hlow : Leaves fanLineFlds s s.lineLow := (Leaves.refl _ s).congr rfl rfl
  rw [fanLineLow_eq]
  cases hc : s.flag .TRAY_POS_CHIMNEY with
  | false => exact ⟨hlow, rfl, nofun⟩
  | true =>
    obtain ⟨hsafe, htherm, halert⟩ := safety_spec s.lineLow
    cases ho : s.flag .THERM_STAT_FAN_OVR with
    | true =>
      obtain ⟨hfull, ht, hduty, hovr, -⟩ := fullSpeed_spec s.lineLow
      exact ⟨hlow.trans hfull, ht, fun _ => ⟨hduty, hovr, nofun⟩⟩
    | false =>
      obtain ⟨hfull, ht, hduty, hovr, hkept⟩ := fullSpeed_spec s.lineLow.safety
      exact ⟨(hlow.trans (hsafe.mono (by decide))).trans hfull, ht.trans htherm, fun _ => ⟨hduty, hovr, fun _ => hkept.trans halert⟩⟩

/-! ### The critical range -/

/-- Whether a sample with TJ_SAFE `safe` is in the critical range (R502). -/
def State.inCritical (s : State) (safe : Int) : Bool := if 380 ≤ safe then true else if safe ≤ 368 then false else s.flag .THERM_STAT_CRIT

/-- CRIT and the chip's own drive of FAN_MAX#. -/
def State.setCritical (s : State) (on_ : Bool) : State :=
  { s.setFld .THERM_STAT_CRIT 0 (b2n on_) with therm := { s.therm with fanMaxDrive := on_ } }

theorem critical_eq (s : State) (safe : Int) :
    s.critical safe = (((s.setCritical (s.inCritical safe)).on (s.inCritical safe) fun s => s.fanLineLow).on
      (s.inCritical safe && ((s.setCritical (s.inCritical safe)).on (s.inCritical safe) fun s => s.fanLineLow).chip = chipWarm)
      fun s => s.safety.askBank) := rfl

theorem setCritical_spec (s : State) (on_ : Bool) :
    Leaves [.THERM_STAT_CRIT] s (s.setCritical on_) ∧ (s.setCritical on_).flag .THERM_STAT_CRIT = on_ := by
  refine ⟨((Leaves.refl _ s).setFld (by decide)).congr rfl rfl, ?_⟩
  have hfld : (s.setCritical on_).fld .THERM_STAT_CRIT = b2n on_ % 2 := setFld_fld_same s .THERM_STAT_CRIT 0 (b2n on_)
  rw [State.flag, hfld]
  cases on_ <;> rfl

/-- What the critical range does beside (R506). -/
theorem alarm_spec (s : State) (c : Bool) :
    Leaves [.ALERT_STAT_SAFETY, .SAFETY_COUNT] s (s.on c fun s => s.safety.askBank) ∧
      (s.on c fun s => s.safety.askBank).therm.hotLow = s.therm.hotLow ∧
      (s.on c fun s => s.safety.askBank).therm.fanMaxDrive = s.therm.fanMaxDrive ∧
      (s.on c fun s => s.safety.askBank).therm.fanMaxLow = s.therm.fanMaxLow ∧
      (s.flag .ALERT_STAT_SAFETY = true → (s.on c fun s => s.safety.askBank).flag .ALERT_STAT_SAFETY = true) := by
  cases c with
  | false => exact ⟨.refl _ s, rfl, rfl, rfl, id⟩
  | true =>
    obtain ⟨hsafe, ht, halert⟩ := safety_spec s
    obtain ⟨hask, hta⟩ := askBank_spec s.safety
    show Leaves _ s s.safety.askBank ∧ s.safety.askBank.therm.hotLow = _ ∧ s.safety.askBank.therm.fanMaxDrive = _ ∧
      s.safety.askBank.therm.fanMaxLow = _ ∧ (_ → s.safety.askBank.flag .ALERT_STAT_SAFETY = true)
    rw [hta, ht]
    exact ⟨hsafe.trans (hask.mono (by simp)), rfl, rfl, rfl, fun _ => (flag_eq (hask.flds _ 0 (by decide))).trans halert⟩

theorem critical_spec (s : State) (safe : Int) :
    Leaves (.THERM_STAT_CRIT :: fanLineFlds) s (s.critical safe) ∧ (s.critical safe).therm.hotLow = s.therm.hotLow ∧
      (380 ≤ safe → (s.critical safe).flag .THERM_STAT_CRIT = true ∧ (s.critical safe).therm.fanMaxDrive = true ∧
        (s.critical safe).therm.fanMaxLow = true ∧
        (s.flag .TRAY_POS_CHIMNEY = true → (s.critical safe).fld .FAN_DUTY = 100 ∧ (s.critical safe).flag .THERM_STAT_FAN_OVR = true ∧
          (s.flag .THERM_STAT_FAN_OVR = false → (s.critical safe).flag .ALERT_STAT_SAFETY = true))) ∧
      (safe ≤ 368 → (s.critical safe).flag .THERM_STAT_CRIT = false ∧ (s.critical safe).therm.fanMaxDrive = false) := by
  obtain ⟨hset, hcrit⟩ := setCritical_spec s (s.inCritical safe)
  have hin : (380 ≤ safe → s.inCritical safe = true) ∧ (safe ≤ 368 → s.inCritical safe = false) := by
    unfold State.inCritical
    exact ⟨fun h => if_pos h, fun h => by rw [if_neg (by omega), if_pos h]⟩
  rw [critical_eq]
  generalize hc : (s.inCritical safe && decide (((s.setCritical (s.inCritical safe)).on (s.inCritical safe) fun s => s.fanLineLow).chip = chipWarm)) = c
  clear hc
  cases hi : s.inCritical safe with
  | false =>
    rw [hi] at hset hcrit hin
    obtain ⟨hal, hhot, hdrive, -, -⟩ := alarm_spec (s.setCritical false) c
    exact ⟨(hset.mono (by decide)).trans (hal.mono (by decide)), hhot, fun h => absurd (hin.1 h) (by decide),
      fun _ => ⟨(flag_eq (hal.flds _ 0 (by decide))).trans hcrit, hdrive⟩⟩
  | true =>
    rw [hi] at hset hcrit hin
    obtain ⟨hline, htherm, hchimney⟩ := fanLineLow_spec (s.setCritical true)
    obtain ⟨hal, hhot, hdrive, hlow, halert⟩ := alarm_spec (s.setCritical true).fanLineLow c
    rw [htherm] at hhot hdrive hlow
    have hpos : (s.setCritical true).flag .TRAY_POS_CHIMNEY = s.flag .TRAY_POS_CHIMNEY := flag_eq (hset.flds _ 0 (by decide))
    have hovr : (s.setCritical true).flag .THERM_STAT_FAN_OVR = s.flag .THERM_STAT_FAN_OVR := flag_eq (hset.flds _ 0 (by decide))
    rw [hpos, hovr] at hchimney
    refine ⟨((hset.mono (by decide)).trans (hline.mono (by decide))).trans (hal.mono (by decide)), hhot,
      fun _ => ⟨?_, hdrive, hlow, fun h => ?_⟩, fun h => absurd (hin.2 h) (by decide)⟩
    · exact (flag_eq (hal.flds _ 0 (by decide))).trans ((flag_eq (hline.flds _ 0 (by decide))).trans hcrit)
    · obtain ⟨hduty, hover, hsafety⟩ := hchimney h
      exact ⟨(hal.flds _ 0 (by decide)).trans hduty, (flag_eq (hal.flds _ 0 (by decide))).trans hover, fun h => halert (hsafety h)⟩

/-! ### A sample -/

/-- The registers that show a sample. -/
def State.sampled (s : State) (rs : List (BitVec 10)) (rise : BitVec 10) : State :=
  (((s.setSigned .TJ_MEAS_MEAS (highest fun k => reading rs k + s.tsEff k)).setSigned .TJ_MEAS_MODEL
    (highest (fun k => reading rs k + s.tsEff k) + signedOf rise.toNat 10)).setSigned .TJ_SAFE (highest fun k => reading rs k + s.tsFx k)).setFld
    .TJ_MEAS_HOT 0 (((upTo 8).find? fun k => reading rs k + s.tsEff k = highest fun k => reading rs k + s.tsEff k).getD 0)

/-- The state in which a sample is taken. -/
def State.atSample (s : State) : State := s.on s.tk.firstLock fun s => s.toCyc (s.tickLen - 2048)

/-- HOT# follows the model (R501). -/
def State.hotLine (s : State) (model : Int) : State :=
  { s with therm := { s.therm with hotLow := 4 * ((s.fld .THERM_CFG_TJ_TARGET : Int) - 5) < model } }

theorem sample_eq (s : State) (rs : List (BitVec 10)) (rise : BitVec 10) :
    s.sample rs rise = (((s.atSample.sampled rs rise).hotLine
      (highest (fun k => reading rs k + s.atSample.tsEff k) + signedOf rise.toNat 10)).relieve
      (highest (fun k => reading rs k + s.atSample.tsEff k) + signedOf rise.toNat 10)).critical
      (highest fun k => reading rs k + s.atSample.tsFx k) := rfl

theorem sampled_spec (s : State) (rs : List (BitVec 10)) (rise : BitVec 10) :
    Leaves [.TJ_MEAS_MEAS, .TJ_MEAS_MODEL, .TJ_SAFE, .TJ_MEAS_HOT] s (s.sampled rs rise) ∧
      (0 ≤ highest (fun k => reading rs k + s.tsEff k) → highest (fun k => reading rs k + s.tsEff k) < 512 →
        ((s.sampled rs rise).fld .TJ_MEAS_MEAS : Int) = highest fun k => reading rs k + s.tsEff k) := by
  unfold State.sampled
  generalize highest (fun k => reading rs k + s.tsEff k) = meas
  obtain ⟨h₁, -, -, hval⟩ := setSigned_spec (f := .TJ_MEAS_MEAS) s meas
  generalize s.setSigned .TJ_MEAS_MEAS meas = s₁ at h₁ hval
  obtain ⟨h₂, -⟩ := setSigned_spec (f := .TJ_MEAS_MODEL) s₁ (meas + signedOf rise.toNat 10)
  generalize s₁.setSigned .TJ_MEAS_MODEL (meas + signedOf rise.toNat 10) = s₂ at h₂
  obtain ⟨h₃, -⟩ := setSigned_spec (f := .TJ_SAFE) s₂ (highest fun k => reading rs k + s.tsFx k)
  generalize s₂.setSigned .TJ_SAFE (highest fun k => reading rs k + s.tsFx k) = s₃ at h₃
  refine ⟨(((h₁.mono (by decide)).trans (h₂.mono (by decide))).trans (h₃.mono (by decide))).setFld (by decide), fun hlo hhi => ?_⟩
  have hm : s₁.fld .TJ_MEAS_MEAS = (meas % 1024).toNat % 1024 := by
    rw [hval (by omega) hhi]
    exact setFld_fld_same s .TJ_MEAS_MEAS 0 _
  rw [setFld_fld_ne _ (by decide), h₃.flds _ 0 (by decide), h₂.flds _ 0 (by decide), hm]
  omega

end Sys2Proof.Machine

open Sys2Proof Sys2Proof.Machine

/-- Settles O29: the sample's registers, the relief request and the critical range each leave alone what the others decide by. -/
theorem thermalSample : Obligations.ThermalSample := by
  intro s rs rise hrun hlen
  refine ⟨_, liveIf_true s _ (decide_eq_true hlen), ?_⟩
  rw [running_run hrun, sample_eq]
  have hat : s.atSample.tsEff = s.tsEff ∧ s.atSample.tsFx = s.tsFx ∧ Leaves [] s s.atSample := by
    unfold State.atSample
    cases s.tk.firstLock with
    | true => exact ⟨rfl, rfl, (Leaves.refl _ s).toCyc⟩
    | false => exact ⟨rfl, rfl, .refl _ s⟩
  obtain ⟨heff, hfx, h₀⟩ := hat
  obtain ⟨h₁, hmeas⟩ := sampled_spec s.atSample rs rise
  rw [heff] at hmeas ⊢
  rw [hfx]
  generalize s.atSample.sampled rs rise = s₁ at h₁ hmeas
  generalize highest (fun k => reading rs k + s.tsEff k) = meas at *
  generalize highest (fun k => reading rs k + s.tsFx k) = safe
  have hhot : (s₁.hotLine (meas + signedOf rise.toNat 10)).therm.hotLow =
      decide (4 * ((s.fld .THERM_CFG_TJ_TARGET : Int) - 5) < meas + signedOf rise.toNat 10) := by
    show decide (4 * ((s₁.fld .THERM_CFG_TJ_TARGET : Int) - 5) < _) = _
    rw [h₁.flds _ 0 (by decide), h₀.flds _ 0 (by decide)]
  have h₂ : Leaves [.TJ_MEAS_MEAS, .TJ_MEAS_MODEL, .TJ_SAFE, .TJ_MEAS_HOT] s₁ (s₁.hotLine (meas + signedOf rise.toNat 10)) :=
    (Leaves.refl _ s₁).congr rfl rfl
  obtain ⟨h₃, hhot₃⟩ := relieve_spec (s₁.hotLine (meas + signedOf rise.toNat 10)) (meas + signedOf rise.toNat 10)
  rw [hhot] at hhot₃
  generalize (s₁.hotLine (meas + signedOf rise.toNat 10)).relieve (meas + signedOf rise.toNat 10) = u at h₃ hhot₃
  have hu {f : Fld} (hf : f ∉ [Fld.TJ_MEAS_MEAS, .TJ_MEAS_MODEL, .TJ_SAFE, .TJ_MEAS_HOT])
      (hf' : f ∉ [Fld.THERM_STAT_RELIEF, .THERM_STAT_CAPPED, .RELIEF_COUNT]) : u.flag f = s.flag f :=
    flag_eq ((h₃.flds f 0 hf').trans ((h₂.flds f 0 hf).trans ((h₁.flds f 0 hf).trans (h₀.flds f 0 (by simp)))))
  obtain ⟨h₄, hhot₄, hover, hunder⟩ := critical_spec u safe
  rw [hu (by decide) (by decide), hu (by decide) (by decide)] at hover
  refine ⟨hover, hunder, hhot₄.trans hhot₃, fun hlo hhi => ?_, fun a => ?_⟩
  · rw [← hmeas hlo hhi]
    exact congrArg _ ((h₄.flds .TJ_MEAS_MEAS 0 (by decide)).trans ((h₃.flds .TJ_MEAS_MEAS 0 (by decide)).trans rfl))
  · exact (h₄.byte a).trans ((h₃.byte a).trans ((h₂.byte a).trans ((h₁.byte a).trans (h₀.byte a))))
end

section
/-! PROOF. The fan loop, the tray poll and the equalisers' steps (R503, R508, R510 to R512, R523). -/

namespace Sys2Proof.Machine

/-- A loop one of whose rounds, which comes once, turns what the others keep into what they keep too. -/
theorem forAll_visit {α : Type} (P Q : State → Prop) {l : List α} (hl : l.Nodup) {a : α} (ha : a ∈ l) (f : α → State → State)
    (hbefore : ∀ b ∈ l, b ≠ a → ∀ s, P s → P (f b s)) (hround : ∀ s, P s → Q (f a s)) (hafter : ∀ b ∈ l, b ≠ a → ∀ s, Q s → Q (f b s))
    {s : State} (h : P s) : Q (forAll l f s) := by
  induction l generalizing s with
  | nil => cases ha
  | cons b l ih =>
    obtain ⟨hb, hl⟩ := List.nodup_cons.mp hl
    show Q (forAll l f (f b s))
    by_cases hba : b = a
    · subst hba
      exact forAll_rel (R := fun s t => Q s → Q t) (fun _ => id) (fun h k q => k (h q)) l f
        (fun c hc u => hafter c (List.mem_cons_of_mem b hc) (fun e => hb (e ▸ hc)) u) _ (hround s h)
    · exact ih hl ((List.mem_cons.mp ha).resolve_left (Ne.symm hba)) (fun c hc => hbefore c (List.mem_cons_of_mem b hc))
        (fun c hc => hafter c (List.mem_cons_of_mem b hc)) (hbefore b List.mem_cons_self hba s h)

/-! ### The fan loop -/

/-- The next duty of the loop (R503). -/
def State.nextDuty (s : State) (other : Bool) : Nat :=
  max (s.fld .THERM_CFG_FAN_MIN) (min (s.fld .THERM_CFG_FAN_CEIL)
    (if s.therm.hotLow || other then s.fld .FAN_DUTY + 1
     else if s.model < 4 * ((s.fld .THERM_CFG_TJ_TARGET : Int) - 10) then s.fld .FAN_DUTY - 1 else s.fld .FAN_DUTY))

theorem fanStep_eq {s : State} (hc : s.flag .TRAY_POS_CHIMNEY = true) (hm : s.therm.fanMaxLow = false) (hf : s.flag .FAN_FORCE_EN = false)
    (hd : s.therm.fanDecline = false) (other : Bool) :
    s.fanStep other = { s.setFld .FAN_DUTY 0 (s.nextDuty other) with therm := { s.therm with fanDecline := false } } := by
  have ho : s.fanOverride = none := by
    unfold State.fanOverride
    rw [hm, hf]
    rfl
  unfold State.fanStep
  dsimp only
  rw [ho, hc, hd]
  rfl

theorem fanStep_other {s : State} (hc : s.flag .TRAY_POS_CHIMNEY = false) (other : Bool) : s.fanStep other = s := by
  unfold State.fanStep
  rw [hc]
  rfl

theorem nextDuty_eq {s : State} (hlo : s.fld .THERM_CFG_FAN_MIN ≤ s.fld .FAN_DUTY) (hhi : s.fld .FAN_DUTY ≤ s.fld .THERM_CFG_FAN_CEIL)
    (other : Bool) : s.nextDuty other =
      if s.therm.hotLow = true ∨ other = true then min (s.fld .THERM_CFG_FAN_CEIL) (s.fld .FAN_DUTY + 1)
      else if s.model < 4 * ((s.fld .THERM_CFG_TJ_TARGET : Int) - 10) then max (s.fld .THERM_CFG_FAN_MIN) (s.fld .FAN_DUTY - 1)
      else s.fld .FAN_DUTY := by
  unfold State.nextDuty
  simp only [Bool.or_eq_true]
  split
  · omega
  · split <;> omega

theorem fanLineHigh_eq {s : State} (hd : s.therm.fanMaxDrive = false) (hl : s.therm.fanMaxLow = true) :
    s.fanLineHigh = { s.setFld .THERM_STAT_FAN_OVR 0 0 with
      therm := { s.therm with fanMaxLow := false, fanDecline := s.flag .THERM_STAT_FAN_OVR } } := by
  unfold State.fanLineHigh
  rw [hd, hl]
  rfl

/-! ### The tray poll -/

/-- The registers that polling rails writes. -/
def railFlds : List Fld := [.RAIL_V, .TRAY_STAT_BUS_ERR, .TRAY_STAT_RAIL_FAULT]

/-- A reading of rail `r` is recorded: its voltage, the count of bad readings in a row, and RAIL_FAULT at the second one. -/
def State.railRead (s : State) (r : Nat) (v : Nat) (n : Nat) : State :=
  ({ s.setFld .RAIL_V r v with tray := { s.tray with railBad := mput 0 r (min n 2) s.tray.railBad } } : State).on (2 ≤ n)
    fun s => s.setFld .TRAY_STAT_RAIL_FAULT 0 1

theorem pollRail_none {s : State} {r : Nat} (h : s.flag .RAIL_MAP_EN r = true) : s.pollRail r none = s.setFld .TRAY_STAT_BUS_ERR 0 1 := by
  unfold State.pollRail
  rw [h]
  rfl

theorem pollRail_some {s : State} {r : Nat} (h : s.flag .RAIL_MAP_EN r = true) (v : BitVec 16) :
    s.pollRail r (some v) = s.railRead r v.toNat
      (if v.toNat < s.fld .RAIL_LIM_LO r || s.fld .RAIL_LIM_HI r < v.toNat then mget 0 r s.tray.railBad + 1 else 0) := by
  unfold State.pollRail
  rw [h]
  rfl

theorem pollRail_off {s : State} {r : Nat} (h : s.flag .RAIL_MAP_EN r = false) (v : Option (BitVec 16)) : s.pollRail r v = s := by
  unfold State.pollRail
  rw [h]
  rfl

theorem railRead_leaves (s : State) (r v n : Nat) : Leaves railFlds s (s.railRead r v n) := by
  have h : Leaves railFlds s { s.setFld .RAIL_V r v with tray := { s.tray with railBad := mput 0 r (min n 2) s.tray.railBad } } :=
    ((Leaves.refl railFlds s).setFld (f := .RAIL_V) (i := r) (v := v) (by decide)).congr rfl rfl
  exact h.on fun h => h.setFld (by decide)

theorem pollRail_leaves (s : State) (r : Nat) (v : Option (BitVec 16)) : Leaves railFlds s (s.pollRail r v) := by
  cases h : s.flag .RAIL_MAP_EN r with
  | false => rw [pollRail_off h]; exact .refl _ s
  | true =>
    cases v with
    | none => rw [pollRail_none h]; exact (Leaves.refl _ s).setFld (by decide)
    | some v => rw [pollRail_some h]; exact railRead_leaves ..

theorem setFld_one_sticky {g : Fld} (hg : g.width = 1) {s : State} (f : Fld) (h : s.flag g = true) : (s.setFld f 0 1).flag g = true := by
  by_cases hf : g = f
  · subst hf
    exact setFld_flag s g 0 (by rw [hg]; decide)
  · exact (flag_eq (setFld_fld_ne s hf 0 0 1)).trans h

/-- What the polls of other rails leave of rail `r`: its reading and its count; a flag that is set stays. -/
structure RailKept (r : Nat) (s t : State) : Prop where
  volts : t.fld .RAIL_V r = s.fld .RAIL_V r
  bad : mget 0 r t.tray.railBad = mget 0 r s.tray.railBad
  fault : s.flag .TRAY_STAT_RAIL_FAULT = true → t.flag .TRAY_STAT_RAIL_FAULT = true
  bus : s.flag .TRAY_STAT_BUS_ERR = true → t.flag .TRAY_STAT_BUS_ERR = true

theorem railRead_kept {r b : Nat} (hb : b < 8) (hr : r < 8) (hne : b ≠ r) (s : State) (v n : Nat) : RailKept r s (s.railRead b v n) := by
  have hinst : (s.setFld .RAIL_V b v).fld .RAIL_V r = s.fld .RAIL_V r := setFld_fld_inst s _ (by omega) v
  have hbad : mget 0 r (mput 0 b (min n 2) s.tray.railBad) = mget 0 r s.tray.railBad := mget_mput_other _ _ (Ne.symm hne) _ _
  have hflag (f : Fld) (hf : f ≠ .RAIL_V) : (s.setFld .RAIL_V b v).flag f = s.flag f := flag_eq (setFld_fld_ne s hf b 0 v)
  unfold State.railRead State.on
  split
  · refine ⟨(setFld_fld_ne _ (by decide) 0 r 1).trans hinst, hbad, fun _ => setFld_flag _ .TRAY_STAT_RAIL_FAULT 0 (by decide), fun h => ?_⟩
    exact setFld_one_sticky rfl .TRAY_STAT_RAIL_FAULT ((hflag _ (by decide)).trans h)
  · exact ⟨hinst, hbad, fun h => (hflag _ (by decide)).trans h, fun h => (hflag _ (by decide)).trans h⟩

theorem pollRail_kept {r b : Nat} (hb : b < 8) (hr : r < 8) (hne : b ≠ r) (s : State) (v : Option (BitVec 16)) : RailKept r s (s.pollRail b v) := by
  cases h : s.flag .RAIL_MAP_EN b with
  | false => rw [pollRail_off h]; exact ⟨rfl, rfl, id, id⟩
  | true =>
    cases v with
    | none =>
      rw [pollRail_none h]
      exact ⟨setFld_fld_ne s (by decide) 0 r 1, rfl, setFld_one_sticky rfl _, setFld_one_sticky rfl _⟩
    | some v => rw [pollRail_some h]; exact railRead_kept hb hr hne ..

theorem railRead_spec (s : State) (r : Nat) {v : Nat} (hv : v < 2 ^ 16) (n : Nat) :
    (s.railRead r v n).fld .RAIL_V r = v ∧ (2 ≤ n → (s.railRead r v n).flag .TRAY_STAT_RAIL_FAULT = true) := by
  have hset : (s.setFld .RAIL_V r v).fld .RAIL_V r = v := (setFld_fld_same ..).trans (Nat.mod_eq_of_lt hv)
  unfold State.railRead State.on
  split
  · exact ⟨(setFld_fld_ne _ (by decide) 0 r 1).trans hset, fun _ => setFld_flag _ .TRAY_STAT_RAIL_FAULT 0 (by decide)⟩
  next h => exact ⟨hset, fun hn => absurd (decide_eq_true hn) h⟩

/-- All rails of a poll. -/
def State.pollRails (s : State) (rails : List (Option (BitVec 16))) : State :=
  forAll (upTo 8) (fun r s => s.pollRail r (rails.getD r none)) s

theorem pollRails_leaves (s : State) (rails : List (Option (BitVec 16))) : Leaves railFlds s (s.pollRails rails) :=
  (Leaves.refl _ s).forAll fun r _ u k => k.trans (pollRail_leaves u r _)

/-- What a rail's own poll reads. -/
structure RailAt (s : State) (r : Nat) (u : State) : Prop where
  en : u.flag .RAIL_MAP_EN r = s.flag .RAIL_MAP_EN r
  lo : u.fld .RAIL_LIM_LO r = s.fld .RAIL_LIM_LO r
  hi : u.fld .RAIL_LIM_HI r = s.fld .RAIL_LIM_HI r
  bad : mget 0 r u.tray.railBad = mget 0 r s.tray.railBad
  volts : u.fld .RAIL_V r = s.fld .RAIL_V r

theorem RailAt.step {s u : State} {r b : Nat} (h : RailAt s r u) (hb : b < 8) (hr : r < 8) (hne : b ≠ r) (v : Option (BitVec 16)) :
    RailAt s r (u.pollRail b v) := by
  have hl := (pollRail_leaves u b v).flds
  have hk := pollRail_kept hb hr hne u v
  exact ⟨(flag_eq (hl _ r (by decide))).trans h.en, (hl _ r (by decide)).trans h.lo, (hl _ r (by decide)).trans h.hi, hk.bad.trans h.bad,
    hk.volts.trans h.volts⟩

section
variable {s : State} {rails : List (Option (BitVec 16))} {r : Nat} (hr : r < 8) (he : s.flag .RAIL_MAP_EN r = true)
include hr he

theorem pollRails_read {v : BitVec 16} (hv : rails.getD r none = some v) :
    (s.pollRails rails).fld .RAIL_V r = v.toNat ∧
      (v.toNat < s.fld .RAIL_LIM_LO r ∨ s.fld .RAIL_LIM_HI r < v.toNat → 1 ≤ mget 0 r s.tray.railBad →
        (s.pollRails rails).flag .TRAY_STAT_RAIL_FAULT = true) := by
  refine forAll_visit (RailAt s r) (fun t => t.fld .RAIL_V r = v.toNat ∧ (v.toNat < s.fld .RAIL_LIM_LO r ∨ s.fld .RAIL_LIM_HI r < v.toNat →
    1 ≤ mget 0 r s.tray.railBad → t.flag .TRAY_STAT_RAIL_FAULT = true)) List.nodup_range (List.mem_range.mpr hr)
    (fun r s => s.pollRail r (rails.getD r none)) (fun b hb hne u h => h.step (List.mem_range.mp hb) hr hne _) (fun u h => ?_)
    (fun b hb hne u h => ?_) (s := s) ⟨rfl, rfl, rfl, rfl, rfl⟩
  · rw [hv, pollRail_some (h.en.trans he), h.lo, h.hi, h.bad]
    have hread := railRead_spec u r v.isLt
    refine ⟨(hread _).1, fun hout hbad => (hread _).2 ?_⟩
    rw [if_pos (by simpa using hout)]
    omega
  · have hk := pollRail_kept (List.mem_range.mp hb) hr hne u (rails.getD b none)
    exact ⟨hk.volts.trans h.1, fun hout hbad => hk.fault (h.2 hout hbad)⟩

theorem pollRails_failed (hv : rails.getD r none = none) :
    (s.pollRails rails).fld .RAIL_V r = s.fld .RAIL_V r ∧ (s.pollRails rails).flag .TRAY_STAT_BUS_ERR = true := by
  refine forAll_visit (RailAt s r) (fun t => t.fld .RAIL_V r = s.fld .RAIL_V r ∧ t.flag .TRAY_STAT_BUS_ERR = true) List.nodup_range
    (List.mem_range.mpr hr) (fun r s => s.pollRail r (rails.getD r none)) (fun b hb hne u h => h.step (List.mem_range.mp hb) hr hne _)
    (fun u h => ?_) (fun b hb hne u h => ?_) (s := s) ⟨rfl, rfl, rfl, rfl, rfl⟩
  · rw [hv, pollRail_none (h.en.trans he)]
    exact ⟨(setFld_fld_ne u (by decide) 0 r 1).trans h.volts, setFld_flag u .TRAY_STAT_BUS_ERR 0 (by decide)⟩
  · have hk := pollRail_kept (List.mem_range.mp hb) hr hne u (rails.getD b none)
    exact ⟨hk.volts.trans h.1, hk.bus h.2⟩

end

/-! ### The rest of a poll -/

/-- `t` differs from `s` in the registers `fs` alone, memory as it is, and BUS_ERR stays set. -/
structure Polled (fs : List Fld) (s t : State) : Prop where
  leaves : Leaves fs s t
  bus : s.flag .TRAY_STAT_BUS_ERR = true → t.flag .TRAY_STAT_BUS_ERR = true

theorem Polled.trans {fs gs hs : List Fld} {s t u : State} (h : Polled fs s t) (k : Polled gs t u) (hf : ∀ f ∈ fs, f ∈ hs) (hg : ∀ g ∈ gs, g ∈ hs) :
    Polled hs s u := ⟨(h.leaves.mono hf).trans (k.leaves.mono hg), fun b => k.bus (h.bus b)⟩

/-- A poll that writes other registers. -/
theorem Polled.of_leaves {fs : List Fld} {s t : State} (h : Leaves fs s t) (hb : .TRAY_STAT_BUS_ERR ∉ fs) : Polled fs s t :=
  ⟨h, fun b => (flag_eq (h.flds _ 0 hb)).trans b⟩

theorem busErr_polled (fs : List Fld) (s : State) : Polled (.TRAY_STAT_BUS_ERR :: fs) s (s.setFld .TRAY_STAT_BUS_ERR 0 1) :=
  ⟨(Leaves.refl _ s).setFld (by simp), fun _ => setFld_flag s .TRAY_STAT_BUS_ERR 0 (by decide)⟩

theorem pollTemp_spec {f : Fld} (hf : f ≠ .TRAY_STAT_BUS_ERR) (hw : f.width = 10) (s : State) (v : Option (BitVec 10)) :
    Polled [.TRAY_STAT_BUS_ERR, f] s (s.pollTemp f v) ∧ (∀ x, v = some x → (s.pollTemp f v).fld f = x.toNat) ∧
      (v = none → (s.pollTemp f v).fld f = s.fld f ∧ (s.pollTemp f v).flag .TRAY_STAT_BUS_ERR = true) := by
  cases v with
  | none => exact ⟨busErr_polled _ s, nofun, fun _ => ⟨setFld_fld_ne s hf 0 0 1, setFld_flag s .TRAY_STAT_BUS_ERR 0 (by decide)⟩⟩
  | some x =>
    refine ⟨⟨(Leaves.refl _ s).setFld (by simp), fun h => (flag_eq (setFld_fld_ne s hf.symm 0 0 _)).trans h⟩, fun y hy => ?_, nofun⟩
    cases hy
    exact (setFld_fld_same s f 0 _).trans (by rw [hw]; exact Nat.mod_eq_of_lt x.isLt)

theorem pollPower_polled (s : State) (v : Option (BitVec 12)) : Polled [.TRAY_STAT_BUS_ERR, .TRAY_P] s (s.pollPower v) := by
  cases v with
  | none => exact busErr_polled _ s
  | some v =>
    have h : Leaves [.TRAY_P] s (s.pollPower (some v)) := by
      obtain ⟨x, k, n, hx⟩ : ∃ x k n, s.pollPower (some v) = { s.setFld .TRAY_P 0 x with tray := k, free := n } := ⟨_, _, _, rfl⟩
      rw [hx]
      exact ((Leaves.refl [.TRAY_P] s).setFld (f := .TRAY_P) (i := 0) (v := x) (by decide)).congr rfl rfl
    exact ⟨h.mono (by decide), (Polled.of_leaves h (by decide)).bus⟩

/-- One tachometer: its count of low readings, and FAN_FAULT at the second one. -/
theorem pollFan_spec (s : State) (f rpm : Nat) : Leaves [.FAN_TACH, .TRAY_STAT_FAN_FAULT] s (s.pollFan f rpm) ∧
    (s.pollFan f rpm).fld .FAN_TACH f = rpm % 2 ^ 16 ∧ ∀ g, g % 1024 ≠ f % 1024 → (s.pollFan f rpm).fld .FAN_TACH g = s.fld .FAN_TACH g := by
  unfold State.pollFan
  extract_lets bad n _ _ s₁
  have h₁ : Leaves [.FAN_TACH, .TRAY_STAT_FAN_FAULT] s s₁ :=
    ((Leaves.refl _ s).setFld (f := .FAN_TACH) (i := f) (v := rpm) (by decide)).congr rfl rfl
  have hon (g : Nat) : (s₁.on (2 ≤ n) fun s => s.setFld .TRAY_STAT_FAN_FAULT 0 1).fld .FAN_TACH g = s₁.fld .FAN_TACH g :=
    on_fld (setFld_fld_ne _ (by decide) 0 g 1)
  exact ⟨h₁.on fun h => h.setFld (by decide), (hon f).trans (setFld_fld_same s .FAN_TACH f rpm),
    fun g hg => (hon g).trans (setFld_fld_inst s _ hg rpm)⟩

/-- All tachometers of a poll. -/
def State.pollFans (s : State) (tachs : List (BitVec 16)) : State := forAll (upTo 4) (fun f s => s.pollFan f (tachs.getD f 0).toNat) s

theorem pollFans_leaves (s : State) (tachs : List (BitVec 16)) : Leaves [.FAN_TACH, .TRAY_STAT_FAN_FAULT] s (s.pollFans tachs) :=
  (Leaves.refl _ s).forAll fun f _ u k => k.trans (pollFan_spec u f _).1

theorem pollFans_tach (s : State) (tachs : List (BitVec 16)) {f : Nat} (hf : f < 4) :
    (s.pollFans tachs).fld .FAN_TACH f = (tachs.getD f 0).toNat := by
  refine forAll_writes (State.fld · .FAN_TACH f) (fun _ => (tachs.getD f 0).toNat) (List.mem_range.mpr hf)
    (fun f s => s.pollFan f (tachs.getD f 0).toNat) (fun u => ?_) (fun b hb hne u => ?_) (fun _ _ _ => rfl) s
  · exact (pollFan_spec u f _).2.1.trans (Nat.mod_eq_of_lt (tachs.getD f 0).isLt)
  · have : b < 4 := List.mem_range.mp hb
    exact (pollFan_spec u b _).2.2 f (by omega)

theorem poll_eq {s : State} (hc : s.flag .TRAY_POS_CHIMNEY = true) (rails : List (Option (BitVec 16))) (i e : Option (BitVec 10))
    (p : Option (BitVec 12)) (tachs : List (BitVec 16)) :
    s.poll rails i e p tachs =
      (((((s.pollRails rails).pollTemp .TRAY_T_INLET_T i).pollTemp .TRAY_T_EXHAUST_T e).pollPower p).pollFans tachs).on
        (decide ((((((s.pollRails rails).pollTemp .TRAY_T_INLET_T i).pollTemp .TRAY_T_EXHAUST_T e).pollPower p).pollFans tachs).fld .TRAY_P_CEIL <
          (((((s.pollRails rails).pollTemp .TRAY_T_INLET_T i).pollTemp .TRAY_T_EXHAUST_T e).pollPower p).pollFans tachs).fld .TRAY_P))
        fun s => s.setFld .TRAY_STAT_P_OVER 0 1 := by
  unfold State.poll
  rw [hc]
  rfl

theorem poll_other {s : State} (hc : s.flag .TRAY_POS_CHIMNEY = false) (rails : List (Option (BitVec 16))) (i e : Option (BitVec 10))
    (p : Option (BitVec 12)) (tachs : List (BitVec 16)) : s.poll rails i e p tachs = s := by
  unfold State.poll
  rw [hc]
  rfl

/-! ### Equalisers -/

/-- The value after a step of the equaliser `k` of link `n`. -/
def State.stepped (s : State) (n k : Nat) (up : Bool) : Nat := if up then s.fld (eqNow k) n + 1 else s.fld (eqNow k) n - 1

/-- What allows a step (R508). -/
def State.mayStep (s : State) (n k : Nat) (up : Bool) : Prop :=
  (up = true ∨ s.fld (eqNow k) n ≠ 0) ∧ s.eqLo n k ≤ s.stepped n k up ∧ s.stepped n k up ≤ s.eqHi n k ∧ mget 0 k (s.link n).eqAt ≤ s.clk

/-- Value `k` of link `n` takes a step to `w`. -/
def State.stepTo (s : State) (n k w : Nat) : State :=
  (s.setFld (eqNow k) n w).setLink n { s.link n with eqAt := mput 0 k (s.clk + 4096) (s.link n).eqAt }

theorem adapt_on (s : State) (n k : Nat) (up : Bool) :
    s.adapt n k up = s.on (s.flag .EQ_CFG_ADAPT_EN n && (up || s.fld (eqNow k) n != 0) && s.eqLo n k ≤ s.stepped n k up &&
      s.stepped n k up ≤ s.eqHi n k && mget 0 k (s.link n).eqAt ≤ s.clk) fun s => s.stepTo n k (s.stepped n k up) := rfl

section
variable {s : State} {n k : Nat} {up : Bool}

theorem adapt_none (h : ¬ s.mayStep n k up) : s.adapt n k up = s := by
  rw [adapt_on]
  refine if_neg fun hc => h ?_
  simp only [Bool.and_eq_true, Bool.or_eq_true, bne_iff_ne, decide_eq_true_eq] at hc
  obtain ⟨⟨⟨⟨-, hup⟩, hlo⟩, hhi⟩, hat⟩ := hc
  exact ⟨hup, hlo, hhi, hat⟩

theorem adapt_step (hen : s.flag .EQ_CFG_ADAPT_EN n = true) (h : s.mayStep n k up) : s.adapt n k up = s.stepTo n k (s.stepped n k up) := by
  obtain ⟨hup, hlo, hhi, hat⟩ := h
  rw [adapt_on]
  refine if_pos ?_
  simp only [Bool.and_eq_true, Bool.or_eq_true, bne_iff_ne, decide_eq_true_eq]
  exact ⟨⟨⟨⟨hen, hup⟩, hlo⟩, hhi⟩, hat⟩

theorem stepTo_spec {w : Nat} (hw : w < 64) :
    (s.stepTo n k w).fld (eqNow k) n = w ∧ mget 0 k ((s.stepTo n k w).link n).eqAt = s.clk + 4096 ∧
      ∀ (f : Fld) (i : Nat), f ≠ eqNow k → (s.stepTo n k w).fld f i = s.fld f i := by
  refine ⟨?_, ?_, fun f i hf => setFld_fld_ne s hf n i w⟩
  · refine (setFld_fld_same s (eqNow k) n w).trans ?_
    rw [eqNow_width]
    exact Nat.mod_eq_of_lt hw
  · have hlink : (s.stepTo n k w).link n = { s.link n with eqAt := mput 0 k (s.clk + 4096) (s.link n).eqAt } :=
      setLink_link_same (s.setFld (eqNow k) n w) n _
    rw [hlink]
    exact mget_mput_same 0 (k : Nat) (s.clk + 4096) (s.link n).eqAt

theorem eqHi_lt (hen : s.flag .EQ_CFG_ADAPT_EN n = true) : s.eqHi n k < 64 := by
  unfold State.eqHi
  rw [hen, if_pos rfl]
  omega

end

end Sys2Proof.Machine

open Sys2Proof Sys2Proof.Machine

/-- Settles O30: the loop writes FAN_DUTY alone, and a poll's steps write each its own registers. -/
theorem fanLoopAndTrayPoll : Obligations.FanLoopAndTrayPoll := by
  refine ⟨⟨fun s other hrun hc hm hf hd hlo hhi hmax => ⟨_, rfl, ?_⟩, fun s other hrun hc => ?_, fun s hrun => ⟨_, rfl, ?_⟩,
    fun s hrun hd hl => ⟨_, rfl, ?_⟩⟩, fun s rails i e p tachs hrun hr ht hc => ⟨_, liveIf_true s _ (by simp [hr, ht]), ?_⟩,
    fun s rails i e p tachs hrun hr ht hc => ?_⟩
  · rw [running_run hrun, fanStep_eq hc hm hf hd]
    have hval := nextDuty_eq hlo hhi other
    have hlt : s.nextDuty other < 128 := by
      unfold State.nextDuty
      omega
    refine ⟨?_, fun _ => rfl, fun f i hne => setFld_fld_ne s hne 0 i (s.nextDuty other)⟩
    rw [← hval]
    exact (setFld_fld_same s .FAN_DUTY 0 (s.nextDuty other)).trans (Nat.mod_eq_of_lt hlt)
  · exact congrArg Host.Outcome.next (running_self hrun (fanStep_other hc other))
  · rw [running_run hrun]
    obtain ⟨-, htherm, hchimney⟩ := fanLineLow_spec s
    refine ⟨?_, fun hc => ?_, fun hc f i => ?_⟩
    · show s.fanLineLow.therm.fanMaxLow = true
      rw [htherm]
    · obtain ⟨hduty, hovr, -⟩ := hchimney hc
      exact ⟨hduty, hovr⟩
    · show s.fanLineLow.fld f i = _
      rw [fanLineLow_eq, hc]
      rfl
  · rw [running_run hrun, fanLineHigh_eq hd hl]
    exact ⟨rfl, congrArg (· != 0) (setFld_fld_same s .THERM_STAT_FAN_OVR 0 0), rfl, fun f i hne => setFld_fld_ne s hne 0 i 0⟩
  · rw [running_run hrun, poll_eq hc]
    have h₁ := pollRails_leaves s rails
    have hread (r : Nat) (v : BitVec 16) (hr : r < 8) (he : s.flag .RAIL_MAP_EN r = true) := pollRails_read (rails := rails) (v := v) hr he
    have hfailed (r : Nat) (hr : r < 8) (he : s.flag .RAIL_MAP_EN r = true) := pollRails_failed (rails := rails) hr he
    generalize s.pollRails rails = s₁ at *
    obtain ⟨h₂, hin, hinNone⟩ := pollTemp_spec (f := .TRAY_T_INLET_T) (by decide) rfl s₁ i
    generalize s₁.pollTemp .TRAY_T_INLET_T i = s₂ at *
    obtain ⟨h₃, hex, -⟩ := pollTemp_spec (f := .TRAY_T_EXHAUST_T) (by decide) rfl s₂ e
    generalize s₂.pollTemp .TRAY_T_EXHAUST_T e = s₃ at *
    have h₄ := pollPower_polled s₃ p
    generalize s₃.pollPower p = s₄ at *
    have h₅ := pollFans_leaves s₄ tachs
    have htach (f : Nat) (hf : f < 4) := pollFans_tach s₄ tachs hf
    generalize s₄.pollFans tachs = s₅ at *
    have h₆ : Leaves [.TRAY_STAT_P_OVER] s₅ (s₅.on (decide (s₅.fld .TRAY_P_CEIL < s₅.fld .TRAY_P)) fun s => s.setFld .TRAY_STAT_P_OVER 0 1) :=
      (Leaves.refl _ s₅).on fun h => h.setFld (by decide)
    have h₄₆ := (h₄.trans (Polled.of_leaves h₅ (by decide)) (hs := [.TRAY_STAT_BUS_ERR, .TRAY_P, .FAN_TACH, .TRAY_STAT_FAN_FAULT])
      (by decide) (by decide)).trans (Polled.of_leaves h₆ (by decide))
      (hs := [.TRAY_STAT_BUS_ERR, .TRAY_P, .FAN_TACH, .TRAY_STAT_FAN_FAULT, .TRAY_STAT_P_OVER]) (by decide) (by decide)
    have h₃₆ := h₃.trans h₄₆ (hs := [.TRAY_STAT_BUS_ERR, .TRAY_P, .FAN_TACH, .TRAY_STAT_FAN_FAULT, .TRAY_STAT_P_OVER, .TRAY_T_EXHAUST_T])
      (by decide) (by decide)
    have h₂₆ := h₂.trans h₃₆
      (hs := [.TRAY_STAT_BUS_ERR, .TRAY_P, .FAN_TACH, .TRAY_STAT_FAN_FAULT, .TRAY_STAT_P_OVER, .TRAY_T_EXHAUST_T, .TRAY_T_INLET_T])
      (by decide) (by decide)
    refine ⟨fun r v hr he hv => ?_, fun r hr he hv => ?_, fun v hv => ?_, fun v hv => ?_, fun hv => ?_, fun f hf => ?_, fun a => ?_⟩
    · obtain ⟨hvolt, hfault⟩ := hread r v hr he hv
      exact ⟨(h₂₆.leaves.flds _ r (by decide)).trans hvolt, fun hout hbad => (flag_eq (h₂₆.leaves.flds _ 0 (by decide))).trans (hfault hout hbad)⟩
    · obtain ⟨hvolt, hbus⟩ := hfailed r hr he hv
      exact ⟨(h₂₆.leaves.flds _ r (by decide)).trans hvolt, h₂₆.bus hbus⟩
    · exact (h₃₆.leaves.flds _ 0 (by decide)).trans (hin v hv)
    · exact (h₄₆.leaves.flds _ 0 (by decide)).trans (hex v hv)
    · obtain ⟨hkept, hbus⟩ := hinNone hv
      exact ⟨(h₃₆.leaves.flds _ 0 (by decide)).trans (hkept.trans (h₁.flds _ 0 (by decide))), h₃₆.bus hbus⟩
    · exact (h₆.flds _ f (by decide)).trans (htach f hf)
    · exact (h₂₆.leaves.byte a).trans (h₁.byte a)
  · rw [show exec (.trayPoll rails i e p tachs) s = .next (s.running fun s => s.poll rails i e p tachs) from
      liveIf_true s _ (by simp [hr, ht]), running_self hrun (poll_other hc ..)]


/-- Settles O31: a step is one write of its value and of its time, where the window and the time allow it. -/
theorem equaliserAdapts : Obligations.EqualiserAdapts := by
  intro s n k hrun hen
  refine ⟨fun hat up => ?_, fun hat hhi hlo => ⟨_, rfl, ?_⟩, fun hat hlo hhi hlt => ⟨_, rfl, ?_⟩, fun hhi => ?_⟩
  · exact congrArg Host.Outcome.next (running_self hrun (adapt_none fun ⟨_, _, _, h⟩ => absurd h (Nat.not_le.mpr hat)))
  · have hlt := eqHi_lt (k := k) hen
    rw [running_run hrun, adapt_step hen (up := true) ⟨.inl rfl, hlo, hhi, hat⟩]
    exact stepTo_spec (Nat.lt_of_le_of_lt hhi hlt)
  · have hstep : s.stepped n k false = s.fld (eqNow k) n - 1 := rfl
    rw [running_run hrun, adapt_step hen (up := false) ⟨.inr (by omega), by omega, by omega, hat⟩, hstep]
    exact stepTo_spec (by omega)
  · exact congrArg Host.Outcome.next (running_self hrun (adapt_none fun ⟨_, _, h, _⟩ => absurd h (Nat.not_le.mpr (Nat.lt_succ_of_le hhi))))
end

section
/-! PROOF. Plan slots: loads and their decision, the plan commands, a miss, and the emptied slot (R47, R48, R50, R52, R58). -/

namespace Sys2Proof.Machine

/-! ### What a plan command's record leaves -/

section
variable {fs : List Fld} {s t : State}

theorem Reported.plans (h : Reported fs s t) : t.plans = s.plans := (congrArg State.plans h.rest :)

theorem Reported.plan (h : Reported fs s t) (p : Nat) : t.plan p = s.plan p := congrArg (fun l => mget ({} : Plan) p l) h.plans

theorem Reported.taken (h : Reported fs s t) : t.taken = s.taken := (congrArg State.taken h.rest :)

theorem Reported.fld (h : Reported fs s t) {f : Fld} (hf : f ∉ fs) (i : Nat) : t.fld f i = s.fld f i := h.regs f i hf

end

theorem planDone_reason (s : State) (x : Ctx) (p status reason res : Nat) :
    (s.planDone x p status reason res).fld .ADMIT_STAT_REASON = reason % 2 ^ Fld.width .ADMIT_STAT_REASON := by
  unfold State.planDone
  rw [(complete_reported ..).fld (by decide)]
  unfold State.admitStat
  rw [setFld_fld_ne _ (by decide), setFld_fld_same]

/-! ### The emptied slot -/

/-- The registers of a plan slot that return to 0 with it. -/
def slotFlds : List Fld := [.PLAN_STATE_STATE, .PLAN_STATE_HEARTH, .PLAN_STATE_CAUSE, .PLAN_STATE_SLACK_LEFT]

/-- The slot with its registers at 0, before the records of the commands that it still had. -/
def State.cleared (s : State) (p : Nat) : State :=
  ((((s.setPlanSt p plEmpty).setFld .PLAN_STATE_HEARTH p 0).setFld .PLAN_STATE_CAUSE p 0).setFld .PLAN_STATE_SLACK_LEFT p 0).setPlan p {}

theorem emptySlot_reported (s : State) (p : Nat) : Reported planFlds (s.cleared p) (s.emptySlot p) := by
  unfold State.emptySlot
  extract_lets pl s₁ s₂ s₃
  have h₃ : Reported planFlds (s.cleared p) s₃ := by
    show Reported planFlds s₂ _
    unfold s₃
    clear_value s₂
    split
    · exact .refl _ _
    · exact planDone_reported ..
  split
  · exact h₃
  · exact .ite h₃ (h₃.trans (planDone_reported ..))

theorem cleared_spec (s : State) (p : Nat) :
    (s.cleared p).planSt p = plEmpty ∧ (s.cleared p).fld .PLAN_STATE_HEARTH p = 0 ∧ (s.cleared p).plan p = {} := by
  have hkeep (u : State) {f : Fld} (h1 : f ≠ .PLAN_STATE_CAUSE) (h2 : f ≠ .PLAN_STATE_SLACK_LEFT) :
      (((u.setFld .PLAN_STATE_CAUSE p 0).setFld .PLAN_STATE_SLACK_LEFT p 0).setPlan p {}).fld f p = u.fld f p :=
    (setFld_fld_ne _ h2 p p 0).trans (setFld_fld_ne u h1 p p 0)
  refine ⟨(hkeep _ (f := .PLAN_STATE_STATE) (by decide) (by decide)).trans ?_,
    (hkeep _ (f := .PLAN_STATE_HEARTH) (by decide) (by decide)).trans ?_, setPlan_plan_same ..⟩
  · rw [setFld_fld_ne _ (by decide)]
    exact setFld_fld_same s .PLAN_STATE_STATE p plEmpty
  · exact setFld_fld_same _ .PLAN_STATE_HEARTH p 0

theorem emptySlot_spec (s : State) (p : Nat) :
    (s.emptySlot p).planSt p = plEmpty ∧ (s.emptySlot p).fld .PLAN_STATE_HEARTH p = 0 ∧ (s.emptySlot p).plan p = {} := by
  have h := emptySlot_reported s p
  obtain ⟨hst, hh, hp⟩ := cleared_spec s p
  exact ⟨(h.fld (by decide) p).trans hst, (h.fld (by decide) p).trans hh, (h.plan p).trans hp⟩

/-! ### Misses -/

/-- The registers that a miss writes. -/
def missFlds : List Fld := [.PLAN_STATE_CAUSE, .MISS_COUNT, .ALERT_STAT_PLAN_MISS]

/-- The registers of a miss, before its ash record. -/
def State.missed (s : State) (p cause : Nat) : State :=
  ((s.setFld .PLAN_STATE_CAUSE p cause).bump .MISS_COUNT).setFld .ALERT_STAT_PLAN_MISS 0 1

theorem missed_reported (s : State) (p cause : Nat) : Reported missFlds s (s.missed p cause) :=
  ((setFld_reported s (by decide) p cause).trans (bump_reported _ (by decide) 0 1)).trans (setFld_reported _ (by decide) 0 1)

theorem missed_spec {s : State} (p cause : Nat) (hcount : s.fld .MISS_COUNT + 1 < 2 ^ 32) :
    (s.missed p cause).fld .PLAN_STATE_CAUSE p = cause % 2 ^ Fld.width .PLAN_STATE_CAUSE ∧
      (s.missed p cause).fld .MISS_COUNT = s.fld .MISS_COUNT + 1 := by
  have hc : (s.setFld .PLAN_STATE_CAUSE p cause).fld .MISS_COUNT = s.fld .MISS_COUNT := setFld_fld_ne s (by decide) p 0 cause
  refine ⟨?_, ?_⟩
  · refine (setFld_fld_ne _ (by decide) 0 p 1).trans ((bump_fldsBut (fs := [.MISS_COUNT]) _ (by decide) 0 1 _ p (by decide)).trans ?_)
    exact setFld_fld_same ..
  · refine (setFld_fld_ne _ (by decide) 0 0 1).trans ((bump_fld_self (i := 0) (n := 1) ?_).trans ?_)
    · rw [hc]
      exact hcount
    · rw [hc]

theorem missed_alert (s : State) (p cause : Nat) : (s.missed p cause).flag .ALERT_STAT_PLAN_MISS = true :=
  setFld_flag _ .ALERT_STAT_PLAN_MISS 0 (by decide)

/-- The ash record of a miss of plan `p`. -/
def State.missAsh (s : State) (p cause : Nat) : AshRec :=
  { cause := 0x30, sub := cause, origin := 4, id := (s.plan p).uid, issue := s.now, fail := s.now }

/-- The plan has missed. -/
def State.markMissed (s : State) (p : Nat) : State := s.setPlan p { s.plan p with missed := true }

theorem recordMiss_eq (s : State) (p cause : Nat) :
    s.recordMiss p cause = ((s.missed p cause).postAsh ((s.missed p cause).planHearth p) ((s.missed p cause).missAsh p cause)).markMissed p := rfl

/-- A miss and its ash record (R58). -/
theorem recordMiss_spec (s : State) (p cause : Nat) :
    ∃ u, Reported reportFlds (s.missed p cause) u ∧ s.recordMiss p cause = u.markMissed p :=
  ⟨_, postAsh_reported .., recordMiss_eq s p cause⟩

/-- All that a miss of plan `p` leaves, on the node that detects it (R58, R59). -/
structure Missed (s : State) (p cause : Nat) (t : State) : Prop where
  flds : FldsBut (missFlds ++ reportFlds) s t
  why : t.fld .PLAN_STATE_CAUSE p = (s.missed p cause).fld .PLAN_STATE_CAUSE p
  count : t.fld .MISS_COUNT = (s.missed p cause).fld .MISS_COUNT
  alert : t.flag .ALERT_STAT_PLAN_MISS = true
  plan : t.plan p = { s.plan p with missed := true }
  rest : t = { s with reg := t.reg, mem := t.mem, hearths := t.hearths, msix := t.msix, free := t.free, latches := t.latches,
                      embers := t.embers, codeClk := t.codeClk, codeOld := t.codeOld, plans := t.plans, tk := t.tk, links := t.links }

/-- A report of it changes links or the chimney's book. -/
theorem Missed.congr {s t u : State} {p cause : Nat} (h : Missed s p cause t) (hu : u = { t with tk := u.tk, links := u.links }) :
    Missed s p cause u := by
  have hfld (f : Fld) (i : Nat) : u.fld f i = t.fld f i := by
    rw [hu]
    rfl
  refine ⟨fun f i hf => (hfld f i).trans (h.flds f i hf), (hfld _ p).trans h.why, (hfld _ 0).trans h.count, (flag_eq (hfld _ 0)).trans h.alert, ?_, ?_⟩
  · rw [hu]
    exact h.plan
  · rw [hu]
    exact (congrArg (fun v : State => { v with tk := u.tk, links := u.links }) h.rest :)

theorem recordMiss_missed (s : State) (p cause : Nat) : Missed s p cause (s.recordMiss p cause) := by
  obtain ⟨u, hu, heq⟩ := recordMiss_spec s p cause
  have hm := missed_reported s p cause
  rw [heq]
  have hfld (f : Fld) (hf : f ∈ missFlds) (i : Nat) : (u.markMissed p).fld f i = (s.missed p cause).fld f i :=
    hu.fld (by revert f; decide) i
  refine ⟨(hm.fldsBut.mono (by decide)).trans (hu.fldsBut.mono (by decide)), hfld _ (by decide) p, hfld _ (by decide) 0,
    (flag_eq (hfld _ (by decide) 0)).trans (missed_alert s p cause), ?_, ?_⟩
  · refine (setPlan_plan_same ..).trans ?_
    rw [hu.plan, hm.plan]
  · have h := hu.rest
    rw [hm.rest] at h
    unfold State.markMissed State.setPlan
    rw [h]

theorem planMiss_eq (s : State) (p cause : Nat) :
    s.planMiss p cause = if (s.recordMiss p cause).isChimney then (s.recordMiss p cause).noteMiss ((s.recordMiss p cause).plan p).uid
      else (s.recordMiss p cause).report 2 cause ((s.recordMiss p cause).plan p).uid 0 := rfl

theorem ask_rest (s : State) (f : Asks → Asks) : s.ask f = { s with tk := (s.ask f).tk } := by
  unfold State.ask
  split <;> rfl

theorem planMiss_spec (s : State) (p cause : Nat) :
    Missed s p cause (s.planMiss p cause) ∧ (s.isChimney = true → (s.plan p).uid ∈ (s.planMiss p cause).asked.misses) := by
  have hr := recordMiss_missed s p cause
  have hch : (s.recordMiss p cause).isChimney = s.isChimney := flag_eq (hr.flds _ 0 (by decide))
  rw [planMiss_eq, hch, hr.plan]
  generalize s.recordMiss p cause = r at hr
  cases hc : s.isChimney with
  | true =>
    refine ⟨hr.congr ?_, fun _ => ?_⟩
    · rw [if_pos rfl, State.noteMiss, ask_rest]
    · rw [if_pos rfl, State.noteMiss, ask_asked]
      exact mem_withOne ..
  | false =>
    refine ⟨hr.congr ?_, nofun⟩
    rw [if_neg (by decide), report_rest]

/-! ### Loads -/

theorem onCmd_eq {s : State} {h cmd : Nat} {r : Taken} (hr : s.takenCmd h cmd = some r) (f : Taken → State → State) :
    s.onCmd h cmd f = f r { s with taken := s.taken.erase r } := by
  unfold State.onCmd
  rw [hr]

/-- The load of a record that PLAN_LOAD takes. -/
def State.loadOf (s : State) (r : Taken) : PendLoad :=
  { ctx := takenCtx r, addr := recNum r.bytes 16 6, gen := recNum r.bytes 9 1, order := s.loadNext, boundaries := 0, takenClk := s.clk }

theorem loadPlan_empty {s : State} {r : Taken} (hp : recNum r.bytes 8 1 < 16) (h : s.planSt (recNum r.bytes 8 1) = plEmpty) :
    loadPlan r s = { ((s.setPlanSt (recNum r.bytes 8 1) plChecking).setFld .PLAN_STATE_HEARTH (recNum r.bytes 8 1) r.hearth).setPlan
      (recNum r.bytes 8 1) { load := some (s.loadOf r) } with loadNext := s.loadNext + 1 } := by
  have hne : (s.plansIn (· = plEmpty)).isEmpty = false := by
    rw [List.isEmpty_eq_false_iff_exists_mem]
    exact ⟨_, List.mem_filter.mpr ⟨List.mem_range.mpr hp, decide_eq_true h⟩⟩
  unfold loadPlan
  dsimp only
  rw [h, hne]
  rfl

/-- A slot held for its hearth. -/
theorem held_spec (s : State) (p : Nat) {h : Nat} (hh : h < 16) {q : Plan} :
    (((s.setPlanSt p plChecking).setFld .PLAN_STATE_HEARTH p h).setPlan p q).planSt p = plChecking ∧
      (((s.setPlanSt p plChecking).setFld .PLAN_STATE_HEARTH p h).setPlan p q).planHearth p = h ∧
      (((s.setPlanSt p plChecking).setFld .PLAN_STATE_HEARTH p h).setPlan p q).plan p = q ∧
      ∀ (f : Fld) (i : Nat), f ≠ .PLAN_STATE_STATE → f ≠ .PLAN_STATE_HEARTH →
        (((s.setPlanSt p plChecking).setFld .PLAN_STATE_HEARTH p h).setPlan p q).fld f i = s.fld f i := by
  refine ⟨?_, ?_, setPlan_plan_same .., fun f i h1 h2 => ?_⟩
  · exact (setFld_fld_ne _ (by decide) p p h).trans (setFld_fld_same s .PLAN_STATE_STATE p plChecking)
  · exact (setFld_fld_same _ .PLAN_STATE_HEARTH p h).trans (Nat.mod_eq_of_lt hh)
  · exact (setFld_fld_ne _ h2 p i h).trans (setFld_fld_ne s h1 p i plChecking)

theorem admitStat_complete (s : State) (p reason res : Nat) (x : Ctx) (e : End) :
    Reported planFlds s ((s.admitStat p reason res).complete x e) ∧
      ((s.admitStat p reason res).complete x e).fld .ADMIT_STAT_REASON = reason % 2 ^ Fld.width .ADMIT_STAT_REASON ∧
      ((s.admitStat p reason res).complete x e).fld .ADMIT_STAT_PLAN_SLOT = p % 2 ^ Fld.width .ADMIT_STAT_PLAN_SLOT := by
  have hset : Reported planFlds s (s.admitStat p reason res) :=
    ((setFld_reported s (by decide) 0 p).trans (setFld_reported _ (by decide) 0 reason)).trans (setFld_reported _ (by decide) 0 res)
  have hc := complete_reported (s.admitStat p reason res) x e
  refine ⟨hset.trans (hc.mono (by decide)), (hc.fld (by decide) 0).trans ?_, (hc.fld (by decide) 0).trans ?_⟩ <;> unfold State.admitStat
  · rw [setFld_fld_ne _ (by decide), setFld_fld_same]
  · rw [setFld_fld_ne _ (by decide), setFld_fld_ne _ (by decide), setFld_fld_same]

theorem loadPlan_busy {s : State} {r : Taken} (h : s.planSt (recNum r.bytes 8 1) ≠ plEmpty) :
    loadPlan r s = (s.admitStat (recNum r.bytes 8 1) 0x0D 0xFF).complete (takenCtx r)
      { status := 0x10, r0 := 4 + recNum r.bytes 8 1 * 2 ^ 16 } := by
  unfold loadPlan
  dsimp only
  rw [if_pos (by simp [h])]

section
variable {s : State} {p : Nat} {l : PendLoad} (hw : s.chip = chipWarm)
include hw

theorem decideLoad_enter {q : Plan} (hv : s.checkImage p (s.planHearth p) l = .enter q) :
    s.decideLoad p l = (((s.setPlan p q).setPlanSt p plAdmitted).setFld .PLAN_STATE_SLACK_LEFT p q.bankSlack).planDone l.ctx p 0 0 0xFF := by
  unfold State.decideLoad
  simp only [hw, hv, if_true]

theorem decideLoad_refuse {reason res : Nat} (hv : s.checkImage p (s.planHearth p) l = .refuse reason res) :
    s.decideLoad p l = (s.emptySlot p).planDone l.ctx p 0x11 reason res := by
  unfold State.decideLoad
  simp only [hw, hv, if_true]

theorem decideLoad_fault {c a n : Nat} (hv : s.checkImage p (s.planHearth p) l = .fault c a n) :
    s.decideLoad p l = (s.emptySlot p).complete l.ctx (.faulted c 0 a n) := by
  unfold State.decideLoad
  simp only [hw, hv, if_true]

end

theorem decideLoad_cold {s : State} (hw : s.chip ≠ chipWarm) (p : Nat) (l : PendLoad) :
    s.decideLoad p l = (s.emptySlot p).planDone l.ctx p 0x11 0x03 0xFF := by
  unfold State.decideLoad
  simp only [hw, if_false]

theorem admitPlan_eq {s : State} {p : Nat} {l : PendLoad} (hl : (s.plan p).load = some l) (ht : s.loadTurn = some p) (hf : s.tk.firstLock = true) :
    admitPlan p s = s.decideLoad p l := by
  unfold admitPlan
  rw [hl]
  dsimp only
  rw [ht, hf, if_neg (by simp)]
  rfl

/-! ### The commands -/

/-- A command that waits for the boundary that its record names. -/
def waitOf (resume : Bool) (r : Taken) : PendCmd := { tick := recNum r.bytes 16 6, resume := resume, ctx := takenCtx r }

theorem startPlan_ok {s : State} {r : Taken} {resume : Bool} (hst : s.planSt (recNum r.bytes 8 1) = if resume then plSuspended else plAdmitted)
    (hp : (s.plan (recNum r.bytes 8 1)).pend = none) (ht : s.now + 2 ≤ recNum r.bytes 16 6) :
    startPlan resume r s = s.setPlan (recNum r.bytes 8 1) { s.plan (recNum r.bytes 8 1) with
      pend := some (waitOf resume r) } := by
  unfold startPlan
  dsimp only
  rw [if_neg (by simp [hst, hp]), if_neg (by omega)]
  rfl

theorem startPlan_late {s : State} {r : Taken} {resume : Bool} (hst : s.planSt (recNum r.bytes 8 1) = if resume then plSuspended else plAdmitted)
    (hp : (s.plan (recNum r.bytes 8 1)).pend = none) (ht : recNum r.bytes 16 6 < s.now + 2) :
    startPlan resume r s = s.planDone (takenCtx r) (recNum r.bytes 8 1) 0x12 0x0B 0xFF := by
  unfold startPlan
  dsimp only
  rw [if_neg (by simp [hst, hp]), if_pos ht]

theorem retirePlan_running {s : State} {r : Taken} (hst : s.planSt (recNum r.bytes 8 1) = plRunning)
    (hp : (s.plan (recNum r.bytes 8 1)).retire = none) (ht : s.now + 2 ≤ recNum r.bytes 16 6) :
    retirePlan r s = s.setPlan (recNum r.bytes 8 1) { s.plan (recNum r.bytes 8 1) with
      retire := some (waitOf false r) } := by
  unfold retirePlan
  dsimp only
  rw [if_neg (by simp [hst, hp, isAdmitted]), if_neg (by simp; omega), if_pos (by simp [hst])]
  rfl

end Sys2Proof.Machine

open Sys2Proof Sys2Proof.Machine

/-- Settles O34: a miss writes its own registers and the chimney's book, and the records of an emptied slot write none of the slot's. -/
theorem planMissAndEmptySlot : Obligations.PlanMissAndEmptySlot := by
  refine ⟨fun s p cause hrun hst hm hcount => ⟨_, rfl, ?_⟩, fun s p hr hret hno => ⟨_, rfl, ?_⟩⟩
  · have hon : s.on (s.planSt p = plRunning && s.missHolds p cause.toNat)
        (fun s => (s.planMiss p cause.toNat).on (cause = 0x09) fun s => s.setFld .XB_STAT_PORT_OVER 0 1) =
        (s.planMiss p cause.toNat).on (cause = 0x09) fun s => s.setFld .XB_STAT_PORT_OVER 0 1 := by
      rw [hst, hm]
      rfl
    rw [running_run hrun, hon]
    obtain ⟨h, hasked⟩ := planMiss_spec s p cause.toNat
    obtain ⟨hwhy, hcnt⟩ := missed_spec (p : Nat) cause.toNat hcount
    generalize s.planMiss p cause.toNat = u at h hasked
    have hkeep (f : Fld) (i : Nat) (hf : f ≠ .XB_STAT_PORT_OVER) :
        (u.on (cause = 0x09) fun s => s.setFld .XB_STAT_PORT_OVER 0 1).fld f i = u.fld f i := on_fld (setFld_fld_ne u hf 0 i 1)
    refine ⟨(hkeep _ p (by decide)).trans (h.why.trans hwhy), (hkeep _ 0 (by decide)).trans (h.count.trans hcnt),
      (flag_eq (hkeep _ 0 (by decide))).trans h.alert, ?_, (hkeep _ p (by decide)).trans ((h.flds _ p (by decide)).trans hst), fun hc => ?_, fun hc => ?_⟩
    · have hplan : (u.on (cause = 0x09) fun s => s.setFld .XB_STAT_PORT_OVER 0 1).plan p = u.plan p := by
        unfold State.on
        split <;> rfl
      exact (congrArg Plan.missed (hplan.trans h.plan) :)
    · rw [hc]
      exact setFld_flag u .XB_STAT_PORT_OVER 0 (v := 1) (by decide)
    · have hask : (u.on (cause = 0x09) fun s => s.setFld .XB_STAT_PORT_OVER 0 1).asked = u.asked := on_asked (setFld_asked (by decide) u 0 1)
      exact hask ▸ hasked hc
  · have hon : s.on ((s.plan p).retiring && !s.itemsOf p) (fun s => s.emptySlot p) = s.emptySlot p := by
      rw [hret, hno]
      rfl
    rw [running_run hr, hon]
    obtain ⟨hst, hh, hp⟩ := emptySlot_spec s p
    exact ⟨hst, hp, hh⟩

/-- Settles O33: each command writes its slot, or only its refusal's record; the image's verdict decides the load. -/
theorem planLoadAndCommands : Obligations.PlanLoadAndCommands := by
  refine ⟨⟨fun s h r hrun hr hp hh => ⟨fun he => ⟨_, { s with taken := s.taken.erase r }.loadOf r, rfl, ?_⟩, fun hne => ⟨_, rfl, ?_⟩⟩,
    fun s p l hrun hl ht hf => ?_⟩, fun s h r hrun hp => ⟨fun hr hst hpend hlate => ⟨_, waitOf false r, rfl, ?_⟩,
      fun hr hst hpend hlate => ⟨_, waitOf true r, rfl, ?_⟩, fun hr hst hret hlate => ⟨_, waitOf false r, rfl, ?_⟩,
      fun hr hst hpend hlate => ⟨_, rfl, ?_⟩⟩⟩
  · rw [running_run hrun, onCmd_eq hr, loadPlan_empty (s := { s with taken := s.taken.erase r }) hp he]
    obtain ⟨hst, hh', hplan, hkeep⟩ := held_spec { s with taken := s.taken.erase r } (recNum r.bytes 8 1) hh
      (q := { load := some ({ s with taken := s.taken.erase r }.loadOf r) })
    exact ⟨rfl, hst, hh', congrArg Plan.load hplan, rfl, rfl, fun _ => rfl, hkeep⟩
  · rw [running_run hrun, onCmd_eq hr, loadPlan_busy (s := { s with taken := s.taken.erase r }) hne]
    obtain ⟨hrep, hreason, hslot⟩ := admitStat_complete { s with taken := s.taken.erase r } (recNum r.bytes 8 1) 0x0D 0xFF (takenCtx r)
      { status := 0x10, r0 := 4 + recNum r.bytes 8 1 * 2 ^ 16 }
    exact ⟨hrep.taken, hrep.fld (by decide) _, hrep.plans, hreason, hslot.trans (Nat.mod_eq_of_lt hp)⟩
  · have hexec : exec (.planAdmit p) s = .next (s.running fun s => s.decideLoad p l) :=
      congrArg Host.Outcome.next (running_congr (admitPlan_eq hl ht hf))
    have hempty (x : Ctx) (reason res : Nat) : ((s.emptySlot p).planDone x p 0x11 reason res).planSt p = plEmpty :=
      ((planDone_reported ..).fld (by decide) _).trans (emptySlot_spec s p).1
    refine ⟨fun q hw hv => ⟨_, hexec, ?_⟩, fun reason res hw hv => ⟨_, hexec, ?_⟩, fun c a n hw hv => ⟨_, hexec, ?_⟩, fun hw => ⟨_, hexec, ?_⟩⟩ <;>
      rw [running_run hrun]
    · rw [decideLoad_enter hw hv]
      let u : State := ((s.setPlan p q).setPlanSt p plAdmitted).setFld .PLAN_STATE_SLACK_LEFT p q.bankSlack
      have hrep : Reported planFlds u (u.planDone l.ctx p 0 0 0xFF) := planDone_reported ..
      refine ⟨(hrep.fld (f := .PLAN_STATE_STATE) (by decide) p).trans ?_, (hrep.plan p).trans (setPlan_plan_same s p q),
        (hrep.fld (f := .PLAN_STATE_SLACK_LEFT) (by decide) p).trans (setFld_fld_same ..), planDone_reason ..⟩
      exact (setFld_fld_ne _ (by decide) p p q.bankSlack).trans (setFld_fld_same (s.setPlan p q) .PLAN_STATE_STATE p plAdmitted)
    · rw [decideLoad_refuse hw hv]
      exact ⟨hempty .., planDone_reason ..⟩
    · rw [decideLoad_fault hw hv]
      exact ((complete_reported ..).fld (by decide) _).trans (emptySlot_spec s p).1
    · rw [decideLoad_cold hw]
      exact ⟨hempty .., planDone_reason ..⟩
  · rw [running_run hrun, onCmd_eq hr, startPlan_ok (s := { s with taken := s.taken.erase r }) (resume := false) hst hpend hlate]
    exact ⟨rfl, congrArg Plan.pend (setPlan_plan_same ..), rfl, rfl, fun _ _ => rfl, fun _ => rfl⟩
  · rw [running_run hrun, onCmd_eq hr, startPlan_ok (s := { s with taken := s.taken.erase r }) (resume := true) hst hpend hlate]
    exact ⟨rfl, congrArg Plan.pend (setPlan_plan_same ..), rfl, rfl, fun _ _ => rfl, fun _ => rfl⟩
  · rw [running_run hrun, onCmd_eq hr, retirePlan_running (s := { s with taken := s.taken.erase r }) hst hret hlate]
    exact ⟨rfl, congrArg Plan.retire (setPlan_plan_same ..), rfl, fun _ _ => rfl, fun _ => rfl⟩
  · rw [running_run hrun, onCmd_eq hr, startPlan_late (s := { s with taken := s.taken.erase r }) (resume := false) hst hpend hlate]
    have hrep := planDone_reported { s with taken := s.taken.erase r } (takenCtx r) (recNum r.bytes 8 1) 0x12 0x0B 0xFF
    exact ⟨hrep.plans, planDone_reason ..⟩
end

section
/-! PROOF. Work that is discarded, by a forced power-down or a hearth reset: it leaves no record, instruction or ember that was not there
before (R487, R514, R515). -/

namespace Sys2Proof.Machine

/-! ### What discarding keeps -/

@[simp] theorem bump_hearths (s : State) (f : Fld) (i n : Nat) : (s.bump f i n).hearths = s.hearths := by
  unfold State.bump
  split <;> rfl

/-- Bytes that become visible are no concern of the hearths' books. -/
theorem show_hearths (s : State) (a : Nat) (bs : List Byte) : (s.show a bs).hearths = s.hearths := by
  have hkeep (u : State) (n : Nat) : (u.keepCode a n).hearths = u.hearths := by
    unfold State.keepCode
    split <;> rfl
  have hlatch (u : State) (n : Nat) : (u.unlatch a n).hearths = u.hearths := by
    unfold State.unlatch
    split <;> rfl
  have hfetch (u : State) (n : Nat) : (u.refetch a n).hearths = u.hearths := by
    unfold State.refetch
    split
    · rfl
    · exact forAll_keeps State.hearths _ _ (fun _ _ _ => by simp) u
  unfold State.show
  split
  · rfl
  · rw [hfetch, hlatch]
    exact hkeep s _

/-! ### Records leave the instruction queues alone -/

/-- The hearths' instruction queues are as they were. -/
structure SameIq (s t : State) : Prop where
  iq : ∀ q, (t.hearth q).iq = (s.hearth q).iq

namespace SameIq

variable {s t u : State}

theorem refl (s : State) : SameIq s s := ⟨fun _ => rfl⟩
theorem trans (h : SameIq s t) (k : SameIq t u) : SameIq s u := ⟨fun q => (k.iq q).trans (h.iq q)⟩

theorem congr (h : t.hearths = s.hearths) : SameIq s t := ⟨fun q => congrArg Hearth.iq (congrArg (mget ({} : Hearth) q) h)⟩

theorem on {c : Bool} {g : State → State} (h : SameIq s (g s)) : SameIq s (s.on c g) := by
  cases c
  · exact .refl s
  · exact h

theorem ite {c : Prop} [Decidable c] (ht : SameIq s t) (hu : SameIq s u) : SameIq s (if c then t else u) := by
  split <;> assumption

theorem setHearth {q : Nat} {v : Hearth} (hv : v.iq = (s.hearth q).iq) : SameIq s (s.setHearth q v) := by
  refine ⟨fun k => ?_⟩
  by_cases hk : k = q
  · subst hk
    rw [setHearth_hearth_same, hv]
  · rw [setHearth_hearth_other s hk]

theorem fireHearth (s : State) (t vec : Nat) : SameIq s (s.fireHearth t vec) := .congr (by
  unfold State.fireHearth State.on
  split <;> rfl)

theorem countSeal (s : State) (c : Nat) : SameIq s (s.countSeal c) := .on (.congr (bump_hearths ..))

theorem putAsh (s : State) (t : Nat) (r : AshRec) : SameIq s (s.putAsh t r) := by
  unfold State.putAsh
  refine .ite ((countSeal s _).trans (.congr (bump_hearths ..))) (.trans ?_ (.on (fireHearth _ t 1)))
  exact .congr (show_hearths ..)

theorem postAsh (s : State) (t : Nat) (r : AshRec) : SameIq s (s.postAsh t r) := by
  unfold State.postAsh
  refine .ite (.refl s) (.ite (setHearth rfl) (.ite (putAsh s t r) ?_))
  exact (congr (t := (s.bump .ASH_DROPPED t).setFld .HEARTH_STAT_AQ_OVER t 1) (bump_hearths ..)).trans (.on (putAsh ..))

theorem putCq (s : State) (t : Nat) (r : CqRec) : SameIq s (s.putCq t r) := by
  unfold State.putCq
  refine .ite ((countSeal s _).trans (.congr (bump_hearths ..))) (.trans ?_ (.on (fireHearth _ t 0)))
  exact .congr (show_hearths ..)

theorem postCq (s : State) (t : Nat) (r : CqRec) : SameIq s (s.postCq t r) := by
  unfold State.postCq
  extract_lets s₁ s₂ h
  have h₁ : SameIq s s₁ := .on (.congr (bump_hearths ..))
  have h₂ : SameIq s₁ s₂ := .on (.congr (bump_hearths ..))
  exact (h₁.trans h₂).trans (.ite (putCq _ t r) (.ite (.congr (bump_hearths ..)) (setHearth rfl)))

theorem complete (s : State) (x : Ctx) (e : End) : SameIq s (s.complete x e) := by
  unfold State.complete State.completeLate
  exact .trans (.on (postAsh s _ _)) (.on (postCq _ _ _))

theorem planDone (s : State) (x : Ctx) (p status reason res : Nat) : SameIq s (s.planDone x p status reason res) :=
  (congr (s := s) (t := s.admitStat p reason res) rfl).trans (complete (s.admitStat p reason res) x _)

end SameIq

/-! ### What discarding leaves -/

/-- `s` has no taken record, no queued instruction and no live ember that `r` has not, and its registers but for the fields `fs`. -/
structure Sheds (fs : List Fld) (r s : State) : Prop where
  flds : FldsBut fs r s
  iq : ∀ h, (s.hearth h).iq = (r.hearth h).iq ∨ (s.hearth h).iq = []
  taken : ∀ x ∈ s.taken, x ∈ r.taken
  embers : ∀ e, (s.ember e).live = true → (r.ember e).live = true ∧ (s.ember e).hearth = (r.ember e).hearth

namespace Sheds

variable {fs : List Fld} {r s t : State}

theorem refl (fs : List Fld) (s : State) : Sheds fs s s := ⟨.refl fs s, fun _ => .inl rfl, fun _ => id, fun _ h => ⟨h, rfl⟩⟩

theorem trans (h : Sheds fs r s) (k : Sheds fs s t) : Sheds fs r t := by
  refine ⟨h.flds.trans k.flds, fun q => ?_, fun x hx => h.taken x (k.taken x hx), fun e he => ?_⟩
  · rcases k.iq q with hk | hk
    · exact (h.iq q).imp hk.trans hk.trans
    · exact .inr hk
  · obtain ⟨hlive, hh⟩ := k.embers e he
    obtain ⟨hlive', hh'⟩ := h.embers e hlive
    exact ⟨hlive', hh.trans hh'⟩

theorem mono {gs : List Fld} (h : Sheds fs r s) (sub : ∀ f ∈ fs, f ∈ gs) : Sheds gs r s := ⟨h.flds.mono sub, h.iq, h.taken, h.embers⟩

/-- A change elsewhere. -/
theorem congr (h : Sheds fs r s) (hr : t.reg = s.reg) (hh : t.hearths = s.hearths) (ht : t.taken = s.taken) (he : t.embers = s.embers) :
    Sheds fs r t := by
  have hhearth (k : Nat) : t.hearth k = s.hearth k := congrArg (mget ({} : Hearth) k) hh
  have hember (k : Nat) : t.ember k = s.ember k := congrArg (mget ({} : Ember) k) he
  refine h.trans ⟨fun f i _ => congrArg (mget (f.resetVal i) (f.key i)) hr, fun k => .inl (by rw [hhearth]), fun x hx => ht ▸ hx, fun e hl => ?_⟩
  rw [hember] at hl ⊢
  exact ⟨hl, rfl⟩

theorem setFld {f : Fld} {i v : Nat} (h : Sheds fs r s) (hf : f ∈ fs) : Sheds fs r (s.setFld f i v) :=
  h.trans ⟨setFld_fldsBut s hf i v, fun _ => .inl rfl, fun _ => id, fun _ h => ⟨h, rfl⟩⟩

theorem on {c : Bool} {g : State → State} (h : Sheds fs r s) (hg : Sheds fs r s → Sheds fs r (g s)) : Sheds fs r (s.on c g) := by
  cases c
  · exact h
  · exact hg h

theorem ite {c : Prop} [Decidable c] (hs : Sheds fs r s) (ht : Sheds fs r t) : Sheds fs r (if c then s else t) := by
  split <;> assumption

theorem forAll {α : Type} {l : List α} {f : α → State → State} (h : Sheds fs r s)
    (hf : ∀ a ∈ l, ∀ u, Sheds fs r u → Sheds fs r (f a u)) : Sheds fs r (forAll l f s) := by
  induction l generalizing s with
  | nil => exact h
  | cons a l ih => exact ih (hf a List.mem_cons_self s h) fun b hb => hf b (List.mem_cons_of_mem a hb)

/-- A report that adds no queued instruction. -/
theorem reported (h : Sheds fs r s) (k : Reported fs s t) (hiq : SameIq s t) : Sheds fs r t := by
  refine h.trans ⟨k.fldsBut, fun q => .inl (hiq.iq q), fun x hx => k.taken ▸ hx, fun e he => ?_⟩
  rw [k.windows e] at he ⊢
  exact ⟨he, rfl⟩

theorem setHearth {q : Nat} {v : Hearth} (h : Sheds fs r s) (hv : v.iq = (s.hearth q).iq ∨ v.iq = []) : Sheds fs r (s.setHearth q v) := by
  refine h.trans ⟨.refl fs s, fun k => ?_, fun _ => id, fun _ h => ⟨h, rfl⟩⟩
  by_cases hk : k = q
  · subst hk
    rw [setHearth_hearth_same]
    exact hv
  · exact .inl (congrArg Hearth.iq (setHearth_hearth_other s hk v))

theorem setEmber {e : Nat} {v : Ember} (h : Sheds fs r s) (hv : v.live = true → (s.ember e).live = true ∧ v.hearth = (s.ember e).hearth) :
    Sheds fs r (s.setEmber e v) := by
  refine h.trans ⟨.refl fs s, fun _ => .inl rfl, fun _ => id, fun k hk => ?_⟩
  by_cases hke : k = e
  · subst hke
    rw [setEmber_ember_same] at hk ⊢
    exact hv hk
  · rw [setEmber_ember_other s hke] at hk ⊢
    exact ⟨hk, rfl⟩

theorem setDisc {q n : Nat} (h : Sheds fs r s) : Sheds fs r (s.setHearth q { s.hearth q with discWork := n }) := h.setHearth (.inl rfl)

end Sheds

/-! ### The operations that discard work -/

/-- The work of hearth `t` is discarded without its count (R515). -/
def State.discardOf (s : State) (t : Nat) : State :=
  let n := (s.hearth t).discWork
  let s := s.dropWork t
  s.setHearth t { s.hearth t with discWork := n }

/-- Open transfers of every channel are discarded. -/
def State.dropOpens (s : State) : State := forAll ((upTo 64).filter fun c => (s.chan c).opn.xfer.isSome) (fun c s => s.dropOpen c) s

theorem discardOpen_eq (s : State) : s.discardOpen = (forAll (upTo 16) (fun t s => s.discardOf t) s).dropOpens := by
  unfold State.discardOpen State.dropOpens State.discardOf
  rfl

namespace Sheds

variable {fs : List Fld} {r s : State}

/-- The registers that records and discarded transfers write. -/
abbrev shedFlds : List Fld := reportFlds ++ [.CH_STAT_STATE, .RING_STAT_WAITING, .CH_CTRL_START]

theorem freeEmber {e : Nat} (h : Sheds fs r s) : Sheds fs r (s.freeEmber e) := h.setEmber fun hv => absurd hv (by simp)

section
variable (hf : ∀ f ∈ shedFlds, f ∈ fs)
include hf

theorem shown {a : Nat} {bs : List Byte} (h : Sheds fs r s) : Sheds fs r (s.show a bs) :=
  h.reported (show_reported fs (hf _ (by decide)) s a bs) (SameIq.congr (show_hearths s a bs))

theorem store {a : Nat} {bs : List Byte} (h : Sheds fs r s) : Sheds fs r (s.store a bs) :=
  .ite (h.shown hf) (h.forAll fun _ _ _ k => k.shown hf)

theorem undefBytes {a n : Nat} (h : Sheds fs r s) : Sheds fs r (s.undefBytes a n) :=
  (h.congr (t := { s with free := s.free + n }) rfl rfl rfl rfl).shown hf

theorem spoil {x : Flight} (h : Sheds fs r s) : Sheds fs r (s.spoil x) :=
  .ite (h.forAll fun _ _ _ k => k.undefBytes hf) (h.forAll fun _ _ _ k => k.undefBytes hf)

theorem complete {x : Ctx} {e : End} (h : Sheds fs r s) : Sheds fs r (s.complete x e) :=
  h.reported ((complete_reported s x e).mono fun f m => hf f (List.mem_append_left _ m)) (SameIq.complete s x e)

theorem dropFlight {x : Flight} (h : Sheds fs r s) : Sheds fs r (s.dropFlight x) := (h.spoil hf).congr rfl rfl rfl rfl

theorem dropQueued {t c : Nat} (h : Sheds fs r s) : Sheds fs r (s.dropQueued t c) := by
  unfold State.dropQueued
  extract_lets ch gone s₁ s₂
  have h₁ : Sheds fs r s₁ := h.congr rfl rfl rfl rfl
  have h₂ : Sheds fs r s₂ := h₁.on fun h => h.setFld (hf _ (by decide))
  exact h₂.setHearth (.inl rfl)

theorem dropWork {t : Nat} (h : Sheds fs r s) : Sheds fs r (s.dropWork t) := by
  unfold State.dropWork
  extract_lets q mine n s₁ s₂ s₃
  have h₁ : Sheds fs r s₁ :=
    h.trans ⟨.refl fs s, fun _ => .inl rfl, fun x hx => (List.mem_filter.mp hx).1, fun _ h => ⟨h, rfl⟩⟩
  have h₂ : Sheds fs r s₂ := h₁.setHearth (.inr rfl)
  have h₃ : Sheds fs r s₃ := h₂.forAll fun _ _ _ k => k.dropFlight hf
  exact h₃.forAll fun _ _ _ k => k.dropQueued hf

theorem dropOpen {c : Nat} (h : Sheds fs r s) : Sheds fs r (s.dropOpen c) := by
  unfold State.dropOpen
  extract_lets ch reg s₁ s₂ s₃
  have h₁ : Sheds fs r s₁ := h.forAll fun _ _ _ k => k.store hf
  have h₂ : Sheds fs r s₂ := h₁.congr rfl rfl rfl rfl
  have h₃ : Sheds fs r s₃ := (h₂.setFld (hf _ (by decide))).setFld (hf _ (by decide))
  exact h₃.on fun h => h.setFld (hf _ (by decide))

theorem tryFree {e : Nat} (h : Sheds fs r s) : Sheds fs r (s.tryFree e) := by
  unfold State.tryFree
  exact .ite (h.freeEmber.on fun h => h.complete hf) h

theorem forceEmber {e : Nat} (h : Sheds fs r s) : Sheds fs r (s.forceEmber e) := by
  unfold State.forceEmber
  extract_lets m own s₁
  have h₁ : Sheds fs r s₁ := h.congr rfl rfl rfl rfl
  refine Sheds.tryFree hf (h₁.setEmber ?_)
  exact fun hv => ⟨hv, rfl⟩

theorem dropOpens (h : Sheds fs r s) : Sheds fs r s.dropOpens := by
  unfold State.dropOpens
  exact h.forAll fun c _ u k => Sheds.dropOpen (c := c) (s := u) hf k

theorem discardOf {t : Nat} (h : Sheds fs r s) : Sheds fs r (s.discardOf t) := by
  have h₁ : Sheds fs r (s.dropWork t) := h.dropWork hf
  exact h₁.setDisc

theorem discardOpen (h : Sheds fs r s) : Sheds fs r s.discardOpen := by
  have h₁ : Sheds fs r (Machine.forAll (upTo 16) (fun t s => s.discardOf t) s) := h.forAll fun t _ u k => Sheds.discardOf (t := t) (s := u) hf k
  rw [discardOpen_eq]
  exact h₁.dropOpens hf

end
end Sheds

/-- Discarding the work of hearth `t` leaves none of its records and no instruction in its queue. -/
theorem dropWork_gone (s : State) (t : Nat) : (∀ x ∈ (s.dropWork t).taken, x.hearth ≠ t) ∧ ((s.dropWork t).hearth t).iq = [] := by
  unfold State.dropWork
  extract_lets q mine n s₁ s₂ s₃
  have h₁ : ∀ x ∈ s₂.taken, x.hearth ≠ t := fun x hx => by simpa using (List.mem_filter.mp hx).2
  have h₂ : (s₂.hearth t).iq = [] := congrArg Hearth.iq (setHearth_hearth_same s₁ t _)
  have h : Sheds Sheds.shedFlds s₂ (forAll (upTo 64) (fun c s => s.dropQueued t c) s₃) := by
    have h₃ : Sheds Sheds.shedFlds s₂ s₃ := (Sheds.refl _ _).forAll fun _ _ _ k => k.dropFlight fun _ => id
    exact h₃.forAll fun _ _ _ k => k.dropQueued fun _ => id
  exact ⟨fun x hx => h₁ x (h.taken x hx), (h.iq t).elim (·.trans h₂) id⟩

/-- So does the end of all open work, for every hearth (R515). -/
theorem discardOpen_gone (s : State) {t : Nat} (ht : t < 16) :
    (∀ x ∈ s.discardOpen.taken, x.hearth ≠ t) ∧ (s.discardOpen.hearth t).iq = [] := by
  let Gone (u : State) : Prop := (∀ x ∈ u.taken, x.hearth ≠ t) ∧ (u.hearth t).iq = []
  have hstep {u v : State} (h : Sheds Sheds.shedFlds u v) (hg : Gone u) : Gone v :=
    ⟨fun x hx => hg.1 x (h.taken x hx), (h.iq t).elim (·.trans hg.2) id⟩
  have hloop : Gone (forAll (upTo 16) (fun t s => s.discardOf t) s) := by
    refine forAll_visit (fun _ => True) Gone List.nodup_range (List.mem_range.mpr ht) _ (fun _ _ _ _ _ => trivial) (fun u _ => ?_)
      (fun q _ _ u hg => hstep (Sheds.discardOf (t := q) (fun _ => id) (.refl _ u)) hg) trivial
    exact hstep (Sheds.setDisc (.refl _ (u.dropWork t))) (dropWork_gone u t)
  rw [discardOpen_eq]
  exact hstep (Sheds.dropOpens (fun _ => id) (.refl _ _)) hloop

end Sys2Proof.Machine

open Sys2Proof Sys2Proof.Machine
end

section
/-! PROOF. The controlled power-down's stages and its forced end (R514, R515). -/

namespace Sys2Proof.Machine

/-! ### A stage that ends -/

theorem sendLeave_damp (s : State) : s.sendLeave.damp = s.damp := by
  unfold State.sendLeave
  split
  · rfl
  · dsimp only
    split
    · rfl
    · rw [sendNode_rest]

theorem leave_damp (s : State) (v : Nat) : (s.leave v).damp = s.damp := by
  unfold State.leave
  split
  · rfl
  · exact (sendLeave_damp _).trans (by unfold State.on; split <;> rfl)

theorem dampEnter_stage (s : State) (k : Nat) : (s.dampEnter k).damp.stage = k := by
  have hmiss (u : State) (p : Nat) : (u.planMiss p missDamp).damp = u.damp := (congrArg State.damp (planMiss_spec u p missDamp).1.rest :)
  unfold State.dampEnter
  extract_lets _ u
  have hu : u.damp.stage = k := rfl
  clear_value u
  split
  · rw [forAll_keeps State.damp _ _ (fun p _ v => hmiss v p), hu]
  split
  · split
    · exact hu
    split
    · exact hu
    · rw [leave_damp, hu]
  split <;> exact hu

theorem dampEnter_off (s : State) : (s.dampEnter 6).chip = chipOffReady :=
  setFld_fld_same (State.setFld { s with damp := { s.damp with stage := 6 } } .DAMP_STAT_WAIT_PEERS 0 0) .TICK_STAT_CHIP_STATE 0 chipOffReady

/-! ### The forced end -/

/-- The resident embers. -/
def State.residents (s : State) : List Nat := (s.embers.filter fun e => e.2.live).map (·.1)

/-- FORCED is set and the resident embers are counted. -/
def State.countForced (s : State) : State := (s.setFld .DAMP_STAT_FORCED 0 1).setFld .DAMP_STAT_FORCED_EMBERS 0 s.residents.length

/-- Residents stop issuing, and all open work is discarded. -/
def State.forceOut (s : State) : State := (forAll s.residents (fun e s => s.forceEmber e) s.countForced).discardOpen

theorem forceDamp_eq {s : State} (hc : s.chip = chipDamping) (hcfg : s.fld .DAMP_CFG ≠ 0) (ht : s.damp.entered + s.fld .DAMP_CFG ≤ s.now)
    (hf : s.flag .DAMP_STAT_FORCED = false) (h5 : s.damp.stage ≠ 5) :
    ∃ u, s.forceDamp = { u with damp := { u.damp with stage := 4 } } ∧ u = s.forceOut := by
  have hstage : (s.setFld .DAMP_STAT_FORCED 0 1).damp.stage ≠ 5 := h5
  have hdue : ¬ (s.chip != chipDamping || decide (s.fld .DAMP_CFG = 0) || decide (s.now < s.damp.entered + s.fld .DAMP_CFG) ||
      s.flag .DAMP_STAT_FORCED) = true := by
    simp only [hc, hf, Bool.or_eq_true, decide_eq_true_eq, bne_self_eq_false]
    rintro (((h | h) | h) | h)
    · exact Bool.false_ne_true h
    · exact hcfg h
    · omega
    · exact Bool.false_ne_true h
  exact ⟨_, (if_neg hdue).trans (if_neg hstage), rfl⟩

theorem forced_sheds (s : State) : Sheds Sheds.shedFlds s.countForced s.forceOut :=
  ((Sheds.refl _ _).forAll fun _ _ _ k => k.forceEmber fun _ => id).discardOpen fun _ => id

theorem countForced_spec (s : State) : s.countForced.flag .DAMP_STAT_FORCED = true ∧
    s.countForced.fld .DAMP_STAT_FORCED_EMBERS = s.residents.length % 2 ^ Fld.width .DAMP_STAT_FORCED_EMBERS := by
  refine ⟨(flag_eq (setFld_fld_ne _ (by decide) 0 0 s.residents.length)).trans ?_, setFld_fld_same ..⟩
  exact setFld_flag s .DAMP_STAT_FORCED 0 (v := 1) (by decide)

end Sys2Proof.Machine

open Sys2Proof Sys2Proof.Machine

/-- Settles O32: a stage's entry leaves the stage that it writes, and discarding work leaves none of it and writes no register of the count. -/
theorem controlledPowerDown : Obligations.ControlledPowerDown := by
  refine ⟨fun s hrun hc he => ⟨_, rfl, ?_⟩, fun s hrun hc hcfg ht hf h5 => ⟨_, rfl, ?_⟩⟩
  · have hon : s.on (s.chip = chipDamping && s.dampEnds) (fun s => s.dampEnter (s.damp.stage + 1)) = s.dampEnter (s.damp.stage + 1) := by
      rw [hc, he]
      rfl
    rw [running_run hrun, hon]
    refine ⟨fun _ => dampEnter_stage s _, fun h5 => ?_⟩
    rw [h5]
    exact dampEnter_off s
  · obtain ⟨u, hu, hout⟩ := forceDamp_eq hc hcfg ht hf h5
    rw [running_run hrun, hu]
    have hsheds := forced_sheds s
    obtain ⟨hforced, hcount⟩ := countForced_spec s
    have hgone (h : Nat) (hh : h < 16) : (∀ x ∈ s.forceOut.taken, x.hearth ≠ h) ∧ (s.forceOut.hearth h).iq = [] := discardOpen_gone _ hh
    rw [← hout] at hsheds hgone
    clear hout hu
    refine ⟨(flag_eq (hsheds.flds _ 0 (by decide))).trans hforced, rfl, fun r hr => ?_, fun h hh => (hgone h hh).2, ?_⟩
    · exact Nat.le_of_not_lt fun hlt => (hgone r.hearth hlt).1 r hr rfl
    · refine (hsheds.flds .DAMP_STAT_FORCED_EMBERS 0 (by decide)).trans (hcount.trans ?_)
      rw [State.residents, List.length_map]
end

section
/-! PROOF. The reset of a hearth: its work is discarded, its registers return to their reset values, and its record is ash entry 0
(R486 to R489). -/

namespace Sys2Proof.Machine

/-! ### Checks of an access go by few registers -/

/-- The registers that decide whether an access passes its checks. -/
def accessFlds : List Fld := [.NODE_ID_ID, .FAB_STAT, .ENG_STAT_MIX_LIVE, .LINK_LIVE, .FAR_INFO_ROLE, .FAR_INFO_SOCKET_POS, .FEN_LIVE,
  .WIN_BASE_LO_V, .WIN_BASE_LO_R, .WIN_BASE_LO_W, .WIN_BASE_LO_X, .WIN_BASE_LO_RMT_OK, .WIN_BASE_LO_SEAL, .WIN_BASE_LO_BASE_31_12,
  .WIN_BASE_HI_BASE_47_32, .WIN_BASE_HI_NODE, .WIN_BASE_HI_REMOTE, .WIN_BASE_HI_TGT_HEARTH, .WIN_SIZE, .WIN_KEY]

section
variable {s t : State} (h : ∀ f ∈ accessFlds, ∀ i, t.fld f i = s.fld f i)
include h

theorem global_congr (a : Nat) : t.global a = s.global a := by
  simp only [State.global, State.ownNode, h .NODE_ID_ID (by decide)]

theorem isOwn_congr (a : Nat) : t.isOwn a = s.isOwn a := by
  simp only [State.isOwn, State.ownNode, h .NODE_ID_ID (by decide)]
  rfl

theorem spanOk_congr (a n : Nat) : t.spanOk a n = s.spanOk a n := by
  simp only [State.spanOk, State.tileHoles, State.liveSlices, State.liveMixers, State.partnerLinks, State.fbit, h .FAB_STAT (by decide),
    h .ENG_STAT_MIX_LIVE (by decide), h .LINK_LIVE (by decide), h .FAR_INFO_ROLE (by decide), h .FAR_INFO_SOCKET_POS (by decide)]

theorem fenced_congr (a n : Nat) : t.fenced a n = s.fenced a n := by
  simp only [State.fenced, State.fbit, h .FEN_LIVE (by decide)]

theorem win_congr (q n : Nat) : t.win q n = s.win q n := by
  simp only [State.win, State.flag, h .WIN_BASE_LO_V (by decide), h .WIN_BASE_LO_R (by decide), h .WIN_BASE_LO_W (by decide),
    h .WIN_BASE_LO_X (by decide), h .WIN_BASE_LO_RMT_OK (by decide), h .WIN_BASE_LO_SEAL (by decide), h .WIN_BASE_LO_BASE_31_12 (by decide),
    h .WIN_BASE_HI_BASE_47_32 (by decide), h .WIN_BASE_HI_NODE (by decide), h .WIN_BASE_HI_REMOTE (by decide),
    h .WIN_BASE_HI_TGT_HEARTH (by decide), h .WIN_SIZE (by decide), h .WIN_KEY (by decide)]

theorem accessWin_congr (q ga n : Nat) : t.accessWin q ga n = s.accessWin q ga n := by
  have hw : t.win q = s.win q := funext (win_congr h q)
  simp only [State.accessWin, hw, isOwn_congr h]

theorem sealedHit_congr (a n : Nat) : t.sealedHit a n = s.sealedHit a n := by
  simp only [State.sealedHit, win_congr h]

theorem hearthFault_congr (hp : t.plans = s.plans) (q ga n : Nat) (k : AKind) : t.hearthFault q ga n k = s.hearthFault q ga n k := by
  have hplan (a m : Nat) : t.planHit a m = s.planHit a m := congrArg (fun l : List (Nat × Plan) => l.any fun e => e.2.sealed && overlaps a m e.2.addr (e.2.addr + e.2.len)) hp
  simp only [State.hearthFault, isOwn_congr h, spanOk_congr h, accessWin_congr h, sealedHit_congr h, hplan, fenced_congr h]

end

/-! ### The parts of a reset discard -/

/-- The registers that the start of a hearth reset writes, but for RESETTING and RESET. -/
def resetFlds : List Fld := Sheds.shedFlds ++ (planFlds ++ (missFlds ++ (slotFlds ++
  ([.KV_POOL_TOP, .KV_PAGES_USED, .KV_PAGES_PROV, .KV_HSTAT_TOP_BUSY, .KV_HSTAT_CFG_ERR, .WIN_BASE_LO_SEAL, .SQ_TAIL, .SQ_HEAD, .CQ_TAIL,
    .CQ_HEAD, .AQ_TAIL, .AQ_HEAD, .HEARTH_STAT_DB_ERR, .HEARTH_STAT_CFG_ERR, .HEARTH_STAT_AQ_OVER, .HEARTH_CTL_FENCE, .DISC_STORES,
    .DISC_WORK] : List Fld))))

namespace Sheds

variable {r s : State}

theorem discStores {fs : List Fld} {q n : Nat} (h : Sheds fs r s) : Sheds fs r (s.setHearth q { s.hearth q with discStores := n }) :=
  h.setHearth (.inl rfl)

theorem setPlan {fs : List Fld} {p : Nat} {v : Plan} (h : Sheds fs r s) : Sheds fs r (s.setPlan p v) := h.congr rfl rfl rfl rfl

theorem dropEmbers {fs : List Fld} {t : Nat} (h : Sheds fs r s) : Sheds fs r (s.dropEmbers t) := by
  unfold State.dropEmbers
  extract_lets es n s₁
  have h₁ : Sheds fs r s₁ := h.forAll fun _ _ _ k => k.freeEmber
  exact h₁.discStores

theorem spoilReshard {x : Reshard} (h : Sheds resetFlds r s) : Sheds resetFlds r (s.spoilReshard x) := by
  have h₁ : Sheds resetFlds r (Machine.forAll x.inRanges (fun e s => s.undefBytes e.1 e.2) s) :=
    h.forAll fun _ _ _ k => k.undefBytes (by decide)
  exact h₁.forAll fun _ _ _ k => k.undefBytes (by decide)

theorem stopWork {t : Nat} (h : Sheds resetFlds r s) : Sheds resetFlds r (s.stopWork t) := by
  unfold State.stopWork
  extract_lets s₁ s₂ s₃
  have h₁ : Sheds resetFlds r s₁ := h.forAll fun _ _ _ k => k.congr rfl rfl rfl rfl
  have h₂ : Sheds resetFlds r s₂ := h₁.forAll fun _ _ _ k => k.dropOpen (by decide)
  have h₃ : Sheds resetFlds r s₃ := h₂.forAll fun _ _ _ k => k.spoilReshard
  exact h₃.congr rfl rfl rfl rfl

theorem dropKv {t : Nat} (h : Sheds resetFlds r s) : Sheds resetFlds r (s.dropKv t) := by
  unfold State.dropKv
  extract_lets s₁
  have h₁ : Sheds resetFlds r s₁ := h.congr rfl rfl rfl rfl
  exact h₁.forAll fun f hf _ k => k.setFld (by revert f; decide)

theorem dropStreams {t : Nat} (h : Sheds resetFlds r s) : Sheds resetFlds r (s.dropStreams t) := by
  unfold State.dropStreams
  extract_lets s₁ s₂
  have h₁ : Sheds resetFlds r s₁ := h.forAll fun _ _ _ k => k.congr rfl rfl rfl rfl
  have h₂ : Sheds resetFlds r s₂ := h₁.forAll fun _ _ _ k => k.congr rfl rfl rfl rfl
  exact h₂.dropKv

theorem planDone {x : Ctx} {p status reason res : Nat} (h : Sheds resetFlds r s) : Sheds resetFlds r (s.planDone x p status reason res) :=
  h.reported ((planDone_reported s x p status reason res).mono (by decide)) (.planDone ..)

theorem cleared {p : Nat} (h : Sheds resetFlds r s) : Sheds resetFlds r (s.cleared p) := by
  have h₁ := (((h.setFld (f := .PLAN_STATE_STATE) (i := p) (v := plEmpty) (by decide)).setFld (f := .PLAN_STATE_HEARTH) (i := p) (v := 0)
    (by decide)).setFld (f := .PLAN_STATE_CAUSE) (i := p) (v := 0) (by decide)).setFld (f := .PLAN_STATE_SLACK_LEFT) (i := p) (v := 0) (by decide)
  exact h₁.congr rfl rfl rfl rfl

theorem emptySlot {p : Nat} (h : Sheds resetFlds r s) : Sheds resetFlds r (s.emptySlot p) := by
  unfold State.emptySlot
  extract_lets pl s₁ s₂ s₃
  have h₂ : Sheds resetFlds r s₂ := h.cleared
  have h₃ : Sheds resetFlds r s₃ := by
    unfold s₃
    clear_value s₂
    split
    · exact h₂
    · exact h₂.planDone
  split
  · exact h₃
  · exact .ite h₃ h₃.planDone

theorem recordMiss {p cause : Nat} (h : Sheds resetFlds r s) : Sheds resetFlds r (s.recordMiss p cause) := by
  have h₁ : Sheds resetFlds r (s.missed p cause) :=
    h.reported ((missed_reported s p cause).mono (by decide)) (.congr (bump_hearths ..))
  rw [recordMiss_eq]
  generalize s.missed p cause = u at h₁
  have h₂ : Sheds resetFlds r (u.postAsh (u.planHearth p) (u.missAsh p cause)) :=
    h₁.reported ((postAsh_reported ..).mono (by decide)) (SameIq.postAsh ..)
  exact h₂.setPlan

theorem planMiss {p cause : Nat} (h : Sheds resetFlds r s) : Sheds resetFlds r (s.planMiss p cause) := by
  have h₁ : Sheds resetFlds r (s.recordMiss p cause) := h.recordMiss
  rw [planMiss_eq]
  generalize s.recordMiss p cause = u at h₁
  refine .ite ?_ ?_
  · rw [State.noteMiss, ask_rest]
    exact h₁.congr rfl rfl rfl rfl
  · rw [report_rest]
    exact h₁.congr rfl rfl rfl rfl

theorem dropPlan {p : Nat} (h : Sheds resetFlds r s) : Sheds resetFlds r (s.dropPlan p) := by
  unfold State.dropPlan
  refine .ite ?_ ?_
  · exact Sheds.emptySlot (Sheds.setPlan (Sheds.setDisc h))
  · have h₁ : Sheds resetFlds r (s.planMiss p missReset) := h.planMiss
    generalize s.planMiss p missReset = u at h₁
    exact h₁.setPlan

theorem dropPlans {t : Nat} (h : Sheds resetFlds r s) : Sheds resetFlds r (s.dropPlans t) := h.forAll fun _ _ _ k => k.dropPlan

theorem zeroQueues {t : Nat} (h : Sheds resetFlds r s) : Sheds resetFlds r (s.zeroQueues t) :=
  h.forAll fun f hf _ k => k.setFld (by revert f; decide)

end Sheds

/-! ### What is over stays over -/

/-- What one round of a loop brings about and no round undoes holds after the loop. -/
theorem forAll_reached {α : Type} (Q : State → Prop) {l : List α} {a : α} (ha : a ∈ l) (f : α → State → State) (hround : ∀ s, Q (f a s))
    (hkeep : ∀ b ∈ l, ∀ s, Q s → Q (f b s)) (s : State) : Q (forAll l f s) := by
  induction l generalizing s with
  | nil => cases ha
  | cons b l ih =>
    show Q (forAll l f (f b s))
    rcases List.mem_cons.mp ha with rfl | ha
    · exact forAll_rel (R := fun s t => Q s → Q t) (fun _ => id) (fun h k q => k (h q)) l f
        (fun c hc u => hkeep c (List.mem_cons_of_mem a hc) u) _ (hround s)
    · exact ih ha (fun c hc => hkeep c (List.mem_cons_of_mem b hc)) _

theorem setFld_fld_zero {s : State} {g : Fld} {i : Nat} (h : s.fld g i = 0) (f : Fld) : (s.setFld f i 0).fld g i = 0 := by
  by_cases hg : g = f
  · subst hg
    exact (setFld_fld_same s g i 0).trans (Nat.zero_mod _)
  · rw [setFld_fld_ne s hg, h]

theorem zeroAll_fld {l : List Fld} {f : Fld} (hf : f ∈ l) (i : Nat) (s : State) : (forAll l (fun f s => s.setFld f i 0) s).fld f i = 0 :=
  forAll_reached (fun u => u.fld f i = 0) hf _ (fun u => (setFld_fld_same u f i 0).trans (Nat.zero_mod _))
    (fun g _ _ h => setFld_fld_zero h g) s

theorem zeroAll_keeps {l : List Fld} {f : Fld} (hf : f ∉ l) (i j : Nat) (s : State) :
    (forAll l (fun f s => s.setFld f i 0) s).fld f j = s.fld f j :=
  forAll_keeps (State.fld · f j) _ _ (fun _ hg u => setFld_fld_ne u (ne_of_mem_of_not_mem hg hf).symm i j 0) s

theorem zeroAll_shd (l : List Fld) (i : Nat) (s : State) : (forAll l (fun f s => s.setFld f i 0) s).shadow = s.shadow :=
  forAll_keeps State.shadow l (fun f s => s.setFld f i 0) (fun _ _ _ => rfl) s

/-- The queue indices. -/
def indexFlds : List Fld := [.SQ_TAIL, .SQ_HEAD, .CQ_TAIL, .CQ_HEAD, .AQ_TAIL, .AQ_HEAD]

theorem zeroQueues_sameButReg (s : State) (t : Nat) : SameButReg s (s.zeroQueues t) :=
  forAll_rel SameButReg.refl (fun h k => h.trans k) _ _ (fun _ _ _ => setFld_sameButReg ..) s

/-- The bits of its status that a hearth's reset clears. -/
def statusFlds : List Fld := [.HEARTH_STAT_DB_ERR, .HEARTH_STAT_CFG_ERR, .HEARTH_STAT_AQ_OVER, .HEARTH_CTL_FENCE]

/-- The seals of the hearth's windows are lifted. -/
def State.unsealed (s : State) (t : Nat) : State :=
  forAll (upTo 16) (fun n s => (s.setFld .WIN_BASE_LO_SEAL (t * 16 + n) 0).setShd .WIN_BASE_LO_SEAL (t * 16 + n) 0) s

theorem clearQueues_eq (s : State) (t : Nat) :
    s.clearQueues t = forAll statusFlds (fun f s => s.setFld f t 0) ((s.unsealed t).zeroQueues t) := rfl

theorem setShd_shd_inst (s : State) (f : Fld) {i j : Nat} (h : j % 1024 ≠ i % 1024) (v : Nat) : (s.setShd f i v).shd f j = s.shd f j := by
  unfold State.shd State.setShd
  exact mget_mput_other _ _ (fun e => h (Fld.key_inj e).2) _ _

theorem unsealed_spec (s : State) (t : Nat) {n : Nat} (hn : n < 16) :
    (s.unsealed t).fld .WIN_BASE_LO_SEAL (t * 16 + n) = 0 ∧ (s.unsealed t).shd .WIN_BASE_LO_SEAL (t * 16 + n) = 0 := by
  have hne {m : Nat} (hm : m < 16) (h : m ≠ n) : (t * 16 + n) % 1024 ≠ (t * 16 + m) % 1024 := by omega
  refine ⟨forAll_writes (State.fld · .WIN_BASE_LO_SEAL (t * 16 + n)) (fun _ => 0) (List.mem_range.mpr hn) _ (fun u => ?_) (fun m hm h u => ?_)
      (fun _ _ _ => rfl) s,
    forAll_writes (State.shd · .WIN_BASE_LO_SEAL (t * 16 + n)) (fun _ => 0) (List.mem_range.mpr hn) _ (fun u => ?_) (fun m hm h u => ?_)
      (fun _ _ _ => rfl) s⟩
  · exact setFld_fld_same u .WIN_BASE_LO_SEAL (t * 16 + n) 0
  · exact setFld_fld_inst u .WIN_BASE_LO_SEAL (hne (List.mem_range.mp hm) h) 0
  · exact setShd_shd_same _ .WIN_BASE_LO_SEAL (t * 16 + n) 0
  · exact setShd_shd_inst _ .WIN_BASE_LO_SEAL (hne (List.mem_range.mp hm) h) 0

/-- The registers of a hearth whose queues are cleared. -/
theorem clearQueues_spec (s : State) (t : Nat) :
    (∀ f ∈ indexFlds ++ statusFlds, (s.clearQueues t).fld f t = 0) ∧
      ∀ n < 16, (s.clearQueues t).fld .WIN_BASE_LO_SEAL (t * 16 + n) = 0 ∧ (s.clearQueues t).shd .WIN_BASE_LO_SEAL (t * 16 + n) = 0 := by
  rw [clearQueues_eq]
  refine ⟨fun f hf => ?_, fun n hn => ?_⟩
  · rcases List.mem_append.mp hf with hf | hf
    · exact (zeroAll_keeps (by revert f; decide) t t _).trans (zeroAll_fld (l := indexFlds) hf t _)
    · exact zeroAll_fld hf t _
  · obtain ⟨hfld, hshd⟩ := unsealed_spec s t hn
    refine ⟨(zeroAll_keeps (by decide) t _ _).trans ((zeroAll_keeps (l := indexFlds) (by decide) t _ _).trans hfld), ?_⟩
    have h : (forAll statusFlds (fun f s => s.setFld f t 0) ((s.unsealed t).zeroQueues t)).shadow = (s.unsealed t).shadow :=
      (zeroAll_shd statusFlds t _).trans (zeroAll_shd indexFlds t _)
    exact (congrArg (mget _ _) h).trans hshd

theorem Sheds.clearQueues {r s : State} {t : Nat} (h : Sheds resetFlds r s) : Sheds resetFlds r (s.clearQueues t) := by
  have h₁ : Sheds resetFlds r (s.unsealed t) := h.forAll fun n _ u k =>
    (k.setFld (f := .WIN_BASE_LO_SEAL) (i := t * 16 + n) (v := 0) (by decide)).congr rfl rfl rfl rfl
  rw [clearQueues_eq]
  exact h₁.zeroQueues.forAll fun f hf _ k => k.setFld (by revert f; decide)

theorem mem_of_mget {α : Type} {d : α} {k : Nat} {m : List (Nat × α)} (h : mget d k m ≠ d) : (k, mget d k m) ∈ m := by
  induction m with
  | nil => exact absurd rfl h
  | cons e m ih =>
    by_cases hk : e.1 = k
    · obtain rfl := hk
      simp [mget]
    · simp only [mget, if_neg hk] at h ⊢
      exact List.mem_cons_of_mem e (ih h)

/-- No live ember of hearth `t` is left. -/
theorem dropEmbers_gone (s : State) (t e : Nat) (hl : ((s.dropEmbers t).ember e).live = true) : ((s.dropEmbers t).ember e).hearth ≠ t := by
  have hs : Sheds [] s (s.dropEmbers t) := (Sheds.refl [] s).dropEmbers
  intro hh
  obtain ⟨hlive, hearth⟩ := hs.embers e hl
  have hmem : (e, s.ember e) ∈ s.embers := mem_of_mget fun he => by simp [State.ember, he] at hlive
  have hin : e ∈ s.embersOf t := List.mem_map.mpr ⟨_, List.mem_filter.mpr ⟨hmem, by simp [hlive, ← hearth, hh]⟩, rfl⟩
  have hdead : ((forAll (s.embersOf t) (fun e s => s.freeEmber e) s).ember e).live = false :=
    forAll_reached (fun u => (u.ember e).live = false) hin _ (fun u => congrArg Ember.live (setEmber_ember_same ..))
      (fun b _ u hu => Bool.eq_false_iff.mpr fun hb => by simp [((Sheds.refl [] u).freeEmber.embers e hb).1] at hu) s
  exact absurd hl (by rw [show ((s.dropEmbers t).ember e).live = false from hdead]; decide)

/-! ### The start of a reset -/

/-- The reset's own registers and counts. -/
def State.resetBegun (s : State) (t : Nat) : State :=
  let s := (s.setFld .HEARTH_STAT_RESETTING t 1).setFld .HEARTH_CTL_RESET t 1
  s.setHearth t { s.hearth t with discStores := 0, discWork := 0 }

/-- The hearth's work is discarded. -/
def State.resetWork (s : State) (t : Nat) : State := ((((s.dropEmbers t).dropWork t).stopWork t).dropStreams t).dropPlans t

/-- The counts of what was discarded become visible. -/
def State.showDiscarded (s : State) (t : Nat) : State :=
  (s.setFld .DISC_STORES t (s.hearth t).discStores).setFld .DISC_WORK t (s.hearth t).discWork

theorem startReset_eq {s : State} {t : Nat} (h : s.flag .HEARTH_STAT_RESETTING t = false) :
    s.startReset t = ((((s.resetBegun t).resetWork t).clearQueues t).dropLatches fun _ => true).showDiscarded t :=
  if_neg (by simp [h])

theorem resetWork_spec (s : State) (t : Nat) :
    Sheds resetFlds s (s.resetWork t) ∧ (∀ x ∈ (s.resetWork t).taken, x.hearth ≠ t) ∧ ((s.resetWork t).hearth t).iq = [] ∧
      ∀ e, ((s.resetWork t).ember e).live = true → ((s.resetWork t).ember e).hearth ≠ t := by
  have h₁ : Sheds resetFlds s (s.dropEmbers t) := (Sheds.refl _ _).dropEmbers
  have h₂ : Sheds resetFlds (s.dropEmbers t) ((s.dropEmbers t).dropWork t) := (Sheds.refl _ _).dropWork (by decide)
  have h₃ : Sheds resetFlds ((s.dropEmbers t).dropWork t) (s.resetWork t) := (Sheds.refl _ _).stopWork.dropStreams.dropPlans
  obtain ⟨htaken, hiq⟩ := dropWork_gone (s.dropEmbers t) t
  refine ⟨(h₁.trans h₂).trans h₃, fun x hx => htaken x (h₃.taken x hx), (h₃.iq t).elim (·.trans hiq) id, fun e he => ?_⟩
  obtain ⟨hlive, hh⟩ := (h₂.trans h₃).embers e he
  rw [hh]
  exact dropEmbers_gone s t e hlive

theorem setHearth_flag (s : State) (q : Nat) (v : Hearth) (f : Fld) (i : Nat) : (s.setHearth q v).flag f i = s.flag f i := rfl

/-- What the start of a reset of hearth `t` leaves of it (R487, R488). -/
structure ResetStarted (t : Nat) (u : State) : Prop where
  resetting : u.flag .HEARTH_STAT_RESETTING t = true
  bit : u.flag .HEARTH_CTL_RESET t = true
  zero : ∀ f ∈ indexFlds ++ statusFlds, u.fld f t = 0
  seals : ∀ n < 16, u.fld .WIN_BASE_LO_SEAL (t * 16 + n) = 0 ∧ u.shd .WIN_BASE_LO_SEAL (t * 16 + n) = 0
  latches : u.latches = []
  taken : ∀ x ∈ u.taken, x.hearth ≠ t
  iq : (u.hearth t).iq = []
  embers : ∀ e, (u.ember e).live = true → (u.ember e).hearth ≠ t

theorem startReset_started {s : State} {t : Nat} (h : s.flag .HEARTH_STAT_RESETTING t = false) : ResetStarted t (s.startReset t) := by
  rw [startReset_eq h]
  have hbegun : (s.resetBegun t).flag .HEARTH_STAT_RESETTING t = true ∧ (s.resetBegun t).flag .HEARTH_CTL_RESET t = true := by
    simp only [State.resetBegun, setHearth_flag]
    exact ⟨(flag_eq (setFld_fld_ne _ (by decide) t t 1)).trans (setFld_flag s .HEARTH_STAT_RESETTING t (v := 1) (by decide)),
      setFld_flag _ .HEARTH_CTL_RESET t (v := 1) (by decide)⟩
  obtain ⟨hw, htaken, hiq, hember⟩ := resetWork_spec (s.resetBegun t) t
  generalize s.resetBegun t = b at *
  obtain ⟨hzero, hseal⟩ := clearQueues_spec (b.resetWork t) t
  have hc : Sheds resetFlds (b.resetWork t) ((b.resetWork t).clearQueues t) := (Sheds.refl _ _).clearQueues
  generalize b.resetWork t = w at *
  generalize w.clearQueues t = c at *
  have hd (f : Fld) (i : Nat) (h1 : f ≠ .DISC_STORES) (h2 : f ≠ .DISC_WORK) :
      ((c.dropLatches fun _ => true).showDiscarded t).fld f i = c.fld f i := (setFld_fld_ne _ h2 t i _).trans (setFld_fld_ne _ h1 t i _)
  have hkeep (f : Fld) (hf : f ∉ resetFlds) (h1 : f ≠ .DISC_STORES) (h2 : f ≠ .DISC_WORK) :
      ((c.dropLatches fun _ => true).showDiscarded t).fld f t = b.fld f t := (hd f t h1 h2).trans ((hw.trans hc).flds f t hf)
  refine ⟨(flag_eq (hkeep _ (by decide) (by decide) (by decide))).trans hbegun.1, (flag_eq (hkeep _ (by decide) (by decide) (by decide))).trans hbegun.2,
    fun f hf => (hd f t (by revert f; decide) (by revert f; decide)).trans (hzero f hf),
    fun n hn => ⟨(hd _ _ (by decide) (by decide)).trans (hseal n hn).1, (hseal n hn).2⟩, List.filter_eq_nil_iff.mpr (by simp),
    fun x hx => htaken x (hc.taken x hx), (hc.iq t).elim (·.trans hiq) id, fun e he => ?_⟩
  obtain ⟨hlive, hh⟩ := hc.embers e he
  exact fun hq => hember e hlive (hh ▸ hq)

/-! ### The register and the end -/

theorem applyReg_hearthCtl (s : State) (t v hw : Nat) : s.applyReg 0x43C t v hw = s.writeHearthCtl t v hw := by
  obtain ⟨d, hd⟩ : ∃ d, s.writeHearthCtl = d := ⟨_, rfl⟩
  unfold State.applyReg
  rw [hd]
  rfl

/-- A write of HEARTH_CTL with RESET set starts the reset of a hearth that is in none. -/
theorem writeHearthCtl_starts {s : State} {t v : Nat} (hw : Nat) (h : s.flag .HEARTH_STAT_RESETTING t = false) (hv : v.testBit 1 = true) :
    ResetStarted t (s.writeHearthCtl t v hw) := by
  unfold State.writeHearthCtl
  extract_lets s₁ s₂
  have h₁ : s₁.flag .HEARTH_STAT_RESETTING t = false :=
    (flag_eq ((setFld_fld_ne _ (by decide) t t _).trans ((setFld_fld_ne _ (by decide) t t _).trans (setFld_fld_ne s (by decide) t t _)))).trans h
  have h₂ : s₂ = s₁ := by
    unfold s₂
    rw [h₁, Bool.and_false]
    rfl
  rw [h₂, hv]
  exact startReset_started h₁

/-- The reset's registers at its end, before its record. -/
def State.resetEnded (s : State) (t : Nat) : State :=
  (((s.zeroQueues t).setFld .HEARTH_STAT_RESETTING t 0).setFld .HEARTH_CTL_RESET t 0).setHearth t
    { s.hearth t with ashHold := [], discStores := 0, discWork := 0 }

/-- RESET_DONE of Table 14.6. -/
def State.resetRecord (s : State) (t : Nat) : AshRec :=
  { cause := 0x3E, origin := 4, arg := (s.hearth t).discStores, len := (s.hearth t).discWork, issue := s.now, fail := s.now }

theorem resetEnded_fld {f : Fld} (hf : f ∉ .HEARTH_CTL_RESET :: .HEARTH_STAT_RESETTING :: indexFlds) (s : State) (t i : Nat) :
    (s.resetEnded t).fld f i = s.fld f i := by
  simp only [List.mem_cons, not_or] at hf
  obtain ⟨h1, h2, h3⟩ := hf
  unfold State.resetEnded
  rw [setHearth_fld_read, setFld_fld_ne _ h1, setFld_fld_ne _ h2]
  exact zeroAll_keeps (l := indexFlds) (by simpa only [indexFlds, List.mem_cons, not_or] using h3) t i s

theorem finishReset_eq {s : State} {t : Nat} (h : (s.hearth t).ashHold = []) :
    s.finishReset t = (s.resetEnded t).postAsh t (s.resetRecord t) := by
  have hnow : (s.resetEnded t).now = s.now := resetEnded_fld (f := .TICK_COUNT) (by decide) s t 0
  unfold State.finishReset
  extract_lets q s₁ s₂ s₃
  have h₂ : s₂ = s.resetEnded t := rfl
  have hq : q.ashHold = [] := h
  have h₃ : s₃ = (s.resetEnded t).postAsh t (s.resetRecord t) := by
    unfold s₃ State.resetRecord
    rw [h₂, hnow]
  rw [hq, h₃]
  rfl

/-- The state in which the record of the reset's end is written. -/
theorem resetEnded_spec (s : State) (t : Nat) :
    (s.resetEnded t).flag .HEARTH_STAT_RESETTING t = false ∧ (s.resetEnded t).flag .HEARTH_CTL_RESET t = false ∧
      (∀ f ∈ indexFlds, (s.resetEnded t).fld f t = 0) ∧ (s.resetEnded t).mem = s.mem ∧ (s.resetEnded t).plans = s.plans := by
  have hsame := zeroQueues_sameButReg s t
  simp only [State.resetEnded, setHearth_flag, setHearth_fld_read]
  refine ⟨?_, ?_, fun f hf => ?_, ?_, ?_⟩
  · rw [State.flag, setFld_fld_ne _ (by decide), setFld_fld_same]
    rfl
  · rw [State.flag, setFld_fld_same]
    rfl
  · rw [setFld_fld_ne _ (by revert f; decide), setFld_fld_ne _ (by revert f; decide)]
    exact zeroAll_fld (l := indexFlds) hf t s
  · rw [setHearth_mem, setFld_mem, setFld_mem, hsame]
  · rw [setHearth_plans, setFld_plans, setFld_plans, hsame]

/-- The bytes at `a` are those that were written there. -/
theorem bytes_written {s t : State} {a : Nat} {bs : List Byte} (h : ∀ x, t.byte x = (s.setBytes a bs).byte x) : t.bytes a bs.length = bs := by
  refine List.ext_getElem (by simp [State.bytes]) fun k hk hk' => ?_
  have : t.byte (a + k) = bs[k] := by
    rw [h, setBytes_byte, if_pos ⟨Nat.le_add_right a k, by omega⟩, Nat.add_sub_cancel_left, List.getD_eq_getElem _ _ hk']
  simpa [State.bytes] using this

/-- An ash record that finds the queue empty is its entry 0. -/
theorem postAsh_first {s : State} {t : Nat} {r : AshRec} (hq : s.ashQuiet t r.cause = false) (hr : s.flag .HEARTH_STAT_RESETTING t = false)
    (htail : s.fld .AQ_TAIL t = 0) (hhead : s.fld .AQ_HEAD t = 0) (hn : 2 ≤ s.aqN t)
    (hf : s.hearthFault t (s.global (queueEntry (s.fld .AQ_CFG_BASE_IDX t) (s.aqN t) 64 0)) 64 .w = 0) :
    (s.postAsh t r).fld .AQ_TAIL t = 1 ∧
      ∀ a, (s.postAsh t r).byte a = (s.setBytes (queueEntry (s.fld .AQ_CFG_BASE_IDX t) (s.aqN t) 64 0) (ashBytes r 0)).byte a := by
  have hocc : s.aqOcc t = 0 := by
    unfold State.aqOcc
    rw [htail, hhead]
    rfl
  have hpost : s.postAsh t r = s.putAsh t r := by
    unfold State.postAsh
    extract_lets n occ
    have hroom : occ + 2 ≤ n := by
      show s.aqOcc t + 2 ≤ s.aqN t
      omega
    rw [hq, hr, if_neg nofun, if_neg nofun, if_pos hroom]
  have hphase : bitsOf 0 (s.fld .AQ_CFG_LOG2N t) 1 = 0 := by simp [bitsOf]
  rw [hpost, State.putAsh]
  dsimp only
  rw [htail, hf, hphase, if_neg (by decide)]
  generalize hu : s.show _ (ashBytes r 0) = u
  have hfire (w : State) (c : Bool) : (w.on c fun s => s.fireHearth t 1).reg = w.reg ∧ (w.on c fun s => s.fireHearth t 1).mem = w.mem := by
    cases c
    · exact ⟨rfl, rfl⟩
    · simp only [State.on, if_true, State.fireHearth]
      split <;> exact ⟨rfl, rfl⟩
  refine ⟨(congrArg (mget _ _) (hfire _ _).1).trans (setFld_fld_same u .AQ_TAIL t (0 + 1)), fun a => ?_⟩
  refine (congrArg (mget 0 a) (hfire _ _).2).trans ?_
  rw [← show_byte, hu]
  rfl

end Sys2Proof.Machine

open Sys2Proof Sys2Proof.Machine

/-- Settles O8: nothing that is discarded comes back and the queues are cleared last; the record finds its queue empty. -/
theorem hearthReset : Obligations.HearthReset := by
  refine ⟨⟨fun s h hrun hn => ⟨_, rfl, ?_⟩, fun s hrun => ?_⟩, fun s p h v hrun hr hn hv => ?_, fun s h hrun hres hbus hhold hlen htail hhead hf => ⟨_, rfl, ?_⟩⟩
  · have hv : (Fin.ofNat 17 (h.val + 1)).val = h.val + 1 := Nat.mod_eq_of_lt (by omega)
    rw [running_run hrun, hv, if_neg (by omega), Nat.add_sub_cancel]
    obtain ⟨hr, hbit, hzero, hseal, hl, ht, hi, he⟩ := startReset_started hn
    exact ⟨hr, hzero, fun n => hseal n n.isLt, hl, ht, hi, he⟩
  · exact congrArg Host.Outcome.next (running_self hrun (if_pos rfl))
  · have hreg : WordReg 0x43C := ⟨by decide, by decide, by decide⟩
    obtain ⟨t, ht, hw⟩ := hreg.live_pathWrite (v := v.toNat) hrun hr (by simp [State.expertOk, isExpertReg]) (by simp [resetWord])
    rw [applyReg_hearthCtl] at hw
    have hs := writeHearthCtl_starts (s := s.joined p) ((s.joined p).metHw 0x43C h 0) ((flag_eq (joined_fld (by decide) s p h)).trans hn) hv
    exact ⟨t, ht, (hw.flag (by decide) h).trans hs.resetting, (hw.flag (by decide) h).trans hs.bit, fun f hf =>
      (hw.fld (by revert f; decide) h).trans (hs.zero f (List.mem_append_left _ hf))⟩
  · rw [running_run hrun]
    have hon : s.on (s.flag .HEARTH_STAT_RESETTING h && !s.onBus h) (fun s => s.finishReset h) = s.finishReset h := by
      rw [hres, hbus]
      rfl
    rw [hon, finishReset_eq hhold]
    obtain ⟨hr0, hb0, hzero, hmem, hplans⟩ := resetEnded_spec s h
    have hfld (f : Fld) (hf : f ∉ .HEARTH_CTL_RESET :: .HEARTH_STAT_RESETTING :: indexFlds) (i : Nat) : (s.resetEnded h).fld f i = s.fld f i :=
      resetEnded_fld hf s h i
    have hacc : ∀ f ∈ accessFlds, ∀ i, (s.resetEnded h).fld f i = s.fld f i := fun f hf i => hfld f (by revert f; decide) i
    generalize s.resetEnded h = u at *
    have hN : u.aqN h = s.aqN h := by simp only [State.aqN, hfld .AQ_CFG_LOG2N (by decide)]
    have hb : u.fld .AQ_CFG_BASE_IDX h = s.fld .AQ_CFG_BASE_IDX h := hfld _ (by decide) h
    obtain ⟨ht, hbyte⟩ := postAsh_first (r := s.resetRecord h) rfl hr0 (hzero _ (by decide)) (hzero _ (by decide)) (by omega)
      (by rw [hearthFault_congr hacc hplans, global_congr hacc, hb, hN, hf])
    have hrep := postAsh_reported u h (s.resetRecord h)
    rw [hb, hN] at hbyte
    have hlenB : (ashBytes (s.resetRecord h) 0).length = 64 := by simp [ashBytes, leBytes_length]
    refine ⟨(flag_eq (hrep.fld (by decide) h)).trans hr0, (flag_eq (hrep.fld (by decide) h)).trans hb0, ht, ?_, fun a ha => ?_⟩
    · rw [← hlenB]
      exact bytes_written hbyte
    · refine (hbyte a).trans ?_
      rw [setBytes_byte, if_neg (by omega)]
      exact congrArg (mget 0 a) hmem
end

section
/-! PROOF. A link's life: block lock, service, loss and return (R65, R430, R431, R433, R438). -/

namespace Sys2Proof.Machine

/-! ### Service -/

theorem testBit_orBit (x n k : Nat) : (orBit x n).testBit k = (x.testBit k || decide (k = n)) := by
  rw [orBit, Nat.testBit_or, Nat.testBit_two_pow]
  simp [eq_comm]

theorem setFbit_fbit (s : State) (f : Fld) (n : Nat) {k : Nat} (hk : k < f.width) :
    (s.setFbit f 0 n).fbit f 0 k = (s.fbit f 0 k || decide (k = n)) := by
  unfold State.fbit State.setFbit
  rw [setFld_fld_same, Nat.testBit_mod_two_pow, testBit_orBit]
  simp [hk]

/-- A link whose service has changed, before its report. -/
def State.serviceSet (s : State) (n : Nat) (up : Bool) : State :=
  (if up then s.setFbit .LINK_LIVE 0 n else s.clrFbit .LINK_LIVE 0 n).setFld .ALERT_STAT_LINK_CHANGE 0 1

/-- The report of a change of service, which the chimney makes to itself. -/
def State.tellService (s : State) (n : Nat) (up : Bool) : State :=
  if !s.flag .NODE_ID_VALID || !s.flag .FAR_INFO_NODE_VALID n then s
  else if s.isChimney then s.noteLink (s.fld .FAR_INFO_NODE n) up
  else s.report 5 (b2n up) 0 (s.fld .FAR_INFO_NODE n)

theorem tellService_reg (s : State) (n : Nat) (up : Bool) : (s.tellService n up).reg = s.reg ∧ (s.tellService n up).mem = s.mem := by
  unfold State.tellService
  split
  · exact ⟨rfl, rfl⟩
  · split
    · exact ⟨rfl, rfl⟩
    · rw [report_rest]
      exact ⟨rfl, rfl⟩

/-- A change of service is its registers, with a report. -/
theorem setService_changed {s : State} {n : Nat} {up : Bool} (h : s.fbit .LINK_LIVE 0 n ≠ up) :
    (s.setService n up).reg = (s.serviceSet n up).reg ∧ (s.setService n up).mem = s.mem := by
  have hset : s.setService n up = (s.serviceSet n up).tellService n up := if_neg h
  have hmem : (s.serviceSet n up).mem = s.mem := by cases up <;> rfl
  obtain ⟨hr, hm⟩ := tellService_reg (s.serviceSet n up) n up
  rw [hset]
  exact ⟨hr, hm.trans hmem⟩

theorem serviceSet_leaves (s : State) (n : Nat) (up : Bool) : Leaves [.LINK_LIVE, .ALERT_STAT_LINK_CHANGE] s (s.serviceSet n up) := by
  cases up
  · exact ((Leaves.refl _ s).setFld (f := .LINK_LIVE) (by decide)).setFld (f := .ALERT_STAT_LINK_CHANGE) (by decide)
  · exact ((Leaves.refl _ s).setFld (f := .LINK_LIVE) (by decide)).setFld (f := .ALERT_STAT_LINK_CHANGE) (by decide)

theorem serviceSet_live (s : State) {n : Nat} (up : Bool) (hn : n < 24) : (s.serviceSet n up).fbit .LINK_LIVE 0 n = up := by
  have hkeep (u : State) : (u.setFld .ALERT_STAT_LINK_CHANGE 0 1).fbit .LINK_LIVE 0 n = u.fbit .LINK_LIVE 0 n :=
    congrArg (·.testBit n) (setFld_fld_ne u (by decide) 0 0 1)
  unfold State.serviceSet
  rw [hkeep]
  cases up
  · exact (clrFbit_fbit s .LINK_LIVE n (k := n) hn).trans (by simp)
  · exact (setFbit_fbit s .LINK_LIVE n (k := n) hn).trans (by simp)

theorem setService_leaves (s : State) (n : Nat) (up : Bool) : Leaves [.LINK_LIVE, .ALERT_STAT_LINK_CHANGE] s (s.setService n up) := by
  by_cases h : s.fbit .LINK_LIVE 0 n = up
  · rw [State.setService, if_pos h]
    exact .refl _ s
  · obtain ⟨hr, hm⟩ := setService_changed h
    exact (serviceSet_leaves s n up).congr hr (hm.trans (serviceSet_leaves s n up).mem.symm)

theorem setService_live (s : State) {n : Nat} (up : Bool) (hn : n < 24) : (s.setService n up).fbit .LINK_LIVE 0 n = up := by
  by_cases h : s.fbit .LINK_LIVE 0 n = up
  · rw [State.setService, if_pos h, h]
  · exact (congrArg (fun r => (mget (Fld.resetVal .LINK_LIVE 0) (Fld.key .LINK_LIVE 0) r).testBit n) (setService_changed h).1).trans
      (serviceSet_live s up hn)

theorem setService_alert {s : State} {n : Nat} {up : Bool} (h : s.fbit .LINK_LIVE 0 n ≠ up) :
    (s.setService n up).flag .ALERT_STAT_LINK_CHANGE = true :=
  (congrArg (fun r => mget (Fld.resetVal .ALERT_STAT_LINK_CHANGE 0) (Fld.key .ALERT_STAT_LINK_CHANGE 0) r != 0) (setService_changed h).1).trans
    (setFld_flag _ .ALERT_STAT_LINK_CHANGE 0 (v := 1) (by decide))

/-- Beside its service a link that falls loses only what it holds, which other links take. -/
theorem fall_reg (s : State) (n : Nat) : (s.fall n).reg = (s.setService n false).reg ∧ (s.fall n).mem = (s.setService n false).mem := by
  unfold State.fall
  extract_lets l fs s₁ s₂
  have hround (f : Frame) (u : State) :
      (match u.resendLink n f with
        | none => u
        | some k => (u.sendFirst k f).on (framePlanned f) fun s => s.setLink k { s.link k with again := (s.link k).again ++ [f] }).reg = u.reg ∧
      (match u.resendLink n f with
        | none => u
        | some k => (u.sendFirst k f).on (framePlanned f) fun s => s.setLink k { s.link k with again := (s.link k).again ++ [f] }).mem = u.mem := by
    split
    · exact ⟨rfl, rfl⟩
    · unfold State.on
      split <;> exact ⟨rfl, rfl⟩
  exact ⟨forAll_keeps State.reg _ _ (fun f _ u => (hround f u).1) s₂, forAll_keeps State.mem _ _ (fun f _ u => (hround f u).2) s₂⟩

theorem fall_fld (s : State) (n : Nat) (f : Fld) (i : Nat) : (s.fall n).fld f i = (s.setService n false).fld f i :=
  congrArg (mget (f.resetVal i) (f.key i)) (fall_reg s n).1

theorem fall_leaves (s : State) (n : Nat) : Leaves [.LINK_LIVE, .ALERT_STAT_LINK_CHANGE] s (s.fall n) :=
  (setService_leaves s n false).congr (fall_reg s n).1 (fall_reg s n).2

/-! ### Loss -/

/-- A link that is up goes down before its eighth failed retrain (R431). -/
theorem downLink_up {s : State} {n : Nat} (hlk : s.lk n = lkUp) (hf : (s.link n).failed < 8) :
    ∃ v, s.downLink n = ((((s.setFld .LINK_EVT n 1).fall n).setLink n v).bump .RETRAIN_COUNT n).train n lkRetrain := by
  refine ⟨{ ((s.setFld .LINK_EVT n 1).fall n).link n with failed := (s.link n).failed }, ?_⟩
  unfold State.downLink
  rw [if_neg (by simp [hlk, lkUp, lkDown, lkTraining])]
  dsimp only
  rw [if_neg (show ¬ s.lk n = lkRetrain by simp [hlk, lkUp, lkRetrain]), if_neg (by omega)]

/-- What the loss of a link that was in service leaves. -/
theorem lostLink_spec {s : State} {n : Nat} (hn : n < 24) (hlive : s.fbit .LINK_LIVE 0 n = true)
    (hcount : s.fld .RETRAIN_COUNT n + 1 < 2 ^ Fld.width .RETRAIN_COUNT) (v : Link) (t : State)
    (ht : t = ((((s.setFld .LINK_EVT n 1).fall n).setLink n v).bump .RETRAIN_COUNT n).train n lkRetrain) :
    t.lk n = lkRetrain ∧ t.fbit .LINK_LIVE 0 n = false ∧ t.flag .LINK_EVT n = true ∧ t.flag .ALERT_STAT_LINK_CHANGE = true ∧
      t.fld .RETRAIN_COUNT n = s.fld .RETRAIN_COUNT n + 1 ∧ ∀ a, t.byte a = s.byte a := by
  let a : State := s.setFld .LINK_EVT n 1
  let b : State := (a.fall n).setLink n v
  have hb : Leaves [.LINK_LIVE, .ALERT_STAT_LINK_CHANGE] a b := (fall_leaves a n).congr rfl rfl
  have hbf (f : Fld) (i : Nat) : b.fld f i = (a.setService n false).fld f i := fall_fld a n f i
  have hcb : b.fld .RETRAIN_COUNT n = s.fld .RETRAIN_COUNT n := (hb.flds _ n (by decide)).trans (setFld_fld_ne s (by decide) n n 1)
  have hd : Leaves [.RETRAIN_COUNT] b (b.bump .RETRAIN_COUNT n) := (Leaves.refl _ b).bump (by decide)
  have htr : Leaves trainFlds (b.bump .RETRAIN_COUNT n) t := ht ▸ (Leaves.refl _ _).train (by decide) n lkRetrain
  have hkeep (f : Fld) (i : Nat) (h1 : f ∉ trainFlds) (h2 : f ∉ [Fld.RETRAIN_COUNT]) : t.fld f i = b.fld f i :=
    (htr.flds f i h1).trans (hd.flds f i h2)
  have halive : a.fbit .LINK_LIVE 0 n = true := (congrArg (·.testBit n) (setFld_fld_ne s (by decide) n 0 1)).trans hlive
  refine ⟨ht ▸ train_lk _ n lkRetrain (by decide), ?_, ?_, ?_, ?_, fun x => ?_⟩
  · exact (congrArg (·.testBit n) ((hkeep _ 0 (by decide) (by decide)).trans (hbf _ 0))).trans (setService_live a false hn)
  · refine (flag_eq ((hkeep _ n (by decide) (by decide)).trans (hb.flds _ n (by decide)))).trans ?_
    exact setFld_flag s .LINK_EVT n (v := 1) (by decide)
  · exact (flag_eq ((hkeep _ 0 (by decide) (by decide)).trans (hbf _ 0))).trans (setService_alert (by simp [halive]))
  · refine (htr.flds _ n (by decide)).trans ((bump_fld_self ?_).trans ?_) <;> rw [hcb]
    exact hcount
  · exact (htr.byte x).trans ((hd.byte x).trans (hb.byte x))

/-! ### Lock, settling and return -/

theorem sendLink_txq (s : State) (n : Nat) (f : Frame) : ((s.sendLink n f).link n).txq = (s.link n).txq ++ [f] :=
  congrArg Link.txq (setLink_link_same ..)

theorem blockLock_spec {s : State} {n : Nat} (h : s.lk n = lkTraining ∨ s.lk n = lkRetrain) :
    (s.blockLock n).lk n = lkIdent ∧ s.identFrame n ∈ ((s.blockLock n).link n).txq ∧ Leaves [.LINK_STAT_STATE] s (s.blockLock n) := by
  unfold State.blockLock
  rw [if_neg (by rcases h with h | h <;> simp [h, lkTraining, lkRetrain])]
  extract_lets u
  have hlk : u.lk n = lkIdent := setFld_fld_same s .LINK_STAT_STATE n lkIdent
  have htx : s.identFrame n ∈ (u.link n).txq := by
    rw [show u = (s.setLk n lkIdent).sendLink n (s.identFrame n) from rfl, sendLink_txq]
    exact List.mem_append_right _ List.mem_cons_self
  have hu : Leaves [.LINK_STAT_STATE] s u := ((Leaves.refl _ s).setFld (f := .LINK_STAT_STATE) (i := n) (v := lkIdent) (by decide)).sendLink
  clear_value u
  unfold State.on
  split
  · exact ⟨hlk, htx, hu.congr rfl rfl⟩
  · exact ⟨hlk, htx, hu⟩

/-- The registers that a link's return writes. -/
def returnFlds : List Fld := [.LINK_LAT, .LINK_STAT_STATE, .LINK_STAT_HOLD_CAUSE]

theorem hold_spec (s : State) (n : Nat) {c : Nat} (hc : c < 16) :
    (s.hold n c).lk n = lkHeld ∧ (s.hold n c).fld .LINK_STAT_HOLD_CAUSE n = c ∧
      Leaves [.LINK_STAT_STATE, .LINK_STAT_HOLD_CAUSE] s (s.hold n c) ∧ (s.hold n c).links = s.links :=
  ⟨(setFld_fld_ne _ (by decide) n n c).trans (setFld_fld_same s .LINK_STAT_STATE n lkHeld),
    (setFld_fld_same _ .LINK_STAT_HOLD_CAUSE n c).trans (Nat.mod_eq_of_lt hc),
    ((Leaves.refl _ s).setFld (f := .LINK_STAT_STATE) (by decide)).setFld (f := .LINK_STAT_HOLD_CAUSE) (by decide), rfl⟩

/-- The state of a link with a new measurement. -/
theorem measured_returns {s : State} {n : Nat} (hlk : s.lk n = lkIdent) (hlat : s.latOf n ≤ 1024) :
    s.measured n = if (s.link n).kindleLat.any (s.latOf n ≤ ·) then
        (s.setFld .LINK_LAT n (min (s.latOf n) 2047)).setLink n { s.link n with probes := 0, maxTrip := 0, rejoin := true }
      else ((s.setFld .LINK_LAT n (min (s.latOf n) 2047)).setLink n { s.link n with probes := 0, maxTrip := 0 }).hold n heldLatOver := by
  have hl : (s.setFld .LINK_LAT n (min (s.latOf n) 2047)).lk n = lkIdent := (setFld_fld_ne s (by decide) n n _).trans hlk
  unfold State.measured
  dsimp only
  rw [if_neg (by omega), if_pos hl]
  rfl

theorem setLat_fld (s : State) (n : Nat) {lat : Nat} (h : lat ≤ 1024) : (s.setFld .LINK_LAT n (min lat 2047)).fld .LINK_LAT n = lat := by
  rw [setFld_fld_same, Nat.min_eq_left (by omega)]
  exact Nat.mod_eq_of_lt (Nat.lt_of_le_of_lt h (by decide))

end Sys2Proof.Machine

open Sys2Proof Sys2Proof.Machine

/-- Settles O36: each event writes the link's state, its service and its own books, in this order. -/
theorem linkStates : Obligations.LinkStates := by
  intro s n hrun
  refine ⟨fun h => ⟨_, rfl, ?_⟩, fun h => ⟨_, rfl, ?_⟩, fun hlk hf hlive hcount => ⟨_, rfl, ?_⟩, fun hlk hp hlat => ⟨_, rfl, ?_⟩⟩
  · rw [running_run hrun]
    obtain ⟨hl, htx, hk⟩ := blockLock_spec h
    exact ⟨hl, htx, hk.byte, fun f i hf => hk.flds f i (by simpa using hf)⟩
  · have hon : s.on (s.lk n = lkTraining || s.lk n = lkRetrain) (fun s => (s.setLink n { s.link n with timedOut := true }).tryLocked) =
        (s.setLink n { s.link n with timedOut := true }).tryLocked := by
      rcases h with h | h <;> simp [State.on, h]
    rw [running_run hrun, hon]
    have hv : ((s.setLink n { s.link n with timedOut := true }).link n).timedOut = true := congrArg Link.timedOut (setLink_link_same ..)
    have hm : (s.setLink n { s.link n with timedOut := true }).mem = s.mem := rfl
    generalize s.setLink n { s.link n with timedOut := true } = u at hv hm
    have hsame := (tryLocked_spec u).2.1
    have ht : (u.tryLocked.link n).timedOut = true := (congrArg (fun l => (mget ({} : Link) n l).timedOut) (congrArg State.links hsame)).trans hv
    refine ⟨ht, ?_, fun a => congrArg (mget 0 a) ((congrArg State.mem hsame).trans hm)⟩
    show State.settled u.tryLocked n = true
    rw [State.settled, ht, Bool.or_true]
  · obtain ⟨v, hv⟩ := downLink_up hlk hf
    rw [running_run hrun]
    exact lostLink_spec n.isLt hlive hcount v (s.downLink n) hv
  · have hon : s.linkReturn n = s.measured n := by simp [State.linkReturn, State.on, hlk, hp]
    rw [running_run hrun, hon, measured_returns hlk hlat]
    cases hk : (s.link n).kindleLat.any (s.latOf n ≤ ·) with
    | true => exact ⟨setLat_fld s n hlat, fun _ => ⟨congrArg Link.rejoin (setLink_link_same ..), (setFld_fld_ne s (by decide) n n _).trans hlk⟩, nofun⟩
    | false =>
      obtain ⟨hl, hc, hkeep, -⟩ := hold_spec ((s.setFld .LINK_LAT n (min (s.latOf n) 2047)).setLink n { s.link n with probes := 0, maxTrip := 0 }) n
        (c := heldLatOver) (by decide)
      exact ⟨(hkeep.flds _ n (by decide)).trans (setLat_fld s n hlat), nofun, fun _ => ⟨hl, hc⟩⟩
end

section
/-! PROOF. Receiving a block (R426, R428). -/

namespace Sys2Proof.Machine

/-- `t` differs from `s` in its links alone. -/
def SameButLinks (s t : State) : Prop := t = { s with links := t.links }

theorem setLink_sameButLinks (s : State) (n : Nat) (v : Link) : SameButLinks s (s.setLink n v) := rfl

section
variable {s t : State} (h : SameButLinks s t)
include h

theorem SameButLinks.fld (f : Fld) (i : Nat) : t.fld f i = s.fld f i := by
  rw [h]
  rfl

theorem SameButLinks.byte (a : Nat) : t.byte a = s.byte a := by
  rw [h]
  rfl

theorem SameButLinks.hasLock (n : Nat) : t.hasLock n = s.hasLock n := by
  rw [h]
  rfl

end

section
variable {s : State} {n : Nat} {b : Block}

/-- The acknowledgement that a good block brings touches what this chip has sent, and no register. -/
theorem takeAck_spec (h : blkNak b = false) :
    SameButLinks s (s.takeAck n b) ∧ ∃ un run at_, (s.takeAck n b).link n = { s.link n with unacked := un, nakRun := run, ackAt := at_ } := by
  unfold State.takeAck
  rw [h, if_neg nofun]
  split
  · exact ⟨rfl, _, _, _, rfl⟩
  · exact ⟨rfl, _, _, _, setLink_link_same ..⟩

theorem addCredit_rest (s : State) (n cls k : Nat) : (s.addCredit n cls k).links = s.links ∧ (s.addCredit n cls k).mem = s.mem := by
  unfold State.addCredit
  split <;> exact ⟨rfl, rfl⟩

/-- The link after a block that is accepted in its turn. -/
def Link.accepted (l : Link) (b : Block) : Link :=
  { l with rxNext := (l.rxNext + 1) % 4096, rxHdr := l.rxHdr ++ [b.hdr], rxData := l.rxData ++ b.data, nakOwed := none }

theorem acceptBlock_spec : (s.acceptBlock n b).link n = (s.link n).accepted b ∧ (s.acceptBlock n b).mem = s.mem := by
  obtain ⟨hl, hm⟩ := addCredit_rest (s.setLink n ((s.link n).accepted b)) n (blkClass b) (blkCount b)
  exact ⟨(congrArg (mget ({} : Link) n) hl).trans (setLink_link_same ..), hm⟩

/-- One whole frame of one header word is taken out of the streams, and nothing is left to take. -/
theorem parse_one {w : Word64} {d : List Byte} (hw : (s.link n).rxHdr = [w]) (hd : (s.link n).rxData = d) (hlen : headerLen w.toNat = some 1)
    (hroom : dataLen w.toNat ≤ d.length) (hty : 2 ≤ frameType ⟨[w], []⟩) :
    ((s.parse n 2).link n) = { s.link n with
        rxHdr := [], rxData := d.drop (dataLen w.toNat), rxq := (s.link n).rxq ++ [⟨[w], d.take (dataLen w.toNat)⟩] } ∧
      (s.parse n 2).mem = s.mem := by
  let u : State := s.setLink n { s.link n with rxHdr := [], rxData := d.drop (dataLen w.toNat) }
  have hu : u.link n = { s.link n with rxHdr := [], rxData := d.drop (dataLen w.toNat) } := setLink_link_same ..
  have hparse : s.parse n 2 = (u.setLink n { u.link n with rxq := (u.link n).rxq ++ [⟨[w], d.take (dataLen w.toNat)⟩] }).parse n 1 := by
    rw [State.parse]
    simp only [hw, hlen, hd]
    rw [if_neg (by simp; omega), if_neg (show ¬ frameType ⟨[w].take 1, d.take (dataLen w.toNat)⟩ < 2 from Nat.not_lt.mpr hty)]
    rfl
  have hend (v : State) (h : (v.link n).rxHdr = []) : v.parse n 1 = v := by
    rw [State.parse]
    simp only [h]
  have hv : (u.setLink n { u.link n with rxq := (u.link n).rxq ++ [⟨[w], d.take (dataLen w.toNat)⟩] }).link n =
      { u.link n with rxq := (u.link n).rxq ++ [⟨[w], d.take (dataLen w.toNat)⟩] } := setLink_link_same ..
  rw [hparse, hend _ (by rw [hv, hu]), hv, hu]
  exact ⟨rfl, rfl⟩

theorem receive_bad (hlock : s.hasLock n = true) (h : blkOk b = false) :
    s.receive n b = (s.bump .BLK_ERR_COUNT n).setLink n { s.link n with nakOwed := some (s.link n).rxNext } := by
  unfold State.receive
  rw [hlock, h]
  rfl

/-- What follows the acknowledgement of a good block. -/
theorem receive_good (hlock : s.hasLock n = true) (h : blkOk b = true) (hnak : blkNak b = false) :
    (512 ≤ (blkSeq b + 4096 - (s.link n).rxNext) % 4096 → s.receive n b = s.takeAck n b) ∧
      ((blkSeq b + 4096 - (s.link n).rxNext) % 4096 = 0 → s.receive n b =
        (((s.takeAck n b).acceptBlock n b).acceptHeld n ((s.takeAck n b).link n).rxHeld.length |> fun v => v.parse n ((v.link n).rxHdr.length + 1))) := by
  obtain ⟨hsame, un, run, at_, hl⟩ := takeAck_spec (s := s) (n := n) hnak
  have hlock' : (s.takeAck n b).hasLock n = true := (hsame.hasLock n).trans hlock
  have hnext : ((s.takeAck n b).link n).rxNext = (s.link n).rxNext := (congrArg Link.rxNext hl :)
  refine ⟨fun hd => ?_, fun hd => ?_⟩ <;> unfold State.receive <;> rw [hlock, h, if_neg nofun, if_neg nofun] <;> dsimp only <;>
    rw [hlock', hnext]
  · rw [if_pos (by simpa using hd)]
  · rw [hd, if_neg (by decide), if_neg (by decide)]

end
end Sys2Proof.Machine

open Sys2Proof Sys2Proof.Machine

/-- Settles O37: a bad block owes its NAK; a good one brings its acknowledgement and, in its turn, its header word and data. -/
theorem blockReceive : Obligations.BlockReceive := by
  intro s n b hrun hwf hlock
  have hexec : exec (.blockReceive n b) s = .next (s.running fun s => s.receive n b) := liveIf_true s _ hwf
  have hlen : b.data.length = 184 := of_decide_eq_true hwf
  refine ⟨fun hbad hcount => ⟨_, hexec, ?_⟩, fun hok hnak hseq hmax hhdr hdata hheld h1 hd hty => ⟨_, hexec, ?_⟩, fun hok hnak hd => ⟨_, hexec, ?_⟩⟩ <;>
    rw [running_run hrun]
  · rw [receive_bad hlock hbad]
    have hv : ((s.bump .BLK_ERR_COUNT n).setLink n { s.link n with nakOwed := some (s.link n).rxNext }).link n =
        { s.link n with nakOwed := some (s.link n).rxNext } := setLink_link_same ..
    exact ⟨bump_fld_self hcount, (congrArg Link.nakOwed hv :), (congrArg Link.rxNext hv :), (congrArg Link.rxq hv :),
      fun a => congrArg (mget 0 a) (bump_mem s .BLK_ERR_COUNT n 1)⟩
  · obtain ⟨hsame, un, run, at_, hl⟩ := takeAck_spec (s := s) (n := n) hnak
    have hturn : (blkSeq b + 4096 - (s.link n).rxNext) % 4096 = 0 := by
      rw [hseq, Nat.add_sub_cancel_left]
    obtain ⟨ha, hm⟩ := acceptBlock_spec (s := s.takeAck n b) (n := n) (b := b)
    rw [(receive_good hlock hok hnak).2 hturn]
    have hheld' : ((s.takeAck n b).link n).rxHeld.length = 0 := by rw [hl, hheld]; rfl
    rw [hheld']
    have hbyte (x : Nat) : (s.takeAck n b).byte x = s.byte x := hsame.byte x
    generalize s.takeAck n b = u at *
    generalize u.acceptBlock n b = v at *
    rw [hl] at ha
    have hh : (v.link n).rxHdr = [b.hdr] := by rw [ha]; simp [Link.accepted, hhdr]
    have hdat : (v.link n).rxData = b.data := by rw [ha]; simp [Link.accepted, hdata]
    obtain ⟨hp, hpm⟩ := parse_one hh hdat h1 (by omega) hty
    have hend : ((v.acceptHeld n 0) |> fun v => v.parse n ((v.link n).rxHdr.length + 1)) = v.parse n 2 := by
      show v.parse n ((v.link n).rxHdr.length + 1) = _
      rw [hh]
      rfl
    rw [hend]
    have hq : (v.link n).rxq = (s.link n).rxq := (congrArg Link.rxq ha :)
    have hn : (v.link n).rxNext = ((s.link n).rxNext + 1) % 4096 := (congrArg Link.rxNext ha :)
    exact ⟨(congrArg Link.rxq hp :).trans (congrArg (· ++ _) hq), (congrArg Link.rxNext hp :).trans hn, (congrArg Link.rxHdr hp :),
      fun x => (congrArg (mget 0 x) (hpm.trans hm)).trans (hbyte x)⟩
  · rw [(receive_good hlock hok hnak).1 hd]
    obtain ⟨hsame, un, run, at_, hl⟩ := takeAck_spec (s := s) (n := n) hnak
    exact ⟨(congrArg Link.rxq hl :), (congrArg Link.rxNext hl :), hsame.fld, hsame.byte⟩
end

section
/-! PROOF. Frames that their own commands take: identity records, probes and markers (R424, R430, R435, R436, R438 to R440). -/

namespace Sys2Proof.Machine

/-! ### A command's effect, in the frame of the running chip -/

/-- `t` is `u` in the frame of a command of the running chip. -/
structure Ran (u t : State) : Prop where
  rest : t = { u with pending := t.pending, power := t.power, fuses := t.fuses, thermtripLow := t.thermtripLow }

theorem live_ran {s : State} (hrun : s.power = .run) (f : State → State) : ∃ t, live s f = .next t ∧ Ran (f s) t :=
  ⟨_, rfl, ⟨by rw [running_run hrun]⟩⟩

section
variable {u t : State} (h : Ran u t)
include h

theorem Ran.reg : t.reg = u.reg := by rw [h.rest]
theorem Ran.fld (f : Fld) (i : Nat) : t.fld f i = u.fld f i := by rw [h.rest]; rfl
theorem Ran.flag (f : Fld) (i : Nat) : t.flag f i = u.flag f i := flag_eq (h.fld f i)
theorem Ran.fbit (f : Fld) (i n : Nat) : t.fbit f i n = u.fbit f i n := congrArg (·.testBit n) (h.fld f i)
theorem Ran.lk (n : Nat) : t.lk n = u.lk n := h.fld .LINK_STAT_STATE n
theorem Ran.shd (f : Fld) (i : Nat) : t.shd f i = u.shd f i := by rw [h.rest]; rfl
theorem Ran.mem : t.mem = u.mem := by rw [h.rest]
theorem Ran.byte (a : Nat) : t.byte a = u.byte a := congrArg (mget 0 a) h.mem
theorem Ran.bytes (a n : Nat) : t.bytes a n = u.bytes a n := by
  unfold State.bytes
  simp only [h.byte]
theorem Ran.clk : t.clk = u.clk := by rw [h.rest]
theorem Ran.node : t.node = u.node := by rw [h.rest]
theorem Ran.tk : t.tk = u.tk := by rw [h.rest]
theorem Ran.tickOut : t.tickOut = u.tickOut := by rw [h.rest]
theorem Ran.tickOutAt : t.tickOutAt = u.tickOutAt := by rw [h.rest]
theorem Ran.taken : t.taken = u.taken := by rw [h.rest]
theorem Ran.posted : t.posted = u.posted := by rw [h.rest]
theorem Ran.reads : t.reads = u.reads := by rw [h.rest]
theorem Ran.flights : t.flights = u.flights := by rw [h.rest]
theorem Ran.reshards : t.reshards = u.reshards := by rw [h.rest]
theorem Ran.heat : t.heat = u.heat := by rw [h.rest]
theorem Ran.heatSt (k : Nat) : t.heatSt k = u.heatSt k := congrArg (mget 0 k) h.heat
theorem Ran.commits : t.commits = u.commits := by rw [h.rest]
theorem Ran.units : t.units = u.units := by rw [h.rest]
theorem Ran.seqs : t.seqs = u.seqs := by rw [h.rest]
theorem Ran.xb : t.xb = u.xb := by rw [h.rest]
theorem Ran.bus : t.bus = u.bus := by rw [h.rest]
theorem Ran.pipes : t.pipes = u.pipes := by rw [h.rest]
theorem Ran.link (k : Nat) : t.link k = u.link k := congrArg (mget ({} : Link) k) (by rw [h.rest])
theorem Ran.plan (k : Nat) : t.plan k = u.plan k := congrArg (mget ({} : Plan) k) (by rw [h.rest])
theorem Ran.hearth (k : Nat) : t.hearth k = u.hearth k := congrArg (mget ({} : Hearth) k) (by rw [h.rest])
theorem Ran.chan (k : Nat) : t.chan k = u.chan k := congrArg (mget ({} : Chan) k) (by rw [h.rest])
theorem Ran.ember (k : Nat) : t.ember k = u.ember k := congrArg (mget ({} : Ember) k) (by rw [h.rest])
theorem Ran.seq (k : Nat) : t.seq k = u.seq k := congrArg (mget ({} : Seq) k) h.seqs
theorem Ran.tag (q g : Nat) : t.tag q g = u.tag q g := congrArg (mget ({} : SpecTag) (q * 256 + g)) (by rw [h.rest])

theorem Ran.asked : t.asked = u.asked := by
  have hn : t.within 1024 = u.within 1024 := by
    unfold State.within State.tickLen
    rw [h.fld, h.tk, show t.cyc = u.cyc by rw [h.rest]]
  unfold State.asked
  rw [hn, h.tk]

end

/-! ### A frame is taken from its link -/

/-- `t` is `s` after a frame has been taken from a link, if it was there: receive buffers and owed credits alone have changed. -/
structure TookFrame (s t : State) : Prop where
  rest : SameButLinks s t
  link : ∀ k, ∃ q a b, t.link k = { s.link k with rxq := q, owedReq := a, owedRsp := b }

theorem TookFrame.refl (s : State) : TookFrame s s := ⟨rfl, fun _ => ⟨_, _, _, rfl⟩⟩

theorem owe_spec (l : Link) (f : Frame) : ∃ a b, l.owe f = { l with owedReq := a, owedRsp := b } := by
  unfold Link.owe
  split <;> exact ⟨_, _, rfl⟩

theorem takeFrame_took (s : State) (n : Nat) (f : Frame) : TookFrame s (s.takeFrame n f) := by
  unfold State.takeFrame State.on
  split
  · refine ⟨rfl, fun k => ?_⟩
    obtain ⟨a, b, h⟩ := owe_spec { s.link n with rxq := (s.link n).rxq.erase f } f
    by_cases hk : k = n
    · subst hk
      rw [setLink_link_same, h]
      exact ⟨_, a, b, rfl⟩
    · rw [setLink_link_other s hk]
      exact ⟨_, _, _, rfl⟩
  · exact .refl s

theorem onFrame_took {s : State} {f : Frame} (h : reservedOk f = true) (n : Nat) (g : State → State) :
    ∃ u, TookFrame s u ∧ s.onFrame n f g = g u :=
  ⟨_, takeFrame_took s n f, by
    unfold State.onFrame
    rw [h]
    rfl⟩

theorem onFrameAny_took {s : State} {f : Frame} (h : reservedOk f = true) (g : State → State) :
    ∃ u, TookFrame s u ∧ s.onFrameAny f g = g u := by
  unfold State.onFrameAny
  split
  · exact onFrame_took h _ g
  · exact ⟨s, .refl s, by rw [h, if_pos rfl]⟩

section
variable {s t : State} (h : TookFrame s t)
include h

theorem TookFrame.reg : t.reg = s.reg := by rw [h.rest]
theorem TookFrame.fld (f : Fld) (i : Nat) : t.fld f i = s.fld f i := h.rest.fld f i
theorem TookFrame.flag (f : Fld) (i : Nat) : t.flag f i = s.flag f i := flag_eq (h.fld f i)
theorem TookFrame.leaves : Leaves [] s t := ⟨by rw [h.rest], fun f i _ => h.fld f i⟩
theorem TookFrame.node : t.node = s.node := by rw [h.rest]
theorem TookFrame.tk : t.tk = s.tk := by rw [h.rest]
theorem TookFrame.far (k : Nat) : (t.link k).far = (s.link k).far := by
  obtain ⟨q, a, b, hl⟩ := h.link k
  exact (congrArg Link.far hl :)

end

/-! ### Service of a link whose far end fits -/

theorem sendLink_reg (s : State) (n : Nat) (f : Frame) : (s.sendLink n f).reg = s.reg := rfl

theorem candidacy_leaves {fs : List Fld} {r s : State} (h : Leaves fs r s) (n : Nat) : Leaves fs r (s.candidacy n) := h.on fun h => h.sendLink

/-- The registers that a link's coming into service writes. -/
def serveFlds : List Fld := [.LINK_STAT_STATE, .LINK_STAT_HOLD_CAUSE, .LINK_LIVE, .ALERT_STAT_LINK_CHANGE]

theorem serve_spec (s : State) {n : Nat} (hn : n < 24) :
    (s.serve n).lk n = lkUp ∧ (s.serve n).fbit .LINK_LIVE 0 n = true ∧ Leaves serveFlds s (s.serve n) := by
  let u : State := (s.setLk n lkUp).setFld .LINK_STAT_HOLD_CAUSE n 0
  have hu : Leaves serveFlds s u := ((Leaves.refl _ s).setFld (f := .LINK_STAT_STATE) (by decide)).setFld (f := .LINK_STAT_HOLD_CAUSE) (by decide)
  have hlk : u.lk n = lkUp := (setFld_fld_ne _ (by decide) n n 0).trans (setFld_fld_same s .LINK_STAT_STATE n lkUp)
  have hserve : ∃ v, s.serve n = ((u.setService n true).setLink n v).candidacy n := ⟨_, rfl⟩
  obtain ⟨v, hv⟩ := hserve
  have hc : Leaves [] ((u.setService n true).setLink n v) (s.serve n) := hv ▸ candidacy_leaves (.refl _ _) n
  have hs := setService_leaves u n true
  have hkeep (f : Fld) (i : Nat) : (s.serve n).fld f i = (u.setService n true).fld f i := hc.flds f i (by simp)
  exact ⟨(hkeep _ n).trans ((hs.flds _ n (by decide)).trans hlk),
    (congrArg (·.testBit n) (hkeep .LINK_LIVE 0)).trans (setService_live u true hn),
    (hu.trans ((hs.mono (by decide)).congr (t := (u.setService n true).setLink n v) rfl rfl)).trans (hc.mono (by simp))⟩

/-- The registers in which a joining node shows how far it is. -/
def joinFlds : List Fld := [.JOIN_STAT_JSTATE, .JOIN_STAT_JCAUSE]

theorem tryJoin_leaves (s : State) : Leaves joinFlds s s.tryJoin := by
  unfold State.tryJoin
  split
  · exact .refl _ s
  · refine .ite (.refl _ s) (.ite ?_ ?_)
    · exact ((Leaves.refl _ s).setFld (f := .JOIN_STAT_JSTATE) (by decide)).setFld (f := .JOIN_STAT_JCAUSE) (by decide)
    · exact ((Leaves.refl _ s).setFld (f := .JOIN_STAT_JSTATE) (by decide)).forAll fun _ _ _ k => k.sendLink

theorem identDone_cold {s : State} {n : Nat} (hn : n < 24) (hc : s.chip = chipCold) :
    (s.identDone n).lk n = lkUp ∧ (s.identDone n).fbit .LINK_LIVE 0 n = true ∧
      Leaves (serveFlds ++ joinFlds) s (s.identDone n) := by
  have hreg : (s.sendProbe n).reg = s.reg := by simp only [State.sendProbe, State.sendLink, setLink_reg]
  have hmem : (s.sendProbe n).mem = s.mem := by simp only [State.sendProbe, State.sendLink, setLink_mem]
  have hp : Leaves serveFlds s (s.sendProbe n) := (Leaves.refl _ s).congr hreg hmem
  have hcold : (s.sendProbe n).chip = chipCold := (hp.flds _ 0 (by decide)).trans hc
  have hdone : s.identDone n = ((s.sendProbe n).serve n).tryJoin := by
    unfold State.identDone
    exact if_pos hcold
  obtain ⟨hlk, hlive, hs⟩ := serve_spec (s.sendProbe n) hn
  have hj := tryJoin_leaves ((s.sendProbe n).serve n)
  rw [hdone]
  exact ⟨(hj.flds _ n (by decide)).trans hlk, (congrArg (·.testBit n) (hj.flds .LINK_LIVE 0 (by decide))).trans hlive,
    ((hp.trans hs).mono (by decide)).trans (hj.mono (by decide))⟩

/-! ### IDENT -/

theorem socketOrder_congr {s t : State} {n : Nat} (hfar : ∀ k, k ≠ n → (t.link k).far = (s.link k).far)
    (hf : ∀ i, t.fld .FAR_INFO_LINK i = s.fld .FAR_INFO_LINK i) : t.socketOrder n = s.socketOrder n := by
  unfold State.socketOrder
  refine List.all_congr rfl fun m => ?_
  by_cases hm : m = n
  · simp [hm]
  · rw [hfar m hm, hf m, hf n]

/-- The registers by which a far end is judged. -/
def judgeFlds : List Fld := [.FAR_INFO_SOCKET_POS, .FAR_INFO_LINK, .TRAY_POS_POS, .NODE_CFG_ROW_KEY]

theorem identHold_congr {s t : State} {n : Nat} (hfar : ∀ k, (t.link k).far = (s.link k).far)
    (hf : ∀ f ∈ judgeFlds, ∀ i, t.fld f i = s.fld f i) : t.identHold n = s.identHold n := by
  have ho : t.socketOrder n = s.socketOrder n := socketOrder_congr (fun k _ => hfar k) (hf _ (by decide))
  unfold State.identHold
  rw [hfar n, ho, hf .FAR_INFO_SOCKET_POS (by decide), hf .FAR_INFO_LINK (by decide), hf .TRAY_POS_POS (by decide), hf .NODE_CFG_ROW_KEY (by decide)]

theorem identHold_lt (s : State) (n : Nat) : s.identHold n < 16 := by
  unfold State.identHold
  dsimp only
  repeat' split
  all_goals decide

/-- The registers that show the far end. -/
def farFlds : List Fld := [.FAR_DIE, .FAR_INFO_ROLE, .FAR_INFO_LINK, .FAR_INFO_SOCKET_POS, .FAR_INFO_NODE, .FAR_INFO_NODE_VALID]

theorem readIdent_leaves (s : State) (n : Nat) (f : Frame) : Leaves farFlds s (s.readIdent n f) := by
  have h := (((((Leaves.refl farFlds s).setFld (f := .FAR_DIE) (i := n) (v := hdr f 1 0 64) (by decide)).setFld (f := .FAR_INFO_ROLE) (i := n)
    (v := hdr f 0 32 8) (by decide)).setFld (f := .FAR_INFO_LINK) (i := n) (v := hdr f 0 40 5) (by decide)).setFld (f := .FAR_INFO_SOCKET_POS)
    (i := n) (v := hdr f 2 32 4) (by decide)).setFld (f := .FAR_INFO_NODE) (i := n) (v := hdr f 2 40 8) (by decide)
  exact (h.setFld (f := .FAR_INFO_NODE_VALID) (i := n) (v := hdr f 2 48 1) (by decide)).congr rfl rfl

theorem readIdent_die (s : State) (n : Nat) (f : Frame) : (s.readIdent n f).fld .FAR_DIE n = hdr f 1 0 64 := by
  have hlt : hdr f 1 0 64 < 2 ^ Fld.width .FAR_DIE := bitsOf_lt _ 0 64
  unfold State.readIdent
  rw [setLink_fld_read, setFld_fld_ne _ (by decide), setFld_fld_ne _ (by decide), setFld_fld_ne _ (by decide), setFld_fld_ne _ (by decide),
    setFld_fld_ne _ (by decide), setFld_fld_same, Nat.mod_eq_of_lt hlt]

/-- The far end's record has come. -/
def State.heardFrom (s : State) (n : Nat) : State := s.setLink n { s.link n with heard := true }

/-- The credits that the far end gives. -/
def State.credited (s : State) (n : Nat) (f : Frame) : State :=
  (s.setFld .CREDITS_REQ_AVAIL n (hdr f 3 16 16)).setFld .CREDITS_RSP_AVAIL n (hdr f 3 32 16)

/-- The link's state by what its far end is. -/
def State.identJudge (s : State) (n : Nat) (f : Frame) : State :=
  if s.lk n != lkIdent then s
  else
    let s := s.credited n f
    let h := if s.flag .LINK_FORCE_NO_IDENT n then 0 else s.identHold n
    (if h = 0 then s.identDone n else s.hold n h).tryLocked

theorem ident_read {s : State} {n : Nat} {f : Frame} (h : hdr f 0 48 8 = 1) : s.ident n f = ((s.readIdent n f).heardFrom n).identJudge n f :=
  if_neg (by simp [h])

/-- The credits that are left for a link. -/
def creditFlds : List Fld := [.CREDITS_REQ_AVAIL, .CREDITS_RSP_AVAIL]

theorem credited_leaves (s : State) (n : Nat) (f : Frame) : Leaves creditFlds s (s.credited n f) :=
  ((Leaves.refl _ s).setFld (f := .CREDITS_REQ_AVAIL) (by decide)).setFld (f := .CREDITS_RSP_AVAIL) (by decide)

theorem identJudge_eq {s : State} {n : Nat} {f : Frame} (hlk : s.lk n = lkIdent) (hno : s.flag .LINK_FORCE_NO_IDENT n = false) :
    s.identJudge n f = (if (s.credited n f).identHold n = 0 then (s.credited n f).identDone n
      else (s.credited n f).hold n ((s.credited n f).identHold n)).tryLocked := by
  have hno' : (s.credited n f).flag .LINK_FORCE_NO_IDENT n = false := (flag_eq ((credited_leaves s n f).flds _ n (by decide))).trans hno
  unfold State.identJudge
  rw [if_neg (by simp [hlk])]
  dsimp only
  simp only [hno', Bool.false_eq_true, if_false]

theorem heardFrom_fld (s : State) (n : Nat) (g : Fld) (i : Nat) : (s.heardFrom n).fld g i = s.fld g i := rfl

theorem heardFrom_far (s : State) (n k : Nat) : ((s.heardFrom n).link k).far = (s.link k).far := by
  by_cases hk : k = n
  · subst hk
    exact (congrArg Link.far (setLink_link_same s k { s.link k with heard := true }) :)
  · exact congrArg Link.far (setLink_link_other s hk _)

theorem setFld_reg (s : State) (f : Fld) (i v : Nat) : (s.setFld f i v).reg = mput (f.resetVal i) (f.key i) (v % 2 ^ f.width) s.reg := rfl

theorem farSame_readIdent {s t : State} (h : TookFrame s t) (n : Nat) (f : Frame) :
    (t.readIdent n f).identHold n = (s.readIdent n f).identHold n := by
  have hreg : (t.readIdent n f).reg = (s.readIdent n f).reg := by
    unfold State.readIdent
    simp only [setLink_reg, setFld_reg, h.reg]
  refine identHold_congr (fun k => ?_) fun g _ i => congrArg (mget (g.resetVal i) (g.key i)) hreg
  unfold State.readIdent
  by_cases hk : k = n
  · subst hk
    rw [setLink_link_same, setLink_link_same]
  · rw [setLink_link_other _ hk, setLink_link_other _ hk]
    simp only [setFld_link_read, h.far k]

/-- The state in which a far end whose record has been read is judged. -/
def State.judged (s : State) (n : Nat) (f : Frame) : State := ((s.readIdent n f).heardFrom n).credited n f

/-- What a far end's record leaves before the link's state follows it. -/
theorem judged_spec {s u : State} (hu : TookFrame s u) (n : Nat) (f : Frame) :
    Leaves (farFlds ++ creditFlds) s (u.judged n f) ∧ (u.judged n f).fld .FAR_DIE n = hdr f 1 0 64 ∧
      (u.judged n f).identHold n = (s.readIdent n f).identHold n := by
  have hr := readIdent_leaves u n f
  have hdie := readIdent_die u n f
  have hsame := farSame_readIdent hu n f
  unfold State.judged
  generalize u.readIdent n f = v at *
  have hfar (k : Nat) := heardFrom_far v n k
  have hv := heardFrom_fld v n
  have hl : Leaves farFlds v (v.heardFrom n) := (Leaves.refl _ v).congr rfl rfl
  generalize v.heardFrom n = w at *
  have hw := credited_leaves w n f
  refine ⟨((hu.leaves.mono (by simp)).trans ((hr.trans hl).mono (by decide))).trans (hw.mono (by decide)),
    (hw.flds _ n (by decide)).trans ((hv _ n).trans hdie), ?_⟩
  rw [← hsame]
  exact identHold_congr hfar fun g hg i => (hw.flds g i (by revert g; decide)).trans (hv g i)

theorem ident_eq {s u : State} {n : Nat} {f : Frame} (hu : TookFrame s u) (hver : hdr f 0 48 8 = 1) (hlk : s.lk n = lkIdent)
    (hno : s.flag .LINK_FORCE_NO_IDENT n = false) :
    u.ident n f = (if (u.judged n f).identHold n = 0 then (u.judged n f).identDone n
      else (u.judged n f).hold n ((u.judged n f).identHold n)).tryLocked := by
  have hr := readIdent_leaves u n f
  have hkeep (g : Fld) (hg : g ∉ farFlds) : ((u.readIdent n f).heardFrom n).fld g n = s.fld g n := 
    (heardFrom_fld ..).trans ((hr.flds g n hg).trans (hu.fld g n))
  rw [ident_read hver]
  exact identJudge_eq ((hkeep _ (by decide)).trans hlk) ((flag_eq (hkeep _ (by decide))).trans hno)

/-! ### PROBE and ECHO -/

theorem probe_spec (s : State) (n : Nat) (f : Frame) :
    ((s.probe n f).link n).txq = (s.link n).txq ++ [localFrame 0x04 (hdr f 0 32 16 + Config.freeNat s.free % 2048 * 2 ^ 16)] ∧
      Leaves [] s (s.probe n f) :=
  ⟨sendLink_txq { s with free := s.free + 1 } n _, ((Leaves.refl _ s).congr (t := { s with free := s.free + 1 }) rfl rfl).sendLink⟩

theorem sendProbe_link (s : State) (n : Nat) :
    (s.sendProbe n).link n = { s.link n with pid := ((s.link n).pid + 1) % 65536,
                                             txq := (s.link n).txq ++ [localFrame 0x03 (((s.link n).pid + 1) % 65536)] } := by
  unfold State.sendProbe State.sendLink
  dsimp only
  rw [setLink_link_same, setLink_link_same]

theorem sendProbe_setLink (s : State) (n : Nat) (l : Link) :
    ((s.setLink n l).sendProbe n).link n = { l with pid := (l.pid + 1) % 65536, txq := l.txq ++ [localFrame 0x03 ((l.pid + 1) % 65536)] } := by
  rw [sendProbe_link, setLink_link_same]

theorem sendProbe_keeps (s : State) (n : Nat) (l : Link) :
    (∀ g i, ((s.setLink n l).sendProbe n).fld g i = s.fld g i) ∧ ∀ a, ((s.setLink n l).sendProbe n).byte a = s.byte a :=
  ⟨fun _ _ => by simp only [State.sendProbe, State.sendLink, setLink_fld_read], fun _ => by
    simp only [State.sendProbe, State.sendLink, setLink_byte_read]⟩

theorem echo_counts {s : State} {n : Nat} {f : Frame} {trip : Nat} (hpid : hdr f 0 32 16 = (s.link n).pid) (hp : (s.link n).probes < 63) :
    s.echo n f trip = (s.setLink n { s.link n with probes := (s.link n).probes + 1,
                                                   maxTrip := max (s.link n).maxTrip (trip - hdr f 0 48 11) }).sendProbe n := by
  unfold State.echo
  dsimp only
  rw [if_neg (by simp [hpid]; omega), if_pos (by omega)]

end Sys2Proof.Machine

open Sys2Proof Sys2Proof.Machine

/-- Settles O38: the record is read first, and what it says decides; a probe's answer and the next probe are the only frames. -/
theorem identityAndProbes : Obligations.IdentityAndProbes := by
  refine ⟨fun s n f hrun hf hres hver hlk hchip hno => ?_, fun s n f hrun hf hres => ?_, fun s n f trip hrun hf hres hpid hp => ?_⟩
  · obtain ⟨u, hu, hframe⟩ := onFrame_took hres n (fun s => s.ident n f)
    obtain ⟨t, ht, hr⟩ := live_ran hrun fun s => s.onFrame n f fun s => s.ident n f
    have hexec : exec (.ident n f) s = .next t := (if_pos hf).trans ht
    rw [hframe, ident_eq hu hver hlk hno] at hr
    obtain ⟨hk, hdie, hhold⟩ := judged_spec hu n f
    have hcold : (u.judged n f).chip = chipCold := (hk.flds _ 0 (by decide)).trans hchip
    generalize u.judged n f = v at *
    rw [hhold] at hr
    refine ⟨fun h0 => ⟨t, hexec, ?_⟩, fun h0 => ⟨t, hexec, ?_⟩⟩
    · rw [if_pos h0] at hr
      obtain ⟨hup, hl, hd⟩ := identDone_cold (s := v) n.isLt hcold
      obtain ⟨-, hsame, ht⟩ := tryLocked_spec (v.identDone n)
      exact ⟨(hr.lk n).trans ((ht _ n (by decide)).trans hup), (hr.fbit ..).trans ((congrArg (·.testBit n) (ht .LINK_LIVE 0 (by decide))).trans hl),
        (hr.fld ..).trans ((ht _ n (by decide)).trans ((hd.flds _ n (by decide)).trans hdie)),
        fun a => (hr.byte a).trans ((hsame.byte a).trans ((hd.byte a).trans (hk.byte a)))⟩
    · rw [if_neg h0] at hr
      obtain ⟨hheld, hcause, hd, -⟩ := hold_spec v n (identHold_lt (s.readIdent n f) n)
      obtain ⟨-, hsame, ht⟩ := tryLocked_spec (v.hold n ((s.readIdent n f).identHold n))
      exact ⟨(hr.lk n).trans ((ht _ n (by decide)).trans hheld), (hr.fld ..).trans ((ht _ n (by decide)).trans hcause),
        (hr.fld ..).trans ((ht _ n (by decide)).trans ((hd.flds _ n (by decide)).trans hdie)),
        (hr.fld ..).trans ((ht _ 0 (by decide)).trans ((hd.flds _ 0 (by decide)).trans (hk.flds _ 0 (by decide)))),
        fun a => (hr.byte a).trans ((hsame.byte a).trans ((hd.byte a).trans (hk.byte a)))⟩
  · obtain ⟨u, hu, hframe⟩ := onFrame_took hres n (fun s => s.probe n f)
    obtain ⟨t, ht, hr⟩ := live_ran hrun fun s => s.onFrame n f fun s => s.probe n f
    rw [hframe] at hr
    obtain ⟨htx, hkeep⟩ := probe_spec u n f
    refine ⟨t, Config.freeNat u.free % 2048, (if_pos hf).trans ht, Nat.mod_lt _ (by decide), ?_,
      fun g i => (hr.fld g i).trans ((hkeep.flds g i (by simp)).trans (hu.fld g i)),
      fun a => (hr.byte a).trans ((hkeep.byte a).trans (hu.leaves.byte a))⟩
    rw [hr.link, htx]
    exact List.mem_append_right _ List.mem_cons_self
  · obtain ⟨u, hu, hframe⟩ := onFrame_took hres n (fun s => s.echo n f trip)
    obtain ⟨t, ht, hr⟩ := live_ran hrun fun s => s.onFrame n f fun s => s.echo n f trip
    obtain ⟨q, a, b, hl⟩ := hu.link n
    have hpid' : (u.link n).pid = (s.link n).pid := (congrArg Link.pid hl :)
    have hprobes : (u.link n).probes = (s.link n).probes := (congrArg Link.probes hl :)
    have htrip : (u.link n).maxTrip = (s.link n).maxTrip := (congrArg Link.maxTrip hl :)
    rw [hframe, echo_counts (hpid.trans hpid'.symm) (by omega)] at hr
    obtain ⟨l, hl⟩ : ∃ l, l = { u.link n with probes := (u.link n).probes + 1, maxTrip := max (u.link n).maxTrip (trip - hdr f 0 48 11) } := ⟨_, rfl⟩
    rw [← hl] at hr
    obtain ⟨hfld, hbyte⟩ := sendProbe_keeps u n l
    have hlp : l.pid = (s.link n).pid := (congrArg Link.pid hl :).trans hpid'
    refine ⟨t, (if_pos hf).trans ht, ?_, ?_, ?_, fun g i => (hr.fld g i).trans ((hfld g i).trans (hu.fld g i)),
      fun x => (hr.byte x).trans ((hbyte x).trans (hu.leaves.byte x))⟩ <;> rw [hr.link, sendProbe_setLink]
    · exact (congrArg Link.probes hl :).trans (congrArg (· + 1) hprobes)
    · exact (congrArg Link.maxTrip hl :).trans (congrArg (max · _) htrip)
    · rw [hlp]
      exact List.mem_append_right _ List.mem_cons_self
end

section
/-! PROOF. Markers that a follower takes, reports that reach the chimney, and the election (R435 to R437, R441, R449, R551). -/

namespace Sys2Proof.Machine

/-! ### Frames on many links -/

theorem sendLink_mem {s : State} {k : Nat} {f : Frame} (h : f ∈ (s.link k).txq) (n : Nat) (g : Frame) : f ∈ ((s.sendLink n g).link k).txq := by
  by_cases hk : k = n
  · subst hk
    rw [sendLink_txq]
    exact List.mem_append_left _ h
  · rw [State.sendLink, setLink_link_other s hk]
    exact h

/-- A frame that is flooded waits on every link but the one that is left out. -/
theorem floodExcept_mem (s : State) {skip : Option Nat} {ls : List Nat} {k : Nat} (hk : k ∈ ls) (hs : some k ≠ skip) (f : Frame) :
    f ∈ ((s.floodExcept skip ls f).link k).txq := by
  have hin : k ∈ ls.filter fun n => some n != skip := List.mem_filter.mpr ⟨hk, by simpa using hs⟩
  exact forAll_reached (fun u => f ∈ (u.link k).txq) hin _ (fun u => by
    rw [sendLink_txq]
    exact List.mem_append_right _ List.mem_cons_self) (fun n _ u h => sendLink_mem h n f) s

/-! ### A marker -/

/-- What a marker's time of arrival leaves (R447, R497). -/
theorem spaced_spec (s : State) (b : Nat) :
    Leaves [.CLK_STAT_GRADE_CONFLICT] s ((s.spacing b).moveBoundary b) ∧ ((s.spacing b).moveBoundary b).links = s.links ∧
      ((s.spacing b).moveBoundary b).node = s.node ∧ ((s.spacing b).moveBoundary b).clk = s.clk := by
  have hmove (u : State) : Leaves [] u (u.moveBoundary b) ∧ (u.moveBoundary b).links = u.links ∧ (u.moveBoundary b).node = u.node ∧
      (u.moveBoundary b).clk = u.clk := by
    unfold State.moveBoundary State.on
    split
    · exact ⟨(Leaves.refl _ u).congr rfl rfl, rfl, rfl, rfl⟩
    · exact ⟨.refl _ u, rfl, rfl, rfl⟩
  obtain ⟨hl, hlinks, hnode, hclk⟩ := hmove (s.spacing b)
  have hspace : Leaves [.CLK_STAT_GRADE_CONFLICT] s (s.spacing b) ∧ (s.spacing b).links = s.links ∧ (s.spacing b).node = s.node ∧
      (s.spacing b).clk = s.clk := by
    unfold State.spacing
    extract_lets k ok good seen u
    have hu : Leaves [.CLK_STAT_GRADE_CONFLICT] s u := (Leaves.refl _ s).congr rfl rfl
    have hk : u.links = s.links ∧ u.node = s.node ∧ u.clk = s.clk := ⟨rfl, rfl, rfl⟩
    clear_value u
    unfold State.on
    split
    · exact ⟨hu.setFld (by decide), hk⟩
    · exact ⟨hu, hk⟩
  obtain ⟨hs, h1, h2, h3⟩ := hspace
  exact ⟨hs.trans (hl.mono (by simp)), hlinks.trans h1, hnode.trans h2, hclk.trans h3⟩

/-- The marker that a follower hands on is on every other link, and on TICK_OUT where that is on. -/
def State.handOn (s : State) (n : Nat) (m : Mark) : State :=
  forAll (s.upLinks.filter (· != n)) (fun k t => t.setLink k { t.link k with markAt := some t.clk })
    ((s.driveOut m).floodExcept (some n) s.upLinks (markerFrame m))

theorem handOn_spec (s : State) (n : Nat) (m : Mark) :
    (s.handOn n m).tk = s.tk ∧ (∀ k ∈ s.upLinks, k ≠ n → markerFrame m ∈ ((s.handOn n m).link k).txq) ∧
      (s.flag .TICK_CFG_TICK_OUT_EN = true → (s.handOn n m).tickOut = tickOutBits m ∧ (s.handOn n m).tickOutAt = s.clk) ∧
      (s.handOn n m).mem = s.mem := by
  have hdrive : (s.driveOut m).tk = s.tk ∧ (s.driveOut m).mem = s.mem := by
    unfold State.driveOut
    split <;> exact ⟨rfl, rfl⟩
  have hflood := floodExcept_rest (s.driveOut m) (some n) s.upLinks (markerFrame m)
  have htx {k : Nat} (hk : k ∈ s.upLinks) (hne : k ≠ n) := floodExcept_mem (s.driveOut m) (skip := some n) hk (by simpa using hne) (markerFrame m)
  unfold State.handOn
  generalize (s.driveOut m).floodExcept (some n) s.upLinks (markerFrame m) = u at *
  have hkeep {β : Type} (g : State → β) (hg : ∀ (v : State) k l, g (v.setLink k l) = g v) :
      g (forAll (s.upLinks.filter (· != n)) (fun k t => t.setLink k { t.link k with markAt := some t.clk }) u) = g u :=
    forAll_keeps g _ _ (fun k _ v => hg v k _) u
  refine ⟨(hkeep State.tk fun _ _ _ => rfl).trans ?_, fun k hk hne => ?_, fun hon => ⟨(hkeep State.tickOut fun _ _ _ => rfl).trans ?_,
    (hkeep State.tickOutAt fun _ _ _ => rfl).trans ?_⟩, (hkeep State.mem fun _ _ _ => rfl).trans ?_⟩
  · rw [hflood]
    exact hdrive.1
  · refine forAll_rel (R := fun v w => markerFrame m ∈ (v.link k).txq → markerFrame m ∈ (w.link k).txq) (fun _ => id) (fun h h' x => h' (h x)) _ _
      (fun j _ v hv => ?_) u (htx hk hne)
    by_cases hj : k = j
    · subst hj
      rw [setLink_link_same]
      exact hv
    · rw [setLink_link_other v hj]
      exact hv
  · rw [hflood, State.driveOut, if_pos hon]
  · rw [hflood, State.driveOut, if_pos hon]
  · rw [hflood]
    exact hdrive.2

/-- The node's book of the tick once the marker has arrived. -/
def State.arrivedAt (s : State) (n : Nat) (m : Mark) (late : Nat) : State :=
  let s := (s.spacing (s.markerAt n m)).moveBoundary (s.markerAt n m)
  { s with tk := { s.tk with
      arrived := some m
      maxMarker := if s.chip = chipKindling && s.fld .TICK_STAT_KINDLE_TICK ≤ 63 then max s.tk.maxMarker late else s.tk.maxMarker } }

theorem marker_followed {s : State} {n late : Nat} {f : Frame} (hc : s.isChimney = false) (hsrc : s.tickSrc = 2) (hl : s.srcLink = n)
    (hv : s.flag .NODE_ID_VALID = true) :
    s.marker n f late = (s.arrivedAt n (readMark f) late).handOn n
      { readMark f with hops := (readMark f).hops + 1, lead := s.markerAt n (readMark f) - (s.arrivedAt n (readMark f) late).clk } := by
  have harr : (s.arrivedAt n (readMark f) late).tickSrc = 2 := by
    obtain ⟨hk, -, hnode, -⟩ := spaced_spec s (s.markerAt n (readMark f))
    rw [← hsrc]
    unfold State.arrivedAt State.tickSrc
    generalize (s.spacing (s.markerAt n (readMark f))).moveBoundary (s.markerAt n (readMark f)) = v at *
    show (if v.node.eff then v.fld .ELECT_STAT_EFF_SRC else v.fld .TICK_CFG_TICK_SRC) = _
    rw [hnode, hk.flds _ 0 (by decide), hk.flds _ 0 (by decide)]
  unfold State.marker
  extract_lets m b u worst _ v
  rw [if_neg (by simp [hc, hsrc, hl]), if_neg (by simp [hv])]
  have hv : v.tickSrc = 2 := harr
  rw [if_neg (by rw [hv]; decide)]
  rfl

theorem marker_ignored {s : State} {n late : Nat} {f : Frame} (h : s.isChimney = true ∨ (s.tickSrc = 2 ∧ s.srcLink ≠ n)) :
    s.marker n f late = s := by
  unfold State.marker
  rcases h with h | ⟨hsrc, hne⟩
  · exact if_pos (by simp [h])
  · exact if_pos (by simp [hsrc, Ne.symm hne])

end Sys2Proof.Machine

open Sys2Proof Sys2Proof.Machine

/-- Settles O39: what the marker's time leaves keeps the links in service, over which the marker is flooded. -/
theorem markerIsFollowed : Obligations.MarkerIsFollowed := by
  refine ⟨fun s n f late hrun hf hres hc hsrc hl hv => ?_, fun s n f late hrun hf hres h => ?_⟩ <;>
    obtain ⟨u, hu, hframe⟩ := onFrame_took hres n (fun s => s.marker n f late) <;>
    obtain ⟨t, ht, hr⟩ := live_ran hrun fun s => s.onFrame n f fun s => s.marker n f late <;>
    rw [hframe] at hr
  · have hsrc' : u.tickSrc = 2 := by
      simp only [State.tickSrc, hu.node, hu.fld]
      exact hsrc
    have hl' : u.srcLink = n := by
      simp only [State.srcLink, hu.node, hu.fld]
      exact hl
    rw [marker_followed ((hu.flag ..).trans hc) hsrc' hl' ((hu.flag ..).trans hv)] at hr
    obtain ⟨hk, hlinks, -, hclk⟩ := spaced_spec u (u.markerAt n (readMark f))
    have hup : (u.arrivedAt n (readMark f) late).upLinks = s.upLinks :=
      congrArg maskLinks ((hk.flds .LINK_LIVE 0 (by decide)).trans (hu.fld ..))
    have hen : (u.arrivedAt n (readMark f) late).flag .TICK_CFG_TICK_OUT_EN = s.flag .TICK_CFG_TICK_OUT_EN :=
      flag_eq ((hk.flds .TICK_CFG_TICK_OUT_EN 0 (by decide)).trans (hu.fld ..))
    have hat : (u.arrivedAt n (readMark f) late).clk = s.clk := by
      refine hclk.trans ?_
      rw [hu.rest]
    have hmem : (u.arrivedAt n (readMark f) late).mem = s.mem := hk.mem.trans hu.leaves.mem
    have harr : (u.arrivedAt n (readMark f) late).tk.arrived = some (readMark f) := rfl
    have hlead : u.markerAt n (readMark f) - (u.arrivedAt n (readMark f) late).clk = (readMark f).lead - s.fld .LINK_LAT n := by
      have : u.markerAt n (readMark f) = s.clk + (readMark f).lead - s.fld .LINK_LAT n := by
        simp only [State.markerAt, hsrc', if_true, hu.fld]
        rw [show u.clk = s.clk by rw [hu.rest]]
      omega
    rw [hlead] at hr
    obtain ⟨htk, htx, hout, hm⟩ := handOn_spec (u.arrivedAt n (readMark f) late) n
      { readMark f with hops := (readMark f).hops + 1, lead := (readMark f).lead - s.fld .LINK_LAT n }
    generalize u.arrivedAt n (readMark f) late = v at *
    refine ⟨t, _, (if_pos hf).trans ht, ?_, rfl, fun k hk hne => ?_, fun hon => ?_, fun a => ?_⟩
    · rw [hr.tk, htk, harr]
    · rw [hr.link]
      exact htx k (hup ▸ hk) hne
    · obtain ⟨h1, h2⟩ := hout (hen.trans hon)
      exact ⟨hr.tickOut.trans h1, hr.tickOutAt.trans (h2.trans hat)⟩
    · exact (hr.byte a).trans (congrArg (mget 0 a) (hm.trans hmem))
  · rw [marker_ignored (s := u) ?_] at hr
    · exact ⟨t, (if_pos hf).trans ht, hr.tk.trans hu.tk⟩
    · simp only [State.isChimney, hu.flag, State.tickSrc, State.srcLink, hu.node, hu.fld]
      exact h
end

section
/-! PROOF. Reports that reach the chimney, and the election (R437, R441, R449, R551). -/

namespace Sys2Proof.Machine

/-! ### Reports -/

section
variable {s : State} {f : Frame} {kind : Nat} (hk : hdr f 0 32 8 = kind) (hres : reservedOk f = true)
include hk hres

theorem onReport_here (hdst : frameDst f = s.ownNode) (hc : s.isChimney = true) (g : State → State) :
    ∃ u, TookFrame s u ∧ s.onReport f kind g = g u := by
  obtain ⟨u, hu, heq⟩ := onFrameAny_took hres fun s =>
    if frameDst f != s.ownNode then (match s.route (frameDst f) none with | none => s | some k => s.passOn k f) else s.on s.isChimney g
  have hown : u.ownNode = s.ownNode := hu.fld ..
  have hcu : u.isChimney = true := (hu.flag ..).trans hc
  refine ⟨u, hu, (if_neg (by simp [hk])).trans (heq.trans ?_)⟩
  rw [if_neg (by simp [hown, hdst]), hcu]
  rfl

theorem onReport_passed (hdst : frameDst f ≠ s.ownNode) {k : Nat} (hr : s.route (frameDst f) none = some k) (g : State → State) :
    ∃ u, TookFrame s u ∧ s.onReport f kind g = u.passOn k f := by
  obtain ⟨u, hu, heq⟩ := onFrameAny_took hres fun s =>
    if frameDst f != s.ownNode then (match s.route (frameDst f) none with | none => s | some k => s.passOn k f) else s.on s.isChimney g
  have hown : u.ownNode = s.ownNode := hu.fld ..
  have hru : u.route (frameDst f) none = some k := by
    rw [← hr]
    unfold State.route
    rw [hu.fld]
  refine ⟨u, hu, (if_neg (by simp [hk])).trans (heq.trans ?_)⟩
  rw [if_pos (by simp [hown, hdst]), hru]

end

/-- A request in the chimney's book changes no register. -/
theorem ask_fld (s : State) (f : Asks → Asks) (g : Fld) (i : Nat) : (s.ask f).fld g i = s.fld g i := by
  rw [ask_rest]
  rfl

/-- A report at the chimney, by what it asks. -/
theorem report_asks {s : State} {f : Frame} {kind : Nat} (hrun : s.power = .run) (hf : frameIs 0x09 f = true) (hk : hdr f 0 32 8 = kind)
    (hres : reservedOk f = true) (hdst : frameDst f = s.ownNode) (hc : s.isChimney = true) {g : State → State} {c : Instr}
    (hexec : exec c s = liveIf (frameIs 0x09 f) s fun s => s.onReport f kind g) :
    ∃ u t, TookFrame s u ∧ exec c s = .next t ∧ Ran (g u) t := by
  obtain ⟨u, hu, heq⟩ := onReport_here hk hres hdst hc g
  obtain ⟨t, ht, hr⟩ := live_ran hrun fun s => s.onReport f kind g
  rw [heq] at hr
  exact ⟨u, t, hu, hexec.trans ((if_pos hf).trans ht), hr⟩

/-! ### Election -/

theorem candidate_spec {s : State} {n : Nat} {row : Bool} {prio die : Nat} (h : s.node.scope = if row then 2 else 1) :
    (∀ g i, (s.candidate n row prio die).fld g i = s.fld g i) ∧
      (better prio die s.node.bestPrio s.node.bestDie = true →
        (s.candidate n row prio die).node = { s.node with bestPrio := prio, bestDie := die }) ∧
      (better prio die s.node.bestPrio s.node.bestDie = false → (s.candidate n row prio die).node = s.node) := by
  unfold State.candidate
  cases hb : better prio die s.node.bestPrio s.node.bestDie with
  | true =>
    rw [if_neg (by simp [h])]
    dsimp only
    rw [floodExcept_rest]
    exact ⟨fun _ _ => rfl, fun _ => rfl, nofun⟩
  | false =>
    rw [if_pos (by simp)]
    exact ⟨fun _ _ => rfl, nofun, fun _ => rfl⟩

theorem tryJoin_node (s : State) : s.tryJoin.node = s.node := by
  unfold State.tryJoin
  split
  next => rfl
  next k hk =>
    split
    · rfl
    · split
      · rfl
      · extract_lets dies u
        exact forAll_keeps State.node dies (fun d u => u.sendLink k (u.joinFrame (u.fld .FAR_INFO_NODE k) 1 0 0 d 0)) (fun _ _ _ => rfl) u

/-- What a FINAL does. -/
def State.endScope (s : State) (f : Frame) : State :=
  let row : Bool := hdr f 0 36 1 = 1
  if hdr f 0 37 1 = 0 || s.node.scope != (if row then 2 else 1) then s
  else if row then s.endRow (hdr f 1 0 64) else s.endTray (hdr f 1 0 64)

theorem endScope_eq {s : State} {f : Frame} (hfin : hdr f 0 37 1 = 1) (hscope : s.node.scope = if hdr f 0 36 1 = 1 then 2 else 1) :
    s.endScope f = if hdr f 0 36 1 = 1 then s.endRow (hdr f 1 0 64) else s.endTray (hdr f 1 0 64) := by
  unfold State.endScope
  generalize s.endRow (hdr f 1 0 64) = a
  generalize s.endTray (hdr f 1 0 64) = b
  generalize hdr f 0 36 1 = r at *
  rw [hfin, hscope]
  simp

/-- A FINAL of the running scope ends it. -/
theorem electFinal_took {s : State} {f : Frame} (hres : reservedOk f = true) (hfin : hdr f 0 37 1 = 1)
    (hscope : s.node.scope = if hdr f 0 36 1 = 1 then 2 else 1) :
    ∃ u, TookFrame s u ∧ s.electFinal (some f) = if hdr f 0 36 1 = 1 then u.endRow (hdr f 1 0 64) else u.endTray (hdr f 1 0 64) := by
  obtain ⟨u, hu, heq⟩ := onFrameAny_took (s := s) hres fun s => s.endScope f
  have hfinal : s.electFinal (some f) = s.onFrameAny f fun s => s.endScope f := rfl
  exact ⟨u, hu, hfinal.trans (heq.trans (endScope_eq hfin (hu.node ▸ hscope)))⟩

theorem setFld_flag_b2n (s : State) (f : Fld) (i : Nat) (b : Bool) (hw : 0 < f.width) : (s.setFld f i (b2n b)).flag f i = b := by
  have h1 : 1 % 2 ^ f.width = 1 := Nat.mod_eq_of_lt (Nat.one_lt_two_pow (by omega))
  rw [State.flag, setFld_fld_same]
  cases b
  · simp [b2n]
  · simp [b2n, h1]

/-- The Row scope begins on the tray chimney with its own candidacy. -/
def State.rowBegins (s : State) (own : Bool) : State := s.on own fun s => s.floodExcept none (s.scopeLinks true) (s.electFrame true false)

theorem rowBegins_keeps (s : State) (own : Bool) :
    (s.rowBegins own).node = s.node ∧ (s.rowBegins own).flag .TRAY_POS_CHIMNEY = s.flag .TRAY_POS_CHIMNEY := by
  cases own with
  | false => exact ⟨rfl, rfl⟩
  | true =>
    have h := floodExcept_rest s none (s.scopeLinks true) (s.electFrame true false)
    exact ⟨(congrArg State.node h :), (congrArg (State.flag · .TRAY_POS_CHIMNEY) h :)⟩

theorem endTray_spec (s : State) (die : Nat) :
    (s.endTray die).node.scope = 2 ∧ (s.endTray die).node.trayDie = die ∧
      ((s.endTray die).flag .TRAY_POS_CHIMNEY = true ↔ die = s.fuses.dieId.toNat) := by
  unfold State.endTray
  extract_lets own s₁ s₂ _ s₃
  have hfuse : own ↔ die = s.fuses.dieId.toNat := Iff.rfl
  have h₂ : s₂.flag .TRAY_POS_CHIMNEY = decide own := setFld_flag_b2n s₁ .TRAY_POS_CHIMNEY 0 (decide own) (by decide)
  clear_value s₂
  have h₃ : s₃.node.scope = 2 ∧ s₃.node.trayDie = die ∧ s₃.flag .TRAY_POS_CHIMNEY = decide own := ⟨rfl, rfl, h₂⟩
  clear_value s₃
  have h₄ : (s₃.rowBegins own).node = s₃.node ∧ (s₃.rowBegins own).flag .TRAY_POS_CHIMNEY = s₃.flag .TRAY_POS_CHIMNEY := rowBegins_keeps ..
  obtain ⟨hscope, hdie, hch⟩ := h₃
  obtain ⟨hnode, hflag⟩ := h₄
  show (s₃.rowBegins own).tryJoin.node.scope = 2 ∧ (s₃.rowBegins own).tryJoin.node.trayDie = die ∧
    ((s₃.rowBegins own).tryJoin.flag .TRAY_POS_CHIMNEY = true ↔ _)
  rw [tryJoin_node, hnode, flag_eq ((tryJoin_leaves (s₃.rowBegins own)).flds .TRAY_POS_CHIMNEY 0 (by decide)), hflag, hch]
  exact ⟨hscope, hdie, by simpa using hfuse⟩

theorem endRow_spec {s : State} {die : Nat} (hne : die ≠ s.fuses.dieId.toNat) (hl : s.tk.firstLock = false) :
    (s.endRow die).node.scope = 3 ∧ (s.endRow die).flag .ELECT_STAT_ELECT_DONE = true ∧ (s.endRow die).flag .TRAY_POS_ROW_CHIMNEY = false := by
  have hrest := floodExcept_rest s none (s.scopeLinks true) (localFrame 0x0A (s.node.bestPrio + 16 + 32) [die])
  unfold State.endRow
  extract_lets own s₁ s₂ _ s₃
  have hlock : s₃.tk.firstLock = false := by
    show s₁.tk.firstLock = false
    unfold s₁
    rw [hrest]
    exact hl
  have hown : decide own = false := decide_eq_false hne
  have h₂ : s₂.flag .ELECT_STAT_ELECT_DONE = true ∧ s₂.flag .TRAY_POS_ROW_CHIMNEY = false := by
    refine ⟨setFld_flag _ .ELECT_STAT_ELECT_DONE 0 (v := 1) (by decide), ?_⟩
    unfold s₂
    rw [State.flag, setFld_fld_ne _ (by decide), setFld_fld_same, hown]
    rfl
  rw [hlock, Bool.false_and, if_neg nofun, hown]
  exact ⟨rfl, h₂⟩

end Sys2Proof.Machine

open Sys2Proof Sys2Proof.Machine

/-- Settles O40: at the chimney each report is one request or one note of its own; elsewhere it is handed to its next link. -/
theorem reports : Obligations.Reports := by
  refine ⟨fun s f hrun hf hres hdst hc => ⟨fun hk => ?_, fun hk => ?_, fun hk hm => ?_, fun hk => ?_, fun hk => ?_⟩, fun s f k hrun hf hres hdst hr hk => ?_⟩
  · obtain ⟨u, t, hu, ht, hr⟩ := report_asks hrun hf hk hres hdst hc (c := .reportBankReq f) rfl
    refine ⟨t, ht, ?_, fun g i => (hr.fld g i).trans ((ask_fld ..).trans (hu.fld g i))⟩
    rw [hr.asked, ask_asked]
    split
    · exact .inl rfl
    · exact .inr rfl
  · obtain ⟨u, t, hu, ht, hr⟩ := report_asks hrun hf hk hres hdst hc (c := .reportMiss f) rfl
    refine ⟨t, ht, ?_, fun g i => (hr.fld g i).trans ((ask_fld ..).trans (hu.fld g i))⟩
    rw [hr.asked, State.noteMiss, ask_asked]
    exact mem_withOne ..
  · obtain ⟨u, t, hu, ht, hr⟩ := report_asks hrun hf hk hres hdst hc (c := .kindleReady f) rfl
    have hmem : u.isMember (frameSrc f) = true := by
      unfold State.isMember State.fbit
      rw [hu.fld]
      exact hm
    rw [State.nodeReady, if_pos hmem] at hr
    refine ⟨t, ht, ?_, fun g i => (hr.fld g i).trans ((ask_fld ..).trans (hu.fld g i))⟩
    rw [hr.asked, ask_asked]
    exact mem_withOne ..
  · obtain ⟨u, t, hu, ht, hr⟩ := report_asks hrun hf hk hres hdst hc (c := .reportKindleFail f) rfl
    refine ⟨t, ht, ?_, fun g i => (hr.fld g i).trans ((ask_fld ..).trans (hu.fld g i))⟩
    rw [hr.asked, ask_asked]
  · obtain ⟨u, t, hu, ht, hr⟩ := report_asks hrun hf hk hres hdst hc (c := .linkEvent f) rfl
    refine ⟨t, ht, ?_, fun g i => (hr.fld g i).trans (hu.fld g i)⟩
    have hnow : u.now = s.now := hu.fld ..
    rw [hr.node, ← hnow]
    refine (mget_mput_same 0 (hdr f 1 48 8) _ u.node.lossCount).trans ?_
    simp
  · obtain ⟨u, hu, heq⟩ := onReport_passed hk hres hdst hr fun s =>
      { s with free := s.free + 1 }.ask fun a => if Config.farThermal s.free then { a with bankThermal := true } else { a with bankSoft := true }
    obtain ⟨t, ht, hran⟩ := live_ran hrun fun s => s.onReport f 1 fun s =>
      { s with free := s.free + 1 }.ask fun a => if Config.farThermal s.free then { a with bankThermal := true } else { a with bankSoft := true }
    rw [heq] at hran
    refine ⟨t, (if_pos hf).trans ht, ?_, hran.tk.trans hu.tk⟩
    rw [hran.link]
    have hl : (u.passOn k f).link k = { u.link k with passing := (u.link k).passing ++ [(u.clk + 24, f)] } := setLink_link_same ..
    have hclk : u.clk = s.clk := by rw [hu.rest]
    rw [hl, ← hclk]
    exact List.mem_append_right _ List.mem_cons_self

/-- Settles O41: a candidate is compared with the best seen; a FINAL ends its scope by the DIE_ID it names. -/
theorem election : Obligations.Election := by
  refine ⟨fun s n f hrun hf hres hfin hscope => ?_, fun s f hrun hf hres hfin hrow hscope => ?_, fun s f hrun hf hres hfin hrow hscope hne hl => ?_⟩
  · obtain ⟨u, hu, hframe⟩ := onFrame_took hres n fun s =>
      s.on (hdr f 0 37 1 = 0) fun s => s.candidate n (hdr f 0 36 1 = 1) (hdr f 0 32 4) (hdr f 1 0 64)
    obtain ⟨t, ht, hr⟩ := live_ran hrun fun s => s.onFrame n f fun s =>
      s.on (hdr f 0 37 1 = 0) fun s => s.candidate n (hdr f 0 36 1 = 1) (hdr f 0 32 4) (hdr f 1 0 64)
    have hon : u.on (hdr f 0 37 1 = 0) (fun s => s.candidate n (hdr f 0 36 1 = 1) (hdr f 0 32 4) (hdr f 1 0 64)) =
        u.candidate n (hdr f 0 36 1 = 1) (hdr f 0 32 4) (hdr f 1 0 64) := if_pos (by simpa using hfin)
    rw [hframe, hon] at hr
    obtain ⟨hfld, hbest, hworse⟩ := candidate_spec (s := u) (n := n) (row := hdr f 0 36 1 = 1) (prio := hdr f 0 32 4) (die := hdr f 1 0 64)
      (by rw [hu.node, hscope]; simp)
    rw [hu.node] at hbest hworse
    refine ⟨t, (if_pos hf).trans ht, fun g i => (hr.fld g i).trans ((hfld g i).trans (hu.fld g i)), fun hb => ?_, fun hb => ?_⟩ <;> rw [hr.node]
    · rw [hbest hb]
      exact ⟨rfl, rfl⟩
    · exact hworse hb
  · obtain ⟨u, hu, hframe⟩ := electFinal_took hres hfin (by rw [hscope, hrow]; rfl)
    obtain ⟨t, ht, hr⟩ := live_ran hrun fun s => (s.electFinal (some f)).tryLocked
    rw [hframe, if_neg (by omega)] at hr
    obtain ⟨-, hsame, hkeep⟩ := tryLocked_spec (u.endTray (hdr f 1 0 64))
    obtain ⟨h2, hdie, hch⟩ := endTray_spec u (hdr f 1 0 64)
    have hnode : t.node = (u.endTray (hdr f 1 0 64)).node := hr.node.trans (by rw [hsame])
    have hfuse : u.fuses = s.fuses := by rw [hu.rest]
    refine ⟨t, (if_pos hf).trans ht, by rw [hnode, h2], by rw [hnode, hdie], ?_⟩
    rw [hr.flag, flag_eq (hkeep .TRAY_POS_CHIMNEY 0 (by decide)), hch, hfuse]
  · obtain ⟨u, hu, hframe⟩ := electFinal_took hres hfin (by rw [hscope, hrow]; rfl)
    obtain ⟨t, ht, hr⟩ := live_ran hrun fun s => (s.electFinal (some f)).tryLocked
    rw [hframe, if_pos hrow] at hr
    obtain ⟨-, hsame, hkeep⟩ := tryLocked_spec (u.endRow (hdr f 1 0 64))
    obtain ⟨h3, hdone, hch⟩ := endRow_spec (s := u) (die := hdr f 1 0 64) (by rw [hu.rest]; exact hne) (by rw [hu.tk]; exact hl)
    have hnode : t.node = (u.endRow (hdr f 1 0 64)).node := hr.node.trans (by rw [hsame])
    refine ⟨t, (if_pos hf).trans ht, by rw [hnode, h3], ?_, ?_⟩
    · rw [hr.flag, flag_eq (hkeep .ELECT_STAT_ELECT_DONE 0 (by decide)), hdone]
    · rw [hr.flag, flag_eq (hkeep .TRAY_POS_ROW_CHIMNEY 0 (by decide)), hch]
end

section
/-! PROOF. What fails with a lost node, member maps and joining (R442, R444 to R447, R454, R455). -/

namespace Sys2Proof.Machine

/-! ### Registers that failing accesses write -/

/-- The registers that a failed access, with its records, writes. -/
def faultFlds : List Fld := .EMB_FAULT_COUNT :: reportFlds

/-- The same with the count of the accesses that were never answered. -/
def failFlds : List Fld := .LOST_COUNT :: faultFlds

theorem reportFlds_sub_faultFlds : ∀ f ∈ reportFlds, f ∈ faultFlds := fun _ => List.mem_cons_of_mem _

theorem faultFlds_sub_failFlds : ∀ f ∈ faultFlds, f ∈ failFlds := fun _ => List.mem_cons_of_mem _

theorem on_reg {s : State} {c : Bool} {g : State → State} (h : (g s).reg = s.reg) : (s.on c g).reg = s.reg := by
  cases c
  · rfl
  · exact h

theorem fldsBut_of_reg {s t : State} (fs : List Fld) (h : t.reg = s.reg) : FldsBut fs s t :=
  fun f i _ => congrArg (mget (f.resetVal i) (f.key i)) h

section
variable (s : State)

theorem blame_reg (o : Owner) (cause : Nat) (ash : Option Nat) : (s.blame o cause ash).reg = s.reg := by
  cases o with
  | ember e tag => exact on_reg rfl
  | dma c planned => exact on_reg rfl
  | _ => rfl

theorem failPut_reg (p : Posted) : (s.failPut p).reg = s.reg := by
  unfold State.failPut
  split
  · dsimp only
    split
    · split <;> rfl
    · rfl
  · rfl

theorem failWrite_fldsBut (p : Posted) (cause fail : Nat) : FldsBut faultFlds s (s.failWrite p cause fail) := by
  unfold State.failWrite
  extract_lets u
  have hu : FldsBut faultFlds s u := fldsBut_of_reg _ rfl
  clear_value u
  dsimp only
  refine (hu.trans ((postAsh_reported ..).fldsBut.mono reportFlds_sub_faultFlds)).trans (fldsBut_of_reg _ ((failPut_reg ..).trans (blame_reg ..)))

theorem loseWrite_fldsBut (p : Posted) : FldsBut failFlds s (s.loseWrite p) := by
  have h₁ : FldsBut failFlds s (s.bump .LOST_COUNT) := bump_fldsBut s (by decide) 0 1
  unfold State.loseWrite
  generalize s.bump .LOST_COUNT = u at h₁ ⊢
  have h₂ : FldsBut failFlds u { u with lateWids := s.lateWids ++ [(p.wid, s.now + 64)] } := fldsBut_of_reg _ rfl
  exact (h₁.trans h₂).trans ((failWrite_fldsBut _ p 0x05 s.now).mono faultFlds_sub_failFlds)

theorem complete_fldsBut (x : Ctx) (e : End) : FldsBut faultFlds s (s.complete x e) :=
  (complete_reported s x e).fldsBut.mono reportFlds_sub_faultFlds

theorem tryFree_fldsBut (e : Nat) : FldsBut faultFlds s (s.tryFree e) := by
  unfold State.tryFree
  have h : FldsBut faultFlds s (s.freeEmber e) := fldsBut_of_reg _ rfl
  exact .ite (h.trans (.on (complete_fldsBut _ _ _))) (.refl _ s)

theorem emberFail_fldsBut (e : Nat) (m : Ember) (pc : Nat) (end_ : End) : FldsBut faultFlds s (s.emberFail e m pc end_) := by
  unfold State.emberFail
  extract_lets x reeds s₁ s₂
  have h₁ : FldsBut faultFlds s s₁ := (bump_fldsBut s (f := .EMB_FAULT_COUNT) (by decide) 0 1).trans (fldsBut_of_reg _ rfl)
  have h₂ : FldsBut faultFlds s s₂ := h₁.trans (fldsBut_of_reg _ rfl)
  exact (h₂.trans (complete_fldsBut s₂ x end_)).trans (tryFree_fldsBut _ e)

theorem undefBytes_faultFlds (a n : Nat) : FldsBut faultFlds s (s.undefBytes a n) := (undefBytes_fldsBut s a n).mono (by decide)

theorem spoilMoves_fldsBut (ms : List RMove) : FldsBut faultFlds s (s.spoilMoves ms) := .forAll fun _ s => undefBytes_faultFlds s _ _

theorem dropMove_fldsBut (id a : Nat) : FldsBut faultFlds s (s.dropMove id a) := by
  unfold State.dropMove
  split
  · exact .refl _ s
  · split
    · exact .refl _ s
    · exact .ite ((spoilMoves_fldsBut s _).trans (fldsBut_of_reg _ rfl)) (.refl _ s)

theorem failRead_fldsBut (r : RemoteRead) (cause : Nat) : FldsBut faultFlds s (s.failRead r cause) := by
  unfold State.failRead
  extract_lets u
  have hu : FldsBut faultFlds s u := fldsBut_of_reg _ rfl
  clear_value u
  refine hu.trans ?_
  split
  · exact .ite (.refl _ u) (.ite (fldsBut_of_reg _ rfl) (emberFail_fldsBut _ _ _ _ _))
  · exact .on (fldsBut_of_reg _ rfl)
  · split
    · exact .refl _ u
    · exact .ite (.refl _ u) (((faultFlight_fldsBut u _ cause 0).mono (by decide)).trans (fldsBut_of_reg _ rfl))
  · exact (fldsBut_of_reg _ (blame_reg ..)).trans (dropMove_fldsBut _ _ _)
  · exact .refl _ u
  · exact .refl _ u

theorem spoilDue_fldsBut (k : Nat) (r : Reshard) : FldsBut failFlds s (s.spoilDue k r) := by
  unfold State.spoilDue
  exact .ite (.refl _ s) (.ite (.forAll fun _ s => (undefBytes_faultFlds s _ _).mono faultFlds_sub_failFlds) (.forAll fun _ s => (undefBytes_faultFlds s _ _).mono faultFlds_sub_failFlds))

theorem loseNode_fldsBut (k : Nat) : FldsBut failFlds s (s.loseNode k) := by
  unfold State.loseNode
  extract_lets s₁ s₂ s₃
  have h₁ : FldsBut failFlds s s₁ := .forAll fun r s => spoilDue_fldsBut s k r
  have h₂ : FldsBut failFlds s s₂ := h₁.trans (fldsBut_of_reg _ rfl)
  have h₃ : FldsBut failFlds s₂ s₃ := .forAll fun p s => loseWrite_fldsBut s p
  exact (h₂.trans h₃).trans (.forAll fun r s => (failRead_fldsBut s r 0x26).mono faultFlds_sub_failFlds)

/-! ### Member maps -/

theorem reroute_fldsBut (k : Nat) : FldsBut [.RT_LINKS] s (s.reroute k) := by
  unfold State.reroute
  refine .ite (setFld_fldsBut s (by decide) k 0) ?_
  dsimp only
  exact .ite (setFld_fldsBut s (by decide) k _) ((setFld_fldsBut s (by decide) k _).trans (fldsBut_of_reg _ rfl))

/-- The registers that a node writes which is alone again. -/
def aloneFlds : List Fld := [.NODE_ID_VALID, .NODE_CTL, .JOIN_STAT_JSTATE, .ELECT_STAT_ELECT_DONE, .TRAY_POS_CHIMNEY, .TRAY_POS_ROW_CHIMNEY]

theorem reelect_fldsBut : FldsBut aloneFlds s s.reelect := by
  have h : FldsBut aloneFlds s (((s.setFld .ELECT_STAT_ELECT_DONE 0 0).setFld .TRAY_POS_CHIMNEY 0 0).setFld .TRAY_POS_ROW_CHIMNEY 0 0) :=
    ((setFld_fldsBut s (by decide) 0 0).trans (setFld_fldsBut _ (by decide) 0 0)).trans (setFld_fldsBut _ (by decide) 0 0)
  exact h.trans fun f i _ => (startElection_spec _).1 f i

theorem removed_fldsBut : FldsBut aloneFlds s s.removed := by
  have h : FldsBut aloneFlds s (((s.setFld .NODE_ID_VALID 0 0).setFld .NODE_CTL 0 0).setFld .JOIN_STAT_JSTATE 0 0) :=
    ((setFld_fldsBut s (by decide) 0 0).trans (setFld_fldsBut _ (by decide) 0 0)).trans (setFld_fldsBut _ (by decide) 0 0)
  unfold State.removed
  generalize ((s.setFld .NODE_ID_VALID 0 0).setFld .NODE_CTL 0 0).setFld .JOIN_STAT_JSTATE 0 0 = u at h ⊢
  have h₂ : FldsBut aloneFlds u { u with node := { u.node with leaving := false, leaveSent := false, known := [] } } := fldsBut_of_reg _ rfl
  exact (h.trans h₂).trans (reelect_fldsBut _)

/-- The words of a member map are loaded. -/
def State.mapLoaded (s : State) (epoch : Nat) (ws : List Nat) : State :=
  forAll (upTo 8) (fun i s => s.setFld .MEMBER i ((ws.getD (i / 2) 0) / 2 ^ (32 * (i % 2)))) (s.setFld .MEMBER_EPOCH 0 epoch)

/-- The registers that follow a member map. -/
def followFlds : List Fld := .RT_LINKS :: (failFlds ++ aloneFlds)

theorem applyMember_fldsBut (epoch : Nat) (ws : List Nat) : FldsBut followFlds (s.mapLoaded epoch ws) (s.applyMember epoch ws) := by
  unfold State.applyMember
  extract_lets was s₁ s₂ s₃ gone s₄ _ s₅
  have h₂ : s₂ = s.mapLoaded epoch ws := rfl
  have h₃ : FldsBut followFlds s₂ s₃ := .forAll fun k s => (reroute_fldsBut s k).mono (by decide)
  have h₄ : FldsBut followFlds s₃ s₄ := .forAll fun k s => (loseNode_fldsBut s k).mono (by decide)
  have h₅ : FldsBut followFlds s₄ s₅ := fldsBut_of_reg _ rfl
  have h : FldsBut followFlds (s.mapLoaded epoch ws) s₅ := h₂ ▸ (h₃.trans h₄).trans h₅
  clear_value s₅
  exact h.trans (.ite ((removed_fldsBut s₅).mono (by decide)) (.on (setFld_fldsBut s₅ (by decide) 0 _)))

end

theorem mapLoaded_spec (s : State) (epoch : Nat) (ws : List Nat) :
    (s.mapLoaded epoch ws).fld .MEMBER_EPOCH = epoch % 2 ^ 16 ∧
      ∀ i < 8, (s.mapLoaded epoch ws).fld .MEMBER i = ws.getD (i / 2) 0 / 2 ^ (32 * (i % 2)) % 2 ^ 32 := by
  refine ⟨?_, fun i hi => ?_⟩
  · refine (forAll_keeps (State.fld · .MEMBER_EPOCH) _ _ (fun i _ u => setFld_fld_ne u (by decide) i 0 _) _).trans ?_
    exact setFld_fld_same s .MEMBER_EPOCH 0 epoch
  · refine forAll_writes (State.fld · .MEMBER i) (fun _ => ws.getD (i / 2) 0 / 2 ^ (32 * (i % 2)) % 2 ^ 32) (List.mem_range.mpr hi) _
      (fun u => setFld_fld_same u .MEMBER i _) (fun j hj hne u => setFld_fld_inst u .MEMBER ?_ _) (fun _ _ _ => rfl) _
    have : j < 8 := List.mem_range.mp hj
    omega

/-- Bits of a map that applies are the members. -/
theorem applyMember_spec (s : State) {epoch : Nat} (he : epoch < 2 ^ 16) (ws : List Nat) :
    (s.applyMember epoch ws).fld .MEMBER_EPOCH = epoch ∧
      ∀ k, k < 256 → (s.applyMember epoch ws).isMember k = (ws.getD (k / 64) 0).testBit (k % 64) := by
  have hkeep := applyMember_fldsBut s epoch ws
  obtain ⟨hepoch, hmap⟩ := mapLoaded_spec s epoch ws
  refine ⟨(hkeep _ 0 (by decide)).trans (hepoch.trans (Nat.mod_eq_of_lt he)), fun k hk => ?_⟩
  unfold State.isMember State.fbit
  rw [hkeep _ _ (by decide), hmap _ (by omega), Nat.testBit_mod_two_pow, Nat.testBit_div_two_pow,
    show k / 32 / 2 = k / 64 by omega, show k % 32 + 32 * (k / 32 % 2) = k % 64 by omega]
  simp [Nat.mod_lt k (show 0 < 32 by decide)]

/-- The words of a member map's frame. -/
def mapOf (f : Frame) : List Nat := (upTo 4).map fun k => hdr f (k + 1) 0 64

theorem mapOf_getD (f : Frame) {j : Nat} (hj : j < 4) : (mapOf f).getD j 0 = hdr f (j + 1) 0 64 := by
  unfold mapOf upTo
  rw [List.getD_eq_getElem _ _ (by simpa using hj)]
  simp

/-- A map with a new EPOCH is passed on first. -/
def State.mapPassed (s : State) (n : Nat) (f : Frame) : State := s.floodExcept (some n) s.memoryLinks f

theorem member_new {s : State} {n : Nat} {f : Frame} (h0 : hdr f 0 32 16 ≠ 0) (he : hdr f 0 32 16 ≠ s.fld .MEMBER_EPOCH)
    (hp : s.node.pendMap = none) :
    s.member n f = if (s.mapPassed n f).tk.firstLock then
        { s.mapPassed n f with node := { (s.mapPassed n f).node with pendMap := some (hdr f 0 32 16, mapOf f) } }
      else (s.mapPassed n f).applyMember (hdr f 0 32 16) (mapOf f) :=
  if_neg (by simp [h0, he, hp])

theorem mapPassed_rest (s : State) (n : Nat) (f : Frame) : SameButLinks s (s.mapPassed n f) := floodExcept_rest ..

/-! ### Joining -/

theorem sendJoin_rest (s : State) (dst die : Nat) (f : Frame) : SameButLinks s (s.sendJoin dst die f) := by
  unfold State.sendJoin
  split
  · rfl
  · exact sendNode_rest ..

section
variable {s : State} {f : Frame} {kind : Nat} (hrun : s.power = .run) (hf : frameIs 0x0C f = true) (hres : reservedOk f = true)
  (hk : hdr f 0 32 8 = kind)
include hrun hf hres hk

/-- A JOIN frame in the command of its kind. -/
theorem join_ran {g : State → State} {c : Instr} (hexec : exec c s = liveIf (frameIs 0x0C f) s fun s => s.onJoin f kind g) :
    ∃ u t, TookFrame s u ∧ exec c s = .next t ∧ Ran (g u) t := by
  obtain ⟨u, hu, heq⟩ := onFrameAny_took hres g
  obtain ⟨t, ht, hr⟩ := live_ran hrun fun s => s.onJoin f kind g
  have hjoin : s.onJoin f kind g = g u := (if_neg (by simp [hk])).trans heq
  rw [hjoin] at hr
  exact ⟨u, t, hu, hexec.trans ((if_pos hf).trans ht), hr⟩

/-- One that is for this node's own die. -/
theorem join_ranHere {g : State → State} {c : Instr} (hdie : hdr f 1 0 64 = s.fuses.dieId.toNat)
    (hexec : exec c s = liveIf (frameIs 0x0C f) s fun s => s.onJoin f kind fun s => s.forDie f g) :
    ∃ u t, TookFrame s u ∧ exec c s = .next t ∧ Ran (g u) t := by
  obtain ⟨u, t, hu, ht, hr⟩ := join_ran hrun hf hres hk hexec
  have hfor : u.forDie f g = g u := if_pos (by rw [hdie, hu.rest])
  rw [hfor] at hr
  exact ⟨u, t, hu, ht, hr⟩

end

/-- The chimney's note of the node with DIE_ID `die`. -/
def State.noteJoin (s : State) (die : Nat) (id : Option Nat) : State :=
  { s with node := { s.node with known := minsert die (none, id) (s.node.known.filter (·.1 != die)) } }

theorem joinReq_new {s : State} {f : Frame} (hd : s.flag .ELECT_STAT_ELECT_DONE = true) (hc : s.isChimney = true) (hw : s.chip = chipWarm)
    (hno : ∀ e ∈ s.node.known, e.1 ≠ hdr f 1 0 64) {k : Nat} (hid : s.freeId = some k) :
    ∃ g, s.joinReq f = (s.noteJoin (hdr f 1 0 64) (some k)).sendJoin k (hdr f 1 0 64) g := by
  have hfind : s.node.known.find? (·.1 = hdr f 1 0 64) = none := List.find?_eq_none.mpr fun e he => by simpa using hno e he
  refine ⟨(s.noteJoin (hdr f 1 0 64) (some k)).joinFrame k 2 k 0 (hdr f 1 0 64) 0, ?_⟩
  unfold State.joinReq
  extract_lets die src note old
  have hold : old = none := by
    unfold old die
    rw [hfind]
    rfl
  rw [if_neg (by simp [hd]), if_neg (by simp [hc]), if_neg (by simp [hw]), hold, hid]
  rfl

theorem joinAck_spec {s : State} {f : Frame} (hv : s.flag .NODE_ID_VALID = false) :
    (s.joinAck f).ownNode = hdr f 0 40 8 ∧ (s.joinAck f).flag .NODE_ID_VALID = true ∧
      (s.joinAck f).fld .ELECT_STAT_ROW_CHIMNEY_NODE = frameSrc f := by
  have hid : hdr f 0 40 8 < 2 ^ 8 := bitsOf_lt _ _ 8
  have hsrc : frameSrc f < 2 ^ 8 := bitsOf_lt _ _ 8
  let v : State := (s.takeId (hdr f 0 40 8)).setFld .ELECT_STAT_ROW_CHIMNEY_NODE 0 (frameSrc f)
  have hack : ∃ x, s.joinAck f = v.setFld .ELECT_STAT_CHIMNEY_NODE 0 x := by
    refine ⟨if v.flag .TRAY_POS_CHIMNEY then v.ownNode else frameSrc f, ?_⟩
    unfold State.joinAck
    rw [hv, if_neg nofun]
  obtain ⟨x, hx⟩ := hack
  have hkeep (g : Fld) (hg : g ≠ .ELECT_STAT_CHIMNEY_NODE) : (s.joinAck f).fld g = v.fld g := by
    rw [hx, setFld_fld_ne v hg 0 0 x]
  refine ⟨(hkeep .NODE_ID_ID (by decide)).trans ?_, (flag_eq (hkeep .NODE_ID_VALID (by decide))).trans ?_, (hkeep _ (by decide)).trans ?_⟩
  · exact (setFld_fld_ne _ (by decide) 0 0 _).trans ((setFld_fld_ne _ (by decide) 0 0 1).trans ((setFld_fld_same s .NODE_ID_ID 0 _).trans
      (Nat.mod_eq_of_lt hid)))
  · exact (flag_eq (setFld_fld_ne _ (by decide) 0 0 _)).trans (setFld_flag _ .NODE_ID_VALID 0 (v := 1) (by decide))
  · exact (setFld_fld_same _ .ELECT_STAT_ROW_CHIMNEY_NODE 0 _).trans (Nat.mod_eq_of_lt hsrc)

theorem joinLeave_spec {s : State} {f : Frame} (hc : s.isChimney = true) (hm : s.isMember (frameSrc f) = true) :
    frameSrc f ∈ (s.joinLeave f).node.toDrop ∧ ∀ g i, (s.joinLeave f).fld g i = s.fld g i := by
  unfold State.joinLeave
  rw [hc, if_neg nofun]
  dsimp only
  rw [hm]
  cases hd : s.node.toDrop.contains (frameSrc f) with
  | true => exact ⟨List.contains_iff_mem.mp hd, fun _ _ => rfl⟩
  | false => exact ⟨List.mem_append_right _ List.mem_cons_self, fun _ _ => rfl⟩

end Sys2Proof.Machine

open Sys2Proof Sys2Proof.Machine

/-- Settles O42: a map's words are loaded first, and what follows them writes no member; each JOIN frame is one note or one register. -/
theorem membersAndJoining : Obligations.MembersAndJoining := by
  refine ⟨⟨fun s n f hrun hf hres h0 he hp => ?_, fun s k hrun hc hm h0 hold => ?_⟩, fun s f hrun hf hres =>
    ⟨fun hk hd hc hw hno k hid => ?_, fun hk hdie hv => ?_, fun hk hdie => ?_, fun hk hc hm => ?_, fun hk hdie => ?_⟩⟩
  · obtain ⟨u, hu, hframe⟩ := onFrame_took hres n fun s => s.member n f
    obtain ⟨t, ht, hr⟩ := live_ran hrun fun s => s.onFrame n f fun s => s.member n f
    rw [hframe, member_new h0 (by rwa [hu.fld]) (by rw [hu.node, hp])] at hr
    have hpass := mapPassed_rest u n f
    have hlock : (u.mapPassed n f).tk.firstLock = s.tk.firstLock := by rw [hpass, ← hu.tk]
    rw [hlock] at hr
    refine ⟨t, (if_pos hf).trans ht, fun hl => ?_, fun hl => ?_⟩
    · rw [hl, if_neg nofun] at hr
      obtain ⟨hepoch, hmem⟩ := applyMember_spec (u.mapPassed n f) (epoch := hdr f 0 32 16) (bitsOf_lt _ _ 16) (mapOf f)
      refine ⟨(hr.fld ..).trans hepoch, fun k hk => ?_⟩
      rw [← mapOf_getD f (by omega), ← hmem k hk]
      exact hr.fbit ..
    · rw [hl, if_pos rfl] at hr
      have hfld (g : Fld) (i : Nat) : t.fld g i = s.fld g i := (hr.fld g i).trans ((hpass.fld g i).trans (hu.fld g i))
      exact ⟨hfld _ _, hfld _ _, by rw [hr.node]; rfl⟩
  · obtain ⟨t, ht, hr⟩ := live_ran hrun fun s => s.nodeLost k.toNat
    have hdrop : s.nodeLost k.toNat = { s with node := { s.node with
        toDrop := s.node.toDrop ++ [k.toNat], lossCount := mput 0 k.toNat 0 s.node.lossCount } } := by
      unfold State.nodeLost
      rw [if_pos hc]
      exact if_pos (by simp [h0, hold, hm])
    rw [hdrop] at hr
    refine ⟨t, ht, ?_, hr.fld⟩
    rw [hr.node]
    exact List.mem_append_right _ List.mem_cons_self
  · obtain ⟨u, t, hu, ht, hr⟩ := join_ran hrun hf hres hk (c := .joinReq f) rfl
    have hfree : u.freeId = some k := by
      rw [← hid]
      unfold State.freeId State.isMember State.fbit
      rw [hu.node, funext fun i => hu.fld .MEMBER i]
    obtain ⟨g, hg⟩ := joinReq_new (f := f) ((hu.flag ..).trans hd) ((hu.flag ..).trans hc) ((hu.fld ..).trans hw) (by rw [hu.node]; exact hno) hfree
    rw [hg] at hr
    have hsend := sendJoin_rest (u.noteJoin (hdr f 1 0 64) (some k)) k (hdr f 1 0 64) g
    refine ⟨t, ht, ?_, fun x i => (hr.fld x i).trans ((hsend.fld x i).trans (hu.fld x i))⟩
    rw [hr.node, hsend]
    exact mget_minsert_same _ _ _ _ fun e he => by simpa using (List.mem_filter.mp he).2
  · obtain ⟨u, t, hu, ht, hr⟩ := join_ranHere hrun hf hres hk hdie (c := .joinAck f) rfl
    obtain ⟨hid, hvalid, hrow⟩ := joinAck_spec (f := f) ((hu.flag ..).trans hv)
    exact ⟨t, ht, (hr.fld ..).trans hid, (hr.flag ..).trans hvalid, (hr.fld ..).trans hrow⟩
  · obtain ⟨u, t, hu, ht, hr⟩ := join_ranHere hrun hf hres hk hdie (c := .joinRefuse f) rfl
    refine ⟨t, ht, (hr.fld ..).trans ?_, (hr.fld ..).trans (setFld_fld_same ..)⟩
    rw [setFld_fld_ne _ (by decide), setFld_fld_same]
    rfl
  · obtain ⟨u, t, hu, ht, hr⟩ := join_ran hrun hf hres hk (c := .joinLeave f) rfl
    have hmem : u.isMember (frameSrc f) = true := by
      unfold State.isMember State.fbit
      rw [hu.fld]
      exact hm
    obtain ⟨hdrop, hkeep⟩ := joinLeave_spec ((hu.flag ..).trans hc) hmem
    exact ⟨t, ht, hr.node ▸ hdrop, fun g i => (hr.fld g i).trans ((hkeep g i).trans (hu.fld g i))⟩
  · obtain ⟨u, t, hu, ht, hr⟩ := join_ranHere hrun hf hres hk hdie (c := .joinKtick f) rfl
    exact ⟨t, ht, by rw [hr.tk], fun g i => (hr.fld g i).trans (hu.fld g i)⟩
end

section
/-! PROOF. Records of the queues, and the commands that submission entries bring (R304, R347, R471 to R476, R480, R483, R485). -/

namespace Sys2Proof.Machine

/-! ### One completion record -/

/-- The registers that one completion record writes, beside the counts of what it says. -/
def cqFlds : List Fld := [.CQ_TAIL, .CQ_DROPPED, .REFETCH_COUNT, .SELF_MOD_COUNT]

theorem putCq_cqFlds (s : State) (t : Nat) (r : CqRec) : Reported cqFlds s (s.putCq t r) := by
  unfold State.putCq
  refine .ite (.trans (.on (bump_reported s (f := .SELF_MOD_COUNT) (by decide) 0 1)) (bump_reported _ (by decide) t 1)) ?_
  exact ((show_reported _ (by decide) s _ _).trans (setFld_reported _ (by decide) t _)).trans (.on (fireHearth_reported _ _ _ _))

/-- Where the entry at CQ_TAIL lies. -/
abbrev State.cqEntry (s : State) (t : Nat) : Nat := queueEntry (s.fld .CQ_CFG_BASE_IDX t) (s.cqN t) 32 (s.fld .CQ_TAIL t)

theorem fireHearth_keeps (s : State) (t vec : Nat) :
    (s.fireHearth t vec).reg = s.reg ∧ (s.fireHearth t vec).mem = s.mem ∧ (s.fireHearth t vec).hearths = s.hearths := by
  unfold State.fireHearth State.on
  split <;> exact ⟨rfl, rfl, rfl⟩

theorem cqBytes_length (r : CqRec) (phase tick : Nat) : (cqBytes r phase tick).length = 32 := by simp [cqBytes, leBytes_length]

/-- A completion record whose entry passes its check. -/
theorem putCq_written {s : State} {t : Nat} (r : CqRec) (hf : s.hearthFault t (s.global (s.cqEntry t)) 32 .w = 0) :
    (s.putCq t r).fld .CQ_TAIL t = (s.fld .CQ_TAIL t + 1) % 2 ^ 32 ∧
      (∀ a, (s.putCq t r).byte a =
        (s.setBytes (s.cqEntry t) (cqBytes r (bitsOf (s.fld .CQ_TAIL t) (s.fld .CQ_CFG_LOG2N t) 1) s.now)).byte a) ∧
      FldsBut [.CQ_TAIL, .REFETCH_COUNT] s (s.putCq t r) ∧ (s.putCq t r).hearths = s.hearths := by
  have hput : s.putCq t r = (((s.show (s.cqEntry t) (cqBytes r (bitsOf (s.fld .CQ_TAIL t) (s.fld .CQ_CFG_LOG2N t) 1) s.now)).setFld .CQ_TAIL t
      (s.fld .CQ_TAIL t + 1)).on ((s.show (s.cqEntry t) (cqBytes r (bitsOf (s.fld .CQ_TAIL t) (s.fld .CQ_CFG_LOG2N t) 1) s.now)).setFld
        .CQ_TAIL t (s.fld .CQ_TAIL t + 1) |>.flag .HEARTH_CTL_CQ_INT t) fun s => s.fireHearth t 0) := by
    unfold State.putCq
    exact if_neg (by simp [hf])
  have hshow := show_reported [.CQ_TAIL, .REFETCH_COUNT] (by decide) s (s.cqEntry t)
    (cqBytes r (bitsOf (s.fld .CQ_TAIL t) (s.fld .CQ_CFG_LOG2N t) 1) s.now)
  have hbyte := show_byte s (s.cqEntry t) (bs := cqBytes r (bitsOf (s.fld .CQ_TAIL t) (s.fld .CQ_CFG_LOG2N t) 1) s.now)
  have hh := show_hearths s (s.cqEntry t) (cqBytes r (bitsOf (s.fld .CQ_TAIL t) (s.fld .CQ_CFG_LOG2N t) 1) s.now)
  generalize s.show (s.cqEntry t) (cqBytes r (bitsOf (s.fld .CQ_TAIL t) (s.fld .CQ_CFG_LOG2N t) 1) s.now) = u at *
  have hset : FldsBut [.CQ_TAIL, .REFETCH_COUNT] u (u.setFld .CQ_TAIL t (s.fld .CQ_TAIL t + 1)) := setFld_fldsBut u (by decide) t _
  have htail : (u.setFld .CQ_TAIL t (s.fld .CQ_TAIL t + 1)).fld .CQ_TAIL t = (s.fld .CQ_TAIL t + 1) % 2 ^ 32 := setFld_fld_same ..
  have hmem : (u.setFld .CQ_TAIL t (s.fld .CQ_TAIL t + 1)).mem = u.mem := rfl
  have hhe : (u.setFld .CQ_TAIL t (s.fld .CQ_TAIL t + 1)).hearths = u.hearths := rfl
  rw [hput]
  generalize u.setFld .CQ_TAIL t (s.fld .CQ_TAIL t + 1) = v at *
  have hfire : (v.on (v.flag .HEARTH_CTL_CQ_INT t) fun s => s.fireHearth t 0).reg = v.reg ∧
      (v.on (v.flag .HEARTH_CTL_CQ_INT t) fun s => s.fireHearth t 0).mem = v.mem ∧
      (v.on (v.flag .HEARTH_CTL_CQ_INT t) fun s => s.fireHearth t 0).hearths = v.hearths := by
    unfold State.on
    split
    · exact fireHearth_keeps v t 0
    · exact ⟨rfl, rfl, rfl⟩
  obtain ⟨hr, hm, hhe'⟩ := hfire
  exact ⟨(congrArg (mget _ _) hr).trans htail, fun a => (congrArg (mget 0 a) (hm.trans hmem)).trans (hbyte a),
    (hshow.fldsBut.trans hset).trans (fldsBut_of_reg _ hr), hhe'.trans (hhe.trans hh)⟩

/-- A record that finds its queue with room and nothing before it is written at once. -/
theorem postCq_direct {s : State} {t : Nat} {r : CqRec} (hst : isRefused r.status = false) (hl : r.status ≠ 0x01)
    (hh : (s.hearth t).hold = []) (ho : s.cqOcc t < s.cqN t) : s.postCq t r = s.putCq t r := by
  unfold State.postCq
  rw [hst, decide_eq_false hl]
  simp [State.on, hh, ho]

/-- A refused record counts. -/
theorem postCq_refused {s : State} {t : Nat} {r : CqRec} (hst : isRefused r.status = true) (hn : s.fld .REFUSED_COUNT t + 1 < 2 ^ Fld.width .REFUSED_COUNT) :
    (s.postCq t r).fld .REFUSED_COUNT t = s.fld .REFUSED_COUNT t + 1 := by
  have hlate : r.status ≠ 0x01 := by
    intro h
    rw [h] at hst
    exact absurd hst (by decide)
  unfold State.postCq
  rw [hst, decide_eq_false hlate]
  extract_lets s₁ s₂ h
  have h₂ : s₂ = s.bump .REFUSED_COUNT t := rfl
  have hcount : s₂.fld .REFUSED_COUNT t = s.fld .REFUSED_COUNT t + 1 := h₂ ▸ bump_fld_self hn
  have hrep : Reported cqFlds s₂ (if h.hold.isEmpty && s₂.cqOcc t < s₂.cqN t then s₂.putCq t r
      else if r.origin = 2 && 8 ≤ h.hold.length then s₂.bump .CQ_DROPPED t else s₂.setHearth t { h with hold := h.hold ++ [r] }) :=
    .ite (putCq_cqFlds ..) (.ite (bump_reported _ (by decide) t 1) (setHearth_reported ..))
  exact (hrep.fld (by decide) t).trans hcount

/-! ### The end of work that is refused -/

/-- A refusal is one completion record. -/
theorem completeLate_refused (s : State) {x : Ctx} {st r0 : Nat} (late : Nat) (hst : isRefused st = true) (hcq : x.cq = true) :
    ∃ r, isRefused r.status = true ∧ s.completeLate x (.refused st r0) late = s.postCq x.hearth r := by
  have h0 : st ≠ 0 := by
    intro h
    rw [h] at hst
    exact absurd hst (by decide)
  have h30 : st ≠ 0x30 := by
    intro h
    rw [h] at hst
    exact absurd hst (by decide)
  refine ⟨{ status := st, origin := x.origin, late := late, tag := x.tag, ref := x.ref, r0 := r0 }, hst, ?_⟩
  unfold State.completeLate End.refused
  simp [State.on, h0, h30, hcq]

theorem complete_refused {s : State} {x : Ctx} {st r0 : Nat} (hst : isRefused st = true) (hcq : x.cq = true)
    (hn : s.fld .REFUSED_COUNT x.hearth + 1 < 2 ^ Fld.width .REFUSED_COUNT) :
    (s.complete x (.refused st r0)).fld .REFUSED_COUNT x.hearth = s.fld .REFUSED_COUNT x.hearth + 1 := by
  obtain ⟨r, hr, heq⟩ := completeLate_refused s (x := x) (st := st) (r0 := r0) (s.ticksLate x) hst hcq
  unfold State.complete
  rw [heq, postCq_refused hr hn]

theorem refuse_refused {s : State} {x : Ctx} {st r0 : Nat} (hst : isRefused st = true) (hcq : x.cq = true)
    (hn : s.fld .REFUSED_COUNT x.hearth + 1 < 2 ^ Fld.width .REFUSED_COUNT) :
    (s.refuse x (.refused st r0)).fld .REFUSED_COUNT x.hearth = s.fld .REFUSED_COUNT x.hearth + 1 := by
  obtain ⟨r, hr, heq⟩ := completeLate_refused s (x := x) (st := st) (r0 := r0) (s.now - x.accept) hst hcq
  unfold State.refuse
  rw [heq, postCq_refused hr hn]

/-! ### The reader of the submission queues (R471) -/

/-- The state as the reader starts on the next entry: not in the cycle of the one before it. -/
def State.readerAt (s : State) : State := s.on (s.sqAt = s.clk + 1) fun s => s.advance 1

/-- The entry at SQ_HEAD has been read. -/
def State.entryRead (s : State) (t : Nat) : State :=
  { s.setFld .SQ_HEAD t (s.fld .SQ_HEAD t + 1) with sqNext := (t + 1) % 16, sqAt := s.clk + 1 }

/-- The record that the reader finds. -/
def State.entryAt (s : State) (t : Nat) : Taken :=
  { hearth := t, index := s.fld .SQ_HEAD t, tick := s.now, bytes := s.bytes (queueEntry (s.fld .SQ_CFG_BASE_IDX t) (s.sqN t) 64 (s.fld .SQ_HEAD t)) 64 }

/-- What the reader makes of a record. -/
def State.judge (s : State) (r : Taken) : State :=
  if s.fencedHearth r.hearth then
    (s.on (isPlanCmd (recCmd r.bytes)) fun s => s.admitFenced (recNum r.bytes 8 1)).complete (takenCtx r) (.refused 0x13)
  else if !s.formatOk r.hearth r.bytes then s.complete (takenCtx r) (.faulted 0x09)
  else { s with taken := s.taken ++ [r] }

theorem readerAt_keeps (s : State) :
    s.readerAt.reg = s.reg ∧ s.readerAt.mem = s.mem ∧ s.readerAt.plans = s.plans ∧ s.readerAt.taken = s.taken ∧ s.readerAt.tk = s.tk ∧
      s.readerAt.clk = (if s.sqAt = s.clk + 1 then s.clk + 1 else s.clk) := by
  unfold State.readerAt State.on
  by_cases h : s.sqAt = s.clk + 1
  · simp [h, State.advance]
  · simp [h]

theorem entryRead_fldsBut (s : State) (t : Nat) : FldsBut [.SQ_HEAD] s (s.entryRead t) := fun _ i hf =>
  setFld_fld_ne s (f := .SQ_HEAD) (fun h => hf (List.mem_singleton.mpr h)) t i _

theorem entryRead_head (s : State) (t : Nat) : (s.entryRead t).fld .SQ_HEAD t = (s.fld .SQ_HEAD t + 1) % 2 ^ 32 := setFld_fld_same ..

section
variable {s u : State} (h : ∀ f i, f ≠ Fld.SQ_HEAD → u.fld f i = s.fld f i)
include h

theorem fencedHearth_congr (t : Nat) : u.fencedHearth t = s.fencedHearth t := by
  simp only [State.fencedHearth, State.flag, State.chip, h _ _ (show Fld.HEARTH_CTL_FENCE ≠ .SQ_HEAD by decide),
    h _ _ (show Fld.HEARTH_STAT_RESETTING ≠ .SQ_HEAD by decide), h _ _ (show Fld.TICK_STAT_CHIP_STATE ≠ .SQ_HEAD by decide)]
  rfl

theorem formatOk_congr (t : Nat) (b : List Byte) : u.formatOk t b = s.formatOk t b := by
  have hchan (c : Nat) : u.ownsChan t c = s.ownsChan t c := by
    simp only [State.ownsChan, State.fbit, h _ _ (show Fld.CHAN_MASK_LO ≠ .SQ_HEAD by decide), h _ _ (show Fld.CHAN_MASK_HI ≠ .SQ_HEAD by decide)]
  have hplan (p : Nat) : u.planOwner p = s.planOwner p := by
    simp only [State.planOwner, h _ _ (show Fld.PLAN_STATE_STATE ≠ .SQ_HEAD by decide), h _ _ (show Fld.PLAN_STATE_HEARTH ≠ .SQ_HEAD by decide)]
  simp only [State.formatOk, hchan, hplan]

end

/-- An entry that is there to be read is read and judged. -/
theorem takeEntry_eq {s : State} {t : Nat} (hturn : s.sqTurn = some t)
    (hf : s.hearthFault t (s.global (queueEntry (s.fld .SQ_CFG_BASE_IDX t) (s.sqN t) 64 (s.fld .SQ_HEAD t))) 64 .r = 0) :
    takeEntry t s = (s.readerAt.entryRead t).judge (s.entryAt t) := by
  obtain ⟨hreg, hmem, hplans, -, -, -⟩ := readerAt_keeps s
  have hfld (f : Fld) (i : Nat) : s.readerAt.fld f i = s.fld f i := congrArg (mget _ _) hreg
  have hrec : (⟨t, s.readerAt.fld .SQ_HEAD t, s.readerAt.now,
      s.readerAt.bytes (queueEntry (s.readerAt.fld .SQ_CFG_BASE_IDX t) (s.readerAt.sqN t) 64 (s.readerAt.fld .SQ_HEAD t)) 64⟩ : Taken) =
      s.entryAt t := by
    have hbytes (a : Nat) : s.readerAt.bytes a 64 = s.bytes a 64 := by simp only [State.bytes, State.byte, hmem]
    simp only [State.entryAt, State.sqN, hfld, hbytes, State.now]
  have hflt : s.readerAt.hearthFault t (s.readerAt.global (queueEntry (s.readerAt.fld .SQ_CFG_BASE_IDX t) (s.readerAt.sqN t) 64
      (s.readerAt.fld .SQ_HEAD t))) 64 .r = 0 := by
    rw [hearthFault_congr (fun f _ i => hfld f i) hplans, global_congr fun f _ i => hfld f i]
    simpa only [State.sqN, hfld] using hf
  unfold takeEntry
  rw [if_neg (by simp [hturn])]
  rw [show (s.on (s.sqAt = s.clk + 1) fun s => s.advance 1) = s.readerAt from rfl]
  rw [← hrec]
  generalize s.readerAt = u at *
  extract_lets _ i a flt b _ u' r
  have hflt' : flt = 0 := hflt
  have hu : u.entryRead t = u' := rfl
  have hr : (⟨t, u.fld .SQ_HEAD t, u.now, u.bytes (queueEntry (u.fld .SQ_CFG_BASE_IDX t) (u.sqN t) 64 (u.fld .SQ_HEAD t)) 64⟩ : Taken) = r :=
    congrArg (fun n => (⟨t, i, n, b⟩ : Taken)) (entryRead_fldsBut u t _ _ (by decide)).symm
  have ht : r.hearth = t := rfl
  have hb : r.bytes = b := rfl
  rw [hflt', if_neg (by decide), hu, hr]
  clear_value u' r b
  unfold State.judge
  rw [ht, hb]

theorem judge_accepted {s : State} {r : Taken} (hf : s.fencedHearth r.hearth = false) (hok : s.formatOk r.hearth r.bytes = true) :
    s.judge r = { s with taken := s.taken ++ [r] } := by
  unfold State.judge
  simp [hf, hok]

theorem judge_malformed {s : State} {r : Taken} (hf : s.fencedHearth r.hearth = false) (hok : s.formatOk r.hearth r.bytes = false) :
    s.judge r = s.complete (takenCtx r) (.faulted 0x09) := by
  unfold State.judge
  simp [hf, hok]

theorem judge_fenced {s : State} {r : Taken} (hf : s.fencedHearth r.hearth = true) :
    s.judge r = (s.on (isPlanCmd (recCmd r.bytes)) fun s => s.admitFenced (recNum r.bytes 8 1)).complete (takenCtx r) (.refused 0x13) := if_pos hf

/-- The registers that show the end of a plan command (R47). -/
def admitFlds : List Fld := [.ADMIT_STAT_PLAN_SLOT, .ADMIT_STAT_REASON, .ADMIT_STAT_RES_ID]

theorem admitStat_reported (s : State) (p reason res : Nat) : Reported admitFlds s (s.admitStat p reason res) :=
  ((setFld_reported s (by decide) 0 p).trans (setFld_reported _ (by decide) 0 reason)).trans (setFld_reported _ (by decide) 0 res)

theorem admitFenced_reported (s : State) (p : Nat) : Reported admitFlds s (s.admitFenced p) :=
  have h := admitStat_reported s p (Config.freeNat s.free) 0xFF
  ⟨by rw [State.admitFenced, h.rest], h.windows, h.regs, h.wf⟩

theorem admitStat_shows (s : State) (p reason res : Nat) :
    (s.admitStat p reason res).fld .ADMIT_STAT_RES_ID = res % 2 ^ Fld.width .ADMIT_STAT_RES_ID ∧
      (s.admitStat p reason res).fld .ADMIT_STAT_PLAN_SLOT = p % 2 ^ Fld.width .ADMIT_STAT_PLAN_SLOT := by
  unfold State.admitStat
  refine ⟨setFld_fld_same .., ?_⟩
  rw [setFld_fld_ne _ (by decide), setFld_fld_ne _ (by decide), setFld_fld_same]

theorem admitFenced_shows (s : State) (p : Nat) :
    (s.admitFenced p).fld .ADMIT_STAT_RES_ID = 0xFF ∧
      (s.admitFenced p).fld .ADMIT_STAT_PLAN_SLOT = p % 2 ^ Fld.width .ADMIT_STAT_PLAN_SLOT :=
  admitStat_shows s p (Config.freeNat s.free) 0xFF

/-- A record is judged without a touch to the indices of the submission queues and their reader. -/
theorem judge_indices (s : State) (r : Taken) :
    (∀ i, (s.judge r).fld .SQ_HEAD i = s.fld .SQ_HEAD i) ∧ (s.judge r).sqNext = s.sqNext ∧ (s.judge r).sqAt = s.sqAt ∧ (s.judge r).clk = s.clk := by
  have hrep {t : State} (h : Reported planFlds s t) :
      (∀ i, t.fld .SQ_HEAD i = s.fld .SQ_HEAD i) ∧ t.sqNext = s.sqNext ∧ t.sqAt = s.sqAt ∧ t.clk = s.clk :=
    ⟨h.fld (by decide), (congrArg State.sqNext h.rest :), (congrArg State.sqAt h.rest :), (congrArg State.clk h.rest :)⟩
  unfold State.judge
  split
  · exact hrep (.trans (.on ((admitFenced_reported s _).mono (by decide))) ((complete_reported ..).mono (by decide)))
  · split
    · exact hrep ((complete_reported ..).mono (by decide))
    · exact ⟨fun _ => rfl, rfl, rfl, rfl⟩

/-- Settles O46. -/
theorem queueEntriesAreTaken : Obligations.QueueEntriesAreTaken := by
  intro s h hrun
  refine ⟨fun hturn => congrArg Host.Outcome.next (running_self hrun (if_pos (by simpa using hturn))), fun hturn hf => ?_⟩
  obtain ⟨t, ht, hr⟩ := live_ran hrun (takeEntry h)
  rw [takeEntry_eq hturn hf] at hr
  obtain ⟨hreg, hmem, -, htaken, -, hclk⟩ := readerAt_keeps s
  have hfld (f : Fld) (i : Nat) : s.readerAt.fld f i = s.fld f i := congrArg (mget _ _) hreg
  have hread (f : Fld) (i : Nat) (hf : f ≠ .SQ_HEAD) : (s.readerAt.entryRead h).fld f i = s.fld f i :=
    (entryRead_fldsBut s.readerAt h f i (by simpa using hf)).trans (hfld f i)
  have hhead : (s.readerAt.entryRead h).fld .SQ_HEAD h = (s.fld .SQ_HEAD h + 1) % 2 ^ 32 := (entryRead_head ..).trans (by rw [hfld])
  have hutaken : (s.readerAt.entryRead h).taken = s.taken := htaken
  have hubyte (a : Nat) : (s.readerAt.entryRead h).byte a = s.byte a := congrArg (mget 0 a) hmem
  have huclk : (s.readerAt.entryRead h).clk = (if s.sqAt = s.clk + 1 then s.clk + 1 else s.clk) := hclk
  have hunext : (s.readerAt.entryRead h).sqNext = (h.val + 1) % 16 := rfl
  have huat : (s.readerAt.entryRead h).sqAt = (s.readerAt.entryRead h).clk + 1 := rfl
  have hfence := fencedHearth_congr hread h
  have hok := formatOk_congr hread h (s.entryAt h).bytes
  have hhearth : (s.entryAt h).hearth = h := rfl
  generalize s.readerAt.entryRead h = u at *
  obtain ⟨jhead, jnext, jat, jclk⟩ := judge_indices u (s.entryAt h)
  have jfenced (hfe : s.fencedHearth h = true) := judge_fenced (s := u) (r := s.entryAt h) (hhearth ▸ hfence.trans hfe)
  have jmalformed (hnf : s.fencedHearth h = false) (hfm : s.formatOk h (s.entryAt h).bytes = false) :=
    judge_malformed (s := u) (r := s.entryAt h) (hhearth ▸ hfence.trans hnf) (hhearth ▸ hok.trans hfm)
  refine ⟨t, ht, (hr.fld _ _).trans ((jhead h).trans hhead), ?_, ?_, ?_, fun hnf hfm => ?_, fun hfe => ⟨?_, fun hn => ?_, fun hp => ?_⟩, fun hnf hfm => ?_⟩
  · rw [hr.rest]
    exact jnext.trans hunext
  · rw [hr.rest]
    exact jat.trans (huat.trans (congrArg (· + 1) jclk.symm))
  · exact hr.clk.trans (jclk.trans huclk)
  · rw [judge_accepted (s := u) (r := s.entryAt h) (hhearth ▸ hfence.trans hnf) (hhearth ▸ hok.trans hfm)] at hr
    refine ⟨hr.taken.trans (congrArg (· ++ [s.entryAt h]) hutaken), fun a => (hr.byte a).trans (hubyte a), fun f i hne => (hr.fld f i).trans (hread f i hne)⟩
  · rw [hr.taken, jfenced hfe]
    exact (complete_reported ..).taken.trans ((Reported.on (admitFenced_reported u _)).taken.trans hutaken)
  · rw [hr.fld, jfenced hfe]
    have hcount : (u.on (isPlanCmd (recCmd (s.entryAt h).bytes)) fun s' => s'.admitFenced (recNum (s.entryAt h).bytes 8 1)).fld .REFUSED_COUNT h =
        s.fld .REFUSED_COUNT h := ((Reported.on (admitFenced_reported u _)).fld (by decide) _).trans (hread _ _ (by decide))
    rw [← hcount] at hn ⊢
    exact complete_refused (x := takenCtx (s.entryAt h)) rfl rfl hn
  · obtain ⟨hres, hslot⟩ := admitFenced_shows u (recNum (s.entryAt h).bytes 8 1)
    have hon : (u.on (isPlanCmd (recCmd (s.entryAt h).bytes)) fun s' => s'.admitFenced (recNum (s.entryAt h).bytes 8 1)) =
        u.admitFenced (recNum (s.entryAt h).bytes 8 1) := if_pos hp
    rw [hr.fld, hr.fld, jfenced hfe, hon, (complete_reported ..).fld (by decide), (complete_reported ..).fld (by decide)]
    exact ⟨hres, hslot⟩
  · rw [hr.taken, jmalformed hnf hfm]
    exact (complete_reported ..).taken.trans hutaken

end Sys2Proof.Machine
end

section
/-! PROOF. The commands that submission entries bring (R304, R347, R473, R483). -/

namespace Sys2Proof.Machine

/-- The record `r` is carried out. -/
def State.carry (s : State) (r : Taken) : State := { s with taken := s.taken.erase r }

theorem onCmd_carry {s : State} {h cmd : Nat} {r : Taken} (hr : s.takenCmd h cmd = some r) (f : Taken → State → State) :
    s.onCmd h cmd f = f r (s.carry r) := onCmd_eq hr f

theorem takenCmd_hearth {s : State} {h cmd : Nat} {r : Taken} (hr : s.takenCmd h cmd = some r) : r.hearth = h := by
  unfold State.takenCmd at hr
  split at hr
  · cases hr
  · rename_i q hq
    split at hr
    · cases hr
      simpa using List.find?_some hq
    · cases hr

/-- Work that starts as it is taken and is done at once leaves one record. -/
theorem complete_done (s : State) (r : Taken) :
    s.complete (takenCtx r) {} = s.postCq r.hearth { tag := recNum r.bytes 4 2, ref := r.index % 65536 } := by
  unfold State.complete State.completeLate takenCtx State.ticksLate
  simp [State.on]

/-- Where every queued instruction is assigned none is refused. -/
theorem refuseFronts_assigned {s : State} {t : Nat} (h : ∀ q ∈ (s.hearth t).iq, assigned (wordOpc q.word) = true) (n : Nat) :
    s.refuseFronts t n = s := by
  cases n with
  | zero => rfl
  | succ n =>
    unfold State.refuseFronts
    dsimp only
    split
    · rfl
    · rename_i q hq
      have hmem : q ∈ (s.hearth t).iq := by
        unfold Hearth.front at hq
        cases hfind : (s.hearth t).iq.find? (·.prio) with
        | none =>
          rw [hfind] at hq
          exact List.mem_of_head? hq
        | some q' =>
          rw [hfind] at hq
          cases hq
          exact List.mem_of_find?_eq_some hfind
      exact if_pos (h q hmem)

/-- The entry of the instruction queue that a record asks for. -/
def instrEntry (w : Word128) (r : Taken) (cmd : Bool) : QEntry :=
  { ctx := takenCtx r, word := w, prio := (recNum r.bytes 1 1).testBit 0, deadline := recNum r.bytes 2 2, cmd := cmd }

theorem enqueueInstr_full {s : State} {r : Taken} (w : Word128) (cmd : Bool) (hl : 32 ≤ (s.hearth r.hearth).iq.length) :
    enqueueInstr w r s cmd = s.complete (takenCtx r) (.refused 0x10 2) := if_pos hl

theorem enqueueInstr_assigned {s : State} {r : Taken} {w : Word128} {cmd : Bool} (hl : (s.hearth r.hearth).iq.length < 32)
    (hq : ∀ q ∈ (s.hearth r.hearth).iq, assigned (wordOpc q.word) = true) (hw : assigned (wordOpc w) = true) :
    enqueueInstr w r s cmd =
      s.setHearth r.hearth { s.hearth r.hearth with iq := (s.hearth r.hearth).iq ++ [instrEntry w r cmd] } := by
  unfold enqueueInstr
  refine (if_neg (by omega)).trans (refuseFronts_assigned (fun q hmem => ?_) 32)
  rw [setHearth_hearth_same] at hmem
  rcases List.mem_append.mp hmem with h | h
  · exact hq q h
  · rw [List.mem_singleton.mp h]
    exact hw

/-- The transfer that a record asks for. -/
def xferEntry (r : Taken) : Xfer :=
  { ctx := takenCtx r, ptr := some (recNum r.bytes 12 4), prio := (recNum r.bytes 1 1).testBit 0, deadline := recNum r.bytes 2 2 }

theorem submitDma_full {s : State} {r : Taken} (hl : 16 ≤ (s.chan (recNum r.bytes 8 1)).queue.length) :
    submitDma r s = s.complete (takenCtx r) (.refused 0x10 1) := if_pos hl

theorem submitDma_queued {s : State} {r : Taken} (hl : (s.chan (recNum r.bytes 8 1)).queue.length < 16) :
    submitDma r s = s.setChan (recNum r.bytes 8 1)
      { s.chan (recNum r.bytes 8 1) with queue := (s.chan (recNum r.bytes 8 1)).queue ++ [xferEntry r] } := if_neg (by omega)

theorem submitPreheat_refused {s : State} {r : Taken}
    (h : s.heatSt (4 * r.hearth + recNum r.bytes 9 1) = 1 ∨ 16 ≤ (s.chan (recNum r.bytes 8 1)).queue.length) :
    submitPreheat r s = s.complete (takenCtx r) (.refused 0x10 (if s.heatSt (4 * r.hearth + recNum r.bytes 9 1) = 1 then 6 else 1)) := by
  unfold submitPreheat State.acceptHeat
  simp [h]

theorem submitPreheat_queued {s : State} {r : Taken} (hh : s.heatSt (4 * r.hearth + recNum r.bytes 9 1) ≠ 1)
    (hl : (s.chan (recNum r.bytes 8 1)).queue.length < 16) :
    submitPreheat r s = (s.setHeat (4 * r.hearth + recNum r.bytes 9 1) 1).setChan (recNum r.bytes 8 1)
      { s.chan (recNum r.bytes 8 1) with
        queue := (s.chan (recNum r.bytes 8 1)).queue ++ [{ xferEntry r with heat := some (4 * r.hearth + recNum r.bytes 9 1) }] } := by
  unfold submitPreheat State.acceptHeat
  simp [hh, Nat.not_le.mpr hl, xferEntry]

/-- What a refused command leaves, beside its record. -/
theorem refused_spec {s : State} {r : Taken} {st r0 : Nat} (hst : isRefused st = true)
    (hn : s.fld .REFUSED_COUNT r.hearth + 1 < 2 ^ Fld.width .REFUSED_COUNT) :
    (s.complete (takenCtx r) (.refused st r0)).taken = s.taken ∧
      (s.complete (takenCtx r) (.refused st r0)).fld .REFUSED_COUNT r.hearth = s.fld .REFUSED_COUNT r.hearth + 1 ∧
      (∀ q, ((s.complete (takenCtx r) (.refused st r0)).hearth q).iq = (s.hearth q).iq) ∧
      (s.complete (takenCtx r) (.refused st r0)).chans = s.chans ∧ (s.complete (takenCtx r) (.refused st r0)).heat = s.heat := by
  have h := complete_reported s (takenCtx r) (.refused st r0)
  exact ⟨h.taken, complete_refused (x := takenCtx r) hst rfl hn, (SameIq.complete s _ _).iq, (congrArg State.chans h.rest :),
    (congrArg State.heat h.rest :)⟩

/-- The record of a command that is done, where its queue has room and passes its check. -/
theorem done_written {s : State} {r : Taken} (hhold : (s.hearth r.hearth).hold = []) (ho : s.cqOcc r.hearth < s.cqN r.hearth)
    (hf : s.hearthFault r.hearth (s.global (s.cqEntry r.hearth)) 32 .w = 0) :
    (s.complete (takenCtx r) {}).taken = s.taken ∧
      (s.complete (takenCtx r) {}).fld .CQ_TAIL r.hearth = (s.fld .CQ_TAIL r.hearth + 1) % 2 ^ 32 ∧
      (∀ a, (s.complete (takenCtx r) {}).byte a = (s.setBytes (s.cqEntry r.hearth)
        (cqBytes { tag := recNum r.bytes 4 2, ref := r.index % 65536 }
          (bitsOf (s.fld .CQ_TAIL r.hearth) (s.fld .CQ_CFG_LOG2N r.hearth) 1) s.now)).byte a) ∧
      FldsBut [.CQ_TAIL, .REFETCH_COUNT] s (s.complete (takenCtx r) {}) := by
  rw [complete_done, postCq_direct (show isRefused 0 = false from rfl) (show (0 : Nat) ≠ 1 by decide) hhold ho]
  obtain ⟨htail, hbyte, hflds, -⟩ := putCq_written { tag := recNum r.bytes 4 2, ref := r.index % 65536 } hf
  exact ⟨(putCq_cqFlds ..).taken, htail, hbyte, hflds⟩

theorem carry_keeps (s : State) (r : Taken) :
    (∀ f i, (s.carry r).fld f i = s.fld f i) ∧ (∀ a, (s.carry r).byte a = s.byte a) ∧ (s.carry r).plans = s.plans ∧
      (s.carry r).hearths = s.hearths ∧ (s.carry r).taken = s.taken.erase r := ⟨fun _ _ => rfl, fun _ => rfl, rfl, rfl, rfl⟩

/-- A NOP leaves its record at CQ_TAIL. -/
theorem nop_done {s : State} {h : Fin 16} {r : Taken} (hrun : s.power = .run) (hr : s.takenCmd h 0x20 = some r)
    (hhold : (s.hearth h).hold = []) (ho : s.cqOcc h < s.cqN h) (hf : s.hearthFault h (s.global (s.cqEntry h)) 32 .w = 0) :
    ∃ t, exec (.nop h) s = .next t ∧ t.taken = s.taken.erase r ∧ t.fld .CQ_TAIL h = (s.fld .CQ_TAIL h + 1) % 2 ^ 32 ∧
      t.bytes (s.cqEntry h) 32 =
        cqBytes { tag := recNum r.bytes 4 2, ref := r.index % 65536 } (bitsOf (s.fld .CQ_TAIL h) (s.fld .CQ_CFG_LOG2N h) 1) s.now ∧
      (∀ a, (a < s.cqEntry h ∨ s.cqEntry h + 32 ≤ a) → t.byte a = s.byte a) ∧
      ∀ (f : Fld) (i : Nat), f ≠ .CQ_TAIL → f ≠ .REFETCH_COUNT → t.fld f i = s.fld f i := by
  obtain ⟨t, ht, hran⟩ := live_ran hrun fun s => s.onCmd h 0x20 fun r s => s.complete (takenCtx r) {}
  obtain ⟨hfld, hbyte, hplans, hhe, htaken⟩ := carry_keeps s r
  have hhearth : (s.carry r).hearth h = s.hearth h := congrArg (mget ({} : Hearth) h.val) hhe
  have hfault := hearthFault_congr (fun f _ i => hfld f i) hplans h
  have hglobal := global_congr fun f _ i => hfld f i
  rw [onCmd_carry hr] at hran
  generalize s.carry r = u at *
  have hentry : u.cqEntry h = s.cqEntry h := by simp only [State.cqEntry, State.cqN, hfld]
  have hroom : u.cqOcc h < u.cqN h := by simpa only [State.cqOcc, State.cqN, hfld] using ho
  have hrh := takenCmd_hearth hr
  obtain ⟨htk, htail, hw, hflds⟩ := done_written (s := u) (r := r) (by rw [hrh, hhearth, hhold]) (by rw [hrh]; exact hroom)
    (by rw [hrh, hfault, hglobal, hentry, hf])
  rw [hrh, hfld] at htail
  have hnow : u.now = s.now := hfld ..
  rw [hrh, hentry, hfld, hfld, hnow] at hw
  refine ⟨t, ht, hran.taken.trans (htk.trans htaken), (hran.fld _ _).trans htail, ?_, fun a ha => ?_, fun f i h1 h2 => ?_⟩
  · rw [hran.bytes]
    exact cqBytes_length .. ▸ bytes_written (s := u) hw
  · rw [hran.byte, hw, setBytes_byte, cqBytes_length, if_neg (by omega), hbyte]
  · exact (hran.fld f i).trans ((hflds f i (by simp [h1, h2])).trans (hfld f i))

/-- Settles O47. -/
theorem queueCommands : Obligations.QueueCommands := by
  refine ⟨fun s h r hrun hr hhold ho hf => nop_done hrun hr hhold ho hf, fun s h r hrun hr => ⟨fun hl hq hw => ?_, fun hl hn => ?_⟩,
    fun s h r hrun hr => ⟨fun hl => ?_, fun hl hn => ?_⟩, fun s h r hrun hr => ⟨fun hh hl => ?_, fun hor hn => ?_⟩⟩
  · obtain ⟨t, ht, hran⟩ := live_ran hrun fun s => s.onCmd h 0x01 fun r s => enqueueInstr (BitVec.ofNat 128 (recNum r.bytes 16 16)) r s
    have hrh := takenCmd_hearth hr
    rw [← hrh] at hl hq
    rw [onCmd_carry hr, enqueueInstr_assigned (s := s.carry r) hl hq hw, hrh] at hran
    refine ⟨t, instrEntry (BitVec.ofNat 128 (recNum r.bytes 16 16)) r false, ht, hran.taken, ?_, rfl, rfl, rfl, hrh, rfl, hran.fld, hran.byte⟩
    rw [hran.hearth, setHearth_hearth_same]
    rfl
  · obtain ⟨t, ht, hran⟩ := live_ran hrun fun s => s.onCmd h 0x01 fun r s => enqueueInstr (BitVec.ofNat 128 (recNum r.bytes 16 16)) r s
    have hrh := takenCmd_hearth hr
    rw [← hrh] at hl hn ⊢
    rw [onCmd_carry hr, enqueueInstr_full (s := s.carry r) _ _ hl] at hran
    obtain ⟨htaken, hcount, hiq, -⟩ := refused_spec (s := s.carry r) (r := r) (st := 0x10) (r0 := 2) rfl hn
    exact ⟨t, ht, hran.taken.trans htaken, (congrArg Hearth.iq (hran.hearth r.hearth)).trans (hiq r.hearth), (hran.fld _ _).trans hcount⟩
  · obtain ⟨t, ht, hran⟩ := live_ran hrun fun s => s.onCmd h 0x03 submitDma
    rw [onCmd_carry hr, submitDma_queued (s := s.carry r) hl] at hran
    refine ⟨t, xferEntry r, ht, hran.taken, ?_, rfl, takenCmd_hearth hr, rfl, hran.fld, hran.byte⟩
    rw [hran.chan, setChan_chan_same]
    rfl
  · obtain ⟨t, ht, hran⟩ := live_ran hrun fun s => s.onCmd h 0x03 submitDma
    have hrh := takenCmd_hearth hr
    rw [← hrh] at hn ⊢
    rw [onCmd_carry hr, submitDma_full (s := s.carry r) hl] at hran
    obtain ⟨htaken, hcount, -, hch, -⟩ := refused_spec (s := s.carry r) (r := r) (st := 0x10) (r0 := 1) rfl hn
    exact ⟨t, ht, hran.taken.trans htaken, (congrArg State.chans hran.rest :).trans hch, (hran.fld _ _).trans hcount⟩
  · obtain ⟨t, ht, hran⟩ := live_ran hrun fun s => s.onCmd h 0x04 submitPreheat
    have hrh := takenCmd_hearth hr
    rw [← hrh] at hh ⊢
    rw [onCmd_carry hr, submitPreheat_queued (s := s.carry r) hh hl] at hran
    refine ⟨t, { xferEntry r with heat := some (4 * r.hearth + recNum r.bytes 9 1) }, ht, hran.taken, ?_, ?_, rfl, rfl, hran.fld, hran.byte⟩
    · rw [hran.heatSt]
      exact (mget_mput_same (0 : Nat) _ 1 s.heat :)
    · rw [hran.chan, setChan_chan_same]
      rfl
  · obtain ⟨t, ht, hran⟩ := live_ran hrun fun s => s.onCmd h 0x04 submitPreheat
    have hrh := takenCmd_hearth hr
    rw [← hrh] at hor hn ⊢
    rw [onCmd_carry hr, submitPreheat_refused (s := s.carry r) hor] at hran
    obtain ⟨htaken, hcount, -, hch, hheat⟩ := refused_spec (s := s.carry r) (r := r) (st := 0x10)
      (r0 := if s.heatSt (4 * r.hearth + recNum r.bytes 9 1) = 1 then 6 else 1) rfl hn
    exact ⟨t, ht, hran.taken.trans htaken, (congrArg State.heat hran.rest :).trans hheat,
      (congrArg State.chans hran.rest :).trans hch, (hran.fld _ _).trans hcount⟩

end Sys2Proof.Machine
end

section
/-! PROOF. What waits: held records, deadlines, tags and pool locks (R369, R415, R480, R484). -/

namespace Sys2Proof.Machine

/-! ### Held records (R480) -/

theorem drainHold_one {s : State} {t : Nat} {r : CqRec} (hhold : (s.hearth t).hold = [r]) :
    s.drainHold t (s.hearth t).hold.length =
      if s.cqOcc t < s.cqN t then (s.setHearth t { s.hearth t with hold := [] }).putCq t r else s := by
  simp [hhold, State.drainHold]

theorem hold_released {s : State} {h : Fin 16} {r : CqRec} (hrun : s.power = .run) (hhold : (s.hearth h).hold = [r])
    (ho : s.cqOcc h < s.cqN h) (hf : s.hearthFault h (s.global (s.cqEntry h)) 32 .w = 0) :
    ∃ t, exec (.cqHoldRelease h) s = .next t ∧ (t.hearth h).hold = [] ∧ t.fld .CQ_TAIL h = (s.fld .CQ_TAIL h + 1) % 2 ^ 32 ∧
      t.bytes (s.cqEntry h) 32 = cqBytes r (bitsOf (s.fld .CQ_TAIL h) (s.fld .CQ_CFG_LOG2N h) 1) s.now ∧
      (∀ a, (a < s.cqEntry h ∨ s.cqEntry h + 32 ≤ a) → t.byte a = s.byte a) ∧
      ∀ (f : Fld) (i : Nat), f ≠ .CQ_TAIL → f ≠ .REFETCH_COUNT → t.fld f i = s.fld f i := by
  obtain ⟨t, ht, hran⟩ := live_ran hrun fun s => s.drainHold h (s.hearth h).hold.length
  rw [drainHold_one hhold, if_pos ho] at hran
  have hnone : ((s.setHearth h { s.hearth h with hold := [] }).hearth h).hold = [] := by rw [setHearth_hearth_same]
  have hfld (f : Fld) (i : Nat) : (s.setHearth h { s.hearth h with hold := [] }).fld f i = s.fld f i := rfl
  have hbyte (a : Nat) : (s.setHearth h { s.hearth h with hold := [] }).byte a = s.byte a := rfl
  have hfault := hearthFault_congr (fun f _ i => hfld f i) rfl h
  have hglobal := global_congr fun f _ i => hfld f i
  generalize s.setHearth h { s.hearth h with hold := [] } = u at *
  have hentry : u.cqEntry h = s.cqEntry h := by simp only [State.cqEntry, State.cqN, hfld]
  have hnow : u.now = s.now := hfld ..
  obtain ⟨htail, hw, hflds, hhe⟩ := putCq_written (s := u) r (by rw [hfault, hglobal, hentry, hf])
  rw [hfld] at htail
  rw [hentry, hfld, hfld, hnow] at hw
  refine ⟨t, ht, ?_, (hran.fld _ _).trans htail, ?_, fun a ha => ?_, fun f i h1 h2 => ?_⟩
  · exact (congrArg Hearth.hold ((hran.hearth h).trans (congrArg (mget ({} : Hearth) h.val) hhe))).trans hnone
  · rw [hran.bytes]
    exact cqBytes_length .. ▸ bytes_written (s := u) hw
  · rw [hran.byte, hw, setBytes_byte, cqBytes_length, if_neg (by omega), hbyte]
  · exact (hran.fld f i).trans ((hflds f i (by simp [h1, h2])).trans (hfld f i))

/-! ### Deadlines (R484) -/

/-- Staging SRAM, in which the queues lie, begins here; fen memory ends below. -/
abbrev stagingStart : Nat := 0x1000000000

/-- Refusals alone lie between `s` and `t`: records and their counts. -/
structure Refuses (s t : State) : Prop where
  flds : FldsBut reportFlds s t
  iq : SameIq s t
  chans : t.chans = s.chans
  taken : t.taken = s.taken
  flights : t.flights = s.flights
  low : ∀ a, a < stagingStart → t.byte a = s.byte a

namespace Refuses

variable {s t u : State}

theorem refl (s : State) : Refuses s s := ⟨.refl _ s, .refl s, rfl, rfl, rfl, fun _ _ => rfl⟩

theorem trans (h : Refuses s t) (k : Refuses t u) : Refuses s u :=
  ⟨h.flds.trans k.flds, h.iq.trans k.iq, k.chans.trans h.chans, k.taken.trans h.taken, k.flights.trans h.flights,
    fun a ha => (k.low a ha).trans (h.low a ha)⟩

theorem now (h : Refuses s t) : t.now = s.now := h.flds _ _ (by decide)

end Refuses

theorem queueEntry_staging (b n size i : Nat) : stagingStart ≤ queueEntry b n size i := by
  unfold queueEntry stagingStart
  omega

/-- Completion records lie in staging SRAM. -/
theorem putCq_low (s : State) (t : Nat) (r : CqRec) {a : Nat} (ha : a < stagingStart) : (s.putCq t r).byte a = s.byte a := by
  have hfire (u : State) (c : Bool) : (u.on c fun s => s.fireHearth t 0).byte a = u.byte a := by
    cases c
    · rfl
    · exact congrArg (mget 0 a) (fireHearth_keeps u t 0).2.1
  have hbump (u : State) (f : Fld) (i n : Nat) : (u.bump f i n).byte a = u.byte a := congrArg (mget 0 a) (bump_mem ..)
  unfold State.putCq
  dsimp only
  split
  · refine (hbump ..).trans ?_
    unfold State.countSeal State.on
    split
    · exact hbump ..
    · rfl
  · have hset (u : State) (f : Fld) (i v : Nat) : (u.setFld f i v).byte a = u.byte a := rfl
    refine (hfire ..).trans ((hset ..).trans ?_)
    rw [show_byte, setBytes_byte, if_neg]
    exact fun hin => absurd (hin.1.trans_lt ha) (Nat.not_lt.mpr (queueEntry_staging ..))

theorem postCq_low (s : State) (t : Nat) (r : CqRec) {a : Nat} (ha : a < stagingStart) : (s.postCq t r).byte a = s.byte a := by
  have hbump (u : State) (f : Fld) (i n : Nat) : (u.bump f i n).byte a = u.byte a := congrArg (mget 0 a) (bump_mem ..)
  have hcount (u : State) (c : Bool) (f : Fld) : (u.on c fun s => s.bump f t).byte a = u.byte a := by
    cases c
    · rfl
    · exact hbump ..
  unfold State.postCq
  extract_lets s₁ s₂ h
  have h₂ : s₂.byte a = s.byte a := (hcount s₁ _ _).trans (hcount s _ _)
  clear_value s₂
  split
  · exact (putCq_low s₂ t r ha).trans h₂
  · split
    · exact (hbump ..).trans h₂
    · exact h₂

/-- A refusal of a command, with or without its record. -/
theorem refuse_refuses (s : State) (x : Ctx) {st r0 : Nat} (hst : isRefused st = true) : Refuses s (s.refuse x (.refused st r0)) := by
  have hrep := refuse_reported s x (.refused st r0)
  refine ⟨hrep.fldsBut, ?_, (congrArg State.chans hrep.rest :), hrep.taken, (congrArg State.flights hrep.rest :), fun a ha => ?_⟩
  · unfold State.refuse State.completeLate
    exact .trans (.on (.postAsh s _ _)) (.on (.postCq _ _ _))
  · unfold State.refuse
    cases hcq : x.cq with
    | true =>
      obtain ⟨r, -, heq⟩ := completeLate_refused s (x := x) (st := st) (r0 := r0) (s.now - x.accept) hst hcq
      rw [heq]
      exact postCq_low s _ r ha
    | false =>
      have h30 : st ≠ 0x30 := fun h => absurd (h ▸ hst) (by decide)
      unfold State.completeLate End.refused
      simp [State.on, h30, hcq]

/-- Whether a queued instruction's deadline has passed. -/
def State.staleInstr (s : State) (q : QEntry) : Bool := q.prio && s.pastDeadline q.ctx.accept q.deadline

/-- Whether a queued transfer of hearth `t` is past its deadline. -/
def State.staleXfer (s : State) (t : Nat) (x : Xfer) : Bool := x.ctx.hearth = t && x.prio && s.pastDeadline x.ctx.accept x.deadline

/-- Hearth `t`'s instruction queue without the instructions past their deadlines. -/
def State.iqKept (s : State) (t : Nat) : State := s.setHearth t { s.hearth t with iq := (s.hearth t).iq.filter fun q => !s.staleInstr q }

/-- Channel `c`'s queue without the transfers of hearth `t` past their deadlines. -/
def State.xfersKept (s : State) (t c : Nat) : State := s.setChan c { s.chan c with queue := (s.chan c).queue.filter fun x => !s.staleXfer t x }

theorem expireQueue_eq (s : State) (t : Nat) :
    s.expireQueue t = forAll ((s.hearth t).iq.filter s.staleInstr) (fun q s => s.refuse q.ctx (.refused 0x12)) (s.iqKept t) := rfl

theorem expireChan_eq (s : State) (t c : Nat) :
    s.expireChan t c = forAll ((s.chan c).queue.filter (s.staleXfer t)) (fun x s => s.expireXfer x) (s.xfersKept t c) := rfl

theorem expireQueue_refuses (s : State) (t : Nat) : Refuses (s.iqKept t) (s.expireQueue t) := by
  rw [expireQueue_eq]
  exact forAll_rel (R := Refuses) .refl .trans _ _ (fun q _ u => refuse_refuses u q.ctx rfl) _

theorem expireXfer_refuses (s : State) (x : Xfer) : Refuses s (s.expireXfer x) := by
  unfold State.expireXfer
  refine .trans ?_ (refuse_refuses _ x.ctx rfl)
  split
  · exact .refl s
  · exact ⟨.refl _ s, .congr rfl, rfl, rfl, rfl, fun _ _ => rfl⟩

theorem expireChan_refuses (s : State) (t c : Nat) : Refuses (s.xfersKept t c) (s.expireChan t c) := by
  rw [expireChan_eq]
  exact forAll_rel (R := Refuses) .refl .trans _ _ (fun x _ u => expireXfer_refuses u x) _

/-- What the removal of late transfers from every queue leaves as it is. -/
structure Purges (s t : State) : Prop where
  flds : FldsBut reportFlds s t
  iq : SameIq s t
  taken : t.taken = s.taken
  flights : t.flights = s.flights
  low : ∀ a, a < stagingStart → t.byte a = s.byte a

theorem expireChan_purges (s : State) (t c : Nat) : Purges s (s.expireChan t c) := by
  obtain ⟨hflds, hiq, -, htaken, hflights, hlow⟩ := expireChan_refuses s t c
  exact ⟨hflds, ⟨hiq.iq⟩, htaken, hflights, hlow⟩

/-- Every channel's queue is rid of the transfers of hearth `t` past their deadlines. -/
def State.expireChans (s : State) (t : Nat) : State := forAll (upTo 64) (fun c s => s.expireChan t c) s

theorem expireChans_purges (s : State) (t : Nat) : Purges s (s.expireChans t) :=
  forAll_rel (R := Purges) (fun s => ⟨.refl _ s, .refl s, rfl, rfl, fun _ _ => rfl⟩)
    (fun h k => ⟨h.flds.trans k.flds, h.iq.trans k.iq, k.taken.trans h.taken, k.flights.trans h.flights, fun a ha => (k.low a ha).trans (h.low a ha)⟩)
    _ _ (fun c _ s => expireChan_purges s t c) s

theorem expireChan_queue (s : State) (t c k : Nat) :
    ((s.expireChan t c).chan k).queue = if k = c then (s.chan c).queue.filter (fun x => !s.staleXfer t x) else (s.chan k).queue := by
  have hch : (s.expireChan t c).chan k = (s.xfersKept t c).chan k := congrArg (mget ({} : Chan) k) (expireChan_refuses s t c).chans
  rw [hch]
  unfold State.xfersKept
  by_cases hk : k = c
  · subst hk
    rw [setChan_chan_same, if_pos rfl]
  · rw [setChan_chan_other _ hk, if_neg hk]

theorem staleXfer_congr {s u : State} (h : u.now = s.now) (t : Nat) : u.staleXfer t = s.staleXfer t := by
  funext x
  unfold State.staleXfer State.pastDeadline
  rw [h]

/-- Each channel's queue is rid of its late transfers once. -/
theorem expireChans_queue (s : State) (t : Nat) {c : Nat} (hc : c < 64) :
    ((s.expireChans t).chan c).queue = (s.chan c).queue.filter fun x => !s.staleXfer t x :=
  forAll_once (fun s => (s.chan c).queue) (fun s => (s.chan c).queue.filter fun x => !s.staleXfer t x) List.nodup_range
    (List.mem_range.mpr hc) _ (fun u => (expireChan_queue u t c c).trans (if_pos rfl))
    (fun b _ hb u => by
      have hq : ((u.expireChan t b).chan c).queue = (u.chan c).queue := (expireChan_queue u t b c).trans (if_neg (Ne.symm hb))
      exact ⟨hq, by rw [hq, staleXfer_congr ((expireChan_purges u t b).flds _ _ (by decide))]⟩) s

/-- Where no transfer is late nothing but queues is touched. -/
theorem expireChans_idle {s : State} {t : Nat} (h : ∀ c, c < 64 → ∀ x ∈ (s.chan c).queue, s.staleXfer t x = false) :
    (s.expireChans t).reg = s.reg ∧ (s.expireChans t).mem = s.mem ∧
      (s.expireChans t).heat = s.heat := by
  have hround (c : Nat) (hc : c ∈ upTo 64) (u : State) (hu : (u.reg = s.reg ∧ u.mem = s.mem ∧ u.heat = s.heat) ∧
      ∀ k, k < 64 → (u.chan k).queue = (s.chan k).queue) : ((u.expireChan t c).reg = s.reg ∧ (u.expireChan t c).mem = s.mem ∧
        (u.expireChan t c).heat = s.heat) ∧ ∀ k, k < 64 → ((u.expireChan t c).chan k).queue = (s.chan k).queue := by
    obtain ⟨⟨hr, hm, hh⟩, hq⟩ := hu
    have hc64 : c < 64 := List.mem_range.mp hc
    have hnow : u.now = s.now := congrArg (mget _ _) hr
    have hnone (x : Xfer) (hx : x ∈ (u.chan c).queue) : u.staleXfer t x = false := by
      rw [staleXfer_congr hnow]
      exact h c hc64 x (hq c hc64 ▸ hx)
    have hold : (u.chan c).queue.filter (u.staleXfer t) = [] := List.filter_eq_nil_iff.mpr fun x hx => by simp [hnone x hx]
    have heq : u.expireChan t c = u.xfersKept t c := by
      rw [expireChan_eq, hold]
      rfl
    refine ⟨heq ▸ ⟨hr, hm, hh⟩, fun k hk => ?_⟩
    rw [expireChan_queue, ← hq k hk]
    split
    · rename_i e
      subst e
      exact List.filter_eq_self.mpr fun x hx => by simp [hnone x hx]
    · rfl
  exact (forAll_rel (R := fun u v => ((u.reg = s.reg ∧ u.mem = s.mem ∧ u.heat = s.heat) ∧ ∀ k, k < 64 → (u.chan k).queue = (s.chan k).queue) →
      (v.reg = s.reg ∧ v.mem = s.mem ∧ v.heat = s.heat) ∧ ∀ k, k < 64 → (v.chan k).queue = (s.chan k).queue)
    (fun _ => id) (fun h k q => k (h q)) (upTo 64) _ hround s ⟨⟨rfl, rfl, rfl⟩, fun _ _ => rfl⟩).1

theorem expireQueue_idle {s : State} {t : Nat} (h : ∀ q ∈ (s.hearth t).iq, s.staleInstr q = false) : s.expireQueue t = s.iqKept t := by
  rw [expireQueue_eq, List.filter_eq_nil_iff.mpr fun q hq => by simp [h q hq]]
  rfl

theorem expireQueue_one {s : State} {t : Nat} {q : QEntry} (hq : (s.hearth t).iq = [q]) (h : s.staleInstr q = true) :
    s.expireQueue t = (s.iqKept t).refuse q.ctx (.refused 0x12) := by
  rw [expireQueue_eq, hq, List.filter_cons_of_pos h]
  rfl

/-- What a hearth's deadlines do. -/
theorem deadlines_expire {s : State} (h : Fin 16) (hrun : s.power = .run) : ∃ t, exec (.deadlineExpiry h) s = .next t ∧
    (t.hearth h).iq = (s.hearth h).iq.filter (fun q => !s.staleInstr q) ∧
    (∀ c, c < 64 → (t.chan c).queue = (s.chan c).queue.filter (fun x => !s.staleXfer h x)) ∧
    t.taken = s.taken ∧ t.flights = s.flights ∧ (∀ x, x < stagingStart → t.byte x = s.byte x) ∧
    ((∀ q ∈ (s.hearth h).iq, s.staleInstr q = false) → (∀ c, c < 64 → ∀ x ∈ (s.chan c).queue, s.staleXfer h x = false) →
      t.heat = s.heat ∧ (∀ f i, t.fld f i = s.fld f i) ∧ ∀ a, t.byte a = s.byte a) ∧
    ∀ q, (s.hearth h).iq = [q] → s.staleInstr q = true → q.ctx.cq = true → q.ctx.hearth = h.val →
      (∀ c, c < 64 → (s.chan c).queue = []) → s.fld .REFUSED_COUNT h + 1 < 2 ^ Fld.width .REFUSED_COUNT →
      t.fld .REFUSED_COUNT h = s.fld .REFUSED_COUNT h + 1 := by
  obtain ⟨t, ht, hran⟩ := live_ran hrun fun s => (s.expireQueue h).expireChans h
  have hq := expireQueue_refuses s h
  have hkept : ((s.iqKept h).hearth h).iq = (s.hearth h).iq.filter (fun q => !s.staleInstr q) := by
    unfold State.iqKept
    rw [setHearth_hearth_same]
  have hchan (c : Nat) : (s.expireQueue h).chan c = s.chan c := congrArg (mget ({} : Chan) c) hq.chans
  have hc := expireChans_purges (s.expireQueue h) h
  have hstale : (s.expireQueue h).staleXfer h = s.staleXfer h := staleXfer_congr hq.now h
  refine ⟨t, ht, ?_, fun c hc64 => ?_, hran.taken.trans (hc.taken.trans hq.taken), hran.flights.trans (hc.flights.trans hq.flights),
    fun x hx => (hran.byte x).trans ((hc.low x hx).trans (hq.low x hx)), fun hiq hxs => ?_, fun q hone hlate hcq hown hempty hn => ?_⟩
  · rw [hran.hearth, hc.iq.iq, hq.iq.iq, hkept]
  · rw [hran.chan, expireChans_queue _ _ hc64, hchan, hstale]
  · obtain ⟨hr, hm, hh⟩ := expireChans_idle (s := s.expireQueue h) (t := h) fun c hc64 x hx => by
      rw [hstale]
      exact hxs c hc64 x (hchan c ▸ hx)
    rw [expireQueue_idle hiq] at hr hm hh hran
    generalize (s.iqKept h).expireChans h = u at *
    exact ⟨(congrArg State.heat hran.rest :).trans hh, fun f i => (hran.fld f i).trans (congrArg (mget _ _) hr),
      fun a => (hran.byte a).trans (congrArg (mget 0 a) hm)⟩
  · obtain ⟨hr, -, -⟩ := expireChans_idle (s := s.expireQueue h) (t := h) fun c hc64 x hx => by
      rw [hchan c, hempty c hc64] at hx
      cases hx
    have hcount := refuse_refused (s := s.iqKept h) (x := q.ctx) (st := 0x12) (r0 := 0) rfl hcq (hown ▸ hn)
    rw [hown] at hcount
    rw [hran.fld]
    exact (congrArg (mget _ _) hr).trans ((expireQueue_one hone hlate ▸ rfl : _ = _).trans hcount)

/-! ### Tags (R369) -/

theorem tagReturn_spec (s : State) (t g : Nat) :
    (s.tagReturn t g).tag t g = (if 2 ≤ (s.tag t g).st ∧ (s.tag t g).closed + 64 ≤ s.now ∧ (s.tag t g).inFlight = 0 then {} else s.tag t g) ∧
      (∀ k j, k * 256 + j ≠ t * 256 + g → (s.tagReturn t g).tag k j = s.tag k j) ∧ (s.tagReturn t g).reg = s.reg ∧
      (s.tagReturn t g).mem = s.mem := by
  unfold State.tagReturn State.on
  by_cases h : 2 ≤ (s.tag t g).st ∧ (s.tag t g).closed + 64 ≤ s.now ∧ (s.tag t g).inFlight = 0
  · simp only [h, decide_true, Bool.and_self, if_true]
    exact ⟨setTag_same .., fun k j hne => setTag_other s hne _, rfl, rfl⟩
  · have h' : ¬ (decide (2 ≤ (s.tag t g).st) && decide ((s.tag t g).closed + 64 ≤ s.now) && decide ((s.tag t g).inFlight = 0)) = true := by
      simpa [and_assoc] using h
    rw [if_neg h, if_neg h']
    exact ⟨rfl, fun _ _ _ => rfl, rfl, rfl⟩

/-! ### Pool locks (R415) -/

/-- The registers that undoing a broken operation writes. -/
def unwindFlds : List Fld := [.KV_PAGES_USED, .KV_PAGES_PROV, .KV_POOL_TOP, .KV_LOST_FRAMES, .REFETCH_COUNT, .SELF_MOD_COUNT]

/-- A broken operation's undoing lies between `s` and `t`: no other register and no work in flight changes. -/
structure Unwinds (s t : State) : Prop where
  flds : FldsBut unwindFlds s t
  flights : t.flights = s.flights

namespace Unwinds

variable {s t u : State}

theorem refl (s : State) : Unwinds s s := ⟨.refl _ s, rfl⟩
theorem trans (h : Unwinds s t) (k : Unwinds t u) : Unwinds s u := ⟨h.flds.trans k.flds, k.flights.trans h.flights⟩
theorem of_reported (h : Reported unwindFlds s t) : Unwinds s t := ⟨h.fldsBut, (congrArg State.flights h.rest :)⟩
theorem setFld (s : State) {f : Fld} (hf : f ∈ unwindFlds) (i v : Nat) : Unwinds s (s.setFld f i v) := of_reported (setFld_reported s hf i v)
theorem bump (s : State) {f : Fld} (hf : f ∈ unwindFlds) (i n : Nat) : Unwinds s (s.bump f i n) := of_reported (bump_reported s hf i n)

theorem on {c : Bool} {g : State → State} (h : Unwinds s (g s)) : Unwinds s (s.on c g) := by
  cases c
  · exact .refl s
  · exact h

theorem forAll {α : Type} {l : List α} {f : α → State → State} (h : ∀ a s, Unwinds s (f a s)) : Unwinds s (Machine.forAll l f s) :=
  forAll_rel .refl .trans l f (fun a _ s => h a s) s

theorem store (s : State) (a : Nat) (bs : List Byte) : Unwinds s (s.store a bs) := by
  unfold State.store
  split
  · exact of_reported (show_reported _ (by decide) s a bs)
  · exact .forAll fun e u => of_reported (show_reported _ (by decide) u e.1 e.2)

theorem unitStore (s : State) (a : Nat) (bs : List Byte) : Unwinds s (s.unitStore a bs) := by
  unfold State.unitStore
  dsimp only
  split
  · have hdraw (k n : Nat) (u : State) : Unwinds u (u.slotDraw k n) := ⟨.refl _ u, rfl⟩
    exact (Unwinds.forAll fun e u => hdraw _ _ u).trans (store _ a bs)
  · exact .on (bump s (by decide) 0 1)

theorem dropPage (s : State) (q : Seq) (e : Nat) : Unwinds s (s.dropPage q e) := by
  unfold State.dropPage
  exact ((setFld s (by decide) q.hearth _).trans (.on (setFld _ (by decide) q.hearth _))).trans (unitStore ..)

theorem unpop (s : State) (x : Flight) (news : List (Nat × Nat × Nat)) (popped : List Nat) : Unwinds s (s.unpop x news popped) := by
  unfold State.unpop
  refine .trans (.trans (.trans (.trans (.forAll fun e u => store u _ _) (.forAll fun e u => dropPage u _ _)) (.forAll fun e u => unitStore u _ _))
    (setFld _ (by decide) _ _)) (setFld _ (by decide) _ _)

theorem unaccount (s : State) (q : Seq) : Unwinds s (s.unaccount q) :=
  .forAll fun _ u => (setFld u (by decide) q.hearth _).trans (.on (setFld _ (by decide) q.hearth _))

end Unwinds

/-- The flight that a broken lock has failed. -/
def Flight.lockLost (y : Flight) : Flight :=
  { y with status := 0x30, cause := 0x18, sub := 0, addr := 0, len := 0, r0 := 0, done := .none, fetching := false, out := [], owe := [], stack := 0 }

theorem flight_congr {s t : State} (h : t.flights = s.flights) (k : Nat) : t.flight k = s.flight k := by
  unfold State.flight
  rw [h]

/-- A flight that is rewritten under its own number. -/
theorem setFlight_same {s : State} {k : Nat} {x : Flight} {f : Flight → Flight} (hx : s.flight k = some x) (hf : ∀ y, (f y).id = y.id) :
    (s.setFlight k f).flight k = some (f x) := by
  unfold State.flight State.setFlight at *
  have hid : ((fun y : Flight => decide (y.id = k)) ∘ fun y => if y.id = k then f y else y) = fun y => decide (y.id = k) := by
    funext y
    by_cases h : y.id = k
    · simp [h, hf]
    · simp [h]
  rw [List.find?_map, hid, hx]
  have hk : x.id = k := by simpa using List.find?_some hx
  simp [hk]

theorem lockFails_spec {s : State} {k : Nat} {x : Flight} (hx : s.flight k = some x) :
    (s.lockFails x).flight k = some x.lockLost ∧ FldsBut unwindFlds s (s.lockFails x) ∧ ∀ l ∈ (s.lockFails x).locks, l.2.1 ≠ k := by
  have hk : x.id = k := by simpa using List.find?_some hx
  unfold State.lockFails
  extract_lets t u
  have hu : Unwinds s u := by
    unfold u
    split
    · exact .unpop s x _ _
    · exact .bump s (by decide) t _
    · rename_i qs fs _
      have hseq (v : State) (q : Nat) : Unwinds v (v.setSeq q {}) := ⟨.refl _ v, rfl⟩
      exact ((Unwinds.forAll fun q v => .unaccount v (v.seq q)).trans (.bump _ (by decide) t _)).trans (.forAll fun q v => hseq v q)
    · exact .refl s
  clear_value u
  have hux : (u.endLock k).flight k = some x := (flight_congr (s := s) (t := u.endLock k) hu.flights k).trans hx
  rw [hk]
  refine ⟨setFlight_same (f := Flight.lockLost) hux fun _ => rfl, .trans hu.flds (fldsBut_of_reg _ rfl), fun l hl => ?_⟩
  exact by simpa using (List.mem_filter.mp hl).2

/-- A lock is broken: the count and the mark. -/
def State.lockBroken (s : State) : State := (s.setFld .XB_STAT_LOCK_BROKEN 0 1).bump .XB_LOCK_BREAKS

theorem lockBroken_spec {s : State} (hn : s.fld .XB_LOCK_BREAKS + 1 < 2 ^ Fld.width .XB_LOCK_BREAKS) :
    s.lockBroken.fld .XB_STAT_LOCK_BROKEN = 1 ∧ s.lockBroken.fld .XB_LOCK_BREAKS = s.fld .XB_LOCK_BREAKS + 1 ∧
      FldsBut [.XB_STAT_LOCK_BROKEN, .XB_LOCK_BREAKS] s s.lockBroken ∧ s.lockBroken.mem = s.mem ∧ s.lockBroken.flights = s.flights := by
  have hkeep : (s.setFld .XB_STAT_LOCK_BROKEN 0 1).fld .XB_LOCK_BREAKS = s.fld .XB_LOCK_BREAKS := setFld_fld_ne s (by decide) 0 0 1
  have hset : (s.setFld .XB_STAT_LOCK_BROKEN 0 1).fld .XB_STAT_LOCK_BROKEN = 1 := setFld_fld_same s .XB_STAT_LOCK_BROKEN 0 1
  have hrep : Reported [.XB_LOCK_BREAKS] (s.setFld .XB_STAT_LOCK_BROKEN 0 1) s.lockBroken := bump_reported _ (by decide) 0 1
  refine ⟨(hrep.fld (by decide) 0).trans hset, ?_, .trans (setFld_fldsBut s (by decide) 0 1) (hrep.fldsBut.mono (by decide)), bump_mem .., ?_⟩
  · exact (bump_fld_self (hkeep.symm ▸ hn)).trans (congrArg (· + 1) hkeep)
  · exact (congrArg State.flights hrep.rest :)

theorem breakLock_eq {s : State} {k : Nat} {x : Flight} (hx : s.flight k = some x) (hl : x.locks = true) :
    s.breakLock k = if x.breaks = 0 then (s.lockBroken.setLock (s.lockBroken.poolPort x.ctx.hearth) k 0).setFlight k fun y => { y with breaks := 1 }
      else s.lockBroken.lockFails x := by
  unfold State.breakLock
  rw [hx]
  simp only [hl]
  rfl

theorem lock_breaks {s : State} {k : Nat} {x : Flight} (hrun : s.power = .run) (hx : s.flight k = some x) (hl : x.locks = true)
    (hn : s.fld .XB_LOCK_BREAKS + 1 < 2 ^ Fld.width .XB_LOCK_BREAKS) :
    ∃ t y, exec (.xbarLockTimeout k) s = .next t ∧ t.flight k = some y ∧ t.flag .XB_STAT_LOCK_BROKEN = true ∧
      t.fld .XB_LOCK_BREAKS = s.fld .XB_LOCK_BREAKS + 1 ∧
      (x.breaks = 0 → y = { x with breaks := 1 } ∧ (s.poolPort x.ctx.hearth, k, 0) ∈ t.locks ∧ (∀ a, t.byte a = s.byte a) ∧
        ∀ (f : Fld) (i : Nat), f ≠ .XB_STAT_LOCK_BROKEN → f ≠ .XB_LOCK_BREAKS → t.fld f i = s.fld f i) ∧
      (x.breaks ≠ 0 → y.status = 0x30 ∧ y.cause = 0x18 ∧ y.stack = 0 ∧ ∀ l ∈ t.locks, l.2.1 ≠ k) := by
  obtain ⟨t, ht, hran⟩ := live_ran hrun fun s => s.breakLock k
  rw [breakLock_eq hx hl] at hran
  obtain ⟨hset, hcount, hflds, hmem, hflights⟩ := lockBroken_spec hn
  generalize s.lockBroken = u at *
  have hux : u.flight k = some x := (flight_congr hflights k).trans hx
  have hflag : u.flag .XB_STAT_LOCK_BROKEN = true := by
    unfold State.flag
    rw [hset]
    rfl
  by_cases hb : x.breaks = 0
  · rw [if_pos hb] at hran
    have hport : u.poolPort x.ctx.hearth = s.poolPort x.ctx.hearth := congrArg localPort (hflds _ _ (by decide))
    rw [hport] at hran
    refine ⟨t, { x with breaks := 1 }, ht, ?_, (hran.flag ..).trans hflag, (hran.fld ..).trans hcount, fun _ => ⟨rfl, ?_, fun a => ?_, fun f i h1 h2 => ?_⟩,
      fun h => absurd hb h⟩
    · exact (flight_congr hran.flights k).trans
        (setFlight_same (s := u.setLock (s.poolPort x.ctx.hearth) k 0) (f := fun y => { y with breaks := 1 }) hux fun _ => rfl)
    · have hlocks : t.locks = u.locks.filter (fun l => l.2.1 != k) ++ [(s.poolPort x.ctx.hearth, k, 0)] := (congrArg State.locks hran.rest :)
      rw [hlocks]
      exact List.mem_append_right _ (List.mem_singleton_self _)
    · exact (hran.byte a).trans (congrArg (mget 0 a) hmem)
    · exact (hran.fld f i).trans (hflds f i (by simp [h1, h2]))
  · rw [if_neg hb] at hran
    obtain ⟨hfl, hfd, hlk⟩ := lockFails_spec hux
    refine ⟨t, x.lockLost, ht, (flight_congr hran.flights k).trans hfl, ?_, (hran.fld ..).trans ((hfd _ _ (by decide)).trans hcount),
      fun h => absurd h hb, fun _ => ⟨rfl, rfl, rfl, fun l hl => hlk l ?_⟩⟩
    · exact (hran.flag ..).trans ((flag_eq (hfd _ _ (by decide))).trans hflag)
    · exact (congrArg State.locks hran.rest : t.locks = _) ▸ hl

/-- Settles O48. -/
theorem waitingWork : Obligations.WaitingWork := by
  refine ⟨fun s h r hrun hhold => ⟨fun ho hf => hold_released hrun hhold ho hf, fun ho => ?_⟩, fun s h hrun => ?_, fun s h g hrun => ?_,
    fun s k x hrun hx hl hn => lock_breaks hrun hx hl hn⟩
  · exact congrArg Host.Outcome.next (running_self hrun (f := fun s => s.drainHold h (s.hearth h).hold.length)
      ((drainHold_one hhold).trans (if_neg (Nat.not_lt.mpr ho))))
  · obtain ⟨t, ht, hiq, hch, htaken, hflights, hlow, hidle, hone⟩ := deadlines_expire h hrun
    refine ⟨t, ht, hiq, hch, htaken, hflights, hlow, fun hq hx => hidle (fun q hmem => ?_) (fun c hc x hmem => ?_), fun q hq hp hlate => hone q hq ?_⟩
    · cases hp : q.prio with
      | false => simp [State.staleInstr, hp]
      | true => simpa [State.staleInstr, State.pastDeadline, hp] using hq q hmem hp
    · cases hp : x.prio with
      | false => simp [State.staleXfer, hp]
      | true =>
        have := hx c hc x hmem hp
        simp only [State.staleXfer, State.pastDeadline, decide_eq_false (Nat.not_lt.mpr this), Bool.and_false]
    · simpa [State.staleInstr, State.pastDeadline, hp] using hlate
  · obtain ⟨t, ht, hran⟩ := live_ran hrun fun s => s.tagReturn h g.toNat
    obtain ⟨hsame, hother, hr, hm⟩ := tagReturn_spec s h g.toNat
    exact ⟨t, ht, (hran.tag ..).trans hsame, fun k j hne => (hran.tag ..).trans (hother k j hne),
      fun f i => (hran.fld f i).trans (congrArg (mget _ _) hr), fun a => (hran.byte a).trans (congrArg (mget 0 a) hm)⟩

end Sys2Proof.Machine
end

section
/-! PROOF. Answers to received frames, and the KV requests of partners (R422, R424, R425, R450, R453, R455, R465, R483). -/

namespace Sys2Proof.Machine

/-! ### Frames that are for this node -/

/-- A frame's own command carries out its meaning after the frame has been taken. -/
theorem frame_ran {s : State} {f : Frame} {ty : Nat} {c : Instr} {n : Nat} {g : State → State} (hrun : s.power = .run) (hf : frameIs ty f = true)
    (hres : reservedOk f = true) (hexec : exec c s = liveIf (frameIs ty f) s fun s => s.onFrame n f g) :
    ∃ u t, TookFrame s u ∧ exec c s = .next t ∧ Ran (g u) t := by
  obtain ⟨u, hu, heq⟩ := onFrame_took (s := s) hres n g
  obtain ⟨t, ht, hr⟩ := live_ran hrun fun s => s.onFrame n f g
  rw [heq] at hr
  exact ⟨u, t, hu, hexec.trans ((if_pos hf).trans ht), hr⟩

theorem routed_here {s u : State} {f : Frame} (hu : TookFrame s u) (hdst : frameLocal f = true ∨ frameDst f = s.ownNode) (n : Nat)
    (addr : Option Nat) (g : State → State) : u.routed n f addr g = g u := by
  have hown : u.ownNode = s.ownNode := hu.fld ..
  exact if_pos (by simpa [hown] using hdst)

theorem frameType_of_is {f : Frame} {ty : Nat} (h : frameIs ty f = true) : frameType f = ty := by
  unfold frameIs at h
  simpa using (Bool.and_eq_true_iff.mp h).2

/-! ### Answers -/

/-- The first header word of a built frame. -/
theorem mkFrame_hdr {ty dst src hi : Nat} {loc planned : Bool} {more : List Nat} {data : List Byte} (hty : ty < 256) :
    frameType (mkFrame ty dst src loc planned hi more data) = ty ∧
      hdr (mkFrame ty dst src loc planned hi more data) 0 32 16 = hi % 2 ^ 16 ∧
      hdr (mkFrame ty dst src loc planned hi more data) 0 48 8 = hi / 2 ^ 16 % 2 ^ 8 := by
  have hl : b2n loc ≤ 1 := by cases loc <;> decide
  have hp : b2n planned ≤ 1 := by cases planned <;> decide
  simp only [frameType, hdr, mkFrame, List.getD_cons_zero, BitVec.toNat_ofNat, bitsOf]
  generalize b2n loc = l at *
  generalize b2n planned = p at *
  omega

theorem reply_link (s : State) (n : Nat) (f : Frame) (ty hi : Nat) (more : List Nat) (data : List Byte) :
    ∃ k, (frameLocal f = true → k = n) ∧ s.reply n f ty hi more data = s.sendLink k (s.answerTo f ty hi more data) := by
  unfold State.reply
  cases hl : frameLocal f with
  | true => exact ⟨n, fun _ => rfl, rfl⟩
  | false =>
    by_cases hp : framePlanned f = true
    · exact ⟨n, fun _ => rfl, if_pos (by simp [hp])⟩
    · exact ⟨_, fun h => by simp at h, if_neg (by simp [hp])⟩

/-- An answer waits on its link, with the request's number. -/
theorem reply_spec (s : State) (n : Nat) (f : Frame) {ty hi : Nat} (hty : ty < 256) (more : List Nat) (data : List Byte) :
    ∃ k g, (frameLocal f = true → k = n) ∧ s.reply n f ty hi more data = s.sendLink k g ∧ frameType g = ty ∧ hdr g 0 32 16 = hi % 2 ^ 16 ∧
      hdr g 0 48 8 = hi / 2 ^ 16 % 2 ^ 8 ∧ g.data = data := by
  obtain ⟨k, hk, heq⟩ := reply_link s n f ty hi more data
  obtain ⟨h1, h2, h3⟩ := mkFrame_hdr (dst := frameSrc f) (src := if frameLocal f then 0 else s.ownNode) (loc := frameLocal f)
    (planned := framePlanned f) (hi := hi) (more := more) (data := data) hty
  exact ⟨k, _, hk, heq, h1, h2, h3, rfl⟩

theorem reqId_lt (f : Frame) : reqId f < 2 ^ 16 := Nat.mod_lt _ (by decide)

/-- The type of the answer that refuses a request. -/
def faultType (ty : Nat) : Nat := if ty = 0x10 then 0x19 else if ty = 0x11 then 0x1B else 0x1C

/-- What a refusal says of its cause: a completion always names a fault. -/
def faultCode (ty cause : Nat) : Nat := if ty = 0x12 then 0x30 else cause

/-- A refused request is answered with its number and cause. -/
theorem answerFault_spec (s : State) (n : Nat) {f : Frame} (hty : frameType f = 0x10 ∨ frameType f = 0x11 ∨ frameType f = 0x12) {cause : Nat}
    (hc : cause < 2 ^ 8) :
    ∃ k g, s.answerFault n f cause = s.sendLink k g ∧ frameType g = faultType (frameType f) ∧ hdr g 0 32 16 = reqId f ∧
      hdr g 0 48 8 = faultCode (frameType f) cause := by
  have hid := reqId_lt f
  have hlo (c : Nat) : (reqId f + c * 2 ^ 16) % 2 ^ 16 = reqId f := by omega
  have hhi {c : Nat} (h : c < 2 ^ 8) : (reqId f + c * 2 ^ 16) / 2 ^ 16 % 2 ^ 8 = c := by omega
  unfold State.answerFault
  rcases hty with h | h | h
  · obtain ⟨k, g, -, heq, ht, h2, h3, -⟩ := reply_spec s n f (ty := 0x19) (hi := reqId f + cause * 2 ^ 16) (by decide) [s.now] []
    simp only [h]
    exact ⟨k, g, heq, ht, h2.trans (hlo _), h3.trans (hhi hc)⟩
  · obtain ⟨k, g, -, heq, ht, h2, h3, -⟩ := reply_spec s n f (ty := 0x1B) (hi := reqId f + cause * 2 ^ 16) (by decide) [] []
    simp only [h]
    exact ⟨k, g, heq, ht, h2.trans (hlo _), h3.trans (hhi hc)⟩
  · obtain ⟨k, g, -, heq, ht, h2, h3, -⟩ := reply_spec s n f (ty := 0x1C) (hi := reqId f + 0x30 * 2 ^ 16) (by decide) [0, 0] []
    simp only [h]
    exact ⟨k, g, heq, ht, h2.trans (hlo _), h3.trans (hhi (by decide))⟩

theorem sendLink_here (s : State) (k : Nat) (g : Frame) : g ∈ ((s.sendLink k g).link k).txq := by
  rw [sendLink_txq]
  exact List.mem_append_right _ (List.mem_singleton_self g)

/-! ### KV requests of partners -/

/-- The word that a KVREQ carries. -/
def kvreqWord (f : Frame) : Word128 := BitVec.ofNat 128 (hdr f 1 0 64 + hdr f 2 0 64 * 2 ^ 64)

/-- A request with the hearth's key, to a hearth with room, joins its queue. -/
theorem kvreq_queued {s : State} {n : Nat} {f : Frame} (hoff : s.chip ≠ chipOffReady) (hkey : hdr f 3 0 32 = s.fld .PKEY (hdr f 0 48 4))
    (hfen : s.fencedHearth (hdr f 0 48 4) = false) (hasg : assigned (wordOpc (kvreqWord f)) = true) (hcls : wordClass (kvreqWord f) = 8)
    (hiq : (s.hearth (hdr f 0 48 4)).iq = []) :
    s.kvreq n f = s.setHearth (hdr f 0 48 4)
      { s.hearth (hdr f 0 48 4) with iq := [{ ctx := s.kvreqCtx n f, word := kvreqWord f, prio := false, deadline := 0 }] } := by
  unfold State.kvreq
  extract_lets x h w
  have hx : x.hearth = hdr f 0 48 4 := rfl
  have hw : w = kvreqWord f := rfl
  have hh : h = s.hearth (hdr f 0 48 4) := rfl
  rw [if_neg (by simp [hoff, hx, hkey]), if_neg (by simp [hx, hfen]), if_neg (by simp [hw, hcls]), if_neg (by simp [hh, hiq]), hx]
  have hnil : h.iq = [] := hiq
  rw [hnil, List.nil_append]
  refine refuseFronts_assigned (fun q hq => ?_) 32
  rw [setHearth_hearth_same] at hq
  rw [List.mem_singleton.mp hq]
  exact hasg

theorem kvreq_refused {s : State} {n : Nat} {f : Frame} (hkey : hdr f 3 0 32 ≠ s.fld .PKEY (hdr f 0 48 4)) :
    s.kvreq n f = s.answerFault n f 0 := by
  unfold State.kvreq
  exact if_pos (by simp [State.kvreqCtx, hkey])

/-- A completion that starts to leave pays its credits. -/
theorem startFrame_spec (s : State) (n : Nat) {f : Frame} (hty : frameType f = 0x1C) :
    ((s.startFrame n f).link n).txq = (s.link n).txq.erase f ∧ ((s.startFrame n f).link n).txCur = follow (s.link n).txCur f ∧
      ((sendCost f).1 = 2 → (s.startFrame n f).fld .CREDITS_RSP_AVAIL n =
        (s.fld .CREDITS_RSP_AVAIL n - (sendCost f).2) % 2 ^ Fld.width .CREDITS_RSP_AVAIL) ∧
      FldsBut [.CREDITS_RSP_AVAIL] s (s.startFrame n f) ∧ (s.startFrame n f).mem = s.mem := by
  have hone : (sendCost f).1 ≠ 1 := by
    unfold sendCost sendRank
    simp only [hty]
    by_cases hp : framePlanned f <;> simp [hp]
  have hleave : (s.link n).leaving f s.clk = f := by
    unfold Link.leaving
    split
    · rw [if_neg (by simp [hty])]
    · rfl
  unfold State.startFrame
  extract_lets c l sent v
  have hl : v.link n = { l with txq := l.txq.erase f, again := l.again.erase f, markAt := if frameType f = 0x08 then none else l.markAt, txCur := follow l.txCur (l.leaving f s.clk), txSlot := s.slotNow, txPlanned := sent } := setLink_link_same ..
  have hq : (v.link n).txq = l.txq.erase f := (congrArg Link.txq hl :)
  have hc : (v.link n).txCur = follow l.txCur f := (congrArg Link.txCur hl).trans (congrArg (follow l.txCur) hleave)
  have hv : ∀ g i, v.fld g i = s.fld g i := fun _ _ => rfl
  have hm : v.mem = s.mem := rfl
  clear_value v
  split
  · rename_i h1
    exact absurd h1 hone
  · refine ⟨hq, hc, fun _ => ?_, .trans (fun g i _ => hv g i) (setFld_fldsBut v (by decide) n _), hm⟩
    rw [setFld_fld_same, hv]
  · rename_i h2
    exact ⟨hq, hc, fun h => absurd h h2, fun g i _ => hv g i, hm⟩

/-- Settles O44. -/
theorem partnerRequests : Obligations.PartnerRequests := by
  refine ⟨fun s n f hrun hf hres hoff hkey hfen hasg hcls hiq => ?_, fun s n f hrun hf hres hkey => ?_,
    fun s n f hrun hf hq hlock hstart hsend => ?_⟩
  · obtain ⟨u, t, hu, ht, hr⟩ := frame_ran (c := .kvreq n f) hrun hf hres rfl
    have hh : u.hearths = s.hearths := by rw [hu.rest]
    have hhearth : u.hearth (hdr f 0 48 4) = s.hearth (hdr f 0 48 4) := congrArg (mget ({} : Hearth) _) hh
    have hchip : u.chip = s.chip := hu.fld ..
    have hfu : u.fencedHearth (hdr f 0 48 4) = false := (fencedHearth_congr (fun g i _ => hu.fld g i) _).trans hfen
    rw [kvreq_queued (s := u) (hchip ▸ hoff) (hkey.trans (hu.fld ..).symm) hfu hasg hcls (by rw [hhearth, hiq])] at hr
    refine ⟨t, { ctx := u.kvreqCtx n f, word := kvreqWord f, prio := false, deadline := 0 }, ht, ?_, rfl, rfl, ?_, rfl, rfl,
      fun a => (hr.byte a).trans (congrArg (mget 0 a) hu.leaves.mem)⟩
    · rw [hr.hearth, setHearth_hearth_same]
    · exact hu.fld ..
  · obtain ⟨u, t, hu, ht, hr⟩ := frame_ran (c := .kvreq n f) hrun hf hres rfl
    have hkf : frameType f = 0x12 := frameType_of_is hf
    obtain ⟨k, g, heq, hty, hid, -⟩ := answerFault_spec u n (.inr (.inr hkf)) (cause := 0) (by decide)
    rw [kvreq_refused (s := u) (by rw [hu.fld]; exact hkey), heq] at hr
    refine ⟨t, k, g, ht, ?_, fun a => (hr.byte a).trans (congrArg (mget 0 a) hu.leaves.mem), fun x i => (hr.fld x i).trans (hu.fld x i), ?_,
      hty.trans (by rw [hkf]; rfl), hid⟩
    · exact (congrArg State.hearths hr.rest :).trans (by rw [hu.rest] : u.hearths = s.hearths)
    · rw [hr.link]
      exact sendLink_here ..
  · obtain ⟨t, ht, hr⟩ := live_ran hrun fun s => if (s.link n).txq.contains f then s.on (s.hasLock n && s.mayStart n f && s.maySend n f)
      fun s => s.startFrame n f else s.onFrame n f id
    have hgo : (if (s.link n).txq.contains f then s.on (s.hasLock n && s.mayStart n f && s.maySend n f) fun s => s.startFrame n f
        else s.onFrame n f id) = s.startFrame n f := by
      rw [if_pos (by simp [hq]), hlock, hstart, hsend]
      rfl
    rw [hgo] at hr
    obtain ⟨htxq, hcur, hpay, hflds, hmem⟩ := startFrame_spec s n (frameType_of_is hf)
    refine ⟨t, (if_pos hf).trans ht, ?_, ?_, fun h2 => (hr.fld _ _).trans (hpay h2), fun x i hx => (hr.fld x i).trans (hflds x i (by simp [hx])),
      fun a => (hr.byte a).trans (congrArg (mget 0 a) hmem)⟩
    · rw [hr.link, htxq, hq]
      simp
    · rw [hr.link, hcur]

end Sys2Proof.Machine
end

section
/-! PROOF. What resolves this chip's posted writes and reads (R452, R454, R455). -/

namespace Sys2Proof.Machine

/-! ### Outstanding writes -/

section
variable {fs : List Fld} {s t : State} (h : Reported fs s t)
include h

theorem Reported.posted : t.posted = s.posted := (congrArg State.posted h.rest :)
theorem Reported.reads : t.reads = s.reads := (congrArg State.reads h.rest :)
theorem Reported.lateWids : t.lateWids = s.lateWids := (congrArg State.lateWids h.rest :)

/-- A record may shorten an ember's fetch window, and does nothing else to it. -/
theorem Reported.ember (e : Nat) : ∃ w v, t.ember e = { s.ember e with win := w, stale := v } := ⟨_, _, h.windows e⟩

end

/-- What the last acknowledgement of a leaving node sends changes nothing but links and the node's own book. -/
theorem sendLeave_rest (s : State) : ∃ l n, s.sendLeave = { s with links := l, node := n } := by
  unfold State.sendLeave
  split
  · exact ⟨_, _, rfl⟩
  · dsimp only
    split
    · exact ⟨_, _, rfl⟩
    · exact ⟨_, _, sendNode_rest ..⟩

/-- Whether an acknowledgement of `k + 1` writes from WID `w` on names `p`. -/
theorem ackWid_spec (s : State) (w : Nat) :
    (∀ p, p ∈ (s.ackWid w).posted ↔ p ∈ s.posted ∧ p.wid ≠ w) ∧ (s.ackWid w).mem = s.mem := by
  unfold State.ackWid
  split
  · exact ⟨fun p => by simp, rfl⟩
  · rename_i hnone
    have hne (p : Posted) (hp : p ∈ s.posted) : p.wid ≠ w := fun h => hnone (List.any_eq_true.mpr ⟨p, hp, by simpa using h⟩)
    have hposted : (s.on (s.isLate w) fun s => s.bump .LATE_RESP_COUNT).posted = s.posted :=
      (Reported.on (bump_reported s (List.mem_singleton_self Fld.LATE_RESP_COUNT) 0 1)).posted
    have hmem : (s.on (s.isLate w) fun s => s.bump .LATE_RESP_COUNT).mem = s.mem := by
      unfold State.on
      split
      · exact bump_mem ..
      · rfl
    exact ⟨fun p => by rw [hposted]; exact ⟨fun h => ⟨h, hne p h⟩, And.left⟩, hmem⟩

theorem ackWids_spec (l : List Nat) (w : Nat → Nat) (s : State) :
    (∀ p, p ∈ (forAll l (fun k s => s.ackWid (w k)) s).posted ↔ p ∈ s.posted ∧ ∀ k ∈ l, p.wid ≠ w k) ∧
      (forAll l (fun k s => s.ackWid (w k)) s).mem = s.mem := by
  induction l generalizing s with
  | nil => exact ⟨fun p => by simp [forAll], rfl⟩
  | cons k l ih =>
    obtain ⟨hp, hm⟩ := ackWid_spec s (w k)
    obtain ⟨ihp, ihm⟩ := ih (s.ackWid (w k))
    refine ⟨fun p => (ihp p).trans ?_, ihm.trans hm⟩
    rw [hp, List.forall_mem_cons, and_assoc]

theorem ack_spec (s : State) (f : Frame) :
    (∀ p, p ∈ (s.ack f).posted ↔ p ∈ s.posted ∧ ∀ k, k ≤ hdr f 0 48 8 → p.wid ≠ (reqId f + k) % 65536) ∧ (s.ack f).mem = s.mem := by
  obtain ⟨hp, hm⟩ := ackWids_spec (upTo (hdr f 0 48 8 + 1)) (fun k => (reqId f + k) % 65536) s
  unfold State.ack
  generalize forAll (upTo (hdr f 0 48 8 + 1)) (fun k s => s.ackWid ((reqId f + k) % 65536)) s = u at *
  obtain ⟨l, n, hl⟩ := sendLeave_rest u
  rw [hl]
  refine ⟨fun p => (hp p).trans ?_, hm⟩
  simp only [upTo, List.mem_range, Nat.lt_succ_iff]

/-- Where one of the failed write's owners is no ember that waits for it, nothing more comes of it. -/
theorem failPut_idle {s : State} {p : Posted} (h : ∀ e tag, p.owner = .ember e tag → (s.ember e).wait = .none) : s.failPut p = s := by
  unfold State.failPut
  split
  · rename_i e tag howner
    have := h e tag howner
    simp [this]
  · rfl

theorem failPut_books (s : State) (p : Posted) : (s.failPut p).posted = s.posted ∧ (s.failPut p).lateWids = s.lateWids := by
  unfold State.failPut
  split
  · dsimp only
    split
    · split <;> exact ⟨rfl, rfl⟩
    · exact ⟨rfl, rfl⟩
  · exact ⟨rfl, rfl⟩

theorem blame_books (s : State) (o : Owner) (cause : Nat) (ash : Option Nat) :
    (s.blame o cause ash).posted = s.posted ∧ (s.blame o cause ash).lateWids = s.lateWids ∧ (s.blame o cause ash).reads = s.reads := by
  have hon (c : Bool) (g : State → State) (hg : (g s).posted = s.posted ∧ (g s).lateWids = s.lateWids ∧ (g s).reads = s.reads) :
      (s.on c g).posted = s.posted ∧ (s.on c g).lateWids = s.lateWids ∧ (s.on c g).reads = s.reads := by
    cases c
    · exact ⟨rfl, rfl, rfl⟩
    · exact hg
  cases o with
  | ember e tag => exact hon _ _ ⟨rfl, rfl, rfl⟩
  | dma c planned => exact hon _ _ ⟨rfl, rfl, rfl⟩
  | _ => exact ⟨rfl, rfl, rfl⟩

/-- The ember that wrote counts its backdraft. -/
theorem blame_ember {s : State} {e tag : Nat} (hl : (s.ember e).live = true) (ht : (s.ember e).incarn * 2048 + e = tag) (cause : Nat) (ash : Option Nat) :
    (s.blame (.ember e tag) cause ash).ember e = { s.ember e with backdrafts := min ((s.ember e).backdrafts + 1) 0xFFFF } := by
  unfold State.blame State.on
  simp only [hl, ht, decide_true, Bool.and_self, if_true]
  exact setEmber_ember_same ..

/-- A failed write leaves the books, and its ember counts it. -/
theorem failWrite_spec (s : State) (p : Posted) (cause fail : Nat) :
    (∀ q, q ∈ (s.failWrite p cause fail).posted ↔ q ∈ s.posted ∧ q.wid ≠ p.wid) ∧ (s.failWrite p cause fail).lateWids = s.lateWids ∧
      ∀ e tag, p.owner = .ember e tag → (s.ember e).live = true → (s.ember e).incarn * 2048 + e = tag → (s.ember e).wait = .none →
        ((s.failWrite p cause fail).ember e).backdrafts = min ((s.ember e).backdrafts + 1) 0xFFFF := by
  unfold State.failWrite
  extract_lets u
  have hposted : u.posted = s.posted.filter fun q => q.wid != p.wid := rfl
  have hlate : u.lateWids = s.lateWids := rfl
  have hember (e : Nat) : u.ember e = s.ember e := rfl
  clear_value u
  dsimp only
  have hrep := postAsh_reported u p.hearth { cause := 0x20 + cause, origin := (u.ownerTag p.owner).2, tag := (u.ownerTag p.owner).1, addr := p.addr, len := p.len, issue := p.issue, fail := fail }
  generalize u.postAsh p.hearth { cause := 0x20 + cause, origin := (u.ownerTag p.owner).2, tag := (u.ownerTag p.owner).1, addr := p.addr, len := p.len, issue := p.issue, fail := fail } = v at *
  obtain ⟨hbp, hbl, -⟩ := blame_books v p.owner (0x20 + cause) (some (u.fld .AQ_TAIL p.hearth))
  obtain ⟨hfp, hfl⟩ := failPut_books (v.blame p.owner (0x20 + cause) (some (u.fld .AQ_TAIL p.hearth))) p
  refine ⟨fun q => ?_, hfl.trans (hbl.trans (hrep.lateWids.trans hlate)), fun e tag howner hl ht hw => ?_⟩
  · rw [hfp, hbp, hrep.posted, hposted]
    simp
  · have hv : (v.ember e).live = (s.ember e).live ∧ (v.ember e).incarn = (s.ember e).incarn ∧ (v.ember e).wait = (s.ember e).wait ∧
        (v.ember e).backdrafts = (s.ember e).backdrafts := by
      rw [← hember e]
      have h := hrep.windows e
      exact ⟨(congrArg Ember.live h :), (congrArg Ember.incarn h :), (congrArg Ember.wait h :), (congrArg Ember.backdrafts h :)⟩
    obtain ⟨hvl, hvi, hvw, hvb⟩ := hv
    have hbl := blame_ember (s := v) (e := e) (tag := tag) (hvl.trans hl) (by rw [hvi]; exact ht) (0x20 + cause) (some (u.fld .AQ_TAIL p.hearth))
    rw [howner, failPut_idle, hbl, ← hvb]
    intro e' tag' h'
    obtain ⟨rfl, rfl⟩ := Owner.ember.inj (howner.symm.trans h')
    rw [hbl]
    exact hvw.trans hw

/-! ### Outstanding reads -/

/-- `t` waits for no read that `s` does not wait for. -/
def FewerReads (s t : State) : Prop := ∀ q ∈ t.reads, q ∈ s.reads

theorem FewerReads.of_eq {s t : State} (h : t.reads = s.reads) : FewerReads s t := fun _ hq => h ▸ hq
theorem FewerReads.trans {s t u : State} (h : FewerReads s t) (k : FewerReads t u) : FewerReads s u := fun q hq => h q (k q hq)

theorem tryFree_reads (s : State) (e : Nat) : (s.tryFree e).reads = s.reads := by
  unfold State.tryFree
  dsimp only
  split
  · exact (Reported.on (complete_reported ..)).reads
  · rfl

theorem emberFail_reads (s : State) (e : Nat) (m : Ember) (pc : Nat) (end_ : End) : FewerReads s (s.emberFail e m pc end_) := by
  unfold State.emberFail
  extract_lets x reeds s₁ s₂
  have h₁ : s₁.reads = s.reads := (bump_reported s (List.mem_singleton_self Fld.EMB_FAULT_COUNT) 0 1).reads
  have h₂ : FewerReads s s₂ := fun q hq => h₁ ▸ (List.mem_filter.mp hq).1
  exact h₂.trans (.of_eq ((tryFree_reads ..).trans (complete_reported ..).reads))

theorem undefBytes_reads (s : State) (a n : Nat) : (s.undefBytes a n).reads = s.reads :=
  (show_reported [.REFETCH_COUNT] (by decide) { s with free := s.free + n } a _).reads

theorem faultFlight_reads (s : State) (k cause arg : Nat) : (s.faultFlight k cause arg).reads = s.reads := by
  unfold State.faultFlight
  split
  · rfl
  · split
    · rfl
    · show (s.spoil _).reads = s.reads
      unfold State.spoil
      split <;> exact forAll_keeps State.reads _ _ (fun _ _ _ => undefBytes_reads ..) s

theorem dropMove_reads (s : State) (id a : Nat) : (s.dropMove id a).reads = s.reads := by
  unfold State.dropMove
  split
  · rfl
  · split
    · rfl
    · split
      · exact forAll_keeps State.reads _ _ (fun _ _ _ => undefBytes_reads ..) s
      · rfl

/-- A failed read is no longer waited for. -/
theorem failRead_reads (s : State) (r : RemoteRead) (cause : Nat) : ∀ q ∈ (s.failRead r cause).reads, q ∈ s.reads ∧ q.rid ≠ r.rid := by
  unfold State.failRead
  extract_lets u
  have hu : ∀ q ∈ u.reads, q ∈ s.reads ∧ q.rid ≠ r.rid := fun q hq => by simpa [u] using hq
  clear_value u
  suffices h : FewerReads u _ from fun q hq => hu q (h q hq)
  split
  · dsimp only
    split
    · exact .of_eq rfl
    · split
      · exact .of_eq rfl
      · exact emberFail_reads _ _ _ _ _
  · unfold State.on
    split <;> exact .of_eq rfl
  · split
    · exact .of_eq rfl
    · split
      · exact .of_eq rfl
      · exact .of_eq (faultFlight_reads ..)
  · exact .of_eq ((dropMove_reads ..).trans (blame_books ..).2.2)
  · exact .of_eq rfl
  · exact .of_eq rfl

/-! ### The answers and their absence -/

theorem bdraft_spec {s : State} {f : Frame} {p : Posted} (hp : s.posted.find? (·.wid = reqId f) = some p) (hn : s.fld .BDRAFT_COUNT + 1 < 2 ^ 32) :
    (s.bdraft f).fld .BDRAFT_COUNT = s.fld .BDRAFT_COUNT + 1 ∧ (∀ q, q ∈ (s.bdraft f).posted ↔ q ∈ s.posted ∧ q.wid ≠ p.wid) ∧
      ∀ e tag, p.owner = .ember e tag → (s.ember e).live = true → (s.ember e).incarn * 2048 + e = tag → (s.ember e).wait = .none →
        ((s.bdraft f).ember e).backdrafts = min ((s.ember e).backdrafts + 1) 0xFFFF := by
  have heq : s.bdraft f = ((s.bump .BDRAFT_COUNT).failWrite p (hdr f 0 48 8) (hdr f 1 0 48)).sendLeave := by
    unfold State.bdraft
    rw [hp]
  have hrep := bump_reported s (List.mem_singleton_self Fld.BDRAFT_COUNT) 0 1
  have hcount : (s.bump .BDRAFT_COUNT).fld .BDRAFT_COUNT = s.fld .BDRAFT_COUNT + 1 := bump_fld_self hn
  have hember (e : Nat) : (s.bump .BDRAFT_COUNT).ember e = s.ember e := congrArg (mget ({} : Ember) e) (by
    unfold State.bump
    split <;> rfl : (s.bump .BDRAFT_COUNT).embers = s.embers)
  rw [heq]
  generalize s.bump .BDRAFT_COUNT = u at *
  obtain ⟨hposted, -, hback⟩ := failWrite_spec u p (hdr f 0 48 8) (hdr f 1 0 48)
  have hflds := failWrite_fldsBut u p (hdr f 0 48 8) (hdr f 1 0 48)
  generalize u.failWrite p (hdr f 0 48 8) (hdr f 1 0 48) = v at *
  obtain ⟨l, n, hl⟩ := sendLeave_rest v
  rw [hl]
  refine ⟨(hflds .BDRAFT_COUNT 0 (by decide)).trans hcount, fun q => (hposted q).trans (by rw [hrep.posted]), fun e tag ho hlive ht hw => ?_⟩
  rw [← hember e] at hlive ht hw ⊢
  exact hback e tag ho hlive ht hw

theorem writeLost_spec {s : State} {wid : Nat} {p : Posted} (hp : s.posted.find? (·.wid = wid) = some p) (hage : p.issue + 64 ≤ s.now)
    (hn : s.fld .LOST_COUNT + 1 < 2 ^ 32) :
    (s.writeLost wid).fld .LOST_COUNT = s.fld .LOST_COUNT + 1 ∧ (∀ q, q ∈ (s.writeLost wid).posted ↔ q ∈ s.posted ∧ q.wid ≠ p.wid) ∧
      (p.wid, s.now + 64) ∈ (s.writeLost wid).lateWids := by
  have heq : s.writeLost wid = (s.loseWrite p).sendLeave := by
    unfold State.writeLost
    rw [hp]
    exact if_pos (by simpa using hage)
  have hrep := bump_reported s (List.mem_singleton_self Fld.LOST_COUNT) 0 1
  have hcount : (s.bump .LOST_COUNT).fld .LOST_COUNT = s.fld .LOST_COUNT + 1 := bump_fld_self hn
  rw [heq]
  unfold State.loseWrite
  generalize s.bump .LOST_COUNT = u at *
  have hv : ({ u with lateWids := s.lateWids ++ [(p.wid, s.now + 64)] } : State).posted = s.posted := hrep.posted
  have hvl : ({ u with lateWids := s.lateWids ++ [(p.wid, s.now + 64)] } : State).lateWids = s.lateWids ++ [(p.wid, s.now + 64)] := rfl
  have hvf : ({ u with lateWids := s.lateWids ++ [(p.wid, s.now + 64)] } : State).fld .LOST_COUNT = s.fld .LOST_COUNT + 1 := hcount
  generalize ({ u with lateWids := s.lateWids ++ [(p.wid, s.now + 64)] } : State) = v at *
  obtain ⟨hposted, hlate, -⟩ := failWrite_spec v p 0x05 s.now
  have hflds := failWrite_fldsBut v p 0x05 s.now
  generalize v.failWrite p 0x05 s.now = w at *
  obtain ⟨l, n, hl⟩ := sendLeave_rest w
  rw [hl]
  refine ⟨(hflds .LOST_COUNT 0 (by decide)).trans hvf, fun q => (hposted q).trans (by rw [hv]), ?_⟩
  show _ ∈ w.lateWids
  rw [hlate, hvl]
  exact List.mem_append_right _ (List.mem_singleton_self _)

theorem readLost_spec {s : State} {rid : Nat} {r : RemoteRead} (hr : s.reads.find? (·.rid = rid) = some r) (hage : r.issue + 64 ≤ s.now)
    (hn : s.fld .LOST_COUNT + 1 < 2 ^ 32) :
    (s.readLost rid).fld .LOST_COUNT = s.fld .LOST_COUNT + 1 ∧ ∀ q ∈ (s.readLost rid).reads, q ∈ s.reads ∧ q.rid ≠ r.rid := by
  have heq : s.readLost rid = (s.bump .LOST_COUNT).failRead r 0x25 := by
    unfold State.readLost
    rw [hr]
    exact if_pos (by simpa using hage)
  have hrep := bump_reported s (List.mem_singleton_self Fld.LOST_COUNT) 0 1
  have hcount : (s.bump .LOST_COUNT).fld .LOST_COUNT = s.fld .LOST_COUNT + 1 := bump_fld_self hn
  rw [heq]
  refine ⟨(failRead_fldsBut _ r 0x25 .LOST_COUNT 0 (by decide)).trans hcount, ?_⟩
  rw [← hrep.reads]
  exact failRead_reads _ r 0x25

/-- The bytes of an answer wait with the ember that asked for them. -/
theorem rdata_spec {s : State} {f : Frame} {r : RemoteRead} {e tag : Nat} (hr : s.reads.find? (·.rid = reqId f) = some r) (ho : r.owner = .ember e tag)
    (hl : (s.ember e).live = true) (ht : s.emberTag e = tag) :
    ((s.rdata f).ember e).cache = (s.ember e).cache ++ addressed r.addr (f.data.take r.len) ∧
      (∀ q, q ∈ (s.rdata f).reads ↔ q ∈ s.reads ∧ q.rid ≠ r.rid) ∧ (s.rdata f).mem = s.mem ∧ (s.rdata f).reg = s.reg := by
  have heq : s.rdata f = { s with reads := s.reads.filter (·.rid != r.rid) }.setEmber e
      { s.ember e with cache := (s.ember e).cache ++ addressed r.addr (f.data.take r.len) } := by
    unfold State.rdata
    rw [hr]
    show s.deliverRead r _ = _
    unfold State.deliverRead
    rw [ho]
    exact if_pos (by simp only [Bool.and_eq_true, decide_eq_true_eq]; exact ⟨hl, ht⟩)
  rw [heq]
  exact ⟨congrArg Ember.cache (setEmber_ember_same ..), fun q => by simp, rfl, rfl⟩

/-- Settles O45. -/
theorem remoteAccessesResolve : Obligations.RemoteAccessesResolve := by
  refine ⟨⟨fun s n f hrun hf hres hdst => ?_, fun s n f p hrun hf hres hdst hp hn => ?_, fun s wid p hrun hp hage hn => ?_⟩,
    fun s n f r e tag hrun hf hres hpl hdst hr ho hl ht => ?_, fun s n f r hrun hf hres hdst hr => ?_, fun s rid r hrun hr hage hn => ?_⟩
  · obtain ⟨u, t, hu, ht, hr⟩ := frame_ran (c := .ack n f) hrun hf hres rfl
    rw [routed_here hu hdst] at hr
    obtain ⟨hposted, hmem⟩ := ack_spec u f
    have hup : u.posted = s.posted := by rw [hu.rest]
    refine ⟨t, ht, fun a => (hr.byte a).trans (congrArg (mget 0 a) (hmem.trans hu.leaves.mem)), fun p => ?_⟩
    rw [hr.posted, hposted, hup]
  · obtain ⟨u, t, hu, ht, hr⟩ := frame_ran (c := .bdraft n f) hrun hf hres rfl
    rw [routed_here hu hdst] at hr
    have hup : u.posted = s.posted := by rw [hu.rest]
    have hue (e : Nat) : u.ember e = s.ember e := by rw [hu.rest]; rfl
    obtain ⟨hcount, hposted, hback⟩ := bdraft_spec (s := u) (by rw [hup]; exact hp) (by rw [hu.fld]; exact hn)
    refine ⟨t, ht, (hr.fld ..).trans (hcount.trans (by rw [hu.fld])), fun q => ?_, fun e tag ho hl htag hw => ?_⟩
    · rw [hr.posted, hposted, hup]
    · rw [← hue e] at hl htag hw ⊢
      exact (congrArg Ember.backdrafts (hr.ember e)).trans (hback e tag ho hl htag hw)
  · obtain ⟨t, ht, hr⟩ := live_ran hrun fun s => s.writeLost wid.toNat
    obtain ⟨hcount, hposted, hlate⟩ := writeLost_spec hp hage hn
    refine ⟨t, ht, (hr.fld ..).trans hcount, fun q => by rw [hr.posted, hposted], ?_⟩
    exact (congrArg State.lateWids hr.rest : t.lateWids = _) ▸ hlate
  · obtain ⟨u, t, hu, ht', hr'⟩ := frame_ran (c := .rdata n f) hrun hf hres rfl
    rw [routed_here hu hdst, hpl] at hr'
    have hur : u.reads = s.reads := by rw [hu.rest]
    have hue : u.ember e = s.ember e := by rw [hu.rest]; rfl
    obtain ⟨hcache, hreads, hmem, hreg⟩ := rdata_spec (s := u) (f := f) (by rw [hur]; exact hr) ho (by rw [hue]; exact hl)
      ((congrArg (fun m : Ember => m.incarn * 2048 + e) hue).trans ht)
    refine ⟨t, ht', ?_, fun q => ?_, fun a => (hr'.byte a).trans (congrArg (mget 0 a) (hmem.trans hu.leaves.mem)),
      fun x i => (hr'.fld x i).trans (congrArg (mget _ _) (hreg.trans hu.reg))⟩
    · rw [← hue]
      exact (congrArg Ember.cache (hr'.ember e)).trans hcache
    · exact hr'.reads ▸ hur ▸ hreads q
  · obtain ⟨u, t, hu, ht, hr'⟩ := frame_ran (c := .rerr n f) hrun hf hres rfl
    rw [routed_here hu hdst] at hr'
    have hur : u.reads = s.reads := by rw [hu.rest]
    have heq : u.rerr f = u.failRead r (0x20 + hdr f 0 48 8) := by
      unfold State.rerr
      rw [hur, hr]
    rw [heq] at hr'
    refine ⟨t, ht, ?_⟩
    rw [hr'.reads, ← hur]
    exact failRead_reads u r _
  · obtain ⟨t, ht, hr'⟩ := live_ran hrun fun s => s.readLost rid.toNat
    obtain ⟨hcount, hreads⟩ := readLost_spec hr hage hn
    exact ⟨t, ht, (hr'.fld ..).trans hcount, by rw [hr'.reads]; exact hreads⟩

end Sys2Proof.Machine
end

section
/-! PROOF. Accesses that are made at once: of the host and of other nodes (R328, R394, R399, R424, R429, R453, R455, R462, R465, R549). -/

namespace Sys2Proof.Machine

/-! ### The crossbar's books -/

/-- `t` differs from `s` at most in the requests that stand granted at the crossbar. -/
def Granted (s t : State) : Prop := t = { s with xb := t.xb, xbNext := t.xbNext, xbOwed := t.xbOwed, xbLast := t.xbLast, free := t.free }

/-- `t` differs from `s` at most there and in what the slot's shares have given. -/
def Booked (s t : State) : Prop :=
  t = { s with xb := t.xb, xbNext := t.xbNext, xbOwed := t.xbOwed, xbLast := t.xbLast, free := t.free, slotAt := t.slotAt, slotUse := t.slotUse }

section
variable {s t u : State}

theorem Granted.trans (h : Granted s t) (k : Granted t u) : Granted s u := by
  unfold Granted at *
  rw [h] at k
  exact k

theorem Booked.trans (h : Booked s t) (k : Booked t u) : Booked s u := by
  unfold Booked at *
  rw [h] at k
  exact k

theorem Granted.booked (h : Granted s t) : Booked s t := by
  unfold Granted Booked at *
  rw [h]

theorem Booked.reg (h : Booked s t) : t.reg = s.reg := by rw [h]
theorem Booked.fld (h : Booked s t) (f : Fld) (i : Nat) : t.fld f i = s.fld f i := congrArg (mget (f.resetVal i) (f.key i)) h.reg
theorem Booked.mem (h : Booked s t) : t.mem = s.mem := by rw [h]
theorem Booked.byte (h : Booked s t) (a : Nat) : t.byte a = s.byte a := congrArg (mget 0 a) h.mem
theorem Booked.links (h : Booked s t) : t.links = s.links := by rw [h]
theorem Booked.plans (h : Booked s t) : t.plans = s.plans := by rw [h]

end

theorem slotDraw_booked (s : State) (k n : Nat) : Booked s (s.slotDraw k n) := rfl

theorem draws_booked {α : Type} (l : List α) (k n : α → Nat) (s : State) : Booked s (forAll l (fun e s => s.slotDraw (k e) (n e)) s) :=
  forAll_rel (R := Booked) (fun _ => rfl) .trans l _ (fun e _ u => slotDraw_booked u (k e) (n e)) s

theorem fenDraw_booked (s : State) (plan : Option Nat) (cost : List (Nat × Nat)) : Booked s (s.fenDraw plan cost) :=
  draws_booked _ _ _ s

theorem arrivalDraw_booked (s : State) (planned : Bool) (cost : List (Nat × Nat)) : Booked s (s.arrivalDraw planned cost) :=
  draws_booked _ _ _ s

theorem Granted.on {s : State} {c : Bool} {g : State → State} (h : Granted s (g s)) : Granted s (s.on c g) := by
  cases c
  · rfl
  · exact h

/-- An open request that the shares have paid for already. -/
theorem xbGrant_granted (s : State) {r : XbReq} (hp : r.plan = none) (hc : r.cost = []) : Granted s (s.xbGrant r) := by
  have hdraw (u : State) : u.fenDraw none [] = u := rfl
  have howe (u : State) (p w n : Nat) : Granted u (u.owe p w n) := rfl
  have hstg (u : State) (p n : Nat) : Granted u (u.stgCount p n) := rfl
  unfold State.xbGrant
  extract_lets n s₁ s₂ s₃
  have h₂ : Granted s s₂ := ((howe s _ _ _).trans (howe _ _ _ _)).trans (.on ((hstg s₁ _ _).trans (.on (hstg _ _ _))))
  have h₃ : s₃ = s₂ := by
    unfold s₃
    rw [hp, hc]
    rfl
  rw [h₃]
  clear_value s₂
  exact h₂.trans rfl

theorem xbNow_granted (s : State) {k : Ask} (hk : k.plan = none) (a n : Nat) : Granted s (s.xbNow k a n) := by
  refine forAll_rel (R := Granted) (fun _ => rfl) .trans (partsOf a n) _ (fun e _ u => ?_) s
  have hput : Granted u (u.xbPut k e.1 e.2) := rfl
  have hlast : (u.xbPut k e.1 e.2).xb.getLast?.all (·.plan = none) := by
    simp [State.xbPut, hk]
  generalize u.xbPut k e.1 e.2 = v at *
  dsimp only
  split
  · exact hput
  · rename_i r hr
    rw [hr] at hlast
    exact hput.trans (xbGrant_granted v (by simpa using hlast) rfl)

/-- No cycle passes where what is awaited holds already. -/
theorem runUntil_now {p : State → Bool} {s : State} (h : p s = true) (n : Nat) : s.runUntil p n = s := by
  cases n with
  | zero => rfl
  | succ n => exact if_pos h

/-- Shares that have room give at once. -/
theorem payAll_now {s : State} {cost : List (Nat × Nat)} (h : s.openFits cost = true) (n : Nat) : Booked s (s.payAll none cost n) := by
  cases n with
  | zero => rfl
  | succ n =>
    have hpaid : (s.payShares none cost).2 = [] := by
      unfold State.payShares
      refine List.filter_eq_nil_iff.mpr fun e he => ?_
      obtain ⟨d, hd, rfl⟩ := List.mem_map.mp he
      have := List.all_eq_true.mp h d hd
      simp only [Bool.or_eq_true, decide_eq_true_eq] at this
      simp only [bne_iff_ne, ne_eq, not_not]
      omega
    have heq : s.payAll none cost (n + 1) = (s.payShares none cost).1 := if_pos (by rw [hpaid]; rfl)
    rw [heq]
    exact fenDraw_booked s none _

/-! ### Bytes that are written -/

/-- A write to memory away from fenced channels, beside the row accesses of its cycle. -/
theorem store_reported {s : State} {a : Nat} {bs : List Byte} (h : s.fenced a bs.length = false) :
    Reported [.REFETCH_COUNT] s (s.store a bs) := by
  rw [store_show h]
  exact show_reported _ (by decide) s a bs

/-- `t` holds `bs` at `a` and every other byte of `s`. -/
def Stored (s t : State) (a : Nat) (bs : List Byte) : Prop := ∀ x, t.byte x = (s.setBytes a bs).byte x

theorem Stored.bytes {s t : State} {a : Nat} {bs : List Byte} (h : Stored s t a bs) : t.bytes a bs.length = bs := bytes_written h

theorem Stored.other {s t : State} {a : Nat} {bs : List Byte} (h : Stored s t a bs) {x : Nat} (hx : x < a ∨ a + bs.length ≤ x) :
    t.byte x = s.byte x := by
  rw [h, setBytes_byte, if_neg (by omega)]

/-! ### The host's accesses (R462, R549) -/

theorem bar2Turn_booked {s : State} {a n : Nat} {wr : Bool} (h : s.bar2Free a n wr = true) : Booked s (s.bar2Turn a n wr) := by
  obtain ⟨hopen, hpay⟩ := Bool.and_eq_true_iff.mp h
  unfold State.bar2Turn
  rw [runUntil_now hopen]
  extract_lets s' k
  have hs : s' = s := rfl
  have hk : k.plan = none := rfl
  rw [hs]
  clear_value k
  have hfree : Granted s { s with free := s.free + 1 } := rfl
  have hfits : ({ s with free := s.free + 1 } : State).openFits (fenCost 32 a n wr) = true := hpay
  generalize ({ s with free := s.free + 1 } : State) = u at *
  have hg := xbNow_granted u hk a n
  have hsame : (u.xbNow k a n).openFits (fenCost 32 a n wr) = u.openFits (fenCost 32 a n wr) := by
    rw [hg]
    rfl
  exact (hfree.trans hg).booked.trans (payAll_now (hsame.trans hfits) _)

/-- What counts refused writes to sealed images. -/
theorem countSeal_byte (s : State) (c a : Nat) : (s.countSeal c).byte a = s.byte a := by
  unfold State.countSeal State.on
  split
  · exact congrArg (mget 0 a) (bump_mem ..)
  · rfl

theorem global_spec {s : State} (hown : s.ownNode < 256) {a : Nat} (ha : a < 2 ^ 48) : localOf (s.global a) = a ∧ s.isOwn (s.global a) = true := by
  unfold State.isOwn localOf nodeOf State.global
  simp only [decide_eq_true_eq]
  omega

theorem bar2Addr_lt {o n a : Nat} (h : bar2Addr o n = some a) (ho : o < 2 ^ 35) : a < 2 ^ 48 := by
  unfold bar2Addr at h
  split at h
  · have := Option.some.inj h
    omega
  · split at h
    · rename_i hin
      have := Option.some.inj h
      simp only [Bool.and_eq_true, decide_eq_true_eq] at hin
      omega
    · exact nomatch h

/-- An access that passes the checks of its hearth reaches no fenced channel of this chip. -/
theorem hearthFault_unfenced {s : State} {t ga n : Nat} {k : AKind} (h : s.hearthFault t ga n k = 0) (ho : s.isOwn ga = true) :
    s.fenced (localOf ga) n = false := by
  by_contra hne
  have hfen : s.fenced (localOf ga) n = true := by simpa using hne
  unfold State.hearthFault at h
  dsimp only at h
  rw [ho, hfen] at h
  simp only [if_true, Bool.true_and] at h
  split at h
  · exact absurd h (by decide)
  · split at h
    · exact absurd h (by decide)
    · split at h
      · exact absurd h (by decide)
      · split at h
        · exact absurd h (by decide)
        · split at h <;> exact absurd h (by decide)

theorem pfFault_unfenced {s : State} {a n : Nat} {k : AKind} (h : s.pfFault a n k = 0) : s.fenced a n = false := by
  by_contra hne
  have hfen : s.fenced a n = true := by simpa using hne
  unfold State.pfFault at h
  rw [hfen] at h
  split at h
  · exact absurd h (by decide)
  · split at h <;> exact absurd h (by decide)

theorem bar2Fault_unfenced {s : State} {fn a n : Nat} {k : AKind} (h : s.bar2Fault fn a n k = 0) (hfn : fn = 0 ∨ s.ownNode < 256) (ha : a < 2 ^ 48) :
    s.fenced a n = false := by
  unfold State.bar2Fault at h
  by_cases h0 : fn = 0
  · rw [if_pos h0] at h
    exact pfFault_unfenced h
  · rw [if_neg h0] at h
    obtain ⟨hl, ho⟩ := global_spec (hfn.resolve_left h0) ha
    exact hl ▸ hearthFault_unfenced h ho

/-- Ash records lie in staging SRAM. -/
theorem putAsh_low (s : State) (t : Nat) (r : AshRec) {a : Nat} (ha : a < stagingStart) : (s.putAsh t r).byte a = s.byte a := by
  have hfire (u : State) (c : Bool) : (u.on c fun s => s.fireHearth t 1).byte a = u.byte a := by
    cases c
    · rfl
    · exact congrArg (mget 0 a) (fireHearth_keeps u t 1).2.1
  have hset (u : State) (f : Fld) (i v : Nat) : (u.setFld f i v).byte a = u.byte a := rfl
  unfold State.putAsh
  dsimp only
  split
  · exact (congrArg (mget 0 a) (bump_mem ..)).trans (countSeal_byte ..)
  · refine (hfire ..).trans ((hset ..).trans ?_)
    rw [show_byte, setBytes_byte, if_neg]
    exact fun hin => absurd (hin.1.trans_lt ha) (Nat.not_lt.mpr (queueEntry_staging ..))

theorem postAsh_low (s : State) (t : Nat) (r : AshRec) {a : Nat} (ha : a < stagingStart) : (s.postAsh t r).byte a = s.byte a := by
  have hset (u : State) (f : Fld) (i v : Nat) : (u.setFld f i v).byte a = u.byte a := rfl
  have hover : ((s.bump .ASH_DROPPED t).setFld .HEARTH_STAT_AQ_OVER t 1).byte a = s.byte a :=
    (hset ..).trans (congrArg (mget 0 a) (bump_mem ..))
  unfold State.postAsh
  dsimp only
  split
  · rfl
  · split
    · rfl
    · split
      · exact putAsh_low s t r ha
      · unfold State.on
        split
        · exact (putAsh_low _ t _ ha).trans hover
        · exact hover

section
variable {s : State} {fn o a : Nat}

/-- A write that passes its checks in a cycle with room for it. -/
theorem bar2Write_passed {bs : List Byte} (ha : bar2Addr o bs.length = some a) (hf : s.bar2Fault fn a bs.length .w = 0)
    (hfree : s.bar2Free a bs.length true = true) (hunf : s.fenced a bs.length = false) :
    Stored s (s.bar2Write fn o bs) a bs ∧ FldsBut [.REFETCH_COUNT] s (s.bar2Write fn o bs) ∧
      (Memory.wf s.mem = true → Memory.wf (s.bar2Write fn o bs).mem = true) := by
  have hw : s.bar2Write fn o bs = ((s.bar2Turn a bs.length true).store a bs).tamper a bs.length := by
    unfold State.bar2Write
    rw [ha]
    exact if_neg (by simp [hf])
  have hb := bar2Turn_booked hfree
  rw [hw]
  generalize s.bar2Turn a bs.length true = v at *
  have hfen : v.fenced a bs.length = false := (fenced_congr (fun f _ i => hb.fld f i) a _).trans hunf
  have hbyte (x : Nat) : ((v.store a bs).tamper a bs.length).byte x = (v.store a bs).byte x := rfl
  have htam : FldsBut [.REFETCH_COUNT] (v.store a bs) ((v.store a bs).tamper a bs.length) := fldsBut_of_reg _ rfl
  refine ⟨fun x => ?_, .trans (fun f i _ => hb.fld f i) ((store_reported hfen).fldsBut.trans htam), fun hwf => ?_⟩
  · rw [hbyte, store_byte hfen, setBytes_byte, setBytes_byte, hb.byte]
  · exact store_wf a bs (by rw [hb.mem]; exact hwf)

theorem bar2Write_hole {bs : List Byte} (ha : bar2Addr o bs.length = none) : s.bar2Write fn o bs = s := by
  unfold State.bar2Write
  rw [ha]

theorem bar2Write_refused {bs : List Byte} (ha : bar2Addr o bs.length = some a) (hf : s.bar2Fault fn a bs.length .w ≠ 0) {x : Nat}
    (hx : x < stagingStart) : (s.bar2Write fn o bs).byte x = s.byte x := by
  have hw : s.bar2Write fn o bs = (s.countSeal (s.bar2Fault fn a bs.length .w)).bar2Ash fn a bs.length (s.bar2Fault fn a bs.length .w) := by
    unfold State.bar2Write
    rw [ha]
    exact if_pos (by simpa using hf)
  rw [hw]
  exact (postAsh_low _ _ _ hx).trans (countSeal_byte ..)

theorem bar2Read_passed {n : Nat} (ha : bar2Addr o n = some a) (hf : s.bar2Fault fn a n .r = 0) (hfree : s.bar2Free a n false = true) :
    (s.bar2Read fn o n).bus = s.bytes a n ∧ (s.bar2Read fn o n).mem = s.mem ∧ (s.bar2Read fn o n).reg = s.reg := by
  have hw : s.bar2Read fn o n = { s.bar2Turn a n false with bus := (s.bar2Turn a n false).bytes a n } := by
    unfold State.bar2Read
    rw [ha]
    exact if_neg (by simp [hf])
  have hb := bar2Turn_booked hfree
  rw [hw]
  generalize s.bar2Turn a n false = v at *
  refine ⟨?_, hb.mem, hb.reg⟩
  show v.bytes a n = s.bytes a n
  unfold State.bytes
  simp only [hb.byte]

theorem bar2Read_ones {n : Nat} (h : bar2Addr o n = none ∨ ∃ a, bar2Addr o n = some a ∧ s.bar2Fault fn a n .r ≠ 0) :
    (s.bar2Read fn o n).bus = List.replicate n 255 := by
  unfold State.bar2Read
  rcases h with h | ⟨a, h, hf⟩
  · rw [h]
  · rw [h]
    exact congrArg State.bus (if_pos (by simpa using hf))

end

/-- The endpoint is up, as every host access finds it. -/
def State.linkedUp (s : State) : State := { s with pcieUp := true }

theorem bar2Fault_congr {s t : State} (h : ∀ f ∈ accessFlds, ∀ i, t.fld f i = s.fld f i) (hp : t.plans = s.plans) (fn a n : Nat) (k : AKind) :
    t.bar2Fault fn a n k = s.bar2Fault fn a n k := by
  have hplan (a m : Nat) : t.planHit a m = s.planHit a m := by
    unfold State.planHit
    rw [hp]
  simp only [State.bar2Fault, State.pfFault, sealedHit_congr h, hplan, fenced_congr h, global_congr h, hearthFault_congr h hp]

theorem linkedUp_keeps (s : State) : s.linkedUp.reg = s.reg ∧ s.linkedUp.mem = s.mem ∧ (∀ fn a n k, s.linkedUp.bar2Fault fn a n k = s.bar2Fault fn a n k) ∧
    ∀ a n wr, s.linkedUp.bar2Free a n wr = s.bar2Free a n wr :=
  ⟨rfl, rfl, bar2Fault_congr (fun _ _ _ => rfl) rfl, fun _ _ _ => rfl⟩

/-- Settles O13. -/
theorem bar2Accesses : Obligations.Bar2Accesses := by
  refine ⟨fun s fn off bs a hrun ha hf hfree hfn => ?_, fun s fn off bs hrun ha => ?_, fun s fn off bs a hrun ha hf => ?_,
    fun s fn off n a hrun ha hf hfree => ?_, fun s fn off n hrun hor => ?_⟩
  all_goals obtain ⟨hreg, hmem, hfault, hroom⟩ := linkedUp_keeps s
  · obtain ⟨t, ht, hr⟩ := live_ran hrun fun s => s.linkedUp.bar2Write fn off.toNat bs
    have hunf := bar2Fault_unfenced hf (hfn.imp_left fun e => congrArg Fin.val e) (bar2Addr_lt ha off.isLt)
    have hfen : s.linkedUp.fenced a bs.length = false := (fenced_congr (fun f _ i => congrArg (mget _ _) hreg) a _).trans hunf
    obtain ⟨hst, hflds, hwf⟩ := bar2Write_passed ha ((hfault ..).trans hf) ((hroom ..).trans hfree) hfen
    have hst' : Stored s t a bs := fun x => by
      rw [hr.byte, hst, setBytes_byte, setBytes_byte]
      exact if_congr Iff.rfl rfl (congrArg (mget 0 x) hmem)
    exact ⟨t, ht, hst'.bytes, fun x hx => hst'.other hx, fun h => hr.mem ▸ hwf (hmem ▸ h),
      fun g j hg => (hr.fld g j).trans ((hflds g j (by simpa using hg)).trans (congrArg (mget _ _) hreg))⟩
  · have hw : s.linkedUp.bar2Write fn off.toNat bs = s.linkedUp := bar2Write_hole ha
    exact ⟨_, congrArg Host.Outcome.next (running_eq (f := fun s => s.linkedUp.bar2Write fn off.toNat bs) hrun (by rw [hw]; rfl)
      (by rw [hw]; exact hrun) (by rw [hw]; rfl) (by rw [hw]; rfl)), hw⟩
  · obtain ⟨t, ht, hr⟩ := live_ran hrun fun s => s.linkedUp.bar2Write fn off.toNat bs
    exact ⟨t, ht, fun x hx => (hr.byte x).trans ((bar2Write_refused ha (by rw [hfault]; exact hf) hx).trans (congrArg (mget 0 x) hmem))⟩
  · obtain ⟨t, ht, hr⟩ := live_ran hrun fun s => s.linkedUp.bar2Read fn off.toNat n
    obtain ⟨hbus, hm, hrg⟩ := bar2Read_passed ha ((hfault ..).trans hf) ((hroom ..).trans hfree)
    have hbytes : s.linkedUp.bytes a n = s.bytes a n := rfl
    exact ⟨t, ht, (congrArg State.bus hr.rest :).trans (hbus.trans hbytes), fun x => (hr.byte x).trans (congrArg (mget 0 x) (hm.trans hmem)),
      fun g j => (hr.fld g j).trans (congrArg (mget _ _) (hrg.trans hreg))⟩
  · obtain ⟨t, ht, hr⟩ := live_ran hrun fun s => s.linkedUp.bar2Read fn off.toNat n
    refine ⟨t, ht, (congrArg State.bus hr.rest :).trans (bar2Read_ones (hor.imp id fun ⟨a, h, hf⟩ => ⟨a, h, ?_⟩))⟩
    rw [hfault]
    exact hf

end Sys2Proof.Machine
end

section
/-! PROOF. Writes and reads that arrive from other nodes (R328, R424, R429, R453, R455, R465). -/

namespace Sys2Proof.Machine

theorem arrive_booked {s : State} {n : Nat} {f : Frame} {wr : Bool}
    (h : s.arrivalFree n (reqAddr f) (reqLen f) wr (framePlanned f) = true) : Booked s (s.arrive n f wr) := by
  have hnow : (s.arrivalFits (framePlanned f) (arrivalCost (reqAddr f) (reqLen f) wr) &&
      s.portsOpen (17 + n / 4) (framePlanned f) (reqAddr f) (reqLen f) && s.tidRoom (17 + n / 4) wr (framePlanned f)) = true := h
  unfold State.arrive
  extract_lets m a pl cost s' k
  have hs : s' = s := runUntil_now hnow _
  have hk : k.plan = none := rfl
  rw [hs]
  clear_value k
  exact (arrivalDraw_booked s pl cost).trans (xbNow_granted _ hk a (reqLen f)).booked

/-- What an incoming access is refused for is a code of Table 13.6; where it is let through it reaches no fenced channel. -/
theorem incomingFault_spec (s : State) (t a n key : Nat) (k : AKind) :
    s.incomingFault t a n key k < 2 ^ 8 ∧ (s.incomingFault t a n key k = 0 → s.fenced a n = false) := by
  unfold State.incomingFault
  split
  · exact ⟨by decide, fun h => absurd h (by decide)⟩
  · split
    · exact ⟨by decide, fun h => absurd h (by decide)⟩
    · split
      · exact ⟨by decide, fun h => absurd h (by decide)⟩
      · split
        · exact ⟨by decide, fun h => absurd h (by decide)⟩
        · split
          · exact ⟨by decide, fun h => absurd h (by decide)⟩
          · rename_i hfen
            exact ⟨by decide, fun _ => by simpa using hfen⟩

theorem writeFault_lt (s : State) (n : Nat) (f : Frame) : s.writeFault n f < 2 ^ 8 := by
  unfold State.writeFault
  split
  · decide
  · dsimp only
    split
    · exact (incomingFault_spec ..).1
    · split
      · decide
      · split <;> decide

theorem writeFault_unfenced {s : State} {n : Nat} {f : Frame} (h : s.writeFault n f = 0) : s.fenced (reqAddr f) (reqLen f) = false := by
  unfold State.writeFault at h
  split at h
  · exact absurd h (by decide)
  · dsimp only at h
    split at h
    · rename_i hc
      simp [h] at hc
    · rename_i hc
      exact (incomingFault_spec ..).2 (by simpa using hc)

/-- The data of a received WRITE is as long as its header says. -/
theorem write_length {f : Frame} (h : frameIs 0x10 f = true) : f.data.length = reqLen f := by
  have hty := frameType_of_is h
  have hwf : frameWf f = true := (Bool.and_eq_true_iff.mp h).1
  unfold frameWf at hwf
  unfold reqLen hdr frameType hdr at *
  split at hwf
  · exact absurd hwf (by decide)
  · rename_i w r hw
    rw [hw] at hty ⊢
    simp only [Bool.and_eq_true, decide_eq_true_eq] at hwf
    have hmod : w.toNat % 256 = 0x10 := by simpa [bitsOf] using hty
    rw [hwf.2]
    unfold dataLen
    rw [hmod]
    rfl

/-- A write to bytes of this chip's memories. -/
theorem localWrite_stored {s : State} {a : Nat} {bs : List Byte} (hm : regionOf a ≠ some .mirror) (hf : s.fenced a bs.length = false) :
    Stored s (s.localWrite a bs) a bs ∧ FldsBut [.REFETCH_COUNT] s (s.localWrite a bs) := by
  have hkr : (s.keepRows a bs.length).reg = s.reg := by
    unfold State.keepRows
    split <;> rfl
  have hkm : (s.keepRows a bs.length).mem = s.mem := keepRows_mem ..
  have hw : s.localWrite a bs = ((s.keepRows a bs.length).store a bs).tamper a bs.length := if_neg hm
  rw [hw]
  generalize s.keepRows a bs.length = u at *
  have hfen : u.fenced a bs.length = false := (fenced_congr (fun f _ i => congrArg (mget _ _) hkr) a _).trans hf
  have hbyte (x : Nat) : ((u.store a bs).tamper a bs.length).byte x = (u.store a bs).byte x := rfl
  have htam : FldsBut [.REFETCH_COUNT] (u.store a bs) ((u.store a bs).tamper a bs.length) := fldsBut_of_reg _ rfl
  refine ⟨fun x => ?_, (fldsBut_of_reg _ hkr).trans ((store_reported hfen).fldsBut.trans htam)⟩
  rw [hbyte, store_byte hfen, setBytes_byte, setBytes_byte]
  exact if_congr Iff.rfl rfl (congrArg (mget 0 x) hkm)

theorem Stored.trans_left {s t u : State} {a : Nat} {bs : List Byte} (h : ∀ x, t.byte x = s.byte x) (k : Stored t u a bs) : Stored s u a bs :=
  fun x => by rw [k, setBytes_byte, setBytes_byte, h]

/-- A write that its checks let through, in a cycle with room for it, is stored and acknowledged. -/
theorem performWrite_done {s : State} {n : Nat} {f : Frame} (hf : s.writeFault n f = 0) (hm : regionOf (reqAddr f) ≠ some .mirror)
    (hfree : s.arrivalFree n (reqAddr f) (reqLen f) true (framePlanned f) = true) (hlen : f.data.length = reqLen f) :
    ∃ v k g, Stored s v (reqAddr f) f.data ∧ FldsBut [.REFETCH_COUNT] s v ∧ s.performWrite n f = v.sendLink k g ∧ (frameLocal f = true → k = n) ∧
      frameType g = 0x18 ∧ hdr g 0 32 16 = reqId f := by
  have hb := arrive_booked hfree
  have hw : s.performWrite n f = (((s.arrive n f true).localWrite (reqAddr f) f.data).on (!frameLocal f)
      fun s => s.countIncoming (frameSrc f) (reqAddr f) (reqLen f)).reply n f 0x18 (reqId f) := by
    unfold State.performWrite
    exact if_neg (by simp [hf])
  rw [hw]
  generalize s.arrive n f true = v at *
  have hfen : v.fenced (reqAddr f) f.data.length = false := by
    rw [hlen]
    exact (fenced_congr (fun g _ i => hb.fld g i) _ _).trans (writeFault_unfenced hf)
  obtain ⟨hst, hflds⟩ := localWrite_stored hm hfen
  generalize v.localWrite (reqAddr f) f.data = w at *
  have hon : (w.on (!frameLocal f) fun s => s.countIncoming (frameSrc f) (reqAddr f) (reqLen f)).mem = w.mem ∧
      (w.on (!frameLocal f) fun s => s.countIncoming (frameSrc f) (reqAddr f) (reqLen f)).reg = w.reg := by
    unfold State.on
    split <;> exact ⟨rfl, rfl⟩
  generalize (w.on (!frameLocal f) fun s => s.countIncoming (frameSrc f) (reqAddr f) (reqLen f)) = x at *
  obtain ⟨k, g, hk, heq, hty, hid, -⟩ := reply_spec x n f (ty := 0x18) (hi := reqId f) (by decide) [] []
  refine ⟨x, k, g, .trans_left hb.byte fun y => ?_, .trans (fun h i _ => hb.fld h i) (hflds.trans (fldsBut_of_reg _ hon.2)), heq, hk, hty,
    hid.trans (Nat.mod_eq_of_lt (reqId_lt f))⟩
  exact (congrArg (mget 0 y) hon.1).trans (hst y)

/-- A write that a check refuses is answered with its cause. -/
theorem performWrite_refused {s : State} {n : Nat} {f : Frame} (hty : frameType f = 0x10) (hf : s.writeFault n f ≠ 0) :
    ∃ (v : State) (k : Nat) (g : Frame), v.mem = s.mem ∧ s.performWrite n f = v.sendLink k g ∧ frameType g = 0x19 ∧ hdr g 0 32 16 = reqId f ∧
      hdr g 0 48 8 = s.writeFault n f := by
  have hw : s.performWrite n f = (s.on (s.writeFault n f = 2 && s.planHit (reqAddr f) (reqLen f)) fun s => s.countSeal 0x06).answerFault n f
      (s.writeFault n f) := by
    unfold State.performWrite
    exact if_pos (by simpa using hf)
  have hm : (s.on (s.writeFault n f = 2 && s.planHit (reqAddr f) (reqLen f)) fun s => s.countSeal 0x06).mem = s.mem := by
    unfold State.on
    split
    · exact bump_mem ..
    · rfl
  rw [hw]
  generalize (s.on (s.writeFault n f = 2 && s.planHit (reqAddr f) (reqLen f)) fun s => s.countSeal 0x06) = v at *
  obtain ⟨k, g, heq, ht, hid, hc⟩ := answerFault_spec v n (.inl hty) (writeFault_lt s n f)
  rw [hty] at ht hc
  exact ⟨v, k, g, hm, heq, ht, hid, hc⟩

theorem performRead_done {s : State} {n : Nat} {f : Frame} (hoff : s.chip ≠ chipOffReady)
    (hf : s.incomingFault (reqHearth f) (reqAddr f) (reqLen f) (reqKey f) .r = 0) (hm : regionOf (reqAddr f) ≠ some .mirror)
    (hfree : s.arrivalFree n (reqAddr f) (reqLen f) false (framePlanned f) = true) :
    ∃ v k g, Booked s v ∧ s.performRead n f = v.sendLink k g ∧ frameType g = 0x1A ∧ hdr g 0 32 16 = reqId f ∧
      g.data = s.bytes (reqAddr f) (reqLen f) := by
  have hb := arrive_booked hfree
  have hr : (s.arrive n f false).localRead (reqAddr f) (reqLen f) = (s.arrive n f false, (s.arrive n f false).bytes (reqAddr f) (reqLen f)) := if_neg hm
  have hw : s.performRead n f = (s.arrive n f false).reply n f 0x1A (reqId f + (reqLen f - 1) * 2 ^ 16) []
      ((s.arrive n f false).bytes (reqAddr f) (reqLen f)) := by
    unfold State.performRead
    rw [hr]
    exact if_neg (by simp [hoff, hf])
  rw [hw]
  generalize s.arrive n f false = v at *
  obtain ⟨k, g, -, heq, hty, hid, -, hdata⟩ := reply_spec v n f (ty := 0x1A) (hi := reqId f + (reqLen f - 1) * 2 ^ 16) (by decide) []
    (v.bytes (reqAddr f) (reqLen f))
  refine ⟨v, k, g, hb, heq, hty, hid.trans ?_, hdata.trans ?_⟩
  · have := reqId_lt f
    omega
  · unfold State.bytes
    simp only [hb.byte]

theorem performRead_refused {s : State} {n : Nat} {f : Frame} (hty : frameType f = 0x11) (hoff : s.chip ≠ chipOffReady)
    (hf : s.incomingFault (reqHearth f) (reqAddr f) (reqLen f) (reqKey f) .r ≠ 0) :
    ∃ k g, s.performRead n f = s.sendLink k g ∧ frameType g = 0x1B ∧ hdr g 0 32 16 = reqId f ∧
      hdr g 0 48 8 = s.incomingFault (reqHearth f) (reqAddr f) (reqLen f) (reqKey f) .r := by
  have hw : s.performRead n f = s.answerFault n f (s.incomingFault (reqHearth f) (reqAddr f) (reqLen f) (reqKey f) .r) := by
    unfold State.performRead
    rw [if_neg hoff]
    exact if_pos (by simpa using hf)
  obtain ⟨k, g, heq, ht, hid, hc⟩ := answerFault_spec s n (.inr (.inl hty)) (incomingFault_spec s (reqHearth f) (reqAddr f) (reqLen f) (reqKey f) .r).1
  rw [hty] at ht hc
  exact ⟨k, g, hw.trans heq, ht, hid, hc⟩

/-- A frame that has been taken from its link is judged, and finds room, as before. -/
theorem TookFrame.judges {s u : State} (h : TookFrame s u) : (∀ n f, u.writeFault n f = s.writeFault n f) ∧
    (∀ t a n key k, u.incomingFault t a n key k = s.incomingFault t a n key k) ∧
    (∀ k a n wr planned, u.arrivalFree k a n wr planned = s.arrivalFree k a n wr planned) ∧ u.chip = s.chip := by
  rw [h.rest]
  exact ⟨fun _ _ => rfl, fun _ _ _ _ _ => rfl, fun _ _ _ _ _ => rfl, rfl⟩

/-- Settles O43. -/
theorem incomingAccesses : Obligations.IncomingAccesses := by
  refine ⟨fun s n f hrun hf hres hdst => ?_, fun s n f hrun hf => ?_, fun s n f hrun hf hres hdst hm hoff => ?_⟩
  · obtain ⟨u, t, hu, ht, hr⟩ := frame_ran (c := .write n f) hrun hf hres rfl
    obtain ⟨hwf, -, hfr, -⟩ := hu.judges
    rw [routed_here hu hdst] at hr
    refine ⟨fun hpl hw hm hfree => ?_, fun hpl hw => ?_, fun hpl => ?_⟩
    · obtain ⟨v, k, g, hst, hflds, heq, hk, hty, hid⟩ := performWrite_done (s := u) (n := n) (f := f) ((hwf ..).trans hw) hm
        (by rw [hfr, hpl]; exact hfree) (write_length hf)
      rw [hpl, if_neg nofun, heq] at hr
      have hst' : Stored s t (reqAddr f) f.data := .trans_left (fun x => congrArg (mget 0 x) hu.leaves.mem) fun x => (hr.byte x).trans (hst x)
      refine ⟨t, k, g, ht, hst'.bytes, fun a ha => hst'.other ha, ?_, hty, hid, hk, fun x i hx => ?_⟩
      · rw [hr.link]
        exact sendLink_here ..
      · exact (hr.fld x i).trans ((hflds x i (by simpa using hx)).trans (hu.fld x i))
    · obtain ⟨v, k, g, hmem, heq, hty, hid, hc⟩ := performWrite_refused (s := u) (n := n) (frameType_of_is hf) (by rw [hwf]; exact hw)
      rw [hpl, if_neg nofun, heq] at hr
      refine ⟨t, k, g, ht, fun a => (hr.byte a).trans (congrArg (mget 0 a) (hmem.trans hu.leaves.mem)), ?_, hty, hid, hc.trans (hwf ..)⟩
      rw [hr.link]
      exact sendLink_here ..
    · rw [if_pos hpl] at hr
      refine ⟨t, ht, ?_, fun a => (hr.byte a).trans (congrArg (mget 0 a) hu.leaves.mem), fun x i => (hr.fld x i).trans (hu.fld x i)⟩
      rw [hr.link, State.holdPlanned, setLink_link_same]
      exact List.mem_append_right _ (List.mem_singleton_self f)
  · obtain ⟨t, ht, hr⟩ := live_ran hrun fun s => (s.takeFrame n f).answerFault n f 2
    have hu := takeFrame_took s n f
    generalize s.takeFrame n f = u at *
    have hty := frameType_of_is hf
    obtain ⟨k, g, heq, hgt, hid, hc⟩ := answerFault_spec u n (.inl hty) (cause := 2) (by decide)
    rw [heq] at hr
    rw [hty] at hgt hc
    refine ⟨t, k, g, (if_pos hf).trans ht, fun a => (hr.byte a).trans (congrArg (mget 0 a) hu.leaves.mem),
      fun x i => (hr.fld x i).trans (hu.fld x i), ?_, hgt, hid, hc⟩
    rw [hr.link]
    exact sendLink_here ..
  · obtain ⟨u, t, hu, ht, hr⟩ := frame_ran (c := .read n f) hrun hf hres rfl
    obtain ⟨-, hif, hfr, hchip⟩ := hu.judges
    rw [routed_here hu hdst] at hr
    refine ⟨fun hw hfree => ?_, fun hw => ?_⟩
    · obtain ⟨v, k, g, hb, heq, hty, hid, hdata⟩ := performRead_done (s := u) (n := n) (f := f) (by rw [hchip]; exact hoff) ((hif ..).trans hw) hm
        ((hfr ..).trans hfree)
      rw [heq] at hr
      refine ⟨t, k, g, ht, fun a => (hr.byte a).trans ((hb.byte a).trans (congrArg (mget 0 a) hu.leaves.mem)),
        fun x i => (hr.fld x i).trans ((hb.fld x i).trans (hu.fld x i)), ?_, hty, hid, hdata.trans ?_⟩
      · rw [hr.link]
        exact sendLink_here ..
      · unfold State.bytes State.byte
        rw [hu.leaves.mem]
    · obtain ⟨k, g, heq, hty, hid, hc⟩ := performRead_refused (s := u) (n := n) (frameType_of_is hf) (by rw [hchip]; exact hoff) (by rw [hif]; exact hw)
      rw [heq] at hr
      refine ⟨t, k, g, ht, fun a => (hr.byte a).trans (congrArg (mget 0 a) hu.leaves.mem), fun x i => (hr.fld x i).trans (hu.fld x i), ?_, hty,
        hid, hc.trans (hif ..)⟩
      rw [hr.link]
      exact sendLink_here ..

end Sys2Proof.Machine
end

section
/-! PROOF. The chimney's marker, its sending and its latch (R54 to R56, R61 to R64, R434 to R436). -/

namespace Sys2Proof.Machine

/-! ### The answer to this node's own request -/

/-- The registers that the answer to a bank request writes. -/
def askFlds : List Fld := [.BANK_CTRL_BANK_REQ, .BANK_CTRL_REQ_DENIED]

theorem answerAsk_idle {s : State} (h : s.tk.ownAsk ≠ some true) (granted : Bool) : s.answerAsk granted = s := by
  unfold State.answerAsk State.on
  exact if_neg (by simpa using h)

theorem answerAsk_asked {s : State} (h : s.tk.ownAsk = some true) (granted : Bool) :
    (s.answerAsk granted).tk = { s.tk with ownAsk := none } ∧ (s.answerAsk granted).fld .BANK_CTRL_BANK_REQ = 0 ∧
      (granted = false → (s.answerAsk granted).fld .BANK_CTRL_REQ_DENIED = 1) := by
  have heq : s.answerAsk granted = ({ s with tk := { s.tk with ownAsk := none } }.setFld .BANK_CTRL_BANK_REQ 0 0).on (!granted) fun s =>
      s.setFld .BANK_CTRL_REQ_DENIED 0 1 := if_pos (by simpa using h)
  have htk : ({ s with tk := { s.tk with ownAsk := none } }.setFld .BANK_CTRL_BANK_REQ 0 0).tk = { s.tk with ownAsk := none } := rfl
  have hreq : ({ s with tk := { s.tk with ownAsk := none } }.setFld .BANK_CTRL_BANK_REQ 0 0).fld .BANK_CTRL_BANK_REQ = 0 := setFld_fld_same ..
  rw [heq]
  generalize { s with tk := { s.tk with ownAsk := none } }.setFld .BANK_CTRL_BANK_REQ 0 0 = u at *
  cases granted with
  | true => exact ⟨htk, hreq, nofun⟩
  | false => exact ⟨htk, (setFld_fld_ne u (by decide) 0 0 1).trans hreq, fun _ => setFld_fld_same u .BANK_CTRL_REQ_DENIED 0 1⟩

/-- The answer touches the two bits of BANK_CTRL and the note of the request alone. -/
theorem answerAsk_keeps (s : State) (granted : Bool) :
    (∃ r, s.answerAsk granted = { s with reg := r, tk := (s.answerAsk granted).tk }) ∧ FldsBut askFlds s (s.answerAsk granted) := by
  by_cases h : s.tk.ownAsk = some true
  · have heq : s.answerAsk granted = ({ s with tk := { s.tk with ownAsk := none } }.setFld .BANK_CTRL_BANK_REQ 0 0).on (!granted) fun s =>
        s.setFld .BANK_CTRL_REQ_DENIED 0 1 := if_pos (by simpa using h)
    have hnote : FldsBut askFlds s { s with tk := { s.tk with ownAsk := none } } := fldsBut_of_reg _ rfl
    refine ⟨?_, ?_⟩
    · rw [heq]
      cases granted <;> exact ⟨_, rfl⟩
    · rw [heq]
      exact (hnote.trans (setFld_fldsBut _ (by decide) 0 0)).trans (.on (setFld_fldsBut _ (by decide) 0 1))
  · rw [answerAsk_idle h]
    exact ⟨⟨_, rfl⟩, .refl _ s⟩

/-! ### The marker's contents -/

theorem mark_banked (s : State) :
    (s.kindlesNext = true ∨ s.allReady = true → s.mark.bankNext = false) ∧
      (s.kindlesNext = false → s.allReady = false → s.tk.bankThermal = true → s.mark.bankNext = true) ∧
      (s.kindlesNext = false → s.allReady = false → s.tk.bankThermal = false → s.othersRun = false →
        (s.mark.bankNext = true ↔ s.tk.bankSoft = true ∧ ∀ p ∈ s.chargeable, (s.plan p).uid ∉ s.mark.susp → s.slackAt p ≠ 0)) := by
  refine ⟨fun h => ?_, fun hk ha ht => ?_, fun hk ha ht ho => ?_⟩
  · rcases h with h | h
    · simp [State.mark, h]
    · cases hk : s.kindlesNext <;> simp [State.mark, h, hk]
  · simp [State.mark, hk, ha, ht]
  · simp [State.mark, hk, ha, ht, ho, or_iff_not_imp_left]

theorem mark_susp (s : State) : s.mark.susp.length ≤ 16 := List.length_take_le ..

theorem mark_number (s : State) : s.mark.hops = 0 ∧ s.mark.lead = 1016 ∧ s.mark.n = (s.now + 1) % 2 ^ 48 := ⟨rfl, rfl, rfl⟩

/-! ### Composing -/

theorem floodMap_rest (s : State) : ∃ l n, s.floodMap = { s with links := l, node := n } := ⟨_, _, floodExcept_rest ..⟩

/-- What is noted of the composed marker before a new member map goes out. -/
def State.noteMark (s : State) (m : Mark) : State :=
  { s with free := s.free + 1, tk := { s.tk with composed := some m, bankThermal := false, bankSoft := false, abortReq := false,
                                                 misses := s.tk.misses.filter (!m.susp.contains ·) } }

theorem compose_eq {s : State} (hc : s.isChimney = true) (hl : s.tk.firstLock = true) (hn : s.tk.composed = none) (ha : s.tk.arrived = none)
    (hd : s.tk.didLatch = false) :
    s.compose = (((s.toCyc (s.tickLen - 1024)).answerAsk s.mark.bankNext).noteMark s.mark).on s.mark.mbrNext fun s => s.floodMap := by
  have hmark : (s.toCyc (s.tickLen - 1024)).mark = s.mark := rfl
  unfold State.compose
  rw [if_neg (by simp [hc, hl, hn, ha, hd])]
  dsimp only
  rw [hmark]
  rfl

theorem marker_composed {s : State} (hrun : s.power = .run) (hc : s.isChimney = true) (hl : s.tk.firstLock = true) (hn : s.tk.composed = none)
    (ha : s.tk.arrived = none) (hd : s.tk.didLatch = false) :
    ∃ t, exec .markerCompose s = .next t ∧ t.tk.composed = some s.mark ∧ t.tk.bankThermal = false ∧ t.tk.bankSoft = false ∧
      (s.tk.ownAsk = some true → t.flag .BANK_CTRL_BANK_REQ = false ∧ t.tk.ownAsk = none ∧
        (s.mark.bankNext = false → t.flag .BANK_CTRL_REQ_DENIED = true)) ∧
      (s.tk.ownAsk ≠ some true → t.fld .BANK_CTRL_BANK_REQ = s.fld .BANK_CTRL_BANK_REQ) ∧ (∀ a, t.byte a = s.byte a) ∧ FldsBut askFlds s t := by
  obtain ⟨t, ht, hr⟩ := live_ran hrun fun s => s.compose
  rw [compose_eq hc hl hn ha hd] at hr
  have hu : (s.toCyc (s.tickLen - 1024)).reg = s.reg ∧ (s.toCyc (s.tickLen - 1024)).mem = s.mem ∧ (s.toCyc (s.tickLen - 1024)).tk = s.tk := ⟨rfl, rfl, rfl⟩
  generalize s.toCyc (s.tickLen - 1024) = u at *
  obtain ⟨hur, hum, hut⟩ := hu
  have hasked := answerAsk_asked (s := u) (granted := s.mark.bankNext)
  have hidle := answerAsk_idle (s := u) (granted := s.mark.bankNext)
  obtain ⟨⟨r, hrest⟩, hflds⟩ := answerAsk_keeps u s.mark.bankNext
  have hvm : (u.answerAsk s.mark.bankNext).mem = s.mem := by rw [hrest]; exact hum
  have hvf : FldsBut askFlds s (u.answerAsk s.mark.bankNext) := .trans (fldsBut_of_reg _ hur) hflds
  rw [hut] at hasked hidle
  generalize u.answerAsk s.mark.bankNext = v at *
  have hw : ((v.noteMark s.mark).on s.mark.mbrNext fun s => s.floodMap).tk = (v.noteMark s.mark).tk ∧
      ((v.noteMark s.mark).on s.mark.mbrNext fun s => s.floodMap).reg = v.reg ∧
      ((v.noteMark s.mark).on s.mark.mbrNext fun s => s.floodMap).mem = v.mem := by
    unfold State.on
    split
    · obtain ⟨l, n, h⟩ := floodMap_rest (v.noteMark s.mark)
      dsimp only
      rw [h]
      exact ⟨rfl, rfl, rfl⟩
    · exact ⟨rfl, rfl, rfl⟩
  generalize ((v.noteMark s.mark).on s.mark.mbrNext fun s => s.floodMap) = w at *
  obtain ⟨hwt, hwr, hwm⟩ := hw
  have hfld (f : Fld) (i : Nat) : t.fld f i = v.fld f i := (hr.fld f i).trans (congrArg (mget _ _) hwr)
  have htk : t.tk = (v.noteMark s.mark).tk := hr.tk.trans hwt
  refine ⟨t, ht, by rw [htk]; rfl, by rw [htk]; rfl, by rw [htk]; rfl, fun hown => ?_, fun hown => ?_,
    fun a => (hr.byte a).trans (congrArg (mget 0 a) (hwm.trans hvm)), fun f i hf => (hfld f i).trans (hvf f i hf)⟩
  · obtain ⟨h1, h2, h3⟩ := hasked hown
    refine ⟨?_, ?_, fun hb => ?_⟩
    · exact (congrArg (· != 0) ((hfld ..).trans h2) :)
    · rw [htk]
      show v.tk.ownAsk = none
      rw [h1]
    · exact (congrArg (· != 0) ((hfld ..).trans (h3 hb)) :)
  · rw [hfld, hidle hown]
    exact congrArg (mget _ _) hur

/-! ### Sending -/

/-- The marker has left the book, B − 1,016. -/
def State.markerGone (s : State) (m : Mark) : State :=
  { s.toCyc (s.tickLen - 1016) with tk := { s.tk with composed := none, arrived := some m } }

theorem sendMarker_eq {s : State} {m : Mark} (hm : s.tk.composed = some m) :
    s.sendMarker = ((s.markerGone m).driveOut m).floodExcept none (s.markerGone m).upLinks (markerFrame m) := by
  unfold State.sendMarker
  rw [hm]
  rfl

theorem marker_sent {s : State} {m : Mark} (hrun : s.power = .run) (hm : s.tk.composed = some m) :
    ∃ t, exec .markerSend s = .next t ∧ t.tk.composed = none ∧ t.tk.arrived = some m ∧
      (∀ n ∈ s.upLinks, markerFrame m ∈ (t.link n).txq) ∧
      (s.flag .TICK_CFG_TICK_OUT_EN = true → t.tickOut = tickOutBits m ∧ t.tickOutAt = s.clk + (s.tickLen - 1016 - s.cyc)) ∧
      (∀ f i, t.fld f i = s.fld f i) ∧ ∀ a, t.byte a = s.byte a := by
  obtain ⟨t, ht, hr⟩ := live_ran hrun fun s => s.sendMarker
  rw [sendMarker_eq hm] at hr
  have hu : (s.markerGone m).reg = s.reg ∧ (s.markerGone m).mem = s.mem ∧ (s.markerGone m).tk = { s.tk with composed := none, arrived := some m } ∧
      (s.markerGone m).clk = s.clk + (s.tickLen - 1016 - s.cyc) ∧ (s.markerGone m).upLinks = s.upLinks := ⟨rfl, rfl, rfl, rfl, rfl⟩
  generalize s.markerGone m = u at *
  obtain ⟨hur, hum, hut, hclk, huup⟩ := hu
  have hkeep : (u.driveOut m).reg = s.reg ∧ (u.driveOut m).mem = s.mem ∧ (u.driveOut m).tk = { s.tk with composed := none, arrived := some m } := by
    unfold State.driveOut
    split <;> exact ⟨hur, hum, hut⟩
  have hout (h : s.flag .TICK_CFG_TICK_OUT_EN = true) : u.driveOut m = { u with tickOut := tickOutBits m, tickOutAt := u.clk } :=
    if_pos ((flag_eq (congrArg (mget _ _) hur)).trans h)
  have hdrive (h : s.flag .TICK_CFG_TICK_OUT_EN = true) :
      (u.driveOut m).tickOut = tickOutBits m ∧ (u.driveOut m).tickOutAt = s.clk + (s.tickLen - 1016 - s.cyc) := by
    rw [hout h]
    exact ⟨rfl, hclk⟩
  generalize u.driveOut m = v at *
  obtain ⟨hvr, hvm, hvt⟩ := hkeep
  have hrest := floodExcept_rest v none u.upLinks (markerFrame m)
  have hmem (n : Nat) (hn : n ∈ u.upLinks) : markerFrame m ∈ ((v.floodExcept none u.upLinks (markerFrame m)).link n).txq :=
    floodExcept_mem v hn (Option.some_ne_none n) (markerFrame m)
  generalize v.floodExcept none u.upLinks (markerFrame m) = w at *
  have hwt : t.tk = { s.tk with composed := none, arrived := some m } := hr.tk.trans ((by rw [hrest] : w.tk = v.tk).trans hvt)
  refine ⟨t, ht, by rw [hwt], by rw [hwt], fun n hn => ?_, fun h => ?_, fun f i => (hr.fld f i).trans ((SameButLinks.fld hrest f i).trans (congrArg (mget _ _) hvr)),
    fun a => (hr.byte a).trans ((SameButLinks.byte hrest a).trans (congrArg (mget 0 a) hvm))⟩
  · rw [hr.link]
    exact hmem n (huup ▸ hn)
  · obtain ⟨h1, h2⟩ := hdrive h
    exact ⟨hr.tickOut.trans ((by rw [hrest] : w.tickOut = v.tickOut).trans h1), hr.tickOutAt.trans ((by rw [hrest] : w.tickOutAt = v.tickOutAt).trans h2)⟩

/-! ### Latching -/

/-- What the latch finds, before it is taken. -/
def State.latchFound (s : State) : State :=
  match s.foundMarker with
  | none => s.setFld .TICK_STAT_SOURCE_LOST 0 1
  | some m => s.on (!s.isChimney) fun s => s.answerAsk m.bankNext

/-- The latch takes the marker, the commits and the units. -/
def State.latchTaken (s : State) (found : Option Mark) : State :=
  { s with
    commits := s.commits.map fun c => { c with bound := c.bound || !c.late }
    units := { s.units with fixSlices := s.fld .SLICE_LIVE ||| s.units.lateSlices,
                            fixMixers := s.fld .MIXER_LIVE ||| s.units.lateMixers,
                            fixFen := s.fld .FEN_LIVE ||| s.units.lateFen }
    tk := { s.tk with latched := found, arrived := none, didLatch := true, lossAtLatch := found.isNone } }

theorem latch_eq {s : State} (hl : s.tk.firstLock = true) (hd : s.tk.didLatch = false) :
    s.latchMarker = (s.toCyc (s.tickLen - 64)).latchFound.latchTaken s.foundMarker := by
  have hfound : (s.toCyc (s.tickLen - 64)).foundMarker = s.foundMarker := rfl
  unfold State.latchMarker State.latchFound
  rw [if_neg (by simp [hl, hd])]
  dsimp only
  rw [hfound]
  cases s.foundMarker with
  | none => rfl
  | some m => rfl

/-- The registers that the latch writes. -/
def latchFlds : List Fld := [.TICK_STAT_SOURCE_LOST, .BANK_CTRL_BANK_REQ, .BANK_CTRL_REQ_DENIED]

theorem latchFound_spec (s : State) :
    (∃ r, s.latchFound = { s with reg := r, tk := s.latchFound.tk }) ∧ FldsBut latchFlds s s.latchFound ∧
      (s.foundMarker = none → s.latchFound.fld .TICK_STAT_SOURCE_LOST = 1) ∧
      ∀ m, s.foundMarker = some m → s.isChimney = false → s.tk.ownAsk = some true →
        s.latchFound.fld .BANK_CTRL_BANK_REQ = 0 ∧ (m.bankNext = false → s.latchFound.fld .BANK_CTRL_REQ_DENIED = 1) := by
  unfold State.latchFound
  cases hf : s.foundMarker with
  | none => exact ⟨⟨_, rfl⟩, setFld_fldsBut s (by decide) 0 1, fun _ => setFld_fld_same s .TICK_STAT_SOURCE_LOST 0 1, nofun⟩
  | some m =>
    obtain ⟨⟨r, hrest⟩, hflds⟩ := answerAsk_keeps s m.bankNext
    refine ⟨?_, .on (hflds.mono (by decide)), nofun, fun m' hm hc hown => ?_⟩
    · dsimp only
      cases s.isChimney
      · exact ⟨r, hrest⟩
      · exact ⟨_, rfl⟩
    · obtain rfl := Option.some.inj hm
      obtain ⟨-, h2, h3⟩ := answerAsk_asked hown m.bankNext
      dsimp only
      rw [hc]
      exact ⟨h2, h3⟩

theorem marker_latched {s : State} (hrun : s.power = .run) (hl : s.tk.firstLock = true) (hd : s.tk.didLatch = false) :
    ∃ t, exec .markerLatch s = .next t ∧ t.tk.didLatch = true ∧ t.tk.latched = s.foundMarker ∧ t.tk.arrived = none ∧
      t.commits = s.commits.map (fun c => { c with bound := c.bound || !c.late }) ∧
      t.units.fixSlices = s.fld .SLICE_LIVE ||| s.units.lateSlices ∧ t.units.fixMixers = s.fld .MIXER_LIVE ||| s.units.lateMixers ∧
      t.units.fixFen = s.fld .FEN_LIVE ||| s.units.lateFen ∧
      (s.foundMarker = none → t.flag .TICK_STAT_SOURCE_LOST = true ∧ t.tk.lossAtLatch = true) ∧
      (∀ m, s.foundMarker = some m → s.isChimney = false → s.tk.ownAsk = some true →
        t.flag .BANK_CTRL_BANK_REQ = false ∧ (m.bankNext = false → t.flag .BANK_CTRL_REQ_DENIED = true)) ∧
      (∀ a, t.byte a = s.byte a) ∧
      ∀ (f : Fld) (i : Nat), f ≠ .TICK_STAT_SOURCE_LOST → f ≠ .BANK_CTRL_BANK_REQ → f ≠ .BANK_CTRL_REQ_DENIED → t.fld f i = s.fld f i := by
  obtain ⟨t, ht, hr⟩ := live_ran hrun fun s => s.latchMarker
  rw [latch_eq hl hd] at hr
  have hu : (s.toCyc (s.tickLen - 64)).reg = s.reg ∧ (s.toCyc (s.tickLen - 64)).mem = s.mem ∧ (s.toCyc (s.tickLen - 64)).tk = s.tk ∧
      (s.toCyc (s.tickLen - 64)).commits = s.commits ∧ (s.toCyc (s.tickLen - 64)).units = s.units ∧
      (s.toCyc (s.tickLen - 64)).foundMarker = s.foundMarker ∧ (s.toCyc (s.tickLen - 64)).isChimney = s.isChimney := ⟨rfl, rfl, rfl, rfl, rfl, rfl, rfl⟩
  generalize s.toCyc (s.tickLen - 64) = u at *
  obtain ⟨hur, hum, hut, huc, huu, huf, hui⟩ := hu
  obtain ⟨⟨r, hrest⟩, hflds, hlost, hans⟩ := latchFound_spec u
  rw [huf] at hlost hans
  rw [hui, hut] at hans
  obtain ⟨hvm, hvc, hvu⟩ : u.latchFound.mem = s.mem ∧ u.latchFound.commits = s.commits ∧ u.latchFound.units = s.units := by
    rw [hrest]
    exact ⟨hum, huc, huu⟩
  have hvf : FldsBut latchFlds s u.latchFound := .trans (fldsBut_of_reg _ hur) hflds
  generalize u.latchFound = v at *
  have hfld (f : Fld) (i : Nat) : t.fld f i = v.fld f i := hr.fld f i
  have htk : t.tk = (v.latchTaken s.foundMarker).tk := hr.tk
  have hunits : t.units = (v.latchTaken s.foundMarker).units := (congrArg State.units hr.rest :)
  have hlive (f : Fld) (hf : f ∉ latchFlds) : v.fld f 0 = s.fld f 0 := hvf f 0 hf
  refine ⟨t, ht, by rw [htk]; rfl, by rw [htk]; rfl, by rw [htk]; rfl, ?_, ?_, ?_, ?_, fun hn => ⟨?_, by rw [htk, hn]; rfl⟩, fun m hm hc hown => ?_,
    fun a => (hr.byte a).trans (congrArg (mget 0 a) hvm), fun f i h1 h2 h3 => (hfld f i).trans (hvf f i (by simp [latchFlds, h1, h2, h3]))⟩
  · exact ((congrArg State.commits hr.rest :) : t.commits = _).trans (by rw [← hvc]; rfl)
  · rw [hunits, ← hvu, ← hlive .SLICE_LIVE (by decide)]
    rfl
  · rw [hunits, ← hvu, ← hlive .MIXER_LIVE (by decide)]
    rfl
  · rw [hunits, ← hvu, ← hlive .FEN_LIVE (by decide)]
    rfl
  · exact (congrArg (· != 0) ((hfld ..).trans (hlost hn)) :)
  · obtain ⟨h1, h2⟩ := hans m hm hc hown
    exact ⟨(congrArg (· != 0) ((hfld ..).trans h1) :), fun hb => (congrArg (· != 0) ((hfld ..).trans (h2 hb)) :)⟩

/-- Settles O26. -/
theorem markersAreSentAndLatched : Obligations.MarkersAreSentAndLatched := by
  refine ⟨⟨fun s hrun hc hl hn ha hd => ?_, fun s m hrun hm => marker_sent hrun hm⟩, fun s hrun hl hd => marker_latched hrun hl hd⟩
  obtain ⟨t, ht, hcomp, htherm, hsoft, hown, hidle, hbyte, hflds⟩ := marker_composed hrun hc hl hn ha hd
  obtain ⟨hops, hlead, hnum⟩ := mark_number s
  obtain ⟨hkind, hbank, hask⟩ := mark_banked s
  exact ⟨t, s.mark, ht, hcomp, hops, hlead, hnum, hkind, hbank, hask, mark_susp s, htherm, hsoft, hown, hidle, hbyte,
    fun f i h1 h2 => hflds f i (by simp [askFlds, h1, h2])⟩

end Sys2Proof.Machine
end

section
/-! PROOF. Units that fail, uncorrectable beats and the fence scan (R23, R199, R218, R250, R251, R390, R548). -/

namespace Sys2Proof.Machine

/-! ### What a loss leaves alone -/

/-- Between `s` and `t` units are lost and work faults: links, the notes of earlier errors, and work that had faulted stay. -/
structure Outlasts (s t : State) : Prop where
  faulted : ∀ k y, s.flight k = some y → y.status = 0x30 → t.flight k = some y
  links : t.links = s.links
  slices : t.units.parSlices = s.units.parSlices
  mixers : t.units.parMixers = s.units.parMixers
  scan : t.units.scan = s.units.scan

namespace Outlasts

variable {s t u : State}

theorem refl (s : State) : Outlasts s s := ⟨fun _ _ h _ => h, rfl, rfl, rfl, rfl⟩

theorem trans (h : Outlasts s t) (k : Outlasts t u) : Outlasts s u :=
  ⟨fun j y hy hs => k.faulted j y (h.faulted j y hy hs) hs, k.links.trans h.links, k.slices.trans h.slices, k.mixers.trans h.mixers,
    k.scan.trans h.scan⟩

theorem on {c : Bool} {g : State → State} (h : Outlasts s (g s)) : Outlasts s (s.on c g) := by
  cases c
  · exact .refl s
  · exact h

theorem of_notes (hf : t.flights = s.flights) (hl : t.links = s.links) (h1 : t.units.parSlices = s.units.parSlices)
    (h2 : t.units.parMixers = s.units.parMixers) (h3 : t.units.scan = s.units.scan) : Outlasts s t :=
  ⟨fun k _ h _ => (flight_congr hf k).trans h, hl, h1, h2, h3⟩

theorem of_same (hf : t.flights = s.flights) (hl : t.links = s.links) (hu : t.units = s.units) : Outlasts s t :=
  ⟨fun k _ h _ => (flight_congr hf k).trans h, hl, by rw [hu], by rw [hu], by rw [hu]⟩

end Outlasts

/-- Undefined bytes touch neither work, nor links, nor units. -/
theorem undefBytes_outlasts (s : State) (a n : Nat) : Outlasts s (s.undefBytes a n) := by
  have h := show_reported [.REFETCH_COUNT] (by decide) { s with free := s.free + n } a (freeBytesFrom s.free n)
  exact .of_same (congrArg State.flights h.rest :) (congrArg State.links h.rest :) (congrArg State.units h.rest :)

theorem undefBytes_flights (s : State) (a n : Nat) : (s.undefBytes a n).flights = s.flights := by
  have h := show_reported [.REFETCH_COUNT] (by decide) { s with free := s.free + n } a (freeBytesFrom s.free n)
  exact (congrArg State.flights h.rest :)

theorem spoil_outlasts (s : State) (x : Flight) : Outlasts s (s.spoil x) := by
  unfold State.spoil
  split
  · exact forAll_rel (R := Outlasts) .refl .trans _ _ (fun e _ s => undefBytes_outlasts s e.1 e.2) s
  · exact forAll_rel (R := Outlasts) .refl .trans _ _ (fun e _ s => undefBytes_outlasts s e.1 1) s

theorem spoil_flights (s : State) (x : Flight) : (s.spoil x).flights = s.flights := by
  unfold State.spoil
  split <;> exact forAll_keeps State.flights _ _ (fun _ _ _ => undefBytes_flights ..) s

/-- The flights of another number that a fault rewrites are not those found under `k`. -/
theorem find_map_other {l : List Flight} {j k : Nat} (hjk : k ≠ j) {g : Flight → Flight} (hg : ∀ y, (g y).id = y.id) :
    (l.map fun y => if y.id = j then g y else y).find? (·.id = k) = l.find? (·.id = k) := by
  induction l with
  | nil => rfl
  | cons y l ih =>
    rw [List.map_cons, List.find?_cons, List.find?_cons, ih]
    by_cases hj : y.id = j
    · have hne : y.id ≠ k := fun h => hjk (h.symm.trans hj)
      simp [hj, hg, Ne.symm hjk]
    · simp [hj]

/-- The fault that a piece of work in flight takes. -/
def Flight.faultedBy (y : Flight) (cause arg : Nat) : Flight := { y.halt with status := 0x30, cause := cause, sub := 0, r0 := arg, addr := 0, len := 0 }

theorem faultFlight_outlasts (s : State) (j cause arg : Nat) : Outlasts s (s.faultFlight j cause arg) := by
  unfold State.faultFlight
  split
  · exact .refl s
  · rename_i x hx
    split
    · exact .refl s
    · rename_i hst
      have hsp := spoil_outlasts s x
      refine ⟨fun k y hy hs => ?_, hsp.links, hsp.slices, hsp.mixers, hsp.scan⟩
      have hjk : k ≠ j := by
        rintro rfl
        have : x = y := Option.some.inj (hx.symm.trans hy)
        exact hst (this ▸ hs)
      exact (find_map_other (g := fun y => y.faultedBy cause arg) hjk fun _ => rfl).trans hy

/-- Work that has not faulted yet faults with the cause. -/
theorem faultFlight_found {s : State} {k : Nat} {x : Flight} (hx : s.flight k = some x) (hs : x.status ≠ 0x30) (cause arg : Nat) :
    (s.faultFlight k cause arg).flight k = some (x.faultedBy cause arg) := by
  have heq : s.faultFlight k cause arg =
      { s.spoil x with flights := s.flights.map fun y => if y.id = k then y.faultedBy cause arg else y } := by
    have hx' : s.flights.find? (·.id = k) = some x := hx
    unfold State.faultFlight
    rw [hx']
    exact if_neg hs
  rw [heq]
  exact setFlight_same (s := s) (f := fun y => y.faultedBy cause arg) hx fun _ => rfl

theorem faultFlights_outlasts (s : State) (p : Flight → Bool) (cause arg : Nat) : Outlasts s (s.faultFlights p cause arg) :=
  forAll_rel (R := Outlasts) .refl .trans _ _ (fun k _ s => faultFlight_outlasts s k cause arg) s

theorem clearRows_outlasts (s : State) (lo hi : Nat) (p : Latch → Bool) : Outlasts s ((s.zeroRange lo hi).dropLatches p) := .of_same rfl rfl rfl

theorem setFld_outlasts (s : State) (f : Fld) (i v : Nat) : Outlasts s (s.setFld f i v) := .of_same rfl rfl rfl

theorem mapSlices_outlasts (s : State) (m : Nat) : Outlasts s { s with units := { s.units with mapSlices := m } } := .of_notes rfl rfl rfl rfl rfl
theorem mapMixers_outlasts (s : State) (m : Nat) : Outlasts s { s with units := { s.units with mapMixers := m } } := .of_notes rfl rfl rfl rfl rfl

theorem remapSlices_outlasts (s : State) (m : Nat) : Outlasts s (s.remapSlices m) := by
  unfold State.remapSlices
  exact ((((faultFlights_outlasts s _ 0x10 _).trans (mapSlices_outlasts _ m)).trans (setFld_outlasts ..)).trans (setFld_outlasts ..)).trans
    ((setFld_outlasts ..).trans (clearRows_outlasts ..))

theorem remapMixers_outlasts (s : State) (m : Nat) : Outlasts s (s.remapMixers m) := by
  unfold State.remapMixers
  exact (((faultFlights_outlasts s _ 0x10 _).trans (mapMixers_outlasts _ m)).trans (setFld_outlasts ..)).trans (clearRows_outlasts ..)

theorem remapEarly_outlasts (s : State) : Outlasts s s.remapEarly := by
  refine .on (.trans (.trans (.on (remapSlices_outlasts s _)) (.on (remapMixers_outlasts _ _))) (.of_notes rfl rfl rfl rfl rfl))

theorem killSlice_outlasts (s : State) (n : Nat) : Outlasts s (s.killSlice n) := by
  unfold State.killSlice
  split
  · exact .refl s
  · refine .trans (.trans (.trans ?_ (.on (.of_notes rfl rfl rfl rfl rfl))) (faultFlights_outlasts _ _ 0x10 n)) (remapEarly_outlasts _)
    exact .of_same rfl rfl rfl

theorem killMixer_outlasts (s : State) (n : Nat) : Outlasts s (s.killMixer n) := by
  unfold State.killMixer
  split
  · exact .refl s
  · refine .trans (.trans (.trans ?_ (.on (.of_notes rfl rfl rfl rfl rfl))) (faultFlights_outlasts _ _ 0x10 n)) (remapEarly_outlasts _)
    exact .of_same rfl rfl rfl

/-- A channel that is fenced is noted for the scan before anything is remapped. -/
theorem fence_outlasts (s : State) (c : Nat) :
    (∀ k y, s.flight k = some y → y.status = 0x30 → (s.fence c).flight k = some y) ∧ (s.fence c).links = s.links ∧
      (s.fbit .FEN_LIVE 0 c = true → (s.fence c).units.scan.testBit c = true) := by
  cases hlive : s.fbit .FEN_LIVE 0 c with
  | false =>
    rw [fence_dead hlive]
    exact ⟨fun _ _ h _ => h, rfl, nofun⟩
  | true =>
    unfold State.fence
    rw [if_neg (by simp [hlive])]
    extract_lets u _ v
    have hu : Outlasts s u := (setFld_outlasts ..).trans (setFld_outlasts ..)
    have hscan : v.units.scan.testBit c = true := by
      show (orBit u.units.scan c).testBit c = true
      simp [testBit_orBit]
    have hvf : v.flights = u.flights := rfl
    have hvl : v.links = u.links := rfl
    clear_value v
    have hw := (setFld_outlasts v .KV_STAT_SCAN 0 1).trans (remapEarly_outlasts _)
    exact ⟨fun k y hy hs => hw.faulted k y ((flight_congr hvf k).trans (hu.faulted k y hy hs)) hs, hw.links.trans (hvl.trans hu.links),
      fun _ => by rw [hw.scan]; exact hscan⟩

/-! ### Parity errors -/

/-- What a parity error does to the instruction that it names. -/
def Flight.parityHit (x : Flight) (cls cause : Nat) (p : Nat → Bool) : Flight :=
  { x.stopAt (fun r => if cls = mixerClass && wordClass x.word != mixerClass then r.mixer.any p else p r.unit) with
    status := 0x30, cause := cause, sub := 0, r0 := 0, addr := 0, len := 0, fetching := false }

theorem stopAt_id (x : Flight) (hit : RunPiece → Bool) : (x.stopAt hit).id = x.id := by
  unfold Flight.stopAt
  dsimp only
  split <;> rfl

/-- The instruction that a parity error names faults if it runs on the unit, and no other does. -/
theorem parityFault_spec (s : State) (k cls cause : Nat) (p : Nat → Bool) :
    (∃ l, s.parityFault k cls cause p = { s with flights := l }) ∧
      ∀ x, s.flight k = some x →
        (x.takes cls p = false → (s.parityFault k cls cause p).flight k = some x) ∧
        (wordClass x.word ≠ 1 → x.takes cls p = true → x.status ≠ 0x30 →
          (s.parityFault k cls cause p).flight k = some (x.parityHit cls cause p)) := by
  refine ⟨⟨_, rfl⟩, fun x hx => ?_⟩
  have hid (y : Flight) : (if y.id = k && y.status != 0x30 && wordClass y.word != 1 && y.takes cls p then y.parityHit cls cause p else y).id = y.id := by
    split
    · exact stopAt_id y _
    · rfl
  have hfind : (s.parityFault k cls cause p).flight k = (s.flight k).map fun y =>
      if y.id = k && y.status != 0x30 && wordClass y.word != 1 && y.takes cls p then y.parityHit cls cause p else y := by
    show (s.flights.map _).find? _ = _
    rw [List.find?_map]
    exact congrArg (Option.map _) (congrArg (fun q => s.flights.find? q) (funext fun y => congrArg (fun j => decide (j = k)) (hid y)))
  have hk : x.id = k := by simpa using List.find?_some hx
  rw [hfind, hx, Option.map_some]
  refine ⟨fun ht => ?_, fun hc ht hs => ?_⟩
  · rw [if_neg (by simp [ht])]
  · rw [if_pos (by simp [hk, hs, hc, ht])]

/-- The registers of an error: its bits and its count. -/
def errFlds (bits count : Fld) : List Fld := [bits, count]

/-- A bit of an error register is set, and an error counts. -/
def State.errorNoted (s : State) (bits count : Fld) (p : Nat) : State := (s.setFbit bits 0 p).bump count

theorem errorNoted_spec {s : State} {bits count : Fld} {p : Nat} (hne : count ≠ bits) (hp : p < bits.width)
    (hn : s.fld count + 1 < 2 ^ count.width) :
    (s.errorNoted bits count p).fbit bits 0 p = true ∧ (s.errorNoted bits count p).fld count = s.fld count + 1 ∧
      FldsBut (errFlds bits count) s (s.errorNoted bits count p) ∧ ∃ r n, s.errorNoted bits count p = { s with reg := r, free := n } := by
  have hc : (s.setFbit bits 0 p).fld count = s.fld count := setFld_fld_ne s hne 0 0 _
  have hrep : Reported [count] (s.setFbit bits 0 p) (s.errorNoted bits count p) := bump_reported _ (List.mem_singleton_self _) 0 1
  have hbut : FldsBut (errFlds bits count) s (s.setFbit bits 0 p) := setFld_fldsBut s (List.mem_cons_self : bits ∈ errFlds bits count) 0 _
  refine ⟨?_, (bump_fld_self (hc.symm ▸ hn)).trans (congrArg (· + 1) hc), hbut.trans (hrep.fldsBut.mono fun f hf => List.mem_cons_of_mem _ hf), ?_⟩
  · have hkeep : (s.errorNoted bits count p).fbit bits 0 p = (s.setFbit bits 0 p).fbit bits 0 p :=
      congrArg (·.testBit p) (hrep.fld (by simpa using Ne.symm hne) 0)
    rw [hkeep, setFbit_fbit s bits p hp]
    simp
  · unfold State.errorNoted State.bump
    split <;> exact ⟨_, _, rfl⟩

/-- The first error of a unit that can be lost is kept in mind for the second. -/
def State.sliceNoted (s : State) (p : Nat) : State :=
  { s.errorNoted .FAB_PARITY .FAB_ERR_COUNT p with
    units := { (s.errorNoted .FAB_PARITY .FAB_ERR_COUNT p).units with parSlices := orBit (s.errorNoted .FAB_PARITY .FAB_ERR_COUNT p).units.parSlices p } }

def State.mixerNoted (s : State) (p : Nat) : State :=
  { s.errorNoted .MIX_PARITY .ENG_ERR_COUNT p with
    units := { (s.errorNoted .MIX_PARITY .ENG_ERR_COUNT p).units with parMixers := orBit (s.errorNoted .MIX_PARITY .ENG_ERR_COUNT p).units.parMixers p } }

def State.sliceError (s : State) (k p : Nat) : State :=
  (s.sliceNoted p).parityFault k fabricClass 0x0C fun l => (s.sliceNoted p).physOf fabricClass l = some p

def State.mixerError (s : State) (k p : Nat) : State :=
  (s.mixerNoted p).parityFault k mixerClass 0x0E fun l => (s.mixerNoted p).physOf mixerClass l = some p

/-- What an error leaves, before a unit is lost for it. -/
structure ErrorLeft (bits count : Fld) (cls cause k p : Nat) (s t : State) : Prop where
  bit : t.fbit bits 0 p = true
  counted : t.fld count = s.fld count + 1
  flds : FldsBut (errFlds bits count) s t
  mem : t.mem = s.mem
  hearths : t.hearths = s.hearths
  chans : t.chans = s.chans
  spared : ∀ x, s.flight k = some x → x.takes cls (fun l => decide (s.physOf cls l = some p)) = false → t.flight k = some x
  hit : ∀ x, s.flight k = some x → wordClass x.word ≠ 1 → x.takes cls (fun l => decide (s.physOf cls l = some p)) = true → x.status ≠ 0x30 →
    ∃ y, t.flight k = some y ∧ y.status = 0x30 ∧ y.cause = cause

theorem ErrorLeft.of {bits count : Fld} {cls cause k p : Nat} {s u t : State} {units : Units} (hne : count ≠ bits) (hp : p < bits.width)
    (hn : s.fld count + 1 < 2 ^ count.width) (hu : u = { s.errorNoted bits count p with units := units })
    (hphys : ∀ l, u.physOf cls l = s.physOf cls l) (ht : t = u.parityFault k cls cause fun l => u.physOf cls l = some p) :
    ErrorLeft bits count cls cause k p s t := by
  obtain ⟨hbit, hcount, hflds, r, n, hrest⟩ := errorNoted_spec hne hp hn
  obtain ⟨⟨l, hl⟩, hwork⟩ := parityFault_spec u k cls cause fun l => decide (u.physOf cls l = some p)
  have hpred : (fun l => decide (u.physOf cls l = some p)) = fun l => decide (s.physOf cls l = some p) := funext fun l => by rw [hphys]
  have hfl (x : Flight) (hx : s.flight k = some x) : u.flight k = some x := by
    refine (flight_congr ?_ k).trans hx
    rw [hu, hrest]
  rw [hpred] at hwork hl ht
  have hreg : t.reg = (s.errorNoted bits count p).reg := by rw [ht, hl, hu]
  refine ⟨?_, (congrArg (mget _ _) hreg).trans hcount, hflds.trans (fldsBut_of_reg _ hreg), by rw [ht, hl, hu, hrest],
    by rw [ht, hl, hu, hrest], by rw [ht, hl, hu, hrest], fun x hx h => ?_, fun x hx hc h hs => ?_⟩
  · exact (congrArg (·.testBit p) (congrArg (mget _ _) hreg)).trans hbit
  · exact ht ▸ (hwork x (hfl x hx)).1 h
  · exact ⟨_, ht ▸ (hwork x (hfl x hx)).2 hc h hs, rfl, rfl⟩

theorem sliceError_left {s : State} (k : Nat) (p : Fin 16) (hn : s.fld .FAB_ERR_COUNT + 1 < 2 ^ Fld.width .FAB_ERR_COUNT) :
    ErrorLeft .FAB_PARITY .FAB_ERR_COUNT 2 0x0C k p s (s.sliceError k p) ∧ (s.sliceError k p).units.parSlices.testBit p = true := by
  obtain ⟨-, -, -, r, n, hrest⟩ := errorNoted_spec (s := s) (bits := .FAB_PARITY) (by decide) p.isLt hn
  have hunits : (s.sliceNoted p).units = { s.units with parSlices := orBit s.units.parSlices p } := by
    unfold State.sliceNoted
    rw [hrest]
  have hphys (l : Nat) : (s.sliceNoted p).physOf 2 l = s.physOf 2 l := by
    unfold State.physOf
    rw [hunits]
  refine ⟨.of (u := s.sliceNoted p) (by decide) p.isLt hn rfl hphys rfl, ?_⟩
  have hpar : (s.sliceError k p).units = (s.sliceNoted p).units := rfl
  rw [hpar, hunits]
  simp [testBit_orBit]

theorem mixerError_left {s : State} (k : Nat) (p : Fin 32) (hn : s.fld .ENG_ERR_COUNT + 1 < 2 ^ Fld.width .ENG_ERR_COUNT) :
    ErrorLeft .MIX_PARITY .ENG_ERR_COUNT 6 0x0E k p s (s.mixerError k p) := by
  obtain ⟨-, -, -, r, n, hrest⟩ := errorNoted_spec (s := s) (bits := .MIX_PARITY) (by decide) p.isLt hn
  have hunits : (s.mixerNoted p).units = { s.units with parMixers := orBit s.units.parMixers p } := by
    unfold State.mixerNoted
    rw [hrest]
  have hphys (l : Nat) : (s.mixerNoted p).physOf 6 l = s.physOf 6 l := by
    unfold State.physOf
    rw [hunits]
  exact .of (u := s.mixerNoted p) (by decide) p.isLt hn rfl hphys rfl

/-- A loss after the error leaves what the error left. -/
theorem killSlice_kept (s : State) (n : Nat) : FldsBut (.SLICE_LIVE :: .ALERT_STAT_UNIT_LOST :: remapFlds) s (s.killSlice n) := by
  cases h : s.fbit .SLICE_LIVE 0 n
  · rw [killSlice_dead h]
    exact .refl _ s
  · exact ((setFld_fldsBut s (by decide) 0 _).trans (setFld_fldsBut _ (by decide) 0 1)).trans ((killSlice_lost h).mono (by decide))

theorem killMixer_kept (s : State) (n : Nat) : FldsBut (.MIXER_LIVE :: .ALERT_STAT_UNIT_LOST :: remapFlds) s (s.killMixer n) := by
  cases h : s.fbit .MIXER_LIVE 0 n
  · rw [killMixer_dead h]
    exact .refl _ s
  · exact ((setFld_fldsBut s (by decide) 0 _).trans (setFld_fldsBut _ (by decide) 0 1)).trans ((killMixer_lost h).mono (by decide))

theorem fence_kept (s : State) (c : Nat) : FldsBut (.FEN_LIVE :: .ALERT_STAT_UNIT_LOST :: .KV_STAT_SCAN :: remapFlds) s (s.fence c) := by
  cases h : s.fbit .FEN_LIVE 0 c
  · rw [fence_dead h]
    exact .refl _ s
  · exact (((setFld_fldsBut s (by decide) 0 _).trans (setFld_fldsBut _ (by decide) 0 1)).trans (setFld_fldsBut _ (by decide) 0 1)).trans
      ((fence_lost h).mono (by decide))

/-- R218: the second error of a slice takes it out of service. -/
theorem fabricParity_spec {s : State} (k : Nat) (p : Fin 16) (hrun : s.power = .run) (hn : s.fld .FAB_ERR_COUNT + 1 < 2 ^ Fld.width .FAB_ERR_COUNT) :
    ∃ t, exec (.fabricParity k p) s = .next t ∧ t.fbit .FAB_PARITY 0 p = true ∧ t.fld .FAB_ERR_COUNT = s.fld .FAB_ERR_COUNT + 1 ∧
      t.units.parSlices.testBit p = true ∧
      (s.units.parSlices.testBit p = false → t.fld .SLICE_LIVE = s.fld .SLICE_LIVE ∧ t.hearths = s.hearths ∧ t.chans = s.chans ∧
        (∀ a, t.byte a = s.byte a) ∧
        ∀ x, s.flight k = some x → x.takes 2 (fun l => decide (s.physOf 2 l = some p.val)) = false → t.flight k = some x) ∧
      (s.units.parSlices.testBit p = true → t.fbit .SLICE_LIVE 0 p = false) ∧
      ∀ x, s.flight k = some x → wordClass x.word ≠ 1 → x.takes 2 (fun l => decide (s.physOf 2 l = some p.val)) = true → x.status ≠ 0x30 →
        ∃ y, t.flight k = some y ∧ y.status = 0x30 ∧ y.cause = 0x0C := by
  obtain ⟨t, ht, hr⟩ := live_ran hrun fun s => (s.sliceError k p).on (s.units.parSlices.testBit p) fun s => s.killSlice p
  obtain ⟨hleft, hpar⟩ := sliceError_left k p hn
  generalize s.sliceError k p = u at *
  have hlost := killSlice_loses u p
  have hkept := killSlice_kept u p
  have hout := killSlice_outlasts u p
  cases hb : s.units.parSlices.testBit p with
  | false =>
    rw [hb] at hr
    have hr : Ran u t := hr
    refine ⟨t, ht, (hr.fbit ..).trans hleft.bit, (hr.fld ..).trans hleft.counted, (congrArg (·.parSlices.testBit p.val) (congrArg State.units hr.rest :)).trans hpar,
      fun _ => ⟨(hr.fld ..).trans (hleft.flds _ _ (by decide)), (congrArg State.hearths hr.rest :).trans hleft.hearths,
        (congrArg State.chans hr.rest :).trans hleft.chans, fun a => (hr.byte a).trans (congrArg (mget 0 a) hleft.mem),
        fun x hx h => (flight_congr hr.flights k).trans (hleft.spared x hx h)⟩, nofun, fun x hx hc h hs => ?_⟩
    obtain ⟨y, hy, hst, hca⟩ := hleft.hit x hx hc h hs
    exact ⟨y, (flight_congr hr.flights k).trans hy, hst, hca⟩
  | true =>
    rw [hb] at hr
    have hr : Ran (u.killSlice p) t := hr
    refine ⟨t, ht, (hr.fbit ..).trans ((congrArg (·.testBit p.val) (hkept _ 0 (by decide))).trans hleft.bit),
      (hr.fld ..).trans ((hkept _ 0 (by decide)).trans hleft.counted),
      (congrArg (·.parSlices.testBit p.val) (congrArg State.units hr.rest :)).trans ((congrArg (·.testBit p.val) hout.slices).trans hpar), nofun,
      fun _ => (hr.fbit ..).trans ?_, fun x hx hc h hs => ?_⟩
    · rw [hlost.bits p p.isLt]
      simp
    · obtain ⟨y, hy, hst, hca⟩ := hleft.hit x hx hc h hs
      exact ⟨y, (flight_congr hr.flights k).trans (hout.faulted k y hy hst), hst, hca⟩

/-- R251: and that of a mixer array. -/
theorem mixerParity_spec {s : State} (k : Nat) (p : Fin 32) (hrun : s.power = .run) (hn : s.fld .ENG_ERR_COUNT + 1 < 2 ^ Fld.width .ENG_ERR_COUNT) :
    ∃ t, exec (.mixerParity k p) s = .next t ∧ t.fbit .MIX_PARITY 0 p = true ∧ t.fld .ENG_ERR_COUNT = s.fld .ENG_ERR_COUNT + 1 ∧
      (s.units.parMixers.testBit p = false → t.fld .MIXER_LIVE = s.fld .MIXER_LIVE ∧ (∀ a, t.byte a = s.byte a) ∧
        ∀ x, s.flight k = some x → x.takes 6 (fun l => decide (s.physOf 6 l = some p.val)) = false → t.flight k = some x) ∧
      (s.units.parMixers.testBit p = true → t.fbit .MIXER_LIVE 0 p = false) ∧
      ∀ x, s.flight k = some x → wordClass x.word ≠ 1 → x.takes 6 (fun l => decide (s.physOf 6 l = some p.val)) = true → x.status ≠ 0x30 →
        ∃ y, t.flight k = some y ∧ y.status = 0x30 ∧ y.cause = 0x0E := by
  obtain ⟨t, ht, hr⟩ := live_ran hrun fun s => (s.mixerError k p).on (s.units.parMixers.testBit p) fun s => s.killMixer p
  have hleft := mixerError_left k p hn
  generalize s.mixerError k p = u at *
  have hlost := killMixer_loses u p
  have hkept := killMixer_kept u p
  have hout := killMixer_outlasts u p
  cases hb : s.units.parMixers.testBit p with
  | false =>
    rw [hb] at hr
    have hr : Ran u t := hr
    refine ⟨t, ht, (hr.fbit ..).trans hleft.bit, (hr.fld ..).trans hleft.counted,
      fun _ => ⟨(hr.fld ..).trans (hleft.flds _ _ (by decide)), fun a => (hr.byte a).trans (congrArg (mget 0 a) hleft.mem),
        fun x hx h => (flight_congr hr.flights k).trans (hleft.spared x hx h)⟩, nofun, fun x hx hc h hs => ?_⟩
    obtain ⟨y, hy, hst, hca⟩ := hleft.hit x hx hc h hs
    exact ⟨y, (flight_congr hr.flights k).trans hy, hst, hca⟩
  | true =>
    rw [hb] at hr
    have hr : Ran (u.killMixer p) t := hr
    refine ⟨t, ht, (hr.fbit ..).trans ((congrArg (·.testBit p.val) (hkept _ 0 (by decide))).trans hleft.bit),
      (hr.fld ..).trans ((hkept _ 0 (by decide)).trans hleft.counted), nofun, fun _ => (hr.fbit ..).trans ?_, fun x hx hc h hs => ?_⟩
    · rw [hlost.bits p p.isLt]
      simp
    · obtain ⟨y, hy, hst, hca⟩ := hleft.hit x hx hc h hs
      exact ⟨y, (flight_congr hr.flights k).trans (hout.faulted k y hy hst), hst, hca⟩

/-- The error register, the unit's number in its class, and the class of engine `u` (R250). -/
def engineFld (u : Nat) : Fld := if u < 4 then .ENG_PARITY_TP else if u < 6 then .ENG_PARITY_WIN else .ENG_PARITY_BP
def engineNo (u : Nat) : Nat := if u < 4 then u else if u < 6 then u - 4 else u - 6
def engineCls (u : Nat) : Nat := if u < 4 then 3 else if u < 6 then 4 else 5

theorem engineFld_facts : ∀ u : Fin 8, Fld.ENG_ERR_COUNT ≠ engineFld u ∧ engineNo u < (engineFld u).width := by decide

theorem engineParity_eq (s : State) (k : Nat) (u : Fin 8) : exec (.engineParity k u) s = live s fun s =>
    (s.errorNoted (engineFld u) .ENG_ERR_COUNT (engineNo u)).parityFault k (engineCls u) 0x0D fun l => l = engineNo u := by
  show execEngineParity k u s = _
  unfold execEngineParity engineFld engineNo engineCls
  by_cases h4 : u.val < 4
  · simp only [h4, if_true]
    rfl
  · by_cases h6 : u.val < 6
    · simp only [h4, h6, if_true, if_false]
      rfl
    · simp only [h4, h6, if_false]
      rfl

theorem engineParity_spec {s : State} (k : Nat) (u : Fin 8) (hrun : s.power = .run) (hn : s.fld .ENG_ERR_COUNT + 1 < 2 ^ Fld.width .ENG_ERR_COUNT) :
    ∃ t, exec (.engineParity k u) s = .next t ∧ t.fld .ENG_ERR_COUNT = s.fld .ENG_ERR_COUNT + 1 ∧
      t.fbit (engineFld u) 0 (engineNo u) = true ∧ t.hearths = s.hearths ∧ t.chans = s.chans ∧ t.units = s.units ∧ (∀ a, t.byte a = s.byte a) ∧
      ∀ x, s.flight k = some x → x.status ≠ 0x30 → wordClass x.word ≠ 1 →
        (x.takes (engineCls u) (fun l => decide (l = engineNo u)) = true → ∃ y, t.flight k = some y ∧ y.status = 0x30 ∧ y.cause = 0x0D) ∧
        (x.takes (engineCls u) (fun l => decide (l = engineNo u)) = false → t.flight k = some x) := by
  obtain ⟨t, ht, hr⟩ := live_ran hrun fun s =>
    (s.errorNoted (engineFld u) .ENG_ERR_COUNT (engineNo u)).parityFault k (engineCls u) 0x0D fun l => l = engineNo u
  obtain ⟨hne, hw⟩ := engineFld_facts u
  obtain ⟨hbit, hcount, -, r, n, hrest⟩ := errorNoted_spec (s := s) hne hw hn
  generalize s.errorNoted (engineFld u) .ENG_ERR_COUNT (engineNo u) = v at *
  obtain ⟨⟨l, hl⟩, hwork⟩ := parityFault_spec v k (engineCls u) 0x0D fun l => decide (l = engineNo u)
  have hv (x : Flight) (hx : s.flight k = some x) : v.flight k = some x := (flight_congr (by rw [hrest]) k).trans hx
  generalize v.parityFault k (engineCls u) 0x0D (fun l => decide (l = engineNo u)) = w at *
  have hreg : w.reg = v.reg := by rw [hl]
  refine ⟨t, (engineParity_eq s k u).trans ht, (hr.fld ..).trans ((congrArg (mget _ _) hreg).trans hcount),
    (hr.fbit ..).trans ((congrArg (·.testBit (engineNo u)) (congrArg (mget _ _) hreg)).trans hbit), ?_, ?_, ?_, fun a => ?_,
    fun x hx hs hc => ⟨fun h => ?_, fun h => ?_⟩⟩
  · exact (congrArg State.hearths hr.rest :).trans (by rw [hl, hrest] : w.hearths = s.hearths)
  · exact (congrArg State.chans hr.rest :).trans (by rw [hl, hrest] : w.chans = s.chans)
  · exact (congrArg State.units hr.rest :).trans (by rw [hl, hrest] : w.units = s.units)
  · exact (hr.byte a).trans (congrArg (mget 0 a) (by rw [hl, hrest] : w.mem = s.mem))
  · exact ⟨_, (flight_congr hr.flights k).trans ((hwork x (hv x hx)).2 hc h hs), rfl, rfl⟩
  · exact (flight_congr hr.flights k).trans ((hwork x (hv x hx)).1 h)

/-! ### Uncorrectable beats -/

theorem failMove_spec (s : State) (id : Nat) : FldsBut faultFlds s (s.failMove id) := by
  unfold State.failMove
  split
  · exact .refl _ s
  · split
    · exact .refl _ s
    · exact (spoilMoves_fldsBut s _).trans (fldsBut_of_reg _ rfl)

theorem ones_fldsBut (s : State) : FldsBut faultFlds s { s with bus := s.bus.map fun _ => 0xFF } := fldsBut_of_reg _ rfl

/-- Whoever met the beat, its fault touches no register of the fen. -/
theorem beatFault_fldsBut (s : State) (a : Nat) (who : BeatReader) : FldsBut faultFlds s (s.beatFault a who) := by
  have hanswer (n : Nat) (f : Frame) (c : Nat) : FldsBut faultFlds s (s.answerFault n f c) := by
    have hreply (ty hi : Nat) (more : List Nat) : FldsBut faultFlds s (s.reply n f ty hi more []) := by
      obtain ⟨k, -, h⟩ := reply_link s n f ty hi more []
      rw [h]
      exact fldsBut_of_reg _ (sendLink_reg ..)
    unfold State.answerFault
    dsimp only
    split
    · exact hreply _ _ _
    · exact hreply _ _ _
    · exact hreply _ _ _
    · exact .refl _ s
  cases who with
  | nobody => exact .refl _ s
  | ember e => exact .on (emberFail_fldsBut s e _ _ _)
  | dma c planned => exact .on (fldsBut_of_reg _ rfl)
  | flight k => exact (faultFlight_fldsBut s k 0x0F 0).mono (by decide)
  | bar2 fn =>
    have hbus (u : State) : FldsBut faultFlds u (u.bar2Ash fn a 64 0x0F) := (postAsh_reported ..).fldsBut.mono reportFlds_sub_faultFlds
    exact .trans (ones_fldsBut s) (hbus _)
  | write n f => exact .on (hanswer n f 0x04)
  | read n f => exact .on (hanswer n f 0x04)
  | reshard id => exact failMove_spec s _

/-- A beat counts, and fences its channel where the count reaches the limit. -/
theorem countUe_spec {s : State} {c : Nat} (hc : c < 16) (hn : s.fld .FEN_UE_COUNT c + 1 < 2 ^ Fld.width .FEN_UE_COUNT) :
    (s.countUe c 1).fld .FEN_UE_COUNT c = s.fld .FEN_UE_COUNT c + 1 ∧
      (s.countUe c 1).fbit .FEN_LIVE 0 c =
        (s.fbit .FEN_LIVE 0 c && !(s.fld .FEN_UE_LIMIT != 0 && s.fld .FEN_UE_LIMIT ≤ s.fld .FEN_UE_COUNT c + 1)) ∧
      (∀ k y, s.flight k = some y → y.status = 0x30 → (s.countUe c 1).flight k = some y) ∧ (s.countUe c 1).links = s.links := by
  have hrep := bump_reported s (List.mem_singleton_self Fld.FEN_UE_COUNT) c 1
  have hcount : (s.bump .FEN_UE_COUNT c).fld .FEN_UE_COUNT c = s.fld .FEN_UE_COUNT c + 1 := bump_fld_self hn
  unfold State.countUe State.ueLimit
  generalize s.bump .FEN_UE_COUNT c = u at *
  have hlive : u.fbit .FEN_LIVE 0 c = s.fbit .FEN_LIVE 0 c := congrArg (·.testBit c) (hrep.fld (by decide) 0)
  have hlimit : u.fld .FEN_UE_LIMIT = s.fld .FEN_UE_LIMIT := hrep.fld (by decide) 0
  have hfl (k : Nat) : u.flight k = s.flight k := flight_congr (congrArg State.flights hrep.rest :) k
  have hlk : u.links = s.links := (congrArg State.links hrep.rest :)
  rw [hcount, hlimit]
  cases hb : s.fld .FEN_UE_LIMIT != 0 && s.fld .FEN_UE_LIMIT ≤ s.fld .FEN_UE_COUNT c + 1 with
  | false => exact ⟨hcount, by simpa [State.on] using hlive, fun k y hy _ => (hfl k).trans hy, hlk⟩
  | true =>
    have hloses := fence_loses u c
    obtain ⟨hfaulted, hlinks, -⟩ := fence_outlasts u c
    refine ⟨(fence_kept u c _ _ (by decide)).trans hcount, ?_, fun k y hy hs => hfaulted k y ((hfl k).trans hy) hs, hlinks.trans hlk⟩
    show (u.fence c).fbit .FEN_LIVE 0 c = _
    rw [hloses.bits c hc]
    simp

/-- The access of a beat whose reader the list of wires can name. -/
theorem beatFault_spec {s : State} (a : Nat) {who : BeatReader} (hwf : beatReaderWf who = true) :
    (∀ k x, who = .flight k → s.flight k = some x → x.status ≠ 0x30 →
      ∃ y, (s.beatFault a who).flight k = some y ∧ y.status = 0x30 ∧ y.cause = 0x0F) ∧
    (∀ n f, who = .write n f → ∃ k g, g ∈ ((s.beatFault a who).link k).txq ∧ frameType g = 0x19 ∧ hdr g 0 32 16 = reqId f ∧ hdr g 0 48 8 = 4) ∧
    (∀ n f, who = .read n f → ∃ k g, g ∈ ((s.beatFault a who).link k).txq ∧ frameType g = 0x1B ∧ hdr g 0 32 16 = reqId f ∧ hdr g 0 48 8 = 4) := by
  have hanswer (n : Nat) (f : Frame) (hty : frameType f = 0x10 ∨ frameType f = 0x11) : ∃ k g, g ∈ ((s.answerFault n f 0x04).link k).txq ∧
      frameType g = faultType (frameType f) ∧ hdr g 0 32 16 = reqId f ∧ hdr g 0 48 8 = 4 := by
    obtain ⟨k, g, hsent, ht, hid, hcode⟩ := answerFault_spec s n (f := f) (hty.imp_right .inl) (cause := 0x04) (by decide)
    refine ⟨k, g, hsent ▸ sendLink_here s k g, ht, hid, hcode.trans ?_⟩
    rcases hty with h | h <;> rw [h] <;> rfl
  refine ⟨?_, ?_, ?_⟩
  · rintro k x rfl hx hs
    exact ⟨_, faultFlight_found hx hs 0x0F 0, rfl, rfl⟩
  · rintro n f rfl
    have hty : frameType f = 0x10 := frameType_of_is hwf
    obtain ⟨k, g, hmem, ht, hrest⟩ := hanswer n f (.inl hty)
    refine ⟨k, g, ?_, ht.trans (by rw [hty]; rfl), hrest⟩
    show g ∈ ((s.on (decide (frameType f = 0x10)) fun s => s.answerFault n f 0x04).link k).txq
    rwa [decide_eq_true hty]
  · rintro n f rfl
    have hty : frameType f = 0x11 := frameType_of_is hwf
    obtain ⟨k, g, hmem, ht, hrest⟩ := hanswer n f (.inr hty)
    refine ⟨k, g, ?_, ht.trans (by rw [hty]; rfl), hrest⟩
    show g ∈ ((s.on (decide (frameType f = 0x11)) fun s => s.answerFault n f 0x04).link k).txq
    rwa [decide_eq_true hty]

theorem fenUncorrectableBeat_spec {s : State} {c : Fin 16} (a : BitVec 48) {who : BeatReader} (hrun : s.power = .run) (hwf : beatReaderWf who = true)
    (hn : s.fld .FEN_UE_COUNT c + 1 < 2 ^ Fld.width .FEN_UE_COUNT) :
    ∃ t, exec (.fenUncorrectableBeat c a who) s = .next t ∧ t.fld .FEN_UE_COUNT c = s.fld .FEN_UE_COUNT c + 1 ∧
      t.fbit .FEN_LIVE 0 c = (s.fbit .FEN_LIVE 0 c && !(s.fld .FEN_UE_LIMIT != 0 && s.fld .FEN_UE_LIMIT ≤ s.fld .FEN_UE_COUNT c + 1)) ∧
      (∀ k x, who = .flight k → s.flight k = some x → x.status ≠ 0x30 → ∃ y, t.flight k = some y ∧ y.status = 0x30 ∧ y.cause = 0x0F) ∧
      (∀ n f, who = .write n f → ∃ k g, g ∈ (t.link k).txq ∧ frameType g = 0x19 ∧ hdr g 0 32 16 = reqId f ∧ hdr g 0 48 8 = 4) ∧
      (∀ n f, who = .read n f → ∃ k g, g ∈ (t.link k).txq ∧ frameType g = 0x1B ∧ hdr g 0 32 16 = reqId f ∧ hdr g 0 48 8 = 4) := by
  obtain ⟨t, ht, hr⟩ := live_ran hrun fun s => (s.beatFault a.toNat who).countUe c 1
  have hbut := beatFault_fldsBut s a.toNat who
  obtain ⟨hflight, hwrite, hread⟩ := beatFault_spec (s := s) a.toNat hwf
  generalize s.beatFault a.toNat who = u at *
  have hcount := hbut .FEN_UE_COUNT c (by decide)
  have hlimit := hbut .FEN_UE_LIMIT 0 (by decide)
  have hlive : u.fbit .FEN_LIVE 0 c = s.fbit .FEN_LIVE 0 c := congrArg (·.testBit c) (hbut .FEN_LIVE 0 (by decide))
  obtain ⟨hc, hb, hkeep, hlinks⟩ := countUe_spec (s := u) c.isLt (hcount ▸ hn)
  have hlk (k : Nat) : t.link k = u.link k := (hr.link k).trans (congrArg (mget _ k) hlinks)
  refine ⟨t, (if_pos hwf).trans ht, (hr.fld ..).trans (hc.trans (by rw [hcount])), (hr.fbit ..).trans (hb.trans (by rw [hcount, hlimit, hlive])),
    fun k x hw hx hs => ?_, fun n f hw => ?_, fun n f hw => ?_⟩
  · obtain ⟨y, hy, hst, hca⟩ := hflight k x hw hx hs
    exact ⟨y, (flight_congr hr.flights k).trans (hkeep k y hy hst), hst, hca⟩
  · obtain ⟨k, g, hg, hrest⟩ := hwrite n f hw
    exact ⟨k, g, (hlk k).symm ▸ hg, hrest⟩
  · obtain ⟨k, g, hg, hrest⟩ := hread n f hw
    exact ⟨k, g, (hlk k).symm ▸ hg, hrest⟩

/-! ### Corrected errors, failed trainings and the scan -/

theorem fenCorrected_spec {s : State} (c : Fin 16) (hrun : s.power = .run) (hn : s.fld .FEN_CE_COUNT c + 1 < 2 ^ Fld.width .FEN_CE_COUNT) :
    ∃ t, exec (.fenCorrectedError c) s = .next t ∧ t.fld .FEN_CE_COUNT c = s.fld .FEN_CE_COUNT c + 1 ∧ (∀ a, t.byte a = s.byte a) ∧
      ∀ (f : Fld) (i : Nat), f ≠ .FEN_CE_COUNT → t.fld f i = s.fld f i := by
  obtain ⟨t, ht, hr⟩ := live_ran hrun fun s => s.bump .FEN_CE_COUNT c
  exact ⟨t, ht, (hr.fld ..).trans (bump_fld_self hn), fun a => (hr.byte a).trans (congrArg (mget 0 a) (bump_mem s .FEN_CE_COUNT c 1)),
    fun f i hf => (hr.fld f i).trans (bump_fldsBut (fs := [.FEN_CE_COUNT]) s (List.mem_singleton_self _) c 1 f i (by simpa using hf))⟩

/-- R390: a channel that fails is fenced alone. -/
theorem fenced_spec {s t : State} (c : Fin 16) (hr : Ran (s.fence c) t) : t.fbit .FEN_LIVE 0 c = false ∧
    (∀ k : Fin 16, k ≠ c → t.fbit .FEN_LIVE 0 k = s.fbit .FEN_LIVE 0 k) ∧
    (s.fbit .FEN_LIVE 0 c = true → t.flag .KV_STAT_SCAN = true ∧ t.units.scan.testBit c = true ∧ t.flag .ALERT_STAT_UNIT_LOST = true) := by
  have hloses := fence_loses s c
  obtain ⟨-, -, hscan⟩ := fence_outlasts s c
  generalize s.fence c = u at *
  have hbit (k : Fin 16) : t.fbit .FEN_LIVE 0 k = (s.fbit .FEN_LIVE 0 k && k.val != c.val) := (hr.fbit ..).trans (hloses.bits k k.isLt)
  refine ⟨by simp [hbit], fun k hk => ?_, fun h => ?_⟩
  · have hne : k.val ≠ c.val := fun he => hk (Fin.ext he)
    simp [hbit, hne]
  · exact ⟨(hr.flag ..).trans (hloses.raised h _ (by decide)), (congrArg (·.scan.testBit c.val) hr.units).trans (hscan h),
      (hr.flag ..).trans (hloses.raised h _ (by decide))⟩

/-- The scan marks a sequence broken, and says so in its hearth's ash. -/
def State.breakSeq (s : State) (id hearth : Nat) : State :=
  (s.setSeq id { s.seq id with broken := true }).postAsh hearth { cause := 0x0F, origin := 4, tag := id, arg := id, issue := s.now, fail := s.now }

theorem breakSeq_seq (s : State) (id h k : Nat) : (s.breakSeq id h).seq k = if k = id then { s.seq id with broken := true } else s.seq k := by
  have hrep := postAsh_reported (s.setSeq id { s.seq id with broken := true }) h
    { cause := 0x0F, origin := 4, tag := id, arg := id, issue := s.now, fail := s.now }
  have hseq : (s.breakSeq id h).seq k = (s.setSeq id { s.seq id with broken := true }).seq k :=
    congrArg (mget ({} : Seq) k) (congrArg State.seqs hrep.rest :)
  rw [hseq]
  split
  · next hk => rw [hk, setSeq_seq_same]
  · next hk => exact setSeq_seq_other s hk _

theorem breakSeq_units (s : State) (id h : Nat) : (s.breakSeq id h).units = s.units :=
  (congrArg State.units (postAsh_reported (s.setSeq id { s.seq id with broken := true }) h
    { cause := 0x0F, origin := 4, tag := id, arg := id, issue := s.now, fail := s.now }).rest :)

theorem breakSeq_broken {s : State} {k : Nat} (hb : (s.seq k).broken = true) (id h : Nat) : ((s.breakSeq id h).seq k).broken = true := by
  rw [breakSeq_seq]
  split
  · rfl
  · exact hb

/-- R390: every open sequence with a page in the channel is broken. -/
theorem broken_seqs (l : List (Nat × Seq)) (s : State) (k : Nat) (h : (s.seq k).broken = true ∨ ∃ e ∈ l, e.1 = k) :
    ((forAll l (fun e s => s.breakSeq e.1 e.2.hearth) s).seq k).broken = true := by
  rcases h with h | ⟨e, he, rfl⟩
  · exact forAll_rel (R := fun s t => (s.seq k).broken = true → (t.seq k).broken = true) (fun _ => id) (fun h k q => k (h q)) l _
      (fun e _ u hu => breakSeq_broken hu e.1 e.2.hearth) s h
  · refine forAll_reached (fun u => (u.seq e.1).broken = true) he _ (fun u => ?_) (fun b _ u hu => breakSeq_broken hu b.1 b.2.hearth) s
    simp [breakSeq_seq]

/-- The sequences that the scan breaks, and the end of the scan. -/
def State.scanHits (s : State) (c : Nat) : List (Nat × Seq) := s.seqs.filter fun e => e.2.opened && !e.2.broken && s.pageIn e.2 c

def State.scanned (s : State) (c : Nat) : State := { s with units := { s.units with scan := clearBit s.units.scan c } }

def State.scanEnd (s : State) (c : Nat) : State := (s.scanned c).on ((s.scanned c).units.scan = 0) fun s => s.setFld .KV_STAT_SCAN 0 0

theorem fenceScan_eq {s : State} {c : Nat} (h : s.units.scan.testBit c = true) :
    s.fenceScan c = (forAll (s.scanHits c) (fun e s => s.breakSeq e.1 e.2.hearth) s).scanEnd c := by
  unfold State.fenceScan
  rw [if_neg (by simp [h])]
  rfl

theorem scanEnd_spec (s : State) (c : Nat) : (s.scanEnd c).units.scan = clearBit s.units.scan c ∧ (s.scanEnd c).seqs = s.seqs ∧
    (clearBit s.units.scan c = 0 → (s.scanEnd c).flag .KV_STAT_SCAN = false) := by
  have hscan : (s.scanned c).units.scan = clearBit s.units.scan c := rfl
  have hseqs : (s.scanned c).seqs = s.seqs := rfl
  unfold State.scanEnd
  generalize s.scanned c = u at *
  cases hz : decide (u.units.scan = 0) with
  | false => exact ⟨hscan, hseqs, fun h => absurd hz (by simp [hscan, h])⟩
  | true => exact ⟨hscan, hseqs, fun _ => setFld_flag_b2n u .KV_STAT_SCAN 0 false (by decide)⟩

theorem fenceScan_spec {s : State} (c : Fin 16) (hrun : s.power = .run) (hscan : s.units.scan.testBit c = true) :
    ∃ t, exec (.fenceScan c) s = .next t ∧ t.units.scan.testBit c = false ∧ (t.units.scan = 0 → t.flag .KV_STAT_SCAN = false) ∧
      ∀ e ∈ s.seqs, e.2.opened = true → s.seq e.1 = e.2 → s.pageIn e.2 c = true → (t.seq e.1).broken = true := by
  obtain ⟨t, ht, hr⟩ := live_ran hrun fun s => s.fenceScan c
  rw [fenceScan_eq hscan] at hr
  have hbroken (e : Nat × Seq) (he : e ∈ s.seqs) (ho : e.2.opened = true) (hs : s.seq e.1 = e.2) (hp : s.pageIn e.2 c = true) :
      ((forAll (s.scanHits c) (fun e s => s.breakSeq e.1 e.2.hearth) s).seq e.1).broken = true := by
    refine broken_seqs _ s e.1 ?_
    cases hb : e.2.broken
    · exact .inr ⟨e, List.mem_filter.mpr ⟨he, by simp [ho, hb, hp]⟩, rfl⟩
    · exact .inl (hs ▸ hb)
  generalize forAll (s.scanHits c) (fun e s => s.breakSeq e.1 e.2.hearth) s = u at *
  obtain ⟨hbits, hseqs, hflag⟩ := scanEnd_spec u c
  have hunits : t.units.scan = clearBit u.units.scan c := (congrArg Units.scan hr.units).trans hbits
  refine ⟨t, ht, ?_, fun hz => (hr.flag ..).trans (hflag (hunits ▸ hz)), fun e he ho hs hp => ?_⟩
  · rw [hunits, testBit_clearBit]
    simp
  · have hseq : t.seq e.1 = u.seq e.1 := (hr.seq e.1).trans (congrArg (mget _ e.1) hseqs)
    exact (congrArg Seq.broken hseq).trans (hbroken e he ho hs hp)

/-- Settles O49. -/
theorem unitFailures : Obligations.UnitFailures := by
  unfold Obligations.UnitFailures
  refine ⟨fun s k p hrun hn => fabricParity_spec k p hrun hn, fun s k u hrun hn => ?_, fun s k p hrun hn => mixerParity_spec k p hrun hn,
    fun s c hrun => ⟨fun hn => fenCorrected_spec c hrun hn, fun i hi => ?_, fun a who hwf hn => fenUncorrectableBeat_spec a hrun hwf hn,
      fun hscan => fenceScan_spec c hrun hscan⟩⟩
  · obtain ⟨t, ht, hcount, hbit, hhearths, hchans, hunits, hbyte, hwork⟩ := engineParity_spec k u hrun hn
    unfold engineFld engineNo at hbit
    refine ⟨t, ht, hcount, fun h => ?_, fun h h' => ?_, fun h => ?_, hhearths, hchans, hunits, hbyte, hwork⟩
    · simpa [h] using hbit
    · simpa [Nat.not_lt.mpr h, h'] using hbit
    · simpa [Nat.not_lt.mpr h, Nat.not_lt.mpr (Nat.le_trans (by decide : 4 ≤ 6) h)] using hbit
  · simp only [List.mem_cons, List.not_mem_nil, or_false] at hi
    obtain ⟨t, ht, hr⟩ := live_ran hrun fun s => s.fence c
    rcases hi with rfl | rfl
    · exact ⟨t, ht, fenced_spec c hr⟩
    · exact ⟨t, ht, fenced_spec c hr⟩

end Sys2Proof.Machine
end

section
/-! PROOF. Handle rings: a transfer whose access is not checked again writes its handle into a fenced channel, which takes no byte (R338 to
R344, R390). -/

namespace Sys2Proof.Machine

/-- An open transfer of no hearth: its accesses count as checked at its issue. -/
def passedXfer : Xfer := { ctx := { hearth := passed, cq := false, faultCq := false }, ptr := none }

/-- It waits with its handle, which goes to address 1; entry 0 of its ring lies in a fenced channel. -/
def fencedRing : State :=
  ((({ power := .run, clk := 1 } : State).setFld .RING_CFG_MODE 0 1).setFld .FEN_LIVE 0 0).setChan 0
    { opn := { xfer := some passedXfer, desc := { dst := 1 }, ringWait := true } }

/-- The address 0 where the entry starts. -/
theorem fencedRing_entry : localOf (fencedRing.ringEntry (0 : Fin 64) (fencedRing.fld .RING_OWN_IDX (0 : Fin 64))) = 0 := by decide +kernel

/-- The transfer completes, and byte 0 of its entry stays 0. -/
theorem fencedRing_lost : ∀ t, exec (.ringOutHandle 0 false) fencedRing = .next t → t.byte 0 = 0 := by
  have h : (match exec (.ringOutHandle 0 false) fencedRing with | .next t => decide (t.byte 0 = 0) | _ => false) = true := by decide +kernel
  intro t ht
  rw [ht] at h
  exact of_decide_eq_true h

/-- Refutes O58: the handle's first byte is 1, but the fenced channel does not store it. -/
theorem not_handleRings : ¬ Obligations.HandleRings := by
  unfold Obligations.HandleRings
  intro h
  obtain ⟨t, ht, -, -, -, hbytes, -⟩ := (h.1 fencedRing 0 passedXfer rfl rfl rfl rfl (by decide +kernel) (by decide) rfl rfl (by decide +kernel)
    rfl rfl rfl (by decide +kernel) (by decide +kernel)).1 (by decide +kernel) rfl (by decide +kernel) (by rw [fencedRing_entry]; decide)
    (by decide +kernel)
  have hfirst := congrArg List.head? hbytes
  rw [fencedRing_entry] at hfirst
  have hbyte : some (t.byte 0) = some 1 := hfirst
  rw [fencedRing_lost t ht] at hbyte
  exact absurd hbyte (by decide)

end Sys2Proof.Machine
end

section
/-! PROOF. Creation of embers: what counts against the quota is the list of embers, which may name one of them twice (R254 to R256). -/

namespace Sys2Proof.Machine

/-- `emb.spawn` of A1 at the start of the staging memory. -/
def spawnWord : Word128 := BitVec.ofNat 128 (0x07 + 1 * 2 ^ 10 + 0x1000000000 * 2 ^ 32)

/-- An ember that stands before it. -/
def spawner : Ember := { live := true, pc := 0x1000010000, win := [spawnWord] }

/-- Window 0 of hearth 0 lets it run in the staging memory, its quota is two embers, and the list of embers names ember 5 twice. -/
def twins : State :=
  forAll [(Fld.WIN_BASE_LO_V, 1), (.WIN_BASE_LO_X, 1), (.WIN_BASE_HI_BASE_47_32, 0x10), (.WIN_SIZE, 0x20), (.HEARTH_CFG, 2)]
    (fun e s => s.setFld e.1 0 e.2) { power := .run, embers := [(5, spawner), (5, spawner)] }

/-- The issue of the instruction makes the list name it once, so that a context is found: A1 takes the tag of the new ember. -/
theorem twins_spawn : ∀ t, exec (.embSpawn 5) twins = .next t → (t.ember 5).a 1 = 256 := by
  have h : (match exec (.embSpawn 5) twins with | .next t => decide ((t.ember 5).a 1 = 256) | _ => false) = true := by decide +kernel
  intro t ht
  rw [ht] at h
  exact of_decide_eq_true h

theorem twins_ready : twins.ready (5 : Fin 2048) = ((twins.ready 5).1, some (spawner, some spawnWord)) :=
  Prod.ext rfl (by decide +kernel)

/-- Refutes O53: two live embers are the whole quota, so that A1 would be all ones. -/
theorem not_emberLives : ¬ Obligations.EmberLives := by
  unfold Obligations.EmberLives
  intro h
  obtain ⟨t, ht, -, -, ha⟩ := ((h.2.1 twins (twins.ready 5).1 5 spawner spawnWord rfl twins_ready (by decide +kernel)).1 (by decide +kernel)
    (by decide +kernel) (by decide +kernel)).2 (by decide +kernel)
  have hones : (t.ember 5).a 1 = 2 ^ 64 - 1 := ha 1
  rw [twins_spawn t ht] at hones
  exact absurd hones (by decide)

end Sys2Proof.Machine
end

section
/-! PROOF. Stream instructions: an ember of no hearth writes its handle into a fenced channel, which takes no byte (R340, R390). -/

namespace Sys2Proof.Machine

/-- `ring.put` of A0 and A1 on channel 0. -/
def putWord : Word128 := BitVec.ofNat 128 0x71

/-- An ember stands before it; its hearth is `passed`, for which no access is checked. -/
def putter : Ember := { live := true, hearth := passed, pc := 0x1000010000, win := [putWord], regs := [(1, 1)] }

/-- Channel 0 belongs to that hearth and has a ring for its embers, whose entry 0 lies in a fenced channel. -/
def fencedPut : State :=
  forAll [(Fld.CHAN_MASK_LO, passed, 1), (.RING_CFG_MODE, 0, 2), (.FEN_LIVE, 0, 0)] (fun e s => s.setFld e.1 e.2.1 e.2.2)
    { power := .run, embers := [(5, putter)] }

/-- The instruction ends, and byte 8 of the entry, the first of A1, stays 0. -/
theorem fencedPut_lost : ∀ t, exec (.ringPut 5) fencedPut = .next t → t.byte 8 = 0 := by
  have h : (match exec (.ringPut 5) fencedPut with | .next t => decide (t.byte 8 = 0) | _ => false) = true := by decide +kernel
  intro t ht
  rw [ht] at h
  exact of_decide_eq_true h

theorem fencedPut_ready : fencedPut.ready (5 : Fin 2048) = ((fencedPut.ready 5).1, some (putter, some putWord)) :=
  Prod.ext rfl (by decide +kernel)

/-- The address 0 where the entry starts. -/
theorem fencedPut_entry : localOf ((fencedPut.ready 5).1.ringEntry (wCh putWord) ((fencedPut.ready 5).1.fld .RING_OWN_IDX (wCh putWord))) = 0 := by
  decide +kernel

/-- Refutes O54: byte 8 of the entry would be the first byte of A1. -/
theorem not_emberStreamInstructions : ¬ Obligations.EmberStreamInstructions := by
  unfold Obligations.EmberStreamInstructions
  intro h
  obtain ⟨-, hput, -⟩ := h.1 fencedPut (fencedPut.ready 5).1 5 putter putWord rfl fencedPut_ready (by decide +kernel) (by decide +kernel)
  obtain ⟨t, ht, -, -, -, hbytes, -⟩ := (hput (by decide +kernel) (by decide +kernel) (by decide +kernel)).2.2 (by decide +kernel) (by decide +kernel)
    (by decide +kernel) (by decide +kernel) (by rw [fencedPut_entry]; decide) (by decide +kernel) (by decide +kernel)
  rw [fencedPut_entry] at hbytes
  have hbyte : (t.bytes 0 16)[8]? = some (t.byte 8) := rfl
  rw [hbytes, fencedPut_lost t ht] at hbyte
  exact absurd hbyte (by decide +kernel)

end Sys2Proof.Machine
end

section
/-! PROOF. KV operations: a hearth for which no access is checked puts its page table into a fenced channel, which takes no byte (R365,
R390). -/

namespace Sys2Proof.Machine

/-- `kv.open` with the block at place 16 of the staging memory. -/
def openWord : Word128 :=
  BitVec.ofNat 128 (0x81 + 1 * 2 ^ 10 + 0x21 * 2 ^ 16 + 0x21 * 2 ^ 24 + (16 + 2 ^ 22) * 2 ^ 64)

/-- An ember of the hearth `passed` stands before it. -/
def opener : Ember := { live := true, hearth := passed, pc := 0x1000010000, win := [openWord] }

/-- The block: one sequence, listed at the start of the staging memory as number 0, with rows of 64 KiB and a page table of one entry at
address 0. -/
def openBlock : List Byte := [7, 1, 0, 0, 1, 0, 0, 0] ++ leBytes 6 0x1000000000 ++ [0, 16] ++ List.replicate 12 0 ++ [1]

/-- Address 0 lies in a fenced channel. -/
def fencedTable : State :=
  ((({ power := .run, embers := [(5, opener)] } : State).setFld .KV_SEQ_QUOTA passed 1).setFld .FEN_LIVE 0 0).setBytes 0x1000000400 openBlock

theorem ok_of_isOk {α ε : Type} {c : Except ε α} (h : c.isOk = true) : ∃ a, c = .ok a := by
  cases c with
  | error e => exact absurd h nofun
  | ok a => exact ⟨a, rfl⟩

/-- The operation passes its checks. -/
theorem fencedTable_opens : ∃ p j o q, fencedTable.takeJob (.ember (5 : Fin 2048)) 0x81 = .job p j ∧ p.readKvOp j = .ok o ∧ kvMatch j.word o = .ok () ∧
    p.blockFor j p.flightNext = .ok q ∧
    needAll (upTo o.ids.length) (fun k => p.access j.hearth (p.global (o.k.pt + k * o.k.maxPages * 8)) (o.k.maxPages * 8) .w) = .ok () ∧
    o.ids = [0] ∧ o.k.maxPages = 1 := by
  have h : (match fencedTable.takeJob (.ember (5 : Fin 2048)) 0x81 with
    | .job p j => match p.readKvOp j with
      | .ok o => (kvMatch j.word o).isOk && (p.blockFor j p.flightNext).isOk &&
          (needAll (upTo o.ids.length) fun k => p.access j.hearth (p.global (o.k.pt + k * o.k.maxPages * 8)) (o.k.maxPages * 8) .w).isOk &&
          decide (o.ids = [0] ∧ o.k.maxPages = 1)
      | .error _ => false
    | _ => false) = true := by decide +kernel
  split at h
  · next p j hj =>
    split at h
    · next o ho =>
      simp only [Bool.and_eq_true, decide_eq_true_eq] at h
      obtain ⟨⟨⟨hmatch, hblock⟩, haccess⟩, hids, hpages⟩ := h
      obtain ⟨q, hq⟩ := ok_of_isOk hblock
      exact ⟨p, j, o, q, hj, ho, (ok_of_isOk hmatch).choose_spec, hq, (ok_of_isOk haccess).choose_spec, hids, hpages⟩
    · exact absurd h nofun
  · exact absurd h nofun

/-- Sequence 0 is open after it, and entry 0 of its table holds frame 0. -/
theorem fencedTable_lost : ∀ t, exec (.kvOpen (.ember 5)) fencedTable = .next t → (t.ptEntry (t.seq 0) 0).frame = 0 := by
  have h : (match exec (.kvOpen (.ember 5)) fencedTable with | .next t => decide ((t.ptEntry (t.seq 0) 0).frame = 0) | _ => false) = true := by
    decide +kernel
  intro t ht
  rw [ht] at h
  exact of_decide_eq_true h

/-- Refutes O59: the entry would hold no page. -/
theorem not_kvOperations : ¬ Obligations.KvOperations := by
  unfold Obligations.KvOperations
  intro h
  obtain ⟨p, j, o, q, hj, ho, hm, hb, ha, hids, hpages⟩ := fencedTable_opens
  obtain ⟨t, ht, hseqs, -⟩ := h.1.1 fencedTable p q (.ember 5) j o rfl hj ho hm hb ha
  obtain ⟨-, hempty⟩ := hseqs 0 (by rw [hids]; decide)
  have hframe := hempty 0 (by rw [hpages]; decide)
  rw [hids] at hframe
  have hnone : (t.ptEntry (t.seq 0) 0).frame = noPage := hframe
  rw [fencedTable_lost t ht] at hnone
  exact absurd hnone (by decide)

end Sys2Proof.Machine
end

section
/-! PROOF. Planned releases, replays and deliveries (R29, R38, R41 to R43, R53, R257, R429). -/

namespace Sys2Proof.Machine

/-! ### Checks of an access go by registers and plans alone -/

section
variable {s t : State} (h : ∀ f ∈ accessFlds, ∀ i, t.fld f i = s.fld f i) (hp : t.plans = s.plans)
include h hp

theorem access_congr (q ga n : Nat) (k : AKind) : t.access q ga n k = s.access q ga n k := by
  unfold State.access
  rw [hearthFault_congr h hp]

theorem pcCheck_congr (q pc : Nat) : t.pcCheck q pc = s.pcCheck q pc := by
  unfold State.pcCheck
  rw [access_congr h hp, global_congr h]

end

/-! ### Releases -/

/-- The item goes, once its slot has come. -/
def State.letGo (s : State) (p slot idx : Nat) (item : RelItem) : State :=
  let t0 := s.clk - (s.cyc - 64 * slot)
  match item with
  | .instr w us c =>
    let r : Released :=
      { id := s.relNext, plan := p, index := idx, word := w, units := us.map (·.val), contract := if c = 0 then 0 else t0 + c }
    let q : State := { s with relNext := s.relNext + 1, released := s.released ++ [r] }
    if assigned (wordOpc w) then q else q.refuseItem s.relNext
  | .dma ch ptr c =>
    let x : Xfer := { ctx := s.itemCtx p idx (64 * slot) c, ptr := some ptr.toNat, contract := if c = 0 then 0 else t0 + c }
    (s.setChan ch { s.chan ch with pwait := (s.chan ch).pwait ++ [x] }).startPlanned ch
  | .ember pipe k pc c => s.releaseEmber (s.itemCtx p idx (64 * slot) c) (pipe * 256 + 224 + k) pc.toNat (if c = 0 then 0 else t0 + c)

theorem release_eq {s : State} {p tick slot : Nat} (hst : s.planSt p = plRunning) (hret : (s.plan p).retiring = false)
    (htick : (s.plan p).tick = tick) (hb : s.flag .TICK_STAT_BANKED = false) (hcyc : s.cyc < 64 * slot + 64) (hslot : slot < s.tickLen / 64)
    (idx : Nat) (item : RelItem) : s.release p tick slot idx item = (s.toCyc (64 * slot)).letGo p slot idx item := by
  unfold State.release
  refine if_neg ?_
  simp [hst, hret, htick, hb, hcyc, hslot]

/-- The slot's first cycle, or the current one, lies in the tick. -/
theorem toCyc_slot {s : State} {slot : Nat} (hcyc : s.cyc < 64 * slot + 64) (hslot : slot < s.tickLen / 64) :
    (s.toCyc (64 * slot)).cyc = max s.cyc (64 * slot) := by
  show min (s.cyc + (64 * slot - s.cyc)) (s.tickLen - 1) = _
  omega

/-- Only the clock differs. -/
structure SameButClock (s u : State) : Prop where
  reg : u.reg = s.reg
  mem : u.mem = s.mem
  embers : u.embers = s.embers
  chans : u.chans = s.chans
  plans : u.plans = s.plans
  released : u.released = s.released

theorem toCyc_clock (s : State) (c : Nat) : SameButClock s (s.toCyc c) := ⟨rfl, rfl, rfl, rfl, rfl, rfl⟩

theorem startPlanned_busy {s : State} {c : Nat} (h : (s.chan c).pln.xfer.isSome = true) : s.startPlanned c = s := by
  unfold State.startPlanned
  dsimp only
  split
  · rfl
  · exact if_pos h

theorem letGo_instr {s : State} {p slot idx : Nat} {w : Word128} (h : assigned (wordOpc w) = true) (us : List (Fin 32)) (d : Nat) :
    s.letGo p slot idx (.instr w us d) = { s with
      relNext := s.relNext + 1
      released := s.released ++ [{ id := s.relNext, plan := p, index := idx, word := w, units := us.map (·.val)
                                   contract := if d = 0 then 0 else s.clk - (s.cyc - 64 * slot) + d }] } := if_pos h

theorem letGo_dma {s : State} {p slot idx : Nat} {c : Fin 64} (h : (s.chan c).pln.xfer.isSome = true) (ptr : BitVec 30) (d : Nat) :
    s.letGo p slot idx (.dma c ptr d) = s.setChan c
      { s.chan c with
        pwait := (s.chan c).pwait ++ [{ ctx := s.itemCtx p idx (64 * slot) d, ptr := some ptr.toNat
                                        contract := if d = 0 then 0 else s.clk - (s.cyc - 64 * slot) + d }] } := by
  refine startPlanned_busy ?_
  rw [setChan_chan_same]
  exact h

theorem releaseEmber_free {s : State} {x : Ctx} {e pc : Nat} {u : Unit} (hl : (s.ember e).live = false) (ho : (s.ember e).offBus = true)
    (hpc : s.pcCheck x.hearth pc = .ok u) (contract : Nat) :
    s.releaseEmber x e pc contract = s.setEmber e
      { live := true, planned := true, plan := x.plan, hearth := x.hearth, lean := true, pc := pc, incarn := (s.ember e).incarn, next := s.clk,
        contract := contract } := by
  unfold State.releaseEmber
  dsimp only
  rw [if_neg (by simp [hl, ho]), hpc]

/-- R53: nothing is released in a banked tick. -/
theorem release_banked {s : State} (hb : s.flag .TICK_STAT_BANKED = true) (p tick slot idx : Nat) (item : RelItem) :
    s.release p tick slot idx item = s := by
  unfold State.release
  exact if_pos (by simp [hb])

/-! ### Replays -/

theorem resendBlock_spec (s : State) (n : Nat) (x : TxBlock) :
    Reported [.REPLAY_COUNT] s (s.bump .REPLAY_COUNT n) ∧ (s.resendBlock n x).reg = (s.bump .REPLAY_COUNT n).reg ∧
      (s.resendBlock n x).mem = s.mem ∧ (s.resendBlock n x).plans = s.plans ∧
      ∀ y ∈ ((s.resendBlock n x).link n).unacked, y.seq = x.seq → y.naked = false := by
  have hrep := bump_reported s (List.mem_singleton_self Fld.REPLAY_COUNT) n 1
  refine ⟨hrep, rfl, bump_mem s .REPLAY_COUNT n 1, (congrArg State.plans hrep.rest :), fun y hy hs => ?_⟩
  unfold State.resendBlock at hy
  rw [setLink_link_same] at hy
  obtain ⟨z, -, rfl⟩ := List.mem_map.mp hy
  split at hs
  · next h => rw [if_pos h]
  · next h => exact absurd hs h

/-- The replay of a block that waits goes in a slot late enough. -/
theorem replay_eq {s : State} {n seq : Nat} {x : TxBlock} {e start : Nat}
    (hx : (s.link n).unacked.find? (fun y => y.seq = seq && y.naked) = some x) (hst : isRetryStart start = true)
    (hlate : x.slotEnd + 2 * s.fld .LINK_LAT n ≤ start) :
    s.replay n seq e start = if start ≤ e + 2048 then s.resendBlock n x
      else match (s.resendBlock n x).blockPlan x with
        | none => s.resendBlock n x
        | some p => (s.resendBlock n x).on ((s.resendBlock n x).planSt p = plRunning) fun s => s.planMiss p 0x04 := by
  unfold State.replay
  rw [hx]
  dsimp only
  rw [if_neg (by simp [hst, hlate])]
  have hiff : start + s.fld .LINK_LAT n ≤ e + s.fld .LINK_LAT n + 2048 ↔ start ≤ e + 2048 := by omega
  exact if_congr hiff rfl rfl

theorem replay_early {s : State} {n seq : Nat} {x : TxBlock} {start : Nat}
    (hx : (s.link n).unacked.find? (fun y => y.seq = seq && y.naked) = some x)
    (h : isRetryStart start = false ∨ start < x.slotEnd + 2 * s.fld .LINK_LAT n) (e : Nat) : s.replay n seq e start = s := by
  unfold State.replay
  rw [hx]
  refine if_pos ?_
  rcases h with h | h <;> simp [h]

theorem blockPlan_congr {s t : State} (hst : ∀ p, t.planSt p = s.planSt p) (hp : t.plans = s.plans) (x : TxBlock) :
    t.blockPlan x = s.blockPlan x := by
  unfold State.blockPlan State.plansIn State.plan
  simp only [hst, hp]

/-- The block's number is the one that was asked for. -/
theorem nakedBlock_seq {l : List TxBlock} {seq : Nat} {x : TxBlock} (hx : l.find? (fun y => y.seq = seq && y.naked) = some x) : x.seq = seq := by
  have h := List.find?_some hx
  simp only [Bool.and_eq_true, decide_eq_true_eq] at h
  exact h.1

theorem missed_cause (s : State) (p cause : Nat) :
    (s.missed p cause).fld .PLAN_STATE_CAUSE p = cause % 2 ^ Fld.width .PLAN_STATE_CAUSE := by
  refine (setFld_fld_ne _ (by decide) 0 p 1).trans ((bump_fldsBut (fs := [.MISS_COUNT]) _ (by decide) 0 1 _ p (by decide)).trans ?_)
  exact setFld_fld_same ..

/-! ### Deliveries -/

theorem localWrite_clk {s : State} {a : Nat} {bs : List Byte} (hm : regionOf a ≠ some .mirror) (hf : s.fenced a bs.length = false) :
    (s.localWrite a bs).clk = s.clk := by
  have hw : s.localWrite a bs = ((s.keepRows a bs.length).store a bs).tamper a bs.length := if_neg hm
  have hkr : (s.keepRows a bs.length).reg = s.reg ∧ (s.keepRows a bs.length).clk = s.clk := by
    unfold State.keepRows
    split <;> exact ⟨rfl, rfl⟩
  rw [hw]
  generalize s.keepRows a bs.length = u at *
  have hfen : u.fenced a bs.length = false := (fenced_congr (fun f _ i => congrArg (mget _ _) hkr.1) a _).trans hf
  exact (congrArg State.clk (store_reported hfen).rest :).trans hkr.2

/-- A write that its checks let through takes no cycle where there is room for it. -/
theorem performWrite_clk {s : State} {n : Nat} {f : Frame} (hf : s.writeFault n f = 0) (hm : regionOf (reqAddr f) ≠ some .mirror)
    (hfree : s.arrivalFree n (reqAddr f) (reqLen f) true (framePlanned f) = true) (hlen : f.data.length = reqLen f) :
    (s.performWrite n f).clk = s.clk := by
  have hb := arrive_booked hfree
  have hw : s.performWrite n f = (((s.arrive n f true).localWrite (reqAddr f) f.data).on (!frameLocal f)
      fun s => s.countIncoming (frameSrc f) (reqAddr f) (reqLen f)).reply n f 0x18 (reqId f) := by
    unfold State.performWrite
    exact if_neg (by simp [hf])
  rw [hw]
  have hclk : (s.arrive n f true).clk = s.clk := by rw [hb]
  generalize s.arrive n f true = v at *
  have hfen : v.fenced (reqAddr f) f.data.length = false := by
    rw [hlen]
    exact (fenced_congr (fun g _ i => hb.fld g i) _ _).trans (writeFault_unfenced hf)
  have hwrite := (localWrite_clk hm hfen).trans hclk
  generalize v.localWrite (reqAddr f) f.data = w at *
  have hon : (w.on (!frameLocal f) fun s => s.countIncoming (frameSrc f) (reqAddr f) (reqLen f)).clk = w.clk := by
    unfold State.on
    split <;> rfl
  generalize (w.on (!frameLocal f) fun s => s.countIncoming (frameSrc f) (reqAddr f) (reqLen f)) = x at *
  obtain ⟨k, -, heq⟩ := reply_link x n f 0x18 (reqId f) [] []
  rw [heq]
  exact hon.trans hwrite

/-- R42: a planned write that has arrived becomes visible at cycle D. -/
theorem deliverPlanned_spec {s : State} {n : Nat} {f : Frame} {e : Nat} (hty : frameIs 0x10 f = true) (hheld : f ∈ (s.link n).held)
    (hw : s.writeFault n f = 0) (hm : regionOf (reqAddr f) ≠ some .mirror) (hclk : s.clk ≤ e) (hstill : s.astir = false)
    (hfree : (s.advanceTo (e + s.fld .LINK_LAT n + 2048)).arrivalFree n (reqAddr f) (reqLen f) true (framePlanned f) = true) :
    (s.deliverPlanned n f e).clk = e + s.fld .LINK_LAT n + 2048 ∧ Stored s (s.deliverPlanned n f e) (reqAddr f) f.data := by
  have hle : s.clk ≤ e + s.fld .LINK_LAT n + 2048 := by omega
  have hto : s.toClk (e + s.fld .LINK_LAT n + 2048) = s.advanceTo (e + s.fld .LINK_LAT n + 2048) := by
    unfold State.toClk
    by_cases h : e + s.fld .LINK_LAT n + 2048 ≤ s.clk
    · have hlt : ¬ (e + s.fld .LINK_LAT n + 2048 ≤ s.clk) := by omega
      exact absurd h hlt
    · rw [if_neg h, hstill, if_neg (by decide)]
  have hadv : (s.advanceTo (e + s.fld .LINK_LAT n + 2048)).clk = e + s.fld .LINK_LAT n + 2048 := by
    show s.clk + (e + s.fld .LINK_LAT n + 2048 - s.clk) = _
    omega
  have hmem : (s.advanceTo (e + s.fld .LINK_LAT n + 2048)).mem = s.mem := rfl
  have hwf : (s.advanceTo (e + s.fld .LINK_LAT n + 2048)).writeFault n f = s.writeFault n f := rfl
  have hd : s.deliverPlanned n f e = ((s.advanceTo (e + s.fld .LINK_LAT n + 2048)).setLink n
      { (s.advanceTo (e + s.fld .LINK_LAT n + 2048)).link n with
        held := ((s.advanceTo (e + s.fld .LINK_LAT n + 2048)).link n).held.erase f }).performWrite n f := by
    unfold State.deliverPlanned
    rw [if_neg (by simpa using hheld), hto]
    exact if_pos (frameType_of_is hty)
  rw [hd]
  generalize s.advanceTo (e + s.fld .LINK_LAT n + 2048) = u at *
  have hset (l : Link) : (u.setLink n l).writeFault n f = u.writeFault n f ∧ (u.setLink n l).clk = u.clk ∧ (u.setLink n l).mem = u.mem ∧
      (u.setLink n l).arrivalFree n (reqAddr f) (reqLen f) true (framePlanned f) =
        u.arrivalFree n (reqAddr f) (reqLen f) true (framePlanned f) := ⟨rfl, rfl, rfl, rfl⟩
  obtain ⟨h1, h2, h3, h4⟩ := hset { u.link n with held := (u.link n).held.erase f }
  generalize u.setLink n { u.link n with held := (u.link n).held.erase f } = v at *
  have hlen := write_length hty
  have hv : v.writeFault n f = 0 := h1.trans (hwf.trans hw)
  obtain ⟨x, k, g, hst, -, heq, -⟩ := performWrite_done hv hm (h4.trans hfree) hlen
  refine ⟨(performWrite_clk hv hm (h4.trans hfree) hlen).trans (h2.trans hadv), ?_⟩
  rw [heq]
  exact .trans_left (fun y => congrArg (mget 0 y) (h3.trans hmem)) fun y => (rfl : (x.sendLink k g).byte y = x.byte y).trans (hst y)

/-- Settles O35. -/
theorem plannedReleaseAndTransfers : Obligations.PlannedReleaseAndTransfers := by
  refine ⟨⟨fun s p tick slot idx hrun hst hret htick hb hcyc hslot => ?_, fun s p tick slot idx item hrun hb =>
    congrArg Host.Outcome.next (running_self hrun (release_banked hb ..))⟩, fun s n seq x e start hrun hx => ⟨fun hs hlate hle hn => ?_, fun h =>
      congrArg Host.Outcome.next (running_self hrun (replay_early hx h e))⟩, fun s n seq x e start p hrun hx hs hlate hle hp hpl => ?_,
    fun s n f e hrun hf hheld hw hm hclk hstill hfree => ?_⟩
  · have hgo (item : RelItem) := release_eq hst hret htick hb hcyc hslot idx item
    have hc := toCyc_slot hcyc hslot
    have hu := toCyc_clock s (64 * slot)
    generalize s.toCyc (64 * slot) = u at *
    have hfld (f : Fld) (i : Nat) : u.fld f i = s.fld f i := congrArg (mget _ _) hu.reg
    have hbyte (a : Nat) : u.byte a = s.byte a := congrArg (mget 0 a) hu.mem
    refine ⟨fun w us d ha => ?_, fun c ptr d hbusy => ?_, fun pipe k pc d v hl ho hpc => ?_⟩
    · obtain ⟨t, ht, hr⟩ := live_ran hrun fun s => s.release p tick slot idx (.instr w us d)
      rw [hgo, letGo_instr ha] at hr
      have hcyc' : t.cyc = u.cyc := (congrArg State.cyc hr.rest :)
      refine ⟨t, _, ht, hcyc'.trans hc, (congrArg State.released hr.rest :).trans (congrArg (· ++ _) hu.released), rfl, rfl, rfl, rfl, ?_,
        fun f i => (hr.fld f i).trans (hfld f i), fun a => (hr.byte a).trans (hbyte a)⟩
      rw [hr.clk, hcyc']
    · obtain ⟨t, ht, hr⟩ := live_ran hrun fun s => s.release p tick slot idx (.dma c ptr d)
      have hch : u.chan c = s.chan c := congrArg (mget _ _) hu.chans
      rw [hgo, letGo_dma ((congrArg (fun x : Chan => x.pln.xfer.isSome) hch).trans hbusy)] at hr
      have hchan := (hr.chan c).trans (setChan_chan_same ..)
      rw [hch] at hchan
      exact ⟨t, _, ht, (congrArg State.cyc hr.rest :).trans hc, congrArg Chan.pwait hchan, rfl, rfl, fun f i => (hr.fld f i).trans (hfld f i),
        fun a => (hr.byte a).trans (hbyte a)⟩
    · obtain ⟨t, ht, hr⟩ := live_ran hrun fun s => s.release p tick slot idx (.ember pipe k pc d)
      have hem (e : Nat) : u.ember e = s.ember e := congrArg (mget _ e) hu.embers
      have hh : u.planHearth p = s.planHearth p := hfld ..
      have hpc' : u.pcCheck (u.itemCtx p idx (64 * slot) d).hearth pc.toNat = .ok v :=
        (pcCheck_congr (fun f _ i => hfld f i) hu.plans _ _).trans ((congrArg (fun q => s.pcCheck q pc.toNat) hh).trans hpc)
      have hfree : u.letGo p slot idx (.ember pipe k pc d) = _ :=
        releaseEmber_free ((congrArg Ember.live (hem _)).trans hl) ((congrArg Ember.offBus (hem _)).trans ho) hpc'
          (if d = 0 then 0 else u.clk - (u.cyc - 64 * slot) + d)
      rw [hgo, hfree] at hr
      have hember := (hr.ember (pipe * 256 + 224 + k)).trans (setEmber_ember_same ..)
      exact ⟨t, ht, (congrArg State.cyc hr.rest :).trans hc, congrArg Ember.live hember, congrArg Ember.planned hember, congrArg Ember.plan hember,
        (congrArg Ember.hearth hember).trans hh, congrArg Ember.pc hember, congrArg Ember.lean hember, fun f i => (hr.fld f i).trans (hfld f i),
        fun a => (hr.byte a).trans (hbyte a)⟩
  · obtain ⟨t, ht, hr⟩ := live_ran hrun fun s => s.replay n seq.toNat e start
    rw [replay_eq hx hs hlate, if_pos hle] at hr
    obtain ⟨hrep, hreg, hmem, hplans, hnaked⟩ := resendBlock_spec s n x
    refine ⟨t, ht, (hr.fld ..).trans ((congrArg (mget _ _) hreg).trans (bump_fld_self hn)), fun y hy hys => ?_, ?_, fun a => ?_⟩
    · rw [hr.link] at hy
      exact hnaked y hy (hys.trans (nakedBlock_seq hx).symm)
    · exact (congrArg State.plans hr.rest :).trans hplans
    · exact (hr.byte a).trans (congrArg (mget 0 a) hmem)
  · obtain ⟨t, ht, hr⟩ := live_ran hrun fun s => s.replay n seq.toNat e start
    obtain ⟨hrep, hreg, hmem, hplans, -⟩ := resendBlock_spec s n x
    have hst (q : Nat) : (s.resendBlock n x).planSt q = s.planSt q := (congrArg (mget _ _) hreg).trans (hrep.fld (by decide) q)
    rw [replay_eq hx hs hlate, if_neg (by omega), blockPlan_congr hst hplans, hp] at hr
    generalize s.resendBlock n x = u at *
    have hr : Ran (u.on (u.planSt p = plRunning) fun s => s.planMiss p 0x04) t := hr
    rw [decide_eq_true ((hst p).trans hpl), State.on, if_pos rfl] at hr
    obtain ⟨hmiss, -⟩ := planMiss_spec u p 4
    exact ⟨t, ht, (hr.fld ..).trans (hmiss.why.trans (missed_cause u p 4)), by rw [hr.plan, hmiss.plan], (hr.flag ..).trans hmiss.alert⟩
  · obtain ⟨t, ht, hr⟩ := live_ran hrun fun s => s.deliverPlanned n f e
    obtain ⟨hc, hst⟩ := deliverPlanned_spec hf hheld hw hm hclk hstill hfree
    have hst' : Stored s t (reqAddr f) f.data := fun x => (hr.byte x).trans (hst x)
    exact ⟨t, (if_pos (Bool.and_eq_true_iff.mp hf).1).trans ht, hr.clk.trans hc, hst'.bytes, fun a ha => hst'.other ha⟩

end Sys2Proof.Machine
end

section
/-! PROOF. How a piece of work ends for whoever asked for it, and reshards: their start, their moves, their end and their cancelling
(R145, R146, R148, R153). -/

namespace Sys2Proof.Machine

/-! ### The end of a piece of work -/

/-- `t` differs from `s` at most in what reports change, in the embers, the links and the outstanding reads. -/
def Ended (s t : State) : Prop :=
  t = { s with reg := t.reg, mem := t.mem, hearths := t.hearths, msix := t.msix, free := t.free, latches := t.latches, embers := t.embers
               codeClk := t.codeClk, codeOld := t.codeOld, reads := t.reads, links := t.links }

section
variable {s t u : State}

theorem Ended.refl (s : State) : Ended s s := rfl

theorem Ended.trans (h : Ended s t) (k : Ended t u) : Ended s u := by
  unfold Ended at *
  rw [h] at k
  exact k

theorem Reported.ended {fs : List Fld} (h : Reported fs s t) : Ended s t := by
  have := h.rest
  unfold Ended
  rw [this]

theorem Ended.on {c : Bool} {f : State → State} (h : Ended s (f s)) : Ended s (s.on c f) := by
  cases c
  · exact .refl s
  · exact h

theorem setEmber_ended (s : State) (e : Nat) (m : Ember) : Ended s (s.setEmber e m) := rfl

theorem sendLink_ended (s : State) (n : Nat) (f : Frame) : Ended s (s.sendLink n f) := rfl

theorem complete_ended (s : State) (x : Ctx) (e : End) : Ended s (s.complete x e) := (complete_reported s x e).ended

theorem countFlaw_ended (s : State) (f : Flaw) : Ended s (s.countFlaw f) := (countSeal_reported s f.cause).ended

theorem tryFree_ended (s : State) (e : Nat) : Ended s (s.tryFree e) := by
  unfold State.tryFree
  dsimp only
  split
  · exact (setEmber_ended s e _).trans (.on (complete_ended ..))
  · exact .refl s

theorem emberFail_ended (s : State) (e : Nat) (m : Ember) (pc : Nat) (end_ : End) : Ended s (s.emberFail e m pc end_) := by
  unfold State.emberFail
  extract_lets x reeds s₁ s₂
  have h₁ : Ended s s₁ := (bump_reported s (List.mem_singleton_self Fld.EMB_FAULT_COUNT) 0 1).ended.trans (setEmber_ended ..)
  have h₂ : Ended s₁ s₂ := rfl
  exact ((h₁.trans h₂).trans (complete_ended ..)).trans (tryFree_ended ..)

theorem endEmber_ended (s : State) (x : Ctx) (e : End) : Ended s (s.endEmber x e) := by
  unfold State.endEmber
  dsimp only
  split
  · exact .refl s
  · split
    · exact emberFail_ended ..
    · exact (setEmber_ended s x.ember _).trans (complete_ended ..)

theorem endWork_ended (s : State) (x : Ctx) (e : End) : Ended s (s.endWork x e) := by
  unfold State.endWork
  split
  · exact endEmber_ended s x e
  · split
    · exact (sendLink_ended ..).trans (complete_ended ..)
    · exact complete_ended s x e

theorem Ended.reshards (h : Ended s t) : t.reshards = s.reshards := by rw [h]
theorem Ended.flights (h : Ended s t) : t.flights = s.flights := by rw [h]
theorem Ended.seqs (h : Ended s t) : t.seqs = s.seqs := by rw [h]

end

/-! ### Finding a reshard -/

theorem reshardOf_id {s : State} {id : Nat} {r : Reshard} (h : s.reshardOf id = some r) : r.id = id := by
  simpa using List.find?_some h

/-- A reshard is found by its id after a rewriting that keeps ids. -/
theorem find_reshard_map (l : List Reshard) (id : Nat) (f : Reshard → Reshard) (hf : ∀ r, (f r).id = r.id) :
    (l.map fun r => if r.id = id then f r else r).find? (·.id = id) = (l.find? (·.id = id)).map f := by
  induction l with
  | nil => rfl
  | cons r l ih =>
    by_cases h : r.id = id
    · simp [h, hf]
    · simp [h, ih]

theorem setReshard_reshardOf (s : State) (id : Nat) (f : Reshard → Reshard) (hf : ∀ r, (f r).id = r.id) :
    (s.setReshard id f).reshardOf id = (s.reshardOf id).map f := find_reshard_map s.reshards id f hf

/-- A reshard without moves sends nothing. -/
theorem send_empty {s : State} {id : Nat} {r : Reshard} (h : s.reshardOf id = some r) (hm : r.moves = []) : s.send id = s := by
  unfold State.send
  rw [h, Option.map_some, Option.getD_some, hm]
  rfl

theorem sendOut_empty {s : State} {id : Nat} {r : Reshard} (h : s.reshardOf id = some r) (hm : r.moves = []) (n : Nat) : s.sendOut id n = s := by
  cases n with
  | zero => rfl
  | succ n =>
    have hw : s.moveWaits id = false := by
      unfold State.moveWaits
      rw [h]
      dsimp only
      rw [hm]
    show (if (s.send id).moveWaits id then (s.send id).hwCycle.sendOut id n else s.send id) = s
    rw [send_empty h hm, hw]
    rfl

/-! ### A reshard starts -/

/-- What the values that are not known here take of the free ones. -/
theorem movesTo_free (s : State) (src dst : Dist) (d : Nat) : (s.movesTo src dst d).1 = { s with free := (s.movesTo src dst d).1.free } := rfl

theorem movesTo_fold_free (src dst : Dist) (ds : List Nat) (r : State × List RMove) :
    ∃ n, (ds.foldl (fun (r : State × List RMove) d => let z := r.1.movesTo src dst d; (z.1, r.2 ++ z.2)) r).1 = { r.1 with free := n } := by
  induction ds generalizing r with
  | nil => exact ⟨r.1.free, rfl⟩
  | cons d ds ih =>
    obtain ⟨n, hn⟩ := ih ((r.1.movesTo src dst d).1, r.2 ++ (r.1.movesTo src dst d).2)
    exact ⟨n, hn.trans (by rw [movesTo_free])⟩

/-- The reshard of a job has the id of its operand block, and its planning uses free values only. -/
theorem planReshard_spec {s u : State} {j : Job} {o : ReshardOp} {r : Reshard} (h : s.planReshard j o = .ok (u, r)) :
    r.id = o.id ∧ ∃ n, u = { s with free := n } := by
  unfold State.planReshard at h
  dsimp only at h
  split at h
  · cases hms : s.readMoves j.hearth o.moveAddr o.nMoves with
    | error f =>
      rw [hms] at h
      cases h
    | ok ms =>
      rw [hms] at h
      cases h
      exact ⟨rfl, s.free, rfl⟩
  · generalize s.sendOrder _ = ds at h
    cases hacc : s.reshardAccess j.hearth o ds with
    | error f =>
      rw [hacc] at h
      cases h
    | ok x =>
      rw [hacc] at h
      cases h
      exact ⟨rfl, movesTo_fold_free o.src o.dst ds (s, [])⟩

/-- What counting early bytes keeps of the state and of the reshard that starts. -/
def Counted (s : State) (r : Reshard) (q : State × Reshard) : Prop :=
  q.1 = { s with landed := q.1.landed } ∧ q.2.id = r.id ∧ q.2.nodes = r.nodes ∧ q.2.expectIn = r.expectIn ∧ q.2.moves = r.moves

theorem counted_step {s : State} {r : Reshard} {q : State × Reshard} (h : Counted s r q) (l : List (Nat × Nat × Nat)) (k a n : Nat) :
    Counted s r ({ q.1 with landed := l }, q.2.credit k a n) := by
  obtain ⟨hs, hr⟩ := h
  refine ⟨?_, hr⟩
  show { q.1 with landed := l } = { s with landed := l }
  rw [hs]

theorem creditEarly_counted (s : State) (r : Reshard) : Counted s r (s.creditEarly r) :=
  List.foldlRecOn (motive := Counted s r) s.landed _ ⟨rfl, rfl, rfl, rfl, rfl⟩ fun _ h e _ => counted_step h _ e.1 e.2.1 e.2.2

theorem creditEarly_none {s : State} (h : s.landed = []) (r : Reshard) : (s.creditEarly r).2 = r := by
  unfold State.creditEarly
  rw [h]
  rfl

/-- An instruction that has issued blocks at most its ember. -/
theorem blockFor_spec {s q : State} {j : Job} {k : Nat} (h : s.blockFor j k = .ok q) : q = { s with embers := q.embers } := by
  unfold State.blockFor at h
  dsimp only at h
  split at h
  · cases h
    rfl
  · split at h
    · cases h
      rfl
    · split at h
      · cases h
      · rename_i u hpc
        cases h
        unfold State.block
        rw [hpc]
        rfl

/-- A check that is passed in a row of checks. -/
theorem chk_bind {α β : Type} {c : Chk α} {f : α → Chk β} {b : β} (h : (c >>= f) = .ok b) : ∃ a, c = .ok a ∧ f a = .ok b := by
  cases c with
  | error e => cases h
  | ok a => exact ⟨a, rfl, h⟩

theorem need_ok {ok : Bool} {f : Flaw} {u : Unit} (h : need ok f = .ok u) : ok = true := by
  cases ok
  · cases h
  · rfl

/-- An operand block whose checks pass names an id that no reshard in flight has. -/
theorem readReshard_fresh {s : State} {t p : Nat} {o : ReshardOp} (h : s.readReshard t p = .ok o) : ∀ r ∈ s.reshards, r.id ≠ o.id := by
  unfold State.readReshard at h
  obtain ⟨b, -, h⟩ := chk_bind h
  obtain ⟨-, -, h⟩ := chk_bind h
  obtain ⟨-, -, h⟩ := chk_bind h
  obtain ⟨-, -, h⟩ := chk_bind h
  obtain ⟨-, -, h⟩ := chk_bind h
  obtain ⟨src, -, h⟩ := chk_bind h
  obtain ⟨dst, -, h⟩ := chk_bind h
  obtain ⟨_, hneed, h⟩ := chk_bind h
  have hfree := (Bool.and_eq_true_iff.mp (need_ok hneed)).2
  cases h
  intro r hr hid
  have : (s.reshards.any fun r => decide (r.id = bnum b 4 2)) = true := List.any_eq_true.mpr ⟨r, hr, by simpa using hid⟩
  rw [this] at hfree
  cases hfree

theorem find_reshard_last {l : List Reshard} {r : Reshard} (h : ∀ q ∈ l, q.id ≠ r.id) : (l ++ [r]).find? (·.id = r.id) = some r := by
  rw [List.find?_append, List.find?_eq_none.mpr fun q hq => by simpa using h q hq]
  simp

/-- A reshard whose checks pass starts; one without moves sends nothing. -/
theorem startReshard_spec {p u q : State} {j : Job} {o : ReshardOp} {r : Reshard} (hw : p.reshardWord j = .ok ())
    (ho : p.readReshard j.hearth (wSrc j.word) = .ok o) (hm : reshardMatch j o = .ok ()) (hp : p.planReshard j o = .ok (u, r))
    (hl : p.reshards.length < 16) (hq : u.blockFor j u.flightNext = .ok q) (hr : r.moves = []) :
    (p.startReshard j).reshards = p.reshards ++ [(q.creditEarly r).2] ∧ (p.startReshard j).flightNext = p.flightNext + 1 ∧
      (p.startReshard j).mem = p.mem ∧ (p.startReshard j).reg = p.reg := by
  obtain ⟨hid, n, hu⟩ := planReshard_spec hp
  have hqu := blockFor_spec hq
  obtain ⟨hs, hcid, -, -, hcm⟩ := creditEarly_counted q r
  have hstart : p.startReshard j = State.send { (q.creditEarly r).1 with reshards := (q.creditEarly r).1.reshards ++ [(q.creditEarly r).2]
                                                                         flightNext := (q.creditEarly r).1.flightNext + 1 } r.id := by
    unfold State.startReshard
    rw [hw]
    dsimp only [bind, Except.bind]
    rw [ho]
    dsimp only
    rw [hm]
    dsimp only
    rw [hp]
    dsimp only
    rw [if_neg (by omega), hq]
  have hres : q.reshards = p.reshards := by
    rw [hqu, hu]
  have hfind : (q.reshards ++ [(q.creditEarly r).2]).find? (·.id = (q.creditEarly r).2.id) = some (q.creditEarly r).2 :=
    find_reshard_last fun x hx => by
      rw [hcid, hid]
      exact readReshard_fresh ho x (hres ▸ hx)
  have hres' : (q.creditEarly r).1.reshards = q.reshards := (congrArg State.reshards hs :)
  rw [hstart, send_empty (r := (q.creditEarly r).2) (by rw [State.reshardOf, hres', ← hcid]; exact hfind) (hcm.trans hr)]
  refine ⟨congrArg (· ++ [(q.creditEarly r).2]) (hres'.trans hres), congrArg (· + 1) ((congrArg State.flightNext hs :).trans ?_),
    (congrArg State.mem hs :).trans ?_, (congrArg State.reg hs :).trans ?_⟩
  all_goals rw [hqu, hu]

/-! ### A move of bytes at hand -/

theorem payShares_booked (s : State) (plan : Option Nat) (cost : List (Nat × Nat)) : Booked s (s.payShares plan cost).1 := by
  cases plan with
  | none => exact fenDraw_booked s none _
  | some p => exact fenDraw_booked s (some p) cost

/-- What is paid for a move changes the books of the shares and the move's own count. -/
theorem payMove_keeps (s : State) (r : Reshard) (m : RMove) :
    (∀ f i, (s.payMove r m).1.fld f i = s.fld f i) ∧ (∀ a, (s.payMove r m).1.byte a = s.byte a) ∧
      ∃ f : Reshard → Reshard, (s.payMove r m).1.reshardOf r.id = (s.reshardOf r.id).map f := by
  have hb := payShares_booked s (reshardRemote r).plan (m.owe.getD (s.moveCost m))
  have hres : (s.payShares (reshardRemote r).plan (m.owe.getD (s.moveCost m))).1.reshardOf r.id = s.reshardOf r.id := by
    rw [hb]
    rfl
  rw [← hres]
  exact ⟨hb.fld, hb.byte, _, setReshard_reshardOf _ r.id _ fun _ => rfl⟩

theorem onChip_congr {s t : State} (h : ∀ f ∈ accessFlds, ∀ i, t.fld f i = s.fld f i) (a : Nat) : t.onChip a = s.onChip a := by
  simp only [State.onChip, State.partnerOf, isOwn_congr h]

theorem localWrite_reshards {s : State} {a : Nat} {bs : List Byte} (hm : regionOf a ≠ some .mirror) (hf : s.fenced a bs.length = false) :
    (s.localWrite a bs).reshards = s.reshards := by
  have hk : (s.keepRows a bs.length).reshards = s.reshards ∧ (s.keepRows a bs.length).reg = s.reg := by
    unfold State.keepRows
    split <;> exact ⟨rfl, rfl⟩
  have hw : s.localWrite a bs = ((s.keepRows a bs.length).store a bs).tamper a bs.length := if_neg hm
  rw [hw]
  generalize s.keepRows a bs.length = u at *
  have hfen : u.fenced a bs.length = false := (fenced_congr (fun f _ i => congrArg (mget _ _) hk.2) a _).trans hf
  exact ((store_reported hfen).ended.reshards).trans hk.1

/-- The one move that is left, of bytes at hand to a place of this chip, writes them once its shares have paid. -/
theorem send_local {s : State} {id : Nat} {r : Reshard} {m : RMove} {bs : List Byte} (hr : s.reshardOf id = some r) (hms : r.moves = [m])
    (hd : m.data = some bs) (hon : s.onChip m.dst = true) (hpay : (s.payMove r m).2 = true) :
    s.send id = ((s.payMove r m).1.localWrite (localOf m.dst) bs).setReshard id fun r => { r with moves := [] } := by
  have hfen : s.moveFenced m = false := by simp [State.moveFenced, hd]
  have hbytes : s.moveBytes r m = .bytes s bs := by simp [State.moveBytes, hd]
  have hon' : (s.payMove r m).1.onChip m.dst = true := by
    exact (onChip_congr (fun f _ i => (payMove_keeps s r m).1 f i) m.dst).trans hon
  unfold State.send
  rw [hr, Option.map_some, Option.getD_some, hms]
  show s.sendMoves id 1 = _
  unfold State.sendMoves
  rw [hr]
  dsimp only
  rw [hms]
  dsimp only
  rw [hfen, if_neg Bool.false_ne_true, hbytes]
  dsimp only
  rw [hpay, hon']
  rfl

/-! ### The end of a reshard -/

/-- A reshard that has nothing left to send is looked at: it ends, or stays. -/
def completeReshard (id : Nat) (s : State) : State :=
  let s := s.sendOut id (2 * s.tickLen)
  match s.reshardOf id with
  | none => s
  | some r => if s.reshardDone r then s.endReshard r else s

theorem completeReshard_done {s : State} {id : Nat} {r : Reshard} (h : s.reshardOf id = some r) (hm : r.moves = [])
    (hdone : s.reshardDone r = true) : completeReshard id s = s.endReshard r := by
  unfold completeReshard
  rw [sendOut_empty h hm]
  dsimp only
  rw [h]
  exact if_pos hdone

theorem completeReshard_waits {s : State} {id : Nat} {r : Reshard} (h : s.reshardOf id = some r) (hm : r.moves = [])
    (hdone : s.reshardDone r = false) : completeReshard id s = s := by
  unfold completeReshard
  rw [sendOut_empty h hm]
  dsimp only
  rw [h]
  exact if_neg (by simp [hdone])

theorem reshardDone_of {s : State} {r : Reshard} (hm : r.moves = []) (hw : s.writing (.reshard r.id) = false)
    (h : r.cause ≠ 0 ∨ r.cancel ≠ [] ∨ r.expectIn ≤ r.gotIn) : s.reshardDone r = true := by
  unfold State.reshardDone
  rw [hm, hw]
  rcases h with h | h | h <;> simp [h]

theorem endReshard_reshards (s : State) (r : Reshard) : (s.endReshard r).reshards = s.reshards.filter (·.id != r.id) :=
  (forAll_keeps State.reshards r.cancel _ (fun x _ s => (complete_ended s x _).reshards) _).trans (endWork_ended _ r.ctx _).reshards

/-! ### Cancelling -/

theorem cancelReshard_found {s : State} {r : Taken} {q : Reshard} (h : s.reshardOf (recNum r.bytes 8 2) = some q) (hq : q.ctx.hearth = r.hearth) :
    cancelReshard r s = (s.spoilMoves q.moves).setReshard (recNum r.bytes 8 2)
      fun q => { q with moves := [], cancel := q.cancel ++ [takenCtx r] } := by
  have hfind : (s.reshards.find? fun q => q.id = recNum r.bytes 8 2 && q.ctx.hearth = r.hearth) = some q := by
    obtain ⟨hid, as, bs, hl, has⟩ := List.find?_eq_some_iff_append.mp h
    refine List.find?_eq_some_iff_append.mpr ⟨by simp [of_decide_eq_true hid, hq], as, bs, hl, fun a ha => ?_⟩
    have := has a ha
    simp only [Bool.not_eq_eq_eq_not, Bool.not_true, decide_eq_false_iff_not] at this
    simp [this]
  unfold cancelReshard
  dsimp only
  rw [hfind]

theorem cancelReshard_unknown {s : State} {r : Taken} (h : ∀ q ∈ s.reshards, q.id = recNum r.bytes 8 2 → q.ctx.hearth ≠ r.hearth) :
    cancelReshard r s = s.complete (takenCtx r) { r0 := 0 } := by
  have hfind : (s.reshards.find? fun q => q.id = recNum r.bytes 8 2 && q.ctx.hearth = r.hearth) = none :=
    List.find?_eq_none.mpr fun q hq => by simpa using h q hq
  unfold cancelReshard
  dsimp only
  rw [hfind]

theorem freeBytesFrom_length (k n : Nat) : (freeBytesFrom k n).length = n := by
  induction n generalizing k with
  | zero => rfl
  | succ n ih => exact congrArg (· + 1) (ih (k + 1))

/-- Bytes away from undefined ones stay as they are. -/
theorem undefBytes_other (s : State) {a n x : Nat} (h : x < a ∨ a + n ≤ x) : (s.undefBytes a n).byte x = s.byte x := by
  unfold State.undefBytes
  rw [show_byte, setBytes_byte, freeBytesFrom_length, if_neg (by omega)]
  rfl

theorem spoilMoves_spec (s : State) (ms : List RMove) :
    (s.spoilMoves ms).reshards = s.reshards ∧ (s.spoilMoves ms).taken = s.taken ∧ FldsBut [.REFETCH_COUNT] s (s.spoilMoves ms) ∧
      ∀ a, (∀ m ∈ ms, s.onChip m.dst = true → a < localOf m.dst ∨ localOf m.dst + m.len ≤ a) → (s.spoilMoves ms).byte a = s.byte a := by
  have hu (s : State) (a n : Nat) := show_reported [.REFETCH_COUNT] (by decide) { s with free := s.free + n } a (freeBytesFrom s.free n)
  refine ⟨forAll_keeps State.reshards _ _ (fun m _ s => (hu s _ _).ended.reshards) s,
    forAll_keeps State.taken _ _ (fun m _ s => (hu s _ _).taken) s, .forAll fun _ s => undefBytes_fldsBut s _ _, fun a ha => ?_⟩
  refine forAll_keeps (fun s => s.byte a) _ _ (fun m hm s => ?_) s
  obtain ⟨hmem, hon⟩ := List.mem_filter.mp hm
  exact undefBytes_other s (ha m hmem hon)

/-- Settles O60, clause by clause: the queue entry of the command, the start, one local move, the end, and the cancelling. -/
theorem reshards : Obligations.Reshards := by
  refine ⟨fun s h r hrun hr hl hq => ?_, fun s p q u i j o r hrun hj hw ho hm hp hl hb hms => ?_,
    fun s id r m bs hr hms hd _ hon hmir hfen hpay => ?_, fun s id r hrun hr hms hwr => ?_, fun s h r hrun hr => ?_⟩
  · obtain ⟨t, ht, hran⟩ := live_ran hrun fun s => s.onCmd h 0x05 fun r s =>
      enqueueInstr (BitVec.ofNat 128 (0x80 + 2 ^ 9 + recNum r.bytes 12 4 * 2 ^ 64)) r s true
    have hrh := takenCmd_hearth hr
    have hopc : wordOpc (BitVec.ofNat 128 (0x80 + 2 ^ 9 + recNum r.bytes 12 4 * 2 ^ 64)) = 0x80 := by
      simp only [wordOpc, wordBits, BitVec.toNat_ofNat, bitsOf]
      omega
    have hsrc : wSrc (BitVec.ofNat 128 (0x80 + 2 ^ 9 + recNum r.bytes 12 4 * 2 ^ 64)) = recNum r.bytes 12 4 % 2 ^ 30 := by
      simp only [wSrc, wordBits, BitVec.toNat_ofNat, bitsOf]
      omega
    rw [← hrh] at hl hq
    rw [onCmd_carry hr, enqueueInstr_assigned (s := s.carry r) hl hq (by rw [hopc]; rfl), hrh] at hran
    refine ⟨t, instrEntry (BitVec.ofNat 128 (0x80 + 2 ^ 9 + recNum r.bytes 12 4 * 2 ^ 64)) r true, ht, hran.taken, ?_, rfl, hopc, hsrc,
      hran.fld, hran.byte⟩
    rw [hran.hearth, setHearth_hearth_same]
    rfl
  · have hexec : ∃ t, exec (.reshard i false) s = .next t ∧ Ran (p.startReshard j) t := by
      obtain ⟨t, ht, hran⟩ := live_ran hrun fun s => match s.takeJob i 0x80 with
        | .none => s
        | .queued s => s
        | .job p j => p.startReshard j
      rw [hj] at hran
      refine ⟨t, Eq.trans ?_ ht, hran⟩
      cases i <;> rfl
    obtain ⟨t, ht, hran⟩ := hexec
    obtain ⟨hres, hnext, hmem, hreg⟩ := startReshard_spec hw ho hm hp hl hb hms
    obtain ⟨-, hid, hnodes, hexp, hmoves⟩ := creditEarly_counted q r
    have hland : q.landed = u.landed := by
      rw [blockFor_spec hb]
    refine ⟨t, (q.creditEarly r).2, ht, hran.reshards.trans hres, hid, hnodes, hexp, hmoves.trans hms,
      fun hu => creditEarly_none (hland.trans hu) r, (congrArg State.flightNext hran.rest :).trans hnext, fun a => ?_, fun f k => ?_⟩
    · exact (hran.byte a).trans (congrArg (mget 0 a) hmem)
    · exact (hran.fld f k).trans (congrArg (mget (f.resetVal k) (f.key k)) hreg)
  · rw [send_local hr hms hd hon hpay]
    obtain ⟨hfld, hbyte, g, hfind⟩ := payMove_keeps s r m
    rw [reshardOf_id hr, hr] at hfind
    generalize (s.payMove r m).1 = v at *
    have hfen' : v.fenced (localOf m.dst) bs.length = false := (fenced_congr (fun f _ i => hfld f i) (localOf m.dst) bs.length).trans hfen
    obtain ⟨hst, hflds⟩ := localWrite_stored hmir hfen'
    have hfound : (v.localWrite (localOf m.dst) bs).reshardOf id = some (g r) :=
      (congrArg (List.find? fun r : Reshard => decide (r.id = id)) (localWrite_reshards hmir hfen')).trans hfind
    refine ⟨{ g r with moves := [] }, ?_, rfl, hst.bytes, fun a ha => (hst.other ha).trans (hbyte a),
      fun f i hf => (hflds f i (by simpa using hf)).trans (hfld f i)⟩
    exact (setReshard_reshardOf _ id (fun r => { r with moves := [] }) fun _ => rfl).trans (by rw [hfound]; rfl)
  · have hid := reshardOf_id hr
    refine ⟨fun hend => ?_, fun hc hcan hgot => ?_⟩
    · obtain ⟨t, ht, hran⟩ := live_ran hrun fun s => completeReshard id.toNat s
      rw [completeReshard_done hr hms (reshardDone_of hms (by rw [hid]; exact hwr) hend)] at hran
      exact ⟨t, ht, hran.reshards.trans (by rw [endReshard_reshards, hid])⟩
    · have hnot : s.reshardDone r = false := by simp [State.reshardDone, hc, hcan, hgot]
      exact congrArg _ (running_self hrun (completeReshard_waits hr hms hnot))
  · have hrh := takenCmd_hearth hr
    obtain ⟨t, ht, hran⟩ := live_ran hrun fun s => s.onCmd h 0x06 cancelReshard
    rw [onCmd_carry hr] at hran
    refine ⟨fun q hq hqh => ?_, fun hnone => ?_⟩
    · rw [cancelReshard_found (s := s.carry r) hq (hqh.trans hrh.symm)] at hran
      obtain ⟨hres, htaken, hflds, hbyte⟩ := spoilMoves_spec (s.carry r) q.moves
      have hfound : (s.carry r).reshardOf (recNum r.bytes 8 2) = some q := hq
      rw [State.reshardOf, ← hres] at hfound
      refine ⟨t, { q with moves := [], cancel := q.cancel ++ [takenCtx r] }, ht, hran.taken.trans htaken, ?_, rfl, rfl,
        fun f i hf => (hran.fld f i).trans (hflds f i (by simpa using hf)), fun a ha => (hran.byte a).trans (hbyte a ha)⟩
      refine (congrArg (List.find? (·.id = recNum r.bytes 8 2)) hran.reshards).trans ?_
      exact (setReshard_reshardOf _ _ (fun q => { q with moves := [], cancel := q.cancel ++ [takenCtx r] }) fun _ => rfl).trans
        (by rw [State.reshardOf, hfound]; rfl)
    · rw [cancelReshard_unknown (s := s.carry r) fun q hq hid => hrh ▸ hnone q hq hid] at hran
      have hrep := complete_reported (s.carry r) (takenCtx r) { r0 := 0 }
      exact ⟨t, ht, hran.taken.trans hrep.taken, hran.reshards.trans hrep.ended.reshards⟩

end Sys2Proof.Machine
end

section
/-! PROOF. An ember at its issue cycle, and the instructions that only write its registers (R254, R260, R262, R265, R269). -/

namespace Sys2Proof.Machine

/-! ### Registers of an ember -/

theorem setA_a (m : Ember) (i v j : Nat) : (m.setA i v).a j = if j = i ∧ j ≠ 0 then v % 2 ^ 64 else m.a j := by
  unfold Ember.setA Ember.a
  by_cases hj : j = 0
  · simp [hj]
  · by_cases hi : i = 0
    · simp [hi, hj]
    · by_cases h : j = i
      · subst h
        simp [hj]
      · have hother : mget 0 j (mput 0 i (BitVec.ofNat 64 v) m.regs) = mget 0 j m.regs := mget_mput_other _ _ h _ _
        rw [if_neg hi, if_neg hj, if_neg (by simp [h]), if_neg hj, hother]

/-- A register write changes nothing but registers. -/
theorem setA_rest (m : Ember) (i v : Nat) : m.setA i v = { m with regs := (m.setA i v).regs } := by
  unfold Ember.setA
  split <;> rfl

theorem a_lt (m : Ember) (i : Nat) : m.a i < 2 ^ 64 := by
  unfold Ember.a
  split
  · decide
  · exact BitVec.isLt _

/-! ### The issue cycle -/

theorem pick_mem {s : State} {es : List Nat} {e : Nat} (h : s.pick es = some e) : e ∈ es := by
  unfold State.pick at h
  rcases Option.or_eq_some_iff.mp h with h | ⟨-, h⟩
  · exact List.mem_of_find?_eq_some h
  · exact List.mem_of_find?_eq_some h

/-- What the choice of a pipe answers is an ember that is ready. -/
theorem chosen_ready {s : State} {p e c : Nat} (h : s.chosen p = some (e, c)) : (s.readyAt e).isSome = true := by
  unfold State.chosen at h
  dsimp only at h
  split at h
  · cases h
  · obtain ⟨x, hx, heq⟩ := Option.map_eq_some_iff.mp h
    cases heq
    obtain ⟨y, hy, rfl⟩ := List.mem_map.mp (pick_mem hx)
    obtain ⟨z, -, hz⟩ := List.mem_filterMap.mp (List.mem_filter.mp hy).1
    obtain ⟨c, hc, rfl⟩ := Option.map_eq_some_iff.mp hz
    rw [hc]
    rfl

/-- An ember that is ready runs and waits for nothing. -/
theorem readyAt_runs {s : State} {e : Nat} (h : (s.readyAt e).isSome = true) :
    (s.ember e).live = true ∧ (s.ember e).draining = false ∧ (s.ember e).wait = .none := by
  unfold State.readyAt at h
  dsimp only at h
  split at h
  · cases h
  · rename_i hn
    simp only [Bool.or_eq_true, Bool.not_eq_eq_eq_not, Bool.not_true, bne_iff_ne, ne_eq, not_or, Bool.not_eq_false, Bool.not_eq_true,
      not_not] at hn
    exact ⟨hn.1.1.1, hn.1.1.2, hn.1.2⟩

/-- `t` differs from `s` at most in the fetch window of ember `e`, and in the count of discarded fetches. -/
structure Refilled (s : State) (e : Nat) (t : State) : Prop where
  rest : t = { s with embers := t.embers, reg := t.reg, free := t.free }
  ember : ∃ w v, t.ember e = { s.ember e with win := w, stale := v }
  other : ∀ k, k ≠ e → t.ember k = s.ember k
  fld : ∀ f i, f ≠ .REFETCH_COUNT → t.fld f i = s.fld f i

theorem Refilled.refl (s : State) (e : Nat) : Refilled s e s := ⟨rfl, ⟨_, _, rfl⟩, fun _ _ => rfl, fun _ _ _ => rfl⟩

theorem Refilled.window (s : State) (e : Nat) (w : List Word128) (v : Nat) :
    Refilled s e (s.setEmber e { s.ember e with win := w, stale := v }) :=
  ⟨rfl, ⟨w, v, setEmber_ember_same ..⟩, fun _ hk => setEmber_ember_other _ hk _, fun _ _ _ => rfl⟩

theorem bump_rest (s : State) (f : Fld) (i n : Nat) : s.bump f i n = { s with reg := (s.bump f i n).reg, free := (s.bump f i n).free } := by
  unfold State.bump
  split <;> rfl

theorem Refilled.counted {s t : State} {e : Nat} (h : Refilled s e t) : Refilled s e (t.bump .REFETCH_COUNT) := by
  have hb := bump_reported t (List.mem_singleton_self Fld.REFETCH_COUNT) 0 1
  have hr := bump_rest t .REFETCH_COUNT 0 1
  have hem (k : Nat) : (t.bump .REFETCH_COUNT).ember k = t.ember k := congrArg (mget ({} : Ember) k) (congrArg State.embers hr :)
  refine ⟨?_, (hem e).symm ▸ h.ember, fun k hk => (hem k).trans (h.other k hk), fun f i hf => (hb.fld (by simpa using hf) i).trans (h.fld f i hf)⟩
  rw [hr, h.rest]

/-- Filling a window changes the ember's window, and counts at most a discarded fetch. -/
theorem fillWindow_refilled (s : State) (e : Nat) : Refilled s e (s.fillWindow e) := by
  unfold State.fillWindow
  dsimp only
  split
  · exact .refl s e
  · split
    · exact .window s e _ _
    · split
      · exact .window s e _ _
      · split
        · exact .window s e _ _
        · exact (Refilled.window s e _ _).counted

/-- With nothing astir the clock moves, and nothing else. -/
theorem toClk_calm {s : State} (h : s.astir = false) (c : Nat) :
    s.toClk c = { s with clk := (s.toClk c).clk, cyc := (s.toClk c).cyc } := by
  unfold State.toClk
  rw [h]
  split <;> rfl

/-- The state of the issue cycle, and the ember and the word that it answers. -/
theorem ready_spec {s p : State} {e : Nat} {x : Option (Ember × Option Word128)} (h : s.ready e = (p, x)) :
    (∀ m w, x = some (m, w) → m = p.ember e ∧ m.live = true ∧ m.draining = false ∧ m.wait = .none) ∧
      (s.astir = false → ∃ u, Refilled u e p ∧ u = { s with clk := u.clk, cyc := u.cyc }) := by
  unfold State.ready at h
  split at h
  · cases h
    exact ⟨(fun _ _ h => nomatch h), fun _ => ⟨_, .refl _ e, rfl⟩⟩
  · rename_i o c hch
    split at h
    · cases h
      exact ⟨(fun _ _ h => nomatch h), fun _ => ⟨_, .refl _ e, rfl⟩⟩
    · dsimp only at h
      have hcalm := fun hs => toClk_calm (s := s) hs c
      generalize s.toClk c = u at h hcalm
      split at h
      · cases h
        exact ⟨(fun _ _ h => nomatch h), fun hs => ⟨_, .refl _ e, hcalm hs⟩⟩
      · rename_i hch
        have hruns := readyAt_runs (chosen_ready (by simpa using hch))
        have hfill := fillWindow_refilled u e
        generalize u.fillWindow e = v at *
        obtain ⟨w, st, hw⟩ := hfill.ember
        split at h
        · cases h
          exact ⟨(fun _ _ h => nomatch h), fun hs => ⟨u, hfill, hcalm hs⟩⟩
        · cases h
          refine ⟨fun m w h => ?_, fun hs => ⟨u, hfill, hcalm hs⟩⟩
          cases h
          rw [hw]
          exact ⟨rfl, hruns⟩

/-- The ember of the issue cycle, its pipe taken. -/
theorem issue_of_ready {s p : State} {e opc : Nat} {m : Ember} {w : Word128} (h : s.ready e = (p, some (m, some w))) (hw : wordOpc w = opc)
    (f : State → Ember → Word128 → Option State) :
    s.issue e opc f = (f (p.spend e) { m with issued := p.clk + 1 } w).getD (p.stall e) := by
  have hm : m = p.ember e := ((ready_spec h).1 m _ rfl).1
  have hq : (p.spend e).ember e = { m with issued := p.clk + 1 } := by
    rw [hm]
    exact setEmber_ember_same ..
  unfold State.issue
  rw [h]
  dsimp only
  rw [if_neg (by simp [hw]), hq]

theorem spend_reg (p : State) (e : Nat) : (p.spend e).reg = p.reg := rfl
theorem spend_plans (p : State) (e : Nat) : (p.spend e).plans = p.plans := rfl

theorem fld_of_reg {s t : State} (h : t.reg = s.reg) (f : Fld) (i : Nat) : t.fld f i = s.fld f i := congrArg (mget (f.resetVal i) (f.key i)) h

theorem check0_congr {s t : State} (h : t.reg = s.reg) (q : Nat) (w : Word128) : t.check0 q w = s.check0 q w := by
  have hx : t.expert q = s.expert q := by
    simp only [State.expert, State.fbit, fld_of_reg h]
  unfold State.check0
  rw [hx]

theorem issue0_of_ready {s p : State} {e opc : Nat} {m : Ember} {w : Word128} (h : s.ready e = (p, some (m, some w))) (hw : wordOpc w = opc)
    (hc : p.check0 m.hearth w = .ok ()) (f : State → Ember → Word128 → Option State) :
    s.issue0 e opc f = (f (p.spend e) { m with issued := p.clk + 1 } w).getD (p.stall e) := by
  have hc' : (p.spend e).check0 m.hearth w = .ok () := (check0_congr (spend_reg p e) m.hearth w).trans hc
  unfold State.issue0
  rw [issue_of_ready h hw]
  dsimp only
  rw [hc']

/-- The pipe's issue changes nothing that checks look at. -/
theorem spend_pcCheck (p : State) (e q pc : Nat) : (p.spend e).pcCheck q pc = p.pcCheck q pc :=
  pcCheck_congr (fun f _ i => fld_of_reg (spend_reg p e) f i) (spend_plans p e) q pc

/-! ### What an instruction leaves -/

/-- In `t` ember `e` is `m` but for its fetch window; nothing of the other embers, of memory and of the registers has changed, where the
instruction asks for no completion record (`cq`). -/
structure Issued (s : State) (e : Nat) (m : Ember) (cq : Bool) (t : State) : Prop where
  ember : ∃ w v, t.ember e = { m with win := w, stale := v }
  other : cq = false → ∀ k, k ≠ e → t.ember k = s.ember k
  mem : cq = false → t.mem = s.mem
  reg : cq = false → t.reg = s.reg

section
variable {s t : State} {e pc next : Nat} {old m : Ember} {cq err : Bool}

theorem Issued.byte (h : Issued s e m cq t) (hcq : cq = false) (a : Nat) : t.byte a = s.byte a := congrArg (mget 0 a) (h.mem hcq)
theorem Issued.fld (h : Issued s e m cq t) (hcq : cq = false) (f : Fld) (i : Nat) : t.fld f i = s.fld f i :=
  congrArg (mget (f.resetVal i) (f.key i)) (h.reg hcq)

theorem Issued.a (h : Issued s e m cq t) (i : Nat) : (t.ember e).a i = m.a i := by
  obtain ⟨w, v, hm⟩ := h.ember
  rw [hm]
  rfl

/-- An ember's new state, with the record that its word asks for. -/
theorem recorded_issued (s : State) (e : Nat) (m : Ember) (cq : Bool) (x : State → Ctx) (z : End) :
    Issued s e m cq ((s.setEmber e m).on cq fun s => s.complete (x s) z) := by
  cases cq with
  | false => exact ⟨⟨m.win, m.stale, setEmber_ember_same s e m⟩, fun _ k hk => setEmber_ember_other s hk m, fun _ => rfl, fun _ => rfl⟩
  | true =>
    have hrep := complete_reported (s.setEmber e m) (x (s.setEmber e m)) z
    obtain ⟨w, v, hm⟩ := hrep.ember e
    rw [setEmber_ember_same] at hm
    exact ⟨⟨w, v, hm⟩, fun h => Bool.noConfusion h, fun h => Bool.noConfusion h, fun h => Bool.noConfusion h⟩

/-- The ember goes on at a PC that can be fetched. -/
theorem goTo_issued (hpc : s.pcCheck m.hearth pc = .ok ()) :
    Issued s e { m with pc := pc, next := next } cq (s.goTo e old m pc next cq err) := by
  unfold State.goTo
  rw [hpc]
  obtain ⟨⟨w, v, hm⟩, hother, hmem, hreg⟩ := recorded_issued s e
    { m with pc := pc, win := if pc = old.pc + 16 then old.win.drop 1 else [], stale := if pc = old.pc + 16 then m.stale else 0, next := next }
    cq (fun s => s.emberCtx e true old.pc) { err := err }
  exact ⟨⟨w, v, hm⟩, hother, hmem, hreg⟩

theorem unblock_issued : ∃ c, Issued s e { m with wait := .none, next := next, cache := c } cq (s.unblock e m next cq err) :=
  ⟨_, recorded_issued s e _ cq (fun s => s.emberCtx e true m.waitPc) _⟩

/-- The ember waits, its PC after the instruction. -/
theorem block_issued {w : Wait} (hpc : s.pcCheck m.hearth (old.pc + 16) = .ok ()) :
    Issued s e { m with pc := old.pc + 16, wait := w } false (s.block e old m w) := by
  unfold State.block
  rw [hpc]
  exact ⟨⟨_, _, setEmber_ember_same ..⟩, fun _ k hk => setEmber_ember_other s hk _, fun _ => rfl, fun _ => rfl⟩

/-- The pipe's own issue is no change of another ember, of memory or of the registers. -/
theorem Issued.of_spend (h : Issued (s.spend e) e m cq t) : Issued s e m cq t :=
  ⟨h.ember, fun hcq k hk => (h.other hcq k hk).trans (setEmber_ember_other _ hk _), h.mem, h.reg⟩

end

end Sys2Proof.Machine
end

section
/-! PROOF. Instructions of class 0x0 that write registers only: `alu`, `br`, `emb.info` and `order.sl` (R260, R262, R269). -/

namespace Sys2Proof.Machine

/-! ### Numbers of 64 bits -/

theorem signedOf_toNat (x : BitVec 64) : signedOf x.toNat 64 = x.toInt := by
  have hx := x.isLt
  rw [signedOf, BitVec.toInt_eq_toNat_cond, Nat.mod_eq_of_lt hx]
  split <;> split <;> omega

theorem toNat_of_toInt (x : BitVec 64) : (x.toInt % ((2 ^ 64 : Nat) : Int)).toNat = x.toNat := by
  have hx := x.isLt
  rw [BitVec.toInt_eq_toNat_cond]
  split <;> omega

theorem add64_toNat (x y : BitVec 64) : add64 x.toNat y.toNat = (x + y).toNat := (BitVec.toNat_add x y).symm

/-- A register as a number of 64 bits. -/
theorem ofNat_a (m : Ember) (i : Nat) : (BitVec.ofNat 64 (m.a i)).toNat = m.a i := by
  rw [BitVec.toNat_ofNat, Nat.mod_eq_of_lt (a_lt m i)]

/-- Table 8.2's functions on bit vectors. -/
def aluWord (f : Nat) (x y : BitVec 64) : BitVec 64 :=
  match f with
  | 0 => x + y | 1 => x - y | 2 => x &&& y | 3 => x ||| y | 4 => x ^^^ y | 5 => x <<< (y.toNat % 64) | 6 => x >>> (y.toNat % 64)
  | 7 => x.sshiftRight (y.toNat % 64) | 8 => x * y | 9 => if x.sle y then x else y | 10 => if x.sle y then y else x
  | _ => if x.ult y then 1 else 0

theorem aluFn_word (f : Nat) (x y : BitVec 64) : aluFn f x.toNat y.toNat = (aluWord f x y).toNat := by
  unfold aluFn aluWord
  split
  case h_1 => exact (BitVec.toNat_add x y).symm
  case h_2 =>
    show (x.toNat + 2 ^ 64 - y.toNat) % 2 ^ 64 = (x - y).toNat
    have hy := y.isLt
    rw [BitVec.toNat_sub]
    omega
  case h_3 => exact (BitVec.toNat_and x y).symm
  case h_4 => exact (BitVec.toNat_or x y).symm
  case h_5 => exact (BitVec.toNat_xor x y).symm
  case h_6 =>
    show x.toNat * 2 ^ (y.toNat % 64) % 2 ^ 64 = (x <<< (y.toNat % 64)).toNat
    rw [BitVec.toNat_shiftLeft, Nat.shiftLeft_eq]
  case h_7 =>
    show x.toNat / 2 ^ (y.toNat % 64) = (x >>> (y.toNat % 64)).toNat
    rw [BitVec.toNat_ushiftRight, Nat.shiftRight_eq_div_pow]
  case h_8 =>
    show (signedOf x.toNat 64 / ((2 ^ (y.toNat % 64) : Nat) : Int) % ((2 ^ 64 : Nat) : Int)).toNat = (x.sshiftRight (y.toNat % 64)).toNat
    rw [signedOf_toNat, ← toNat_of_toInt (x.sshiftRight _), BitVec.toInt_sshiftRight, Int.shiftRight_eq_div_pow]
  case h_9 => exact (BitVec.toNat_mul x y).symm
  case h_10 =>
    show (if signedOf x.toNat 64 ≤ signedOf y.toNat 64 then x.toNat else y.toNat) = (if x.sle y then x else y).toNat
    rw [signedOf_toNat, signedOf_toNat, BitVec.sle_eq_decide]
    by_cases h : x.toInt ≤ y.toInt <;> simp [h]
  case h_11 =>
    show (if signedOf x.toNat 64 ≤ signedOf y.toNat 64 then y.toNat else x.toNat) = (if x.sle y then y else x).toNat
    rw [signedOf_toNat, signedOf_toNat, BitVec.sle_eq_decide]
    by_cases h : x.toInt ≤ y.toInt <;> simp [h]
  case h_12 =>
    rw [BitVec.ult_eq_decide]
    by_cases h : x.toNat < y.toNat <;> simp [h, b2n]

/-- The branch conditions on bit vectors. -/
def takenWord (c : Nat) (x y : BitVec 64) : Bool :=
  match c with
  | 0 => true | 1 => x == y | 2 => x != y | 3 => x.slt y | 4 => y.sle x | 5 => x.ult y | _ => y.ule x

theorem brTaken_word (c : Nat) (x y : BitVec 64) : brTaken c x.toNat y.toNat = takenWord c x y := by
  unfold brTaken takenWord
  split
  case h_1 => rfl
  case h_2 => simp [beq_eq_decide, BitVec.toNat_inj]
  case h_3 => simp [bne, BitVec.toNat_inj]
  case h_4 =>
    show decide (signedOf x.toNat 64 < signedOf y.toNat 64) = x.slt y
    rw [signedOf_toNat, signedOf_toNat, BitVec.slt_eq_decide]
  case h_5 =>
    show decide (signedOf y.toNat 64 ≤ signedOf x.toNat 64) = y.sle x
    rw [signedOf_toNat, signedOf_toNat, BitVec.sle_eq_decide]
  case h_6 => exact (BitVec.ult_eq_decide (x := x) (y := y)).symm
  case h_7 => simp [BitVec.ule_eq_decide]

/-! ### Their events -/

section
variable {s p : State} {e : Nat} {m : Ember} {w : Word128}

/-- What an instruction that has issued shows at the end of its command. -/
theorem issued_shown {f : State → State} {m' : Ember} {cq : Bool} (hrun : s.power = .run) (h : Issued p e m' cq (f s)) :
    ∃ t, live s f = .next t ∧ (t.ember e).pc = m'.pc ∧ (t.ember e).wait = m'.wait ∧ (t.ember e).live = m'.live ∧
      (∀ i, (t.ember e).a i = m'.a i) ∧
      (cq = false → (∀ k, k ≠ e → t.ember k = p.ember k) ∧ (∀ a, t.byte a = p.byte a) ∧ ∀ f i, t.fld f i = p.fld f i) := by
  obtain ⟨t, ht, hran⟩ := live_ran hrun f
  obtain ⟨wn, v, hm⟩ := h.ember
  have hem := (hran.ember e).trans hm
  refine ⟨t, ht, ?_, ?_, ?_, fun i => ?_, fun hcq => ⟨fun k hk => (hran.ember k).trans (h.other hcq k hk),
    fun a => (hran.byte a).trans (h.byte hcq a), fun f i => (hran.fld f i).trans (h.fld hcq f i)⟩⟩
  all_goals rw [hem]
  rfl

/-- The ember of an instruction that has issued, before it goes on. -/
def Ember.atIssue (m : Ember) (clk : Nat) : Ember := { m with issued := clk + 1 }

theorem atIssue_setA (m : Ember) (c k v : Nat) : (m.atIssue c).setA k v = (m.setA k v).atIssue c := by
  unfold Ember.setA
  split <;> rfl

/-- The command of an instruction that goes on at `pc` as `m'`. -/
theorem goTo_shown {opc pc next : Nat} {err : Bool} {m' : Ember} {F : State → Ember → Word128 → Option State} (hrun : s.power = .run)
    (hr : s.ready e = (p, some (m, some w))) (hc : p.check0 m.hearth w = .ok ()) (hw : wordOpc w = opc) (hpc : p.pcCheck m.hearth pc = .ok ())
    (hm' : m'.hearth = m.hearth) (hF : F (p.spend e) (m.atIssue p.clk) w = some ((p.spend e).goTo e (m.atIssue p.clk) m' pc next (wCq w) err)) :
    ∃ t, live s (fun s => s.issue0 e opc F) = .next t ∧ (t.ember e).pc = pc ∧ (t.ember e).wait = m'.wait ∧ (t.ember e).live = m'.live ∧
      (∀ i, (t.ember e).a i = m'.a i) ∧
      (wCq w = false → (∀ k, k ≠ e → t.ember k = p.ember k) ∧ (∀ a, t.byte a = p.byte a) ∧ ∀ f i, t.fld f i = p.fld f i) := by
  have heq : s.issue0 e opc F = (p.spend e).goTo e (m.atIssue p.clk) m' pc next (wCq w) err :=
    (issue0_of_ready hr hw hc F).trans (congrArg (·.getD (p.stall e)) hF)
  have hgo : Issued p e { m' with pc := pc, next := next } (wCq w) (s.issue0 e opc F) := by
    rw [heq]
    refine (goTo_issued ?_).of_spend
    rw [spend_pcCheck, hm']
    exact hpc
  exact issued_shown (f := fun s => s.issue0 e opc F) hrun hgo

/-- The command of an instruction that writes `v` to A[RD] and goes on at `pc`. -/
theorem write_shown {opc v pc next : Nat} {err : Bool} {F : State → Ember → Word128 → Option State} (hrun : s.power = .run)
    (hr : s.ready e = (p, some (m, some w))) (hc : p.check0 m.hearth w = .ok ()) (hw : wordOpc w = opc) (hpc : p.pcCheck m.hearth pc = .ok ())
    (hF : F (p.spend e) (m.atIssue p.clk) w =
      some ((p.spend e).goTo e (m.atIssue p.clk) ((m.atIssue p.clk).setA (wRd w) v) pc next (wCq w) err)) :
    ∃ t, live s (fun s => s.issue0 e opc F) = .next t ∧ (t.ember e).pc = pc ∧ (t.ember e).wait = .none ∧ (t.ember e).live = true ∧
      (∀ i, (t.ember e).a i = if i = wRd w ∧ i ≠ 0 then v % 2 ^ 64 else m.a i) ∧
      (wCq w = false → (∀ k, k ≠ e → t.ember k = p.ember k) ∧ (∀ a, t.byte a = p.byte a) ∧ ∀ f i, t.fld f i = p.fld f i) := by
  obtain ⟨-, hlive, -, hwait⟩ := (ready_spec hr).1 m _ rfl
  have hset := setA_rest (m.atIssue p.clk) (wRd w) v
  obtain ⟨t, ht, htpc, htwait, htlive, hta, hrest⟩ := goTo_shown hrun hr hc hw hpc (congrArg Ember.hearth hset :) hF
  exact ⟨t, ht, htpc, htwait.trans ((congrArg Ember.wait hset :).trans hwait), htlive.trans ((congrArg Ember.live hset :).trans hlive),
    fun i => (hta i).trans (setA_a (m.atIssue p.clk) (wRd w) v i), hrest⟩

/-- One `order.sl` more. -/
def Ember.nextEpoch (m : Ember) : Ember := { m with epoch := m.epoch + 1 }

theorem emberInfo_spend (hm : m = p.ember e) (f : Nat) : (p.spend e).emberInfo e (m.atIssue p.clk) f =
    match f with
    | 0 => m.incarn * 2048 + e | 1 => m.hearth | 2 => p.now | 3 => if m.planned then (p.plan m.plan).tick else 0
    | 4 => p.cyc | _ => e / 256 := by
  have hq : (p.spend e).ember e = m.atIssue p.clk := hm ▸ setEmber_ember_same ..
  have htag : (p.spend e).emberTag e = m.incarn * 2048 + e := by
    rw [State.emberTag, hq]
    rfl
  unfold State.emberInfo
  rw [htag]
  rfl

/-- Settles O50: each instruction's word by `write_shown`, its value by the functions on bit vectors. -/
theorem emberRegisterInstructions : Obligations.EmberRegisterInstructions := by
  refine ⟨fun s p e x hr hs => ?_, fun s p e m w hrun hr hc => ?_⟩
  · obtain ⟨u, hfill, hu⟩ := (ready_spec hr).2 hs
    obtain ⟨wn, v, hem⟩ := hfill.ember
    have hmem : p.mem = s.mem := by
      rw [hfill.rest, hu]
    have hreg : u.reg = s.reg := by
      rw [hu]
    have hue : u.embers = s.embers := by
      rw [hu]
    refine ⟨fun a => congrArg (mget 0 a) hmem, fun f i hf => (hfill.fld f i hf).trans (fld_of_reg hreg f i),
      fun k hk => (hfill.other k hk).trans (congrArg (mget ({} : Ember) k) hue), fun i => ?_⟩
    rw [hem]
    exact congrArg (fun l => (mget ({} : Ember) e.val l).a i) hue
  · intro x y y0 taken tgt effect
    have hx : x.toNat = m.a (wRs1 w) := ofNat_a m _
    have hy0 : y0.toNat = m.a (wRs2 w) := ofNat_a m _
    have hy : y.toNat = add64 (m.a (wRs2 w)) (wImm w) := by
      simp [y, add64, BitVec.toNat_add]
    have himm : wImm w < 2 ^ 64 := Nat.mod_lt _ (by decide)
    refine ⟨fun hw hpc => ?_, fun hw htk hpc => ?_, fun hw htk hpc => ?_, fun hw hpc => ?_, fun hw hpc => ?_⟩
    · obtain ⟨t, ht, h⟩ := write_shown hrun hr hc hw hpc (v := aluFn (wFunc w) x.toNat y.toNat)
        (F := fun s m w => some (s.goOn e m (m.setA (wRd w) (aluFn (wFunc w) (m.a (wRs1 w)) (add64 (m.a (wRs2 w)) (wImm w))))
          (s.clk + if wFunc w = 8 then 3 else 1) (wCq w))) (by rw [hx, hy]; rfl)
      refine ⟨t, ht, ?_⟩
      rw [aluFn_word, Nat.mod_eq_of_lt (BitVec.isLt _)] at h
      exact h
    · have htk' : brTaken (wWid w) (m.a (wRs1 w)) (m.a (wRs2 w)) = true := by
        rw [← hx, ← hy0, brTaken_word]
        exact htk
      have htgt : tgt = (m.pc + wImm w * 16) % 2 ^ 64 := by
        have h16 : (16 : BitVec 64).toNat = 16 := rfl
        simp only [tgt, BitVec.toNat_add, BitVec.toNat_mul, BitVec.toNat_ofNat, h16]
        omega
      obtain ⟨t, ht, h⟩ := write_shown hrun hr hc hw hpc (v := m.pc + 16) (next := (p.spend e).clk + 8) (err := false) (F := fun s m w =>
          let m' := m.setA (wRd w) (m.pc + 16)
          if brTaken (wWid w) (m.a (wRs1 w)) (m.a (wRs2 w)) then
            some (s.goTo e m m' ((m.pc + wImm w * 16) % 2 ^ 64) (s.clk + 8) (wCq w) false)
          else some (s.goOn e m m' (s.clk + 1) (wCq w))) (by rw [htgt]; exact if_pos htk')
      exact ⟨t, ht, h⟩
    · have htk' : brTaken (wWid w) (m.a (wRs1 w)) (m.a (wRs2 w)) = false := by
        rw [← hx, ← hy0, brTaken_word]
        exact htk
      obtain ⟨t, ht, h⟩ := write_shown hrun hr hc hw hpc (v := m.pc + 16) (next := (p.spend e).clk + 1) (err := false) (F := fun s m w =>
          let m' := m.setA (wRd w) (m.pc + 16)
          if brTaken (wWid w) (m.a (wRs1 w)) (m.a (wRs2 w)) then
            some (s.goTo e m m' ((m.pc + wImm w * 16) % 2 ^ 64) (s.clk + 8) (wCq w) false)
          else some (s.goOn e m m' (s.clk + 1) (wCq w))) (if_neg (Bool.eq_false_iff.mp htk'))
      exact ⟨t, ht, h⟩
    · obtain ⟨t, ht, h⟩ := write_shown hrun hr hc hw hpc (F := fun s m w =>
          some (s.goOn e m (m.setA (wRd w) (s.emberInfo e m (wFunc w))) (s.clk + 1) (wCq w))) rfl
      refine ⟨t, ht, ?_⟩
      rw [emberInfo_spend ((ready_spec hr).1 m _ rfl).1] at h
      exact h
    · obtain ⟨-, hlive, -, hwait⟩ := (ready_spec hr).1 m _ rfl
      obtain ⟨t, ht, htpc, htwait, htlive, h⟩ := goTo_shown hrun hr hc hw hpc (m' := (m.atIssue p.clk).nextEpoch) rfl
        (F := fun s m w => some (s.goOn e m { m with epoch := m.epoch + 1 } (s.clk + 1) (wCq w))) rfl
      exact ⟨t, ht, htpc, htwait.trans hwait, htlive.trans hlive, h⟩

end

end Sys2Proof.Machine
end

section
/-! PROOF. Requests of a pipe to the crossbar, a chip on which nothing is astir, and an ember that faults (R164, R274, R401, R402). -/

namespace Sys2Proof.Machine

/-! ### Parts behind one port -/

theorem next_multiple {n a c : Nat} (ha : n ∣ a) (hc : n ∣ c) (h : a < c) : a + n ≤ c := by
  obtain ⟨i, rfl⟩ := ha
  obtain ⟨j, rfl⟩ := hc
  have : i + 1 ≤ j := Nat.lt_of_mul_lt_mul_left h
  calc n * i + n = n * (i + 1) := by ring
    _ ≤ n * j := Nat.mul_le_mul_left n this

/-- An aligned access of at most 64 bytes lies behind one port. -/
theorem portEnd_aligned {a n : Nat} (hn : n ∣ 64) (ha : n ∣ a) : a + n ≤ portEnd a := by
  have h64 (k : Nat) : n ∣ 64 * k := Dvd.dvd.mul_right hn k
  have hup (M : Nat) (hM : 0 < M) (b : Nat) : b < (b / M + 1) * M := by
    have := Nat.lt_div_mul_add (a := b) hM
    rw [Nat.add_mul]
    omega
  have hle : n ≤ 64 := Nat.le_of_dvd (by decide) hn
  unfold portEnd
  split
  · exact next_multiple ha (Dvd.dvd.mul_left (h64 0x400) _) (hup 0x10000 (by decide) a)
  · have hbase : n ∣ 0x1000000000 := h64 0x40000000
    have hM : n ∣ 0x280000 := h64 0xA000
    refine next_multiple ha (Nat.dvd_add hbase (Dvd.dvd.mul_left hM _)) ?_
    have := hup 0x280000 (by decide) (a - 0x1000000000)
    omega
  · exact next_multiple ha (Dvd.dvd.mul_left (h64 0x10) _) (hup 0x400 (by decide) a)
  · omega

theorem partsOf_aligned {a n : Nat} (hn : n ∣ 64) (ha : n ∣ a) (hpos : 0 < n) : partsOf a n = [(a, n)] := by
  have hend := portEnd_aligned hn ha
  unfold partsOf portParts
  rw [if_neg (by omega)]
  dsimp only
  rw [Nat.min_eq_left (by omega), Nat.sub_self]
  unfold portParts
  rfl

/-! ### A request of a pipe -/

theorem xbPuts_granted (k : Ask) (l : List (Nat × Nat)) (s : State) : Granted s (forAll l (fun e s => s.xbPut k e.1 e.2) s) :=
  forAll_rel (R := Granted) (fun _ => rfl) .trans l (fun e s => s.xbPut k e.1 e.2) (fun _ _ _ => rfl) s

theorem tidRoom_congr {s t : State} (hclk : t.clk = s.clk) (hxb : t.xb = s.xb) (hreads : t.reads = s.reads) (hf : t.flights = s.flights)
    (m : Nat) (write planned : Bool) : t.tidRoom m write planned = s.tidRoom m write planned := by
  have ho : t.ownerMaster = s.ownerMaster := by
    funext o
    cases o <;> simp only [State.ownerMaster, hf]
  unfold State.tidRoom State.xbOut
  rw [hclk, hxb, hreads, ho]

/-- What a load or store of an ember says to the crossbar beside its address. -/
def State.memKey (s : State) (e ga n : Nat) (write : Bool) (since : Nat) : Ask :=
  { master := e / 256, write := write, qos := s.emberQos (s.ember e).hearth
    plan := if (s.ember e).planned then some (s.ember e).plan else none
    hearth := some (s.ember e).hearth, since := since, lat := if write then s.writeLat ga n else s.readLat ga }

theorem memKey_plan (s : State) (e ga n : Nat) (write : Bool) (since : Nat) :
    (s.memKey e ga n write since).plan.isSome = (s.ember e).planned := by
  unfold State.memKey
  cases (s.ember e).planned <;> rfl

theorem memAsk_xbAsk (s : State) (e ga n : Nat) (write : Bool) (since : Nat) : s.memAsk e ga n write since =
    (s.xbAsk (s.memKey e ga n write since) (localOf ga) n).map fun r =>
      (if (s.ember e).planned then r.1.fenDraw (some (s.ember e).plan) (fenCost 32 (localOf ga) n write) else r.1, r.2.headD 0) := rfl

/-- Without a TID there is no request. -/
theorem memAsk_none {s : State} {e ga n since : Nat} {write : Bool} (h : s.tidRoom (e / 256) write (s.ember e).planned = false) :
    s.memAsk e ga n write since = none := by
  have hask : s.xbAsk (s.memKey e ga n write since) (localOf ga) n = none := by
    refine if_pos ?_
    rw [memKey_plan]
    exact congrArg not h
  rw [memAsk_xbAsk, hask]
  rfl

theorem fenDraw_xb (s : State) (plan : Option Nat) (cost : List (Nat × Nat)) : (s.fenDraw plan cost).xb = s.xb := by
  unfold State.fenDraw
  exact forAll_keeps State.xb _ _ (fun _ _ u => show (u.slotDraw _ _).xb = u.xb from rfl) s

/-- What a request of a pipe leaves: its parts stand in the crossbar's book, and its number is the next one. -/
theorem memAsk_some {s : State} {e ga n since : Nat} {write : Bool} (h : s.tidRoom (e / 256) write (s.ember e).planned = true)
    (hn : partsOf (localOf ga) n ≠ []) :
    ∃ v, s.memAsk e ga n write since = some (v, s.xbNext + 1) ∧ Booked s v ∧
      v.xb = (forAll (partsOf (localOf ga) n) (fun x t => t.xbPut (s.memKey e ga n write since) x.1 x.2) s).xb := by
  obtain ⟨x, l, hl⟩ := List.exists_cons_of_ne_nil hn
  have hask : s.xbAsk (s.memKey e ga n write since) (localOf ga) n =
      some (forAll (partsOf (localOf ga) n) (fun x t => t.xbPut (s.memKey e ga n write since) x.1 x.2) s,
        (upTo (partsOf (localOf ga) n).length).map fun i => s.xbNext + 1 + i) := by
    refine if_neg ?_
    rw [memKey_plan]
    show ¬(!s.tidRoom (e / 256) write (s.ember e).planned) = true
    rw [h]
    decide
  have hput := (xbPuts_granted (s.memKey e ga n write since) (partsOf (localOf ga) n) s).booked
  rw [memAsk_xbAsk, hask]
  generalize forAll (partsOf (localOf ga) n) (fun x t => t.xbPut (s.memKey e ga n write since) x.1 x.2) s = u at *
  refine ⟨_, congrArg some (Prod.ext rfl ?_), ?_⟩
  · rw [hl]
    show ((List.range (l.length + 1)).map fun i => s.xbNext + 1 + i).headD 0 = s.xbNext + 1
    rw [List.range_succ_eq_map]
    rfl
  · dsimp only
    split
    · exact ⟨hput.trans (fenDraw_booked ..), fenDraw_xb ..⟩
    · exact ⟨hput, rfl⟩

/-! ### Nothing astir -/

/-- `t` differs from `s` at most in the clock and in the units' sides. -/
def Paced (s t : State) : Prop := t = { s with clk := t.clk, cyc := t.cyc, sides := t.sides }

theorem Paced.trans {s t u : State} (h : Paced s t) (k : Paced t u) : Paced s u := by
  unfold Paced at *
  rw [h] at k
  exact k

theorem Paced.astir {s t : State} (h : Paced s t) : t.astir = s.astir := by
  rw [h]
  rfl

theorem toClk_paced {s : State} (h : s.astir = false) (c : Nat) : Paced s (s.toClk c) := by
  have := toClk_calm h c
  unfold Paced
  rw [this]

theorem takePort_paced {s : State} (h : s.astir = false) (a : Nat) : Paced s (s.takePort a) := by
  unfold State.takePort
  split
  · rfl
  · exact (toClk_paced h _).trans rfl

/-- With nothing astir every request has been granted. -/
theorem xbGot_calm {s : State} (h : s.astir = false) (id : Nat) : (s.xbGot id).isSome = true := by
  unfold State.astir at h
  simp only [Bool.or_eq_false_iff] at h
  unfold State.xbGot
  split
  · rfl
  · rename_i r hr
    have hr := List.mem_of_find?_eq_some hr
    cases hg : r.got with
    | some c => rfl
    | none =>
      have : (s.xb.any fun r => r.got.isNone) = true := List.any_eq_true.mpr ⟨r, hr, by rw [hg]; rfl⟩
      rw [this] at h
      exact absurd h.2 (by decide)

theorem untilGot_calm {s : State} (h : s.astir = false) (id : Nat) : s.untilGot id = s := runUntil_now (xbGot_calm h id) 4096

theorem mem_mput {α : Type} [DecidableEq α] {d : α} {k : Nat} {v : α} {m : List (Nat × α)} {x : Nat × α} (h : x ∈ mput d k v m) :
    x ∈ m ∨ x = (k, v) := by
  unfold mput at h
  split at h
  · exact .inl (List.mem_filter.mp h).1
  · exact (mem_minsert h).symm.imp_left fun h => (List.mem_filter.mp h).1

/-- No ember of the state has a copy under way. -/
def State.noReeds (s : State) : Prop := (s.embers.any fun e => !e.2.reeds.isEmpty) = false

theorem setEmber_noReeds {s : State} (h : s.noReeds) {e : Nat} {m : Ember} (hm : m.reeds = (s.ember e).reeds) : (s.setEmber e m).noReeds := by
  unfold State.noReeds at h ⊢
  rw [List.any_eq_false] at h ⊢
  have hreeds : (s.ember e).reeds = [] := by
    by_cases hd : s.ember e = {}
    · rw [hd]
    · simpa [State.ember] using h _ (mem_of_mget (d := ({} : Ember)) hd)
  intro x hx
  rcases mem_mput hx with hx | rfl
  · exact h x hx
  · simp [hm, hreeds]

/-- An ember whose copies do not change stirs nothing. -/
theorem setEmber_astir {s : State} (h : s.astir = false) {e : Nat} {m : Ember} (hm : m.reeds = (s.ember e).reeds) :
    (s.setEmber e m).astir = false := by
  unfold State.astir at h ⊢
  simp only [Bool.or_eq_false_iff] at h ⊢
  obtain ⟨⟨⟨hf, hc⟩, hr⟩, hx⟩ := h
  exact ⟨⟨⟨hf, hc⟩, setEmber_noReeds hr hm⟩, hx⟩

/-! ### An ember that faults -/

/-- Where the ember's life ends it faults, or drains first. -/
def EmberEnded (s : State) (e : Nat) (t : State) : Prop :=
  ((t.ember e).live = false ∨ (t.ember e).draining = true) ∧ t.fld .EMB_FAULT_COUNT = s.fld .EMB_FAULT_COUNT + 1

theorem Reported.live {fs : List Fld} {s t : State} (h : Reported fs s t) (e : Nat) : (t.ember e).live = (s.ember e).live :=
  (congrArg Ember.live (h.windows e) :)

theorem tryFree_ended_or_drains {s : State} {e : Nat} (h : (s.ember e).draining = true) :
    ((s.tryFree e).ember e).live = false ∨ ((s.tryFree e).ember e).draining = true := by
  unfold State.tryFree
  dsimp only
  split
  · left
    have hfree : ((s.freeEmber e).ember e).live = false := congrArg Ember.live (setEmber_ember_same ..)
    generalize s.freeEmber e = u at *
    exact ((Reported.on (complete_reported u _ _)).live e).trans hfree
  · exact .inr h

theorem tryFree_faults (s : State) (e : Nat) : (s.tryFree e).fld .EMB_FAULT_COUNT = s.fld .EMB_FAULT_COUNT := by
  unfold State.tryFree
  have h : (s.freeEmber e).fld .EMB_FAULT_COUNT = s.fld .EMB_FAULT_COUNT := rfl
  dsimp only
  split
  · exact ((Reported.on (complete_reported (s.freeEmber e) _ _)).fld (by decide) 0).trans h
  · rfl

/-- A draining ember's record is posted, and the ember goes once nothing of it is on its way. -/
theorem drained_ends {s : State} {e : Nat} (h : (s.ember e).draining = true) (x : Ctx) (z : End) :
    ((((s.complete x z).tryFree e).ember e).live = false ∨ (((s.complete x z).tryFree e).ember e).draining = true) ∧
      ((s.complete x z).tryFree e).fld .EMB_FAULT_COUNT = s.fld .EMB_FAULT_COUNT := by
  have hrep := complete_reported s x z
  have hdr : ((s.complete x z).ember e).draining = true := (congrArg Ember.draining (hrep.windows e) :).trans h
  exact ⟨tryFree_ended_or_drains hdr, (tryFree_faults _ e).trans (hrep.fld (by decide) 0)⟩

theorem emberFail_ends {s : State} {e : Nat} (m : Ember) (pc : Nat) (z : End)
    (hn : s.fld .EMB_FAULT_COUNT + 1 < 2 ^ Fld.width .EMB_FAULT_COUNT) : EmberEnded s e (s.emberFail e m pc z) := by
  have hcount := bump_fld_self hn
  unfold State.emberFail
  generalize s.bump .EMB_FAULT_COUNT = u at *
  extract_lets y reeds s₁ s₂
  have hm : (s₂.ember e).draining = true := (congrArg Ember.draining (setEmber_ember_same u e _) :)
  have hf : s₂.fld .EMB_FAULT_COUNT = u.fld .EMB_FAULT_COUNT := fld_of_reg rfl _ _
  obtain ⟨hend, hfld⟩ := drained_ends hm y z
  exact ⟨hend, (hfld.trans hf).trans hcount⟩

/-- An instruction that fails a check ends its ember, and counts. -/
theorem emberFlaw_ends {s : State} {e : Nat} (m : Ember) (pc : Nat) (f : Flaw)
    (hn : s.fld .EMB_FAULT_COUNT + 1 < 2 ^ Fld.width .EMB_FAULT_COUNT) : EmberEnded s e (s.emberFlaw e m pc f) := by
  have h₀ : (s.countFlaw f).fld .EMB_FAULT_COUNT = s.fld .EMB_FAULT_COUNT := (countSeal_reported s f.cause).fld (by decide) 0
  rw [← h₀] at hn
  obtain ⟨hend, hcount⟩ := emberFail_ends (e := e) m pc f.toEnd hn
  exact ⟨hend, hcount.trans (congrArg (· + 1) h₀)⟩

end Sys2Proof.Machine
end

section
/-! PROOF. Loads and the return of their data (R262, R263, R266, R268, R274, R402). -/

namespace Sys2Proof.Machine

/-! ### The bytes of a load in the registers -/

theorem setWide_rest (m : Ember) (i : Nat) (bs : List Byte) (k : Nat) : m.setWide i bs k = { m with regs := (m.setWide i bs k).regs } := by
  induction k generalizing m i bs with
  | zero => rfl
  | succ k ih =>
    unfold Ember.setWide
    rw [ih, setA_rest m i]

theorem setWide_below (m : Ember) {i j : Nat} (bs : List Byte) (k : Nat) (h : j < i ∨ i + k ≤ j) : (m.setWide i bs k).a j = m.a j := by
  induction k generalizing m i bs with
  | zero => rfl
  | succ k ih =>
    unfold Ember.setWide
    rw [ih _ _ (by omega), setA_a, if_neg (by omega)]

theorem leNat_lt (bs : List Byte) : leNat bs < 256 ^ bs.length := by
  induction bs with
  | nil => decide
  | cons b bs ih =>
    have hb := b.isLt
    rw [leNat, List.length_cons, Nat.pow_succ]
    omega

theorem setWide_a (m : Ember) {i : Nat} (bs : List Byte) {k j : Nat} (hj : j < k) (h0 : i + j ≠ 0) :
    (m.setWide i bs k).a (i + j) = leNat ((bs.drop (8 * j)).take 8) := by
  induction k generalizing m i bs j with
  | zero => omega
  | succ k ih =>
    unfold Ember.setWide
    cases j with
    | zero =>
      have hlt := leNat_lt (bs.take 8)
      have hlen : (bs.take 8).length ≤ 8 := List.length_take_le 8 bs
      have hpow : 256 ^ (bs.take 8).length ≤ 256 ^ 8 := Nat.pow_le_pow_right (by decide) hlen
      rw [setWide_below _ _ _ (by omega), setA_a, if_pos (by omega), Nat.mod_eq_of_lt (by omega)]
      rfl
    | succ j =>
      have hadd : i + (j + 1) = i + 1 + j := by omega
      rw [hadd, ih _ _ (by omega) (by omega), List.drop_drop]
      exact congrArg (fun x => leNat ((bs.drop x).take 8)) (by omega)

theorem loaded_rest (m : Ember) (rd wid : Nat) (sg : Bool) (bs : List Byte) :
    m.loaded rd wid sg bs = { m with regs := (m.loaded rd wid sg bs).regs } := by
  unfold Ember.loaded
  split
  · exact setA_rest ..
  · exact setWide_rest ..

/-- The sign of a number of `n` bits carried to 64. -/
theorem signExtended (n v : Nat) (hn : n ≤ 64) (hv : v < 2 ^ n) :
    ((BitVec.ofNat n v).signExtend 64).toNat = (if v.testBit (n - 1) then v + 2 ^ 64 - 2 ^ n else v) % 2 ^ 64 := by
  have hpow : 2 ^ n ≤ 2 ^ 64 := Nat.pow_le_pow_right (by decide) hn
  have hmsb : (BitVec.ofNat n v).msb = v.testBit (n - 1) := by
    rw [BitVec.msb_eq_getLsbD_last, BitVec.getLsbD, BitVec.toNat_ofNat, Nat.mod_eq_of_lt hv]
  rw [BitVec.toNat_signExtend, BitVec.toNat_setWidth, BitVec.toNat_ofNat, hmsb, Nat.mod_eq_of_lt hv, Nat.mod_eq_of_lt (by omega)]
  split <;> omega

/-- A load of up to 8 bytes writes one register. -/
theorem loaded_small {m : Ember} {rd wid : Nat} {sg : Bool} {bs : List Byte} (hw : wid ≤ 3) (hl : bs.length = 2 ^ wid) (i : Nat) :
    (m.loaded rd wid sg bs).a i = if i = rd ∧ i ≠ 0 then
      (if sg then ((BitVec.ofNat (8 * 2 ^ wid) (leNat bs)).signExtend 64).toNat else leNat bs) else m.a i := by
  have hlt : leNat bs < 2 ^ (8 * 2 ^ wid) := by
    have := leNat_lt bs
    rw [hl] at this
    calc leNat bs < 256 ^ 2 ^ wid := this
      _ = 2 ^ (8 * 2 ^ wid) := by rw [Nat.pow_mul]
  have h8 : 2 ^ wid ≤ 2 ^ 3 := Nat.pow_le_pow_right (by decide) hw
  have hpos : 0 < 2 ^ wid := Nat.two_pow_pos wid
  have hpow : 2 ^ (8 * 2 ^ wid) ≤ 2 ^ 64 := Nat.pow_le_pow_right (by decide) (by omega)
  unfold Ember.loaded
  rw [if_pos hw]
  dsimp only
  rw [setA_a]
  refine if_congr Iff.rfl ?_ rfl
  cases sg with
  | false => exact Nat.mod_eq_of_lt (show leNat bs < 2 ^ 64 by omega)
  | true =>
    rw [if_pos rfl, signExtended _ _ (by omega) hlt]
    by_cases h2 : wid ≤ 2
    · simp [h2]
    · have h3 : wid = 3 := by omega
      subst h3
      simp

theorem cached_length {c : List (Nat × Byte)} {a n : Nat} {bs : List Byte} (h : cached c a n = some bs) : bs.length = n := by
  induction n generalizing a bs with
  | zero =>
    cases h
    rfl
  | succ n ih =>
    unfold cached at h
    split at h
    · cases h
    · obtain ⟨r, hr, rfl⟩ := Option.map_eq_some_iff.mp h
      exact congrArg (· + 1) (ih hr)

/-! ### What an issue cycle does not change -/

section
variable (p : State) (e : Nat)

theorem spend_accessFlds : ∀ f ∈ accessFlds, ∀ i, (p.spend e).fld f i = p.fld f i := fun f _ i => fld_of_reg (spend_reg p e) f i

theorem spend_memCheck (q ga n : Nat) (k : AKind) : (p.spend e).memCheck q ga n k = p.memCheck q ga n k := by
  unfold State.memCheck
  rw [access_congr (spend_accessFlds p e) (spend_plans p e)]

theorem spend_onChip (ga : Nat) : (p.spend e).onChip ga = p.onChip ga := onChip_congr (spend_accessFlds p e) ga

theorem mayAccess_congr {s t : State} (h : t.onChip = s.onChip) (m : Ember) (ga n : Nat) : t.mayAccess m ga n = s.mayAccess m ga n := by
  unfold State.mayAccess State.slHolds
  rw [h]

theorem spend_mayAccess (m : Ember) (ga n : Nat) : (p.spend e).mayAccess (m.atIssue p.clk) ga n = p.mayAccess m ga n :=
  mayAccess_congr (funext (spend_onChip p e)) m ga n

theorem spend_tidRoom (m : Nat) (write planned : Bool) : (p.spend e).tidRoom m write planned = p.tidRoom m write planned :=
  tidRoom_congr rfl rfl rfl rfl m write planned

theorem spend_ember {m : Ember} (hm : m = p.ember e) : (p.spend e).ember e = m.atIssue p.clk := hm ▸ setEmber_ember_same ..

theorem spend_emberTag : (p.spend e).emberTag e = p.emberTag e :=
  (congrArg (fun m : Ember => m.incarn * 2048 + e) (spend_ember p e rfl) :)

theorem spend_emberRemote : (p.spend e).emberRemote e = p.emberRemote e := by
  unfold State.emberRemote
  rw [spend_emberTag, spend_ember p e rfl]
  rfl

theorem spend_farStore (ga n : Nat) : (p.spend e).farStore e ga n = p.farStore e ga n := by
  unfold State.farStore
  rw [spend_ember p e rfl, spend_emberTag]
  rfl

end

/-! ### The load's issue -/

section
variable {s p u t : State} {e : Nat} {m old : Ember} {w : Word128} {cq : Bool}

/-- What another step before it left alone, an instruction leaves alone. -/
theorem Issued.of_base (h : Issued u e m cq t) (hother : ∀ k, k ≠ e → u.ember k = p.ember k) (hmem : u.mem = p.mem) (hreg : u.reg = p.reg) :
    Issued p e m cq t :=
  ⟨h.ember, fun hcq k hk => (h.other hcq k hk).trans (hother k hk), fun hcq => (h.mem hcq).trans hmem, fun hcq => (h.reg hcq).trans hreg⟩

theorem block_eq {wt : Wait} (hpc : s.pcCheck m.hearth (old.pc + 16) = .ok ()) :
    s.block e old m wt = s.setEmber e { m with pc := old.pc + 16, win := old.win.drop 1, wait := wt } := by
  unfold State.block
  rw [hpc]

/-- What `ld` does in its issue cycle. -/
def ldIssue (e : Nat) (s : State) (m : Ember) (w : Word128) : Option State :=
  let ga := add64 (m.a (wRs1 w)) (wImm w)
  let n := 2 ^ wWid w
  match s.memCheck m.hearth ga n .r with
  | .error f => some (s.emberFlaw e m m.pc f)
  | .ok _ =>
    let wt := Wait.load ga (wWid w) (wRd w) ((wFunc w).testBit 0) (wCq w) (s.loadDue e ga)
    if s.onChip ga then
      if !s.mayAccess m ga n then some (s.block e m m (wt none))
      else match s.memAsk e ga n false s.clk with
        | none => if m.planned then some ((s.stall e).tidMiss e) else none
        | some r => some (r.1.block e m m (wt (some r.2)))
    else if s.farStore e ga n then none
    else match s.postRead ga n (s.emberRemote e) with
      | (s, .sent) => some (s.block e m m (wt none))
      | (_, .wait) => none
      | (s, .absent) => some (s.emberFlaw e m m.pc { cause := 0x21, addr := ga, len := n })

theorem execLd_eq (e : Fin 2048) (s : State) : exec (.ld e) s = live s fun s => s.issue0 e 0x02 (ldIssue e) := rfl

section
variable {ga n : Nat} (hga : ga = add64 (m.a (wRs1 w)) (wImm w)) (hn : n = 2 ^ wWid w)
include hga hn

/-- An own store or an `order.sl` holds a local load. -/
theorem ldIssue_held (hc : s.memCheck m.hearth ga n .r = .ok ()) (hon : s.onChip ga = true) (hmay : s.mayAccess m ga n = false) :
    ldIssue e s m w = some (s.block e m m (.load ga (wWid w) (wRd w) ((wFunc w).testBit 0) (wCq w) (s.loadDue e ga) none)) := by
  subst hga hn
  unfold ldIssue
  dsimp only
  rw [hc]
  dsimp only
  rw [hon, if_pos rfl, hmay]
  rfl

theorem ldIssue_asks {v : State} {id : Nat} (hc : s.memCheck m.hearth ga n .r = .ok ()) (hon : s.onChip ga = true)
    (hmay : s.mayAccess m ga n = true) (hask : s.memAsk e ga n false s.clk = some (v, id)) :
    ldIssue e s m w = some (v.block e m m (.load ga (wWid w) (wRd w) ((wFunc w).testBit 0) (wCq w) (s.loadDue e ga) (some id))) := by
  subst hga hn
  unfold ldIssue
  dsimp only
  rw [hc]
  dsimp only
  rw [hon, if_pos rfl, hmay, hask]
  rfl

/-- An open load without a TID issues again. -/
theorem ldIssue_again (hc : s.memCheck m.hearth ga n .r = .ok ()) (hon : s.onChip ga = true) (hmay : s.mayAccess m ga n = true)
    (hask : s.memAsk e ga n false s.clk = none) (hopen : m.planned = false) : ldIssue e s m w = none := by
  subst hga hn
  unfold ldIssue
  dsimp only
  rw [hc]
  dsimp only
  rw [hon, if_pos rfl, hmay, hask, hopen]
  rfl

theorem ldIssue_remote {v : State} (hc : s.memCheck m.hearth ga n .r = .ok ()) (hon : s.onChip ga = false) (hfar : s.farStore e ga n = false)
    (hpost : s.postRead ga n (s.emberRemote e) = (v, .sent)) :
    ldIssue e s m w = some (v.block e m m (.load ga (wWid w) (wRd w) ((wFunc w).testBit 0) (wCq w) (s.loadDue e ga) none)) := by
  subst hga hn
  unfold ldIssue
  dsimp only
  rw [hc]
  dsimp only
  rw [hon, if_neg Bool.false_ne_true, hfar, if_neg Bool.false_ne_true, hpost]

theorem ldIssue_faults {f : Flaw} (hc : s.memCheck m.hearth ga n .r = .error f) : ldIssue e s m w = some (s.emberFlaw e m m.pc f) := by
  subst hga hn
  unfold ldIssue
  dsimp only
  rw [hc]

end

theorem handOver_links (s : State) (n : Nat) (f : Frame) (x : Remote) : s.handOver n f x = { s with links := (s.handOver n f x).links } := by
  unfold State.handOver State.on
  dsimp only
  split <;> rfl

/-- What a READ frame that has left changes. -/
theorem postRead_sent {s v : State} {ga n : Nat} {x : Remote} (h : s.postRead ga n x = (v, .sent)) :
    v.reg = s.reg ∧ v.plans = s.plans ∧ v.mem = s.mem ∧ v.embers = s.embers := by
  unfold State.postRead at h
  split at h
  · cases h
  · split at h
    · cases h
    · have hl (k : Nat) (f : Frame) := handOver_links s k f x
      cases h
      exact ⟨(congrArg State.reg (hl _ _) :), (congrArg State.plans (hl _ _) :), (congrArg State.mem (hl _ _) :), (congrArg State.embers (hl _ _) :)⟩

theorem xbPut_xb (s : State) (k : Ask) (a n : Nat) : ∃ r, (s.xbPut k a n).xb = s.xb ++ [r] ∧ r.id = s.xbNext + 1 ∧ r.master = k.master ∧
    r.write = k.write ∧ r.port = localPort a ∧ r.got = none := ⟨_, rfl, rfl, rfl, rfl, rfl, rfl⟩

/-- The width of a load or store that its word's checks let through. -/
theorem check0_width {q : Nat} (hc : s.check0 q w = .ok ()) (hw : wordOpc w = 0x02 ∨ wordOpc w = 0x03) : wWid w < 7 := by
  unfold State.check0 at hc
  obtain ⟨-, -, hc⟩ := chk_bind hc
  obtain ⟨_, hv, -⟩ := chk_bind hc
  have hv := (Bool.and_eq_true_iff.mp (need_ok hv)).2
  unfold valueOk0 at hv
  rcases hw with hw | hw
  · rw [hw] at hv
    exact of_decide_eq_true hv
  · rw [hw] at hv
    exact of_decide_eq_true hv

/-- An access that its checks let through is aligned, and lies behind one port. -/
theorem memCheck_onePart {q ga wid : Nat} {k : AKind} (hwid : wid < 7) (hc : s.memCheck q ga (2 ^ wid) k = .ok ()) :
    partsOf (localOf ga) (2 ^ wid) = [(localOf ga, 2 ^ wid)] := by
  unfold State.memCheck at hc
  obtain ⟨_, hal, -⟩ := chk_bind hc
  have hdvd : 2 ^ wid ∣ ga := Nat.dvd_of_mod_eq_zero (of_decide_eq_true (need_ok hal))
  have h64 : 2 ^ wid ∣ 64 := Nat.pow_dvd_pow 2 (show wid ≤ 6 by omega)
  have h48 : 2 ^ wid ∣ 2 ^ 48 := Nat.pow_dvd_pow 2 (by omega)
  exact partsOf_aligned h64 ((Nat.dvd_mod_iff h48).mpr hdvd) (Nat.two_pow_pos wid)

/-- A load waits for its data, its PC after it. -/
def Loading (p : State) (e : Nat) (m : Ember) (w : Word128) (t : State) (req : Option Nat) : Prop :=
  (t.ember e).pc = m.pc + 16 ∧
    (∃ due, (t.ember e).wait =
      .load ((m.a (wRs1 w) + wImm w) % 2 ^ 64) (wWid w) (wRd w) ((wFunc w).testBit 0) (wCq w) due req) ∧ (∀ i, (t.ember e).a i = m.a i) ∧
    (∀ k, k ≠ e → t.ember k = p.ember k) ∧ (∀ a, t.byte a = p.byte a) ∧ ∀ f i, t.fld f i = p.fld f i

/-- The command of a load that blocks on `u`, the state of its issue cycle with its request. -/
theorem load_blocks {due : Nat} {req : Option Nat} (hrun : s.power = .run) (hr : s.ready e = (p, some (m, some w)))
    (hw : wordOpc w = 0x02) (hc : p.check0 m.hearth w = .ok ()) (hpc : p.pcCheck m.hearth (m.pc + 16) = .ok ())
    (hreg : u.reg = p.reg) (hplans : u.plans = p.plans) (hmem : u.mem = p.mem) (hother : ∀ k, k ≠ e → u.ember k = p.ember k)
    (hF : ldIssue e (p.spend e) (m.atIssue p.clk) w = some (u.block e (m.atIssue p.clk) (m.atIssue p.clk)
      (.load ((m.a (wRs1 w) + wImm w) % 2 ^ 64) (wWid w) (wRd w) ((wFunc w).testBit 0) (wCq w) due req))) :
    ∃ t, live s (fun s => s.issue0 e 0x02 (ldIssue e)) = .next t ∧ Loading p e m w t req ∧ t.xb = u.xb ∧ t.reads = u.reads ∧
      t.links = u.links := by
  have hpc' : u.pcCheck (m.atIssue p.clk).hearth ((m.atIssue p.clk).pc + 16) = .ok () :=
    (pcCheck_congr (fun f _ i => fld_of_reg hreg f i) hplans m.hearth (m.pc + 16)).trans hpc
  have heq := (issue0_of_ready hr hw hc (ldIssue e)).trans (congrArg (·.getD (p.stall e)) hF)
  obtain ⟨t, ht, hran⟩ := live_ran hrun fun s => s.issue0 e 0x02 (ldIssue e)
  rw [heq] at hran
  dsimp only [Option.getD_some] at hran
  rw [block_eq hpc'] at hran
  have hem := (hran.ember e).trans (setEmber_ember_same u e _)
  refine ⟨t, ht, ⟨?_, ⟨due, ?_⟩, fun i => ?_, fun k hk => ?_, fun a => ?_, fun f i => ?_⟩, hran.xb, hran.reads,
    (congrArg State.links hran.rest :)⟩
  · exact (congrArg Ember.pc hem :)
  · exact (congrArg Ember.wait hem :)
  · exact (congrArg (Ember.a · i) hem :)
  · exact ((hran.ember k).trans (setEmber_ember_other u hk _)).trans (hother k hk)
  · exact (hran.byte a).trans (congrArg (mget 0 a) hmem)
  · exact (hran.fld f i).trans (fld_of_reg hreg f i)

end

/-- The issue clauses of O51. -/
theorem ld_issues (s p : State) (e : Fin 2048) (m : Ember) (w : Word128) (hrun : s.power = .run) (hr : s.ready e = (p, some (m, some w)))
    (hw : wordOpc w = 0x02) (hc : p.check0 m.hearth w = .ok ()) (hpc : p.pcCheck m.hearth (m.pc + 16) = .ok ()) :
    let ga := (m.a (wRs1 w) + wImm w) % 2 ^ 64
    let n := 2 ^ wWid w
    (p.memCheck m.hearth ga n .r = .ok () → p.onChip ga = true →
      (p.mayAccess m ga n = false → ∃ t, exec (.ld e) s = .next t ∧ Loading p e m w t none ∧ t.xb = p.xb) ∧
      (p.mayAccess m ga n = true → p.tidRoom (e.val / 256) false m.planned = true →
        ∃ t r, exec (.ld e) s = .next t ∧ Loading p e m w t (some (p.xbNext + 1)) ∧ t.xb = p.xb ++ [r] ∧ r.id = p.xbNext + 1 ∧
          r.master = e.val / 256 ∧ r.write = false ∧ r.port = localPort (localOf ga) ∧ r.got = none) ∧
      (p.mayAccess m ga n = true → p.tidRoom (e.val / 256) false m.planned = false → m.planned = false →
        ∃ t, exec (.ld e) s = .next t ∧ (t.ember e).pc = m.pc ∧ (t.ember e).wait = .none ∧ (∀ i, (t.ember e).a i = m.a i) ∧ t.xb = p.xb ∧
          (∀ a, t.byte a = p.byte a) ∧ ∀ f i, t.fld f i = p.fld f i)) ∧
    (∀ q, p.memCheck m.hearth ga n .r = .ok () → p.onChip ga = false → p.farStore e ga n = false →
      (p.spend e).postRead ga n (p.emberRemote e) = (q, .sent) →
      ∃ t, exec (.ld e) s = .next t ∧ Loading p e m w t none ∧ t.reads = q.reads ∧ t.links = q.links) ∧
    (∀ f, p.memCheck m.hearth ga n .r = .error f → p.fld .EMB_FAULT_COUNT + 1 < 2 ^ Fld.width .EMB_FAULT_COUNT →
      ∃ t, exec (.ld e) s = .next t ∧ ((t.ember e).live = false ∨ (t.ember e).draining = true) ∧
        t.fld .EMB_FAULT_COUNT = p.fld .EMB_FAULT_COUNT + 1) := by
  intro ga n
  obtain ⟨hm, -, -, hwait⟩ := (ready_spec hr).1 m _ rfl
  have hother (k : Nat) (hk : k ≠ e.val) : (p.spend e).ember k = p.ember k := setEmber_ember_other _ hk _
  have hchk {c : Chk Unit} (h : p.memCheck m.hearth ga n .r = c) : (p.spend e).memCheck (m.atIssue p.clk).hearth ga n .r = c :=
    (spend_memCheck p e m.hearth ga n .r).trans h
  have hmay {b : Bool} (h : p.mayAccess m ga n = b) : (p.spend e).mayAccess (m.atIssue p.clk) ga n = b := (spend_mayAccess p e m ga n).trans h
  have htid {b : Bool} (h : p.tidRoom (e.val / 256) false m.planned = b) :
      (p.spend e).tidRoom (e.val / 256) false ((p.spend e).ember e).planned = b := by
    rw [spend_tidRoom, spend_ember p e hm]
    exact h
  rw [execLd_eq]
  refine ⟨fun hmc hon => ⟨fun hacc => ?_, fun hacc hroom => ?_, fun hacc hroom hopen => ?_⟩, fun q hmc hon hfar hpost => ?_, fun f hmc hcnt => ?_⟩
  · obtain ⟨t, ht, hl, hxb, -⟩ := load_blocks (u := p.spend e) hrun hr hw hc hpc rfl rfl rfl hother
      (ldIssue_held (m := m.atIssue p.clk) rfl rfl (hchk hmc) ((spend_onChip p e ga).trans hon) (hmay hacc))
    exact ⟨t, ht, hl, hxb⟩
  · have hone := memCheck_onePart (check0_width hc (.inl hw)) hmc
    obtain ⟨v, hask, hbook, hxb⟩ := memAsk_some (s := p.spend e) (ga := ga) (n := n) (since := (p.spend e).clk) (htid hroom)
      (by rw [hone]; exact List.cons_ne_nil _ _)
    obtain ⟨r, hput, hid, hmaster, hwrite, hport, hgot⟩ :=
      xbPut_xb (p.spend e) ((p.spend e).memKey e ga n false (p.spend e).clk) (localOf ga) n
    obtain ⟨t, ht, hl, htxb, -⟩ := load_blocks (u := v) hrun hr hw hc hpc hbook.reg hbook.plans hbook.mem
      (fun k hk => (by rw [hbook]; rfl : v.ember k = (p.spend e).ember k).trans (hother k hk))
      (ldIssue_asks (m := m.atIssue p.clk) rfl rfl (hchk hmc) ((spend_onChip p e ga).trans hon) (hmay hacc) hask)
    rw [hone] at hxb
    exact ⟨t, r, ht, hl, (htxb.trans hxb).trans hput, hid, hmaster, hwrite, hport, hgot⟩
  · have heq := (issue0_of_ready hr hw hc (ldIssue e)).trans (congrArg (·.getD (p.stall e))
      (ldIssue_again (m := m.atIssue p.clk) rfl rfl (hchk hmc) ((spend_onChip p e ga).trans hon) (hmay hacc) (memAsk_none (htid hroom)) hopen))
    obtain ⟨t, ht, hran⟩ := live_ran hrun fun s => s.issue0 e 0x02 (ldIssue e)
    rw [heq] at hran
    have hem : t.ember e = { p.ember e with next := p.clk + 1 } := (hran.ember e).trans (setEmber_ember_same ..)
    rw [hm] at hwait ⊢
    exact ⟨t, ht, (congrArg Ember.pc hem :), (congrArg Ember.wait hem :).trans hwait, fun i => (congrArg (Ember.a · i) hem :), hran.xb,
      hran.byte, hran.fld⟩
  · obtain ⟨hreg, hplans, hmem, hem⟩ := postRead_sent hpost
    obtain ⟨t, ht, hl, -, hreads, hlinks⟩ := load_blocks (u := q) hrun hr hw hc hpc hreg hplans hmem
      (fun k hk => (congrArg (mget ({} : Ember) k) hem).trans (hother k hk))
      (ldIssue_remote (m := m.atIssue p.clk) rfl rfl (hchk hmc) ((spend_onChip p e ga).trans hon) ((spend_farStore p e ga n).trans hfar)
        (by rw [spend_emberRemote]; exact hpost))
    exact ⟨t, ht, hl, hreads, hlinks⟩
  · have heq := (issue0_of_ready hr hw hc (ldIssue e)).trans (congrArg (·.getD (p.stall e))
      (ldIssue_faults (m := m.atIssue p.clk) rfl rfl (hchk hmc)))
    obtain ⟨t, ht, hran⟩ := live_ran hrun fun s => s.issue0 e 0x02 (ldIssue e)
    rw [heq] at hran
    have hcnt' : (p.spend e).fld .EMB_FAULT_COUNT = p.fld .EMB_FAULT_COUNT := fld_of_reg (spend_reg p e) _ _
    obtain ⟨hend, hcount⟩ := emberFlaw_ends (e := e.val) (m.atIssue p.clk) m.pc f (by rw [hcnt']; exact hcnt)
    refine ⟨t, ht, ?_, (hran.fld _ _).trans (hcount.trans (congrArg (· + 1) hcnt'))⟩
    rw [hran.ember]
    exact hend

end Sys2Proof.Machine
end

section
/-! PROOF. The data of a load reaches its pipe (R112, R266, R268, R402). -/

namespace Sys2Proof.Machine

section
variable {s t : State} {e : Nat}

theorem Paced.reg (h : Paced s t) : t.reg = s.reg := by rw [h]
theorem Paced.mem (h : Paced s t) : t.mem = s.mem := by rw [h]
theorem Paced.embers (h : Paced s t) : t.embers = s.embers := by rw [h]
theorem Paced.ember (h : Paced s t) (k : Nat) : t.ember k = s.ember k := congrArg (mget ({} : Ember) k) h.embers
theorem Paced.byte (h : Paced s t) (a : Nat) : t.byte a = s.byte a := congrArg (mget 0 a) h.mem
theorem Paced.bytes (h : Paced s t) (a n : Nat) : t.bytes a n = s.bytes a n := by
  unfold State.bytes
  exact List.map_congr_left fun k _ => h.byte (a + k)

theorem Paced.issued {m : Ember} {cq : Bool} {u : State} (h : Paced s t) (k : Issued t e m cq u) : Issued s e m cq u :=
  k.of_base (fun j _ => h.ember j) h.mem h.reg

end

section
variable {s : State} {e ga wid rd due id : Nat} {sg cq : Bool} {m : Ember}

/-- The load waits for request `id`. -/
def State.waitFor (s : State) (e ga wid rd due id : Nat) (sg cq : Bool) : State :=
  s.setEmber e { s.ember e with wait := .load ga wid rd sg cq due (some id) }

/-- In the cycle in which a granted load's data is taken: its end at cycle `back`, or its fault. -/
def State.loadData (s : State) (e ga wid rd back : Nat) (sg cq : Bool) : State :=
  if s.fenced (localOf ga) (2 ^ wid) then s.emberFlaw e (s.ember e) (s.ember e).waitPc { cause := 0x0F, addr := ga, len := 2 ^ wid }
  else
    let r := s.localRead (localOf ga) (2 ^ wid)
    let s := r.1.toClk back
    s.unblock e ((s.ember e).loaded rd wid sg r.2) (s.clk + 2) cq false

theorem loadReturn_sampled (hwait : (s.ember e).wait = .load ga wid rd sg cq due (some id)) (hon : s.onChip ga = true) (hcalm : s.astir = false) :
    ∃ u back, Paced (s.waitFor e ga wid rd due id sg cq) u ∧ s.loadReturn e = u.loadData e ga wid rd back sg cq := by
  have hcalm' : (s.waitFor e ga wid rd due id sg cq).astir = false := setEmber_astir hcalm rfl
  have hgot := Option.isNone_eq_false_iff.mpr (xbGot_calm hcalm' id)
  have huntil := untilGot_calm hcalm' id
  unfold State.loadReturn
  dsimp only
  rw [hwait]
  dsimp only
  rw [hon, if_pos rfl]
  unfold State.waitFor at *
  dsimp only at *
  generalize s.setEmber e { s.ember e with wait := .load ga wid rd sg cq due (some id) } = v at *
  rw [huntil, hgot]
  have h := toClk_paced hcalm' (v.xbDue id (v.sampleLat ga))
  exact ⟨_, _, h.trans (takePort_paced (h.astir.trans hcalm') (localOf ga)), rfl⟩

/-- Away from fenced channels and the mirror the load's data is what memory holds. -/
theorem loadData_loaded {back : Nat} (hcalm : s.astir = false) (hf : s.fenced (localOf ga) (2 ^ wid) = false)
    (hmir : regionOf (localOf ga) ≠ some .mirror) :
    ∃ u, Paced s u ∧ s.loadData e ga wid rd back sg cq =
      u.unblock e ((u.ember e).loaded rd wid sg (s.bytes (localOf ga) (2 ^ wid))) (u.clk + 2) cq false := by
  have hread : s.localRead (localOf ga) (2 ^ wid) = (s, s.bytes (localOf ga) (2 ^ wid)) := if_neg hmir
  refine ⟨s.toClk back, toClk_paced hcalm back, ?_⟩
  unfold State.loadData
  rw [hf, if_neg Bool.false_ne_true, hread]

theorem loadReturn_remote {bs : List Byte} {req : Option Nat} (hwait : (s.ember e).wait = .load ga wid rd sg cq due req)
    (hon : s.onChip ga = false) (hc : cached (s.ember e).cache ga (2 ^ wid) = some bs) :
    s.loadReturn e = s.unblock e ((s.ember e).loaded rd wid sg bs) (max s.clk due + 2) cq false := by
  unfold State.loadReturn
  dsimp only
  rw [hwait]
  dsimp only
  rw [hon, if_neg Bool.false_ne_true, hc]

theorem waitFor_ember (hwait : (s.ember e).wait = .load ga wid rd sg cq due (some id)) (k : Nat) :
    (s.waitFor e ga wid rd due id sg cq).ember k = s.ember k := by
  by_cases hk : k = e
  · rw [hk]
    refine (setEmber_ember_same ..).trans ?_
    rw [← hwait]
  · exact setEmber_ember_other s hk _

/-- The data that a waiting load gets, at hand or from another node, ends in its registers. -/
theorem loadReturn_issued {bs : List Byte} {req : Option Nat} (hwait : (s.ember e).wait = .load ga wid rd sg cq due req)
    (h : (s.onChip ga = true ∧ s.astir = false ∧ req.isSome = true ∧ s.fenced (localOf ga) (2 ^ wid) = false ∧
        regionOf (localOf ga) ≠ some .mirror ∧ bs = s.bytes (localOf ga) (2 ^ wid)) ∨
      (s.onChip ga = false ∧ cached (s.ember e).cache ga (2 ^ wid) = some bs)) :
    bs.length = 2 ^ wid ∧ ∃ next c, Issued s e { (s.ember e).loaded rd wid sg bs with wait := .none, next := next, cache := c } cq (s.loadReturn e) := by
  rcases h with ⟨hon, hcalm, hreq, hf, hmir, rfl⟩ | ⟨hon, hc⟩
  · obtain ⟨id, rfl⟩ := Option.isSome_iff_exists.mp hreq
    obtain ⟨u, back, hu, heq⟩ := loadReturn_sampled hwait hon hcalm
    have hf' : u.fenced (localOf ga) (2 ^ wid) = false := (fenced_congr (fun f _ i => fld_of_reg (by rw [hu.reg]; rfl) f i) _ _).trans hf
    have hcalm' : u.astir = false := hu.astir.trans (setEmber_astir hcalm rfl)
    obtain ⟨v, hv, hload⟩ := loadData_loaded (e := e) (rd := rd) (sg := sg) (cq := cq) (back := back) hcalm' hf' hmir
    have hbytes : u.bytes (localOf ga) (2 ^ wid) = s.bytes (localOf ga) (2 ^ wid) := hu.bytes _ _
    have hem : v.ember e = s.ember e := ((hv.ember e).trans (hu.ember e)).trans (waitFor_ember hwait e)
    obtain ⟨c, hi⟩ := unblock_issued (s := v) (e := e) (m := (v.ember e).loaded rd wid sg (u.bytes (localOf ga) (2 ^ wid)))
      (next := v.clk + 2) (cq := cq) (err := false)
    refine ⟨by simp [State.bytes], v.clk + 2, c, ?_⟩
    rw [heq, hload, ← hbytes, ← hem]
    exact (hu.issued (hv.issued hi)).of_base (fun k _ => waitFor_ember hwait k) rfl rfl
  · obtain ⟨c, hi⟩ := unblock_issued (s := s) (e := e) (m := (s.ember e).loaded rd wid sg bs) (next := max s.clk due + 2) (cq := cq) (err := false)
    exact ⟨cached_length hc, _, c, loadReturn_remote hwait hon hc ▸ hi⟩

/-- Data of a channel that has been fenced meanwhile faults the load. -/
theorem loadReturn_faults (hwait : (s.ember e).wait = .load ga wid rd sg cq due (some id)) (hon : s.onChip ga = true) (hcalm : s.astir = false)
    (hf : s.fenced (localOf ga) (2 ^ wid) = true) (hn : s.fld .EMB_FAULT_COUNT + 1 < 2 ^ Fld.width .EMB_FAULT_COUNT) :
    EmberEnded s e (s.loadReturn e) := by
  obtain ⟨u, back, hu, heq⟩ := loadReturn_sampled hwait hon hcalm
  have hreg : u.reg = s.reg := hu.reg.trans rfl
  have hf' : u.fenced (localOf ga) (2 ^ wid) = true := (fenced_congr (fun f _ i => fld_of_reg hreg f i) _ _).trans hf
  have hn' : u.fld .EMB_FAULT_COUNT = s.fld .EMB_FAULT_COUNT := fld_of_reg hreg _ _
  have hdata : u.loadData e ga wid rd back sg cq = u.emberFlaw e (u.ember e) (u.ember e).waitPc { cause := 0x0F, addr := ga, len := 2 ^ wid } :=
    if_pos hf'
  rw [heq, hdata]
  obtain ⟨hend, hcount⟩ := emberFlaw_ends (e := e) (u.ember e) (u.ember e).waitPc { cause := 0x0F, addr := ga, len := 2 ^ wid } (by rw [hn']; exact hn)
  exact ⟨hend, hcount.trans (congrArg (· + 1) hn')⟩

end

/-- Settles O51: the issue, the data, and the data that a fenced channel no longer has. -/
theorem emberLoads : Obligations.EmberLoads := by
  refine ⟨ld_issues, fun s e ga wid rd due sg cq req bs hrun hwait _ h => ?_, fun s e ga wid rd due id sg cq hrun hwait hon hcalm hf hn => ?_⟩
  · obtain ⟨hlen, next, c, hi⟩ := loadReturn_issued hwait h
    obtain ⟨t, ht, htpc, htwait, -, hta, hrest⟩ := issued_shown (f := fun s => s.loadReturn e) hrun hi
    have hl := loaded_rest (s.ember e) rd wid sg bs
    refine ⟨t, ht, htwait, htpc.trans (congrArg Ember.pc hl :), fun h3 i => (hta i).trans (loaded_small h3 hlen i), fun h4 => ?_, hrest⟩
    have hwide : (s.ember e).loaded rd wid sg bs = (s.ember e).setWide rd bs (2 ^ (wid - 3)) := if_neg (by omega)
    refine ⟨fun k hk h0 => (hta (rd + k)).trans ?_, fun i hi => (hta i).trans ?_⟩
    · show ((s.ember e).loaded rd wid sg bs).a (rd + k) = _
      rw [hwide, setWide_a _ bs hk h0]
    · show ((s.ember e).loaded rd wid sg bs).a i = _
      rw [hwide, setWide_below _ bs _ hi]
  · obtain ⟨t, ht, hran⟩ := live_ran hrun fun s => s.loadReturn e
    obtain ⟨hend, hcount⟩ := loadReturn_faults hwait hon hcalm hf hn
    refine ⟨t, ht, ?_, (hran.fld _ _).trans hcount⟩
    rw [hran.ember]
    exact hend

end Sys2Proof.Machine
end

section
/-! PROOF. A cycle of the chip in which only requests wait at the crossbar, and fetch windows that stay empty (R276, R398, R405, R407). -/

namespace Sys2Proof.Machine

/-! ### Fetch windows alone -/

/-- Every ember of `t` is the one of `s` but for its fetch window. -/
def Windowed (s t : State) : Prop := ∀ k, (s.ember k).likeWin (t.ember k)

section
variable {s t u : State}

theorem Windowed.of_embers (h : t.embers = s.embers) : Windowed s t := fun k => by
  have hk : t.ember k = s.ember k := congrArg (mget ({} : Ember) k) h
  unfold Ember.likeWin
  rw [hk]

theorem Windowed.refl (s : State) : Windowed s s := .of_embers rfl

theorem Windowed.trans (h : Windowed s t) (k : Windowed t u) : Windowed s u := fun e => by
  have h := h e
  have k := k e
  unfold Ember.likeWin at *
  rw [h] at k
  exact k

theorem Reported.windowed {fs : List Fld} (h : Reported fs s t) : Windowed s t := h.windows

theorem Booked.embers (h : Booked s t) : t.embers = s.embers := by rw [h]
theorem Booked.flights (h : Booked s t) : t.flights = s.flights := by rw [h]

/-- A fetch window that is empty stays empty. -/
def KeepsEmpty (s t : State) : Prop := ∀ k, (s.ember k).win = [] → (t.ember k).win = []

theorem KeepsEmpty.of_embers (h : t.embers = s.embers) : KeepsEmpty s t := fun k hk =>
  (congrArg (fun l => (mget ({} : Ember) k l).win) h).trans hk

theorem KeepsEmpty.trans (h : KeepsEmpty s t) (k : KeepsEmpty t u) : KeepsEmpty s u := fun e he => k e (h e he)

theorem KeepsEmpty.on {c : Bool} {f : State → State} (h : ∀ s, KeepsEmpty s (f s)) : KeepsEmpty s (s.on c f) := by
  cases c
  · exact .of_embers rfl
  · exact h s

theorem setFld_keepsEmpty (s : State) (f : Fld) (i v : Nat) : KeepsEmpty s (s.setFld f i v) := .of_embers rfl

theorem bump_keepsEmpty (s : State) (f : Fld) (i n : Nat) : KeepsEmpty s (s.bump f i n) :=
  .of_embers (congrArg State.embers (bump_rest s f i n) :)

theorem touched_keepsEmpty (s : State) (e a n clk : Nat) : KeepsEmpty s (s.setEmber e ((s.ember e).touched a n clk).1) := fun k hk => by
  by_cases h : k = e
  · subst h
    rw [setEmber_ember_same]
    unfold Ember.touched
    split
    · exact hk
    · show (s.ember k).win.take _ = []
      rw [hk, List.take_nil]
  · rwa [setEmber_ember_other s h]

theorem show_keepsEmpty (s : State) (a : Nat) (bs : List Byte) : KeepsEmpty s (s.show a bs) := by
  unfold State.show
  split
  · exact .of_embers rfl
  · have hcode : (s.keepCode a bs.length).embers = s.embers := by
      unfold State.keepCode
      split <;> rfl
    have hlatch (u : State) : (u.unlatch a bs.length).embers = u.embers := by
      unfold State.unlatch
      split <;> rfl
    refine (KeepsEmpty.of_embers (t := ((s.keepCode a bs.length).setBytes a bs).unlatch a bs.length) ((hlatch _).trans hcode)).trans ?_
    unfold State.refetch
    split
    · exact .of_embers rfl
    · exact forAll_rel (R := KeepsEmpty) (fun _ => .of_embers rfl) .trans _ _
        (fun e _ u => (touched_keepsEmpty u e a bs.length u.clk).trans (bump_keepsEmpty _ _ 0 1)) _

theorem putCq_keepsEmpty (s : State) (t : Nat) (r : CqRec) : KeepsEmpty s (s.putCq t r) := by
  have hfire (u : State) : KeepsEmpty u (u.fireHearth t 0) := by
    unfold State.fireHearth
    exact (KeepsEmpty.of_embers (t := u.fire (t + 1) 0) rfl).trans (.on fun v => .of_embers rfl)
  unfold State.putCq
  dsimp only
  split
  · exact KeepsEmpty.trans (.on fun u => bump_keepsEmpty u _ 0 1) (bump_keepsEmpty _ _ t 1)
  · exact ((show_keepsEmpty s _ _).trans (setFld_keepsEmpty _ _ t _)).trans (.on hfire)

theorem postCq_keepsEmpty (s : State) (t : Nat) (r : CqRec) : KeepsEmpty s (s.postCq t r) := by
  unfold State.postCq
  extract_lets s₁ s₂ h
  have h₁ : KeepsEmpty s s₁ := .on fun u => bump_keepsEmpty u .REFUSED_COUNT t 1
  have h₂ : KeepsEmpty s₁ s₂ := .on fun u => bump_keepsEmpty u .LATE_COUNT t 1
  refine (h₁.trans h₂).trans ?_
  split
  · exact putCq_keepsEmpty _ t r
  · split
    · exact bump_keepsEmpty _ _ t 1
    · exact .of_embers rfl

/-- The record of work that has not faulted. -/
theorem complete_keepsEmpty (s : State) (x : Ctx) {e : End} (he : e.status ≠ 0x30) : KeepsEmpty s (s.complete x e) := by
  unfold State.complete State.completeLate
  extract_lets st flt idx u
  have hu : u = s := by
    unfold u flt
    rw [decide_eq_false he]
    rfl
  rw [hu]
  exact .on fun v => postCq_keepsEmpty v _ _

end

/-! ### A cycle of the crossbar -/

section
variable {s t u : State}

theorem forAll_fixed {α : Type} {l : List α} {f : α → State → State} (h : ∀ a ∈ l, f a s = s) : forAll l f s = s := by
  induction l with
  | nil => rfl
  | cons a l ih =>
    show forAll l f (f a s) = s
    rw [h a List.mem_cons_self]
    exact ih fun b hb => h b (List.mem_cons_of_mem a hb)

theorem Booked.on {c : Bool} {f : State → State} (h : ∀ s, Booked s (f s)) : Booked s (s.on c f) := by
  cases c
  · rfl
  · exact h s

theorem xbGrant_booked (s : State) (r : XbReq) : Booked s (s.xbGrant r) := by
  have howe (u : State) (p w n : Nat) : Booked u (u.owe p w n) := rfl
  have hstg (u : State) (p n : Nat) : Booked u (u.stgCount p n) := rfl
  unfold State.xbGrant
  extract_lets n s₁ s₂ s₃
  have h₂ : Booked s s₂ := ((howe s _ _ _).trans (howe _ _ _ _)).trans (.on fun u => (hstg u 251 n).trans (.on fun v => hstg v 250 n))
  have h₃ : Booked s₂ s₃ := by
    unfold s₃
    split
    · exact .on fun u => slotDraw_booked u _ _
    · exact fenDraw_booked ..
  clear_value s₃
  exact (h₂.trans h₃).trans rfl

theorem openGrants_booked (port n : Nat) (s : State) : Booked s (s.openGrants port n).1 := by
  induction n generalizing s with
  | zero => rfl
  | succ n ih =>
    unfold State.openGrants
    split
    · rfl
    · exact (xbGrant_booked s _).trans (ih _)

theorem openGranted_booked (s : State) (ports ports' : List Nat) :
    Booked s (forAll ports (fun p s => s.grantOpen p) (s.grantStaging ports')) := by
  have hstage : Booked s (s.grantStaging ports') := by
    unfold State.grantStaging
    exact forAll_rel (R := Booked) (fun _ => rfl) .trans _ _ (fun r _ u => .on fun v => xbGrant_booked v r) s
  exact hstage.trans (forAll_rel (R := Booked) (fun _ => rfl) .trans _ _ (fun p _ u => openGrants_booked p _ u) _)

/-- A cycle of the crossbar on which no planned request waits changes its books alone. -/
theorem arbitrate_booked (h : ∀ r ∈ s.xb, r.got = none → r.plan = none) : Booked s s.arbitrate := by
  unfold State.arbitrate
  extract_lets u ports v w
  have hu : Booked s u := rfl
  have hmem (r : XbReq) (hr : r ∈ u.xb) : r ∈ s.xb := (List.mem_filter.mp hr).1
  have hwait (p : Nat) : u.waiting p true = [] := List.filter_eq_nil_iff.mpr fun r hr => by
    have := h r (hmem r hr)
    cases hg : r.got <;> simp_all
  have hv : v = u := forAll_fixed fun p _ => by
    unfold State.grantPlanned
    rw [hwait p]
    rfl
  have hv : Booked s v := hv ▸ hu
  exact hv.trans (openGranted_booked v _ _)

/-- What a cycle of the crossbar does to embers and to work in flight. -/
def Arbitrated (s t : State) : Prop := Windowed s t ∧ t.flights = s.flights

theorem Arbitrated.trans (h : Arbitrated s t) (k : Arbitrated t u) : Arbitrated s u := ⟨h.1.trans k.1, k.2.trans h.2⟩

theorem Booked.arbitrated (h : Booked s t) : Arbitrated s t := ⟨.of_embers h.embers, h.flights⟩

theorem planMiss_arbitrated (s : State) (p cause : Nat) : Arbitrated s (s.planMiss p cause) := by
  have hrest := (planMiss_spec s p cause).1.rest
  obtain ⟨w, hw, heq⟩ := recordMiss_spec s p cause
  have hrec : Windowed s (s.recordMiss p cause) := by
    rw [heq]
    exact ((missed_reported s p cause).windowed.trans hw.windowed).trans (.of_embers rfl)
  refine ⟨?_, ?_⟩
  · rw [planMiss_eq]
    generalize s.recordMiss p cause = r at *
    split
    · rw [State.noteMiss, ask_rest]
      exact hrec.trans (.of_embers rfl)
    · rw [report_rest]
      exact hrec.trans (.of_embers rfl)
  · generalize s.planMiss p cause = t at *
    rw [hrest]

theorem portMiss_arbitrated (s : State) (p : Nat) : Arbitrated s (s.portMiss p) := by
  have hset : Arbitrated s (s.setFld .XB_STAT_PORT_OVER 0 1) := ⟨.of_embers rfl, rfl⟩
  unfold State.portMiss
  generalize s.setFld .XB_STAT_PORT_OVER 0 1 = v at *
  dsimp only
  split
  · exact hset
  · exact hset.trans (planMiss_arbitrated v p 0x09)

theorem arbitrate_arbitrated (s : State) : Arbitrated s s.arbitrate := by
  unfold State.arbitrate
  extract_lets u ports v w
  have hu : Arbitrated s u := ⟨.of_embers rfl, rfl⟩
  have hv : Arbitrated u v := by
    refine forAll_rel (R := Arbitrated) (fun _ => ⟨.refl _, rfl⟩) .trans ports _ (fun p _ u => ?_) u
    unfold State.grantPlanned
    refine forAll_rel (R := Arbitrated) (fun _ => ⟨.refl _, rfl⟩) .trans _ _ (fun r _ u => ?_) u
    split
    · exact (xbGrant_booked u r).arbitrated
    · split
      · exact ⟨.refl u, rfl⟩
      · exact portMiss_arbitrated u _
  exact (hu.trans hv).trans (openGranted_booked v _ _).arbitrated

theorem forAll_none {α : Type} {l : List α} (h : l = []) (f : α → State → State) (s : State) : forAll l f s = s := by
  rw [h]
  rfl

/-- Without work in flight the ledgers' cycle ends locks at most. -/
theorem ledgerCycle_idle (h : s.flights = []) : ∃ l, s.ledgerCycle = { s with locks := l } := by
  unfold State.ledgerCycle
  extract_lets ks s₁ v s₂ s₃ s₄ s₅
  have hks : ks = [] := congrArg (List.map Flight.id) h
  have h₁ : s₁ = s := forAll_none hks _ _
  have h₂ : s₂ = s₁ := forAll_none hks _ _
  have h₃ : s₃ = s₂ := forAll_none hks _ _
  have h₄ : s₄ = s₃ := forAll_none hks _ _
  have h₅ : s₅ = s₄ := forAll_none hks _ _
  have hs : s₅ = s := ((((h₅.trans h₄).trans h₃).trans h₂).trans h₁)
  rw [hs]
  refine forAll_rel (R := fun u v => u.flights = [] → ∃ l, v = { u with locks := l }) (fun u _ => ⟨u.locks, rfl⟩) ?_ _ _ ?_ s h
  · intro u v w huv hvw hu
    obtain ⟨l, rfl⟩ := huv hu
    obtain ⟨l', rfl⟩ := hvw hu
    exact ⟨l', rfl⟩
  · intro k _ u hu
    have hnone : u.flight k = none := by
      unfold State.flight
      rw [hu]
      rfl
    unfold State.lockCycle
    rw [hnone]
    exact ⟨_, rfl⟩

/-- A cycle in which nothing but requests at the crossbar is under way. -/
theorem hwCycle_requests (hf : s.flights = []) (hc : s.busyChans = []) (hr : (s.embers.any fun e => !e.2.reeds.isEmpty) = false) :
    ∃ l, s.hwCycle = ({ s.arbitrate with locks := l }).advance 1 := by
  have hreed : s.reedCycle = s := by
    unfold State.reedCycle
    have hnil : (s.embers.filter fun e => !e.2.reeds.isEmpty) = [] := List.filter_eq_nil_iff.mpr (List.any_eq_false.mp hr)
    rw [hnil]
    rfl
  have hgroups : s.openGroups = [] := by
    unfold State.openGroups
    rw [hc]
    rfl
  have hdma : s.dmaCycle = s.arbitrate := by
    unfold State.dmaCycle
    rw [hc]
    dsimp only [forAll, List.foldl_nil]
    rw [hgroups]
    rfl
  obtain ⟨l, hl⟩ := ledgerCycle_idle (s := s.arbitrate) ((arbitrate_arbitrated s).2.trans hf)
  refine ⟨l, ?_⟩
  unfold State.hwCycle
  rw [hreed, hdma, hl]

end

end Sys2Proof.Machine
end

section
/-! PROOF. Stores: into the buffer, out of it, and into memory (R263, R267). -/

namespace Sys2Proof.Machine

section
variable {s p u t : State} {e : Nat} {m : Ember} {w : Word128} {cq : Bool}

/-! ### Issue -/

theorem Issued.ran (h : Issued s e m cq u) (hran : Ran u t) : Issued s e m cq t := by
  obtain ⟨wn, v, hm⟩ := h.ember
  exact ⟨⟨wn, v, (hran.ember e).trans hm⟩, fun hcq k hk => (hran.ember k).trans (h.other hcq k hk), fun hcq => hran.mem.trans (h.mem hcq),
    fun hcq => hran.reg.trans (h.reg hcq)⟩

/-- What an instruction that goes on as `m'` leaves. -/
theorem goOn_at {opc next : Nat} {m' : Ember} {F : State → Ember → Word128 → Option State} (hrun : s.power = .run)
    (hr : s.ready e = (p, some (m, some w))) (hc : p.check0 m.hearth w = .ok ()) (hw : wordOpc w = opc)
    (hpc : p.pcCheck m.hearth (m.pc + 16) = .ok ()) (hm' : m'.hearth = m.hearth)
    (hF : F (p.spend e) (m.atIssue p.clk) w = some ((p.spend e).goOn e (m.atIssue p.clk) m' next (wCq w))) :
    ∃ t, live s (fun s => s.issue0 e opc F) = .next t ∧ Issued p e { m' with pc := m.pc + 16, next := next } (wCq w) t := by
  have heq : s.issue0 e opc F = (p.spend e).goOn e (m.atIssue p.clk) m' next (wCq w) :=
    (issue0_of_ready hr hw hc F).trans (congrArg (·.getD (p.stall e)) hF)
  obtain ⟨t, ht, hran⟩ := live_ran hrun fun s => s.issue0 e opc F
  rw [heq] at hran
  refine ⟨t, ht, (Issued.of_spend (goTo_issued ?_)).ran hran⟩
  rw [spend_pcCheck, hm']
  exact hpc

/-- What an instruction leaves that cannot go on in its cycle. -/
theorem stall_at {opc : Nat} {F : State → Ember → Word128 → Option State} (hrun : s.power = .run)
    (hr : s.ready e = (p, some (m, some w))) (hc : p.check0 m.hearth w = .ok ()) (hw : wordOpc w = opc)
    (hF : F (p.spend e) (m.atIssue p.clk) w = none) :
    ∃ t, live s (fun s => s.issue0 e opc F) = .next t ∧ Issued p e { m with next := p.clk + 1 } false t := by
  have heq : s.issue0 e opc F = p.stall e := (issue0_of_ready hr hw hc F).trans (congrArg (·.getD (p.stall e)) hF)
  obtain ⟨t, ht, hran⟩ := live_ran hrun fun s => s.issue0 e opc F
  rw [heq] at hran
  have hst : Issued p e { p.ember e with next := p.clk + 1 } false (p.stall e) :=
    ⟨⟨_, _, setEmber_ember_same ..⟩, fun _ k hk => setEmber_ember_other p hk _, fun _ => rfl, fun _ => rfl⟩
  rw [← ((ready_spec hr).1 m _ rfl).1] at hst
  exact ⟨t, ht, hst.ran hran⟩

/-! ### The bytes of registers -/

theorem leBytes_getD (n x k : Nat) (hk : k < n) : (leBytes n x).getD k 0 = BitVec.ofNat 8 (x / 2 ^ (8 * k)) := by
  induction n generalizing x k with
  | zero => omega
  | succ n ih =>
    cases k with
    | zero => simp [leBytes]
    | succ k =>
      have h : (leBytes (n + 1) x).getD (k + 1) 0 = (leBytes n (x / 256)).getD k 0 := rfl
      rw [h, ih _ _ (by omega), Nat.div_div_eq_div_mul]
      refine congrArg (fun d => BitVec.ofNat 8 (x / d)) ?_
      rw [Nat.mul_add, Nat.pow_add, Nat.mul_comm]

theorem wide_length (m : Ember) (i n : Nat) : (m.wide i n).length = n := by
  have hsum (l : List Nat) : (l.flatMap fun k => leBytes 8 (m.a (i + k))).length = 8 * l.length := by
    induction l with
    | nil => rfl
    | cons k l ih =>
      rw [List.flatMap_cons, List.length_append, ih, leBytes_length, List.length_cons]
      omega
  unfold Ember.wide
  rw [List.length_take, hsum, upTo, List.length_range, ceilDiv]
  omega

theorem flatMap8_getD (f : Nat → List Byte) (hf : ∀ k, (f k).length = 8) (l : List Nat) (k : Nat) (hk : k < 8 * l.length) :
    (l.flatMap f).getD k 0 = (f (l.getD (k / 8) 0)).getD (k % 8) 0 := by
  induction l generalizing k with
  | nil => simp at hk
  | cons x l ih =>
    rw [List.flatMap_cons]
    by_cases h8 : k < 8
    · rw [List.getD_append _ _ _ _ (by rw [hf]; exact h8), Nat.div_eq_of_lt h8, Nat.mod_eq_of_lt h8]
      rfl
    · rw [List.length_cons] at hk
      rw [List.getD_append_right _ _ _ _ (by rw [hf]; omega), hf, ih _ (by omega)]
      have hd : k / 8 = (k - 8) / 8 + 1 := by omega
      have hm : (k - 8) % 8 = k % 8 := by omega
      rw [hd, hm]
      rfl

theorem wide_getD (m : Ember) (i n k : Nat) (hk : k < n) :
    (m.wide i n).getD k 0 = BitVec.ofNat 8 (m.a (i + k / 8) / 2 ^ (8 * (k % 8))) := by
  unfold Ember.wide
  have hlen : k < 8 * (upTo (ceilDiv n 8)).length := by
    rw [upTo, List.length_range, ceilDiv]
    omega
  have hget : (upTo (ceilDiv n 8)).getD (k / 8) 0 = k / 8 := by
    rw [upTo, List.getD_eq_getElem _ _ (by rw [List.length_range, ceilDiv]; omega), List.getElem_range]
  rw [List.getD_eq_getElem?_getD, List.getElem?_take_of_lt hk, ← List.getD_eq_getElem?_getD, flatMap8_getD _ (fun k => leBytes_length ..) _ _ hlen,
    hget, leBytes_getD _ _ _ (Nat.mod_lt _ (by decide))]

end

/-! ### `st` -/

/-- What `st` does in its issue cycle. -/
def stIssue (e : Nat) (s : State) (m : Ember) (w : Word128) : Option State :=
  let ga := add64 (m.a (wRs1 w)) (wImm w)
  let n := 2 ^ wWid w
  match s.memCheck m.hearth ga n .w with
  | .error f => some (s.emberFlaw e m m.pc f)
  | .ok _ =>
    if 8 ≤ m.buf.length then none
    else
      let b : Store := { addr := ga, bytes := m.wide (wRs2 w) n, epoch := m.epoch }
      some (s.goOn e m { m with buf := m.buf ++ [b] } (s.clk + 1) (wCq w))

theorem execSt_eq (e : Fin 2048) (s : State) : exec (.st e) s = live s fun s => s.issue0 e 0x03 (stIssue e) := rfl

/-- The buffer's entry of a store. -/
def Ember.storeOf (m : Ember) (w : Word128) : Store :=
  { addr := add64 (m.a (wRs1 w)) (wImm w), bytes := m.wide (wRs2 w) (2 ^ wWid w), epoch := m.epoch }

def Ember.push (m : Ember) (b : Store) : Ember := { m with buf := m.buf ++ [b] }

section
variable {s : State} {e : Nat} {m : Ember} {w : Word128} (hc : s.memCheck m.hearth (add64 (m.a (wRs1 w)) (wImm w)) (2 ^ wWid w) .w = .ok ())
include hc

theorem stIssue_stores (hb : m.buf.length < 8) : stIssue e s m w = some (s.goOn e m (m.push (m.storeOf w)) (s.clk + 1) (wCq w)) := by
  unfold stIssue
  dsimp only
  rw [hc]
  exact if_neg (by omega)

theorem stIssue_full (hb : 8 ≤ m.buf.length) : stIssue e s m w = none := by
  unfold stIssue
  dsimp only
  rw [hc]
  exact if_pos hb

end

theorem st_issues (s p : State) (e : Fin 2048) (m : Ember) (w : Word128) (hrun : s.power = .run) (hr : s.ready e = (p, some (m, some w)))
    (hw : wordOpc w = 0x03) (hc : p.check0 m.hearth w = .ok ()) (hpc : p.pcCheck m.hearth (m.pc + 16) = .ok ())
    (hmc : p.memCheck m.hearth ((m.a (wRs1 w) + wImm w) % 2 ^ 64) (2 ^ wWid w) .w = .ok ()) :
    (m.buf.length < 8 → ∃ t b, exec (.st e) s = .next t ∧ (t.ember e).pc = m.pc + 16 ∧ (t.ember e).buf = m.buf ++ [b] ∧
       b.addr = (m.a (wRs1 w) + wImm w) % 2 ^ 64 ∧ b.bytes.length = 2 ^ wWid w ∧
       (∀ k, k < 2 ^ wWid w → b.bytes.getD k 0 = BitVec.ofNat 8 (m.a (wRs2 w + k / 8) / 2 ^ (8 * (k % 8)))) ∧
       (∀ i, (t.ember e).a i = m.a i) ∧
       (wCq w = false → (∀ k, k ≠ e.val → t.ember k = p.ember k) ∧ (∀ a, t.byte a = p.byte a) ∧ ∀ f i, t.fld f i = p.fld f i)) ∧
     (8 ≤ m.buf.length → ∃ t, exec (.st e) s = .next t ∧ (t.ember e).pc = m.pc ∧ (t.ember e).buf = m.buf ∧
       (∀ i, (t.ember e).a i = m.a i) ∧ (∀ a, t.byte a = p.byte a) ∧ ∀ f i, t.fld f i = p.fld f i) := by
  have hmc' : (p.spend e).memCheck (m.atIssue p.clk).hearth (add64 ((m.atIssue p.clk).a (wRs1 w)) (wImm w)) (2 ^ wWid w) .w = .ok () :=
    (spend_memCheck p e m.hearth _ _ .w).trans hmc
  rw [execSt_eq]
  refine ⟨fun hb => ?_, fun hb => ?_⟩
  · obtain ⟨t, ht, hi⟩ := goOn_at hrun hr hc hw hpc (m' := (m.atIssue p.clk).push ((m.atIssue p.clk).storeOf w)) rfl
      (stIssue_stores (e := e) hmc' hb)
    obtain ⟨wn, v, hem⟩ := hi.ember
    exact ⟨t, (m.atIssue p.clk).storeOf w, ht, (congrArg Ember.pc hem :), (congrArg Ember.buf hem :), rfl, wide_length ..,
      fun k hk => wide_getD _ _ _ k hk, fun i => hi.a i, fun hcq => ⟨hi.other hcq, hi.byte hcq, hi.fld hcq⟩⟩
  · obtain ⟨t, ht, hi⟩ := stall_at hrun hr hc hw (stIssue_full (e := e) hmc' hb)
    obtain ⟨wn, v, hem⟩ := hi.ember
    exact ⟨t, ht, (congrArg Ember.pc hem :), (congrArg Ember.buf hem :), fun i => hi.a i, hi.byte rfl, hi.fld rfl⟩

end Sys2Proof.Machine
end

section
/-! PROOF. A store leaves the buffer, and becomes visible (R263, R267). -/

namespace Sys2Proof.Machine

section
variable {s t u v : State} {e k : Nat} {b : Store}

/-- The ember without entry `k` of its buffer. -/
def Ember.drop (m : Ember) (k : Nat) : Ember := { m with buf := m.buf.eraseIdx k }

/-- The same, with the entry on its way to its port. -/
def Ember.send (m : Ember) (k : Nat) (b : Store) : Ember := { m.drop k with air := m.air ++ [b] }

theorem drain_local {id : Nat} (hb : (s.ember e).buf[k]? = some b) (hmay : s.mayDrain (s.ember e) k b = true) (hon : s.onChip b.addr = true)
    (hask : s.memAsk e b.addr b.bytes.length true s.clk = some (v, id)) :
    s.drain e k = (v.setEmber e ((s.ember e).send k { b with req := id })).toClk (v.clk + 1) := by
  unfold State.drain
  dsimp only
  rw [hb]
  dsimp only
  rw [hmay, hon, hask]
  rfl

theorem tryFree_running (h : (s.ember e).draining = false) : s.tryFree e = s := by
  unfold State.tryFree
  dsimp only
  rw [h, Bool.and_false, Bool.false_and]
  rfl

theorem drain_remote (hb : (s.ember e).buf[k]? = some b) (hmay : s.mayDrain (s.ember e) k b = true) (hon : s.onChip b.addr = false)
    (hdr : (s.ember e).draining = false) (hpost : s.postWrite b.addr b.bytes (s.emberRemote e) = (v, .sent)) :
    s.drain e k = (v.advance 1).setEmber e ((s.ember e).drop k) := by
  have hfree : ((v.advance 1).setEmber e ((s.ember e).drop k)).tryFree e = (v.advance 1).setEmber e ((s.ember e).drop k) :=
    tryFree_running ((congrArg Ember.draining (setEmber_ember_same ..)).trans hdr)
  unfold State.drain
  dsimp only
  rw [hb]
  dsimp only
  rw [hmay, hon, if_neg Bool.false_ne_true, hpost]
  exact hfree

/-- What a WRITE frame that has left changes. -/
theorem postWrite_sent {ga : Nat} {bs : List Byte} {x : Remote} (h : s.postWrite ga bs x = (v, .sent)) :
    v.reg = s.reg ∧ v.mem = s.mem := by
  unfold State.postWrite at h
  split at h
  · cases h
  · split at h
    · cases h
    · have hl (k : Nat) (f : Frame) := handOver_links s k f x
      cases h
      exact ⟨(congrArg State.reg (hl _ _) :), (congrArg State.mem (hl _ _) :)⟩

/-- The cycle after a request that stands alone: embers keep all but their windows; where no planned request waits, nothing else changes. -/
theorem toClk_request (hf : s.flights = []) (hc : s.busyChans = []) (hr : (s.embers.any fun e => !e.2.reeds.isEmpty) = false) :
    Windowed s (s.toClk (s.clk + 1)) ∧
      ((∀ r ∈ s.xb, r.got = none → r.plan = none) → (s.toClk (s.clk + 1)).mem = s.mem ∧ (s.toClk (s.clk + 1)).reg = s.reg) := by
  unfold State.toClk
  rw [if_neg (by omega)]
  split
  · have hone : s.hwCycles (s.clk + 1 - s.clk) = s.hwCycle := by
      rw [Nat.add_sub_cancel_left]
      rfl
    obtain ⟨l, hl⟩ := hwCycle_requests hf hc hr
    rw [hone, hl]
    refine ⟨(arbitrate_arbitrated s).1.trans (.of_embers rfl), fun hno => ?_⟩
    have hb := arbitrate_booked hno
    exact ⟨hb.mem, hb.reg⟩
  · exact ⟨.of_embers rfl, fun _ => ⟨rfl, rfl⟩⟩

theorem astir_parts (h : s.astir = false) : s.flights = [] ∧ s.busyChans = [] ∧ (s.embers.any fun e => !e.2.reeds.isEmpty) = false ∧
    ∀ r ∈ s.xb, r.got ≠ none := by
  unfold State.astir at h
  simp only [Bool.or_eq_false_iff] at h
  obtain ⟨⟨⟨hf, hc⟩, hr⟩, hx⟩ := h
  refine ⟨by simpa using hf, by simpa using hc, hr, fun r hr hg => ?_⟩
  have := List.any_eq_false.mp hx r hr
  rw [hg] at this
  exact this rfl

/-- Requests of an open ember are open. -/
theorem xbPuts_open {a : Ask} (ha : a.plan = none) (l : List (Nat × Nat)) (hs : ∀ r ∈ s.xb, r.got = none → r.plan = none) :
    ∀ r ∈ (forAll l (fun x t => t.xbPut a x.1 x.2) s).xb, r.got = none → r.plan = none := by
  refine forAll_rel (R := fun s t => (∀ r ∈ s.xb, r.got = none → r.plan = none) → ∀ r ∈ t.xb, r.got = none → r.plan = none)
    (fun _ => id) (fun h k q => k (h q)) l (fun x t => t.xbPut a x.1 x.2) (fun x _ u hu r hr hg => ?_) s hs
  rcases List.mem_append.mp hr with hr | hr
  · exact hu r hr hg
  · rw [List.mem_singleton.mp hr]
    exact ha

theorem partsOf_ne {a n : Nat} (hn : n ≠ 0) : partsOf a n ≠ [] := by
  unfold partsOf portParts
  rw [if_neg hn]
  exact List.cons_ne_nil _ _

/-- Stores leave the buffer. -/
theorem storeDrain_spec (s : State) (e : Fin 2048) (k : Fin 8) (b : Store) (hrun : s.power = .run) (hb : (s.ember e).buf[k.val]? = some b)
    (hmay : s.mayDrain (s.ember e) k b = true) (hdr : (s.ember e).draining = false) :
    (s.onChip b.addr = true → b.bytes ≠ [] → s.astir = false → s.tidRoom (e.val / 256) true (s.ember e).planned = true →
       ∃ t b', exec (.storeDrain e k) s = .next t ∧ (t.ember e).buf = (s.ember e).buf.eraseIdx k ∧
         (t.ember e).air = (s.ember e).air ++ [b'] ∧ b'.addr = b.addr ∧ b'.bytes = b.bytes ∧ b'.epoch = b.epoch ∧ b'.req = s.xbNext + 1 ∧
         (∀ i, (t.ember e).a i = (s.ember e).a i) ∧
         ((s.ember e).planned = false → (∀ a, t.byte a = s.byte a) ∧ ∀ f i, t.fld f i = s.fld f i)) ∧
     (∀ q, s.onChip b.addr = false → s.postWrite b.addr b.bytes (s.emberRemote e) = (q, .sent) →
       ∃ t, exec (.storeDrain e k) s = .next t ∧ (t.ember e).buf = (s.ember e).buf.eraseIdx k ∧ t.posted = q.posted ∧ t.links = q.links ∧
         (∀ a, t.byte a = s.byte a) ∧ ∀ f i, t.fld f i = s.fld f i) := by
  obtain ⟨t, ht, hran⟩ := live_ran hrun fun s => s.drain e k
  refine ⟨fun hon hne hcalm hroom => ?_, fun q hon hpost => ?_⟩
  · obtain ⟨v, hask, hbook, hxb⟩ := memAsk_some (since := s.clk) hroom (partsOf_ne (a := localOf b.addr) fun h => hne (List.eq_nil_of_length_eq_zero h))
    rw [drain_local hb hmay hon hask] at hran
    obtain ⟨hf, hc, hr, hx⟩ := astir_parts hcalm
    have hreeds : ((s.ember e).send k { b with req := s.xbNext + 1 }).reeds = (v.ember e).reeds :=
      (congrArg (fun l => (mget ({} : Ember) e.val l).reeds) hbook.embers).symm
    have hv : v.noReeds := (congrArg (fun l : List (Nat × Ember) => l.any fun e => !e.2.reeds.isEmpty) hbook.embers).trans hr
    obtain ⟨hwin, hkeep⟩ := toClk_request (s := v.setEmber e ((s.ember e).send k { b with req := s.xbNext + 1 }))
      (hbook.flights.trans hf) (by rw [hbook]; exact hc) (setEmber_noReeds hv hreeds)
    have hem : t.ember e = _ := (hran.ember e).trans (hwin e)
    rw [setEmber_ember_same] at hem
    refine ⟨t, { b with req := s.xbNext + 1 }, ht, (congrArg Ember.buf hem :), (congrArg Ember.air hem :), rfl, rfl, rfl, rfl,
      fun i => (congrArg (Ember.a · i) hem :), fun hopen => ?_⟩
    have hplan : (s.memKey e b.addr b.bytes.length true s.clk).plan = none := by
      unfold State.memKey
      rw [hopen]
      rfl
    obtain ⟨hmem, hreg⟩ := hkeep (by
      show ∀ r ∈ v.xb, _
      rw [hxb]
      exact xbPuts_open hplan _ fun r hr hg => absurd hg (hx r hr))
    exact ⟨fun a => (hran.byte a).trans ((congrArg (mget 0 a) hmem).trans (hbook.byte a)),
      fun f i => (hran.fld f i).trans ((fld_of_reg hreg f i).trans (hbook.fld f i))⟩
  · rw [drain_remote hb hmay hon hdr hpost] at hran
    obtain ⟨hreg, hmem⟩ := postWrite_sent hpost
    have hem := (hran.ember e).trans (setEmber_ember_same ..)
    exact ⟨t, ht, (congrArg Ember.buf hem :), hran.posted, (congrArg State.links hran.rest :),
      fun a => (hran.byte a).trans (congrArg (mget 0 a) hmem), fun f i => (hran.fld f i).trans (fld_of_reg hreg f i)⟩

/-! ### A store that has been granted becomes visible -/

/-- What a store that becomes visible does to its own ember beside: a load that waited for it asks, and a fetch that it held waits. -/
structure Roused (s : State) (e : Nat) (t : State) : Prop where
  flds : FldsBut [.REFETCH_COUNT] s t
  mem : t.mem = s.mem
  other : ∀ k, k ≠ e → t.ember k = s.ember k
  ember : ∃ w v, t.ember e = { s.ember e with wait := w, stale := v }

theorem Roused.refl (s : State) (e : Nat) : Roused s e s := ⟨.refl _ s, rfl, fun _ _ => rfl, ⟨_, _, rfl⟩⟩

theorem Roused.trans (h : Roused s e t) (k : Roused t e u) : Roused s e u := by
  obtain ⟨w, v, hw⟩ := h.ember
  obtain ⟨w', v', hw'⟩ := k.ember
  refine ⟨h.flds.trans k.flds, k.mem.trans h.mem, fun j hj => (k.other j hj).trans (h.other j hj), ⟨w', v', ?_⟩⟩
  rw [hw', hw]

theorem Roused.on {c : Bool} {f : State → State} (h : Roused s e (f s)) : Roused s e (s.on c f) := by
  cases c
  · exact .refl s e
  · exact h

theorem released_roused (hp : (s.ember e).planned = false) (was : Ember) : Roused s e (s.released_ e was) := by
  unfold State.released_
  extract_lets m s₁
  have h₁ : Roused s e s₁ := by
    unfold s₁
    split
    · rename_i ga wid rd sg cq due hwait
      dsimp only
      split
      · cases hroom : s.tidRoom (e / 256) false (s.ember e).planned with
        | false =>
          rw [memAsk_none hroom]
          dsimp only
          unfold State.tidMiss
          rw [hp]
          exact .refl s e
        | true =>
          obtain ⟨v, hask, hbook, -⟩ := memAsk_some (since := s.clk) hroom (partsOf_ne (a := localOf ga) (Nat.two_pow_pos wid).ne')
          rw [hask]
          have hem (k : Nat) : v.ember k = s.ember k := congrArg (mget ({} : Ember) k) hbook.embers
          refine ⟨fldsBut_of_reg _ hbook.reg, hbook.mem, fun k hk => (setEmber_ember_other v hk _).trans (hem k), ⟨.load ga wid rd sg cq due (some (s.xbNext + 1)), (s.ember e).stale, ?_⟩⟩
          refine (setEmber_ember_same ..).trans ?_
          rw [hem]
      · exact .refl s e
    · exact .refl s e
  clear_value s₁
  refine h₁.trans (.on ?_)
  have hb := bump_reported (s₁.setEmber e { s₁.ember e with stale := s₁.clk + 24 }) (List.mem_singleton_self Fld.REFETCH_COUNT) 0 1
  have hem (k : Nat) : ((s₁.setEmber e { s₁.ember e with stale := s₁.clk + 24 }).bump .REFETCH_COUNT).ember k =
      (s₁.setEmber e { s₁.ember e with stale := s₁.clk + 24 }).ember k :=
    congrArg (mget ({} : Ember) k) (congrArg State.embers (bump_rest _ _ 0 1) :)
  exact ⟨hb.fldsBut, bump_mem .., fun k hk => (hem k).trans (setEmber_ember_other s₁ hk _), ⟨_, _, (hem e).trans (setEmber_ember_same ..)⟩⟩

theorem localWrite_windowed {a : Nat} {bs : List Byte} (hm : regionOf a ≠ some .mirror) (hf : s.fenced a bs.length = false) :
    Windowed s (s.localWrite a bs) := by
  have hk : (s.keepRows a bs.length).embers = s.embers ∧ (s.keepRows a bs.length).reg = s.reg := by
    unfold State.keepRows
    split <;> exact ⟨rfl, rfl⟩
  have hw : s.localWrite a bs = ((s.keepRows a bs.length).store a bs).tamper a bs.length := if_neg hm
  rw [hw]
  have h₀ : Windowed s (s.keepRows a bs.length) := .of_embers hk.1
  generalize s.keepRows a bs.length = u at *
  have hfen : u.fenced a bs.length = false := (fenced_congr (fun f _ i => fld_of_reg hk.2 f i) a _).trans hf
  exact (h₀.trans (store_reported hfen).windowed).trans (.of_embers rfl)

/-- The ember without entry `k` of those on their way. -/
def Ember.land (m : Ember) (k : Nat) : Ember := { m with air := m.air.eraseIdx k }

/-- With nothing astir a store whose turn it is becomes visible, after the port's time. -/
theorem becomeVisible_calm (hb : (s.ember e).air[k]? = some b) (hfirst : ∀ c ∈ (s.ember e).air.take k, chunkOf c.addr ≠ chunkOf b.addr)
    (hcalm : s.astir = false) :
    ∃ u, Paced s u ∧ s.becomeVisible e k =
      (let w := ((u.setEmber e ((s.ember e).land k)).localWrite (localOf b.addr) b.bytes).released_ e (s.ember e)
       (w.on (!(w.ember e).live && (w.ember e).offBus) fun s => s.setEmber e { w.ember e with hearth := 0 }).tryFree e) := by
  have hnone : ((s.ember e).air.take k).any (fun c => chunkOf c.addr = chunkOf b.addr) = false :=
    List.any_eq_false.mpr fun c hc => by simpa using hfirst c hc
  have h := toClk_paced hcalm (s.xbDue b.req (s.writeLat b.addr b.bytes.length))
  have hp := h.trans (takePort_paced (h.astir.trans hcalm) (localOf b.addr))
  refine ⟨_, hp, ?_⟩
  unfold State.becomeVisible
  dsimp only
  rw [hb]
  dsimp only
  rw [hnone, if_neg Bool.false_ne_true, untilGot_calm hcalm, Option.isNone_eq_false_iff.mpr (xbGot_calm hcalm b.req),
    if_neg Bool.false_ne_true, hp.ember e]
  rfl

theorem storeVisible_spec (s : State) (e : Fin 2048) (k : Nat) (b : Store) (hrun : s.power = .run) (hb : (s.ember e).air[k]? = some b)
    (hfirst : ∀ c ∈ (s.ember e).air.take k, chunkOf c.addr ≠ chunkOf b.addr) (hlive : (s.ember e).live = true)
    (hdr : (s.ember e).draining = false) (hopen : (s.ember e).planned = false) (hcalm : s.astir = false)
    (hf : s.fenced (localOf b.addr) b.bytes.length = false) (hmir : regionOf (localOf b.addr) ≠ some .mirror) :
    ∃ t, exec (.storeVisible e k) s = .next t ∧ (t.ember e).air = (s.ember e).air.eraseIdx k ∧
       t.bytes (localOf b.addr) b.bytes.length = b.bytes ∧
       (∀ a, a < localOf b.addr ∨ localOf b.addr + b.bytes.length ≤ a → t.byte a = s.byte a) ∧
       (∀ j, j ≠ e.val → (s.ember j).likeWin (t.ember j)) ∧
       ∀ (f : Fld) (i : Nat), f ≠ .REFETCH_COUNT → t.fld f i = s.fld f i := by
  obtain ⟨t, ht, hran⟩ := live_ran hrun fun s => s.becomeVisible e k
  obtain ⟨u, hu, heq⟩ := becomeVisible_calm hb hfirst hcalm
  dsimp only at heq
  have hreg : (u.setEmber e ((s.ember e).land k)).reg = s.reg := hu.reg
  have hbyte (a : Nat) : (u.setEmber e ((s.ember e).land k)).byte a = s.byte a := hu.byte a
  have hem : (u.setEmber e ((s.ember e).land k)).ember e = (s.ember e).land k := setEmber_ember_same ..
  have hother (j : Nat) (hj : j ≠ e.val) : (u.setEmber e ((s.ember e).land k)).ember j = s.ember j :=
    (setEmber_ember_other u hj _).trans (hu.ember j)
  generalize u.setEmber e ((s.ember e).land k) = v at *
  have hfen : v.fenced (localOf b.addr) b.bytes.length = false := (fenced_congr (fun f _ i => fld_of_reg hreg f i) _ _).trans hf
  obtain ⟨hst, hfl⟩ := localWrite_stored hmir hfen
  have hwin := localWrite_windowed hmir hfen
  generalize v.localWrite (localOf b.addr) b.bytes = x at *
  have hxe : x.ember e = { v.ember e with win := (x.ember e).win, stale := (x.ember e).stale } := hwin e
  rw [hem] at hxe
  have hro := released_roused (s := x) (e := e) (by rw [hxe]; exact hopen) (s.ember e)
  generalize x.released_ e (s.ember e) = y at *
  obtain ⟨wt, sl, hye⟩ := hro.ember
  rw [hxe] at hye
  have hyl : (y.ember e).live = true := (congrArg Ember.live hye :).trans hlive
  have hyd : (y.ember e).draining = false := (congrArg Ember.draining hye :).trans hdr
  rw [hyl] at heq
  have heq : s.becomeVisible e k = y := heq.trans (tryFree_running hyd)
  rw [heq] at hran
  have hst' : Stored s t (localOf b.addr) b.bytes := Stored.trans_left hbyte fun a =>
    (hran.byte a).trans ((congrArg (mget 0 a) hro.mem).trans (hst a))
  refine ⟨t, ht, ((congrArg Ember.air (hran.ember e)).trans (congrArg Ember.air hye :)), hst'.bytes, fun a ha => hst'.other ha, fun j hj => ?_,
    fun f i hf => ?_⟩
  · rw [hran.ember, hro.other j hj, ← hother j hj]
    exact hwin j
  · rw [hran.fld, hro.flds f i (by simpa using hf), hfl f i (by simpa using hf), fld_of_reg hreg]

end

end Sys2Proof.Machine
end

section
/-! PROOF. The fences `order.g` and `sync.i` (R270, R280). -/

namespace Sys2Proof.Machine

section
variable {s p u t : State} {e : Nat} {m : Ember} {w : Word128}

/-- An ember that waits is not ready. -/
theorem ready_waiting (h : (s.ember e).wait ≠ .none) : s.ready e = (s, none) := by
  have hno (o c : Nat) (hch : s.chosen (e / 256) = some (o, c)) : o ≠ e := fun ho =>
    h (readyAt_runs (ho ▸ chosen_ready hch)).2.2
  unfold State.ready
  split
  · rfl
  · rename_i o c hch
    exact if_pos (by simpa using hno o c hch)

theorem issue0_waiting (h : (s.ember e).wait ≠ .none) (opc : Nat) (F : State → Ember → Word128 → Option State) : s.issue0 e opc F = s := by
  unfold State.issue0 State.issue
  rw [ready_waiting h]

/-- The ember that waits for `wt` after its instruction. -/
def Ember.waitsAt (m : Ember) (wt : Wait) : Ember := { m with pc := m.pc + 16, win := m.win.drop 1, wait := wt }

/-- What an instruction leaves that waits after its issue. -/
def State.waitingAt (p : State) (e : Nat) (m : Ember) (wt : Wait) : State := (p.spend e).setEmber e ((m.atIssue p.clk).waitsAt wt)

theorem blocks_at {opc : Nat} {wt : Wait} {F : State → Ember → Word128 → Option State} (hr : s.ready e = (p, some (m, some w)))
    (hc : p.check0 m.hearth w = .ok ()) (hw : wordOpc w = opc) (hpc : p.pcCheck m.hearth (m.pc + 16) = .ok ())
    (hF : F (p.spend e) (m.atIssue p.clk) w = some ((p.spend e).block e (m.atIssue p.clk) (m.atIssue p.clk) wt)) :
    s.issue0 e opc F = p.waitingAt e m wt := by
  refine (issue0_of_ready hr hw hc F).trans ((congrArg (·.getD (p.stall e)) hF).trans (block_eq ?_))
  exact (spend_pcCheck p e _ _).trans hpc

theorem waitingAt_ember (p : State) (e : Nat) (m : Ember) (wt : Wait) : (p.waitingAt e m wt).ember e = (m.atIssue p.clk).waitsAt wt :=
  setEmber_ember_same ..

theorem waitingAt_issued (p : State) (e : Nat) (m : Ember) (wt : Wait) : Issued p e ((m.atIssue p.clk).waitsAt wt) false (p.waitingAt e m wt) :=
  Issued.of_spend ⟨⟨_, _, setEmber_ember_same ..⟩, fun _ _ hk => setEmber_ember_other _ hk _, fun _ => rfl, fun _ => rfl⟩

theorem waitingAt_writing (hm : m = p.ember e) (wt : Wait) :
    (p.waitingAt e m wt).writing (.ember e ((p.waitingAt e m wt).emberTag e)) = p.writing (.ember e (p.emberTag e)) := by
  have htag : (p.waitingAt e m wt).emberTag e = p.emberTag e := by
    rw [State.emberTag, waitingAt_ember, State.emberTag, hm]
    rfl
  rw [htag]
  rfl

/-! ### `order.g` -/

/-- The registers and books of an ember whose fence is over. -/
def Ember.fenced (m : Ember) (rd : Nat) : Ember := Ember.setA { m with backdrafts := 0, epoch := m.epoch + 1 } rd m.backdrafts

theorem fenced_rest (m : Ember) (rd : Nat) : m.fenced rd = { m with backdrafts := 0, epoch := m.epoch + 1, regs := (m.fenced rd).regs } :=
  setA_rest _ rd _

theorem fenced_a (m : Ember) (rd i : Nat) : (m.fenced rd).a i = if i = rd ∧ i ≠ 0 then m.backdrafts % 2 ^ 64 else m.a i :=
  setA_a _ rd _ i

theorem orderDone_waits {rd : Nat} {cq : Bool} (hw : (s.ember e).wait = .orderG rd cq)
    (h : (s.ember e).storesOut = false ∨ s.writing (.ember e (s.emberTag e)) = true) : s.orderDone e = s := by
  unfold State.orderDone
  dsimp only
  rw [hw]
  exact if_pos (by rcases h with h | h <;> simp [h])

theorem orderDone_issued {rd : Nat} {cq : Bool} (hw : (s.ember e).wait = .orderG rd cq) (hout : (s.ember e).storesOut = true)
    (hno : s.writing (.ember e (s.emberTag e)) = false) :
    ∃ next c, Issued s e { (s.ember e).fenced rd with wait := .none, next := next, cache := c } cq (s.orderDone e) := by
  have heq : s.orderDone e = s.unblock e ((s.ember e).fenced rd) (s.clk + 2) cq ((s.ember e).backdrafts != 0) := by
    unfold State.orderDone Ember.fenced
    dsimp only
    rw [hw]
    dsimp only
    rw [hout, hno, if_neg (show ¬(!true || false) = true by decide)]
  rw [heq]
  exact ⟨_, unblock_issued⟩

/-- What `order.g` does in its issue cycle. -/
def orderGIssue (e : Nat) (s : State) (m : Ember) (w : Word128) : Option State := some (s.block e m m (.orderG (wRd w) (wCq w)))

theorem execOrderG_eq (e : Fin 2048) (s : State) : exec (.orderG e) s = live s fun s => (s.issue0 e 0x05 (orderGIssue e)).orderDone e := rfl

/-! ### `sync.i` -/

theorem syncDone_eq {cq : Bool} (hw : (s.ember e).wait = .syncI cq) (hb : ∀ b ∈ (s.ember e).buf ++ (s.ember e).air, s.onChip b.addr = false)
    (hr : ∀ r ∈ (s.ember e).reeds, s.onChip r.dst = false) :
    s.syncDone e = s.unblock e { s.ember e with win := [] } (s.clk + 24) cq false := by
  have hb' : ((s.ember e).buf ++ (s.ember e).air).any (fun b => s.onChip b.addr) = false :=
    List.any_eq_false.mpr fun b h => by simp [hb b h]
  have hr' : (s.ember e).reeds.any (fun r => s.onChip r.dst) = false := List.any_eq_false.mpr fun r h => by simp [hr r h]
  unfold State.syncDone
  dsimp only
  rw [hw]
  dsimp only
  rw [hb', hr']
  rfl

theorem syncDone_issued {cq : Bool} (hw : (s.ember e).wait = .syncI cq) (hb : ∀ b ∈ (s.ember e).buf ++ (s.ember e).air, s.onChip b.addr = false)
    (hr : ∀ r ∈ (s.ember e).reeds, s.onChip r.dst = false) :
    (∃ c, Issued s e { s.ember e with win := [], wait := .none, next := s.clk + 24, cache := c } cq (s.syncDone e)) ∧
      ((s.syncDone e).ember e).win = [] := by
  rw [syncDone_eq hw hb hr]
  obtain ⟨c, hi⟩ := unblock_issued (s := s) (e := e) (m := { s.ember e with win := [] }) (next := s.clk + 24) (cq := cq) (err := false)
  refine ⟨⟨c, hi⟩, ?_⟩
  unfold State.unblock
  refine KeepsEmpty.on (fun u => complete_keepsEmpty u _ (by decide)) e ?_
  exact congrArg Ember.win (setEmber_ember_same ..)

/-- What `sync.i` does in its issue cycle. -/
def syncIIssue (e : Nat) (s : State) (m : Ember) (w : Word128) : Option State := some (s.block e m m (.syncI (wCq w)))

theorem execSyncI_eq (e : Fin 2048) (s : State) : exec (.syncI e) s = live s fun s => (s.issue0 e 0x06 (syncIIssue e)).syncDone e := rfl

theorem waitingAt_onChip (p : State) (e : Nat) (m : Ember) (wt : Wait) (a : Nat) : (p.waitingAt e m wt).onChip a = p.onChip a :=
  onChip_congr (fun f _ i => fld_of_reg (s := p) (t := p.waitingAt e m wt) rfl f i) a

end

/-- The issue clauses of the fences. -/
theorem fences_issue (s p : State) (e : Fin 2048) (m : Ember) (w : Word128) (hrun : s.power = .run) (hr : s.ready e = (p, some (m, some w)))
    (hc : p.check0 m.hearth w = .ok ()) (hpc : p.pcCheck m.hearth (m.pc + 16) = .ok ()) :
    let still (t : State) : Prop := (∀ k, k ≠ e.val → t.ember k = p.ember k) ∧ (∀ a, t.byte a = p.byte a) ∧ ∀ f i, t.fld f i = p.fld f i
    (wordOpc w = 0x05 →
       (m.storesOut = true → p.writing (.ember e (p.emberTag e)) = false →
         ∃ t, exec (.orderG e) s = .next t ∧ (t.ember e).pc = m.pc + 16 ∧ (t.ember e).wait = .none ∧ (t.ember e).backdrafts = 0 ∧
           (∀ i, (t.ember e).a i = if i = wRd w ∧ i ≠ 0 then m.backdrafts % 2 ^ 64 else m.a i) ∧ (wCq w = false → still t)) ∧
       (m.storesOut = false ∨ p.writing (.ember e (p.emberTag e)) = true →
         ∃ t, exec (.orderG e) s = .next t ∧ (t.ember e).wait = .orderG (wRd w) (wCq w) ∧ (∀ i, (t.ember e).a i = m.a i) ∧ still t)) ∧
     (wordOpc w = 0x06 → ((∀ b ∈ m.buf ++ m.air, p.onChip b.addr = false) ∧ ∀ r ∈ m.reeds, p.onChip r.dst = false) →
       ∃ t, exec (.syncI e) s = .next t ∧ (t.ember e).pc = m.pc + 16 ∧ (t.ember e).wait = .none ∧ (t.ember e).win = [] ∧
         p.clk + 24 ≤ (t.ember e).next ∧ (∀ i, (t.ember e).a i = m.a i) ∧ (wCq w = false → still t)) := by
  intro still
  have hm := ((ready_spec hr).1 m _ rfl).1
  refine ⟨fun hw => ⟨fun hout hno => ?_, fun hor => ?_⟩, fun hw ⟨hb, hrd⟩ => ?_⟩
  · obtain ⟨t, ht, hran⟩ := live_ran hrun fun s => (s.issue0 e 0x05 (orderGIssue e)).orderDone e
    rw [blocks_at hr hc hw hpc rfl] at hran
    have hem := waitingAt_ember p e m (.orderG (wRd w) (wCq w))
    obtain ⟨next, c, hi⟩ := orderDone_issued (s := p.waitingAt e m (.orderG (wRd w) (wCq w))) (e := e) (congrArg Ember.wait hem :)
      ((congrArg Ember.storesOut hem).trans hout) ((waitingAt_writing hm _).trans hno)
    have hi := (hi.ran hran).of_base ((waitingAt_issued p e m _).other rfl) rfl rfl
    have hrest := fenced_rest ((m.atIssue p.clk).waitsAt (.orderG (wRd w) (wCq w))) (wRd w)
    rw [hem] at hi
    obtain ⟨wn, v, hte⟩ := hi.ember
    refine ⟨t, ht, ?_, (congrArg Ember.wait hte :), ?_, fun i => ?_, fun hcq => ⟨hi.other hcq, hi.byte hcq, hi.fld hcq⟩⟩
    · exact (congrArg Ember.pc hte :).trans (congrArg Ember.pc hrest :)
    · exact (congrArg Ember.backdrafts hte :).trans (congrArg Ember.backdrafts hrest :)
    · exact (hi.a i).trans (fenced_a ((m.atIssue p.clk).waitsAt (.orderG (wRd w) (wCq w))) (wRd w) i)
  · obtain ⟨t, ht, hran⟩ := live_ran hrun fun s => (s.issue0 e 0x05 (orderGIssue e)).orderDone e
    have hem := waitingAt_ember p e m (.orderG (wRd w) (wCq w))
    rw [blocks_at hr hc hw hpc rfl, orderDone_waits (congrArg Ember.wait hem :) (hor.imp
      (fun h => (congrArg Ember.storesOut hem).trans h) fun h => (waitingAt_writing hm _).trans h)] at hran
    have hi := (waitingAt_issued p e m (.orderG (wRd w) (wCq w))).ran hran
    have hte := (hran.ember e).trans hem
    exact ⟨t, ht, (congrArg Ember.wait hte :), fun i => hi.a i, hi.other rfl, hi.byte rfl, hi.fld rfl⟩
  · obtain ⟨t, ht, hran⟩ := live_ran hrun fun s => (s.issue0 e 0x06 (syncIIssue e)).syncDone e
    rw [blocks_at hr hc hw hpc rfl] at hran
    have hem := waitingAt_ember p e m (.syncI (wCq w))
    obtain ⟨⟨c, hi⟩, hwin⟩ := syncDone_issued (s := p.waitingAt e m (.syncI (wCq w))) (e := e) (congrArg Ember.wait hem :)
      (by rw [hem]; exact fun b h => (waitingAt_onChip ..).trans (hb b h)) (by rw [hem]; exact fun r h => (waitingAt_onChip ..).trans (hrd r h))
    have hi := (hi.ran hran).of_base ((waitingAt_issued p e m _).other rfl) rfl rfl
    rw [hem] at hi
    obtain ⟨wn, v, hte⟩ := hi.ember
    exact ⟨t, ht, (congrArg Ember.pc hte :), (congrArg Ember.wait hte :), (congrArg Ember.win (hran.ember e)).trans hwin,
      Nat.le_of_eq (congrArg Ember.next hte :).symm, fun i => hi.a i, fun hcq => ⟨hi.other hcq, hi.byte hcq, hi.fld hcq⟩⟩

/-- Settles O52: stores by their three steps, the fences at their issue and at their end. -/
theorem emberStoresAndFences : Obligations.EmberStoresAndFences := by
  refine ⟨⟨st_issues, storeDrain_spec, fun s e k b hrun hb _ => storeVisible_spec s e k b hrun hb⟩, fences_issue,
    fun s e rd cq hrun hw hout hno => ?_, fun s e cq hrun hw hb hr => ?_⟩
  · obtain ⟨t, ht, hran⟩ := live_ran hrun fun s => (s.issue0 e 0x05 (orderGIssue e)).orderDone e
    rw [issue0_waiting (by rw [hw]; exact Wait.noConfusion)] at hran
    obtain ⟨next, c, hi⟩ := orderDone_issued hw hout hno
    have hi := hi.ran hran
    obtain ⟨wn, v, hte⟩ := hi.ember
    have hrest := fenced_rest (s.ember e) rd
    exact ⟨t, ht, (congrArg Ember.wait hte :), (congrArg Ember.backdrafts hte :).trans (congrArg Ember.backdrafts hrest :),
      fun i => (hi.a i).trans (fenced_a (s.ember e) rd i)⟩
  · obtain ⟨t, ht, hran⟩ := live_ran hrun fun s => (s.issue0 e 0x06 (syncIIssue e)).syncDone e
    rw [issue0_waiting (by rw [hw]; exact Wait.noConfusion)] at hran
    obtain ⟨⟨c, hi⟩, hwin⟩ := syncDone_issued hw hb hr
    have hi := hi.ran hran
    obtain ⟨wn, v, hte⟩ := hi.ember
    exact ⟨t, ht, (congrArg Ember.wait hte :), (congrArg Ember.win (hran.ember e)).trans hwin,
      Nat.le_of_eq (congrArg Ember.next hte :).symm, fun i => hi.a i⟩

end Sys2Proof.Machine
end

section
/-! PROOF. The end of a DMA transfer: its context is free, its channel shows how it ended, and its record is made (R308 to R310, R336). -/

namespace Sys2Proof.Machine

/-! ### Contexts of channels -/

section
variable (s : State) (c : Nat) (p : Bool) (x : DmaCtx)

theorem setDctx_dctx_same : (s.setDctx c p x).dctx c p = x := by
  cases p
  · exact congrArg Chan.opn (setChan_chan_same s c _)
  · exact congrArg Chan.pln (setChan_chan_same s c _)

theorem setDctx_chan_same :
    (s.setDctx c p x).chan c = if p then { s.chan c with pln := x } else { s.chan c with opn := x } := setChan_chan_same ..

variable {c}

theorem setDctx_chan_other {k : Nat} (h : k ≠ c) : (s.setDctx c p x).chan k = s.chan k := setChan_chan_other _ h _

end

/-- `t` differs from `s` in its channels at most in whether the producer of a context of the kind `p` has faulted (R336). -/
def Fed (p : Bool) (s t : State) : Prop :=
  ∀ k, ∃ b, t.chan k =
    if p then { s.chan k with pln := { (s.chan k).pln with producerFaulted := b } }
    else { s.chan k with opn := { (s.chan k).opn with producerFaulted := b } }

section
variable {p : Bool} {s t u : State}

theorem Fed.of_chans (h : t.chans = s.chans) : Fed p s t := fun k => by
  have hk : t.chan k = s.chan k := congrArg (mget ({} : Chan) k) h
  cases p
  · exact ⟨(s.chan k).opn.producerFaulted, hk⟩
  · exact ⟨(s.chan k).pln.producerFaulted, hk⟩

theorem Fed.trans (h : Fed p s t) (g : Fed p t u) : Fed p s u := fun k => by
  obtain ⟨b, hb⟩ := h k
  obtain ⟨d, hd⟩ := g k
  refine ⟨d, ?_⟩
  rw [hd, hb]
  cases p <;> rfl

theorem Fed.on {b : Bool} {f : State → State} (h : Fed p s (f s)) : Fed p s (s.on b f) := by
  cases b
  · exact .of_chans rfl
  · exact h

theorem failConsumer_fed (s : State) (c : Nat) (p : Bool) : Fed p s (s.failConsumer c p) := by
  unfold State.failConsumer
  cases s.consumerOf c with
  | none => exact .of_chans rfl
  | some j =>
    intro k
    refine ⟨if k = j then true else (s.dctx k p).producerFaulted, ?_⟩
    by_cases h : k = j
    · subst h
      rw [if_pos rfl]
      refine (setDctx_chan_same s k p _).trans ?_
      cases p <;> rfl
    · rw [if_neg h, show (s.setDctx j p _).chan k = _ from setDctx_chan_other s p _ h]
      cases p <;> rfl

theorem Fed.queue (h : Fed p s t) (k : Nat) : (t.chan k).queue = (s.chan k).queue := by
  obtain ⟨b, hb⟩ := h k
  rw [hb]
  cases p <;> rfl

theorem Fed.pwait (h : Fed p s t) (k : Nat) : (t.chan k).pwait = (s.chan k).pwait := by
  obtain ⟨b, hb⟩ := h k
  rw [hb]
  cases p <;> rfl

theorem Fed.xfer (h : Fed p s t) (k : Nat) : (t.dctx k p).xfer = (s.dctx k p).xfer := by
  obtain ⟨b, hb⟩ := h k
  unfold State.dctx
  rw [hb]
  cases p <;> rfl

theorem Fed.pln (h : Fed false s t) (k : Nat) : (t.chan k).pln = (s.chan k).pln := by
  obtain ⟨b, hb⟩ := h k
  rw [hb]
  rfl

theorem Fed.opn (h : Fed true s t) (k : Nat) : (t.chan k).opn = (s.chan k).opn := by
  obtain ⟨b, hb⟩ := h k
  rw [hb]
  rfl

end

theorem Reported.chans {fs : List Fld} {s t : State} (h : Reported fs s t) : t.chans = s.chans := (congrArg State.chans h.rest :)

/-! ### What every end does beside its record -/

/-- The counters that a fault moves. -/
def endFlds : List Fld := [.DMA_FAULT_COUNT, .STREAM_BROKEN_COUNT]

section
variable (s : State) (c : Nat) (p : Bool) (e : End)

theorem setSums_sameButReg (s : State) (i : Nat) (x : Sums) : SameButReg s (s.setSums i x) :=
  .trans (.trans (.trans (setFld_sameButReg s ..) (setFld_sameButReg ..)) (setFld_sameButReg ..)) (setFld_sameButReg ..)

theorem checkEnd_sameButReg (i : Nat) (d : DmaDesc) : SameButReg s (s.checkEnd i d) := by
  unfold State.checkEnd
  split
  · exact setSums_sameButReg s i _
  · exact .refl s

theorem checkEnd_fldsBut (i : Nat) (d : DmaDesc) :
    FldsBut [.SUM_A, .SUM_B, .SUM_PART_BYTES, .SUM_PART_COUNT] s (s.checkEnd i d) := by
  unfold State.checkEnd State.setSums
  refine .ite ?_ (.refl _ s)
  exact (((setFld_fldsBut _ (by decide) _ _).trans (setFld_fldsBut _ (by decide) _ _)).trans (setFld_fldsBut _ (by decide) _ _)).trans
    (setFld_fldsBut _ (by decide) _ _)

theorem failConsumer_reg : (s.failConsumer c p).reg = s.reg := by
  unfold State.failConsumer
  split <;> rfl

theorem failConsumer_mem : (s.failConsumer c p).mem = s.mem := by
  unfold State.failConsumer
  split <;> rfl

theorem bump_chans (f : Fld) (i n : Nat) : (s.bump f i n).chans = s.chans := by
  rw [bump_rest]

theorem on_mem {b : Bool} {f : State → State} (h : ∀ s, (f s).mem = s.mem) : (s.on b f).mem = s.mem := by
  cases b
  · rfl
  · exact h s

theorem afterXfer_fed : Fed p (s.clearCtx c p) (s.afterXfer c p e) :=
  Fed.trans (.on (.trans (.of_chans (bump_chans ..)) (failConsumer_fed _ c p))) (.on (.of_chans (bump_chans ..)))

theorem afterXfer_mem : (s.afterXfer c p e).mem = s.mem :=
  (on_mem _ fun s => bump_mem s _ _ _).trans (on_mem (s.clearCtx c p) fun s => (failConsumer_mem _ c p).trans (bump_mem s _ _ _))

theorem faulted_fldsBut (u : State) : FldsBut [.DMA_FAULT_COUNT] u (u.on (e.status = 0x30) fun s => (s.bump .DMA_FAULT_COUNT).failConsumer c p) :=
  .on fun f i hf => (fld_of_reg (failConsumer_reg ..) f i).trans (bump_fldsBut u (by decide) 0 1 f i hf)

theorem broken_fldsBut (u : State) : FldsBut [.STREAM_BROKEN_COUNT] u (u.on (e.cause = 0x13) fun s => s.bump .STREAM_BROKEN_COUNT) :=
  .on (bump_fldsBut u (by decide) 0 1)

theorem afterXfer_fldsBut : FldsBut endFlds s (s.afterXfer c p e) :=
  FldsBut.trans (s := s.clearCtx c p) ((faulted_fldsBut c p e _).mono (by decide)) ((broken_fldsBut e _).mono (by decide))

variable {s c p e}

theorem afterXfer_faults (h : e.status = 0x30) (hw : s.fld .DMA_FAULT_COUNT + 1 < 2 ^ Fld.width .DMA_FAULT_COUNT) :
    (s.afterXfer c p e).fld .DMA_FAULT_COUNT = s.fld .DMA_FAULT_COUNT + 1 := by
  refine (broken_fldsBut e _ .DMA_FAULT_COUNT 0 (by decide)).trans ?_
  rw [State.on, if_pos (decide_eq_true h)]
  exact (fld_of_reg (failConsumer_reg ..) _ _).trans (bump_fld_self (s := s.clearCtx c p) hw)

theorem afterXfer_broken (h : e.cause = 0x13) (hw : s.fld .STREAM_BROKEN_COUNT + 1 < 2 ^ Fld.width .STREAM_BROKEN_COUNT) :
    (s.afterXfer c p e).fld .STREAM_BROKEN_COUNT = s.fld .STREAM_BROKEN_COUNT + 1 := by
  have hkeep := faulted_fldsBut c p e (s.clearCtx c p) .STREAM_BROKEN_COUNT 0 (by decide)
  rw [State.afterXfer, State.on, if_pos (decide_eq_true h)]
  exact (bump_fld_self (by rw [hkeep]; exact hw)).trans (congrArg (· + 1) hkeep)

end

theorem clearCtx_chan (s : State) (c : Nat) (p : Bool) :
    (s.clearCtx c p).chan c =
      if p then { s.chan c with pln := { fifo := (s.dctx c p).fifo, producerFaulted := (s.dctx c p).producerFaulted } }
      else { s.chan c with opn := { fifo := (s.dctx c p).fifo, producerFaulted := (s.dctx c p).producerFaulted } } :=
  setDctx_chan_same ..

/-! ### A transfer has ended -/

/-- The field in which a context shows its state. -/
def stateFld (p : Bool) : Fld := if p then .PSTAT else .CH_STAT_STATE

/-- Context `p` of channel `c`, in the state `s`, has ended as `e` says with `f`, which left `t`. -/
structure Closed (s : State) (c : Nat) (p : Bool) (f : Xfer) (e : End) (t : State) : Prop where
  chans : Fed p (s.clearCtx c p) t
  shows : t.fld (stateFld p) c = if e.status = 0x30 then chFaulted else chIdle
  done : p = false → t.flag .CH_STAT_DONE c = true
  enable : e.status = 0x30 → t.flag .CH_CTRL_ENABLE c = false
  faults : e.status = 0x30 → s.fld .DMA_FAULT_COUNT + 1 < 2 ^ Fld.width .DMA_FAULT_COUNT →
    t.fld .DMA_FAULT_COUNT = s.fld .DMA_FAULT_COUNT + 1
  broken : e.cause = 0x13 → s.fld .STREAM_BROKEN_COUNT + 1 < 2 ^ Fld.width .STREAM_BROKEN_COUNT →
    t.fld .STREAM_BROKEN_COUNT = s.fld .STREAM_BROKEN_COUNT + 1
  silent : e.status ≠ 0x30 → f.ctx.cq = false → ∀ a, t.byte a = s.byte a

section
variable {s t : State} {c : Nat} {p : Bool} {f : Xfer} {e : End} (h : Closed s c p f e t)
include h

theorem Closed.xfer : (t.dctx c p).xfer = none := by
  rw [h.chans.xfer, State.dctx, clearCtx_chan]
  cases p <;> rfl

theorem Closed.queue : (t.chan c).queue = (s.chan c).queue := by
  rw [h.chans.queue, clearCtx_chan]
  cases p <;> rfl

theorem Closed.pwait : (t.chan c).pwait = (s.chan c).pwait := by
  rw [h.chans.pwait, clearCtx_chan]
  cases p <;> rfl

end

theorem Closed.pln {s t : State} {c : Nat} {f : Xfer} {e : End} (h : Closed s c false f e t) : (t.chan c).pln = (s.chan c).pln := by
  rw [h.chans.pln, clearCtx_chan]
  rfl

theorem Closed.opn {s t : State} {c : Nat} {f : Xfer} {e : End} (h : Closed s c true f e t) : (t.chan c).opn = (s.chan c).opn := by
  rw [h.chans.opn, clearCtx_chan]
  rfl

/-- An end that is no fault, of work that asks for no record, makes none. -/
theorem complete_silent (s : State) {x : Ctx} {e : End} (hs : e.status ≠ 0x30) (hq : x.cq = false) : s.complete x e = s := by
  unfold State.complete State.completeLate State.on
  simp [hs, hq]

end Sys2Proof.Machine
end

section
/-! PROOF. How a DMA context completes, faults, pauses or breaks (R308 to R310, R318, R336). -/

namespace Sys2Proof.Machine

/-! ### The open context ends -/

/-- What the registers of channel `c` show as its open transfer `f` ends with the status `st`; `flt`: it faults. -/
def State.showEnd (s : State) (c : Nat) (f : Xfer) (flt : Bool) (st : Nat) : State :=
  let s := ((s.setFld .CH_STAT_LAST_STATUS c st).setFld .CH_STAT_DONE c 1).setFld .RING_STAT_WAITING c 0
  let s := if flt then (s.setFld .CH_CTRL_ENABLE c 0).setFld .CH_STAT_STATE c chFaulted else s.setFld .CH_STAT_STATE c chIdle
  s.on f.reg fun s => s.setFld .CH_CTRL_START c (b2n ((s.chan c).queue.any (·.reg)))

/-- The heat slot of a transfer that ends. -/
def State.heatEnd (s : State) (f : Xfer) (flt : Bool) : State :=
  match f.heat with
  | none => s
  | some h => s.setHeat h (if flt then 3 else 2)

/-- The fields of `State.showEnd`. -/
def showEndFlds : List Fld :=
  [.CH_STAT_LAST_STATUS, .CH_STAT_DONE, .RING_STAT_WAITING, .CH_CTRL_ENABLE, .CH_STAT_STATE, .CH_CTRL_START]

section
variable (s : State) (c : Nat) (f : Xfer) (flt : Bool) (st : Nat)

theorem heatEnd_rest : ∃ h k o, s.heatEnd f flt = { s with heat := h, heatClk := k, heatOld := o } := by
  unfold State.heatEnd
  split
  · exact ⟨_, _, _, rfl⟩
  · exact ⟨_, _, _, rfl⟩

theorem heatEnd_reg : (s.heatEnd f flt).reg = s.reg := by
  obtain ⟨h, k, o, he⟩ := heatEnd_rest s f flt
  rw [he]

theorem heatEnd_mem : (s.heatEnd f flt).mem = s.mem := by
  obtain ⟨h, k, o, he⟩ := heatEnd_rest s f flt
  rw [he]

theorem heatEnd_chans : (s.heatEnd f flt).chans = s.chans := by
  obtain ⟨h, k, o, he⟩ := heatEnd_rest s f flt
  rw [he]

theorem SameButReg.on {s : State} {b : Bool} {g : State → State} (h : ∀ s, SameButReg s (g s)) : SameButReg s (s.on b g) := by
  cases b
  · exact .refl s
  · exact h s

theorem SameButReg.ite {s t u : State} {b : Prop} [Decidable b] (ht : SameButReg s t) (hu : SameButReg s u) :
    SameButReg s (if b then t else u) := by
  split <;> assumption

theorem showEnd_sameButReg : SameButReg s (s.showEnd c f flt st) := by
  refine .trans (((setFld_sameButReg s _ c st).trans (setFld_sameButReg _ _ c 1)).trans (setFld_sameButReg _ _ c 0)) (.trans
    (.ite ((setFld_sameButReg _ _ c 0).trans (setFld_sameButReg _ _ c chFaulted)) (setFld_sameButReg _ _ c chIdle))
    (.on fun s => setFld_sameButReg s _ c _))

theorem showEnd_fldsBut : FldsBut showEndFlds s (s.showEnd c f flt st) := by
  refine FldsBut.trans (((setFld_fldsBut s ?_ c st).trans (setFld_fldsBut _ ?_ c 1)).trans (setFld_fldsBut _ ?_ c 0))
    (FldsBut.trans (.ite ((setFld_fldsBut _ ?_ c 0).trans (setFld_fldsBut _ ?_ c chFaulted)) (setFld_fldsBut _ ?_ c chIdle))
      (.on (setFld_fldsBut _ ?_ c _))) <;> decide

/-- A start bit that is shown again changes no other field. -/
theorem shownStart_fld {g : Fld} (hg : g ≠ .CH_CTRL_START) (i : Nat) :
    (s.on f.reg fun s => s.setFld .CH_CTRL_START c (b2n ((s.chan c).queue.any (·.reg)))).fld g i = s.fld g i :=
  on_fld (setFld_fld_ne s hg c i _)

theorem showEnd_state : (s.showEnd c f flt st).fld .CH_STAT_STATE c = if flt then chFaulted else chIdle := by
  refine (shownStart_fld _ c f (by decide) c).trans ?_
  cases flt
  · exact setFld_fld_same ..
  · exact setFld_fld_same ..

theorem showEnd_done : (s.showEnd c f flt st).flag .CH_STAT_DONE c = true := by
  have hshown : (((s.setFld .CH_STAT_LAST_STATUS c st).setFld .CH_STAT_DONE c 1).setFld .RING_STAT_WAITING c 0).fld .CH_STAT_DONE c = 1 :=
    (setFld_fld_ne _ (by decide) c c 0).trans (setFld_fld_same ..)
  have hone : (s.showEnd c f flt st).fld .CH_STAT_DONE c = 1 := by
    refine (shownStart_fld _ c f (by decide) c).trans ?_
    cases flt
    · exact (setFld_fld_ne _ (by decide) c c _).trans hshown
    · exact ((setFld_fld_ne _ (by decide) c c _).trans (setFld_fld_ne _ (by decide) c c _)).trans hshown
  rw [State.flag, hone]
  rfl

theorem showEnd_enable : (s.showEnd c f true st).flag .CH_CTRL_ENABLE c = false := by
  have hzero : (s.showEnd c f true st).fld .CH_CTRL_ENABLE c = 0 :=
    (shownStart_fld _ c f (by decide) c).trans ((setFld_fld_ne _ (by decide) c c _).trans (setFld_fld_same ..))
  rw [State.flag, hzero]
  rfl

variable {f} (e : End)

theorem closeOpen_eq (hring : f.ring = none) : ∃ st,
    s.closeOpen c f e =
      ((((s.checkEnd c (s.chan c).opn.desc).afterXfer c false e).showEnd c f (e.status = 0x30) st).heatEnd f (e.status = 0x30)).complete f.ctx
        { e with atag := some (0x8000 + c) } := by
  refine ⟨if e.status = 0 && s.ticksLate f.ctx > 0 then 0x01 else e.status, ?_⟩
  unfold State.closeOpen State.showEnd State.heatEnd
  rw [hring]
  simp only [decide_eq_true_eq]
  rfl

theorem clearCtx_checkEnd (p : Bool) (d : DmaDesc) (i : Nat) : ((s.checkEnd i d).clearCtx c p).chans = (s.clearCtx c p).chans := by
  rw [checkEnd_sameButReg s i d]
  rfl

theorem closeOpen_closed (hring : f.ring = none) : Closed s c false f e (s.closeOpen c f e) := by
  obtain ⟨st, heq⟩ := closeOpen_eq s c e hring
  rw [heq]
  have hcheck := checkEnd_fldsBut s c (s.chan c).opn.desc
  generalize hu : s.checkEnd c (s.chan c).opn.desc = u at *
  have hmem : u.mem = s.mem := by rw [← hu, checkEnd_sameButReg s]
  have hclear : (u.clearCtx c false).chans = (s.clearCtx c false).chans := by rw [← hu, clearCtx_checkEnd]
  generalize ha : u.afterXfer c false e = a
  generalize hb : a.showEnd c f (e.status = 0x30) st = b
  generalize hd : b.heatEnd f (e.status = 0x30) = d
  have hbReg : SameButReg a b := hb ▸ showEnd_sameButReg ..
  have hrep := complete_reported d f.ctx { e with atag := some (0x8000 + c) }
  have hdb : d.reg = b.reg := hd ▸ heatEnd_reg ..
  have hend {g : Fld} (hg : g ∉ reportFlds) (i : Nat) : (d.complete f.ctx { e with atag := some (0x8000 + c) }).fld g i = b.fld g i :=
    (hrep.fld hg i).trans (fld_of_reg hdb g i)
  have hcount {g : Fld} (hg : g ∉ reportFlds) (hs : g ∉ showEndFlds) :
      ∀ i, (d.complete f.ctx { e with atag := some (0x8000 + c) }).fld g i = a.fld g i := fun i =>
    (hend hg i).trans (hb ▸ showEnd_fldsBut a c f _ st g i hs)
  refine ⟨?_, ?_, fun _ => ?_, fun hflt => ?_, fun hflt hw => ?_, fun hcause hw => ?_, fun hs hq x => ?_⟩
  · have hchans : (d.complete f.ctx { e with atag := some (0x8000 + c) }).chans = a.chans :=
      (hrep.chans.trans (hd ▸ heatEnd_chans ..)).trans (congrArg State.chans hbReg :)
    exact ((Fed.of_chans hclear).trans (ha ▸ afterXfer_fed u c false e)).trans (.of_chans hchans)
  · refine (hend (by decide) c).trans ?_
    rw [← hb]
    exact (showEnd_state a c f (e.status = 0x30) st).trans (by simp)
  · refine (congrArg (· != 0) (hend (by decide) c)).trans ?_
    rw [← hb]
    exact showEnd_done ..
  · refine (congrArg (· != 0) (hend (by decide) c)).trans ?_
    rw [← hb, decide_eq_true hflt]
    exact showEnd_enable ..
  · have hu0 := hcheck .DMA_FAULT_COUNT 0 (by decide)
    rw [hcount (by decide) (by decide) 0, ← ha, afterXfer_faults hflt (by rw [hu0]; exact hw), hu0]
  · have hu0 := hcheck .STREAM_BROKEN_COUNT 0 (by decide)
    rw [hcount (by decide) (by decide) 0, ← ha, afterXfer_broken hcause (by rw [hu0]; exact hw), hu0]
  · have hmems : d.mem = s.mem := ((hd ▸ heatEnd_mem ..).trans (congrArg State.mem hbReg :)).trans ((ha ▸ afterXfer_mem ..).trans hmem)
    rw [complete_silent d (e := { e with atag := some (0x8000 + c) }) hs hq]
    exact congrArg (mget 0 x) hmems

/-! ### The planned context ends -/

/-- What PSTAT and ENABLE show as a planned transfer ends. -/
def State.showPlanned (s : State) (c : Nat) (flt : Bool) : State :=
  (s.setFld .PSTAT c (if flt then chFaulted else chIdle)).on flt fun s => s.setFld .CH_CTRL_ENABLE c 0

theorem showPlanned_sameButReg : SameButReg s (s.showPlanned c flt) := by
  cases flt <;> rfl

theorem showPlanned_fldsBut : FldsBut [.PSTAT, .CH_CTRL_ENABLE] s (s.showPlanned c flt) :=
  (setFld_fldsBut s (by decide) c _).trans (.on (setFld_fldsBut _ (by decide) c 0))

theorem showPlanned_state : (s.showPlanned c flt).fld .PSTAT c = if flt then chFaulted else chIdle := by
  refine (on_fld (setFld_fld_ne _ (by decide) c c 0)).trans ((setFld_fld_same ..).trans ?_)
  cases flt <;> rfl

theorem showPlanned_enable : (s.showPlanned c true).flag .CH_CTRL_ENABLE c = false := by
  have hzero : (s.showPlanned c true).fld .CH_CTRL_ENABLE c = 0 := setFld_fld_same ..
  rw [State.flag, hzero]
  rfl

/-- How a planned transfer that ended as `e` says completes: past its contracted cycle it is late (R310). -/
def State.plannedEnd (s : State) (f : Xfer) (e : End) : End :=
  if e.status = 0 && (f.contract != 0 && f.contract < s.clk) then { e with status := 0x01 } else e

theorem plannedEnd_fault (f : Xfer) : (s.plannedEnd f e).status = 0x30 ↔ e.status = 0x30 := by
  unfold State.plannedEnd
  split
  · next h =>
    have h0 : e.status = 0 := by simp_all
    simp [h0]
  · rfl

theorem plannedEnd_cause (f : Xfer) : (s.plannedEnd f e).cause = e.cause := by
  unfold State.plannedEnd
  split <;> rfl

theorem closePlanned_closed (f : Xfer) : Closed s c true f e (s.closePlanned c f e) := by
  have heq : s.closePlanned c f e = (((s.checkEnd (ctxInst c true) (s.chan c).pln.desc).afterXfer c true (s.plannedEnd f e)).showPlanned c
      ((s.plannedEnd f e).status = 0x30)).complete f.ctx { s.plannedEnd f e with atag := some (0x8040 + c) } := by
    unfold State.closePlanned State.showPlanned State.plannedEnd
    simp only [decide_eq_true_eq]
  rw [heq]
  have hflt := plannedEnd_fault s e f
  have hcause := plannedEnd_cause s e f
  have hcheck := checkEnd_fldsBut s (ctxInst c true) (s.chan c).pln.desc
  generalize s.plannedEnd f e = e' at *
  generalize hu : s.checkEnd (ctxInst c true) (s.chan c).pln.desc = u at *
  have hmem : u.mem = s.mem := by rw [← hu, checkEnd_sameButReg s]
  have hclear : (u.clearCtx c true).chans = (s.clearCtx c true).chans := by rw [← hu, clearCtx_checkEnd]
  generalize ha : u.afterXfer c true e' = a
  generalize hb : a.showPlanned c (e'.status = 0x30) = b
  have hbReg : SameButReg a b := hb ▸ showPlanned_sameButReg ..
  have hrep := complete_reported b f.ctx { e' with atag := some (0x8040 + c) }
  have hcount {g : Fld} (hg : g ∉ reportFlds) (hs : g ∉ [Fld.PSTAT, .CH_CTRL_ENABLE]) :
      ∀ i, (b.complete f.ctx { e' with atag := some (0x8040 + c) }).fld g i = a.fld g i := fun i =>
    (hrep.fld hg i).trans (hb ▸ showPlanned_fldsBut a c _ g i hs)
  refine ⟨?_, ?_, fun h => (nomatch h), fun h => ?_, fun h hw => ?_, fun h hw => ?_, fun h hq x => ?_⟩
  · have hchans : (b.complete f.ctx { e' with atag := some (0x8040 + c) }).chans = a.chans :=
      hrep.chans.trans (congrArg State.chans hbReg :)
    exact ((Fed.of_chans hclear).trans (ha ▸ afterXfer_fed u c true e')).trans (.of_chans hchans)
  · refine (hrep.fld (by decide) c).trans ?_
    rw [← hb]
    exact (showPlanned_state a c (e'.status = 0x30)).trans (by simp only [decide_eq_true_eq, hflt])
  · refine (congrArg (· != 0) (hrep.fld (by decide) c)).trans ?_
    rw [← hb, decide_eq_true (hflt.mpr h)]
    exact showPlanned_enable ..
  · have hu0 := hcheck .DMA_FAULT_COUNT 0 (by decide)
    rw [hcount (by decide) (by decide) 0, ← ha, afterXfer_faults (hflt.mpr h) (by rw [hu0]; exact hw), hu0]
  · have hu0 := hcheck .STREAM_BROKEN_COUNT 0 (by decide)
    rw [hcount (by decide) (by decide) 0, ← ha, afterXfer_broken (hcause.trans h) (by rw [hu0]; exact hw), hu0]
  · have hmems : b.mem = s.mem := (congrArg State.mem hbReg :).trans ((ha ▸ afterXfer_mem ..).trans hmem)
    rw [complete_silent b (e := { e' with atag := some (0x8040 + c) }) (fun k => h (hflt.mp k)) hq]
    exact congrArg (mget 0 x) hmems

theorem closeXfer_closed (p : Bool) (hring : f.ring = none) : Closed s c p f e (s.closeXfer c p f e) := by
  unfold State.closeXfer
  cases p
  · rw [if_neg (by decide)]
    exact closeOpen_closed s c e hring
  · rw [if_pos rfl]
    exact closePlanned_closed s c e f

end

end Sys2Proof.Machine
end

section
/-! PROOF. A DMA transfer that has come to its end by itself: it completes, faults, breaks or pauses at once (R308 to R310, R318, R336). -/

namespace Sys2Proof.Machine

/-! ### How a transfer ends -/

/-- The end of the transfer of context `p` of channel `c`, its check finished. -/
def State.endOf (s : State) (c : Nat) (p : Bool) : End := (s.checkEnd (ctxInst c p) (s.dctx c p).desc).xferEnd c p

section
variable {s : State} {c : Nat} {p : Bool}

theorem checkEnd_dctx (s : State) (i : Nat) (d : DmaDesc) (c : Nat) (p : Bool) : (s.checkEnd i d).dctx c p = s.dctx c p := by
  rw [checkEnd_sameButReg s i d]
  rfl

theorem endOf_fault {cause sub addr len : Nat} (h : (s.dctx c p).ending = .fault cause sub addr len) :
    s.endOf c p = .faulted cause sub addr len := by
  unfold State.endOf State.xferEnd
  dsimp only
  rw [checkEnd_dctx, h]

theorem endOf_plain (h : (s.dctx c p).ending = .running) (hb : (s.dctx c p).backdraft = 0) : (s.endOf c p).status ≠ 0x30 := by
  unfold State.endOf State.xferEnd
  dsimp only
  rw [checkEnd_dctx, h]
  dsimp only
  rw [if_neg (by simp [hb])]
  split
  · exact (by decide : (2 : Nat) ≠ 0x30)
  · exact (by decide : (0 : Nat) ≠ 0x30)

variable {f : Xfer}

theorem finishOne_eq (hx : (s.dctx c p).xfer = some f) (hring : f.ring = none) (hdone : s.xferDone c p = true)
    (hdue : (s.dctx c p).due < s.clk) (hmode : (s.endOf c p).status = 0x30 ∨ s.ringMode c ≠ 1) :
    s.finishOne c p = s.closeXfer c p f (s.endOf c p) := by
  have hnow : s.toClk ((s.dctx c p).due + 1) = s := if_pos hdue
  unfold State.finishOne
  rw [hx]
  dsimp only
  rw [if_neg (by simp [hdone, hring]), hnow, if_neg]
  · rfl
  · show ¬((s.endOf c p).status != 0x30 && s.ringMode c = 1) = true
    cases hmode with
    | inl h => simp [h]
    | inr h => simp [h]

theorem on_off (s : State) (f : State → State) : s.on false f = s := rfl

theorem startPlanned_idle (h : (s.chan c).pwait = []) : s.startPlanned c = s := by
  unfold State.startPlanned
  dsimp only
  rw [h]

theorem runOut_closed (hx : (s.dctx c p).xfer = some f) (hring : f.ring = none) (hdone : s.xferDone c p = true)
    (hdue : (s.dctx c p).due < s.clk) (hmode : (s.endOf c p).status = 0x30 ∨ s.ringMode c ≠ 1)
    (hfirst : p = false → s.ringMode c = 1 → s.xferDone c true = false) (hwait : p = true → (s.chan c).pwait = []) :
    Closed s c p f (s.endOf c p) (s.runOut c p) := by
  have hcl := closeXfer_closed s c (s.endOf c p) p hring
  have hone : s.finishXfer c p = s.closeXfer c p f (s.endOf c p) := by
    have hcond : (!p && decide (s.ringMode c = 1) && s.xferDone c true) = false := by
      cases p
      · by_cases h1 : s.ringMode c = 1
        · simp [hfirst rfl h1]
        · simp [h1]
      · rfl
    rw [State.finishXfer, hcond, on_off]
    exact finishOne_eq hx hring hdone hdue hmode
  have hend : (s.finishXfer c p).on p (fun s => s.startPlanned c) = s.closeXfer c p f (s.endOf c p) := by
    rw [hone]
    generalize s.closeXfer c p f (s.endOf c p) = u at hcl ⊢
    cases hp : p
    · exact on_off u _
    · exact startPlanned_idle (hcl.pwait.trans (hwait hp))
  unfold State.runOut
  dsimp only
  rw [runUntil_now hdone, if_pos hdone, hend]
  exact hcl

/-! ### The commands -/

/-- What a transfer that is to end has in common: it is there, all it wrote is visible, and no ring takes its handle before. -/
structure Ends (s : State) (c : Nat) (p : Bool) (f : Xfer) : Prop where
  run : s.power = .run
  xfer : (s.dctx c p).xfer = some f
  writing : s.writing (.dma c p) = false
  ring : f.ring = none
  due : (s.dctx c p).due < s.clk
  out : (s.dctx c p).out = []
  first : p = false → s.ringMode c = 1 → s.xferDone c true = false
  wait : p = true → (s.chan c).pwait = []

theorem xferDone_of_ending (hx : (s.dctx c p).xfer = some f) (hw : s.writing (.dma c p) = false) (ho : (s.dctx c p).out = [])
    (h : (s.dctx c p).ending ≠ .running) : s.xferDone c p = true := by
  simp [State.xferDone, hx, hw, ho, h]

theorem Ends.completes (h : Ends s c p f) (hmode : s.ringMode c ≠ 1) (hdone : s.xferDone c p = true) :
    Closed s c p f (s.endOf c p) (s.runOut c p) :=
  runOut_closed h.xfer h.ring hdone h.due (.inr hmode) h.first h.wait

theorem Ends.faults (h : Ends s c p f) {cause sub addr len : Nat} (hf : (s.dctx c p).ending = .fault cause sub addr len) :
    Closed s c p f (.faulted cause sub addr len) (s.runOut c p) := by
  have he := endOf_fault hf
  rw [← he]
  exact runOut_closed h.xfer h.ring (xferDone_of_ending h.xfer h.writing h.out (by rw [hf]; exact fun k => nomatch k)) h.due
    (.inl (by rw [he]; rfl)) h.first h.wait

end

section
variable {s : State} {c : Fin 64} {p : Bool} {f : Xfer}

theorem execComplete_closed (h : Ends s c p f) (hmode : s.ringMode c ≠ 1) (hring : (s.dctx c p).ringWait = false)
    (hdone : s.xferDone c p = true) :
    ∃ u t, exec (.dmaTransferComplete c p) s = .next t ∧ Ran u t ∧ Closed s c p f (s.endOf c p) u := by
  obtain ⟨t, ht, hr⟩ := live_ran h.run fun s => if (s.dctx c p).ringWait then s else s.runOut c p
  refine ⟨_, t, ht, hr, ?_⟩
  rw [if_neg (by simp [hring])]
  exact h.completes hmode hdone

theorem execFault_closed (h : Ends s c p f) {cause sub addr len : Nat} (hf : (s.dctx c p).ending = .fault cause sub addr len) :
    ∃ u t, exec (.dmaFault c p) s = .next t ∧ Ran u t ∧ Closed s c p f (.faulted cause sub addr len) u := by
  have hne : ((s.dctx c p).ending != .running) = true := by rw [hf]; rfl
  have hnow : s.runUntil (fun v => (v.dctx c p).ending != .running || (v.dctx c p).xfer.isNone) (s.dctx c p).span = s :=
    runUntil_now (by rw [hne]; rfl) _
  obtain ⟨t, ht, hr⟩ := live_ran h.run fun s =>
    let u := s.runUntil (fun v => (v.dctx c p).ending != .running || (v.dctx c p).xfer.isNone) (s.dctx c p).span
    if (u.dctx c p).xfer.isSome && (u.dctx c p).ending != .running then u.runOut c p else s
  refine ⟨_, t, ht, hr, ?_⟩
  dsimp only
  rw [hnow, if_pos (by rw [hne, h.xfer]; rfl)]
  exact h.faults hf

/-- The context in which an indexed consumer breaks. -/
def DmaCtx.broken (x : DmaCtx) : DmaCtx := { x with fifo := [], producerFaulted := false, ending := .fault 0x13 0 0 0 }

theorem setDctx_dctx_other (s : State) (c : Nat) {p q : Bool} (h : q ≠ p) (x : DmaCtx) : (s.setDctx c p x).dctx c q = s.dctx c q := by
  unfold State.dctx
  rw [setDctx_chan_same]
  cases p <;> cases q
  · exact absurd rfl h
  · rfl
  · rfl
  · exact absurd rfl h

theorem execBroken_closed (h : Ends s c p f) (hs : s.starves c p = true) (hd : (s.dctx c p).drained = true)
    (hp : p = true ∨ (s.dctx c p).producerFaulted = true) :
    ∃ u t, exec (.streamBroken c p) s = .next t ∧ Ran u t ∧
      Closed (s.setDctx c p (s.dctx c p).broken) c p f (.faulted 0x13 0 0 0) u := by
  obtain ⟨t, ht, hr⟩ := live_ran h.run fun s =>
    let u := s.runUntil (fun v => v.starves c p) (s.dctx c p).span
    let x := u.dctx c p
    if u.starves c p && (p || x.producerFaulted) then
      let y := { x with fifo := [], producerFaulted := false }
      (u.setDctx c p (if y.drained then { y with ending := .fault 0x13 0 0 0 } else { y with failing := .fault 0x13 0 0 0 })).runOut c p
    else s
  refine ⟨_, t, ht, hr, ?_⟩
  dsimp only
  have hdrained : { s.dctx c p with fifo := [], producerFaulted := false }.drained = true := hd
  rw [runUntil_now hs, if_pos (by cases hp with | inl k => rw [hs, k]; rfl | inr k => rw [hs, k, Bool.or_true]; rfl), if_pos hdrained]
  have hb := setDctx_dctx_same s c p (s.dctx c p).broken
  refine Ends.faults (s := s.setDctx c p (s.dctx c p).broken)
    ⟨h.run, ?_, h.writing, h.ring, ?_, ?_, fun k hm => ?_, fun k => ?_⟩ (by rw [hb]; rfl)
  · rw [hb]
    exact h.xfer
  · rw [hb]
    exact h.due
  · rw [hb]
    exact h.out
  · subst k
    have hother := setDctx_dctx_other s c (p := false) (q := true) (by decide) (s.dctx c false).broken
    have hdone := h.first rfl hm
    unfold State.xferDone at hdone ⊢
    rw [hother]
    exact hdone
  · subst k
    have hpw : ((s.setDctx c true (s.dctx c true).broken).chan c).pwait = (s.chan c).pwait :=
      (congrArg Chan.pwait (setDctx_chan_same s c true (s.dctx c true).broken)).trans rfl
    exact hpw.trans (h.wait rfl)

/-! ### Pausing (R318) -/

theorem showCur_sameButReg (s : State) (c : Nat) (p : Bool) : SameButReg s (s.showCur c p) :=
  .trans (.trans (.trans (setFld_sameButReg s ..) (setFld_sameButReg ..)) (setFld_sameButReg ..)) (setFld_sameButReg ..)

theorem showCur_fldsBut (s : State) (c : Nat) (p : Bool) : FldsBut [.SRC_CUR, .DST_CUR, .REMAIN, .POS] s (s.showCur c p) :=
  .trans (.trans (.trans (setFld_fldsBut s (by decide) _ _) (setFld_fldsBut _ (by decide) _ _)) (setFld_fldsBut _ (by decide) _ _))
    (setFld_fldsBut _ (by decide) _ _)

theorem execPaused (hrun : s.power = .run) (hdue : (s.chan c).opn.due < s.clk) (hp : s.pauseReady c = true) :
    ∃ u t v, exec (.dmaPaused c) s = .next t ∧ Ran u t ∧
      u = ((s.setFld .CH_STAT_STATE c chPaused).showCur c false).setDctx c false { (s.chan c).opn with shown := v } := by
  have hst : s.chSt c = chPausing := by
    unfold State.pauseReady at hp
    simp only [Bool.and_eq_true, decide_eq_true_eq] at hp
    tauto
  have hnow : s.toClk (s.chan c).opn.due = s := if_pos hdue.le
  obtain ⟨t, ht, hr⟩ := live_ran hrun fun s => s.enterPaused c
  have hchan : ((s.setFld .CH_STAT_STATE c chPaused).showCur c false).chan c = s.chan c := by
    rw [showCur_sameButReg]
    rfl
  refine ⟨_, t, (((s.setFld .CH_STAT_STATE c chPaused).showCur c false).fld .SRC_CUR c,
    ((s.setFld .CH_STAT_STATE c chPaused).showCur c false).fld .DST_CUR c), ht, hr, ?_⟩
  unfold State.enterPaused
  rw [if_neg (by simp [hst])]
  dsimp only
  rw [runUntil_now hp, if_neg (by simp [hp]), hnow, hchan]

end

end Sys2Proof.Machine
end

section
/-! PROOF. The bytes of a DMA context: sampled by a read group, sent in beats by a write group, and visible as they left (R286, R299, R403). -/

namespace Sys2Proof.Machine

/-! ### Read groups -/

/-- The bytes of a read group whose requests have taken effect are those that stand at its source. -/
theorem sampleRead_spec {s : State} {c : Nat} {p : Bool} {k ga n z : Nat} {r : DmaRead} (hk : (s.dctx c p).rds[k]? = some r)
    (hsrc : r.src = some (ga, n)) (hdata : r.data = none) (hsmp : r.sample = some z) (hz : z ≤ s.clk) (hon : s.onChip ga = true)
    (hfen : s.fenced (localOf ga) n = false) (hmir : regionOf (localOf ga) ≠ some .mirror) :
    (∃ r', ((State.sampleRead c p k s).dctx c p).rds[k]? = some r' ∧ r'.data = some (s.bytes (localOf ga) n) ∧ r'.dst = r.dst) ∧
      (∀ a, (State.sampleRead c p k s).byte a = s.byte a) ∧ ∀ f i, (State.sampleRead c p k s).fld f i = s.fld f i := by
  have hread : s.localRead (localOf ga) n = (s, s.bytes (localOf ga) n) := if_neg hmir
  have heq : ∃ y : DmaRead, y.data = some (s.bytes (localOf ga) n) ∧ y.dst = r.dst ∧
      State.sampleRead c p k s = s.setDctx c p { s.dctx c p with rds := (s.dctx c p).rds.set k y } := by
    refine ⟨{ r with sample := some z, data := some (s.bytes (localOf ga) n),
                     at_ := z + (s.readLat ga - s.sampleLat ga) + (s.dctx c p).desc.lag }, rfl, rfl, ?_⟩
    unfold State.sampleRead
    dsimp only
    rw [hk]
    dsimp only
    rw [hsrc]
    dsimp only
    rw [if_neg (by simp [hdata, hon]), hsmp]
    dsimp only [Option.or]
    rw [if_neg (by omega), if_neg (by simp [hfen]), hread]
  obtain ⟨y, hy, hdst, he⟩ := heq
  rw [he]
  refine ⟨⟨y, ?_, hy, hdst⟩, fun _ => rfl, fun _ _ => rfl⟩
  rw [setDctx_dctx_same]
  exact List.getElem?_set_self (List.getElem?_eq_some_iff.mp hk).1

/-! ### Writes that become visible -/

theorem localWrite_chans {s : State} {a : Nat} {bs : List Byte} (hm : regionOf a ≠ some .mirror) (hf : s.fenced a bs.length = false) :
    (s.localWrite a bs).chans = s.chans := by
  have hw : s.localWrite a bs = ((s.keepRows a bs.length).store a bs).tamper a bs.length := if_neg hm
  have hk : (s.keepRows a bs.length).chans = s.chans := by
    unfold State.keepRows
    split <;> rfl
  have hkr : (s.keepRows a bs.length).reg = s.reg := by
    unfold State.keepRows
    split <;> rfl
  have hfen : (s.keepRows a bs.length).fenced a bs.length = false := (fenced_congr (fun f _ i => congrArg (mget _ _) hkr) a _).trans hf
  rw [hw]
  exact (store_reported hfen).chans.trans hk

/-- A single write that is on its way becomes visible as exactly its bytes. -/
theorem pollOut_spec {s : State} {c : Nat} {p : Bool} {o : DmaOut} {z : Nat} (hout : (s.dctx c p).out = [o]) (hvis : o.vis = some z)
    (hz : z ≤ s.clk) (hfen : s.fenced (localOf o.ga) o.bytes.length = false) (hmir : regionOf (localOf o.ga) ≠ some .mirror) :
    ((State.pollOut c p s).dctx c p).out = [] ∧ Stored s (State.pollOut c p s) (localOf o.ga) o.bytes ∧
      FldsBut [.REFETCH_COUNT] s (State.pollOut c p s) := by
  have hmap : (s.dctx c p).out.map (fun o => if o.vis.isSome then o else { o with vis := (s.xbGot o.req).map (· + o.lat) }) = [o] := by
    rw [hout]
    simp [hvis]
  have hnow : o.vis.any (· ≤ s.clk) = true := by
    rw [hvis]
    exact decide_eq_true hz
  have heq : ∃ x : DmaCtx, x.out = [] ∧ State.pollOut c p s = (s.setDctx c p x).localWrite (localOf o.ga) o.bytes := by
    refine ⟨{ s.dctx c p with
                out := [], due := (([o].filter fun o => o.vis.any (· ≤ s.clk)).map fun o => o.vis.getD 0).foldl max (s.dctx c p).due }, rfl, ?_⟩
    unfold State.pollOut
    dsimp only
    have hall : [o].filter (fun o => o.vis.any (· ≤ s.clk)) = [o] := List.filter_eq_self.mpr (by simpa using hnow)
    have hrest : [o].filter (fun o => !o.vis.any (· ≤ s.clk)) = [] := List.filter_eq_nil_iff.mpr (by simpa using hnow)
    rw [hmap, hall, hrest]
    rfl
  obtain ⟨x, hx, he⟩ := heq
  rw [he]
  obtain ⟨hst, hfl⟩ := localWrite_stored (s := s.setDctx c p x) hmir hfen
  refine ⟨?_, fun a => hst a, fun f i hf => hfl f i hf⟩
  have hch : ((s.setDctx c p x).localWrite (localOf o.ga) o.bytes).dctx c p = (s.setDctx c p x).dctx c p := by
    unfold State.dctx State.chan
    rw [localWrite_chans (s := s.setDctx c p x) hmir hfen]
  rw [hch, setDctx_dctx_same, hx]

/-! ### Beats -/

theorem beatSplit_flatten : ∀ (k a : Nat) (bs : List Byte), bs.length < k → ((beatSplit a bs k).map (·.2)).flatten = bs
  | 0, _, _, h => absurd h (Nat.not_lt_zero _)
  | k + 1, a, bs, h => by
    unfold beatSplit
    by_cases hb : bs = []
    · subst hb
      rfl
    · have hpos : 0 < bs.length := List.length_pos_iff.mpr hb
      have hmod : a % 64 < 64 := Nat.mod_lt _ (by decide)
      rw [if_neg (by simpa using hb), List.map_cons, List.flatten_cons,
        beatSplit_flatten k _ _ (by rw [List.length_drop]; omega), List.take_append_drop]

/-- A beat holds the bytes from its own address on. -/
theorem beatSplit_at : ∀ (k a : Nat) (bs : List Byte), ∀ e ∈ beatSplit a bs k, ∃ i, e.1 = a + i ∧ e.2 <+: bs.drop i
  | 0, _, _, _, h => by simp [beatSplit] at h
  | k + 1, a, bs, e, h => by
    unfold beatSplit at h
    split at h
    · simp at h
    · rcases List.mem_cons.mp h with rfl | h
      · exact ⟨0, rfl, by simpa using List.take_prefix _ bs⟩
      · obtain ⟨i, ha, hp⟩ := beatSplit_at k _ _ e h
        exact ⟨64 - a % 64 + i, by omega, by rwa [List.drop_drop] at hp⟩

/-! ### The parts of a write group -/

theorem portEnd_next {a : Nat} (h : portEnd a < a + 0x400) : 0x400 ∣ portEnd a ∧ a < portEnd a := by
  unfold portEnd at *
  split
  · exact ⟨(by decide : (0x400 : Nat) ∣ 0x10000).mul_left _, by omega⟩
  · exact ⟨(by decide : (0x400 : Nat) ∣ 0x1000000000).add ((by decide : (0x400 : Nat) ∣ 0x280000).mul_left _), by omega⟩
  · exact ⟨Dvd.intro_left _ rfl, by omega⟩
  · next hf hs ht =>
    split at h
    · next k => exact absurd k hf
    · next k => exact absurd k hs
    · next k => exact absurd k ht
    · omega

theorem portEnd_full {a : Nat} (h : 0x400 ∣ a) : a + 0x400 ≤ portEnd a := by
  unfold portEnd
  split <;> omega

theorem portParts_none (a k : Nat) : portParts a 0 k = [] := by
  cases k
  · rfl
  · exact if_pos rfl

/-- A write group lies behind at most two ports. -/
theorem partsOf_short {a n : Nat} (hn : n ≤ 0x400) :
    (n = 0 ∧ partsOf a n = []) ∨ partsOf a n = [(a, n)] ∨ ∃ m, 0 < m ∧ m < n ∧ partsOf a n = [(a, m), (a + m, n - m)] := by
  unfold partsOf
  obtain ⟨k, hk⟩ : ∃ k, n / 0x400 + 2 = k + 2 := ⟨_, rfl⟩
  rw [hk]
  by_cases h0 : n = 0
  · exact .inl ⟨h0, if_pos h0⟩
  unfold portParts
  rw [if_neg h0]
  dsimp only
  by_cases hfit : n ≤ portEnd a - a
  · rw [Nat.min_eq_left hfit, Nat.sub_self]
    exact .inr (.inl (congrArg ((a, n) :: ·) (portParts_none _ _)))
  · obtain ⟨hdvd, hlt⟩ := portEnd_next (a := a) (by omega)
    have hend : a + (portEnd a - a) = portEnd a := by omega
    have hfull := portEnd_full hdvd
    refine .inr (.inr ⟨portEnd a - a, by omega, by omega, ?_⟩)
    rw [Nat.min_eq_right (by omega), hend]
    unfold portParts
    rw [if_neg (by omega)]
    dsimp only
    rw [Nat.min_eq_left (by omega), Nat.sub_self]
    exact congrArg (fun l => (a, portEnd a - a) :: (portEnd a, n - (portEnd a - a)) :: l) (portParts_none _ k)

/-! ### Write groups -/

/-- `t` is `s` after the parts `l` of a write group of context `p` of channel `c` have left. -/
structure BeatsSent (s : State) (c : Nat) (p : Bool) (l : List (Nat × List Byte)) (t : State) : Prop where
  out : ∃ m, (t.dctx c p).out = (s.dctx c p).out ++ m ∧
    m.map (fun o => (o.ga, o.bytes)) = (l.flatMap fun e => beatSplit e.1 e.2 (e.2.length + 1)).map fun e => (s.global e.1, e.2)
  reg : t.reg = s.reg
  mem : t.mem = s.mem

theorem global_of_reg {s t : State} (h : t.reg = s.reg) (a : Nat) : t.global a = s.global a :=
  congrArg (fun n => n * 2 ^ 48 + a) (fld_of_reg h .NODE_ID_ID 0)

theorem leavePart_sent (s : State) (c : Nat) (p : Bool) (f : Xfer) (d : DmaDesc) (a : Nat) (bs : List Byte) :
    BeatsSent s c p [(a, bs)] (s.leavePart c p f d a bs) := by
  refine ⟨⟨(beatSplit a bs (bs.length + 1)).map fun e =>
    { ga := s.global e.1, bytes := e.2, req := s.xbNext + 1, lat := s.writeLat (s.global e.1) e.2.length }, ?_, ?_⟩, rfl, rfl⟩
  · unfold State.leavePart
    dsimp only
    rw [setDctx_dctx_same]
    rfl
  · rw [List.flatMap_cons, List.flatMap_nil, List.append_nil, List.map_map]
    rfl

theorem BeatsSent.cons {s t u : State} {c : Nat} {p : Bool} {e : Nat × List Byte} {l : List (Nat × List Byte)} (h : BeatsSent s c p [e] t)
    (k : BeatsSent t c p l u) : BeatsSent s c p (e :: l) u := by
  obtain ⟨⟨m, hm, hmap⟩, hr, hmem⟩ := h
  obtain ⟨⟨n, hn, hnap⟩, hr', hmem'⟩ := k
  refine ⟨⟨m ++ n, ?_, ?_⟩, hr'.trans hr, hmem'.trans hmem⟩
  · rw [hn, hm, List.append_assoc]
  · rw [List.map_append, hmap, hnap]
    simp [global_of_reg hr]

theorem leaveParts_sent (c : Nat) (p : Bool) (f : Xfer) (d : DmaDesc) : ∀ (l : List ((Nat × Nat) × List Byte)) (s : State),
    BeatsSent s c p (l.map fun e => (e.1.1, e.2)) (forAll l (fun e s => s.leavePart c p f d e.1.1 e.2) s)
  | [], _ => ⟨⟨[], (List.append_nil _).symm, rfl⟩, rfl, rfl⟩
  | e :: l, s => (leavePart_sent s c p f d e.1.1 e.2).cons (leaveParts_sent c p f d l _)

/-- The parts of a write group at `a`: together they are its bytes, and each holds the bytes from its own address on. -/
structure Splits (a : Nat) (bs : List Byte) (l : List (Nat × List Byte)) : Prop where
  whole : (l.map (·.2)).flatten = bs
  at_ : ∀ e ∈ l, ∃ i, e.1 = a + i ∧ e.2 <+: bs.drop i

theorem parts_split {a : Nat} {bs : List Byte} (h : bs.length ≤ 0x400) :
    Splits a bs ((List.zip (partsOf a bs.length) (splitBy ((partsOf a bs.length).map (·.2)) bs)).map fun e => (e.1.1, e.2)) := by
  have hall : splitBy [bs.length] bs = [bs] := by simp [splitBy]
  rcases partsOf_short (a := a) h with ⟨h0, hp⟩ | hp | ⟨m, h0, hm, hp⟩
  · rw [hp, List.length_eq_zero_iff.mp h0]
    exact ⟨rfl, by simp⟩
  · rw [hp, List.map_singleton, hall]
    exact ⟨by simp, by simp⟩
  · have htwo : splitBy [m, bs.length - m] bs = [bs.take m, bs.drop m] := by
      simp [splitBy, List.take_of_length_le]
    rw [hp, List.map_cons, List.map_singleton, htwo]
    refine ⟨by simp, fun e he => ?_⟩
    simp only [List.zip_cons_cons, List.zip_nil_right, List.map_cons, List.map_nil, List.mem_cons, List.not_mem_nil, or_false] at he
    rcases he with rfl | rfl
    · exact ⟨0, rfl, List.take_prefix _ _⟩
    · exact ⟨m, rfl, List.prefix_refl _⟩

theorem Splits.beats {a : Nat} {bs : List Byte} {l : List (Nat × List Byte)} (h : Splits a bs l) :
    Splits a bs (l.flatMap fun e => beatSplit e.1 e.2 (e.2.length + 1)) := by
  refine ⟨?_, fun e he => ?_⟩
  · have hflat : ∀ l : List (Nat × List Byte), ((l.flatMap fun e => beatSplit e.1 e.2 (e.2.length + 1)).map (·.2)).flatten =
        (l.map (·.2)).flatten := fun l => by
      induction l with
      | nil => rfl
      | cons e l ih =>
        rw [List.flatMap_cons, List.map_append, List.flatten_append, ih, beatSplit_flatten _ _ _ (Nat.lt_succ_self _)]
        rfl
    exact (hflat l).trans h.whole
  · obtain ⟨x, hx, hex⟩ := List.mem_flatMap.mp he
    obtain ⟨i, hi, hpre⟩ := h.at_ x hx
    obtain ⟨j, hj, hbeat⟩ := beatSplit_at _ _ _ e hex
    refine ⟨i + j, by omega, hbeat.trans ?_⟩
    rw [← List.drop_drop]
    exact hpre.drop j

theorem mostBeats_le (s : State) (p : Bool) (share ga : Nat) : s.mostBeats p share ga ≤ 16 := by
  unfold State.mostBeats
  split
  · exact le_refl _
  · exact Nat.min_le_left ..

theorem nextWrite_le (s : State) (c : Nat) (p : Bool) : s.nextWrite c p ≤ 0x400 := by
  have hm := mostBeats_le s p 1 (((s.dctx c p).ready.map (·.dst)).headD 0)
  unfold State.nextWrite DmaCtx.writeLen
  dsimp only
  generalize s.mostBeats p 1 _ = most at *
  split
  · exact Nat.zero_le _
  · split <;> split <;> omega

theorem checkRun_sameButReg (s : State) (i : Nat) (d : DmaDesc) (bs : List Byte) : SameButReg s (s.checkRun i d bs) := by
  unfold State.checkRun
  exact .ite (setFld_sameButReg ..) (.ite (setSums_sameButReg ..) (.refl s))

theorem SameButReg.mem {s t : State} (h : SameButReg s t) : t.mem = s.mem := (congrArg State.mem h :)

theorem SameButReg.dctx {s t : State} (h : SameButReg s t) (c : Nat) (p : Bool) : t.dctx c p = s.dctx c p := by
  rw [h]
  rfl

/-- The check of what leaves touches neither memory nor the writes on their way. -/
theorem checkBytes_keeps (s : State) (c : Nat) (p : Bool) (a : Nat) (bs : List Byte) :
    (s.checkBytes c p a bs).mem = s.mem ∧ ((s.checkBytes c p a bs).dctx c p).out = (s.dctx c p).out := by
  unfold State.checkBytes
  dsimp only
  have hcount (v : Nat) := setFld_sameButReg s .BYTES_DONE (ctxInst c p) v
  split
  · next =>
    have hregs (u : State) (z : Nat × Nat × Nat × List Byte) : SameButReg u (u.setCheckRegs (ctxInst c p) z) :=
      (setFld_sameButReg ..).trans (setSums_sameButReg ..)
    have hrun (u : State) (z : Nat × Nat × Nat × List Byte) (d : DmaDesc) (l : List Byte) :
        SameButReg u ((u.setCheckRegs (ctxInst c p) z).checkRun (ctxInst c p) d l) := (hregs u z).trans (checkRun_sameButReg ..)
    exact ⟨(hrun ..).mem, (congrArg DmaCtx.out ((hrun ..).dctx c p)).trans ((congrArg DmaCtx.out (setDctx_dctx_same ..)).trans rfl)⟩
  · have hrun (v : Nat) (d : DmaDesc) (l : List Byte) := (hcount v).trans (checkRun_sameButReg _ (ctxInst c p) d l)
    exact ⟨(hrun ..).mem, congrArg DmaCtx.out ((hrun ..).dctx c p)⟩

theorem afterWrite_out (x : DmaCtx) (n : Nat) : (x.afterWrite n).out = x.out := by
  unfold DmaCtx.afterWrite
  split
  · rfl
  · dsimp only
    split <;> rfl

theorem deliver_here {s : State} {c : Nat} {p : Bool} {f : Xfer} {ga : Nat} {bs : List Byte} (hcons : s.consumerOf c = none)
    (hon : s.onChip ga = true) (hroom : s.tidRoom (8 + c / 16) true p = true) :
    s.deliver c p f ga bs =
      some (forAll (List.zip (partsOf (localOf ga) bs.length) (splitBy ((partsOf (localOf ga) bs.length).map (·.2)) bs))
        (fun e t => t.leavePart c p f (s.dctx c p).desc e.1.1 e.2) s) := by
  unfold State.deliver
  rw [hcons]
  dsimp only
  rw [if_pos hon, if_neg (by rw [hroom]; decide)]

theorem issueWrite_spec {s : State} {c : Nat} {p : Bool} {f : Xfer} {g : DmaSeg} {rest : List DmaSeg} (hx : (s.dctx c p).xfer = some f)
    (hg : (s.dctx c p).ready = g :: rest) (hcons : s.consumerOf c = none) (hon : s.onChip g.dst = true)
    (hroom : s.tidRoom (8 + c / 16) true p = true) :
    ∃ t l, s.issueWrite c p = some t ∧ (t.dctx c p).out = (s.dctx c p).out ++ l ∧
      (l.map (·.bytes)).flatten = g.bytes.take (s.nextWrite c p) ∧ (∀ a, t.byte a = s.byte a) ∧
      ∀ o ∈ l, ∃ i, o.ga = s.global (localOf g.dst + i) ∧ o.bytes = ((g.bytes.take (s.nextWrite c p)).drop i).take o.bytes.length := by
  have hlen : (g.bytes.take (s.nextWrite c p)).length ≤ 0x400 := by
    rw [List.length_take]
    exact (Nat.min_le_left ..).trans (nextWrite_le s c p)
  unfold State.issueWrite
  dsimp only
  rw [hx, hg]
  dsimp only
  rw [deliver_here hcons hon hroom, Option.map_some]
  generalize g.bytes.take (s.nextWrite c p) = bs at hlen ⊢
  have hsent := leaveParts_sent c p f (s.dctx c p).desc (List.zip (partsOf (localOf g.dst) bs.length)
    (splitBy ((partsOf (localOf g.dst) bs.length).map (·.2)) bs)) s
  have hsplit := (parts_split (a := localOf g.dst) hlen).beats
  generalize forAll _ _ s = u at hsent ⊢
  generalize ((List.zip _ _).map _ : List (Nat × List Byte)) = parts at hsent hsplit
  generalize hbeats : (parts.flatMap fun e => beatSplit e.1 e.2 (e.2.length + 1)) = beats at hsplit
  obtain ⟨⟨m, hm, hmap⟩, -, hmem⟩ := hsent
  rw [hbeats] at hmap
  obtain ⟨hcm, hco⟩ := checkBytes_keeps u c p g.dst bs
  refine ⟨_, m, rfl, ?_, ?_, fun a => congrArg (mget 0 a) (hcm.trans hmem), fun o ho => ?_⟩
  · rw [setDctx_dctx_same]
    exact ((afterWrite_out _ _).trans hco).trans hm
  · have hb : m.map (·.bytes) = beats.map (·.2) := by simpa [Function.comp_def] using congrArg (List.map Prod.snd) hmap
    rw [hb, hsplit.whole]
  · have hin : (o.ga, o.bytes) ∈ m.map fun o => (o.ga, o.bytes) := List.mem_map_of_mem ho
    rw [hmap] at hin
    obtain ⟨e, he, heq⟩ := List.mem_map.mp hin
    obtain ⟨hga, hbytes⟩ := Prod.mk.inj heq
    obtain ⟨i, hi, hpre⟩ := hsplit.at_ e he
    exact ⟨i, by rw [← hga, hi], by rw [← hbytes]; exact List.prefix_iff_eq_take.mp hpre⟩

end Sys2Proof.Machine
end

section
/-! PROOF. A DMA channel takes the front of its queue (R304, R306, R308), and all that DMA transfers do. -/

namespace Sys2Proof.Machine

/-! ### What the checks of a start read -/

/-- The registers that a start writes before its checks. -/
def startFlds : List Fld := [.CH_STAT_STATE, .BYTES_DONE, .PART_COUNT, .FIRST_BAD, .RUN_MODE_XMODE, .RUN_MODE_FLAGS]

/-- `t` differs from `s` at most in the registers that a start writes and in what no check of a start reads. -/
structure Prepared (s t : State) : Prop where
  regs : FldsBut startFlds s t
  plans : t.plans = s.plans
  mem : t.mem = s.mem

theorem Prepared.trans {s t u : State} (h : Prepared s t) (k : Prepared t u) : Prepared s u :=
  ⟨h.regs.trans k.regs, k.plans.trans h.plans, k.mem.trans h.mem⟩

theorem setFld_prepared (s : State) {f : Fld} (hf : f ∈ startFlds) (i v : Nat) : Prepared s (s.setFld f i v) :=
  ⟨setFld_fldsBut s hf i v, rfl, rfl⟩

section
variable {s t : State} (h : Prepared s t)
include h

theorem Prepared.fld {f : Fld} (hf : f ∉ startFlds) (i : Nat) : t.fld f i = s.fld f i := h.regs f i hf

theorem Prepared.accessFld : ∀ f ∈ accessFlds, ∀ i, t.fld f i = s.fld f i := fun f hf i =>
  h.fld (by revert f; decide) i

theorem Prepared.access (q ga n : Nat) (k : AKind) : t.access q ga n k = s.access q ga n k := access_congr h.accessFld h.plans q ga n k

theorem Prepared.byte (a : Nat) : t.byte a = s.byte a := congrArg (mget 0 a) h.mem

theorem Prepared.bytes (a n : Nat) : t.bytes a n = s.bytes a n := List.map_congr_left fun _ _ => h.byte _

theorem Prepared.readDma (q p : Nat) : t.readDma q p = s.readDma q p := by
  unfold State.readDma State.readPtr State.readStaging
  rw [h.access, global_congr h.accessFld, h.bytes]

theorem Prepared.chanImage (c : Nat) : t.chanImage c = s.chanImage c := by
  unfold State.chanImage
  simp only [h.fld (f := .CH_IMG) (by decide)]

theorem Prepared.ringImage (c : Nat) (b : List Byte) (i addr len : Nat) : t.ringImage c b i addr len = s.ringImage c b i addr len := by
  unfold State.ringImage State.ringN
  rw [h.fld (f := .RING_CFG_SLOT_LOG2) (by decide), h.fld (f := .RING_CFG_LOG2N) (by decide)]

theorem Prepared.xferImage (c : Nat) (x : Xfer) : t.xferImage c x = s.xferImage c x := by
  unfold State.xferImage
  simp only [h.fld (f := .CH_DESC) (by decide), h.readDma, h.chanImage, h.ringImage]

theorem Prepared.consumerOf (c : Nat) : t.consumerOf c = s.consumerOf c := by
  unfold State.consumerOf
  simp only [h.fld (f := .STRM_CFG_IN_SRC) (by decide), h.fld (f := .STRM_CFG_IN_CH) (by decide)]

theorem Prepared.isConsumer (c : Nat) : t.isConsumer c = s.isConsumer c := by
  unfold State.isConsumer
  rw [h.fld (f := .STRM_CFG_IN_SRC) (by decide)]

theorem Prepared.checkDma (q c : Nat) (b : List Byte) : t.checkDma q c b = s.checkDma q c b := by
  have howns (k : Nat) : t.ownsChan q k = s.ownsChan q k := by
    unfold State.ownsChan State.fbit
    rw [h.fld (f := .CHAN_MASK_LO) (by decide), h.fld (f := .CHAN_MASK_HI) (by decide)]
  have hexpert : t.expert q = s.expert q := by
    unfold State.expert State.fbit
    rw [h.fld (f := .EXPERT_CTL_TENANT_EXPERT) (by decide)]
  have hown (a : Nat) : t.isOwn a = s.isOwn a := isOwn_congr h.accessFld a
  have hidx (d : DmaDesc) : t.idxOk c d = s.idxOk c d := by
    unfold State.idxOk
    rw [h.isConsumer, hown]
  have hproducer : t.producerOk q c = s.producerOk q c := by
    unfold State.producerOk
    rw [h.fld (f := .STRM_CFG_IN_SRC) (by decide), h.fld (f := .STRM_CFG_IN_CH) (by decide), howns]
  unfold State.checkDma
  simp only [h.consumerOf, hexpert, hidx, hproducer, h.isConsumer, h.access]

end

/-! ### The context is set up -/

/-- The open context of channel `c` as `f` starts, before its checks. -/
def State.begun (s : State) (c : Nat) (f : Xfer) : State :=
  let s := (((s.setFld .CH_STAT_STATE c chRunning).setFld .BYTES_DONE (ctxInst c false) 0).setFld .PART_COUNT (ctxInst c false) 0).setFld
    .FIRST_BAD (ctxInst c false) 0
  s.on (!s.shortIssue c f) fun s => { s with dmaStart := s.clk + 3 }

/-- The same, with the mode of its descriptor shown. -/
def State.moded (s : State) (c : Nat) (b : List Byte) : State :=
  (s.setFld .RUN_MODE_XMODE (ctxInst c false) (bnum b 2 1)).setFld .RUN_MODE_FLAGS (ctxInst c false) (DmaDesc.parse b).flags

section
variable (s : State) (c : Nat) (f : Xfer)

theorem begun_chans : (s.begun c f).chans = s.chans := by
  have hon (u : State) : (u.on (!u.shortIssue c f) fun s => { s with dmaStart := s.clk + 3 }).chans = u.chans := by
    unfold State.on
    split <;> rfl
  exact hon _

theorem begun_prepared : Prepared s (s.begun c f) := by
  have hon (u : State) : Prepared u (u.on (!u.shortIssue c f) fun s => { s with dmaStart := s.clk + 3 }) := by
    unfold State.on
    split
    · exact ⟨fun _ _ _ => rfl, rfl, rfl⟩
    · exact ⟨.refl _ _, rfl, rfl⟩
  exact (((setFld_prepared s (by decide) c chRunning).trans (setFld_prepared _ (by decide) _ 0)).trans
    (setFld_prepared _ (by decide) _ 0)).trans ((setFld_prepared _ (by decide) _ 0).trans (hon _))

theorem begun_shows : (s.begun c f).chSt c = chRunning ∧ (s.begun c f).fld .BYTES_DONE c = 0 ∧ (s.begun c f).fld .PART_COUNT c = 0 := by
  have hkeep (u : State) (g : Fld) : (u.on (!u.shortIssue c f) fun s => { s with dmaStart := s.clk + 3 }).fld g c = u.fld g c := on_fld rfl
  refine ⟨(hkeep _ _).trans ?_, (hkeep _ _).trans ?_, (hkeep _ _).trans ?_⟩
  · exact (setFld_fld_ne _ (by decide) _ _ _).trans ((setFld_fld_ne _ (by decide) _ _ _).trans
      ((setFld_fld_ne _ (by decide) _ _ _).trans (setFld_fld_same ..)))
  · exact (setFld_fld_ne _ (by decide) _ _ _).trans ((setFld_fld_ne _ (by decide) _ _ _).trans (setFld_fld_same _ _ c 0))
  · exact (setFld_fld_ne _ (by decide) _ _ _).trans (setFld_fld_same _ _ c 0)

theorem moded_prepared (b : List Byte) : Prepared s (s.moded c b) :=
  (setFld_prepared s (by decide) _ _).trans (setFld_prepared _ (by decide) _ _)

/-- The context of a transfer that starts, as its descriptor's command bit has it recorded. -/
def Xfer.started (f : Xfer) (now : Nat) (cq fault : Bool) : Xfer := { f with ctx := { f.ctx with start := now, cq := cq, faultCq := fault } }

end

section
variable {s : State} {c : Nat} {f : Xfer}

/-- The image of the transfer that the start checks. -/
def State.startImage (s : State) (c : Nat) (f : Xfer) : Chk (List Byte) := do
  need (f.bad = 0) { cause := f.bad, addr := s.ringEntry c ((f.ring.map (·.1)).getD 0), len := 16 }
  s.xferImage c f

/-- An open transfer whose heat slot is ready: it starts, or ends with its flaw. -/
theorem beginXfer_open (s : State) (c : Nat) (f : Xfer) :
    s.beginXfer c false f (.ok ()) =
      let cmd := f.commanded && !false
      let g := f.started s.now (cmd || false) (cmd || false)
      let u := s.begun c g
      match u.startImage c g with
      | .error w => (u.countFlaw w).closeXfer c false g w.toEnd
      | .ok b =>
        let g := g.started s.now (cmd || (DmaDesc.parse b).cq) cmd
        let v := u.moded c b
        match v.checkDma g.ctx.hearth c b with
        | .error w => (v.countFlaw w).closeXfer c false g w.toEnd
        | .ok d =>
          let x : DmaCtx :=
            { xfer := some g, desc := d, sbase := d.src, dbase := d.dst, next := v.firstRead c g d, rleft := d.units, left := d.units,
              checked := !isIndexed d.xmode, fifo := (u.dctx c false).fifo, producerFaulted := (u.dctx c false).producerFaulted,
              table := if isIndexed d.xmode && !v.isConsumer c then v.bytes (localOf d.idxAddr) (d.cnt * idxBytes d.p1) else [] }
          let w := v.checkInit (ctxInst c false) d
          (w.setDctx c false { x with acc0 := w.checkRegs (ctxInst c false) }).showCur c false := rfl

theorem startImage_congr (hbad : f.bad = 0) (now : Nat) (cq fault : Bool) :
    (s.begun c (f.started now cq fault)).startImage c (f.started now cq fault) = s.xferImage c f := by
  unfold State.startImage
  have hneed (w : Flaw) : need (decide ((f.started now cq fault).bad = 0)) w = .ok () := if_pos (decide_eq_true hbad)
  rw [hneed]
  exact (begun_prepared s c _).xferImage c _

theorem beginXfer_starts (hbad : f.bad = 0) {b : List Byte} {d : DmaDesc} (himg : s.xferImage c f = .ok b)
    (hchk : s.checkDma f.ctx.hearth c b = .ok d) :
    ∃ g x, s.beginXfer c false f (.ok ()) = ((((s.begun c g).moded c b).checkInit (ctxInst c false) d).setDctx c false x).showCur c false ∧
      x.xfer.isSome = true ∧ x.desc = d ∧ x.left = d.units := by
  have hd (g : Xfer) (n m : Nat) (cq fault cq' fault' : Bool) :
      ((s.begun c g).moded c b).checkDma ((f.started n cq fault).started m cq' fault').ctx.hearth c b = .ok d := by
    rw [((begun_prepared s c g).trans (moded_prepared _ c b)).checkDma, ← hchk]
    rfl
  rw [beginXfer_open]
  dsimp only
  rw [startImage_congr hbad, himg]
  dsimp only
  rw [hd]
  exact ⟨_, _, rfl, rfl, rfl, rfl⟩

theorem beginXfer_fails (hbad : f.bad = 0) {w : Flaw} (himg : s.xferImage c f = .error w) :
    ∃ g, s.beginXfer c false f (.ok ()) = ((s.begun c g).countFlaw w).closeXfer c false g w.toEnd ∧ g.ring = f.ring := by
  rw [beginXfer_open]
  dsimp only
  rw [startImage_congr hbad, himg]
  exact ⟨_, rfl, rfl⟩

/-! ### The front of the queue (R304) -/

/-- The queue of channel `c` without `f`. -/
def State.dequeued (s : State) (c : Nat) (f : Xfer) : State := s.setChan c { s.chan c with queue := (s.chan c).queue.erase f }

theorem startOpen_takes (hf : (s.chan c).front = some f) (hmay : s.mayTake c f.ctx.hearth = true)
    (hlate : (f.prio && s.pastDeadline f.ctx.accept f.deadline) = false) (hnow : s.dmaStart ≤ s.clk)
    (hgate : s.heatGate c f.ctx.hearth = some (.ok ())) : s.startOpen c = (s.dequeued c f).beginXfer c false f (.ok ()) := by
  have hclk : s.toClk s.dmaStart = s := if_pos hnow
  unfold State.startOpen
  dsimp only
  rw [hf]
  dsimp only
  rw [hclk, hf]
  dsimp only
  rw [ite_self, if_neg (by rw [hmay, hlate]; decide), hgate]
  rfl

theorem dequeued_prepared : Prepared s (s.dequeued c f) := ⟨.refl _ _, rfl, rfl⟩

theorem dequeued_chan : (s.dequeued c f).chan c = { s.chan c with queue := (s.chan c).queue.erase f } := setChan_chan_same ..

theorem checkInit_fldsBut (s : State) (i : Nat) (d : DmaDesc) :
    FldsBut [.CRC_ACC, .SUM_A, .SUM_B, .SUM_PART_BYTES, .SUM_PART_COUNT] s (s.checkInit i d) := by
  unfold State.checkInit
  refine .ite (.refl _ s) (.ite (setFld_fldsBut s (by decide) _ _) (.ite ?_ (.refl _ s)))
  exact (((setFld_fldsBut s (by decide) _ _).trans (setFld_fldsBut _ (by decide) _ _)).trans (setFld_fldsBut _ (by decide) _ _)).trans
    (setFld_fldsBut _ (by decide) _ _)

theorem checkInit_sameButReg (s : State) (i : Nat) (d : DmaDesc) : SameButReg s (s.checkInit i d) := by
  unfold State.checkInit
  exact .ite (.refl s) (.ite (setFld_sameButReg ..) (.ite (setSums_sameButReg ..) (.refl s)))

/-- A transfer whose context is set up runs from the beginning of its own descriptor. -/
theorem setUp_spec {g : Xfer} {x : DmaCtx} (s : State) (c : Nat) (f : Xfer) (b : List Byte) (d : DmaDesc)
    (u : State) (hu : u = (((((s.dequeued c f).begun c g).moded c b).checkInit (ctxInst c false) d).setDctx c false x).showCur c false) :
    u.chSt c = chRunning ∧ u.chan c = { s.chan c with queue := (s.chan c).queue.erase f, opn := x } ∧ u.fld .BYTES_DONE c = 0 ∧
      u.fld .PART_COUNT c = 0 ∧ (∀ k, k ≠ c → u.chan k = s.chan k) ∧ ∀ a, u.byte a = s.byte a := by
  obtain ⟨hst, hbytes, hpart⟩ := begun_shows (s.dequeued c f) c g
  have hprep := dequeued_prepared.trans (begun_prepared (s.dequeued c f) c g)
  have hchans := begun_chans (s.dequeued c f) c g
  generalize (s.dequeued c f).begun c g = v at *
  have hmoded : SameButReg v (v.moded c b) := (setFld_sameButReg ..).trans (setFld_sameButReg ..)
  have hmodedFld : FldsBut [.RUN_MODE_XMODE, .RUN_MODE_FLAGS] v (v.moded c b) :=
    (setFld_fldsBut v (by decide) _ _).trans (setFld_fldsBut _ (by decide) _ _)
  have hinit := hmoded.trans (checkInit_sameButReg (v.moded c b) (ctxInst c false) d)
  have hinitFld := checkInit_fldsBut (v.moded c b) (ctxInst c false) d
  generalize (v.moded c b).checkInit (ctxInst c false) d = w at *
  have hshow := showCur_sameButReg (w.setDctx c false x) c false
  have hshowFld := showCur_fldsBut (w.setDctx c false x) c false
  rw [← hu] at hshow hshowFld
  have hfld {q : Fld} (h1 : q ∉ [Fld.SRC_CUR, .DST_CUR, .REMAIN, .POS])
      (h2 : q ∉ [Fld.CRC_ACC, .SUM_A, .SUM_B, .SUM_PART_BYTES, .SUM_PART_COUNT]) (h3 : q ∉ [Fld.RUN_MODE_XMODE, .RUN_MODE_FLAGS]) :
      u.fld q c = v.fld q c := ((hshowFld q c h1).trans (hinitFld q c h2)).trans (hmodedFld q c h3)
  have huchan (k : Nat) : u.chan k = (w.setDctx c false x).chan k := by
    rw [hshow]
    rfl
  have hwchan (k : Nat) : w.chan k = (s.dequeued c f).chan k := by
    rw [hinit]
    exact congrArg (mget ({} : Chan) k) hchans
  refine ⟨(hfld (by decide) (by decide) (by decide)).trans hst, ?_, (hfld (by decide) (by decide) (by decide)).trans hbytes,
    (hfld (by decide) (by decide) (by decide)).trans hpart, fun k hk => ?_, fun a => ?_⟩
  · rw [huchan, setDctx_chan_same, hwchan, dequeued_chan]
    rfl
  · rw [huchan, setDctx_chan_other _ _ _ hk, hwchan]
    exact setChan_chan_other _ hk _
  · exact congrArg (mget 0 a) ((hshow.mem.trans hinit.mem).trans hprep.mem)

end

end Sys2Proof.Machine
end

section
/-! PROOF. All that DMA transfers do, from start to end (R286, R304, R306, R308 to R310, R318, R336, R403). -/

namespace Sys2Proof.Machine

/-- The start of a transfer (R304, R306, R308). -/
theorem transferStart_spec {s : State} {c : Fin 64} {f : Xfer} (hrun : s.power = .run) (hf : (s.chan c).front = some f)
    (hmay : s.mayTake c f.ctx.hearth = true) (hlate : (f.prio && s.pastDeadline f.ctx.accept f.deadline) = false)
    (hnow : s.dmaStart ≤ s.clk) (hbad : f.bad = 0) (hgate : s.heatGate c f.ctx.hearth = some (.ok ())) :
    (∀ b d, s.xferImage c f = .ok b → s.checkDma f.ctx.hearth c b = .ok d →
      ∃ t, exec (.dmaTransferStart c) s = .next t ∧ t.chSt c = chRunning ∧ (t.chan c).queue = (s.chan c).queue.erase f ∧
        (t.chan c).opn.xfer.isSome = true ∧ (t.chan c).opn.desc = d ∧ (t.chan c).opn.left = d.units ∧ (t.chan c).pln = (s.chan c).pln ∧
        t.fld .BYTES_DONE c = 0 ∧ t.fld .PART_COUNT c = 0 ∧ (∀ k, k ≠ c.val → t.chan k = s.chan k) ∧ ∀ a, t.byte a = s.byte a) ∧
    ∀ w, s.xferImage c f = .error w → f.ring = none → s.fld .DMA_FAULT_COUNT + 1 < 2 ^ Fld.width .DMA_FAULT_COUNT →
      ∃ t, exec (.dmaTransferStart c) s = .next t ∧ t.chSt c = chFaulted ∧ t.flag .CH_CTRL_ENABLE c = false ∧
        (t.chan c).queue = (s.chan c).queue.erase f ∧ (t.chan c).opn.xfer = none ∧
        t.fld .DMA_FAULT_COUNT = s.fld .DMA_FAULT_COUNT + 1 := by
  obtain ⟨t, ht, hr⟩ := live_ran hrun fun s => s.startOpen c
  have htake := startOpen_takes hf hmay hlate hnow hgate
  have hprep : Prepared s (s.dequeued c f) := dequeued_prepared
  refine ⟨fun b d himg hchk => ⟨t, ht, ?_⟩, fun w himg hring hw => ⟨t, ht, ?_⟩⟩
  · obtain ⟨g, x, heq, hx, hdesc, hleft⟩ := beginXfer_starts (s := s.dequeued c f) hbad ((hprep.xferImage ..).trans himg)
      ((hprep.checkDma ..).trans hchk)
    obtain ⟨hst, hchan, hbytes, hpart, hother, hbyte⟩ := setUp_spec s c f b d _ (htake.trans heq)
    refine ⟨(hr.fld ..).trans hst, ?_, ?_, ?_, ?_, ?_, (hr.fld ..).trans hbytes, (hr.fld ..).trans hpart,
      fun k hk => (hr.chan k).trans (hother k hk), fun a => (hr.byte a).trans (hbyte a)⟩ <;> rw [hr.chan, hchan]
    · exact hx
    · exact hdesc
    · exact hleft
  · obtain ⟨g, heq, hg⟩ := beginXfer_fails (s := s.dequeued c f) hbad ((hprep.xferImage ..).trans himg)
    have hbegun := begun_prepared (s.dequeued c f) c g
    have hflaw := countSeal_reported ((s.dequeued c f).begun c g) w.cause
    have hcount : (((s.dequeued c f).begun c g).countFlaw w).fld .DMA_FAULT_COUNT = s.fld .DMA_FAULT_COUNT :=
      (hflaw.fld (by decide) 0).trans ((hprep.trans hbegun).fld (by decide) 0)
    have hqueue : ((((s.dequeued c f).begun c g).countFlaw w).chan c).queue = (s.chan c).queue.erase f := by
      have hch : (((s.dequeued c f).begun c g).countFlaw w).chans = (s.dequeued c f).chans :=
        hflaw.chans.trans (begun_chans (s.dequeued c f) c g)
      unfold State.chan
      rw [hch]
      exact congrArg Chan.queue dequeued_chan
    have hcl := closeXfer_closed (((s.dequeued c f).begun c g).countFlaw w) c w.toEnd false (hg.trans hring)
    have heq := htake.trans heq
    generalize ((s.dequeued c f).begun c g).countFlaw w = v at *
    rw [← heq] at hcl
    refine ⟨(hr.fld ..).trans (hcl.shows.trans rfl), (hr.flag ..).trans (hcl.enable rfl), ?_, ?_, ?_⟩
    · rw [hr.chan, hcl.queue, hqueue]
    · rw [hr.chan]
      exact hcl.xfer
    · rw [hr.fld, hcl.faults rfl (by rw [hcount]; exact hw), hcount]

section
variable {s u t : State} {c : Nat} {p : Bool} {f : Xfer}

/-- A transfer that is no fault leaves its context idle. -/
theorem Closed.idle {e : End} (h : Closed s c p f e u) (hs : e.status ≠ 0x30) : u.fld (stateFld p) c = chIdle := by
  rw [h.shows, if_neg hs]

end

/-- How the open transfer of a channel ends, or pauses (R308 to R310, R318, R336). -/
theorem openTransfer_spec {s : State} {c : Fin 64} {f : Xfer} (h : Ends s c false f) :
    (s.ringMode c ≠ 1 → (s.chan c).opn.ringWait = false → s.xferDone c false = true → (s.chan c).opn.ending = .running →
       (s.chan c).opn.backdraft = 0 →
       ∃ t, exec (.dmaTransferComplete c false) s = .next t ∧ t.chSt c = chIdle ∧ t.flag .CH_STAT_DONE c = true ∧ (t.chan c).opn.xfer = none ∧
         (t.chan c).queue = (s.chan c).queue ∧ (t.chan c).pln = (s.chan c).pln ∧ (f.ctx.cq = false → ∀ a, t.byte a = s.byte a)) ∧
    (∀ cause sub addr len, (s.chan c).opn.ending = .fault cause sub addr len → s.fld .DMA_FAULT_COUNT + 1 < 2 ^ Fld.width .DMA_FAULT_COUNT →
       ∃ t, exec (.dmaFault c false) s = .next t ∧ t.chSt c = chFaulted ∧ t.flag .CH_CTRL_ENABLE c = false ∧ (t.chan c).opn.xfer = none ∧
         t.fld .DMA_FAULT_COUNT = s.fld .DMA_FAULT_COUNT + 1) ∧
    (s.pauseReady c = true →
       ∃ t, exec (.dmaPaused c) s = .next t ∧ t.chSt c = chPaused ∧ (t.chan c).opn.xfer = some f ∧ (t.chan c).opn.left = (s.chan c).opn.left ∧
         (t.chan c).queue = (s.chan c).queue ∧ (∀ k, k ≠ c.val → t.chan k = s.chan k) ∧ ∀ a, t.byte a = s.byte a) ∧
    (s.starves c false = true → (s.chan c).opn.drained = true → (s.chan c).opn.producerFaulted = true →
       s.fld .STREAM_BROKEN_COUNT + 1 < 2 ^ Fld.width .STREAM_BROKEN_COUNT →
       ∃ t, exec (.streamBroken c false) s = .next t ∧ t.chSt c = chFaulted ∧ (t.chan c).opn.xfer = none ∧
         t.fld .STREAM_BROKEN_COUNT = s.fld .STREAM_BROKEN_COUNT + 1) := by
  refine ⟨fun hmode hwait hdone hend hback => ?_, fun cause sub addr len hend hw => ?_, fun hp => ?_, fun hs hd hpf hw => ?_⟩
  · obtain ⟨u, t, ht, hr, hcl⟩ := execComplete_closed h hmode hwait hdone
    have hok := endOf_plain (s := s) (c := c) (p := false) hend hback
    refine ⟨t, ht, (hr.fld ..).trans (hcl.idle hok), (hr.flag ..).trans (hcl.done rfl), ?_, ?_, ?_,
      fun hq a => (hr.byte a).trans (hcl.silent hok hq a)⟩ <;> rw [hr.chan]
    · exact hcl.xfer
    · exact hcl.queue
    · exact hcl.pln
  · obtain ⟨u, t, ht, hr, hcl⟩ := execFault_closed h hend
    refine ⟨t, ht, (hr.fld ..).trans (hcl.shows.trans rfl), (hr.flag ..).trans (hcl.enable rfl), ?_, (hr.fld ..).trans (hcl.faults rfl hw)⟩
    rw [hr.chan]
    exact hcl.xfer
  · obtain ⟨u, t, v, ht, hr, hu⟩ := execPaused h.run h.due hp
    have hshow := showCur_sameButReg (s.setFld .CH_STAT_STATE c chPaused) c false
    have hfld := showCur_fldsBut (s.setFld .CH_STAT_STATE c chPaused) c false
    generalize (s.setFld .CH_STAT_STATE c chPaused).showCur c false = w at *
    have hw (k : Nat) : w.chan k = s.chan k := by
      rw [hshow]
      rfl
    have huc : u.chan c = { s.chan c with opn := { (s.chan c).opn with shown := v } } := by
      rw [hu, setDctx_chan_same, hw]
      rfl
    refine ⟨t, ht, (hr.fld ..).trans ?_, ?_, ?_, ?_, fun k hk => (hr.chan k).trans ?_, fun a => (hr.byte a).trans ?_⟩
    · rw [hu]
      exact (hfld _ _ (by decide)).trans (setFld_fld_same ..)
    · rw [hr.chan, huc]
      exact h.xfer
    · rw [hr.chan, huc]
    · rw [hr.chan, huc]
    · rw [hu, setDctx_chan_other _ _ _ hk, hw]
    · rw [hu]
      exact congrArg (mget 0 a) hshow.mem
  · obtain ⟨u, t, ht, hr, hcl⟩ := execBroken_closed h hs hd (.inr hpf)
    refine ⟨t, ht, (hr.fld ..).trans (hcl.shows.trans rfl), ?_, (hr.fld ..).trans (hcl.broken rfl hw)⟩
    rw [hr.chan]
    exact hcl.xfer

/-- How the planned transfer of a channel ends (R308, R310, R336). -/
theorem plannedTransfer_spec {s : State} {c : Fin 64} {f : Xfer} (h : Ends s c true f) :
    (s.ringMode c ≠ 1 → (s.chan c).pln.ringWait = false → s.xferDone c true = true → (s.chan c).pln.ending = .running →
       (s.chan c).pln.backdraft = 0 →
       ∃ t, exec (.dmaTransferComplete c true) s = .next t ∧ t.fld .PSTAT c = chIdle ∧ (t.chan c).pln.xfer = none ∧
         (t.chan c).opn = (s.chan c).opn ∧ (f.ctx.cq = false → ∀ a, t.byte a = s.byte a)) ∧
    (∀ cause sub addr len, (s.chan c).pln.ending = .fault cause sub addr len → s.fld .DMA_FAULT_COUNT + 1 < 2 ^ Fld.width .DMA_FAULT_COUNT →
       ∃ t, exec (.dmaFault c true) s = .next t ∧ t.fld .PSTAT c = chFaulted ∧ t.flag .CH_CTRL_ENABLE c = false ∧ (t.chan c).pln.xfer = none ∧
         t.fld .DMA_FAULT_COUNT = s.fld .DMA_FAULT_COUNT + 1) ∧
    (s.starves c true = true → (s.chan c).pln.drained = true → s.fld .STREAM_BROKEN_COUNT + 1 < 2 ^ Fld.width .STREAM_BROKEN_COUNT →
       ∃ t, exec (.streamBroken c true) s = .next t ∧ t.fld .PSTAT c = chFaulted ∧ (t.chan c).pln.xfer = none ∧
         t.fld .STREAM_BROKEN_COUNT = s.fld .STREAM_BROKEN_COUNT + 1) := by
  refine ⟨fun hmode hwait hdone hend hback => ?_, fun cause sub addr len hend hw => ?_, fun hs hd hw => ?_⟩
  · obtain ⟨u, t, ht, hr, hcl⟩ := execComplete_closed h hmode hwait hdone
    have hok := endOf_plain (s := s) (c := c) (p := true) hend hback
    refine ⟨t, ht, (hr.fld ..).trans (hcl.idle hok), ?_, ?_, fun hq a => (hr.byte a).trans (hcl.silent hok hq a)⟩ <;> rw [hr.chan]
    · exact hcl.xfer
    · exact hcl.opn
  · obtain ⟨u, t, ht, hr, hcl⟩ := execFault_closed h hend
    refine ⟨t, ht, (hr.fld ..).trans (hcl.shows.trans rfl), (hr.flag ..).trans (hcl.enable rfl), ?_, (hr.fld ..).trans (hcl.faults rfl hw)⟩
    rw [hr.chan]
    exact hcl.xfer
  · obtain ⟨u, t, ht, hr, hcl⟩ := execBroken_closed h hs hd (.inl rfl)
    refine ⟨t, ht, (hr.fld ..).trans (hcl.shows.trans rfl), ?_, (hr.fld ..).trans (hcl.broken rfl hw)⟩
    rw [hr.chan]
    exact hcl.xfer

/-- Settles O57: the start by the checks' congruence, a group by its parts and beats, an end by `Closed`. -/
theorem dmaTransfers : Obligations.DmaTransfers := by
  unfold Obligations.DmaTransfers
  refine ⟨fun s c f hrun hf hmay hlate hnow hbad hgate => transferStart_spec hrun hf hmay hlate hnow hbad hgate, ⟨?_, ?_, ?_⟩, ?_, ?_⟩
  · intro s c p k ga n z r hk hsrc hdata hsmp hz hon hfen hmir
    exact sampleRead_spec hk hsrc hdata hsmp hz hon hfen hmir
  · intro s c p f g rest hx hg hcons hon hroom
    exact issueWrite_spec hx hg hcons hon hroom
  · intro s c p o z hout hvis hz _ hfen hmir
    obtain ⟨hnil, hst, hfld⟩ := pollOut_spec hout hvis hz hfen hmir
    exact ⟨hnil, hst.bytes, fun a ha => hst.other ha, fun f i hf => hfld f i (by simpa using hf)⟩
  · intro s c f hrun hx hw hring hdue hout hfirst
    exact openTransfer_spec ⟨hrun, hx, hw, hring, hdue, hout, fun _ => hfirst, fun h => (nomatch h)⟩
  · intro s c f hrun hx hw hring hdue hout hwait
    exact plannedTransfer_spec ⟨hrun, hx, hw, hring, hdue, hout, fun h => (nomatch h), fun _ => hwait⟩

end Sys2Proof.Machine
end

section
/-! PROOF. Instructions in flight: they end, or start again after planned work has pre-empted them (R188, R190). -/

namespace Sys2Proof.Machine

/-! ### A restarted run (Table 5.11) -/

/-- `t` differs from `s` at most in memory where `w` says, in the windows over it and in REFETCH_COUNT. -/
structure Mixed (w : Nat → Prop) (s t : State) : Prop where
  regs : FldsBut [.REFETCH_COUNT] s t
  byte : ∀ a, ¬ w a → t.byte a = s.byte a
  flights : t.flights = s.flights

theorem Mixed.refl (w : Nat → Prop) (s : State) : Mixed w s s := ⟨.refl _ s, fun _ _ => rfl, rfl⟩

theorem Mixed.trans {w : Nat → Prop} {s t u : State} (h : Mixed w s t) (k : Mixed w t u) : Mixed w s u :=
  ⟨h.regs.trans k.regs, fun a ha => (k.byte a ha).trans (h.byte a ha), k.flights.trans h.flights⟩

theorem show_mixed (s : State) (a : Nat) (bs : List Byte) (w : Nat → Prop) (h : ∀ x, a ≤ x → x < a + bs.length → w x) :
    Mixed w s (s.show a bs) := by
  have hrep := show_reported [.REFETCH_COUNT] (by decide) s a bs
  refine ⟨hrep.fldsBut, fun x hx => ?_, (congrArg State.flights hrep.rest :)⟩
  rw [show_byte, setBytes_byte, if_neg fun k => hx (h x k.1 k.2)]

theorem store_mixed (s : State) (a : Nat) (b : Byte) (w : Nat → Prop) (h : w a) : Mixed w s (s.store a [b]) := by
  have hshow (u : State) : Mixed w u (u.show a [b]) :=
    show_mixed u a [b] w fun x h1 h2 => by
      have hx : x = a := by simp at h2; omega
      exact hx ▸ h
  unfold State.store
  split
  · exact hshow s
  · have hone : ([b].zipIdx.map fun e => if s.fbit .FEN_LIVE 0 (fenChan (a + e.2)) then some e.1 else none) =
        [if s.fbit .FEN_LIVE 0 (fenChan a) then some b else none] := rfl
    rw [hone]
    split
    · exact hshow s
    · exact .refl w s

theorem forAll_mixed {α : Type} (w : Nat → Prop) (l : List α) (f : α → State → State) (h : ∀ a ∈ l, ∀ s, Mixed w s (f a s)) (s : State) :
    Mixed w s (forAll l f s) := forAll_rel (.refl w) .trans l f h s

/-- Some byte of the writes `l` is at `a`. -/
def Among (l : List (Nat × List Byte)) (a : Nat) : Prop := ∃ e ∈ l, e.1 ≤ a ∧ a < e.1 + e.2.length

theorem not_among {l : List (Nat × List Byte)} {a : Nat} (h : ∀ e ∈ l, a < e.1 ∨ e.1 + e.2.length ≤ a) : ¬ Among l a := fun ⟨e, he, h1, h2⟩ =>
  (h e he).elim (fun k => by omega) fun k => by omega

theorem mixChunks_mixed (s : State) (l : List (Nat × List Byte)) : Mixed (Among l) s (s.mixChunks l) := by
  unfold State.mixChunks
  refine forAll_mixed _ _ _ (fun c _ s => ?_) s
  have hfree : Mixed (Among l) s { s with free := s.free + 1 } := ⟨fun _ _ _ => rfl, fun _ _ => rfl, rfl⟩
  dsimp only
  split
  · exact hfree
  · refine hfree.trans (forAll_mixed _ _ _ (fun b hb s => store_mixed s b.1 b.2 _ ?_) _)
    obtain ⟨e, he, hbe⟩ := List.mem_flatMap.mp (List.mem_of_mem_filter hb)
    obtain ⟨x, hx, rfl⟩ := List.mem_map.mp hbe
    exact ⟨e, he, Nat.le_add_right .., Nat.add_lt_add_left (List.snd_lt_of_mem_zipIdx hx) _⟩

theorem Mixed.mono {v w : Nat → Prop} {s t : State} (h : Mixed v s t) (k : ∀ a, v a → w a) : Mixed w s t :=
  ⟨h.regs, fun a ha => h.byte a fun hv => ha (k a hv), h.flights⟩

theorem freeUnits_mixed (s : State) (ds : List Side) (w : Nat → Prop) : Mixed w s (s.freeUnits ds) :=
  forAll_mixed w ds (fun d s => s.setSide d.cls d.unit s.clk s.clk) (fun _ _ _ => ⟨fun _ _ _ => rfl, fun _ _ => rfl, rfl⟩) s

/-! ### Pieces that start again (R188) -/

theorem insertPiece_mem (p q : Piece) (l : List Piece) : q ∈ insertPiece p l ↔ q = p ∨ q ∈ l := by
  induction l with
  | nil => simp [insertPiece]
  | cons r l ih =>
    unfold insertPiece
    split
    · simp
    · simp only [List.mem_cons, ih]
      tauto

/-- Flight `k` of `t` is `x` with the pieces `rs` abandoned and queued again. -/
structure Requeued (x : Flight) (rs : List RunPiece) (y : Flight) : Prop where
  runs : ∀ r, r ∈ y.runs ↔ r ∈ x.runs ∧ ∀ q ∈ rs, q.piece.no ≠ r.piece.no
  todo : ∀ p, p ∈ y.todo ↔ p ∈ x.todo ∨ ∃ r ∈ rs, p = r.piece
  word : y.word = x.word
  ctx : y.ctx = x.ctx

theorem herePart_congr {s t : State} (h : FldsBut [.REFETCH_COUNT] s t) (l : List (Nat × List Byte)) : t.herePart l = s.herePart l := by
  have hon : t.onChip = s.onChip := funext fun a => onChip_congr (fun f hf i => h f i (by revert f; decide)) a
  unfold State.herePart
  rw [hon]

theorem requeue_spec {s : State} {k : Nat} {x : Flight} (r : RunPiece) (hx : s.flight k = some x) :
    (∃ y, (s.requeue k r).flight k = some y ∧ Requeued x [r] y) ∧ FldsBut [.REFETCH_COUNT] s (s.requeue k r) ∧
      ∀ a, ¬ Among (s.herePart (r.piece.data.getD [])) a → (s.requeue k r).byte a = s.byte a := by
  unfold State.requeue
  rw [hx]
  dsimp only
  have hmix := (mixChunks_mixed s (s.herePart (r.piece.data.getD []))).trans
    (freeUnits_mixed _ (r.piece.side (wordClass x.word) r.unit :: r.mixer.toList.map (holdSide r.piece)) _)
  generalize (s.mixChunks _).freeUnits _ = u at hmix ⊢
  refine ⟨⟨_, setFlight_same ((flight_congr hmix.flights k).trans hx) fun _ => rfl, ?_, fun p => ?_, rfl, rfl⟩, hmix.regs, hmix.byte⟩
  · intro q
    simp [List.mem_filter, ne_comm]
  · simp [insertPiece_mem, or_comm]

theorem requeueAll_spec (k : Nat) : ∀ (rs : List RunPiece) (s : State) (x : Flight), s.flight k = some x →
    (∃ y, (forAll rs (fun r s => s.requeue k r) s).flight k = some y ∧ Requeued x rs y) ∧
      FldsBut [.REFETCH_COUNT] s (forAll rs (fun r s => s.requeue k r) s) ∧
      ∀ a, (∀ r ∈ rs, ¬ Among (s.herePart (r.piece.data.getD [])) a) → (forAll rs (fun r s => s.requeue k r) s).byte a = s.byte a
  | [], s, x, hx => ⟨⟨x, hx, by simp, by simp, rfl, rfl⟩, .refl _ s, fun _ _ => rfl⟩
  | r :: rs, s, x, hx => by
    obtain ⟨⟨y, hy, hq⟩, hf, hb⟩ := requeue_spec r hx
    obtain ⟨⟨z, hz, hq'⟩, hf', hb'⟩ := requeueAll_spec k rs _ y hy
    refine ⟨⟨z, hz, fun q => ?_, fun p => ?_, hq'.word.trans hq.word, hq'.ctx.trans hq.ctx⟩, hf.trans hf', fun a ha => ?_⟩
    · rw [hq'.runs, hq.runs]
      simp [and_assoc]
    · rw [hq'.todo, hq.todo]
      simp [or_assoc]
    · refine (hb' a fun q hq => ?_).trans (hb a (ha r List.mem_cons_self))
      rw [herePart_congr hf]
      exact ha q (List.mem_cons_of_mem r hq)

/-- A tile-form instruction that is pre-empted is to be released again; its pieces of a descriptor form are queued again. -/
theorem restart_spec {s : State} {k : Nat} {x : Flight} (hrun : s.power = .run) (hx : s.flight k = some x) (hpl : x.planned = false)
    (hst : x.status ≠ 0x30) :
    (x.ledger ≠ [] → x.acts ≠ [] ∨ x.writes ≠ [] →
      ∃ t y, exec (.pieceRestart k) s = .next t ∧ t.flight k = some y ∧ y.again = true ∧ y.acts = [] ∧ y.writes = [] ∧ y.ledger = x.ledger ∧
        y.word = x.word ∧ y.ctx = x.ctx ∧ (∀ a, (∀ e ∈ s.tileNew x, a < e.1 ∨ e.1 + e.2.length ≤ a) → t.byte a = s.byte a) ∧
        ∀ (f : Fld) (i : Nat), f ≠ .REFETCH_COUNT → t.fld f i = s.fld f i) ∧
    (x.ledger = [] → x.acts = [] → x.writes = [] → x.runs ≠ [] →
      ∃ t y, exec (.pieceRestart k) s = .next t ∧ t.flight k = some y ∧ y.runs = [] ∧ (∀ r ∈ x.runs, r.piece ∈ y.todo) ∧
        (∀ q ∈ x.todo, q ∈ y.todo) ∧ y.word = x.word ∧ y.ctx = x.ctx ∧
        (∀ a, (∀ r ∈ x.runs, ∀ e ∈ s.herePart (r.piece.data.getD []), a < e.1 ∨ e.1 + e.2.length ≤ a) → t.byte a = s.byte a) ∧
        ∀ (f : Fld) (i : Nat), f ≠ .REFETCH_COUNT → t.fld f i = s.fld f i) := by
  have hid : x.id = k := by simpa using List.find?_some hx
  obtain ⟨t, ht, hr⟩ := live_ran hrun fun s =>
    match s.flight k with
    | none => s
    | some x => if x.planned || x.status = 0x30 || (x.acts.isEmpty && x.writes.isEmpty && x.runs.isEmpty) then s else s.preemptFlight x
  rw [hx] at hr
  dsimp only at hr
  refine ⟨fun hl hw => ?_, fun hl ha hw hruns => ?_⟩
  · rw [if_neg (by cases hw with | inl h => simp [hpl, hst, h] | inr h => simp [hpl, hst, h]), State.preemptFlight,
      if_neg (by simpa using hl), hid] at hr
    have hmix := (mixChunks_mixed s (s.tileNew x)).trans (freeUnits_mixed _ x.sides _)
    generalize (s.mixChunks (s.tileNew x)).freeUnits x.sides = u at hmix hr
    have hy := setFlight_same (f := fun y => { y with acts := [], writes := [], capA := [], capB := [], again := true })
      ((flight_congr hmix.flights k).trans hx) fun _ => rfl
    exact ⟨t, _, ht, (flight_congr hr.flights k).trans hy, rfl, rfl, rfl, rfl, rfl, rfl,
      fun a hne => (hr.byte a).trans (hmix.byte a (not_among hne)), fun f i hf => (hr.fld f i).trans (hmix.regs f i (by simpa using hf))⟩
  · rw [if_neg (by simp [hpl, hst, hruns]), State.preemptFlight, if_pos (by simpa using hl), hid] at hr
    obtain ⟨⟨y, hy, hq⟩, hf, hb⟩ := requeueAll_spec k x.runs s x hx
    refine ⟨t, y, ht, (flight_congr hr.flights k).trans hy, ?_, fun r hr => ?_, fun q hq' => ?_, hq.word, hq.ctx,
      fun a hne => (hr.byte a).trans (hb a fun r hr => not_among (hne r hr)), fun f i hne => (hr.fld f i).trans (hf f i (by simpa using hne))⟩
    · exact List.eq_nil_iff_forall_not_mem.mpr fun r hmem => ((hq.runs r).mp hmem).2 r ((hq.runs r).mp hmem).1 rfl
    · exact (hq.todo _).mpr (.inr ⟨r, hr, rfl⟩)
    · exact (hq.todo _).mpr (.inl hq')

end Sys2Proof.Machine
end

section
/-! PROOF. An instruction with nothing outstanding ends, for whoever waits for it (R190, R274). -/

namespace Sys2Proof.Machine

/-! ### The ember that waited -/

/-- An ember whose work faulted is gone, or drains. -/
theorem emberFail_drains (s : State) (e : Nat) (m : Ember) (pc : Nat) (z : End) :
    ((s.emberFail e m pc z).ember e).live = false ∨ ((s.emberFail e m pc z).ember e).draining = true := by
  unfold State.emberFail
  generalize s.bump .EMB_FAULT_COUNT = u
  extract_lets y reeds s₁ s₂
  exact (drained_ends (s := s₂) (congrArg Ember.draining (setEmber_ember_same u e _) :) y z).1

/-- How the ember of `x` stands, once work that it waited for has ended as `e` says. -/
structure WorkEnded (s : State) (x : Ctx) (e : End) (t : State) : Prop where
  goes : e.status ≠ 0x30 → (t.ember x.ember).wait = .none ∧ (t.ember x.ember).pc = (s.ember x.ember).pc ∧
    ∀ i, (t.ember x.ember).a i = (s.ember x.ember).a i
  faults : e.status = 0x30 → (t.ember x.ember).live = false ∨ (t.ember x.ember).draining = true

theorem endEmber_spec {s : State} {x : Ctx} (e : End) (hl : (s.ember x.ember).live = true) (ht : s.emberTag x.ember = x.tag) :
    WorkEnded s x e (s.endEmber x e) := by
  unfold State.endEmber
  dsimp only
  rw [if_neg (by simp [hl, ht])]
  by_cases hs : e.status = 0x30
  · rw [if_pos hs]
    exact ⟨fun h => absurd hs h, fun _ => emberFail_drains ..⟩
  · rw [if_neg hs]
    have hw := (complete_reported (s.setEmber x.ember { s.ember x.ember with wait := .none, next := s.clk + 1, cache := [] }) x e).windows x.ember
    rw [setEmber_ember_same] at hw
    refine ⟨fun _ => ?_, fun h => absurd h hs⟩
    rw [hw]
    exact ⟨rfl, rfl, fun _ => rfl⟩

/-! ### The flight -/

theorem flightEnd_faults (s : State) (x : Flight) : (flightEnd s x).status = 0x30 ↔ x.status = 0x30 := by
  unfold flightEnd
  split
  · next h => exact ⟨fun _ => h, fun _ => rfl⟩
  · next h =>
    split
    · exact ⟨fun k => absurd k (by decide : (2 : Nat) ≠ 0x30), fun k => absurd k h⟩
    · dsimp only
      split
      · exact ⟨fun k => absurd k (by decide : (1 : Nat) ≠ 0x30), fun k => absurd k h⟩
      · exact Iff.rfl

theorem closeFlight_gone (s : State) (x : Flight) : (s.closeFlight x).flight x.id = none := by
  unfold State.closeFlight
  rw [flight_congr (endWork_ended ..).flights]
  exact List.find?_eq_none.mpr fun y hy => by simpa using (List.mem_filter.mp hy).2

theorem closeFlight_ends {s : State} {x : Flight} (ho : x.ctx.origin = 1) (hl : (s.ember x.ctx.ember).live = true)
    (ht : s.emberTag x.ctx.ember = x.ctx.tag) : ∃ e, (e.status = 0x30 ↔ x.status = 0x30) ∧ WorkEnded s x.ctx e (s.closeFlight x) := by
  unfold State.closeFlight
  dsimp only
  generalize hu : ({ s with flights := s.flights.filter (·.id != x.id)
                            reads := s.reads.filter fun r => r.owner != Owner.flight x.id } : State) = u
  have hem (e : Nat) : u.ember e = s.ember e := by
    rw [← hu]
    rfl
  have htag : u.emberTag x.ctx.ember = x.ctx.tag := by
    unfold State.emberTag at ht ⊢
    rw [hem, ht]
  have hend := endEmber_spec (s := u) (flightEnd u x) (by rw [hem]; exact hl) htag
  have hwork : u.endWork x.ctx (flightEnd u x) = u.endEmber x.ctx (flightEnd u x) := if_pos ho
  rw [hwork]
  exact ⟨_, flightEnd_faults u x, fun h => by simpa only [hem] using hend.goes h, hend.faults⟩

theorem tagGone_rest (s : State) (x : Flight) : (s.tagGone x).flights = s.flights ∧ (s.tagGone x).embers = s.embers := by
  unfold State.tagGone State.on State.tagEnd
  split
  · dsimp only
    split <;> exact ⟨rfl, rfl⟩
  · exact ⟨rfl, rfl⟩

/-- A flight with nothing outstanding is closed at once. -/
theorem finishFlight_now {s : State} {k : Nat} {x : Flight} (hx : s.flight k = some x) (hf : x.fetching = false) (hl : x.ledgerOver = true)
    (hdue : x.due ≤ s.clk) (hout : x.out = []) (hdone : x.done = .none) (hw : s.writing (.flight k) = false) :
    s.finishFlight k = (s.closeFlight x).tagGone x := by
  have hid : x.id = k := by simpa using List.find?_some hx
  have hpump : s.pump k = s := by
    unfold State.pump State.flush
    rw [hx]
    dsimp only [Option.map, Option.getD]
    rw [if_pos (by rw [hf]; rfl), hout]
    rfl
  have hrun (n : Nat) : s.runFlight k n = s := by
    cases n with
    | zero => rfl
    | succ n =>
      rw [State.runFlight, hx]
      exact if_pos (by simp [hl, hdue])
  have hend : s.endFlight x = s.closeFlight x := by
    unfold State.endFlight
    rw [hdone]
  unfold State.finishFlight
  dsimp only
  rw [hpump, hx]
  dsimp only
  rw [if_neg (by simp [hf, Flight.settling, hdone, hout, hw]), hrun, hx]
  dsimp only
  rw [if_pos (by simp [State.flightDone, hf, hl, hout, hid, hw, hdue]), hend]

theorem completion_spec {s : State} {k : Nat} {x : Flight} (hrun : s.power = .run) (hx : s.flight k = some x) (hf : x.fetching = false)
    (hl : x.ledgerOver = true) (hdue : x.due ≤ s.clk) (hout : x.out = []) (hdone : x.done = .none) (hw : s.writing (.flight k) = false) :
    ∃ t, exec (.instructionCompletion k) s = .next t ∧ t.flight k = none ∧
      (x.ctx.origin = 1 → (s.ember x.ctx.ember).live = true → s.emberTag x.ctx.ember = x.ctx.tag →
        (x.status ≠ 0x30 → (t.ember x.ctx.ember).wait = .none ∧ (t.ember x.ctx.ember).pc = (s.ember x.ctx.ember).pc ∧
          ∀ i, (t.ember x.ctx.ember).a i = (s.ember x.ctx.ember).a i) ∧
        (x.status = 0x30 → (t.ember x.ctx.ember).live = false ∨ (t.ember x.ctx.ember).draining = true)) := by
  have hid : x.id = k := by simpa using List.find?_some hx
  obtain ⟨t, ht, hr⟩ := live_ran hrun fun s => s.finishFlight k
  rw [finishFlight_now hx hf hl hdue hout hdone hw] at hr
  obtain ⟨hflights, hembers⟩ := tagGone_rest (s.closeFlight x) x
  have hember : t.ember x.ctx.ember = (s.closeFlight x).ember x.ctx.ember :=
    (hr.ember _).trans (congrArg (mget ({} : Ember) x.ctx.ember) hembers)
  refine ⟨t, ht, ?_, fun ho hlive htag => ?_⟩
  · rw [flight_congr (hr.flights.trans hflights), ← hid]
    exact closeFlight_gone s x
  · obtain ⟨e, he, hend⟩ := closeFlight_ends ho hlive htag
    rw [hember]
    exact ⟨fun h => hend.goes fun k => h (he.mp k), fun h => hend.faults (he.mpr h)⟩

end Sys2Proof.Machine
end

section
/-! PROOF. Engine and tile-move instructions issue, wait for their unit, or fail a check (R17, R163, R185 to R187, R209, R247, R249). -/

namespace Sys2Proof.Machine

/-! ### The instructions and their work -/

/-- The instructions of the engines and of tile moves, with their opcodes. -/
def engineInstrs (i : Issuer) : List (Instr × Nat) :=
  [(.movT i, 0x10), (.movZ i, 0x11), (.permRoute i, 0x20), (.permGather i, 0x21), (.permScatterFirst i, 0x22),
    (.permScatterLast i, 0x23), (.permScatterSum i, 0x24), (.permScatterFault i, 0x25), (.permRaw i, 0x26), (.tpTile i, 0x30),
    (.winExpand i, 0x40), (.bpUnpack i, 0x50), (.bpPack i, 0x51), (.bpPlane i, 0x52), (.bpUnplane i, 0x53), (.bpIlv i, 0x54),
    (.bpDilv i, 0x55), (.bpColor i, 0x56), (.mixRot i, 0x60), (.mixDeq i, 0x61), (.mixComb i, 0x62), (.mixMm i, 0x63), (.mixCvt i, 0x64)]

/-- Each of them is the issue of its opcode with the work of that opcode. -/
theorem exec_engine {i : Issuer} {x : Instr × Nat} (h : x ∈ engineInstrs i) (s : State) :
    exec x.1 s = live s fun s => s.issueWork i x.2 (workOf x.2) := by
  have hall : ∀ x ∈ engineInstrs i, exec x.1 s = live s fun s => s.issueWork i x.2 (workOf x.2) := by
    simp only [engineInstrs, List.forall_mem_cons]
    exact ⟨rfl, rfl, rfl, rfl, rfl, rfl, rfl, rfl, rfl, rfl, rfl, rfl, rfl, rfl, rfl, rfl, rfl, rfl, rfl, rfl, rfl, rfl, rfl,
      fun _ h => (nomatch h)⟩
  exact hall x h

/-! ### Taking the instruction -/

section
variable {s p : State} {i : Issuer} {opc : Nat} {j : Job}

/-- An instruction of a queue or of a plan is taken from its list. -/
theorem takeJob_listed (h : s.takeJob i opc = .job p j) (hi : ∀ e, i ≠ .ember e) : ∃ hs rs, p = { s with hearths := hs, released := rs } := by
  cases i with
  | queue t =>
    simp only [State.takeJob] at h
    split at h
    · cases h
    · split at h
      · cases h
      · cases h
        exact ⟨_, _, rfl⟩
  | ember e => exact absurd rfl (hi e)
  | item k =>
    simp only [State.takeJob] at h
    split at h
    · cases h
    · split at h
      · cases h
      · cases h
        exact ⟨_, _, rfl⟩

/-- An ember's instruction has issued from its pipe. -/
theorem takeJob_ember {e : Fin 2048} (h : s.takeJob (.ember e) opc = .job p j) :
    ∃ u m w, s.ready e = (u, some (m, some w)) ∧ p = u.spend e ∧ j.ctx.origin = 1 := by
  simp only [State.takeJob, State.takeEmber] at h
  split at h
  · cases h
  · cases h
  · next u m w hr =>
    refine ⟨u, m, w, hr, ?_⟩
    split at h
    · cases h
    · split at h
      · cases h
      · split at h
        · cases h
          exact ⟨rfl, rfl⟩
        · split at h
          · cases h
          · split at h <;> cases h

variable {work : State → Job → Chk Prog}

theorem issueWork_fails {f : Flaw} (h : s.takeJob i opc = .job p j) (hw : work p j = .error f) :
    s.issueWork i opc work = p.failJob j.ctx f := by
  unfold State.issueWork
  rw [h]
  dsimp only
  rw [hw]

theorem issueWork_passes {g : Prog} (h : s.takeJob i opc = .job p j) (hw : work p j = .ok g) :
    s.issueWork i opc work = if p.mayIssue j g then p.launchProg j g else s.holdJob i := by
  unfold State.issueWork
  rw [h]
  dsimp only
  rw [hw]

end

/-! ### The flight of an instruction -/

theorem addFlight_flight (s : State) (x : Flight) : (s.addFlight x).flight x.id = some x := by
  have hnone : (s.flights.filter fun y : Flight => y.id != x.id).find? (fun y => decide (y.id = x.id)) = none :=
    List.find?_eq_none.mpr fun y hy => by simpa using (List.mem_filter.mp hy).2
  unfold State.flight State.addFlight
  rw [List.find?_append, hnone]
  simp

theorem blockFor_waits {s q : State} {j : Job} {k : Nat} (h : s.blockFor j k = .ok q) (ho : j.ctx.origin = 1) :
    (q.ember j.ctx.ember).wait = .flight k := by
  unfold State.blockFor at h
  dsimp only at h
  rw [if_neg (by simp [ho])] at h
  split at h
  · cases h
    exact congrArg Ember.wait (setEmber_ember_same ..)
  · split at h
    · cases h
    · next u hpc =>
      cases h
      rw [State.block, hpc]
      exact congrArg Ember.wait (setEmber_ember_same ..)

theorem takeUnits_rest (s : State) (ds : List Side) : ∃ l, s.takeUnits ds = { s with sides := l } := by
  refine ⟨(s.takeUnits ds).sides, ?_⟩
  exact forAll_rel (R := fun s t => t = { s with sides := t.sides }) (fun _ => rfl) (fun h k => by rw [h] at k; exact k) ds _
    (fun _ _ _ => rfl) s

theorem faultDead_none {s : State} {k : Nat} {x : Flight} (hx : s.flight k = some x) (h : s.deadUnit x = none) : s.faultDead k = s := by
  unfold State.faultDead
  rw [hx]
  dsimp only [Option.bind]
  rw [h]

theorem deadBehind_congr {s t : State} (hu : t.units = s.units) (hs : t.fld .SLICE_LIVE 0 = s.fld .SLICE_LIVE 0)
    (hm : t.fld .MIXER_LIVE 0 = s.fld .MIXER_LIVE 0) (cls l : Nat) : t.deadBehind cls l = s.deadBehind cls l := by
  unfold State.deadBehind State.physOf State.fbit
  rw [hu, hs, hm]

/-- The parts of a state that the issue of an instruction leaves alone. -/
structure Launched (p : State) (fs : List Fld) (t : State) : Prop where
  byte : ∀ a, t.byte a = p.byte a
  regs : FldsBut fs p t

/-- A tile-form instruction issues: its units are taken and its ledger begins (R247). -/
theorem launchTile_spec {p q : State} {j : Job} {r : TileRun} (range : List (Nat × Nat)) (hq : p.blockFor j p.flightNext = .ok q)
    (hdead : ∀ d ∈ r.sides, p.deadBehind (d.cls % 16) d.unit = none) :
    ∃ x, (p.launchProg j (.tile r range)).flight p.flightNext = some x ∧ x.word = j.word ∧ x.ctx = j.ctx ∧ x.planned = j.planned ∧
      x.range = range ∧ x.sides = r.sides ∧ x.ledger = r.ledger ∧ x.acts = actsFrom p.clk r.ledger ∧ x.writes = [] ∧ x.status = 0 ∧
      x.due = p.clk + r.cycles ∧ (p.launchProg j (.tile r range)).embers = q.embers ∧ Launched p [] (p.launchProg j (.tile r range)) := by
  have hlaunch : p.launchProg j (.tile r range) = ((q.takeUnits r.sides).addFlight { q.newFlight j r.cycles with
      start := q.clk, range := range, sides := r.sides, ledger := r.ledger, acts := actsFrom q.clk r.ledger }).faultDead p.flightNext := by
    unfold State.launchProg
    dsimp only
    rw [hq]
  obtain ⟨es, rfl⟩ : ∃ es, q = { p with embers := es } := ⟨_, blockFor_spec hq⟩
  obtain ⟨l, hl⟩ := takeUnits_rest ({ p with embers := es } : State) r.sides
  rw [hl] at hlaunch
  generalize hx : ({ ({ p with embers := es } : State).newFlight j r.cycles with
      start := p.clk, range := range, sides := r.sides, ledger := r.ledger, acts := actsFrom p.clk r.ledger } : Flight) = x at hlaunch
  generalize hu : ({ p with embers := es, sides := l } : State) = u at hlaunch
  have hid : x.id = p.flightNext := by rw [← hx]; rfl
  have hflight := addFlight_flight u x
  rw [hid] at hflight
  have hreg : (u.addFlight x).reg = p.reg := by rw [← hu]; rfl
  have hnone : (u.addFlight x).deadUnit x = none := by
    have hholds : x.holds = r.sides.map fun d => (d.cls % 16, d.unit) := by
      rw [← hx]
      simp [Flight.holds, State.newFlight]
    unfold State.deadUnit
    rw [hholds, List.findSome?_eq_none_iff]
    intro e he
    obtain ⟨d, hd, rfl⟩ := List.mem_map.mp he
    rw [deadBehind_congr (by rw [← hu]; rfl) (fld_of_reg hreg ..) (fld_of_reg hreg ..)]
    exact hdead d hd
  rw [faultDead_none hflight hnone] at hlaunch
  rw [hlaunch]
  refine ⟨x, hflight, ?_⟩
  rw [← hx]
  exact ⟨rfl, rfl, rfl, rfl, rfl, rfl, rfl, rfl, rfl, rfl, by rw [← hu]; rfl, fun a => by rw [← hu]; rfl, fun f i _ => fld_of_reg hreg f i⟩

end Sys2Proof.Machine
end

section
/-! PROOF. Descriptor-form instructions issue; instructions that wait or fail; all of them end or start again (R163, R186 to R188, R209, R249). -/

namespace Sys2Proof.Machine

/-! ### Pieces get their bytes -/

/-- The pieces of a flight that has just issued get the bytes that are here, and nothing else changes but free values. -/
theorem feedPieces_here {s : State} {k : Nat} {x : Flight} {d : DescProg} (hx : s.flight k = some x) (hruns : x.runs = [])
    (hhere : ∀ r ∈ d.reads, s.onChip r.1 = true) :
    ∃ n todo fetching, s.feedPieces k d = { s with free := n }.setFlight k (fun y => { y with todo := todo, runs := [], fetching := fetching }) ∧
      todo.length = x.todo.length := by
  have hnone : (d.reads.filter fun r => !s.onChip r.1) = [] := List.filter_eq_nil_iff.mpr fun r hr => by simp [hhere r hr]
  have hfeed : s.feedPieces k d = s.fillPieces k d := by
    unfold State.feedPieces
    rw [hx]
    dsimp only
    rw [hnone]
    rfl
  rw [hfeed]
  unfold State.fillPieces
  rw [hx]
  dsimp only
  rw [hruns]
  exact ⟨_, _, _, rfl, List.length_map ..⟩

/-- A descriptor-form instruction issues: its pieces start after the issue phase (R163). -/
theorem launchDesc_spec {p q : State} {j : Job} {d : DescProg} (hq : p.blockFor j p.flightNext = .ok q) (hflaw : d.flaw = none)
    (hhere : ∀ r ∈ d.reads, p.onChip r.1 = true) (hdead : ∀ u ∈ p.planUnits j, p.deadBehind (wordClass j.word) u = none) :
    ∃ x, (p.launchProg j (.desc d)).flight p.flightNext = some x ∧ x.word = j.word ∧ x.ctx = j.ctx ∧ x.planned = j.planned ∧
      x.units = p.planUnits j ∧ x.todo.length = d.pieces.length ∧ x.runs = [] ∧ x.ended = [] ∧ x.status = 0 ∧ x.oor = d.oor ∧
      x.start = p.clk + (2 + 4 * d.descs.length) ∧ (p.launchProg j (.desc d)).embers = q.embers ∧
      Launched p [.OOR_COUNT] (p.launchProg j (.desc d)) := by
  have hlaunch : p.launchProg j (.desc d) = (((q.bump .OOR_COUNT 0 d.oor).addFlight { q.newFlight j (issueCycles d.descs.length) with
      start := q.clk + issueCycles d.descs.length, units := q.planUnits j, todo := d.pieces
      descs := d.descs.map (fun a => (a, q.bytes a 64)) ++ d.lists.map fun e => (e.1, q.bytes e.1 e.2)
      range := d.pieces.flatMap (·.range), oor := d.oor, first := d.first }).feedPieces p.flightNext d).faultDead p.flightNext := by
    unfold State.launchProg
    dsimp only
    rw [hq]
    dsimp only
    rw [hflaw]
  obtain ⟨es, rfl⟩ : ∃ es, q = { p with embers := es } := ⟨_, blockFor_spec hq⟩
  have hbump := bump_rest ({ p with embers := es } : State) .OOR_COUNT 0 d.oor
  have hfld := bump_fldsBut (fs := [.OOR_COUNT]) ({ p with embers := es } : State) (List.mem_singleton_self _) 0 d.oor
  have hmem := bump_mem ({ p with embers := es } : State) .OOR_COUNT 0 d.oor
  generalize State.bump ({ p with embers := es } : State) .OOR_COUNT 0 d.oor = b at *
  generalize hx : ({ ({ p with embers := es } : State).newFlight j (issueCycles d.descs.length) with
      start := p.clk + issueCycles d.descs.length, units := ({ p with embers := es } : State).planUnits j, todo := d.pieces
      descs := d.descs.map (fun a => (a, ({ p with embers := es } : State).bytes a 64)) ++
        d.lists.map fun e => (e.1, ({ p with embers := es } : State).bytes e.1 e.2)
      range := d.pieces.flatMap (·.range), oor := d.oor, first := d.first } : Flight) = x at hlaunch
  have hid : x.id = p.flightNext := by rw [← hx]; rfl
  have hunits : x.units = p.planUnits j := by rw [← hx]; rfl
  have hreg : FldsBut [.OOR_COUNT] p (b.addFlight x) := hfld
  have hflight := addFlight_flight b x
  rw [hid] at hflight
  obtain ⟨n, todo, fetching, hfeed, hlen⟩ := feedPieces_here (d := d) hflight (by rw [← hx]; rfl) fun r hr =>
    (onChip_congr (fun f hf i => hreg f i (by revert f; decide)) r.1).trans (hhere r hr)
  have hset := setFlight_same (s := { b.addFlight x with free := n }) (k := p.flightNext)
    (f := fun y => { y with todo := todo, runs := [], fetching := fetching }) hflight fun _ => rfl
  rw [hfeed] at hlaunch
  have hregs : FldsBut [.OOR_COUNT] p ({ b.addFlight x with free := n }.setFlight p.flightNext
      fun y => { y with todo := todo, runs := [], fetching := fetching }) := hreg
  have hbyte (a : Nat) : ({ b.addFlight x with free := n }.setFlight p.flightNext
      fun y => { y with todo := todo, runs := [], fetching := fetching }).byte a = p.byte a := congrArg (mget 0 a) hmem
  have hembers : ({ b.addFlight x with free := n }.setFlight p.flightNext
      fun y => { y with todo := todo, runs := [], fetching := fetching }).embers = es := (congrArg State.embers hbump :)
  have hunit : ({ b.addFlight x with free := n }.setFlight p.flightNext
      fun y => { y with todo := todo, runs := [], fetching := fetching }).units = p.units := (congrArg State.units hbump :)
  generalize ({ b.addFlight x with free := n } : State).setFlight p.flightNext _ = u at *
  have hnone : u.deadUnit { x with todo := todo, runs := [], fetching := fetching } = none := by
    have hholds : ({ x with todo := todo, runs := [], fetching := fetching } : Flight).holds = (p.planUnits j).map fun k => (wordClass j.word, k) := by
      rw [← hx]
      exact List.append_nil _
    unfold State.deadUnit
    rw [hholds, List.findSome?_eq_none_iff]
    intro e he
    obtain ⟨k, hk, rfl⟩ := List.mem_map.mp he
    rw [deadBehind_congr hunit (hregs _ _ (by decide)) (hregs _ _ (by decide))]
    exact hdead k hk
  rw [faultDead_none hset hnone] at hlaunch
  rw [hlaunch]
  refine ⟨_, hset, ?_, ?_, ?_, hunits, ?_, rfl, ?_, ?_, ?_, ?_, hembers, hbyte, hregs⟩
  · rw [← hx]; rfl
  · rw [← hx]; rfl
  · rw [← hx]; rfl
  · rw [hlen, ← hx]
  · rw [← hx]; rfl
  · rw [← hx]; rfl
  · rw [← hx]
  · rw [← hx]; rfl

/-! ### Waiting, and failing a check -/

section
variable {s p : State} {i : Issuer} {opc : Nat} {j : Job}

/-- An ember whose instruction waits for a unit keeps it. -/
theorem holdJob_ember {e : Fin 2048} (h : s.takeJob (.ember e) opc = .job p j) :
    (s.holdJob (.ember e)).flights = p.flights ∧ ((s.holdJob (.ember e)).ember e).pc = (p.ember e).pc ∧
      ((s.holdJob (.ember e)).ember e).wait = .none ∧ (∀ k, ((s.holdJob (.ember e)).ember e).a k = (p.ember e).a k) ∧
      (∀ a, (s.holdJob (.ember e)).byte a = p.byte a) ∧ ∀ f k, (s.holdJob (.ember e)).fld f k = p.fld f k := by
  obtain ⟨u, m, w, hr, rfl, -⟩ := takeJob_ember h
  obtain ⟨hm, -, -, hnone⟩ := (ready_spec hr).1 m (some w) rfl
  have hhold : s.holdJob (.ember e) = u.stall e := by
    unfold State.holdJob
    dsimp only
    rw [hr]
  have hstall : (u.stall e).ember e = { u.ember e with next := u.clk + 1 } := setEmber_ember_same ..
  have hspend : (u.spend e).ember e = { u.ember e with issued := u.clk + 1 } := setEmber_ember_same ..
  rw [hhold, hstall, hspend]
  exact ⟨rfl, rfl, hm ▸ hnone, fun _ => rfl, fun _ => rfl, fun _ _ => rfl⟩

theorem failJob_reported {x : Ctx} (f : Flaw) (hx : x.origin = 0 ∨ x.origin = 2) : Reported reportFlds p (p.failJob x f) := by
  have hwork : (p.countFlaw f).endWork x f.toEnd = (p.countFlaw f).complete x f.toEnd := by
    unfold State.endWork
    rw [if_neg (by omega), if_neg (by omega)]
  rw [State.failJob, hwork]
  exact (countSeal_reported p f.cause).trans (complete_reported ..)

theorem failJob_ember {x : Ctx} (f : Flaw) (hx : x.origin = 1) (hl : (p.ember x.ember).live = true) (ht : p.emberTag x.ember = x.tag) :
    (p.failJob x f).flights = p.flights ∧ (((p.failJob x f).ember x.ember).live = false ∨ ((p.failJob x f).ember x.ember).draining = true) := by
  have hflaw := countSeal_reported p f.cause
  have hwork : (p.countFlaw f).endWork x f.toEnd = (p.countFlaw f).endEmber x f.toEnd := if_pos hx
  have hinc : ((p.countFlaw f).ember x.ember).incarn = (p.ember x.ember).incarn := (congrArg Ember.incarn (hflaw.windows x.ember) :)
  have hend := endEmber_spec (s := p.countFlaw f) f.toEnd ((hflaw.live x.ember).trans hl)
    (by unfold State.emberTag at ht ⊢; rw [hinc, ht])
  refine ⟨?_, ?_⟩
  · exact ((countFlaw_ended p f).trans (endWork_ended ..)).flights
  · rw [State.failJob, hwork]
    exact hend.faults rfl

end

/-! ### The obligation -/

section
variable {s p : State} {i : Issuer} {j : Job} {x : Instr × Nat}

/-- What the issue of an instruction with its job leaves. -/
theorem exec_job (hrun : s.power = .run) (hx : x ∈ engineInstrs i) (hj : s.takeJob i x.2 = .job p j) :
    ∃ t, exec x.1 s = .next t ∧ (∀ f, workOf x.2 p j = .error f → Ran (p.failJob j.ctx f) t) ∧
      (∀ g, workOf x.2 p j = .ok g → p.mayIssue j g = true → Ran (p.launchProg j g) t) ∧
      ∀ g, workOf x.2 p j = .ok g → p.mayIssue j g = false → Ran (s.holdJob i) t := by
  obtain ⟨t, ht, hr⟩ := live_ran hrun fun s => s.issueWork i x.2 (workOf x.2)
  refine ⟨t, (exec_engine hx s).trans ht, fun f hf => ?_, fun g hg hm => ?_, fun g hg hm => ?_⟩
  · rwa [issueWork_fails hj hf] at hr
  · rwa [issueWork_passes hj hg, if_pos hm] at hr
  · rwa [issueWork_passes hj hg, if_neg (by rw [hm]; decide)] at hr

theorem tileIssues (hrun : s.power = .run) (hx : x ∈ engineInstrs i) (hj : s.takeJob i x.2 = .job p j) (r : TileRun)
    (range : List (Nat × Nat)) (q : State) (hw : workOf x.2 p j = .ok (.tile r range)) (hm : p.mayIssue j (.tile r range) = true)
    (hq : p.blockFor j p.flightNext = .ok q) (hdead : ∀ d ∈ r.sides, p.deadBehind (d.cls % 16) d.unit = none) :
    ∃ t y, exec x.1 s = .next t ∧ t.flight p.flightNext = some y ∧ y.word = j.word ∧ y.ctx = j.ctx ∧ y.planned = j.planned ∧
      y.range = range ∧ y.sides = r.sides ∧ y.ledger = r.ledger ∧ y.acts = actsFrom p.clk r.ledger ∧ y.writes = [] ∧ y.status = 0 ∧
      y.due = p.clk + r.cycles ∧ (j.ctx.origin = 1 → (t.ember j.ctx.ember).wait = .flight p.flightNext) ∧
      (∀ a, t.byte a = p.byte a) ∧ ∀ f i, t.fld f i = p.fld f i := by
  obtain ⟨t, ht, -, hgo, -⟩ := exec_job hrun hx hj
  have hr := hgo _ hw hm
  obtain ⟨y, hy, h1, h2, h3, h4, h5, h6, h7, h8, h9, h10, hembers, hl⟩ := launchTile_spec range hq hdead
  refine ⟨t, y, ht, (flight_congr hr.flights _).trans hy, h1, h2, h3, h4, h5, h6, h7, h8, h9, h10, fun ho => ?_,
    fun a => (hr.byte a).trans (hl.byte a), fun f i => (hr.fld f i).trans (hl.regs f i (by simp))⟩
  rw [hr.ember, State.ember, hembers]
  exact blockFor_waits hq ho

theorem descIssues (hrun : s.power = .run) (hx : x ∈ engineInstrs i) (hj : s.takeJob i x.2 = .job p j) (d : DescProg) (q : State)
    (hw : workOf x.2 p j = .ok (.desc d)) (hm : p.mayIssue j (.desc d) = true) (hq : p.blockFor j p.flightNext = .ok q)
    (hflaw : d.flaw = none) (hhere : ∀ r ∈ d.reads, p.onChip r.1 = true)
    (hdead : ∀ u ∈ p.planUnits j, p.deadBehind (wordClass j.word) u = none) :
    ∃ t y, exec x.1 s = .next t ∧ t.flight p.flightNext = some y ∧ y.word = j.word ∧ y.ctx = j.ctx ∧ y.planned = j.planned ∧
      y.units = p.planUnits j ∧ y.todo.length = d.pieces.length ∧ y.runs = [] ∧ y.ended = [] ∧ y.status = 0 ∧ y.oor = d.oor ∧
      y.start = p.clk + (2 + 4 * d.descs.length) ∧ (j.ctx.origin = 1 → (t.ember j.ctx.ember).wait = .flight p.flightNext) ∧
      (∀ a, t.byte a = p.byte a) ∧ ∀ f i, f ≠ .OOR_COUNT → t.fld f i = p.fld f i := by
  obtain ⟨t, ht, -, hgo, -⟩ := exec_job hrun hx hj
  have hr := hgo _ hw hm
  obtain ⟨y, hy, h1, h2, h3, h4, h5, h6, h7, h8, h9, h10, hembers, hl⟩ := launchDesc_spec hq hflaw hhere hdead
  refine ⟨t, y, ht, (flight_congr hr.flights _).trans hy, h1, h2, h3, h4, h5, h6, h7, h8, h9, h10, fun ho => ?_,
    fun a => (hr.byte a).trans (hl.byte a), fun f i hf => (hr.fld f i).trans (hl.regs f i (by simpa using hf))⟩
  rw [hr.ember, State.ember, hembers]
  exact blockFor_waits hq ho

theorem jobWaits (hrun : s.power = .run) (hx : x ∈ engineInstrs i) (hj : s.takeJob i x.2 = .job p j) (g : Prog)
    (hw : workOf x.2 p j = .ok g) (hm : p.mayIssue j g = false) :
    ((∀ e, i ≠ .ember e) → exec x.1 s = .next s) ∧
      ∀ e, i = .ember e → ∃ t, exec x.1 s = .next t ∧ t.flights = p.flights ∧ (t.ember e).pc = (p.ember e).pc ∧ (t.ember e).wait = .none ∧
        (∀ k, (t.ember e).a k = (p.ember e).a k) ∧ (∀ a, t.byte a = p.byte a) ∧ ∀ f k, t.fld f k = p.fld f k := by
  refine ⟨fun hi => ?_, fun e he => ?_⟩
  · have hsame : s.issueWork i x.2 (workOf x.2) = s := by
      rw [issueWork_passes hj hw, if_neg (by rw [hm]; decide)]
      cases i with
      | ember e => exact absurd rfl (hi e)
      | queue t => rfl
      | item k => rfl
    exact (exec_engine hx s).trans (congrArg Host.Outcome.next (running_self hrun hsame))
  · obtain ⟨t, ht, -, -, hhold⟩ := exec_job hrun hx hj
    have hr := hhold g hw hm
    subst he
    obtain ⟨hf, hpc, hwait, ha, hb, hfld⟩ := holdJob_ember hj
    refine ⟨t, ht, hr.flights.trans hf, ?_, ?_, fun k => ?_, fun a => (hr.byte a).trans (hb a), fun f k => (hr.fld f k).trans (hfld f k)⟩ <;>
      rw [hr.ember]
    · exact hpc
    · exact hwait
    · exact ha k

theorem jobFails (hrun : s.power = .run) (hx : x ∈ engineInstrs i) (hj : s.takeJob i x.2 = .job p j) (f : Flaw)
    (hw : workOf x.2 p j = .error f) :
    (j.ctx.origin = 0 ∨ j.ctx.origin = 2 → ∃ t, exec x.1 s = .next t ∧ t.flights = s.flights ∧ (∀ k, (s.ember k).likeWin (t.ember k)) ∧
      t.links = s.links ∧
      ∀ g k, g ∉ [Fld.AQ_TAIL, .CQ_TAIL, .ASH_DROPPED, .CQ_DROPPED, .HEARTH_STAT_AQ_OVER, .LATE_COUNT, .REFUSED_COUNT, .SELF_MOD_COUNT,
        .REFETCH_COUNT] → t.fld g k = s.fld g k) ∧
    (j.ctx.origin = 1 → (p.ember j.ctx.ember).live = true → p.emberTag j.ctx.ember = j.ctx.tag →
      ∃ t, exec x.1 s = .next t ∧ t.flights = p.flights ∧ ((t.ember j.ctx.ember).live = false ∨ (t.ember j.ctx.ember).draining = true)) := by
  obtain ⟨t, ht, hfail, -, -⟩ := exec_job hrun hx hj
  have hr := hfail f hw
  refine ⟨fun ho => ⟨t, ht, ?_⟩, fun ho hl htag => ?_⟩
  · have hi : ∀ e, i ≠ .ember e := fun e he => by
      subst he
      obtain ⟨u, m, w, -, -, h1⟩ := takeJob_ember hj
      omega
    obtain ⟨hs, rs, rfl⟩ := takeJob_listed hj hi
    have hrep := failJob_reported (p := { s with hearths := hs, released := rs }) f ho
    refine ⟨hr.flights.trans (congrArg State.flights hrep.rest :), fun k => ?_, (congrArg State.links hr.rest :).trans (congrArg State.links hrep.rest :),
      fun g k hg => (hr.fld g k).trans (hrep.fld (fun h => hg ((by decide : ∀ f ∈ reportFlds, f ∈ [Fld.AQ_TAIL, .CQ_TAIL, .ASH_DROPPED,
        .CQ_DROPPED, .HEARTH_STAT_AQ_OVER, .LATE_COUNT, .REFUSED_COUNT, .SELF_MOD_COUNT, .REFETCH_COUNT]) g h)) k)⟩
    rw [hr.ember]
    exact hrep.windows k
  · obtain ⟨hf, hend⟩ := failJob_ember f ho hl htag
    refine ⟨t, ht, hr.flights.trans hf, ?_⟩
    rw [hr.ember]
    exact hend

end

/-- Settles O55: the issue by its job's work, the end and the restart by the flight itself. -/
theorem engineInstructionsIssueAndEnd : Obligations.EngineInstructionsIssueAndEnd := by
  unfold Obligations.EngineInstructionsIssueAndEnd
  refine ⟨fun s p i j c opc hrun hc hj => ⟨?_, ?_, ?_, ?_⟩, ?_, ?_⟩
  · exact fun r range q hw hm hq hdead => tileIssues hrun hc hj r range q hw hm hq hdead
  · exact fun d q hw hm hq hflaw hhere hdead => descIssues hrun hc hj d q hw hm hq hflaw hhere hdead
  · exact fun g hw hm => jobWaits hrun hc hj g hw hm
  · exact fun f hw => jobFails hrun hc hj f hw
  · exact fun s k x hrun hx hf hl hdue hout hdone hw => completion_spec hrun hx hf hl hdue hout hdone hw
  · exact fun s k x hrun hx hpl hst => restart_spec hrun hx hpl hst

end Sys2Proof.Machine
end

section
/-! PROOF. The row accesses of a ledger, and the row writes that it makes (R174, R175). -/

namespace Sys2Proof.Machine

/-! ### Acts -/

theorem act_id (v : State) (x : Flight) (a : Act) : (x.act v a).id = x.id := by
  cases a with
  | read b => cases b <;> rfl
  | _ => rfl

theorem act_word (v : State) (x : Flight) (a : Act) : (x.act v a).word = x.word := by
  cases a with
  | read b => cases b <;> rfl
  | _ => rfl

/-- No capture is made while the trace is not armed. -/
theorem trace_off {s : State} (v : State) (k : Nat) (a : Act) (h : s.flag .TRACE_CTL_ARM = false) : s.trace v k a = s := by
  unfold State.trace
  split
  · rw [if_pos (by simp [h])]
  · rfl

theorem latchRow_keeps (s : State) (port a : Nat) :
    (s.latchRow port a).flights = s.flights ∧ (s.latchRow port a).reg = s.reg ∧ (s.latchRow port a).mem = s.mem := by
  unfold State.latchRow
  split
  · exact ⟨rfl, rfl, rfl⟩
  · dsimp only
    split <;> exact ⟨rfl, rfl, rfl⟩

theorem actLatch_keeps (s : State) (w : Word128) (a : Act) :
    (s.actLatch w a).flights = s.flights ∧ (s.actLatch w a).reg = s.reg ∧ (s.actLatch w a).mem = s.mem := by
  cases a with
  | read b a n => exact latchRow_keeps ..
  | map r a na b nb =>
    obtain ⟨h1, h2, h3⟩ := latchRow_keeps (s.latchRow 0 (a + na - 1)) 1 (b + nb - 1)
    obtain ⟨k1, k2, k3⟩ := latchRow_keeps s 0 (a + na - 1)
    exact ⟨h1.trans k1, h2.trans k2, h3.trans k3⟩
  | part i => exact latchRow_keeps ..
  | _ => exact ⟨rfl, rfl, rfl⟩

theorem doAct_spec {s : State} {k : Nat} {x : Flight} (v : State) (a : Act) (hx : s.flight k = some x) (h : s.flag .TRACE_CTL_ARM = false) :
    (s.doAct v k a).flight k = some (x.act v a) ∧ (s.doAct v k a).reg = s.reg ∧ (s.doAct v k a).mem = s.mem := by
  have hset := setFlight_same hx (act_id v · a)
  have htrace : (s.setFlight k fun y => y.act v a).trace v k a = s.setFlight k fun y => y.act v a := trace_off v k a h
  obtain ⟨h1, h2, h3⟩ := actLatch_keeps (s.setFlight k fun y => y.act v a) x.word a
  have hdo : s.doAct v k a = (s.setFlight k fun y => y.act v a).actLatch x.word a := by
    unfold State.doAct
    rw [hx]
    dsimp only
    rw [htrace]
  rw [hdo]
  exact ⟨(flight_congr h1 k).trans hset, h2, h3⟩

theorem doActList_spec (v : State) (k : Nat) : ∀ (l : List (Nat × Act)) (s : State) (x : Flight), s.flight k = some x →
    s.flag .TRACE_CTL_ARM = false →
    (forAll l (fun e s => s.doAct v k e.2) s).flight k = some (l.foldl (fun y e => y.act v e.2) x) ∧
      (forAll l (fun e s => s.doAct v k e.2) s).reg = s.reg ∧ (forAll l (fun e s => s.doAct v k e.2) s).mem = s.mem
  | [], _, _, hx, _ => ⟨hx, rfl, rfl⟩
  | e :: l, s, x, hx, h => by
    obtain ⟨h1, h2, h3⟩ := doAct_spec v e.2 hx h
    have harm : (s.doAct v k e.2).flag .TRACE_CTL_ARM = false := by
      rw [State.flag, fld_of_reg h2]
      exact h
    obtain ⟨k1, k2, k3⟩ := doActList_spec v k l _ _ h1 harm
    exact ⟨k1, k2.trans h2, k3.trans h3⟩

theorem doActs_spec {s : State} {k : Nat} {x : Flight} (v : State) (hx : s.flight k = some x) (h : s.flag .TRACE_CTL_ARM = false) :
    (s.doActs v k).flight k =
        some ((x.acts.filter fun e => e.1 ≤ s.clk).foldl (fun y e => y.act v e.2) { x with acts := x.acts.filter fun e => s.clk < e.1 }) ∧
      (∀ a, (s.doActs v k).byte a = s.byte a) ∧ ∀ f i, (s.doActs v k).fld f i = s.fld f i := by
  have hset := setFlight_same (f := fun y => { y with acts := y.acts.filter fun e => s.clk < e.1 }) hx fun _ => rfl
  obtain ⟨h1, h2, h3⟩ := doActList_spec v k (x.acts.filter fun e => e.1 ≤ s.clk) _ _ hset h
  have hdo : s.doActs v k = forAll (x.acts.filter fun e => e.1 ≤ s.clk) (fun e s => s.doAct v k e.2)
      (s.setFlight k fun y => { y with acts := y.acts.filter fun e => s.clk < e.1 }) := by
    unfold State.doActs
    rw [hx]
  rw [hdo]
  exact ⟨h1, fun a => congrArg (mget 0 a) h3, fun f i => fld_of_reg h2 f i⟩

/-! ### Writes -/

theorem runs_solid (a : Nat) (bs : List Byte) : runs a (bs.map some) = if bs = [] then [] else [(a, bs)] := by
  induction bs generalizing a with
  | nil => rfl
  | cons b bs ih =>
    rw [List.map_cons, runs, ih]
    by_cases h : bs = []
    · subst h
      rfl
    · simp [h]

/-- A write-back in a cycle without other row accesses writes its bytes. -/
theorem writeBack_whole {s : State} {a : Nat} {bs : List Byte} (hne : bs ≠ []) (h : s.rowClk ≠ s.clk) : s.writeBack a bs = s.store a bs := by
  have hmap : (bs.zipIdx.map fun e => if s.rowClk = s.clk && s.rowOld.any (·.1 = a + e.2) then none else some e.1) = bs.map some := by
    have hnone (e : Byte × Nat) : (if (decide (s.rowClk = s.clk) && s.rowOld.any (·.1 = a + e.2)) = true then none else some e.1) =
        some e.1 := if_neg (by simp [h])
    simp only [hnone]
    rw [← List.zipIdx_map_fst 0 bs, List.map_map]
    simp [Function.comp_def]
  unfold State.writeBack
  rw [hmap, runs_solid, if_neg hne]
  rfl

theorem store_exact {s : State} {a : Nat} {bs : List Byte} (h : regionOf a = some .tile) : Stored s (s.store a bs) a bs := by
  have hfen : s.fenced a bs.length = false := by
    unfold State.fenced
    rw [h]
    rfl
  intro x
  rw [store_show hfen, show_byte]

theorem setFlight_mem (s : State) (k : Nat) (f : Flight → Flight) : (s.setFlight k f).mem = s.mem := rfl

/-- A row write puts its bytes, and changes no other one. -/
theorem doWrite_stored {s : State} {k a : Nat} {r : RowWrite} {bs : List Byte} (hdata : r.data = [(a, bs)]) (hne : bs ≠ []) (hc : r.cause = 0)
    (ha : regionOf a = some .tile) (hrow : s.rowClk ≠ s.clk) : Stored s (s.doWrite k r) a bs := by
  have hput : Stored s (forAll r.data (fun e s => if r.move then s.store e.1 e.2 else s.writeBack e.1 e.2) s) a bs := by
    rw [hdata]
    show Stored s (if r.move then s.store a bs else s.writeBack a bs) a bs
    rw [writeBack_whole hne hrow, ite_self]
    exact store_exact ha
  unfold State.doWrite
  dsimp only
  generalize forAll r.data _ s = u at hput ⊢
  rw [if_pos hc]
  refine fun x => Eq.trans ?_ (hput x)
  refine congrArg (mget 0 x) ?_
  rw [setFlight_mem]
  rw [on_mem _ fun s => (setFld_mem s .TRACE_CTL_DONE 0 1), bump_mem, bump_mem, bump_mem, bump_mem]

theorem doWrites_spec {s : State} {k a : Nat} {x : Flight} {r : RowWrite} {bs : List Byte} (hx : s.flight k = some x) (hw : x.writes = [r])
    (hat : r.at_ ≤ s.clk) (hdata : r.data = [(a, bs)]) (hne : bs ≠ []) (hc : r.cause = 0) (ha : regionOf a = some .tile)
    (hrow : s.rowClk ≠ s.clk) :
    (State.doWrites r.move k s).bytes a bs.length = bs ∧
      (∀ b, b < a ∨ a + bs.length ≤ b → (State.doWrites r.move k s).byte b = s.byte b) ∧
      (State.doWrites (!r.move) k s).mem = s.mem := by
  have hdo (m : Bool) : State.doWrites m k s = forAll (x.writes.filter fun r => r.at_ ≤ s.clk && r.move = m) (fun r s => s.doWrite k r)
      (s.setFlight k fun y => { y with writes := y.writes.filter fun r => !(r.at_ ≤ s.clk && r.move = m) }) := by
    unfold State.doWrites
    rw [hx]
  have hmine : (x.writes.filter fun q => q.at_ ≤ s.clk && q.move = r.move) = [r] := by
    rw [hw]
    simp [hat]
  have hother : (x.writes.filter fun q => q.at_ ≤ s.clk && q.move = !r.move) = [] := by
    rw [hw]
    cases hm : r.move <;> simp [hm]
  have hst : Stored s (State.doWrites r.move k s) a bs := by
    rw [hdo, hmine]
    exact doWrite_stored (s := s.setFlight k _) hdata hne hc ha hrow
  refine ⟨hst.bytes, fun b hb => hst.other hb, ?_⟩
  rw [hdo, hother]
  rfl

end Sys2Proof.Machine
end

section
/-! PROOF. Row writes laid side by side: what they make together, and tile moves (R182, R183). -/

namespace Sys2Proof.Machine

/-! ### Writes side by side -/

/-- The writes `l` put the bytes `bs` from `a` on, one part after the other. -/
inductive Laid : Nat → List (Nat × List Byte) → List Byte → Prop
  | nil (a : Nat) : Laid a [] []
  | cons {a : Nat} (b : List Byte) {l : List (Nat × List Byte)} {bs : List Byte} : Laid (a + b.length) l bs → Laid a ((a, b) :: l) (b ++ bs)

/-- `v` with the writes `l` made. -/
def State.putAll (v : State) (l : List (Nat × List Byte)) : State := l.foldl (fun t e => t.setBytes e.1 e.2) v

theorem setBytes_append (v : State) (a : Nat) (b bs : List Byte) (x : Nat) :
    ((v.setBytes a b).setBytes (a + b.length) bs).byte x = (v.setBytes a (b ++ bs)).byte x := by
  simp only [setBytes_byte, List.length_append]
  by_cases h1 : a + b.length ≤ x
  · rw [List.getD_append_right _ _ _ _ (by omega)]
    by_cases h2 : x < a + b.length + bs.length
    · rw [if_pos ⟨h1, h2⟩, if_pos (by omega)]
      congr 1
      omega
    · rw [if_neg (by omega), if_neg (by omega), if_neg (by omega)]
  · rw [if_neg (by omega)]
    by_cases h2 : a ≤ x
    · rw [if_pos (by omega), if_pos (by omega), List.getD_append _ _ _ _ (by omega)]
    · rw [if_neg (by omega), if_neg (by omega)]

theorem Laid.put {a : Nat} {l : List (Nat × List Byte)} {bs : List Byte} (h : Laid a l bs) (v : State) (x : Nat) :
    (v.putAll l).byte x = (v.setBytes a bs).byte x := by
  induction h generalizing v with
  | nil a =>
    rw [setBytes_byte, if_neg (by simp)]
    rfl
  | cons b _ ih =>
    rw [← setBytes_append]
    exact ih _

theorem Laid.append {a : Nat} {l m : List (Nat × List Byte)} {bs cs : List Byte} (h : Laid a l bs) (k : Laid (a + bs.length) m cs) :
    Laid a (l ++ m) (bs ++ cs) := by
  induction h with
  | nil a => exact k
  | cons b _ ih =>
    rw [List.append_assoc]
    exact .cons b (ih (by rwa [Nat.add_assoc, ← List.length_append]))

theorem Laid.single (a : Nat) (b : List Byte) : Laid a [(a, b)] b := by
  have h := Laid.cons (a := a) b (.nil _)
  rwa [List.append_nil] at h

theorem Laid.bytes {a : Nat} {l : List (Nat × List Byte)} {bs : List Byte} (h : Laid a l bs) (v : State) : (v.putAll l).bytes a bs.length = bs :=
  bytes_written fun x => h.put v x

theorem Laid.other {a : Nat} {l : List (Nat × List Byte)} {bs : List Byte} (h : Laid a l bs) (v : State) {x : Nat}
    (hx : x < a ∨ a + bs.length ≤ x) : (v.putAll l).byte x = v.byte x := by
  rw [h.put, setBytes_byte, if_neg (by omega)]

/-! ### Beats -/

theorem beat_before {n p i : Nat} (hp : 0 < p) (h : i < ceilDiv n p) : i * p < n := by
  have h1 : (i + 1) * p ≤ n + p - 1 := (Nat.le_div_iff_mul_le hp).mp h
  rw [Nat.add_mul] at h1
  omega

theorem le_beats {n p : Nat} (hp : 0 < p) : n ≤ ceilDiv n p * p := by
  have h := Nat.div_add_mod (n + p - 1) p
  have hm := Nat.mod_lt (n + p - 1) hp
  rw [Nat.mul_comm] at h
  unfold ceilDiv
  omega

/-- Beats of `p` bytes together make the whole. -/
theorem rowBeats_laid (a : Nat) {p : Nat} (hp : 0 < p) (f : List Byte) :
    Laid a ((rowBeats f.length p).map fun e => (a + e.2.1, (f.drop e.2.1).take e.2.2)) f := by
  have hpart : ∀ m, (∀ i, i < m → i * p < f.length) →
      Laid a (((upTo m).map fun i => (i, i * p, min p (f.length - i * p))).map fun e => (a + e.2.1, (f.drop e.2.1).take e.2.2))
        (f.take (m * p)) := by
    intro m
    induction m with
    | zero =>
      intro _
      rw [Nat.zero_mul]
      exact .nil a
    | succ m ih =>
      intro h
      have hm := h m (Nat.lt_succ_self m)
      have hlen : (f.take (m * p)).length = m * p := by
        rw [List.length_take]
        omega
      have htake : f.take ((m + 1) * p) = f.take (m * p) ++ (f.drop (m * p)).take (min p (f.length - m * p)) := by
        rw [Nat.succ_mul, List.take_add]
        congr 1
        rw [List.take_eq_take_iff, List.length_drop]
        omega
      rw [upTo, List.range_succ, List.map_append, List.map_append, htake]
      refine (ih fun i hi => h i (by omega)).append ?_
      rw [hlen]
      exact .single _ _
  have hall := hpart (ceilDiv f.length p) fun i hi => beat_before hp hi
  rwa [List.take_of_length_le (le_beats hp)] at hall

theorem Laid.flatten {a : Nat} {l : List (Nat × List Byte)} {bs : List Byte} (h : Laid a l bs) : (l.map (·.2)).flatten = bs := by
  induction h with
  | nil a => rfl
  | cons b _ ih => rw [List.map_cons, List.flatten_cons, ih]

theorem rowBytes_length (v : State) (a n : Nat) : (v.rowBytes a n).length = n := by
  rw [State.rowBytes, List.length_map, upTo, List.length_range]

/-- A part of the bytes of rows. -/
theorem rowBytes_part (v : State) (a : Nat) {n i k : Nat} (h : i + k ≤ n) : ((v.rowBytes a n).drop i).take k = v.rowBytes (a + i) k := by
  refine List.ext_getElem ?_ fun j h1 h2 => ?_
  · rw [List.length_take, List.length_drop, rowBytes_length, rowBytes_length]
    omega
  · simp [State.rowBytes, upTo, Nat.add_assoc]

theorem beat_within {n p : Nat} (hp : 0 < p) {e : Nat × Nat × Nat} (he : e ∈ rowBeats n p) : e.2.1 + e.2.2 ≤ n := by
  obtain ⟨i, hi, rfl⟩ := List.mem_map.mp he
  have := beat_before hp (List.mem_range.mp hi)
  dsimp only
  omega

/-! ### The writes of a ledger -/

/-- Acts that each make one write, whatever the flight of the word `w` has done before. -/
theorem fold_writes (v : State) (w : Word128) (h : Act → RowWrite) : ∀ (l : List (Nat × Act)) (y : Flight), y.word = w →
    (∀ e ∈ l, ∀ z : Flight, z.word = w → (z.act v e.2).writes = z.writes ++ [h e.2]) →
    (l.foldl (fun y e => y.act v e.2) y).writes = y.writes ++ l.map fun e => h e.2
  | [], y, _, _ => (List.append_nil _).symm
  | e :: l, y, hw, hl => by
    rw [List.foldl_cons, fold_writes v w h l _ ((act_word v y e.2).trans hw) fun d hd => hl d (List.mem_cons_of_mem e hd),
      hl e List.mem_cons_self y hw, List.append_assoc]
    rfl

theorem tileNew_eq {v : State} {x : Flight} {w : Word128} {l : List (Nat × Act)} (h : Act → RowWrite) (hw : x.word = w) (hl : x.ledger = l)
    (hall : ∀ e ∈ l, ∀ z : Flight, z.word = w → (z.act v e.2).writes = z.writes ++ [h e.2]) :
    v.tileNew x = l.flatMap fun e => (h e.2).data := by
  subst hl
  unfold State.tileNew
  rw [fold_writes v w h x.ledger { x with writes := [], capA := [], capB := [] } hw hall, List.nil_append, List.flatMap_map]

/-! ### Tile moves -/

/-- The write of a beat of a move. -/
def moveWrite (v : State) : Act → RowWrite
  | .beat a n da wait => { at_ := v.clk + wait, move := true, data := [(da, v.rowBytes a n)] }
  | .zero da n => { at_ := v.clk, move := true, data := [(da, List.replicate n 0)] }
  | _ => { at_ := 0 }

theorem moveBeats_laid (v : State) (x : Flight) {sa da wait n p : Nat} (hp : 0 < p)
    (hl : x.ledger = (rowBeats n p).map fun e => (2 + e.1, Act.beat (sa + e.2.1) e.2.2 (da + e.2.1) wait)) :
    Laid da (v.tileNew x) (v.rowBytes sa n) := by
  rw [tileNew_eq (moveWrite v) rfl hl fun e he z _ => by
    obtain ⟨b, -, rfl⟩ := List.mem_map.mp he
    rfl]
  have hlaid := rowBeats_laid da hp (v.rowBytes sa n)
  rw [rowBytes_length] at hlaid
  have hbeats : ((rowBeats n p).map fun e => (2 + e.1, Act.beat (sa + e.2.1) e.2.2 (da + e.2.1) wait)).flatMap
      (fun e => (moveWrite v e.2).data) = (rowBeats n p).map fun e => (da + e.2.1, ((v.rowBytes sa n).drop e.2.1).take e.2.2) := by
    rw [List.flatMap_map, List.map_eq_flatMap]
    refine List.flatMap_congr fun e he => ?_
    rw [rowBytes_part v sa (beat_within hp he)]
    rfl
  rw [hbeats]
  exact hlaid

theorem zeroBeats_laid (v : State) (x : Flight) {da n p : Nat} (hp : 0 < p)
    (hl : x.ledger = (rowBeats n p).map fun e => (2 + e.1, Act.zero (da + e.2.1) e.2.2)) :
    Laid da (v.tileNew x) (List.replicate n 0) := by
  rw [tileNew_eq (moveWrite v) rfl hl fun e he z _ => by
    obtain ⟨b, -, rfl⟩ := List.mem_map.mp he
    rfl]
  have hlaid := rowBeats_laid da hp (List.replicate n (0 : Byte))
  rw [List.length_replicate] at hlaid
  have hbeats : ((rowBeats n p).map fun e => (2 + e.1, Act.zero (da + e.2.1) e.2.2)).flatMap
      (fun e => (moveWrite v e.2).data) = (rowBeats n p).map fun e => (da + e.2.1, ((List.replicate n (0 : Byte)).drop e.2.1).take e.2.2) := by
    rw [List.flatMap_map, List.map_eq_flatMap]
    refine List.flatMap_congr fun e he => ?_
    have hin := beat_within hp he
    rw [List.drop_replicate, List.take_replicate, Nat.min_eq_left (by omega)]
    rfl
  rw [hbeats]
  exact hlaid

theorem portRate_pos (cls : Nat) : 0 < portRate cls := by
  unfold portRate
  split <;> decide

theorem movT_spec {p v : State} {j : Job} {x : Flight} {r : TileRun} {range : List (Nat × Nat)} (hw : x.ledger = r.ledger)
    (h : p.movT j = .ok (.tile r range)) :
    let w := j.word
    let da := rowAddr (fileClass (wFile w 0)) (wAux16 w % 32) (wRow w 0)
    (v.putAll (v.tileNew x)).bytes da (1024 * moveRows w) =
        v.rowBytes (rowAddr (fileClass (wFile w 1)) (wUnit w) (wRow w 1)) (1024 * moveRows w) ∧
      ∀ a, a < da ∨ da + 1024 * moveRows w ≤ a → (v.putAll (v.tileNew x)).byte a = v.byte a := by
  intro w da
  unfold State.movT at h
  obtain ⟨u, -, h⟩ := chk_bind h
  cases h
  have hlaid := moveBeats_laid v x (lt_min (portRate_pos _) (portRate_pos _)) hw
  rw [Nat.mul_comm] at hlaid
  have hb := hlaid.bytes v
  rw [rowBytes_length] at hb
  exact ⟨hb, fun a ha => hlaid.other v (by rwa [rowBytes_length])⟩

theorem movZ_spec {p v : State} {j : Job} {x : Flight} {r : TileRun} {range : List (Nat × Nat)} (hw : x.ledger = r.ledger)
    (h : p.movZ j = .ok (.tile r range)) :
    let w := j.word
    let da := rowAddr (fileClass (wFile w 0)) (wUnit w) (wRow w 0)
    (∀ k, k < 1024 * moveRows w → (v.putAll (v.tileNew x)).byte (da + k) = 0) ∧
      ∀ a, a < da ∨ da + 1024 * moveRows w ≤ a → (v.putAll (v.tileNew x)).byte a = v.byte a := by
  intro w da
  unfold State.movZ at h
  obtain ⟨u, -, h⟩ := chk_bind h
  cases h
  have hlaid : Laid da (v.tileNew x) (List.replicate (moveRows w * 1024) 0) := zeroBeats_laid v x (portRate_pos _) hw
  rw [Nat.mul_comm] at hlaid
  refine ⟨fun k hk => ?_, fun a ha => hlaid.other v (by rwa [List.length_replicate])⟩
  rw [hlaid.put, setBytes_byte, List.length_replicate, if_pos ⟨by omega, by omega⟩, Nat.add_sub_cancel_left]
  simp

end Sys2Proof.Machine
end

section
/-! PROOF. Elements of whole bytes in the rows of a tile (R116, R166). -/

namespace Sys2Proof.Machine

/-! ### Numbers and their bytes -/

theorem leNat_mod (l : List Byte) (c : Nat) : leNat l % 256 ^ c = leNat (l.take c) := by
  have hsplit : leNat l = leNat (l.take c) + 256 ^ (l.take c).length * leNat (l.drop c) := by
    rw [← leNat_append, List.take_append_drop]
  have hlt := leNat_lt (l.take c)
  by_cases h : c ≤ l.length
  · rw [List.length_take, Nat.min_eq_left h] at hsplit hlt
    rw [hsplit, Nat.add_mul_mod_self_left, Nat.mod_eq_of_lt hlt]
  · rw [List.take_of_length_le (by omega)] at hlt ⊢
    exact Nat.mod_eq_of_lt (hlt.trans_le (Nat.pow_le_pow_right (by decide) (by omega)))

/-- An element of `c` whole bytes is their number. -/
theorem getBits_whole (bs : List Byte) (k c : Nat) : getBits bs (k * (8 * c)) (8 * c) = leNat ((bs.drop (k * c)).take c) := by
  have hoff : k * (8 * c) / 8 = k * c ∧ k * (8 * c) % 8 = 0 := by
    rw [Nat.mul_left_comm]
    omega
  have hpow : 2 ^ (8 * c) = 256 ^ c := by rw [Nat.pow_mul]
  unfold getBits
  rw [hoff.1, hoff.2, Nat.pow_zero, Nat.div_one, hpow, leNat_mod, List.take_take, Nat.mul_div_cancel_left c (by decide),
    Nat.min_eq_left (by omega)]

theorem leBytes_add (c m x : Nat) : leBytes (c + m) x = leBytes c x ++ leBytes m (x / 256 ^ c) := by
  induction c generalizing x with
  | zero => simp [leBytes]
  | succ c ih =>
    rw [Nat.succ_add, leBytes, leBytes, ih, Nat.div_div_eq_div_mul, Nat.pow_succ']
    rfl

theorem leBytes_mod (c x : Nat) : leBytes c (x % 256 ^ c) = leBytes c x := by
  induction c generalizing x with
  | zero => rfl
  | succ c ih =>
    have hlow : BitVec.ofNat 8 (x % 256 ^ (c + 1)) = BitVec.ofNat 8 x := by
      refine BitVec.eq_of_toNat_eq ?_
      rw [BitVec.toNat_ofNat, BitVec.toNat_ofNat, Nat.pow_succ']
      exact Nat.mod_mul_right_mod x 256 (256 ^ c)
    rw [leBytes, leBytes, hlow, Nat.pow_succ', Nat.mod_mul_right_div_self, ih]

/-- A stream of values of `c` whole bytes. -/
theorem packBytes_whole (c : Nat) (vs : List Nat) : packBytes (8 * c) vs = vs.flatMap (leBytes c) := by
  have hpow : 2 ^ (8 * c) = 256 ^ c := by rw [Nat.pow_mul]
  have hpos : 0 < 256 ^ c := Nat.pow_pos (by decide)
  unfold packBytes
  have hlen : ceilDiv (8 * c * vs.length) 8 = c * vs.length := by
    unfold ceilDiv
    rw [Nat.mul_assoc]
    omega
  rw [hlen]
  induction vs with
  | nil => rfl
  | cons v vs ih =>
    have hih := ih (by unfold ceilDiv; rw [Nat.mul_assoc]; omega)
    have hlow := leBytes_mod c (v % 256 ^ c + 256 ^ c * packBits (8 * c) vs)
    rw [Nat.add_mul_mod_self_left, Nat.mod_mod, leBytes_mod] at hlow
    rw [packBits, hpow, List.length_cons, Nat.mul_succ, Nat.add_comm (c * vs.length), leBytes_add, ← hlow,
      Nat.add_mul_div_left _ _ hpos, Nat.div_eq_of_lt (Nat.mod_lt _ hpos), Nat.zero_add, hih, List.flatMap_cons]

/-! ### Blocks of one length -/

theorem blocks_length {n : Nat} {g : Nat → List Byte} (hg : ∀ i, (g i).length = n) (k : Nat) : ((upTo k).flatMap g).length = k * n := by
  induction k with
  | zero => simp [upTo]
  | succ k ih =>
    rw [upTo, List.range_succ, List.flatMap_append, List.length_append, ← upTo, ih, List.flatMap_singleton, hg, Nat.succ_mul]

/-- Block `i` of several of one length. -/
theorem blocks_part {n : Nat} {g : Nat → List Byte} (hg : ∀ i, (g i).length = n) {k i : Nat} (hi : i < k) :
    (((upTo k).flatMap g).drop (i * n)).take n = g i := by
  induction k with
  | zero => omega
  | succ k ih =>
    have hlen := blocks_length hg k
    rw [upTo, List.range_succ, List.flatMap_append, ← upTo, List.flatMap_singleton]
    by_cases h : i < k
    · have hin : i * n + n ≤ k * n := by
        rw [← Nat.succ_mul]
        exact Nat.mul_le_mul_right n h
      rw [List.drop_append_of_le_length (by omega), List.take_append_of_le_length (by rw [List.length_drop]; omega), ih h]
    · obtain rfl : i = k := by omega
      rw [← hlen, List.drop_left, List.take_of_length_le (by rw [hg])]

/-- Blocks laid one after the other. -/
theorem blocks_laid {n : Nat} {g : Nat → List Byte} (hg : ∀ i, (g i).length = n) (a k : Nat) :
    Laid a ((upTo k).map fun i => (a + i * n, g i)) ((upTo k).flatMap g) := by
  induction k with
  | zero => exact .nil a
  | succ k ih =>
    rw [upTo, List.range_succ, List.map_append, List.flatMap_append, ← upTo, List.flatMap_singleton]
    refine ih.append ?_
    rw [blocks_length hg]
    exact .single _ _

/-! ### The rows of a tile (R166) -/

/-- Zeros that fill the last row of `n` bytes. -/
def rowFill (n : Nat) : List Byte := if n % 1024 = 0 then [] else List.replicate (1024 - n % 1024) 0

theorem tailOf_laid (a n : Nat) : Laid (a + n) (tailOf a n) (rowFill n) := by
  unfold tailOf rowFill
  split
  · exact .nil _
  · exact .single _ _

theorem rowFill_length (n : Nat) : n + (rowFill n).length = 1024 * ceilDiv n 1024 := by
  unfold rowFill ceilDiv
  split
  · rw [List.length_nil]
    omega
  · rw [List.length_replicate]
    omega

/-- What is written after the last of `m` parts comes after all of them. -/
theorem flatMap_last {α : Type} (m : Nat) (g : Nat → List α) (t : List α) :
    ((upTo m).flatMap fun i => g i ++ if i + 1 = m then t else []) = (upTo m).flatMap g ++ if m = 0 then [] else t := by
  cases m with
  | zero => rfl
  | succ m =>
    rw [upTo, List.range_succ, List.flatMap_append, List.flatMap_append, List.flatMap_singleton, List.flatMap_singleton, if_pos rfl,
      if_neg (Nat.succ_ne_zero m), List.append_assoc]
    congr 1
    refine List.flatMap_congr fun i hi => ?_
    rw [if_neg (by have := List.mem_range.mp hi; omega), List.append_nil]

end Sys2Proof.Machine
end

section
/-! PROOF. The tile forms of tp.tile and perm.gather, element by element (R166, R195, R210, R230). -/

namespace Sys2Proof.Machine

/-! ### What the checks of a tile form say -/

theorem checkWord_elem {s : State} {j : Job} {sp : Spec} {u : Unit} (h : s.checkWord j sp = .ok u) : sp.elem = true := by
  unfold State.checkWord at h
  obtain ⟨-, -, h⟩ := chk_bind h
  obtain ⟨-, -, h⟩ := chk_bind h
  obtain ⟨-, -, h⟩ := chk_bind h
  obtain ⟨-, -, h⟩ := chk_bind h
  obtain ⟨-, -, h⟩ := chk_bind h
  obtain ⟨_, helem, _⟩ := chk_bind h
  exact (Bool.and_eq_true_iff.mp (need_ok helem)).2

theorem checkTile_run {s : State} {j : Job} {r : TileRun} {range : List (Nat × Nat)} (h : s.checkTile j = .ok (.tile r range)) :
    ∃ b, r = tileRun j.word b ∧ range = [(rowOf j.word 0, (tileRun j.word b).rows.getD 0 0 * 1024)] := by
  unfold State.checkTile at h
  obtain ⟨-, -, h⟩ := chk_bind h
  obtain ⟨-, -, h⟩ := chk_bind h
  obtain ⟨-, -, h⟩ := chk_bind h
  obtain ⟨-, -, h⟩ := chk_bind h
  obtain ⟨-, -, h⟩ := chk_bind h
  obtain ⟨-, -, h⟩ := chk_bind h
  obtain ⟨-, -, h⟩ := chk_bind h
  cases h
  exact ⟨_, rfl, rfl⟩

theorem tpTile_checked {p : State} {j : Job} {r : TileRun} {range : List (Nat × Nat)} (ht : wordTile j.word = true)
    (h : workOf 0x30 p j = .ok (.tile r range)) : wideElem (wElem j.word) = true ∧
      ∃ b, r = tileRun j.word b ∧ range = [(rowOf j.word 0, (tileRun j.word b).rows.getD 0 0 * 1024)] := by
  have hwork : p.engWork tpSpec State.tpDesc j = .ok (.tile r range) := h
  unfold State.engWork at hwork
  obtain ⟨_, hword, hwork⟩ := chk_bind hwork
  rw [if_pos ht] at hwork
  exact ⟨(Bool.and_eq_true_iff.mp (checkWord_elem hword)).1, checkTile_run hwork⟩

theorem gather_checked {p : State} {j : Job} {r : TileRun} {range : List (Nat × Nat)} (ho : wordOpc j.word = 0x21)
    (ht : wordTile j.word = true) (h : workOf 0x21 p j = .ok (.tile r range)) : wideElem (wElem j.word) = true ∧
      ∃ b, r = tileRun j.word b ∧ range = [(rowOf j.word 0, (tileRun j.word b).rows.getD 0 0 * 1024)] := by
  have hwork : p.fabWork State.fabGather j = .ok (.tile r range) := h
  unfold State.fabWork at hwork
  obtain ⟨_, hword, hwork⟩ := chk_bind hwork
  have helem := checkWord_elem hword
  rw [if_pos ht] at hwork
  refine ⟨?_, checkTile_run hwork⟩
  unfold fabSpec at helem
  dsimp only at helem
  rw [if_pos ht, if_neg (by rw [ho]; decide)] at helem
  exact helem

/-- The formats of the tile forms have whole bytes, and no shared scale. -/
theorem wideElem_whole {e : Nat} (h : wideElem e = true) : ∃ c, 0 < c ∧ elemBits e = 8 * c ∧ isMx e = false := by
  have he : e = 0x0A ∨ e = 0x0B ∨ e = 0x10 ∨ e = 0x11 ∨ e = 0x12 ∨ e = 0x13 ∨ e = 0x14 ∨ e = 0x20 ∨ e = 0x21 := by
    simp only [wideElem, isRaw, Bool.or_eq_true, Bool.and_eq_true, decide_eq_true_eq] at h
    omega
  rcases he with rfl | rfl | rfl | rfl | rfl | rfl | rfl | rfl | rfl
  · exact ⟨1, by decide, rfl, rfl⟩
  · exact ⟨1, by decide, rfl, rfl⟩
  · exact ⟨1, by decide, rfl, rfl⟩
  · exact ⟨1, by decide, rfl, rfl⟩
  · exact ⟨2, by decide, rfl, rfl⟩
  · exact ⟨2, by decide, rfl, rfl⟩
  · exact ⟨4, by decide, rfl, rfl⟩
  · exact ⟨2, by decide, rfl, rfl⟩
  · exact ⟨4, by decide, rfl, rfl⟩

theorem class_of_opc {w : Word128} {n : Nat} (h : wordOpc w = n) : wordClass w = n / 16 := by
  have hopc : w.toNat / 2 ^ 0 % 2 ^ 8 = n := h
  show w.toNat / 2 ^ 4 % 2 ^ 4 = n / 16
  omega

/-! ### Elements in rows -/

theorem getBits_rowBytes (v : State) (a : Nat) {i c n : Nat} (h : i * c + c ≤ n) :
    getBits (v.rowBytes a n) (i * (8 * c)) (8 * c) = leNat (v.rowBytes (a + i * c) c) := by
  rw [getBits_whole, rowBytes_part v a h]

theorem rowBytes_lt (v : State) (a c : Nat) : leNat (v.rowBytes a c) < 256 ^ c := by
  have h := leNat_lt (v.rowBytes a c)
  rwa [rowBytes_length] at h

/-- Element `k` of a stream of values, whatever follows it. -/
theorem getBits_stream {m c k : Nat} (h : Nat → Nat) (fill : List Byte) (hk : k < m) :
    getBits (((upTo m).flatMap fun i => leBytes c (h i)) ++ fill) (k * (8 * c)) (8 * c) = h k % 256 ^ c := by
  have hlen (i : Nat) : (leBytes c (h i)).length = c := leBytes_length c _
  have hall := blocks_length hlen m
  have hin : k * c + c ≤ m * c := by
    rw [← Nat.succ_mul]
    exact Nat.mul_le_mul_right c hk
  rw [getBits_whole, List.drop_append_of_le_length (by omega), List.take_append_of_le_length (by rw [List.length_drop]; omega),
    blocks_part hlen hk, leNat_leBytes]

/-! ### tp.tile (R230) -/

/-- Reads of a shape engine gather its source. -/
theorem fold_reads (v : State) (a : Nat) : ∀ (l : List (Nat × Nat × Nat)) (y : Flight),
    (l.map fun e => (2 + e.1, Act.read false (a + e.2.1) e.2.2)).foldl (fun y e => y.act v e.2) y =
      { y with capA := y.capA ++ l.flatMap fun e => v.rowBytes (a + e.2.1) e.2.2 }
  | [], y => by rw [List.flatMap_nil, List.append_nil]; rfl
  | e :: l, y => by
    rw [List.map_cons, List.foldl_cons, fold_reads v a l, List.flatMap_cons, ← List.append_assoc]
    rfl

theorem beats_rowBytes (v : State) (a n : Nat) {p : Nat} (hp : 0 < p) :
    ((rowBeats n p).flatMap fun e => v.rowBytes (a + e.2.1) e.2.2) = v.rowBytes a n := by
  have hflat := (rowBeats_laid a hp (v.rowBytes a n)).flatten
  rw [rowBytes_length, List.map_map] at hflat
  rw [← hflat, List.flatMap_def]
  congr 1
  refine List.map_congr_left fun e he => ?_
  exact (rowBytes_part v a (beat_within hp he)).symm

/-- What follows the last beat follows all of them. -/
theorem lastBeat_flatMap {n p a : Nat} (hp : 0 < p) (g : Nat × Nat × Nat → Nat × List Byte) :
    ((rowBeats n p).flatMap fun e => g e :: if e.2.1 + e.2.2 = n then tailOf a n else []) = (rowBeats n p).map g ++ tailOf a n := by
  have hlast {i : Nat} (hi : i < ceilDiv n p) : i * p + min p (n - i * p) = n ↔ i + 1 = ceilDiv n p := by
    have hbefore := beat_before hp hi
    constructor
    · intro h
      by_contra hne
      have hnext := beat_before (n := n) (i := i + 1) hp (by omega)
      rw [Nat.succ_mul] at hnext
      omega
    · intro h
      have hle := le_beats (n := n) hp
      rw [← h, Nat.succ_mul] at hle
      omega
  have hbeats : ((rowBeats n p).flatMap fun e => g e :: if e.2.1 + e.2.2 = n then tailOf a n else []) =
      (upTo (ceilDiv n p)).flatMap fun i => [g (i, i * p, min p (n - i * p))] ++ if i + 1 = ceilDiv n p then tailOf a n else [] := by
    unfold rowBeats
    rw [List.flatMap_map]
    refine List.flatMap_congr fun i hi => ?_
    rw [← if_congr (hlast (List.mem_range.mp hi)) rfl rfl]
    rfl
  rw [hbeats, flatMap_last, ← List.map_eq_flatMap, rowBeats, List.map_map]
  refine congrArg _ ?_
  split
  · have hle := le_beats (n := n) hp
    obtain rfl : n = 0 := by simp_all
    rfl
  · rfl

/-- What a shape engine writes: its output, and zeros to the end of the last row. -/
theorem shapeWrites_laid (w : Word128) (a b : List Byte) {n : Nat} (c : Nat) (hn : (shapeOut w a b).bytes.length ≤ n) :
    Laid (rowOf w 0) ((shapeWrites w a b n c).flatMap (·.data))
      ((shapeOut w a b).bytes ++ rowFill (shapeOut w a b).bytes.length) := by
  have hp := portRate_pos (wordClass w)
  unfold shapeWrites
  dsimp only
  rw [List.take_of_length_le hn, List.flatMap_map]
  generalize (shapeOut w a b).bytes = bs
  rw [lastBeat_flatMap hp fun e => (rowOf w 0 + e.2.1, (bs.drop e.2.1).take e.2.2)]
  exact (rowBeats_laid (rowOf w 0) hp bs).append (tailOf_laid _ _)

end Sys2Proof.Machine
end

section
/-! PROOF. tp.tile: element (x, y) of the destination is element (y, x) of the source (R230). -/

namespace Sys2Proof.Machine

/-- What a shape engine without a parameter block writes in an uninterrupted run on the rows of `v`. -/
theorem tileNew_shape {v : State} {x : Flight} {b : List Byte} {d n : Nat} (hc : wordClass x.word ≠ 4)
    (hl : x.ledger = (shapeTile x.word b).ledger) (hr : x.range = [(d, n)]) :
    v.tileNew x = (shapeWrites x.word (v.rowBytes (rowOf x.word 1) (shapeIn x.word)) [] n v.clk).flatMap (·.data) := by
  have hledger : x.ledger = ((rowBeats (shapeIn x.word) (portRate (wordClass x.word))).map fun e =>
      (2 + e.1, Act.read false (rowOf x.word 1 + e.2.1) e.2.2)) ++
        [(1 + (rowBeats (shapeIn x.word) (portRate (wordClass x.word))).length, .run)] := by
    rw [hl]
    unfold shapeTile
    dsimp only
    rw [if_neg hc, List.nil_append]
  unfold State.tileNew
  rw [hledger, List.foldl_append, fold_reads, beats_rowBytes v _ _ (portRate_pos _), List.foldl_cons, List.foldl_nil, Flight.act]
  dsimp only
  rw [hr]
  rfl

/-- A tile of `m` elements of `c` whole bytes. -/
theorem tileBits_whole {e c m : Nat} (he : elemBits e = 8 * c) (hmx : isMx e = false) : tileBits e m = 8 * (m * c) := by
  unfold tileBits
  rw [hmx, he, if_neg Bool.false_ne_true, Nat.add_zero, Nat.mul_left_comm]

theorem tileBytes_whole {e c m : Nat} (he : elemBits e = 8 * c) (hmx : isMx e = false) : tileBytes e m = m * c := by
  unfold tileBytes
  rw [tileBits_whole he hmx, ceilDiv]
  omega

theorem tileRows_whole {e c m : Nat} (he : elemBits e = 8 * c) (hmx : isMx e = false) :
    tileRows (tileBits e m) = ceilDiv (m * c) 1024 := by
  unfold tileRows
  rw [tileBits_whole he hmx, ceilDiv, ceilDiv]
  omega

/-- The bytes that tp.tile writes (R230). -/
theorem tpTile_bytes {w : Word128} (b a : List Byte) {c : Nat} (ho : wordOpc w = 0x30) (he : elemBits (wElem w) = 8 * c) :
    (shapeOut w a b).bytes = (upTo (wD0 w * wD1 w)).flatMap fun k =>
      leBytes c (getBits a ((k % wD1 w * wD0 w + k / wD1 w) * (8 * c)) (8 * c)) := by
  unfold shapeOut
  simp only [ho]
  rw [moveTile, he, packBytes_whole, List.flatMap_map]

/-- The transpose of a tile of `c`-byte elements in the rows of `v` (R230). -/
def transposed (v : State) (w : Word128) (c : Nat) : List Byte :=
  (upTo (wD0 w * wD1 w)).flatMap fun k =>
    leBytes c (getBits (v.rowBytes (rowOf w 1) (wD0 w * wD1 w * c)) ((k % wD1 w * wD0 w + k / wD1 w) * (8 * c)) (8 * c))

theorem transposed_length (v : State) (w : Word128) (c : Nat) : (transposed v w c).length = wD0 w * wD1 w * c :=
  blocks_length (fun _ => leBytes_length c _) _

theorem tpTile_laid (v : State) {x : Flight} {b : List Byte} {w : Word128} {c : Nat} (hw : x.word = w) (ho : wordOpc w = 0x30)
    (he : elemBits (wElem w) = 8 * c) (hmx : isMx (wElem w) = false) (hl : x.ledger = (tileRun w b).ledger)
    (hr : x.range = [(rowOf w 0, (tileRun w b).rows.getD 0 0 * 1024)]) :
    Laid (rowOf w 0) (v.tileNew x) (transposed v w c ++ rowFill (wD0 w * wD1 w * c)) := by
  subst hw
  have hcls : wordClass x.word = 3 := class_of_opc ho
  have hrun : tileRun x.word b = shapeTile x.word b := by
    unfold tileRun
    simp only [hcls]
  have hin : shapeIn x.word = wD0 x.word * wD1 x.word * c := by
    unfold shapeIn
    simp only [ho]
    exact tileBytes_whole he hmx
  have hrows : (tileRun x.word b).rows.getD 0 0 = ceilDiv (wD0 x.word * wD1 x.word * c) 1024 := by
    have hlen : shapeLen x.word b = shapeIn x.word := by
      unfold shapeLen
      simp only [ho]
    rw [hrun, ← hin, ← hlen]
    rfl
  have hout : (shapeOut x.word (v.rowBytes (rowOf x.word 1) (shapeIn x.word)) []).bytes = transposed v x.word c := by
    rw [tpTile_bytes _ _ ho he, hin]
    rfl
  rw [tileNew_shape (by rw [hcls]; decide) (hrun ▸ hl) hr, ← transposed_length v, ← hout]
  refine shapeWrites_laid _ _ _ _ ?_
  rw [hout, transposed_length, hrows]
  exact le_beats (by decide)

/-- An element's place in the transposed tile. -/
theorem transpose_place {d0 d1 y z : Nat} (hy : y < d1) (hz : z < d0) :
    z * d1 + y < d0 * d1 ∧ (z * d1 + y) % d1 = y ∧ (z * d1 + y) / d1 = z := by
  refine ⟨?_, ?_, ?_⟩
  · have := Nat.mul_le_mul_right d1 (Nat.succ_le_of_lt hz)
    rw [Nat.succ_mul] at this
    omega
  · rw [Nat.mul_comm, Nat.mul_add_mod, Nat.mod_eq_of_lt hy]
  · rw [Nat.mul_comm, Nat.mul_add_div (by omega), Nat.div_eq_of_lt hy, Nat.add_zero]

/-- An element whose number is in the tile lies in its bytes. -/
theorem element_within {i m : Nat} (c : Nat) (h : i < m) : i * c + c ≤ m * c := by
  rw [← Nat.succ_mul]
  exact Nat.mul_le_mul_right c h

theorem tpTile_spec {p v : State} {j : Job} {x : Flight} {r : TileRun} {range : List (Nat × Nat)} (hw : x.word = j.word)
    (hl : x.ledger = r.ledger) (hr : x.range = range) (ho : wordOpc j.word = 0x30) (ht : wordTile j.word = true)
    (h : workOf 0x30 p j = .ok (.tile r range)) :
    let w := j.word
    let e := elemBits (wElem w)
    let n := tileRows (tileBits (wElem w) (wD0 w * wD1 w))
    (∀ a b, a < wD1 w → b < wD0 w →
        getBits ((v.putAll (v.tileNew x)).bytes (rowOf w 0) (1024 * n)) ((b * wD1 w + a) * e) e =
          getBits (v.rowBytes (rowOf w 1) (1024 * n)) ((a * wD0 w + b) * e) e) ∧
      ∀ a, a < rowOf w 0 ∨ rowOf w 0 + 1024 * n ≤ a → (v.putAll (v.tileNew x)).byte a = v.byte a := by
  dsimp only
  obtain ⟨hwide, b, rfl, rfl⟩ := tpTile_checked ht h
  obtain ⟨c, -, he, hmx⟩ := wideElem_whole hwide
  generalize j.word = w at *
  have hlaid := tpTile_laid v hw ho he hmx hl hr
  have hlen : (transposed v w c ++ rowFill (wD0 w * wD1 w * c)).length = 1024 * ceilDiv (wD0 w * wD1 w * c) 1024 := by
    rw [List.length_append, transposed_length, rowFill_length]
  rw [tileRows_whole he hmx, ← hlen]
  refine ⟨fun y z hy hz => ?_, fun a ha => hlaid.other v ha⟩
  obtain ⟨hk, hmod, hdiv⟩ := transpose_place hy hz
  have hsrc := element_within c (transpose_place hz hy).1
  rw [Nat.mul_comm (wD1 w)] at hsrc
  have hrows : wD0 w * wD1 w * c ≤ (transposed v w c ++ rowFill (wD0 w * wD1 w * c)).length := by
    rw [List.length_append, transposed_length]
    exact Nat.le_add_right ..
  rw [hlaid.bytes v, he, getBits_rowBytes v _ (hsrc.trans hrows), transposed, getBits_stream _ _ hk, hmod, hdiv,
    getBits_rowBytes v _ hsrc, Nat.mod_eq_of_lt (rowBytes_lt v _ c)]

end Sys2Proof.Machine
end

section
/-! PROOF. perm.gather: each lane takes the lane that its index names (R195, R210). -/

namespace Sys2Proof.Machine

/-! ### A map with the plain options -/

theorem plainOptions {w : Word128} (h : wOpx w = 0) : unitsPerMap w = wD0 w ∧ grp w = 0 ∧ ixw w = false ∧ perseg w = false := by
  unfold unitsPerMap grp ixw perseg
  rw [h]
  simp

/-- What lane `l` of row `m` takes. -/
def gatherLane (v : State) (w : Word128) (c m l : Nat) : Nat :=
  let i := (v.rowByte (rowOf w 2 + l)).toNat
  if i < wD0 w then leNat (v.rowBytes (rowOf w 1 + (m * wD0 w + i) * c) c) else 0

theorem gatherLane_lt (v : State) (w : Word128) (c m l : Nat) : gatherLane v w c m l < 256 ^ c := by
  unfold gatherLane
  dsimp only
  split
  · exact rowBytes_lt v _ c
  · exact Nat.pow_pos (by decide)

/-- Row `m` of the gather. -/
def gatherRow (v : State) (w : Word128) (c m : Nat) : List Byte := (upTo (wD0 w)).flatMap fun l => leBytes c (gatherLane v w c m l)

theorem gatherRow_length (v : State) (w : Word128) (c m : Nat) : (gatherRow v w c m).length = wD0 w * c :=
  blocks_length (fun _ => leBytes_length c _) _

/-- An index of one byte. -/
theorem bnum_rowBytes (v : State) (a : Nat) {i n : Nat} (h : i < n) : bnum (v.rowBytes a n) i 1 = (v.rowByte (a + i)).toNat := by
  rw [bnum, rowBytes_part v a h]
  simp [State.rowBytes, upTo, leNat]

/-- The lanes of a map (R195). -/
theorem tileMap_gather (v : State) {w : Word128} {c m : Nat} (ho : wordOpc w = 0x21) (hopx : wOpx w = 0) (he : elemBits (wElem w) = 8 * c) :
    let t := tileMap w (v.rowBytes (rowOf w 1 + m * (wD0 w * c)) (wD0 w * c)) (v.rowBytes (rowOf w 2) (wD0 w))
    t.fault = 0 ∧ t.lanes = (upTo (wD0 w)).map fun l => some (gatherLane v w c m l) := by
  obtain ⟨hunits, hgrp, hixw, -⟩ := plainOptions hopx
  unfold tileMap
  simp only [ho, hgrp, hunits, he, gatherMap, idxOf, hixw, Nat.pow_zero, Nat.mul_one]
  refine ⟨rfl, ?_⟩
  simp only [if_neg (show ¬ (0x21 : Nat) = 0x26 by decide), if_pos (show (0x21 : Nat) ≤ 0x21 by decide), Bool.false_eq_true, if_false,
    List.map_map]
  refine List.map_congr_left fun l hl => ?_
  have hl : l < wD0 w := List.mem_range.mp hl
  rw [Function.comp_apply, bnum_rowBytes v _ hl]
  unfold gatherLane
  dsimp only
  generalize (v.rowByte (rowOf w 2 + l)).toNat = i
  split
  case isTrue hi =>
    rw [List.getD_eq_getElem _ _ (by simpa [upTo] using hi)]
    simp only [List.getElem_map, upTo, List.getElem_range]
    rw [getBits_rowBytes v _ (element_within c hi), Nat.add_mul, Nat.mul_assoc, Nat.add_assoc]
  case isFalse hi => rw [List.getD_eq_default _ _ (by simpa [upTo] using hi)]

theorem laneBytes_some (c : Nat) (l : List Nat) (h : Nat → Nat) :
    laneBytes (8 * c) (l.map fun i => some (h i)) = (l.flatMap fun i => leBytes c (h i)).map some := by
  unfold laneBytes
  rw [List.flatMap_map, List.map_flatMap, Nat.mul_div_cancel_left c (by decide)]

theorem mapBytes_whole {w : Word128} {c : Nat} (he : elemBits (wElem w) = 8 * c) : mapBytes w = wD0 w * c := by
  rw [mapBytes, he, Nat.mul_left_comm, Nat.mul_div_cancel_left _ (by decide)]

/-- The write-back of a map. -/
theorem mapWrite_gather (v : State) {w : Word128} {c m : Nat} (ho : wordOpc w = 0x21) (hopx : wOpx w = 0) (hc : 0 < c)
    (he : elemBits (wElem w) = 8 * c) :
    (mapWrite w m v.clk (tileMap w (v.rowBytes (rowOf w 1 + m * (wD0 w * c)) (wD0 w * c)) (v.rowBytes (rowOf w 2) (wD0 w)))).data =
      [(rowOf w 0 + m * (wD0 w * c), gatherRow v w c m)] ++ if m + 1 = wD1 w then tailOf (rowOf w 0) (wD1 w * (wD0 w * c)) else [] := by
  obtain ⟨hfault, hlanes⟩ := tileMap_gather v (m := m) ho hopx he
  have hne : gatherRow v w c m ≠ [] := by
    intro h
    have hlen := gatherRow_length v w c m
    rw [h] at hlen
    have hpos : 0 < wD0 w * c := Nat.mul_pos (Nat.succ_pos _) hc
    exact absurd hlen (Nat.ne_of_lt hpos)
  unfold mapWrite
  dsimp only
  rw [hfault, if_neg (by decide)]
  dsimp only
  rw [hlanes, mapBytes_whole he, (plainOptions hopx).2.1, he, Nat.pow_zero, Nat.mul_one, laneBytes_some, ← gatherRow, runs_solid,
    if_neg hne, Nat.mul_comm (wD0 w * c)]

/-! ### The whole ledger -/

/-- What an act of a fabric ledger writes. -/
def fabWrite (v : State) (w : Word128) : Act → RowWrite
  | .map r a na b nb => mapWrite w r v.clk (tileMap w (v.rowBytes a na) (v.rowBytes b nb))
  | _ => { at_ := 0 }

/-- The rows of a gather's destination. -/
def gathered (v : State) (w : Word128) (c : Nat) : List Byte := (upTo (wD1 w)).flatMap (gatherRow v w c)

theorem gathered_length (v : State) (w : Word128) (c : Nat) : (gathered v w c).length = wD1 w * (wD0 w * c) :=
  blocks_length (gatherRow_length v w c) _

theorem gather_laid (v : State) {x : Flight} {b : List Byte} {w : Word128} {c : Nat} (hw : x.word = w) (ho : wordOpc w = 0x21)
    (hopx : wOpx w = 0) (hc : 0 < c) (he : elemBits (wElem w) = 8 * c) (hl : x.ledger = (tileRun w b).ledger) :
    Laid (rowOf w 0) (v.tileNew x) (gathered v w c ++ rowFill (wD1 w * (wD0 w * c))) := by
  obtain ⟨hunits, -, hixw, hperseg⟩ := plainOptions hopx
  have hcls : wordClass w = 2 := class_of_opc ho
  have hidx : mapIdx w = wD0 w := by
    unfold mapIdx
    rw [ho, hixw, hunits, if_neg (by decide), if_neg Bool.false_ne_true, Nat.mul_one]
  have hledger : x.ledger = (upTo (wD1 w)).map fun m =>
      (2 + m * fabII w, Act.map m (rowOf w 1 + m * (wD0 w * c)) (wD0 w * c) (rowOf w 2) (wD0 w)) := by
    rw [hl]
    unfold tileRun fabTile
    simp only [hcls, mapBytes_whole he, hidx, hperseg, Bool.false_eq_true, if_false, Nat.add_zero]
  have hnew := tileNew_eq (v := v) (fabWrite v w) hw hledger fun e he z hz => by
    obtain ⟨m, -, rfl⟩ := List.mem_map.mp he
    rw [Flight.act, hz]
    rfl
  have hdata : v.tileNew x = ((upTo (wD1 w)).map fun m => (rowOf w 0 + m * (wD0 w * c), gatherRow v w c m)) ++
      tailOf (rowOf w 0) (wD1 w * (wD0 w * c)) := by
    rw [hnew, List.flatMap_map, List.map_eq_flatMap]
    have hd1 : wD1 w ≠ 0 := Nat.succ_ne_zero _
    have hlast := flatMap_last (wD1 w) (fun m => [(rowOf w 0 + m * (wD0 w * c), gatherRow v w c m)]) (tailOf (rowOf w 0) (wD1 w * (wD0 w * c)))
    rw [if_neg hd1] at hlast
    rw [← hlast]
    exact List.flatMap_congr fun m _ => mapWrite_gather v ho hopx hc he
  rw [hdata]
  refine (blocks_laid (gatherRow_length v w c) _ _).append ?_
  rw [← gathered, gathered_length]
  exact tailOf_laid _ _

/-- Part of a part. -/
theorem drop_take_part {α : Type} (l : List α) {i j n k : Nat} (h : j + k ≤ n) : (((l.drop i).take n).drop j).take k = (l.drop (i + j)).take k := by
  rw [List.drop_take, List.take_take, List.drop_drop, Nat.min_eq_left (by omega)]

/-- Element `l` of row `m`. -/
theorem getBits_gathered (v : State) (w : Word128) (c : Nat) (fill : List Byte) {m l : Nat} (hm : m < wD1 w) (hl : l < wD0 w) :
    getBits (gathered v w c ++ fill) ((m * wD0 w + l) * (8 * c)) (8 * c) = gatherLane v w c m l := by
  have hin := element_within c hl
  have hrow : ((gathered v w c ++ fill).drop (m * (wD0 w * c))).take (wD0 w * c) = gatherRow v w c m := by
    have hrows := element_within (wD0 w * c) hm
    have hlen := gathered_length v w c
    rw [List.drop_append_of_le_length (by omega), List.take_append_of_le_length (by rw [List.length_drop]; omega)]
    exact blocks_part (gatherRow_length v w c) hm
  rw [getBits_whole, Nat.add_mul, Nat.mul_assoc, ← drop_take_part _ hin, hrow, gatherRow,
    blocks_part (fun _ => leBytes_length c _) hl, leNat_leBytes, Nat.mod_eq_of_lt (gatherLane_lt v w c m l)]

theorem gather_spec {p v : State} {j : Job} {x : Flight} {r : TileRun} {range : List (Nat × Nat)} (hw : x.word = j.word)
    (hl : x.ledger = r.ledger) (ho : wordOpc j.word = 0x21) (ht : wordTile j.word = true) (hopx : wOpx j.word = 0)
    (h : workOf 0x21 p j = .ok (.tile r range)) :
    let w := j.word
    let e := elemBits (wElem w)
    let n := tileRows (tileBits (wElem w) (wD0 w * wD1 w))
    (∀ m l, m < wD1 w → l < wD0 w →
        let i := (v.rowByte (rowOf w 2 + l)).toNat
        getBits ((v.putAll (v.tileNew x)).bytes (rowOf w 0) (1024 * n)) ((m * wD0 w + l) * e) e =
          if i < wD0 w then getBits (v.rowBytes (rowOf w 1) (1024 * n)) ((m * wD0 w + i) * e) e else 0) ∧
      ∀ a, a < rowOf w 0 ∨ rowOf w 0 + 1024 * n ≤ a → (v.putAll (v.tileNew x)).byte a = v.byte a := by
  dsimp only
  obtain ⟨hwide, b, rfl, -⟩ := gather_checked ho ht h
  obtain ⟨c, hc, he, hmx⟩ := wideElem_whole hwide
  generalize j.word = w at *
  have hlaid := gather_laid v hw ho hopx hc he hl
  have hlen : (gathered v w c ++ rowFill (wD1 w * (wD0 w * c))).length = 1024 * ceilDiv (wD0 w * wD1 w * c) 1024 := by
    rw [List.length_append, gathered_length, rowFill_length, Nat.mul_left_comm, Nat.mul_assoc]
  rw [tileRows_whole he hmx, ← hlen]
  refine ⟨fun m l hm hl => ?_, fun a ha => hlaid.other v ha⟩
  have hrows : wD1 w * wD0 w * c ≤ (gathered v w c ++ rowFill (wD1 w * (wD0 w * c))).length := by
    rw [List.length_append, gathered_length, Nat.mul_assoc]
    exact Nat.le_add_right ..
  rw [hlaid.bytes v, he, getBits_gathered v w c _ hm hl]
  unfold gatherLane
  dsimp only
  refine ite_congr rfl (fun hi => ?_) fun _ => rfl
  exact (getBits_rowBytes v _ ((element_within c (transpose_place hi hm).1).trans hrows)).symm

/-- Settles O56, from the acts and writes of a ledger, and the rows that each form writes. -/
theorem tileForms : Obligations.TileForms := by
  unfold Obligations.TileForms
  refine ⟨⟨fun s v k x hx h => doActs_spec v hx h, fun s k a x r bs hx hw hat hdata hne hc ha hrow =>
    doWrites_spec hx hw hat hdata hne hc ha hrow⟩, fun p v j x r range hw hl hr => ?_⟩
  exact ⟨movT_spec hl, movZ_spec hl, tpTile_spec hw hl hr, gather_spec hw hl⟩

end Sys2Proof.Machine
end
